-- ==== Sys2Proof/Word.lean ====
section
/-! DEFINITION. The words of the machine and their plainest arithmetic (spec/00_scope.md R3, spec/03_encoding.md R26 to R28). -/

namespace Sys2Proof

/-- A byte of memory. -/
abbrev Byte := BitVec 8

/-- A 32-bit word: an instruction word, or one lane of a vector register (R26, R28). -/
abbrev Word := BitVec 32

/-- A 64-bit value: a scalar register, a virtual address, a program counter (R28, R98). -/
abbrev DWord := BitVec 64

/-- The two's-complement bit string of width `w` that holds `x` modulo 2^w. -/
def ofInt (w : Nat) (x : Int) : BitVec w := BitVec.ofInt w x

/-- One bit as a number. -/
def b2n (b : Bool) : Nat := if b then 1 else 0

/-- Lane sets are 8 bits, bit `l` for lane `l`. -/
abbrev Mask := BitVec 8

/-- The lane set of a predicate over lanes 0 to 7. -/
def maskOf (f : Nat → Bool) : Mask :=
  BitVec.ofNat 8 (b2n (f 0) + 2 * b2n (f 1) + 4 * b2n (f 2) + 8 * b2n (f 3)
    + 16 * b2n (f 4) + 32 * b2n (f 5) + 64 * b2n (f 6) + 128 * b2n (f 7))

/-- Eight things, one for each lane of a path (R28). -/
structure L8 (α : Type) where
  l0 : α
  l1 : α
  l2 : α
  l3 : α
  l4 : α
  l5 : α
  l6 : α
  l7 : α
deriving DecidableEq, Repr

/-- The eight values of a function of the lane. -/
def L8.ofFn {α : Type} (f : Nat → α) : L8 α := ⟨f 0, f 1, f 2, f 3, f 4, f 5, f 6, f 7⟩

/-- The value of lane `l`; lane numbers above 7 are not used. -/
def L8.get {α : Type} (x : L8 α) : Nat → α
  | 0 => x.l0
  | 1 => x.l1
  | 2 => x.l2
  | 3 => x.l3
  | 4 => x.l4
  | 5 => x.l5
  | 6 => x.l6
  | _ => x.l7

/-- The same value in every lane. -/
def L8.rep {α : Type} (x : α) : L8 α := ⟨x, x, x, x, x, x, x, x⟩

/-- The lane numbers in ascending order. -/
def lanes8 : List Nat := [0, 1, 2, 3, 4, 5, 6, 7]

/-- Rounds `x` up to a multiple of `m`. -/
def roundUp (x m : Nat) : Nat := (x + m - 1) / m * m

/-- Division rounded up. -/
def ceilDiv (x m : Nat) : Nat := (x + m - 1) / m

/-- Two byte ranges (base and length) share a byte. -/
def overlaps (a n b m : Nat) : Bool := decide (a < b + m) && decide (b < a + n)

end Sys2Proof
end

