-- ==== Sys2Proof/Config.lean ====
section
/-! DEFINITION. What one implementation fixes and the manual leaves open. Nothing here has a body that a proof can see, except the names of fixed sizes. -/

namespace Sys2Proof.Config

/-- The choice that VFRSQ, VFEXP2 and VFLOG2 make among the values within 1 unit in the last place (R262): a fixed function of the operation (0, 1, 2), the input bits and MODE.ET, RND, SAT and FTZ. A free value, log entry 6. -/
opaque ulpPick (op : Nat) (bits : BitVec 64) (et rnd : Nat) (sat ftz : Bool) : Nat

/-- The check of the ECDSA P-384 signature of a configuration copy against the key in the mask ROM (R21, R22). A free value, log entry 9. -/
opaque signatureOk (copy : List Byte) : Bool

/-- The projected days that the least-squares line of R221 leaves open: of a line that never comes to its limit, and the rounding of a crossing between two days. A free value, log entry 12. -/
opaque projectedDays (component : Nat) (samples : List Nat) : BitVec 16

/-- The level, modulo 6, at which a load is charged that none of the levels of R218 serves: one whose data comes from the host or a peer, or one without a lane. A free value, log entry 21. -/
opaque unservedLevel : Nat

/-- Which of the free job slots of an engine a command takes, counted modulo their number (R154). A free value, log entry 22. -/
opaque jobSlot (n : Nat) : Nat

/-- The proofs that an error record of a time-out holds, where no chunk came (R182). A free value, log entry 23. -/
opaque timeoutProof (n : Nat) : BitVec 64

/-- What MCERR.UECNT of a stack that fails its training reads: the manual says that it reports the failure, not how (R224). A free value, log entry 92. -/
opaque trainingReport (stack : Nat) : BitVec 16

/-- A byte of a frame slot that the device has written: what the bytes of a frame hold is not given (R74, R75). A free value, log entry 10. -/
opaque frameByte (stamp i : Nat) : BitVec 8

/-- A byte of the configuration flash that a failure of power left partly erased or programmed (R25). A free value, log entry 27. -/
opaque tornByte (stamp i : Nat) : BitVec 8

end Sys2Proof.Config
end

