-- ==== Sys2Proof/Syntax.lean ====
section
/-! DEFINITION. The instructions and the events of the machine: one constructor for each row of spec/opcode_table.json. The operands of an instruction are the fields of its word and of its prefix, after decoding (spec/03_encoding.md). The operands of an event name the record it acts on, or carry what the outside world supplies. -/

namespace Sys2Proof

/-- An 8-bit immediate in field C, or a 32-bit immediate with an IMM prefix (R29, R30). -/
inductive Imm where
  | short (c : BitVec 8)
  | long (w : BitVec 32)
deriving DecidableEq, Repr

/-- The constant of SLI: B:C, or a 32-bit value with IMM (R232). -/
inductive SliImm where
  | short (v : BitVec 16)
  | long (w : BitVec 32)
deriving DecidableEq, Repr

/-- The second source of a vector binary instruction (R253). -/
inductive Opnd where
  | reg (vb : BitVec 8)
  | scal (sb : BitVec 6)
  | imm8 (c : BitVec 8)
  | imm32 (w : BitVec 32)
deriving DecidableEq, Repr

/-- Conditions of SCMP (R40). -/
inductive SCond where
  | eq | ne | lt | le | gt | ge | ltu | leu | gtu | geu
deriving DecidableEq, Repr

/-- Conditions of BRS (R38). -/
inductive BCond where
  | zero | nonzero | neg | nonneg
deriving DecidableEq, Repr

/-- Conditions of VCMP (R42). -/
inductive VCond where
  | eq | ne | lt | le | gt | ge
deriving DecidableEq, Repr

/-- Conditions of VFCMP (R42). -/
inductive FCond where
  | eq | ne | lt | le | gt | ge | un | ordered
deriving DecidableEq, Repr

/-- Widths of a memory access (R276). -/
inductive Width where
  | b | h | w | d | q
deriving DecidableEq, Repr

/-- The fields that SETMODE.f writes (R39). -/
inductive ModeField where
  | guard | et | rnd | gsp | guse | sat | ftz | tid
deriving DecidableEq, Repr

/-- The in-flight counters of a block (R72). -/
inductive Path where
  | ld | sc | cp | st
deriving DecidableEq, Repr

/-- Scopes, with the group index of scope .g (R32). -/
inductive Scope where
  | w | b | g (gi : BitVec 8) | d | v | s
deriving DecidableEq, Repr

/-- Orders of an atomic (R32). -/
inductive Order where
  | rlx | acq | rel | ar
deriving DecidableEq, Repr

/-- The EXT word of an atomic: its scope and its order (R289). -/
structure AMod where
  scope : Scope
  order : Order
deriving DecidableEq, Repr

/-- Kinds of FENCE (R44). -/
inductive FenceKind where
  | acq | rel | ar | sc
deriving DecidableEq, Repr

/-- Operations of VRED and VSCAN (R42). -/
inductive RedOp where
  | add | min | max | and | or | xor
deriving DecidableEq, Repr

/-- Operations of ARED (R43). -/
inductive AredOp where
  | add | min | max | and | or | xor | fadd
deriving DecidableEq, Repr

/-- What a peer asks for (R207): an atomic names its operation (R289), whether it compares signed, and its compare word. -/
inductive PeerOp where
  | read | write
  | atomic (op : Nat) (sg : Bool) (cmp : BitVec 32)
  | ared (op : AredOp) (sg : Bool)
deriving DecidableEq, Repr

/-- Patterns of VSHUF (R42). -/
inductive Shuf where
  | x1 | x2 | x4 | rev
deriving DecidableEq, Repr

/-- Kinds of PTEST (R41). -/
inductive PKind where
  | mask | any | all | count
deriving DecidableEq, Repr

/-- Page classes of PCLASS (R44). -/
inductive PClass where
  | priv | ro | shared
deriving DecidableEq, Repr

/-- Element types named in a word, codes 0 to 12 (R36). -/
inductive ETy where
  | si32 | ui32 | f32 | f16 | bf16 | si16 | ui16 | e4m3 | e5m2 | si8 | ui8 | o4 | f64
deriving DecidableEq, Repr

/-- The special registers of MFSR and MTSR (R46). -/
inductive SReg where
  | wave | block | lcore | pcore | ctx | sh (n : BitVec 3) | gexposed
  | xpc | xmode | xcause | xlanes | xaddr | ecnt | estat | cyc
deriving DecidableEq, Repr

/-- The destination of a CPY with its kind: a destination handle or a feed code (R299). -/
inductive CpyDst where
  | ms (t : BitVec 6) | sm (t : BitVec 6) | mf (f : BitVec 3) | sf (f : BitVec 3)
deriving DecidableEq, Repr

/-- The follow-on command of a CPYM (R301): MMAS when `sk`. -/
structure FollowOn where
  sk : Bool
  aD : BitVec 4
  i : BitVec 2
  j : BitVec 2
  q : BitVec 4
deriving DecidableEq, Repr

/-- A management-space access: through BAR 0 of the host or by the management master, hub, offset, size in bytes and, for a write, the value (R8, R321). -/
structure MAcc where
  host : Bool
  hub : BitVec 2
  off : Nat
  size : Nat
  val : BitVec 64
deriving DecidableEq, Repr

/-- One instruction or event. `S` is the switch marker (R27). An `x` marks a redundant EXT prefix of zeros (R31). -/
inductive Instr where
  -- scalar, register form
  | nop (S : Bool)
  | sadd (S : Bool) (d a b : BitVec 6)
  | ssub (S : Bool) (d a b : BitVec 6)
  | smul (S : Bool) (d a b : BitVec 6)
  | smulh (S : Bool) (d a b : BitVec 6)
  | smulhU (S : Bool) (d a b : BitVec 6)
  | sdiv (S : Bool) (d a b : BitVec 6)
  | sdivU (S : Bool) (d a b : BitVec 6)
  | srem (S : Bool) (d a b : BitVec 6)
  | sremU (S : Bool) (d a b : BitVec 6)
  | sand (S : Bool) (d a b : BitVec 6)
  | sor (S : Bool) (d a b : BitVec 6)
  | sxor (S : Bool) (d a b : BitVec 6)
  | sshl (S : Bool) (d a b : BitVec 6)
  | sshr (S : Bool) (d a b : BitVec 6)
  | ssra (S : Bool) (d a b : BitVec 6)
  | smin (S : Bool) (d a b : BitVec 6)
  | sminU (S : Bool) (d a b : BitVec 6)
  | smax (S : Bool) (d a b : BitVec 6)
  | smaxU (S : Bool) (d a b : BitVec 6)
  | sclz (S : Bool) (d a : BitVec 6)
  | spopc (S : Bool) (d a : BitVec 6)
  -- scalar, immediate form
  | saddImm (S : Bool) (d a : BitVec 6) (i : Imm)
  | ssubImm (S : Bool) (d a : BitVec 6) (i : Imm)
  | smulImm (S : Bool) (d a : BitVec 6) (i : Imm)
  | smulhImm (S : Bool) (d a : BitVec 6) (i : Imm)
  | sdivImm (S : Bool) (d a : BitVec 6) (i : Imm)
  | sremImm (S : Bool) (d a : BitVec 6) (i : Imm)
  | sandImm (S : Bool) (d a : BitVec 6) (i : Imm)
  | sorImm (S : Bool) (d a : BitVec 6) (i : Imm)
  | sxorImm (S : Bool) (d a : BitVec 6) (i : Imm)
  | sshlImm (S : Bool) (d a : BitVec 6) (i : Imm)
  | sshrImm (S : Bool) (d a : BitVec 6) (i : Imm)
  | ssraImm (S : Bool) (d a : BitVec 6) (i : Imm)
  | sminImm (S : Bool) (d a : BitVec 6) (i : Imm)
  | smaxImm (S : Bool) (d a : BitVec 6) (i : Imm)
  | smulhUImm (S : Bool) (d a : BitVec 6) (i : Imm)
  | sdivUImm (S : Bool) (d a : BitVec 6) (i : Imm)
  | sremUImm (S : Bool) (d a : BitVec 6) (i : Imm)
  | sminUImm (S : Bool) (d a : BitVec 6) (i : Imm)
  | smaxUImm (S : Bool) (d a : BitVec 6) (i : Imm)
  -- compare, select, move, constants, bit fields
  | scmp (S : Bool) (c : SCond) (d a b : BitVec 6)
  | scmpImm (S : Bool) (c : SCond) (d a : BitVec 6) (i : Imm)
  | ssel (S : Bool) (d a b : BitVec 6)
  | smov (S : Bool) (d a : BitVec 6)
  | sli (S : Bool) (d : BitVec 6) (i : SliImm)
  | sliHi (S : Bool) (d : BitVec 6) (i : SliImm)
  | slea (S : Bool) (d a b : BitVec 6) (sh : BitVec 4)
  | sbfx (S : Bool) (d a : BitVec 6) (pos lenM1 : BitVec 6)
  | sbfxS (S : Bool) (d a : BitVec 6) (pos lenM1 : BitVec 6)
  | sbfi (S : Bool) (d a : BitVec 6) (pos lenM1 : BitVec 6)
  -- control and system
  | br (S : Bool) (off : BitVec 24)
  | call (S : Bool) (off : BitVec 24)
  | brs (S : Bool) (c : BCond) (a : BitVec 6) (off : BitVec 16)
  | brv (S : Bool) (n : Bool) (p : BitVec 3) (off join : BitVec 16)
  | jmpi (S : Bool) (vi : BitVec 8) (t : BitVec 3) (join : BitVec 16)
  | tabset (S : Bool) (t : BitVec 3) (a b : BitVec 6)
  | ret (S : Bool) (a : BitVec 6)
  | exit (S : Bool)
  | yield (S : Bool)
  | rte (S : Bool)
  | halt (S : Bool)
  | launch (S : Bool) (a : BitVec 6)
  | trap (S : Bool) (code : BitVec 8)
  | region (S : Bool) (v s : BitVec 6)
  | mfsr (S : Bool) (d : BitVec 6) (x : SReg)
  | mtsr (S : Bool) (x : SReg) (a : BitVec 6)
  | setmode (S : Bool) (a : BitVec 6)
  | setmodeF (S : Bool) (f : ModeField) (v : Imm)
  | setlim (S : Bool) (n : BitVec 3) (a : BitVec 6)
  | setlimImm (S : Bool) (n : BitVec 3) (i : Imm)
  | waitc (S : Bool) (p : Path) (n : BitVec 6)
  | waitcImm (S : Bool) (p : Path) (i : Imm)
  | bar (S : Bool) (b : BitVec 4) (pd : Option (BitVec 3))
  | bara (S : Bool) (b : BitVec 4)
  | barw (S : Bool) (b : BitVec 4) (pd : Option (BitVec 3))
  | gbar (S : Bool) (g : BitVec 8) (pd : Option (BitVec 3))
  -- vector integer and bitwise
  | vadd (S : Bool) (d a : BitVec 8) (b : Opnd)
  | vsub (S : Bool) (d a : BitVec 8) (b : Opnd)
  | vmul (S : Bool) (d a : BitVec 8) (b : Opnd)
  | vmulh (S : Bool) (d a : BitVec 8) (b : Opnd)
  | vmad (S : Bool) (d a : BitVec 8) (b : Opnd)
  | vand (S : Bool) (d a : BitVec 8) (b : Opnd)
  | vor (S : Bool) (d a : BitVec 8) (b : Opnd)
  | vxor (S : Bool) (d a : BitVec 8) (b : Opnd)
  | vshl (S : Bool) (d a : BitVec 8) (b : Opnd)
  | vshr (S : Bool) (d a : BitVec 8) (b : Opnd)
  | vsra (S : Bool) (d a : BitVec 8) (b : Opnd)
  | vmin (S : Bool) (d a : BitVec 8) (b : Opnd)
  | vmax (S : Bool) (d a : BitVec 8) (b : Opnd)
  | vcmp (S : Bool) (c : VCond) (p : BitVec 3) (a b : BitVec 8)
  | vsel (S : Bool) (d a : BitVec 8) (p : BitVec 3)
  | vnot (S : Bool) (d a : BitVec 8)
  | vabs (S : Bool) (d a : BitVec 8)
  | vneg (S : Bool) (d a : BitVec 8)
  | vmov (S : Bool) (d a : BitVec 8)
  | vclz (S : Bool) (d a : BitVec 8)
  | vpopc (S : Bool) (d a : BitVec 8)
  | vlane (S : Bool) (d : BitVec 8)
  | vbcast (S : Bool) (d : BitVec 8) (a : BitVec 6)
  | vbcastImm (S : Bool) (d : BitVec 8) (i : Imm)
  | vbfx (S : Bool) (d a : BitVec 8) (b : BitVec 6)
  | vbfxS (S : Bool) (d a : BitVec 8) (b : BitVec 6)
  | vbfi (S : Bool) (d a : BitVec 8) (b : BitVec 6)
  -- predicates
  | pand (S : Bool) (d a b : BitVec 3)
  | por (S : Bool) (d a b : BitVec 3)
  | pxor (S : Bool) (d a b : BitVec 3)
  | pnot (S : Bool) (d a : BitVec 3)
  | pmov (S : Bool) (d a : BitVec 3)
  | pset (S : Bool) (d : BitVec 3) (k : BitVec 8)
  | ptest (S : Bool) (d : BitVec 6) (a : BitVec 3) (k : PKind)
  -- vector float
  | vfadd (S : Bool) (d a : BitVec 8) (b : Opnd)
  | vfsub (S : Bool) (d a : BitVec 8) (b : Opnd)
  | vfmul (S : Bool) (d a : BitVec 8) (b : Opnd)
  | vfma (S : Bool) (d a : BitVec 8) (b : Opnd)
  | vfmin (S : Bool) (d a : BitVec 8) (b : Opnd)
  | vfmax (S : Bool) (d a : BitVec 8) (b : Opnd)
  | vfdiv (S : Bool) (d a : BitVec 8) (b : Opnd)
  | vscale (S : Bool) (d a : BitVec 8) (b : Opnd)
  | vfcmp (S : Bool) (c : FCond) (p : BitVec 3) (a b : BitVec 8)
  | vfsqrt (S : Bool) (d a : BitVec 8)
  | vfrcp (S : Bool) (d a : BitVec 8)
  | vfrsq (S : Bool) (d a : BitVec 8)
  | vfexp2 (S : Bool) (d a : BitVec 8)
  | vflog2 (S : Bool) (d a : BitVec 8)
  | vfclass (S : Bool) (d a : BitVec 8)
  | vcvt (S : Bool) (d a : BitVec 8) (e : ETy)
  -- cross-lane
  | vperm (S : Bool) (d a b : BitVec 8)
  | vshuf (S : Bool) (d a : BitVec 8) (p : Shuf)
  | vtbl (S : Bool) (d a b : BitVec 8)
  | vrot (S : Bool) (d a : BitVec 8) (n : BitVec 3)
  | vred (S : Bool) (d a : BitVec 8) (o : RedOp)
  | vscan (S : Bool) (d a : BitVec 8) (o : RedOp)
  | vscanX (S : Bool) (d a : BitVec 8) (o : RedOp)
  | vballot (S : Bool) (d : BitVec 6) (a : BitVec 3)
  | vfirst (S : Bool) (d : BitVec 6) (a : BitVec 3)
  -- guesses
  | gtest (S : Bool) (d : BitVec 3) (a : BitVec 8)
  | gdemand (S : Bool) (d : BitVec 8)
  | gaccept (S : Bool) (d : BitVec 8)
  | gcheck (S : Bool) (p : BitVec 3) (d : BitVec 8)
  | gsettle (S : Bool) (d : BitVec 6) (p : BitVec 3)
  -- memory
  | ldB (S x : Bool) (d m : BitVec 8) (n : BitVec 5) (k : BitVec 3)
  | ldBS (S : Bool) (d m : BitVec 8) (n : BitVec 5) (k : BitVec 3)
  | ldH (S x : Bool) (d m : BitVec 8) (n : BitVec 5) (k : BitVec 3)
  | ldHS (S : Bool) (d m : BitVec 8) (n : BitVec 5) (k : BitVec 3)
  | ldW (S : Bool) (d m : BitVec 8) (n : BitVec 5) (k : BitVec 3)
  | ldD (S : Bool) (d m : BitVec 8) (n : BitVec 5) (k : BitVec 3)
  | ldQ (S : Bool) (d m : BitVec 8) (n : BitVec 5) (k : BitVec 3)
  | lds (S : Bool) (d m : BitVec 8) (wd : Width)
  | st (S : Bool) (d m : BitVec 8) (n : BitVec 5) (wd : Width)
  | sts (S : Bool) (d m : BitVec 8) (wd : Width)
  | sldD (S : Bool) (d a : BitVec 6) (o : BitVec 8)
  | sldW (S : Bool) (d a : BitVec 6) (o : BitVec 8)
  | sstD (S : Bool) (d a : BitVec 6) (o : BitVec 8)
  | sstW (S : Bool) (d a : BitVec 6) (o : BitVec 8)
  | prefL1 (S : Bool) (m : BitVec 8) (n : BitVec 5)
  | prefL2 (S : Bool) (m : BitVec 8) (n : BitVec 5)
  | prefMsc (S : Bool) (m : BitVec 8) (n : BitVec 5)
  | strc (S : Bool) (d m : BitVec 8) (n : BitVec 5) (wd : Width) (cnt : BitVec 8)
  | draftW (S x : Bool) (d m : BitVec 8) (n : BitVec 5) (p : BitVec 3)
  | draftD (S : Bool) (d m : BitVec 8) (n : BitVec 5) (p : BitVec 3)
  | ink (S : Bool) (m : BitVec 8) (n : BitVec 5)
  | erase (S : Bool) (p : BitVec 3) (m : BitVec 8) (n : BitVec 5)
  | aadd (S : Bool) (d a b : BitVec 8) (e : Option AMod)
  | amin (S : Bool) (d a b : BitVec 8) (e : Option AMod)
  | amax (S : Bool) (d a b : BitVec 8) (e : Option AMod)
  | aand (S : Bool) (d a b : BitVec 8) (e : Option AMod)
  | aor (S : Bool) (d a b : BitVec 8) (e : Option AMod)
  | axor (S : Bool) (d a b : BitVec 8) (e : Option AMod)
  | axchg (S : Bool) (d a b : BitVec 8) (e : Option AMod)
  | acas (S : Bool) (d a b c : BitVec 8) (e : AMod)
  | afadd (S : Bool) (d a b : BitVec 8) (e : Option AMod)
  | ared (S : Bool) (o : AredOp) (a b : BitVec 8) (e : Option AMod)
  | fence (S : Bool) (k : FenceKind) (sc : Scope)
  | dflush (S : Bool)
  | cflush (S : Bool) (a b : BitVec 6)
  | cflushPersist (S : Bool) (a b : BitVec 6)
  | cinv (S : Bool) (a b : BitVec 6)
  | carve (S : Bool) (c : BitVec 3)
  | pclass (S : Bool) (a b : BitVec 6) (k : PClass)
  -- tiles, streams, engines, collectives
  | cpyMs (S x : Bool) (d t s : BitVec 6)
  | cpySm (S x : Bool) (d t s : BitVec 6)
  | cpyMf (S x : Bool) (d : BitVec 6) (f : BitVec 3) (s : BitVec 6)
  | cpySf (S x : Bool) (d : BitVec 6) (f : BitVec 3) (s : BitVec 6)
  | cpyZd (S : Bool) (d : BitVec 6) (t : CpyDst) (s : BitVec 6) (q : BitVec 4)
  | cpym (S : Bool) (d : BitVec 6) (f : BitVec 3) (s : BitVec 6) (c : FollowOn)
  | cpymSf (S : Bool) (d : BitVec 6) (f : BitVec 3) (s : BitVec 6) (c : FollowOn)
  | gath (S : Bool) (d : BitVec 6) (f x : BitVec 3)
  | strm (S : Bool) (x : BitVec 3) (a b : BitVec 6)
  | vfeed (S : Bool) (d : BitVec 8) (x : BitVec 3)
  | mma (S : Bool) (d : BitVec 4) (i j : BitVec 2) (q : BitVec 4)
  | mmas (S : Bool) (d : BitVec 4) (i j : BitVec 2) (q : BitVec 4)
  | skcfg (S : Bool) (a b : BitVec 6)
  | skmap (S : Bool) (a : BitVec 6) (d : BitVec 4)
  | accld (S : Bool) (d : BitVec 8) (a : BitVec 4) (r : BitVec 5)
  | accz (S : Bool) (a : BitVec 4)
  | qset (S : Bool) (q : BitVec 4)
  | qclr (S : Bool) (q : BitVec 4)
  | shset (S : Bool) (d a : BitVec 6)
  | fwait (S : Bool) (a : BitVec 6)
  | ftest (S : Bool) (d a : BitVec 6)
  | fstat (S : Bool) (d a : BitVec 6)
  | fcancel (S : Bool) (a : BitVec 6)
  | eqpush (S : Bool) (e a : BitVec 6)
  | eqcfg (S : Bool) (e a : BitVec 6)
  | collAllreduce (S : Bool) (d a : BitVec 6)
  | collReducescatter (S : Bool) (d a : BitVec 6)
  | collAllgather (S : Bool) (d a : BitVec 6)
  | collBroadcast (S : Bool) (d a : BitVec 6)
  | collredo (S : Bool) (d a : BitVec 6)
  -- fetches that give no instruction
  | illegalInstruction (cause sub : BitVec 8) (word : BitVec 32) (off : BitVec 64)
  | instructionFetchFault (va : DWord)
  -- events that the device takes by itself when nothing else is asked of it
  | loadDataReturn (acc : Nat) (lanes : BitVec 8) (early : Bool)
  | truthArrival (acc : Nat)
  | claim (msg : Nat)
  | claimResult (acc : Nat)
  | sendData (acc : Nat)
  | register (msg : Nat)
  | storeAck (acc : Nat)
  | close (msg : Nat)
  | atomicAtHome (acc : Nat) (order : List Nat)
  | draftAtHome (acc lane : Nat)
  | inkAtHome (acc lane : Nat)
  | eraseAtHome (acc lane : Nat)
  | deliver (link : Nat)
  | footprintEdgesFallen (launch : Nat)
  | blockStart (launch lcore : Nat)
  | blockRestore (block lcore : Nat) (intact : Bool)
  | pageFaultRingEntry (fault : Nat)
  | blockEnd (block : Nat)
  | carveApply (pcore : Nat)
  | jobStart (job : Nat)
  | jobStep (job : Nat)
  | jobComplete (job : Nat)
  | followOnBegin (job : Nat)
  | kgroupStep (block : Nat)
  | eqFiring (q : Nat)
  | chunkReceive (inst party : Nat) (flips again : List Nat)
  | exponentReceive (inst src dst : Nat) (exps : List Int)
  | chunkStepSend (inst party : Nat)
  | staticCharge (pcore : Nat)
  | sliceEnd (pcore : Nat)
  | distributorSwap (block : Nat)
  | distributorRecarve (launch lcore : Nat)
  -- events that an agenda names
  | limitExpiry (acc : Nat)
  | collTimeout (inst party : Nat)
  | eqCountdownExpiry (q : Nat)
  | evict (core line : Nat)
  | claimOverflow (msg : Nat)
  | regionMerge (hub entry : Nat)
  | reclassify (acc : Nat)
  | launchFramesExhausted (launch : Nat)
  | dieParkDone (die : BitVec 2)
  | biasFlushStart (page : Nat)
  | biasFlushComplete (page : Nat)
  -- launches, blocks, distributor
  | launchRecordTake
  | blockPreempt (block : Nat)
  -- memory controllers
  | mcRequest (stack : Nat) (acc : Option Nat) (sectors : List Nat) (fabric home now : Nat) (wr : Bool)
  | pcSchedule (stack pci : Nat) (corrected uncorrectable : List Nat)
  | patienceExpiry (stack group : Nat)
  | starvationPromote (stack group : Nat)
  | refreshDue (stack pci bank : Nat)
  | alertBackoff (stack pci bank : Nat)
  | catchupRefresh (stack pci bank : Nat)
  | rowSpareDone (stack : Nat)
  | patrolScrub (stack row : Nat) (corrected uncorrectable : List Nat)
  -- links, peers, host
  | flitReceive (link ty seq : Nat) (body : Option (List Byte))
  | nakReceive (link seq : Nat)
  | laneLoss (link lane : Nat)
  | retrainEnd (link : Nat)
  | linkTimeout (link : Nat)
  | peerRequest (dev : BitVec 14) (asid : BitVec 16) (va : DWord) (op : PeerOp) (data : List Byte)
  | peerErrorCompletion (acc : Nat)
  | hostPortTrain (cxl : Bool) (width : BitVec 5)
  | hostAccess (fn : BitVec 3) (pa : Nat) (wr : Bool) (data : List Byte)
  | snoopResponse (page line : Nat) (dirty : Option (List Byte))
  -- power, parking, health, checkpoint, boot
  | governorSample (watts average : Nat)
  | pTransitionDone
  | mTransitionDone
  | dieUnparkDone (die : BitVec 2) (passed : Bool)
  | healthUpdate (slow : List Nat) (margin : List Nat)
  | ckptStepDone (hostError : Option Nat)
  | reset
  | selfTestEnd (failed : BitVec 512)
  | trainingEnd (stacksOk : BitVec 16) (linksOk : BitVec 16)
  | flashErase
  | flashProgram
  | flashRead
  | flashOpDone
  -- writes of management space with a row of their own
  | lqdoor (q : BitVec 6) (m : MAcc)
  | lqctlWrite (q : BitVec 6) (m : MAcc)
  | remapWrite (l : BitVec 8) (m : MAcc)
  | contextTableWrite (m : MAcc)
  | pfresume (m : MAcc)
  | tlbinv (m : MAcc)
  | tlbinvDone
  | biasRangeWrite (m : MAcc)
  | biascmd (m : MAcc)
  | mcspare (stack : BitVec 4) (m : MAcc)
  | lnkctlRetrain (link : BitVec 4) (m : MAcc)
  | lnkctlDisable (link : BitVec 4) (m : MAcc)
  | atcommit (m : MAcc)
  | collinjWrite (m : MAcc)
  | collDomainWrite (m : MAcc)
  | devnumWrite (m : MAcc)
  | pwrceilWrite (m : MAcc)
  | pstlimWrite (m : MAcc)
  | diePark (m : MAcc)
  | dieUnpark (m : MAcc)
  | dieparkHold (m : MAcc)
  | ensaveWrite (m : MAcc)
  | ckptSave (m : MAcc)
  | ckptRestore (m : MAcc)
  | managementAccess (wr : Bool) (m : MAcc)
  | powerFail
  | atcommitComplete
deriving DecidableEq, Repr

end Sys2Proof
end

