-- ==== Sys2Proof/Decode.lean ====
section
/-! DEFINITION. From words to instructions and back (spec/03_encoding.md). The decoder is total: a unit of up to three words gives an instruction with its length, or a rejection that names the cause, the subcode, the offending word and the place of XPC (R34, R47, R48). The encoder is written from the same tables. -/

namespace Sys2Proof

/-! ## Fields -/

/-- Field S, bit 31 (R26). -/
def fS (w : Word) : Bool := w.getLsbD 31
/-- Field MAJ, bits 30 to 24 (R26). -/
def fMaj (w : Word) : BitVec 7 := w.extractLsb' 24 7
/-- Field A, bits 23 to 16 (R26). -/
def fA (w : Word) : BitVec 8 := w.extractLsb' 16 8
/-- Field B, bits 15 to 8 (R26). -/
def fB (w : Word) : BitVec 8 := w.extractLsb' 8 8
/-- Field C, bits 7 to 0 (R26). -/
def fC (w : Word) : BitVec 8 := w.extractLsb' 0 8

/-- The word with the given fields (R26). -/
def mkWord (S : Bool) (maj : BitVec 7) (A B C : BitVec 8) : Word :=
  BitVec.ofBool S ++ maj ++ A ++ B ++ C

/-- Bits 7 and 6 of a field. -/
def hi2 (x : BitVec 8) : BitVec 2 := x.extractLsb' 6 2
/-- Bits 5 to 0 of a field. -/
def lo6 (x : BitVec 8) : BitVec 6 := x.extractLsb' 0 6
/-- Bits 7 to 3 of a field. -/
def hi5 (x : BitVec 8) : BitVec 5 := x.extractLsb' 3 5
/-- Bits 2 to 0 of a field. -/
def lo3 (x : BitVec 8) : BitVec 3 := x.extractLsb' 0 3
/-- Bits 7 to 4 of a field. -/
def hi4 (x : BitVec 8) : BitVec 4 := x.extractLsb' 4 4
/-- Bits 3 to 0 of a field. -/
def lo4 (x : BitVec 8) : BitVec 4 := x.extractLsb' 0 4
/-- Bits 1 and 0 of a field. -/
def lo2 (x : BitVec 8) : BitVec 2 := x.extractLsb' 0 2
/-- Bits 7 to 2 of a field. -/
def hi6 (x : BitVec 8) : BitVec 6 := x.extractLsb' 2 6

/-- A field of a 6-bit operand under a 2-bit part. -/
def f26 (u : BitVec 2) (r : BitVec 6) : BitVec 8 := u ++ r
/-- A field of a 3-bit operand under a 5-bit part. -/
def f53 (u : BitVec 5) (r : BitVec 3) : BitVec 8 := u ++ r
/-- A field of a 4-bit operand under a 4-bit part. -/
def f44 (u r : BitVec 4) : BitVec 8 := u ++ r
/-- A field of a 2-bit operand under a 6-bit part. -/
def f62 (u : BitVec 6) (r : BitVec 2) : BitVec 8 := u ++ r

/-! ## Codes -/

def SCond.code : SCond → BitVec 4
  | .eq => 0 | .ne => 1 | .lt => 2 | .le => 3 | .gt => 4 | .ge => 5 | .ltu => 6 | .leu => 7 | .gtu => 8 | .geu => 9
def SCond.ofCode (c : BitVec 4) : Option SCond :=
  match c.toNat with
  | 0 => some .eq | 1 => some .ne | 2 => some .lt | 3 => some .le | 4 => some .gt | 5 => some .ge
  | 6 => some .ltu | 7 => some .leu | 8 => some .gtu | 9 => some .geu | _ => none

def BCond.code : BCond → BitVec 2
  | .zero => 0 | .nonzero => 1 | .neg => 2 | .nonneg => 3
def BCond.ofCode (c : BitVec 2) : BCond :=
  match c.toNat with
  | 0 => .zero | 1 => .nonzero | 2 => .neg | _ => .nonneg

def VCond.code : VCond → BitVec 5
  | .eq => 0 | .ne => 1 | .lt => 2 | .le => 3 | .gt => 4 | .ge => 5
def VCond.ofCode (c : BitVec 5) : Option VCond :=
  match c.toNat with
  | 0 => some .eq | 1 => some .ne | 2 => some .lt | 3 => some .le | 4 => some .gt | 5 => some .ge | _ => none

def FCond.code : FCond → BitVec 5
  | .eq => 0 | .ne => 1 | .lt => 2 | .le => 3 | .gt => 4 | .ge => 5 | .un => 6 | .ordered => 7
def FCond.ofCode (c : BitVec 5) : Option FCond :=
  match c.toNat with
  | 0 => some .eq | 1 => some .ne | 2 => some .lt | 3 => some .le | 4 => some .gt | 5 => some .ge
  | 6 => some .un | 7 => some .ordered | _ => none

def Width.code : Width → BitVec 3
  | .b => 0 | .h => 1 | .w => 2 | .d => 3 | .q => 4
def Width.ofCode (c : BitVec 3) : Option Width :=
  match c.toNat with
  | 0 => some .b | 1 => some .h | 2 => some .w | 3 => some .d | 4 => some .q | _ => none

/-- Bytes of a width (R276). -/
def Width.bytes : Width → Nat
  | .b => 1 | .h => 2 | .w => 4 | .d => 8 | .q => 16
/-- Registers of the group of a width (R276). -/
def Width.regs : Width → Nat
  | .b => 1 | .h => 1 | .w => 1 | .d => 2 | .q => 4

def ModeField.code : ModeField → BitVec 3
  | .guard => 0 | .et => 1 | .rnd => 2 | .gsp => 3 | .guse => 4 | .sat => 5 | .ftz => 6 | .tid => 7
def ModeField.ofCode (c : BitVec 3) : ModeField :=
  match c.toNat with
  | 0 => .guard | 1 => .et | 2 => .rnd | 3 => .gsp | 4 => .guse | 5 => .sat | 6 => .ftz | _ => .tid
/-- Place of the field in MODE (R247). -/
def ModeField.lo : ModeField → Nat
  | .guard => 0 | .et => 5 | .rnd => 9 | .gsp => 12 | .guse => 14 | .sat => 16 | .ftz => 17 | .tid => 20
/-- Width of the field (R247). -/
def ModeField.width : ModeField → Nat
  | .guard => 5 | .et => 4 | .rnd => 3 | .gsp => 2 | .guse => 2 | .sat => 1 | .ftz => 1 | .tid => 12
/-- First reserved value of the field; its values end there (R35, R37). -/
def ModeField.bound : ModeField → Nat
  | .guard => 32 | .et => 13 | .rnd => 5 | .gsp => 4 | .guse => 2 | .sat => 2 | .ftz => 2 | .tid => 4096

def Path.code : Path → BitVec 2
  | .ld => 0 | .sc => 1 | .cp => 2 | .st => 3
def Path.ofCode (c : BitVec 2) : Path :=
  match c.toNat with
  | 0 => .ld | 1 => .sc | 2 => .cp | _ => .st

def Scope.code : Scope → BitVec 3
  | .w => 0 | .b => 1 | .g _ => 2 | .d => 3 | .v => 4 | .s => 5
/-- The group field of a scope; 0 unless the scope is .g (R32). -/
def Scope.grp : Scope → BitVec 8
  | .g gi => gi
  | _ => 0
def Scope.ofCode (c : BitVec 3) (gi : BitVec 8) : Option Scope :=
  match c.toNat with
  | 0 => some .w | 1 => some .b | 2 => some (.g gi) | 3 => some .d | 4 => some .v | 5 => some .s | _ => none

def Order.code : Order → BitVec 2
  | .rlx => 0 | .acq => 1 | .rel => 2 | .ar => 3
def Order.ofCode (c : BitVec 2) : Order :=
  match c.toNat with
  | 0 => .rlx | 1 => .acq | 2 => .rel | _ => .ar

def FenceKind.code : FenceKind → BitVec 2
  | .acq => 0 | .rel => 1 | .ar => 2 | .sc => 3
def FenceKind.ofCode (c : BitVec 2) : FenceKind :=
  match c.toNat with
  | 0 => .acq | 1 => .rel | 2 => .ar | _ => .sc

def RedOp.code : RedOp → BitVec 3
  | .add => 0 | .min => 1 | .max => 2 | .and => 3 | .or => 4 | .xor => 5
def RedOp.ofCode (c : BitVec 3) : Option RedOp :=
  match c.toNat with
  | 0 => some .add | 1 => some .min | 2 => some .max | 3 => some .and | 4 => some .or | 5 => some .xor | _ => none

def AredOp.code : AredOp → BitVec 4
  | .add => 0 | .min => 1 | .max => 2 | .and => 3 | .or => 4 | .xor => 5 | .fadd => 6
def AredOp.ofCode (c : BitVec 4) : Option AredOp :=
  match c.toNat with
  | 0 => some .add | 1 => some .min | 2 => some .max | 3 => some .and | 4 => some .or | 5 => some .xor
  | 6 => some .fadd | _ => none

def Shuf.code : Shuf → BitVec 8
  | .x1 => 0 | .x2 => 1 | .x4 => 2 | .rev => 3
def Shuf.ofCode (c : BitVec 8) : Option Shuf :=
  match c.toNat with
  | 0 => some .x1 | 1 => some .x2 | 2 => some .x4 | 3 => some .rev | _ => none

def PKind.code : PKind → BitVec 2
  | .mask => 0 | .any => 1 | .all => 2 | .count => 3
def PKind.ofCode (c : BitVec 2) : PKind :=
  match c.toNat with
  | 0 => .mask | 1 => .any | 2 => .all | _ => .count

def PClass.code : PClass → BitVec 2
  | .priv => 0 | .ro => 1 | .shared => 2
def PClass.ofCode (c : BitVec 2) : Option PClass :=
  match c.toNat with
  | 0 => some .priv | 1 => some .ro | 2 => some .shared | _ => none

def ETy.code : ETy → BitVec 4
  | .si32 => 0 | .ui32 => 1 | .f32 => 2 | .f16 => 3 | .bf16 => 4 | .si16 => 5 | .ui16 => 6
  | .e4m3 => 7 | .e5m2 => 8 | .si8 => 9 | .ui8 => 10 | .o4 => 11 | .f64 => 12
def ETy.ofCode (c : BitVec 4) : Option ETy :=
  match c.toNat with
  | 0 => some .si32 | 1 => some .ui32 | 2 => some .f32 | 3 => some .f16 | 4 => some .bf16
  | 5 => some .si16 | 6 => some .ui16 | 7 => some .e4m3 | 8 => some .e5m2 | 9 => some .si8
  | 10 => some .ui8 | 11 => some .o4 | 12 => some .f64 | _ => none

/-- Indices of the special registers (R46). -/
def SReg.code : SReg → BitVec 8
  | .wave => 0x01 | .block => 0x02 | .lcore => 0x03 | .pcore => 0x04 | .ctx => 0x05
  | .sh n => f53 1 n
  | .gexposed => 0x20 | .xpc => 0x28 | .xmode => 0x29 | .xcause => 0x2A | .xlanes => 0x2B | .xaddr => 0x2C
  | .ecnt => 0x30 | .estat => 0x31 | .cyc => 0x40
def SReg.ofCode (c : BitVec 8) : Option SReg :=
  match c.toNat with
  | 0x01 => some .wave | 0x02 => some .block | 0x03 => some .lcore | 0x04 => some .pcore | 0x05 => some .ctx
  | 0x08 => some (.sh 0) | 0x09 => some (.sh 1) | 0x0A => some (.sh 2) | 0x0B => some (.sh 3)
  | 0x0C => some (.sh 4) | 0x0D => some (.sh 5) | 0x0E => some (.sh 6) | 0x0F => some (.sh 7)
  | 0x20 => some .gexposed | 0x28 => some .xpc | 0x29 => some .xmode | 0x2A => some .xcause
  | 0x2B => some .xlanes | 0x2C => some .xaddr | 0x30 => some .ecnt | 0x31 => some .estat | 0x40 => some .cyc
  | _ => none
/-- MTSR may name the register; every other named index raises subcode 8 (R46). -/
def SReg.writable : SReg → Bool
  | .gexposed => true | .xpc => true | .xmode => true | .xcause => true | .xlanes => true | .xaddr => true
  | .estat => true
  | .wave => false | .block => false | .lcore => false | .pcore => false | .ctx => false | .sh _ => false
  | .ecnt => false | .cyc => false

/-! ## Immediates -/

/-- The immediate extended to `n` bits; `count` forms zero-extend, all others sign-extend (R30). -/
def Imm.ext (count : Bool) (n : Nat) : Imm → BitVec n
  | .short c => if count then c.zeroExtend n else c.signExtend n
  | .long w => if count then w.zeroExtend n else w.signExtend n

/-- The value of SLI before extension, as a signed 64-bit value (R232). -/
def SliImm.ext (n : Nat) : SliImm → BitVec n
  | .short v => v.signExtend n
  | .long w => w.signExtend n

/-! ## The decoder -/

/-- The prefix before an instruction word, when there is one that the instruction accepts (R29). -/
inductive Pfx where
  | none
  | imm (i : BitVec 24)
  | ext (e : BitVec 24)
deriving DecidableEq, Repr

/-- The result of decoding one word: an instruction, or the subcode of the illegal-instruction trap (R47). -/
abbrev Dec := Except Nat Instr

/-- The instruction, unless one of the faults in the list applies; the list is in the order of R48. -/
def need : List (Nat × Bool) → Instr → Dec
  | [], i => .ok i
  | (sub, bad) :: t, i => if bad then .error sub else need t i

/-- A field that must be zero. -/
def nz {n : Nat} (x : BitVec n) : Bool := x != 0

/-- A register number that must be even, or a multiple of 4 (R28). -/
def odd2 (r : BitVec 8) : Bool := r.getLsbD 0
def odd4 (r : BitVec 8) : Bool := nz (lo2 r)

/-- The group of a width breaks its rule (R276). -/
def badGrp (wd : Width) (r : BitVec 8) : Bool :=
  match wd with
  | .b => false | .h => false | .w => false | .d => odd2 r | .q => odd4 r

/-- The immediate of an instruction whose field C is an immediate (R30). -/
def immOf (p : Pfx) (C : BitVec 8) : Imm :=
  match p with
  | .imm i => .long (i ++ C)
  | .none => .short C
  | .ext _ => .short C

/-- Major 0x01 (R40, R228, R229). -/
def dec01 (S : Bool) (A B C : BitVec 8) : Dec :=
  let d := lo6 A; let a := lo6 B; let b := lo6 C
  match (hi2 A).toNat, (hi2 B ++ hi2 C : BitVec 4).toNat with
  | 0, 0 => .ok (.sadd S d a b)
  | 0, 1 => .ok (.ssub S d a b)
  | 0, 2 => .ok (.smul S d a b)
  | 0, 3 => .ok (.smulh S d a b)
  | 1, 3 => .ok (.smulhU S d a b)
  | 0, 4 => .ok (.sdiv S d a b)
  | 1, 4 => .ok (.sdivU S d a b)
  | 0, 5 => .ok (.srem S d a b)
  | 1, 5 => .ok (.sremU S d a b)
  | 0, 6 => .ok (.sand S d a b)
  | 0, 7 => .ok (.sor S d a b)
  | 0, 8 => .ok (.sxor S d a b)
  | 0, 9 => .ok (.sshl S d a b)
  | 0, 10 => .ok (.sshr S d a b)
  | 0, 11 => .ok (.ssra S d a b)
  | 0, 12 => .ok (.smin S d a b)
  | 1, 12 => .ok (.sminU S d a b)
  | 0, 13 => .ok (.smax S d a b)
  | 1, 13 => .ok (.smaxU S d a b)
  | 0, 14 => need [(3, nz b)] (.sclz S d a)
  | 0, 15 => need [(3, nz b)] (.spopc S d a)
  | _, _ => .error 2

/-- Major 0x02 (R40, R228). -/
def dec02 (S : Bool) (p : Pfx) (A B C : BitVec 8) : Dec :=
  let d := lo6 A; let a := lo6 B; let i := immOf p C
  match (hi2 A ++ hi2 B : BitVec 4).toNat with
  | 0 => .ok (.saddImm S d a i)
  | 1 => .ok (.ssubImm S d a i)
  | 2 => .ok (.smulImm S d a i)
  | 3 => .ok (.smulhImm S d a i)
  | 4 => .ok (.sdivImm S d a i)
  | 5 => .ok (.sremImm S d a i)
  | 6 => .ok (.sandImm S d a i)
  | 7 => .ok (.sorImm S d a i)
  | 8 => .ok (.sxorImm S d a i)
  | 9 => .ok (.sshlImm S d a i)
  | 10 => .ok (.sshrImm S d a i)
  | 11 => .ok (.ssraImm S d a i)
  | 12 => .ok (.sminImm S d a i)
  | 13 => .ok (.smaxImm S d a i)
  | _ => .error 2

/-- Major 0x03 (R40, R228). -/
def dec03 (S : Bool) (p : Pfx) (A B C : BitVec 8) : Dec :=
  let d := lo6 A; let a := lo6 B; let i := immOf p C
  match (hi2 A ++ hi2 B : BitVec 4).toNat with
  | 3 => .ok (.smulhUImm S d a i)
  | 4 => .ok (.sdivUImm S d a i)
  | 5 => .ok (.sremUImm S d a i)
  | 12 => .ok (.sminUImm S d a i)
  | 13 => .ok (.smaxUImm S d a i)
  | _ => .error 2

/-- Majors 0x04 and 0x05 (R230). -/
def dec04 (S : Bool) (A B C : BitVec 8) : Dec :=
  match SCond.ofCode (hi2 A ++ hi2 B) with
  | some c => need [(3, nz (hi2 C))] (.scmp S c (lo6 A) (lo6 B) (lo6 C))
  | none => .error 2
def dec05 (S : Bool) (p : Pfx) (A B C : BitVec 8) : Dec :=
  match SCond.ofCode (hi2 A ++ hi2 B) with
  | some c => .ok (.scmpImm S c (lo6 A) (lo6 B) (immOf p C))
  | none => .error 2

/-- Majors 0x06 and 0x07 (R231). -/
def dec06 (S : Bool) (A B C : BitVec 8) : Dec :=
  need [(3, nz (hi2 A) || nz (hi2 B) || nz (hi2 C))] (.ssel S (lo6 A) (lo6 B) (lo6 C))
def dec07 (S : Bool) (A B C : BitVec 8) : Dec :=
  need [(3, nz (hi2 A) || nz (hi2 B) || nz C)] (.smov S (lo6 A) (lo6 B))

/-- Major 0x08 (R232). -/
def dec08 (S : Bool) (p : Pfx) (A B C : BitVec 8) : Dec :=
  let v : SliImm := match p with
    | .imm i => .long (i ++ C)
    | .none => .short (B ++ C)
    | .ext _ => .short (B ++ C)
  let bad := match p with
    | .imm _ => nz B
    | .none => false
    | .ext _ => false
  match (hi2 A).toNat with
  | 0 => need [(3, bad)] (.sli S (lo6 A) v)
  | 1 => need [(3, bad)] (.sliHi S (lo6 A) v)
  | _ => .error 2

/-- Majors 0x09 to 0x0C (R233, R234). -/
def dec09 (S : Bool) (A B C : BitVec 8) : Dec :=
  need [(3, nz (hi2 C))] (.slea S (lo6 A) (lo6 B) (lo6 C) (hi2 A ++ hi2 B))
def dec0A (S : Bool) (A B C : BitVec 8) : Dec :=
  .ok (.sbfx S (lo6 A) (lo6 B) (lo6 C) (hi2 A ++ hi2 B ++ hi2 C))
def dec0B (S : Bool) (A B C : BitVec 8) : Dec :=
  .ok (.sbfxS S (lo6 A) (lo6 B) (lo6 C) (hi2 A ++ hi2 B ++ hi2 C))
def dec0C (S : Bool) (A B C : BitVec 8) : Dec :=
  .ok (.sbfi S (lo6 A) (lo6 B) (lo6 C) (hi2 A ++ hi2 B ++ hi2 C))

/-- Majors 0x10 to 0x12 (R235). -/
def dec10 (S : Bool) (A B C : BitVec 8) : Dec := .ok (.br S (A ++ B ++ C))
def dec11 (S : Bool) (A B C : BitVec 8) : Dec := .ok (.call S (A ++ B ++ C))
def dec12 (S : Bool) (A B C : BitVec 8) : Dec := .ok (.brs S (BCond.ofCode (hi2 A)) (lo6 A) (B ++ C))

/-- The join offset and the fourth operand of an EXT word (R29). -/
def extJoin (e : BitVec 24) : BitVec 16 := e.extractLsb' 0 16
def extX (e : BitVec 24) : BitVec 8 := e.extractLsb' 16 8
def extG (e : BitVec 24) : BitVec 8 := e.extractLsb' 8 8
def extM (e : BitVec 24) : BitVec 8 := e.extractLsb' 0 8

/-- Majors 0x13 and 0x14, EXT required (R237, R238). -/
def dec13 (S : Bool) (p : Pfx) (A B C : BitVec 8) : Dec :=
  match p with
  | .ext e => need [(3, nz (hi4 A) || nz (extX e))] (.brv S (A.getLsbD 3) (lo3 A) (B ++ C) (extJoin e))
  | .none => if nz (hi4 A) then .error 3 else .error 6
  | .imm _ => .error 6
def dec14 (S : Bool) (p : Pfx) (A B C : BitVec 8) : Dec :=
  match p with
  | .ext e => need [(3, nz (hi5 B) || nz C || nz (extX e))] (.jmpi S A (lo3 B) (extJoin e))
  | .none => if nz (hi5 B) || nz C then .error 3 else .error 6
  | .imm _ => .error 6

/-- Majors 0x15 to 0x1B (R39, R235, R239 to R246). -/
def dec15 (S : Bool) (A B C : BitVec 8) : Dec :=
  need [(3, nz (hi5 A) || nz (hi2 B) || nz (hi2 C))] (.tabset S (lo3 A) (lo6 B) (lo6 C))
def dec16 (S : Bool) (A B C : BitVec 8) : Dec :=
  need [(3, nz (hi2 A) || nz B || nz C)] (.ret S (lo6 A))
def dec17 (S : Bool) (A B C : BitVec 8) : Dec :=
  match C.toNat with
  | 0 => need [(3, nz A || nz B)] (.exit S)
  | 1 => need [(3, nz A || nz B)] (.yield S)
  | 2 => need [(3, nz A || nz B)] (.rte S)
  | 3 => need [(3, nz A || nz B)] (.halt S)
  | 4 => need [(3, nz (hi2 A) || nz B)] (.launch S (lo6 A))
  | _ => .error 2
def dec18 (S : Bool) (A B C : BitVec 8) : Dec := need [(3, nz A || nz B)] (.trap S C)
def dec19 (S : Bool) (A B C : BitVec 8) : Dec :=
  need [(3, nz (hi2 A) || nz (hi2 B) || nz C)] (.region S (lo6 A) (lo6 B))
def dec1A (S : Bool) (A B C : BitVec 8) : Dec :=
  match SReg.ofCode C with
  | some x => need [(3, nz (hi2 A) || nz B)] (.mfsr S (lo6 A) x)
  | none => .error 2
def dec1B (S : Bool) (A B C : BitVec 8) : Dec :=
  match SReg.ofCode C with
  | some x => need [(3, nz A || nz (hi2 B)), (8, !x.writable)] (.mtsr S x (lo6 B))
  | none => .error 2

/-- The value of SETMODE.f has bits set above its field (R247). -/
def modeTooWide (f : ModeField) (v : Imm) : Bool := decide (2 ^ f.width ≤ (v.ext false 64).toNat)
/-- The value of SETMODE.f is reserved (R37). -/
def modeReserved (f : ModeField) (v : Imm) : Bool := decide (f.bound ≤ (v.ext false 64).toNat)

/-- Majors 0x1C to 0x1F (R39, R247 to R250). -/
def dec1C (S : Bool) (p : Pfx) (A B C : BitVec 8) : Dec :=
  match (hi2 A).toNat with
  | 0 => need [(3, nz (lo6 A) || nz (hi2 B) || nz C)] (.setmode S (lo6 B))
  | 1 =>
    let f := ModeField.ofCode (lo3 A)
    let v := immOf p C
    need [(3, nz (A.extractLsb' 3 3) || nz B || modeTooWide f v), (9, modeReserved f v)] (.setmodeF S f v)
  | _ => .error 2
def dec1D (S : Bool) (p : Pfx) (A B C : BitVec 8) : Dec :=
  match (hi2 A).toNat with
  | 0 => need [(3, nz (A.extractLsb' 3 3) || nz (hi2 B) || nz C)] (.setlim S (lo3 A) (lo6 B))
  | 1 => need [(3, nz (A.extractLsb' 3 3) || nz B)] (.setlimImm S (lo3 A) (immOf p C))
  | _ => .error 2
def dec1E (S : Bool) (p : Pfx) (A B C : BitVec 8) : Dec :=
  match (hi2 A).toNat with
  | 0 => need [(3, nz (A.extractLsb' 2 4) || nz (hi2 B) || nz C)] (.waitc S (Path.ofCode (lo2 A)) (lo6 B))
  | 1 => need [(3, nz (A.extractLsb' 2 4) || nz B)] (.waitcImm S (Path.ofCode (lo2 A)) (immOf p C))
  | _ => .error 2

/-- The predicate that a barrier writes, when B[3] = 1 (R39). -/
def pdOf (B : BitVec 8) : Option (BitVec 3) := if B.getLsbD 3 then some (lo3 B) else none
/-- Field B of a barrier breaks R39. -/
def badPd (B : BitVec 8) : Bool := nz (hi4 B) || (!B.getLsbD 3 && nz (lo3 B))

def dec1F (S : Bool) (A B C : BitVec 8) : Dec :=
  match (hi2 C).toNat with
  | 0 => need [(3, nz (lo6 C) || badPd B || nz (hi4 A))] (.bar S (lo4 A) (pdOf B))
  | 1 => need [(3, nz (lo6 C) || nz B || nz (hi4 A))] (.bara S (lo4 A))
  | 2 => need [(3, nz (lo6 C) || badPd B || nz (hi4 A))] (.barw S (lo4 A) (pdOf B))
  | _ => need [(3, nz (lo6 C) || badPd B)] (.gbar S A (pdOf B))

/-- The second source of a vector binary instruction and the checks on it (R253). -/
def vbin (p : Pfx) (C : BitVec 8) (k : Opnd → Instr) : Dec :=
  match p with
  | .none => .ok (k (.reg C))
  | .imm i => .ok (k (.imm32 (i ++ C)))
  | .ext e =>
    match (e.extractLsb' 0 2).toNat with
    | 1 => need [(3, nz (e.extractLsb' 2 22) || nz (hi2 C))] (k (.scal (lo6 C)))
    | 2 => need [(3, nz (e.extractLsb' 2 22))] (k (.imm8 C))
    | _ => .error 2

/-- Majors 0x2D to 0x33 (R41, R42, R255 to R259, R270, R271). -/
def dec2D (S : Bool) (A B C : BitVec 8) : Dec :=
  match VCond.ofCode (hi5 A) with
  | some c => .ok (.vcmp S c (lo3 A) B C)
  | none => .error 2
def dec2E (S : Bool) (A B C : BitVec 8) : Dec := need [(3, nz (hi5 C))] (.vsel S A B (lo3 C))
def dec2F (S : Bool) (A B C : BitVec 8) : Dec :=
  match C.toNat with
  | 0 => .ok (.vnot S A B)
  | 1 => .ok (.vabs S A B)
  | 2 => .ok (.vneg S A B)
  | 3 => .ok (.vmov S A B)
  | 4 => .ok (.vclz S A B)
  | 5 => .ok (.vpopc S A B)
  | 6 => need [(3, nz B)] (.vlane S A)
  | _ => .error 2
def dec30 (S : Bool) (p : Pfx) (A B C : BitVec 8) : Dec :=
  match (hi2 B).toNat with
  | 0 => need [(3, nz C)] (.vbcast S A (lo6 B))
  | 1 => need [(3, nz (lo6 B))] (.vbcastImm S A (immOf p C))
  | _ => .error 2
def dec31 (S : Bool) (A B C : BitVec 8) : Dec :=
  match (hi2 C).toNat with
  | 0 => .ok (.vbfx S A B (lo6 C))
  | 1 => .ok (.vbfxS S A B (lo6 C))
  | 2 => .ok (.vbfi S A B (lo6 C))
  | _ => .error 2
def dec32 (S : Bool) (A B C : BitVec 8) : Dec :=
  let d := lo3 A; let a := lo3 B
  match (hi4 A).toNat with
  | 0 => need [(3, A.getLsbD 3 || nz (hi5 B) || nz (hi5 C))] (.pand S d a (lo3 C))
  | 1 => need [(3, A.getLsbD 3 || nz (hi5 B) || nz (hi5 C))] (.por S d a (lo3 C))
  | 2 => need [(3, A.getLsbD 3 || nz (hi5 B) || nz (hi5 C))] (.pxor S d a (lo3 C))
  | 3 => need [(3, A.getLsbD 3 || nz (hi5 B) || nz C)] (.pnot S d a)
  | 4 => need [(3, A.getLsbD 3 || nz (hi5 B) || nz C)] (.pmov S d a)
  | 5 => need [(3, A.getLsbD 3 || nz B)] (.pset S d C)
  | _ => .error 2
def dec33 (S : Bool) (A B C : BitVec 8) : Dec :=
  need [(3, nz (hi2 A) || nz (hi5 B) || nz (hi6 C))] (.ptest S (lo6 A) (lo3 B) (PKind.ofCode (lo2 C)))

/-- Majors 0x40 to 0x42 (R261 to R263). -/
def dec40 (S : Bool) (A B C : BitVec 8) : Dec :=
  match FCond.ofCode (hi5 A) with
  | some c => .ok (.vfcmp S c (lo3 A) B C)
  | none => .error 2
def dec41 (S : Bool) (A B C : BitVec 8) : Dec :=
  match C.toNat with
  | 0 => .ok (.vfsqrt S A B)
  | 1 => .ok (.vfrcp S A B)
  | 2 => .ok (.vfrsq S A B)
  | 3 => .ok (.vfexp2 S A B)
  | 4 => .ok (.vflog2 S A B)
  | 5 => .ok (.vfclass S A B)
  | _ => .error 2
def dec42 (S : Bool) (A B C : BitVec 8) : Dec :=
  match ETy.ofCode (lo4 C) with
  | some e => need [(3, nz (hi4 C))] (.vcvt S A B e)
  | none => .error 2

/-- Majors 0x50 to 0x56 (R266 to R269, R272). -/
def dec51 (S : Bool) (A B C : BitVec 8) : Dec :=
  match Shuf.ofCode C with
  | some q => .ok (.vshuf S A B q)
  | none => .error 2
def dec53 (S : Bool) (A B C : BitVec 8) : Dec := need [(3, nz (hi5 C))] (.vrot S A B (lo3 C))
def dec54 (S : Bool) (A B C : BitVec 8) : Dec :=
  match RedOp.ofCode (lo3 C), (C.extractLsb' 3 2).toNat with
  | some o, 0 => need [(3, nz (C.extractLsb' 5 3))] (.vred S A B o)
  | some o, 1 => need [(3, nz (C.extractLsb' 5 3))] (.vscan S A B o)
  | some o, 2 => need [(3, nz (C.extractLsb' 5 3))] (.vscanX S A B o)
  | _, _ => .error 2
def dec55 (S : Bool) (A B C : BitVec 8) : Dec :=
  match C.toNat with
  | 0 => need [(3, nz (hi2 A) || nz (hi5 B))] (.vballot S (lo6 A) (lo3 B))
  | 1 => need [(3, nz (hi2 A) || nz (hi5 B))] (.vfirst S (lo6 A) (lo3 B))
  | _ => .error 2
def dec56 (S : Bool) (A B C : BitVec 8) : Dec :=
  match (lo3 C).toNat with
  | 0 => need [(3, nz (hi5 C) || nz (hi5 A))] (.gtest S (lo3 A) B)
  | 1 => need [(3, nz (hi5 C) || nz B)] (.gdemand S A)
  | 2 => need [(3, nz (hi5 C) || nz B)] (.gaccept S A)
  | 3 => need [(3, nz (hi5 C) || nz (hi5 A))] (.gcheck S (lo3 A) B)
  | 4 => need [(3, nz (hi5 C) || nz (hi2 A) || nz (hi5 B))] (.gsettle S (lo6 A) (lo3 B))
  | _ => .error 2

/-- Majors 0x58 to 0x5C (R279). -/
def dec58 (S : Bool) (p : Pfx) (A B C : BitVec 8) : Dec :=
  match p with
  | .ext e => if e.getLsbD 0 then need [(3, nz (e.extractLsb' 1 23))] (.ldBS S A B (hi5 C) (lo3 C))
      else need [(3, nz (e.extractLsb' 1 23))] (.ldB S true A B (hi5 C) (lo3 C))
  | .none => .ok (.ldB S false A B (hi5 C) (lo3 C))
  | .imm _ => .ok (.ldB S false A B (hi5 C) (lo3 C))
def dec59 (S : Bool) (p : Pfx) (A B C : BitVec 8) : Dec :=
  match p with
  | .ext e => if e.getLsbD 0 then need [(3, nz (e.extractLsb' 1 23))] (.ldHS S A B (hi5 C) (lo3 C))
      else need [(3, nz (e.extractLsb' 1 23))] (.ldH S true A B (hi5 C) (lo3 C))
  | .none => .ok (.ldH S false A B (hi5 C) (lo3 C))
  | .imm _ => .ok (.ldH S false A B (hi5 C) (lo3 C))
def dec5A (S : Bool) (A B C : BitVec 8) : Dec := .ok (.ldW S A B (hi5 C) (lo3 C))
def dec5B (S : Bool) (A B C : BitVec 8) : Dec := need [(5, odd2 A)] (.ldD S A B (hi5 C) (lo3 C))
def dec5C (S : Bool) (A B C : BitVec 8) : Dec := need [(5, odd4 A)] (.ldQ S A B (hi5 C) (lo3 C))

/-- Majors 0x5D to 0x64 (R281 to R288). -/
def dec5D (S : Bool) (A B C : BitVec 8) : Dec :=
  match Width.ofCode (lo3 C) with
  | some wd => need [(3, nz (hi5 C)), (5, badGrp wd A)] (.lds S A B wd)
  | none => .error 2
def dec5E (S : Bool) (A B C : BitVec 8) : Dec :=
  match Width.ofCode (lo3 C) with
  | some wd => need [(5, badGrp wd A)] (.st S A B (hi5 C) wd)
  | none => .error 2
def dec5F (S : Bool) (A B C : BitVec 8) : Dec :=
  match Width.ofCode (lo3 C) with
  | some wd => need [(3, nz (hi5 C)), (5, badGrp wd A)] (.sts S A B wd)
  | none => .error 2
def dec60 (S : Bool) (A B C : BitVec 8) : Dec :=
  match (hi2 A).toNat with
  | 0 => need [(3, nz (hi2 B))] (.sldD S (lo6 A) (lo6 B) C)
  | 1 => need [(3, nz (hi2 B))] (.sldW S (lo6 A) (lo6 B) C)
  | 2 => need [(3, nz (hi2 B))] (.sstD S (lo6 A) (lo6 B) C)
  | _ => need [(3, nz (hi2 B))] (.sstW S (lo6 A) (lo6 B) C)
def dec61 (S : Bool) (A B C : BitVec 8) : Dec :=
  match A.toNat with
  | 0 => need [(3, nz (lo3 C))] (.prefL1 S B (hi5 C))
  | 1 => need [(3, nz (lo3 C))] (.prefL2 S B (hi5 C))
  | 2 => need [(3, nz (lo3 C))] (.prefMsc S B (hi5 C))
  | 3 => .error 2
  | _ => .error 3
def dec62 (S : Bool) (p : Pfx) (A B C : BitVec 8) : Dec :=
  match Width.ofCode (lo3 C), p with
  | some wd, .ext e => need [(3, extM e == 0 || nz (e.extractLsb' 8 16)), (5, badGrp wd A)]
      (.strc S A B (hi5 C) wd (extM e))
  | some _, .none => .error 6
  | some _, .imm _ => .error 6
  | none, _ => .error 2
def dec63 (S : Bool) (p : Pfx) (A B C : BitVec 8) : Dec :=
  match p with
  | .ext e =>
    if e.getLsbD 0 then
      need [(3, nz (e.extractLsb' 1 23)), (5, odd2 A)] (.draftD S A B (hi5 C) (lo3 C))
    else need [(3, nz (e.extractLsb' 1 23))] (.draftW S true A B (hi5 C) (lo3 C))
  | .none => .ok (.draftW S false A B (hi5 C) (lo3 C))
  | .imm _ => .ok (.draftW S false A B (hi5 C) (lo3 C))
def dec64 (S : Bool) (A B C : BitVec 8) : Dec :=
  if A.getLsbD 7 then need [(3, nz (A.extractLsb' 3 4) || nz (lo3 C))] (.erase S (lo3 A) B (hi5 C))
  else need [(3, nz A || nz (lo3 C))] (.ink S B (hi5 C))

/-- The EXT word of an atomic (R289): subcode 2 for a reserved scope, subcode 3 for a reserved field that is not zero. -/
def amodOf (e : BitVec 24) : Option AMod :=
  match Scope.ofCode (e.extractLsb' 0 3) (extG e) with
  | some sc => some ⟨sc, Order.ofCode (e.extractLsb' 3 2)⟩
  | none => none
def amodBad (e : BitVec 24) : Bool :=
  nz (e.extractLsb' 5 3) || ((e.extractLsb' 0 3).toNat != 2 && nz (extG e))

/-- Majors 0x65 to 0x6D but ACAS (R289). -/
def decAtom (p : Pfx) (B : BitVec 8) (k : Option AMod → Instr) : Dec :=
  match p with
  | .ext e =>
    match amodOf e with
    | some m => need [(3, amodBad e || nz (extX e)), (5, odd2 B)] (k (some m))
    | none => .error 2
  | .none => need [(5, odd2 B)] (k none)
  | .imm _ => need [(5, odd2 B)] (k none)
def dec6C (S : Bool) (p : Pfx) (A B C : BitVec 8) : Dec :=
  match p with
  | .ext e =>
    match amodOf e with
    | some m => need [(3, amodBad e), (5, odd2 B)] (.acas S A B C (extX e) m)
    | none => .error 2
  | .none => .error 6
  | .imm _ => .error 6

/-- Major 0x6E (R291). -/
def dec6E (S : Bool) (p : Pfx) (A B C : BitVec 8) : Dec :=
  match AredOp.ofCode (lo4 A), p with
  | some o, .ext e =>
    match amodOf e with
    | some m => need [(2, m.order == .acq || m.order == .ar), (3, nz (hi4 A) || amodBad e || nz (extX e)), (5, odd2 B)]
        (.ared S o B C (some m))
    | none => .error 2
  | some o, .none => need [(3, nz (hi4 A)), (5, odd2 B)] (.ared S o B C none)
  | some o, .imm _ => need [(3, nz (hi4 A)), (5, odd2 B)] (.ared S o B C none)
  | none, _ => .error 2

/-- Major 0x6F (R44, R292 to R296). -/
def dec6F (S : Bool) (A B C : BitVec 8) : Dec :=
  let c5 : BitVec 5 := C.extractLsb' 0 5
  match (C.extractLsb' 5 3).toNat with
  | 0 =>
    match Scope.ofCode (A.extractLsb' 2 3) B with
    | some sc => need [(3, nz (A.extractLsb' 5 3) || nz c5 || ((A.extractLsb' 2 3).toNat != 2 && nz B))]
        (.fence S (FenceKind.ofCode (lo2 A)) sc)
    | none => .error 2
  | 1 => need [(3, nz A || nz B || nz c5)] (.dflush S)
  | 2 =>
    if C.getLsbD 0 then need [(3, nz (hi2 A) || nz (hi2 B) || nz (C.extractLsb' 1 4))] (.cflushPersist S (lo6 A) (lo6 B))
    else need [(3, nz (hi2 A) || nz (hi2 B) || nz (C.extractLsb' 1 4))] (.cflush S (lo6 A) (lo6 B))
  | 3 => need [(3, nz (hi2 A) || nz (hi2 B) || nz c5)] (.cinv S (lo6 A) (lo6 B))
  | 4 => need [(3, nz (hi5 A) || nz B || nz c5)] (.carve S (lo3 A))
  | 5 =>
    match PClass.ofCode (lo2 C) with
    | some k => need [(3, nz (hi2 A) || nz (hi2 B) || nz (C.extractLsb' 2 3))] (.pclass S (lo6 A) (lo6 B) k)
    | none => .error 2
  | _ => .error 2

/-- Major 0x70 (R299). -/
def dec70 (S : Bool) (p : Pfx) (A B C : BitVec 8) : Dec :=
  let d := lo6 A; let s := lo6 C
  let bad := nz (hi2 C) || (if A.getLsbD 7 then nz (hi5 B) else nz (hi2 B))
  let dst : CpyDst := match (hi2 A).toNat with
    | 0 => .ms (lo6 B) | 1 => .sm (lo6 B) | 2 => .mf (lo3 B) | _ => .sf (lo3 B)
  let plain (x : Bool) : Instr := match dst with
    | .ms t => .cpyMs S x d t s | .sm t => .cpySm S x d t s | .mf f => .cpyMf S x d f s | .sf f => .cpySf S x d f s
  match p with
  | .ext e =>
    if e.getLsbD 0 then
      need [(3, bad || nz (e.extractLsb' 1 15) || nz (e.extractLsb' 20 4))] (.cpyZd S d dst s (e.extractLsb' 16 4))
    else need [(3, bad || nz e)] (plain true)
  | .none => need [(3, bad)] (plain false)
  | .imm _ => need [(3, bad)] (plain false)

/-- Major 0x71 (R301). -/
def dec71 (S : Bool) (p : Pfx) (A B C : BitVec 8) : Dec :=
  if !A.getLsbD 7 then .error 2
  else match p with
  | .ext e =>
    let c : FollowOn := ⟨e.getLsbD 20, e.extractLsb' 16 4, e.extractLsb' 8 2, e.extractLsb' 10 2, e.extractLsb' 12 4⟩
    let bad := nz (hi5 B) || nz (hi2 C) || nz (e.extractLsb' 21 3) || nz (extM e)
    if A.getLsbD 6 then need [(3, bad)] (.cpymSf S (lo6 A) (lo3 B) (lo6 C) c)
    else need [(3, bad)] (.cpym S (lo6 A) (lo3 B) (lo6 C) c)
  | .none => if nz (hi5 B) || nz (hi2 C) then .error 3 else .error 6
  | .imm _ => .error 6

/-- Majors 0x72 to 0x7B (R45, R302 to R313). -/
def dec72 (S : Bool) (A B C : BitVec 8) : Dec :=
  need [(3, nz (hi2 A) || nz (hi5 B) || nz (hi5 C))] (.gath S (lo6 A) (lo3 B) (lo3 C))
def dec73 (S : Bool) (A B C : BitVec 8) : Dec :=
  need [(3, nz (hi5 A) || nz (hi2 B) || nz (hi2 C))] (.strm S (lo3 A) (lo6 B) (lo6 C))
def dec74 (S : Bool) (A B C : BitVec 8) : Dec := need [(3, nz (hi5 B) || nz C)] (.vfeed S A (lo3 B))
def dec75 (S : Bool) (A B C : BitVec 8) : Dec :=
  let bad := nz (A.extractLsb' 4 3) || nz (hi4 B) || nz (hi4 C)
  if A.getLsbD 7 then need [(3, bad)] (.mmas S (lo4 A) (lo2 B) (B.extractLsb' 2 2) (lo4 C))
  else need [(3, bad)] (.mma S (lo4 A) (lo2 B) (B.extractLsb' 2 2) (lo4 C))
def dec76 (S : Bool) (A B C : BitVec 8) : Dec :=
  match (hi2 A).toNat with
  | 0 => need [(3, nz (lo6 A) || nz (hi2 B) || nz (hi2 C))] (.skcfg S (lo6 B) (lo6 C))
  | 1 => need [(3, nz (lo6 A) || nz (hi2 B) || nz (hi4 C))] (.skmap S (lo6 B) (lo4 C))
  | _ => .error 2
def dec77 (S : Bool) (A B C : BitVec 8) : Dec :=
  if C.getLsbD 7 then need [(3, nz A || nz (hi4 B) || nz (C.extractLsb' 0 7))] (.accz S (lo4 B))
  else need [(3, nz (hi4 B) || nz (C.extractLsb' 5 2)), (5, odd4 A)] (.accld S A (lo4 B) (C.extractLsb' 0 5))
def dec78 (S : Bool) (A B C : BitVec 8) : Dec :=
  match (lo2 C).toNat with
  | 0 => need [(3, nz (hi6 C) || nz (hi4 A) || nz B)] (.qset S (lo4 A))
  | 1 => need [(3, nz (hi6 C) || nz (hi4 A) || nz B)] (.qclr S (lo4 A))
  | 2 => need [(3, nz (hi6 C) || nz (hi2 A) || nz (hi2 B))] (.shset S (lo6 A) (lo6 B))
  | _ => .error 2
def dec79 (S : Bool) (A B C : BitVec 8) : Dec :=
  match (lo2 C).toNat with
  | 0 => need [(3, nz (hi6 C) || nz A || nz (hi2 B))] (.fwait S (lo6 B))
  | 1 => need [(3, nz (hi6 C) || nz (hi2 A) || nz (hi2 B))] (.ftest S (lo6 A) (lo6 B))
  | 2 => need [(3, nz (hi6 C) || nz (hi2 A) || nz (hi2 B))] (.fstat S (lo6 A) (lo6 B))
  | _ => need [(3, nz (hi6 C) || nz A || nz (hi2 B))] (.fcancel S (lo6 B))
def dec7A (S : Bool) (A B C : BitVec 8) : Dec :=
  match (hi2 A).toNat with
  | 0 => need [(3, nz C || nz (hi2 B)), (5, B.getLsbD 0)] (.eqpush S (lo6 A) (lo6 B))
  | 1 => need [(3, nz C || nz (hi2 B))] (.eqcfg S (lo6 A) (lo6 B))
  | _ => .error 2
def dec7B (S : Bool) (A B C : BitVec 8) : Dec :=
  match (hi2 A).toNat with
  | 0 =>
    match (lo2 C).toNat with
    | 0 => need [(3, nz (hi6 C) || nz (hi2 B))] (.collAllreduce S (lo6 A) (lo6 B))
    | 1 => need [(3, nz (hi6 C) || nz (hi2 B))] (.collReducescatter S (lo6 A) (lo6 B))
    | 2 => need [(3, nz (hi6 C) || nz (hi2 B))] (.collAllgather S (lo6 A) (lo6 B))
    | _ => need [(3, nz (hi6 C) || nz (hi2 B))] (.collBroadcast S (lo6 A) (lo6 B))
  | 1 => need [(3, nz C || nz (hi2 B))] (.collredo S (lo6 A) (lo6 B))
  | _ => .error 2

/-- Decodes an instruction word by its major (R38 to R45); every reserved major raises subcode 1 (R47). -/
def decMaj (S : Bool) (maj : Nat) (p : Pfx) (A B C : BitVec 8) : Dec :=
  match maj with
  | 0x00 => need [(1, nz A || nz B || nz C)] (.nop S)
  | 0x01 => dec01 S A B C
  | 0x02 => dec02 S p A B C
  | 0x03 => dec03 S p A B C
  | 0x04 => dec04 S A B C
  | 0x05 => dec05 S p A B C
  | 0x06 => dec06 S A B C
  | 0x07 => dec07 S A B C
  | 0x08 => dec08 S p A B C
  | 0x09 => dec09 S A B C
  | 0x0A => dec0A S A B C
  | 0x0B => dec0B S A B C
  | 0x0C => dec0C S A B C
  | 0x10 => dec10 S A B C
  | 0x11 => dec11 S A B C
  | 0x12 => dec12 S A B C
  | 0x13 => dec13 S p A B C
  | 0x14 => dec14 S p A B C
  | 0x15 => dec15 S A B C
  | 0x16 => dec16 S A B C
  | 0x17 => dec17 S A B C
  | 0x18 => dec18 S A B C
  | 0x19 => dec19 S A B C
  | 0x1A => dec1A S A B C
  | 0x1B => dec1B S A B C
  | 0x1C => dec1C S p A B C
  | 0x1D => dec1D S p A B C
  | 0x1E => dec1E S p A B C
  | 0x1F => dec1F S A B C
  | 0x20 => vbin p C (.vadd S A B)
  | 0x21 => vbin p C (.vsub S A B)
  | 0x22 => vbin p C (.vmul S A B)
  | 0x23 => vbin p C (.vmulh S A B)
  | 0x24 => vbin p C (.vmad S A B)
  | 0x25 => vbin p C (.vand S A B)
  | 0x26 => vbin p C (.vor S A B)
  | 0x27 => vbin p C (.vxor S A B)
  | 0x28 => vbin p C (.vshl S A B)
  | 0x29 => vbin p C (.vshr S A B)
  | 0x2A => vbin p C (.vsra S A B)
  | 0x2B => vbin p C (.vmin S A B)
  | 0x2C => vbin p C (.vmax S A B)
  | 0x2D => dec2D S A B C
  | 0x2E => dec2E S A B C
  | 0x2F => dec2F S A B C
  | 0x30 => dec30 S p A B C
  | 0x31 => dec31 S A B C
  | 0x32 => dec32 S A B C
  | 0x33 => dec33 S A B C
  | 0x38 => vbin p C (.vfadd S A B)
  | 0x39 => vbin p C (.vfsub S A B)
  | 0x3A => vbin p C (.vfmul S A B)
  | 0x3B => vbin p C (.vfma S A B)
  | 0x3C => vbin p C (.vfmin S A B)
  | 0x3D => vbin p C (.vfmax S A B)
  | 0x3E => vbin p C (.vfdiv S A B)
  | 0x3F => vbin p C (.vscale S A B)
  | 0x40 => dec40 S A B C
  | 0x41 => dec41 S A B C
  | 0x42 => dec42 S A B C
  | 0x50 => .ok (.vperm S A B C)
  | 0x51 => dec51 S A B C
  | 0x52 => .ok (.vtbl S A B C)
  | 0x53 => dec53 S A B C
  | 0x54 => dec54 S A B C
  | 0x55 => dec55 S A B C
  | 0x56 => dec56 S A B C
  | 0x58 => dec58 S p A B C
  | 0x59 => dec59 S p A B C
  | 0x5A => dec5A S A B C
  | 0x5B => dec5B S A B C
  | 0x5C => dec5C S A B C
  | 0x5D => dec5D S A B C
  | 0x5E => dec5E S A B C
  | 0x5F => dec5F S A B C
  | 0x60 => dec60 S A B C
  | 0x61 => dec61 S A B C
  | 0x62 => dec62 S p A B C
  | 0x63 => dec63 S p A B C
  | 0x64 => dec64 S A B C
  | 0x65 => decAtom p B (.aadd S A B C)
  | 0x66 => decAtom p B (.amin S A B C)
  | 0x67 => decAtom p B (.amax S A B C)
  | 0x68 => decAtom p B (.aand S A B C)
  | 0x69 => decAtom p B (.aor S A B C)
  | 0x6A => decAtom p B (.axor S A B C)
  | 0x6B => decAtom p B (.axchg S A B C)
  | 0x6C => dec6C S p A B C
  | 0x6D => decAtom p B (.afadd S A B C)
  | 0x6E => dec6E S p A B C
  | 0x6F => dec6F S A B C
  | 0x70 => dec70 S p A B C
  | 0x71 => dec71 S p A B C
  | 0x72 => dec72 S A B C
  | 0x73 => dec73 S A B C
  | 0x74 => dec74 S A B C
  | 0x75 => dec75 S A B C
  | 0x76 => dec76 S A B C
  | 0x77 => dec77 S A B C
  | 0x78 => dec78 S A B C
  | 0x79 => dec79 S A B C
  | 0x7A => dec7A S A B C
  | 0x7B => dec7B S A B C
  | _ => .error 1

/-- Decodes one instruction word under the prefix it accepts. -/
def decWord (p : Pfx) (w : Word) : Dec := decMaj (fS w) (fMaj w).toNat p (fA w) (fB w) (fC w)

/-- The word is an IMM or an EXT prefix, whatever its S bit (R29). -/
def isImmPfx (w : Word) : Bool := fMaj w == 0x7C
def isExtPfx (w : Word) : Bool := fMaj w == 0x7D
def isPfx (w : Word) : Bool := isImmPfx w || isExtPfx w

/-- The vector binary majors, which accept either prefix but not both (R31). -/
def isVbin (m : Nat) : Bool := (decide (0x20 ≤ m) && decide (m ≤ 0x2C)) || (decide (0x38 ≤ m) && decide (m ≤ 0x3F))

/-- The instruction word accepts an IMM prefix (R31). -/
def acceptsImm (w : Word) : Bool :=
  let m := (fMaj w).toNat
  m == 0x02 || m == 0x03 || m == 0x05 || m == 0x08 || isVbin m
    || ((m == 0x1C || m == 0x1D || m == 0x1E) && hi2 (fA w) == 1) || (m == 0x30 && hi2 (fB w) == 1)

/-- The instruction word accepts an EXT prefix (R31). -/
def acceptsExt (w : Word) : Bool :=
  let m := (fMaj w).toNat
  m == 0x13 || m == 0x14 || isVbin m || m == 0x58 || m == 0x59 || m == 0x62 || m == 0x63
    || (decide (0x65 ≤ m) && decide (m ≤ 0x6E)) || m == 0x70 || m == 0x71

/-- The instruction word requires an EXT prefix (R31, R34). -/
def requiresExt (w : Word) : Bool :=
  let m := (fMaj w).toNat
  m == 0x13 || m == 0x14 || m == 0x62 || m == 0x6C || m == 0x71

/-- The instruction word `w` accepts the prefix word `q`. -/
def accepts (w q : Word) : Bool := if isImmPfx q then acceptsImm w else acceptsExt w

/-- The prefix that a prefix word gives. -/
def pfxOf (q : Word) : Pfx := if isImmPfx q then .imm (q.extractLsb' 0 24) else .ext (q.extractLsb' 0 24)

/-- Why a unit is not an instruction: the cause and the subcode of the trap, the offending word, and XPC counted from the first word of the unit (R34, R47). -/
structure Reject where
  cause : BitVec 8
  sub : BitVec 8
  word : Word
  off : BitVec 64
deriving DecidableEq, Repr

/-- The illegal-prefix trap at the prefix word `q`, `off` bytes into the unit (R34). -/
def badPfx (q : Word) (off : BitVec 64) : Reject := ⟨2, 0, q, off⟩

/-- A decoded word as an instruction of one word, or as the illegal-instruction trap on that word (R47). -/
def asUnit (w : Word) : Dec → Except Reject (Instr × Nat)
  | .ok i => .ok (i, 1)
  | .error sub => .error ⟨1, BitVec.ofNat 8 sub, w, 0⟩

/-- The word is no instruction, whatever stands before it: a major, minor, condition, op, kind, class or index of it is reserved (R34, R47). -/
def reservedWord (w : Word) : Bool :=
  match decWord .none w with
  | .ok _ => false
  | .error sub => decide (sub ≤ 2)

/-- A unit of a prefix `q` and the word `w`: the instruction; the illegal-prefix trap where `w` does not accept `q` or is a reserved encoding; else the trap on `w` (R34, R47). -/
def prefixed (q w : Word) : Except Reject (Instr × Nat) :=
  if !accepts w q then .error (badPfx q 0)
  else match decWord (pfxOf q) w with
    | .ok i => .ok (i, 2)
    | .error sub => if reservedWord w then .error (badPfx q 0) else .error ⟨1, BitVec.ofNat 8 sub, w, 0⟩

/-- Two prefix words in one unit. No instruction accepts both kinds, so the unit is always misused; the misuse at the lowest address is reported (R34). -/
def twoPfx (q0 q1 w2 : Word) : Reject :=
  let dup := isImmPfx q0 == isImmPfx q1
  if isPfx w2 then
    if dup || fS q1 then badPfx q1 4 else badPfx w2 8
  else if !accepts w2 q0 || reservedWord w2 || (!dup && isVbin (fMaj w2).toNat) then badPfx q0 0
  else badPfx q1 4

/-- Decodes a unit from its words, of which it uses one, two or three (R33, R34, R47, R48). -/
def decodeUnit (w0 w1 w2 : Word) : Except Reject (Instr × Nat) :=
  if !isPfx w0 then asUnit w0 (decWord .none w0)
  else if fS w0 then .error (badPfx w0 0)
  else if isPfx w1 then .error (twoPfx w0 w1 w2)
  else prefixed w0 w1

/-- The number of words that are fetched before the unit is decoded (R33). -/
def unitWords (w0 w1 : Word) : Nat := if isPfx w0 then (if isPfx w1 then 3 else 2) else 1

/-- The little-endian word of four bytes (R26). -/
def wordOfBytes (b0 b1 b2 b3 : Byte) : Word := b3 ++ b2 ++ b1 ++ b0

/-- Decodes a unit from its bytes in memory order; missing bytes count as zero. -/
def decodeBytes (b : List Byte) : Except Reject (Instr × Nat) :=
  let g (k : Nat) : Byte := b.getD k 0
  decodeUnit (wordOfBytes (g 0) (g 1) (g 2) (g 3)) (wordOfBytes (g 4) (g 5) (g 6) (g 7))
    (wordOfBytes (g 8) (g 9) (g 10) (g 11))

/-- The bytes of an instruction whose bits are `w`, bit 0 the least significant bit of its first word, later words counting on (spec/opcode_table.json), cut to `nbits` bits. -/
def tableBytes (nbits w : Nat) : List Byte :=
  (List.range 12).map fun k => BitVec.ofNat 8 (w % 2 ^ nbits / 2 ^ (8 * k))

/-- The instruction that the decoder reads from an instruction whose bits are `w`. -/
def decodeTableWord (nbits w : Nat) : Option Instr :=
  match decodeBytes (tableBytes nbits w) with
  | .ok (i, _) => some i
  | .error _ => none

/-! ## The encoder -/

/-- The IMM prefix word (R29). -/
def immWord (i : BitVec 24) : Word := (0x7C#8 ++ i : BitVec 32)
/-- The EXT prefix word (R29). -/
def extWord (e : BitVec 24) : Word := (0x7D#8 ++ e : BitVec 32)

/-- A word whose field C is an immediate, behind IMM when the immediate is long. -/
def encImm (i : Imm) (f : BitVec 8 → Word) : List Word :=
  match i with
  | .short c => [f c]
  | .long w => [immWord (w.extractLsb' 8 24), f (w.extractLsb' 0 8)]

/-- A scalar word with a minor in the upper bits of fields A and B. -/
def encS2 (S : Bool) (maj : BitVec 7) (m : BitVec 4) (d a : BitVec 6) (C : BitVec 8) : Word :=
  mkWord S maj (f26 (m.extractLsb' 2 2) d) (f26 (m.extractLsb' 0 2) a) C
/-- Major 0x01 (R40). -/
def enc01 (S : Bool) (u : BitVec 2) (m : BitVec 4) (d a b : BitVec 6) : List Word :=
  [mkWord S 0x01 (f26 u d) (f26 (m.extractLsb' 2 2) a) (f26 (m.extractLsb' 0 2) b)]
/-- A bit-field word (R234). -/
def encBf (S : Bool) (maj : BitVec 7) (d a pos len : BitVec 6) : List Word :=
  [mkWord S maj (f26 (len.extractLsb' 4 2) d) (f26 (len.extractLsb' 2 2) a) (f26 (len.extractLsb' 0 2) pos)]
/-- A vector binary word with its prefix (R253). -/
def encVb (S : Bool) (maj : BitVec 7) (d a : BitVec 8) (b : Opnd) : List Word :=
  match b with
  | .reg c => [mkWord S maj d a c]
  | .scal n => [extWord 1, mkWord S maj d a (f26 0 n)]
  | .imm8 c => [extWord 2, mkWord S maj d a c]
  | .imm32 w => [immWord (w.extractLsb' 8 24), mkWord S maj d a (w.extractLsb' 0 8)]
/-- A word behind an optional redundant EXT of zeros (R31). -/
def encX (x : Bool) (w : Word) : List Word := if x then [extWord 0, w] else [w]
/-- Field B of a barrier (R39). -/
def encPd : Option (BitVec 3) → BitVec 8
  | some p => f53 1 p
  | none => 0
/-- The EXT word of an atomic (R289). -/
def encAMod (x : BitVec 8) (m : AMod) : Word :=
  extWord (x ++ m.scope.grp ++ (0#3 ++ m.order.code ++ m.scope.code : BitVec 8))
/-- An atomic with its optional EXT word. -/
def encAtom (S : Bool) (maj : BitVec 7) (d a b : BitVec 8) (e : Option AMod) : List Word :=
  match e with
  | some m => [encAMod 0 m, mkWord S maj d a b]
  | none => [mkWord S maj d a b]
/-- The kind and the destination field of a CPY (R299). -/
def CpyDst.kind : CpyDst → BitVec 2
  | .ms _ => 0 | .sm _ => 1 | .mf _ => 2 | .sf _ => 3
def CpyDst.fieldB : CpyDst → BitVec 8
  | .ms t => f26 0 t | .sm t => f26 0 t | .mf f => f53 0 f | .sf f => f53 0 f
/-- The EXT word of a CPYM (R301). -/
def encFollow (c : FollowOn) : Word :=
  extWord ((0#3 ++ BitVec.ofBool c.sk ++ c.aD : BitVec 8) ++ (c.q ++ c.j ++ c.i : BitVec 8) ++ 0#8)
/-- A tile word with 6-bit fields. -/
def encT (S : Bool) (maj : BitVec 7) (k : BitVec 2) (d a : BitVec 6) (C : BitVec 8) : List Word :=
  [mkWord S maj (f26 k d) (f26 0 a) C]

/-- The words of an instruction (R26 to R46); an event has none. -/
def encode : Instr → List Word
  | .nop S => [mkWord S 0 0 0 0]
  | .sadd S d a b => enc01 S 0 0 d a b
  | .ssub S d a b => enc01 S 0 1 d a b
  | .smul S d a b => enc01 S 0 2 d a b
  | .smulh S d a b => enc01 S 0 3 d a b
  | .smulhU S d a b => enc01 S 1 3 d a b
  | .sdiv S d a b => enc01 S 0 4 d a b
  | .sdivU S d a b => enc01 S 1 4 d a b
  | .srem S d a b => enc01 S 0 5 d a b
  | .sremU S d a b => enc01 S 1 5 d a b
  | .sand S d a b => enc01 S 0 6 d a b
  | .sor S d a b => enc01 S 0 7 d a b
  | .sxor S d a b => enc01 S 0 8 d a b
  | .sshl S d a b => enc01 S 0 9 d a b
  | .sshr S d a b => enc01 S 0 10 d a b
  | .ssra S d a b => enc01 S 0 11 d a b
  | .smin S d a b => enc01 S 0 12 d a b
  | .sminU S d a b => enc01 S 1 12 d a b
  | .smax S d a b => enc01 S 0 13 d a b
  | .smaxU S d a b => enc01 S 1 13 d a b
  | .sclz S d a => enc01 S 0 14 d a 0
  | .spopc S d a => enc01 S 0 15 d a 0
  | .saddImm S d a i => encImm i (encS2 S 0x02 0 d a)
  | .ssubImm S d a i => encImm i (encS2 S 0x02 1 d a)
  | .smulImm S d a i => encImm i (encS2 S 0x02 2 d a)
  | .smulhImm S d a i => encImm i (encS2 S 0x02 3 d a)
  | .sdivImm S d a i => encImm i (encS2 S 0x02 4 d a)
  | .sremImm S d a i => encImm i (encS2 S 0x02 5 d a)
  | .sandImm S d a i => encImm i (encS2 S 0x02 6 d a)
  | .sorImm S d a i => encImm i (encS2 S 0x02 7 d a)
  | .sxorImm S d a i => encImm i (encS2 S 0x02 8 d a)
  | .sshlImm S d a i => encImm i (encS2 S 0x02 9 d a)
  | .sshrImm S d a i => encImm i (encS2 S 0x02 10 d a)
  | .ssraImm S d a i => encImm i (encS2 S 0x02 11 d a)
  | .sminImm S d a i => encImm i (encS2 S 0x02 12 d a)
  | .smaxImm S d a i => encImm i (encS2 S 0x02 13 d a)
  | .smulhUImm S d a i => encImm i (encS2 S 0x03 3 d a)
  | .sdivUImm S d a i => encImm i (encS2 S 0x03 4 d a)
  | .sremUImm S d a i => encImm i (encS2 S 0x03 5 d a)
  | .sminUImm S d a i => encImm i (encS2 S 0x03 12 d a)
  | .smaxUImm S d a i => encImm i (encS2 S 0x03 13 d a)
  | .scmp S c d a b => [encS2 S 0x04 c.code d a (f26 0 b)]
  | .scmpImm S c d a i => encImm i (encS2 S 0x05 c.code d a)
  | .ssel S d a b => [mkWord S 0x06 (f26 0 d) (f26 0 a) (f26 0 b)]
  | .smov S d a => [mkWord S 0x07 (f26 0 d) (f26 0 a) 0]
  | .sli S d i => match i with
    | .short v => [mkWord S 0x08 (f26 0 d) (v.extractLsb' 8 8) (v.extractLsb' 0 8)]
    | .long w => [immWord (w.extractLsb' 8 24), mkWord S 0x08 (f26 0 d) 0 (w.extractLsb' 0 8)]
  | .sliHi S d i => match i with
    | .short v => [mkWord S 0x08 (f26 1 d) (v.extractLsb' 8 8) (v.extractLsb' 0 8)]
    | .long w => [immWord (w.extractLsb' 8 24), mkWord S 0x08 (f26 1 d) 0 (w.extractLsb' 0 8)]
  | .slea S d a b sh => [encS2 S 0x09 sh d a (f26 0 b)]
  | .sbfx S d a pos len => encBf S 0x0A d a pos len
  | .sbfxS S d a pos len => encBf S 0x0B d a pos len
  | .sbfi S d a pos len => encBf S 0x0C d a pos len
  | .br S o => [mkWord S 0x10 (o.extractLsb' 16 8) (o.extractLsb' 8 8) (o.extractLsb' 0 8)]
  | .call S o => [mkWord S 0x11 (o.extractLsb' 16 8) (o.extractLsb' 8 8) (o.extractLsb' 0 8)]
  | .brs S c a o => [mkWord S 0x12 (f26 c.code a) (o.extractLsb' 8 8) (o.extractLsb' 0 8)]
  | .brv S n p o j => [extWord (0#8 ++ j), mkWord S 0x13 (0#4 ++ BitVec.ofBool n ++ p) (o.extractLsb' 8 8) (o.extractLsb' 0 8)]
  | .jmpi S vi t j => [extWord (0#8 ++ j), mkWord S 0x14 vi (f53 0 t) 0]
  | .tabset S t a b => [mkWord S 0x15 (f53 0 t) (f26 0 a) (f26 0 b)]
  | .ret S a => [mkWord S 0x16 (f26 0 a) 0 0]
  | .exit S => [mkWord S 0x17 0 0 0]
  | .yield S => [mkWord S 0x17 0 0 1]
  | .rte S => [mkWord S 0x17 0 0 2]
  | .halt S => [mkWord S 0x17 0 0 3]
  | .launch S a => [mkWord S 0x17 (f26 0 a) 0 4]
  | .trap S c => [mkWord S 0x18 0 0 c]
  | .region S v s => [mkWord S 0x19 (f26 0 v) (f26 0 s) 0]
  | .mfsr S d x => [mkWord S 0x1A (f26 0 d) 0 x.code]
  | .mtsr S x a => [mkWord S 0x1B 0 (f26 0 a) x.code]
  | .setmode S a => [mkWord S 0x1C 0 (f26 0 a) 0]
  | .setmodeF S f v => encImm v (mkWord S 0x1C (f53 8 f.code) 0)
  | .setlim S n a => [mkWord S 0x1D (f53 0 n) (f26 0 a) 0]
  | .setlimImm S n i => encImm i (mkWord S 0x1D (f53 8 n) 0)
  | .waitc S p n => [mkWord S 0x1E (f62 0 p.code) (f26 0 n) 0]
  | .waitcImm S p i => encImm i (mkWord S 0x1E (f62 16 p.code) 0)
  | .bar S b pd => [mkWord S 0x1F (f44 0 b) (encPd pd) (f26 0 0)]
  | .bara S b => [mkWord S 0x1F (f44 0 b) 0 (f26 1 0)]
  | .barw S b pd => [mkWord S 0x1F (f44 0 b) (encPd pd) (f26 2 0)]
  | .gbar S g pd => [mkWord S 0x1F g (encPd pd) (f26 3 0)]
  | .vadd S d a b => encVb S 0x20 d a b
  | .vsub S d a b => encVb S 0x21 d a b
  | .vmul S d a b => encVb S 0x22 d a b
  | .vmulh S d a b => encVb S 0x23 d a b
  | .vmad S d a b => encVb S 0x24 d a b
  | .vand S d a b => encVb S 0x25 d a b
  | .vor S d a b => encVb S 0x26 d a b
  | .vxor S d a b => encVb S 0x27 d a b
  | .vshl S d a b => encVb S 0x28 d a b
  | .vshr S d a b => encVb S 0x29 d a b
  | .vsra S d a b => encVb S 0x2A d a b
  | .vmin S d a b => encVb S 0x2B d a b
  | .vmax S d a b => encVb S 0x2C d a b
  | .vcmp S c p a b => [mkWord S 0x2D (f53 c.code p) a b]
  | .vsel S d a p => [mkWord S 0x2E d a (f53 0 p)]
  | .vnot S d a => [mkWord S 0x2F d a 0]
  | .vabs S d a => [mkWord S 0x2F d a 1]
  | .vneg S d a => [mkWord S 0x2F d a 2]
  | .vmov S d a => [mkWord S 0x2F d a 3]
  | .vclz S d a => [mkWord S 0x2F d a 4]
  | .vpopc S d a => [mkWord S 0x2F d a 5]
  | .vlane S d => [mkWord S 0x2F d 0 6]
  | .vbcast S d a => [mkWord S 0x30 d (f26 0 a) 0]
  | .vbcastImm S d i => encImm i (mkWord S 0x30 d (f26 1 0))
  | .vbfx S d a b => [mkWord S 0x31 d a (f26 0 b)]
  | .vbfxS S d a b => [mkWord S 0x31 d a (f26 1 b)]
  | .vbfi S d a b => [mkWord S 0x31 d a (f26 2 b)]
  | .pand S d a b => [mkWord S 0x32 (f53 0 d) (f53 0 a) (f53 0 b)]
  | .por S d a b => [mkWord S 0x32 (f53 2 d) (f53 0 a) (f53 0 b)]
  | .pxor S d a b => [mkWord S 0x32 (f53 4 d) (f53 0 a) (f53 0 b)]
  | .pnot S d a => [mkWord S 0x32 (f53 6 d) (f53 0 a) 0]
  | .pmov S d a => [mkWord S 0x32 (f53 8 d) (f53 0 a) 0]
  | .pset S d k => [mkWord S 0x32 (f53 10 d) 0 k]
  | .ptest S d a k => [mkWord S 0x33 (f26 0 d) (f53 0 a) (f62 0 k.code)]
  | .vfadd S d a b => encVb S 0x38 d a b
  | .vfsub S d a b => encVb S 0x39 d a b
  | .vfmul S d a b => encVb S 0x3A d a b
  | .vfma S d a b => encVb S 0x3B d a b
  | .vfmin S d a b => encVb S 0x3C d a b
  | .vfmax S d a b => encVb S 0x3D d a b
  | .vfdiv S d a b => encVb S 0x3E d a b
  | .vscale S d a b => encVb S 0x3F d a b
  | .vfcmp S c p a b => [mkWord S 0x40 (f53 c.code p) a b]
  | .vfsqrt S d a => [mkWord S 0x41 d a 0]
  | .vfrcp S d a => [mkWord S 0x41 d a 1]
  | .vfrsq S d a => [mkWord S 0x41 d a 2]
  | .vfexp2 S d a => [mkWord S 0x41 d a 3]
  | .vflog2 S d a => [mkWord S 0x41 d a 4]
  | .vfclass S d a => [mkWord S 0x41 d a 5]
  | .vcvt S d a e => [mkWord S 0x42 d a (f44 0 e.code)]
  | .vperm S d a b => [mkWord S 0x50 d a b]
  | .vshuf S d a p => [mkWord S 0x51 d a p.code]
  | .vtbl S d a b => [mkWord S 0x52 d a b]
  | .vrot S d a n => [mkWord S 0x53 d a (f53 0 n)]
  | .vred S d a o => [mkWord S 0x54 d a (f53 0 o.code)]
  | .vscan S d a o => [mkWord S 0x54 d a (f53 1 o.code)]
  | .vscanX S d a o => [mkWord S 0x54 d a (f53 2 o.code)]
  | .vballot S d a => [mkWord S 0x55 (f26 0 d) (f53 0 a) 0]
  | .vfirst S d a => [mkWord S 0x55 (f26 0 d) (f53 0 a) 1]
  | .gtest S d a => [mkWord S 0x56 (f53 0 d) a 0]
  | .gdemand S d => [mkWord S 0x56 d 0 1]
  | .gaccept S d => [mkWord S 0x56 d 0 2]
  | .gcheck S p d => [mkWord S 0x56 (f53 0 p) d 3]
  | .gsettle S d p => [mkWord S 0x56 (f26 0 d) (f53 0 p) 4]
  | .ldB S x d m n k => encX x (mkWord S 0x58 d m (f53 n k))
  | .ldBS S d m n k => [extWord 1, mkWord S 0x58 d m (f53 n k)]
  | .ldH S x d m n k => encX x (mkWord S 0x59 d m (f53 n k))
  | .ldHS S d m n k => [extWord 1, mkWord S 0x59 d m (f53 n k)]
  | .ldW S d m n k => [mkWord S 0x5A d m (f53 n k)]
  | .ldD S d m n k => [mkWord S 0x5B d m (f53 n k)]
  | .ldQ S d m n k => [mkWord S 0x5C d m (f53 n k)]
  | .lds S d m wd => [mkWord S 0x5D d m (f53 0 wd.code)]
  | .st S d m n wd => [mkWord S 0x5E d m (f53 n wd.code)]
  | .sts S d m wd => [mkWord S 0x5F d m (f53 0 wd.code)]
  | .sldD S d a o => [mkWord S 0x60 (f26 0 d) (f26 0 a) o]
  | .sldW S d a o => [mkWord S 0x60 (f26 1 d) (f26 0 a) o]
  | .sstD S d a o => [mkWord S 0x60 (f26 2 d) (f26 0 a) o]
  | .sstW S d a o => [mkWord S 0x60 (f26 3 d) (f26 0 a) o]
  | .prefL1 S m n => [mkWord S 0x61 0 m (f53 n 0)]
  | .prefL2 S m n => [mkWord S 0x61 1 m (f53 n 0)]
  | .prefMsc S m n => [mkWord S 0x61 2 m (f53 n 0)]
  | .strc S d m n wd c => [extWord (0#16 ++ c), mkWord S 0x62 d m (f53 n wd.code)]
  | .draftW S x d m n p => encX x (mkWord S 0x63 d m (f53 n p))
  | .draftD S d m n p => [extWord 1, mkWord S 0x63 d m (f53 n p)]
  | .ink S m n => [mkWord S 0x64 0 m (f53 n 0)]
  | .erase S p m n => [mkWord S 0x64 (f53 16 p) m (f53 n 0)]
  | .aadd S d a b e => encAtom S 0x65 d a b e
  | .amin S d a b e => encAtom S 0x66 d a b e
  | .amax S d a b e => encAtom S 0x67 d a b e
  | .aand S d a b e => encAtom S 0x68 d a b e
  | .aor S d a b e => encAtom S 0x69 d a b e
  | .axor S d a b e => encAtom S 0x6A d a b e
  | .axchg S d a b e => encAtom S 0x6B d a b e
  | .acas S d a b c m => [encAMod c m, mkWord S 0x6C d a b]
  | .afadd S d a b e => encAtom S 0x6D d a b e
  | .ared S o a b e => encAtom S 0x6E (f44 0 o.code) a b e
  | .fence S k sc => [mkWord S 0x6F (0#3 ++ sc.code ++ k.code) sc.grp 0]
  | .dflush S => [mkWord S 0x6F 0 0 0x20]
  | .cflush S a b => [mkWord S 0x6F (f26 0 a) (f26 0 b) 0x40]
  | .cflushPersist S a b => [mkWord S 0x6F (f26 0 a) (f26 0 b) 0x41]
  | .cinv S a b => [mkWord S 0x6F (f26 0 a) (f26 0 b) 0x60]
  | .carve S c => [mkWord S 0x6F (f53 0 c) 0 0x80]
  | .pclass S a b k => [mkWord S 0x6F (f26 0 a) (f26 0 b) (f62 0x28 k.code)]
  | .cpyMs S x d t s => encX x (mkWord S 0x70 (f26 0 d) (f26 0 t) (f26 0 s))
  | .cpySm S x d t s => encX x (mkWord S 0x70 (f26 1 d) (f26 0 t) (f26 0 s))
  | .cpyMf S x d f s => encX x (mkWord S 0x70 (f26 2 d) (f53 0 f) (f26 0 s))
  | .cpySf S x d f s => encX x (mkWord S 0x70 (f26 3 d) (f53 0 f) (f26 0 s))
  | .cpyZd S d t s q => [extWord (0#4 ++ q ++ 1#16), mkWord S 0x70 (f26 t.kind d) t.fieldB (f26 0 s)]
  | .cpym S d f s c => [encFollow c, mkWord S 0x71 (f26 2 d) (f53 0 f) (f26 0 s)]
  | .cpymSf S d f s c => [encFollow c, mkWord S 0x71 (f26 3 d) (f53 0 f) (f26 0 s)]
  | .gath S d f x => [mkWord S 0x72 (f26 0 d) (f53 0 f) (f53 0 x)]
  | .strm S x a b => [mkWord S 0x73 (f53 0 x) (f26 0 a) (f26 0 b)]
  | .vfeed S d x => [mkWord S 0x74 d (f53 0 x) 0]
  | .mma S d i j q => [mkWord S 0x75 (f44 0 d) (0#4 ++ j ++ i) (f44 0 q)]
  | .mmas S d i j q => [mkWord S 0x75 (f44 8 d) (0#4 ++ j ++ i) (f44 0 q)]
  | .skcfg S a b => encT S 0x76 0 0 a (f26 0 b)
  | .skmap S a d => encT S 0x76 1 0 a (f44 0 d)
  | .accld S d a r => [mkWord S 0x77 d (f44 0 a) (0#3 ++ r)]
  | .accz S a => [mkWord S 0x77 0 (f44 0 a) 0x80]
  | .qset S q => [mkWord S 0x78 (f44 0 q) 0 0]
  | .qclr S q => [mkWord S 0x78 (f44 0 q) 0 1]
  | .shset S d a => encT S 0x78 0 d a 2
  | .fwait S a => encT S 0x79 0 0 a 0
  | .ftest S d a => encT S 0x79 0 d a 1
  | .fstat S d a => encT S 0x79 0 d a 2
  | .fcancel S a => encT S 0x79 0 0 a 3
  | .eqpush S e a => encT S 0x7A 0 e a 0
  | .eqcfg S e a => encT S 0x7A 1 e a 0
  | .collAllreduce S d a => encT S 0x7B 0 d a 0
  | .collReducescatter S d a => encT S 0x7B 0 d a 1
  | .collAllgather S d a => encT S 0x7B 0 d a 2
  | .collBroadcast S d a => encT S 0x7B 0 d a 3
  | .collredo S d a => encT S 0x7B 1 d a 0
  | .loadDataReturn _ _ _ => [] | .limitExpiry _ => [] | .truthArrival _ => [] | .claim _ => []
  | .claimResult _ => [] | .sendData _ => [] | .register _ => [] | .storeAck _ => [] | .close _ => []
  | .evict _ _ => [] | .deliver _ => [] | .atomicAtHome _ _ => [] | .draftAtHome _ _ => []
  | .inkAtHome _ _ => [] | .eraseAtHome _ _ => [] | .claimOverflow _ => [] | .regionMerge _ _ => []
  | .reclassify _ => [] | .launchRecordTake => [] | .footprintEdgesFallen _ => [] | .blockStart _ _ => []
  | .distributorSwap _ => [] | .launchFramesExhausted _ => [] | .sliceEnd _ => [] | .blockPreempt _ => []
  | .blockRestore _ _ _ => [] | .pageFaultRingEntry _ => [] | .blockEnd _ => [] | .carveApply _ => []
  | .distributorRecarve _ _ => [] | .jobStart _ => [] | .jobStep _ => [] | .jobComplete _ => []
  | .followOnBegin _ => [] | .kgroupStep _ => [] | .eqCountdownExpiry _ => [] | .eqFiring _ => []
  | .chunkReceive _ _ _ _ => [] | .exponentReceive _ _ _ _ => [] | .collTimeout _ _ => [] | .chunkStepSend _ _ => []
  | .mcRequest _ _ _ _ _ _ _ => [] | .pcSchedule _ _ _ _ => [] | .patienceExpiry _ _ => []
  | .starvationPromote _ _ => [] | .refreshDue _ _ _ => [] | .alertBackoff _ _ _ => []
  | .catchupRefresh _ _ _ => [] | .rowSpareDone _ => [] | .patrolScrub _ _ _ _ => []
  | .flitReceive _ _ _ _ => [] | .nakReceive _ _ => [] | .laneLoss _ _ => [] | .retrainEnd _ => []
  | .linkTimeout _ => [] | .peerRequest _ _ _ _ _ => [] | .peerErrorCompletion _ => []
  | .hostPortTrain _ _ => [] | .hostAccess _ _ _ _ => [] | .snoopResponse _ _ _ => []
  | .biasFlushStart _ => [] | .biasFlushComplete _ => [] | .governorSample _ _ => []
  | .pTransitionDone => [] | .mTransitionDone => [] | .dieParkDone _ => [] | .dieUnparkDone _ _ => []
  | .healthUpdate _ _ => [] | .ckptStepDone _ => [] | .reset => [] | .selfTestEnd _ => []
  | .trainingEnd _ _ => [] | .flashErase => [] | .flashProgram => [] | .flashRead => [] | .flashOpDone => []
  | .lqdoor _ _ => [] | .lqctlWrite _ _ => [] | .remapWrite _ _ => [] | .contextTableWrite _ => []
  | .pfresume _ => [] | .tlbinv _ => [] | .tlbinvDone => [] | .biasRangeWrite _ => [] | .biascmd _ => []
  | .mcspare _ _ => [] | .lnkctlRetrain _ _ => [] | .lnkctlDisable _ _ => [] | .atcommit _ => []
  | .collinjWrite _ => [] | .collDomainWrite _ => [] | .devnumWrite _ => [] | .pwrceilWrite _ => []
  | .pstlimWrite _ => [] | .diePark _ => [] | .dieUnpark _ => [] | .dieparkHold _ => []
  | .ensaveWrite _ => [] | .ckptSave _ => [] | .ckptRestore _ => [] | .managementAccess _ _ => []
  | .powerFail => [] | .staticCharge _ => [] | .atcommitComplete => []
  | .illegalInstruction _ _ _ _ => [] | .instructionFetchFault _ => []

/-- Decodes the words that the encoder gives. -/
def decodeWords (ws : List Word) : Except Reject (Instr × Nat) :=
  decodeUnit (ws.getD 0 0) (ws.getD 1 0) (ws.getD 2 0)

/-- The number of words of an instruction; 0 for an event. -/
def Instr.words (i : Instr) : Nat := (encode i).length

end Sys2Proof
end

