-- ==== Sys2Proof/Machine/Tab.lean ====
section
/-! DEFINITION. Keyed tables: the registers, the records of waves, blocks, launches, jobs and cores, and every other numbered thing of the machine. A key that nothing has written reads as the default. -/

namespace Sys2Proof.Machine

/-- A table of values by number. -/
abbrev Tab (α : Type) := List (Nat × α)

/-- The value under key `k`, or `d` where nothing has been written. -/
def Tab.get {α : Type} (d : α) : Tab α → Nat → α
  | [], _ => d
  | (k', v) :: t, k => if k' = k then v else Tab.get d t k

/-- Writes the value under key `k`. -/
def Tab.set {α : Type} : Tab α → Nat → α → Tab α
  | [], k, v => [(k, v)]
  | (k', v') :: t, k, v => if k' = k then (k, v) :: t else (k', v') :: Tab.set t k v

/-- True when key `k` has been written. -/
def Tab.has {α : Type} : Tab α → Nat → Bool
  | [], _ => false
  | (k', _) :: t, k => k' == k || Tab.has t k

/-- Removes key `k`. -/
def Tab.del {α : Type} : Tab α → Nat → Tab α
  | [], _ => []
  | (k', v) :: t, k => if k' = k then Tab.del t k else (k', v) :: Tab.del t k

/-- Changes the value under key `k`. -/
def Tab.upd {α : Type} (d : α) (t : Tab α) (k : Nat) (f : α → α) : Tab α := t.set k (f (t.get d k))

/-- Changes every value of the table. -/
def Tab.mapVals {α : Type} (f : Nat → α → α) (t : Tab α) : Tab α := t.map fun p => (p.1, f p.1 p.2)

/-- The keys whose values satisfy `f`, in the order of the table. -/
def Tab.keysWhere {α : Type} (f : Nat → α → Bool) (t : Tab α) : List Nat :=
  (t.filter fun p => f p.1 p.2).map Prod.fst

/-- One more than the highest key: a number that no record has. -/
def Tab.fresh {α : Type} : Tab α → Nat
  | [] => 0
  | (k, _) :: t => max (k + 1) (Tab.fresh t)

theorem Tab.get_set_same {α : Type} (d : α) (t : Tab α) (k : Nat) (v : α) :
    (t.set k v).get d k = v := by
  induction t with
  | nil => simp [Tab.set, Tab.get]
  | cons p t ih =>
    obtain ⟨k', v'⟩ := p
    by_cases h : k' = k <;> simp [Tab.set, Tab.get, h, ih]

theorem Tab.get_set_other {α : Type} (d : α) (t : Tab α) (k j : Nat) (v : α) (h : k ≠ j) :
    (t.set k v).get d j = t.get d j := by
  induction t with
  | nil => simp [Tab.set, Tab.get, h]
  | cons p t ih =>
    obtain ⟨k', v'⟩ := p
    by_cases hk : k' = k
    · subst hk; simp [Tab.set, Tab.get, h]
    · by_cases hj : k' = j
      · subst hj; simp [Tab.set, Tab.get, hk]
      · simp [Tab.set, Tab.get, hk, hj, ih]

end Sys2Proof.Machine
end

