-- ==== Sys2Proof/Machine/State.lean ====
section
/-! DEFINITION. The state of the device: every piece of state that spec/ names, as plain data, and the state after reset. -/

namespace Sys2Proof.Machine

/-- Why the machine stops. No step of this model stops with a fault: every condition the manual describes is a trap, a status word or a refusal code, which the machine records and goes on (log entry 8). -/
inductive Fault where
  /-- Raised by no meaning; the machine of the manual never stops. Safe. -/
  | stopped
deriving DecidableEq, Repr

/-- Why an instruction has no meaning. -/
inductive Refusal where
  /-- Raised by the dispatch arm of an instruction that has no meaning yet. Safe. -/
  | notModelled (mnemonic : String)
deriving DecidableEq, Repr

/-- Memory: bytes by address, addresses strictly rising, no entry equal to 0, which is what an unlisted byte reads as (log entry 2). -/
abbrev Mem := List Host.Cell

/-! ## Waves -/

/-- A vector register: eight lanes and their guess bits (R28, R134). -/
structure VReg where
  lanes : L8 Word
  guess : Mask
deriving DecidableEq, Repr

/-- A predicate register: eight lanes and their guess bits (R28, R134). -/
structure PReg where
  bits : Mask
  guess : Mask
deriving DecidableEq, Repr

/-- A scalar register: its value and its future mark (R28, R154). -/
structure SRegVal where
  val : DWord
  fut : Bool
deriving DecidableEq, Repr

/-- A path: PC, lane mask, MODE and the index of its join record (R65). -/
structure PathRec where
  pc : DWord
  mask : Mask
  mode : Word
  jr : Option Nat
deriving DecidableEq, Repr

/-- An entry of the spill stack (R65). -/
inductive Spill where
  | path (p : PathRec)
  | join (pc : DWord) (expected arrived : Mask) (mode : Word) (outer : Option Nat)
deriving DecidableEq, Repr

/-- What a PC slot that holds an instruction waits for (WaitUntil of R227). -/
inductive Wait where
  /-- Nothing. -/
  | none
  /-- The check window of the slot is closed (R112). -/
  | window
  /-- A counter of the block is at most `n` (R72, R249). -/
  | counter (p : Path) (n : Nat)
  /-- Each access named has its claims passed and its data sent (level 1), has been acknowledged (level 2), has returned its result (level 3), has had its draft lanes answered (level 4), or has passed its claims or been answered (level 5) (R116, R117, R144). -/
  | accesses (level : Nat) (accs : List Nat)
  /-- A release of the wave at a scope (R116). -/
  | release (wave : Nat) (level : Nat) (accs : List Nat) (sfr : Nat)
  /-- A generation of a barrier completes (R77). -/
  | barrier (glob : Bool) (n gen : Nat)
  /-- A job is no longer pending (R154, R310). -/
  | future (h : Word)
  /-- A job slot of an engine is free and the footprint unit has room (R153, R154, R298). -/
  | jobRoom (engine : Nat)
  /-- A LAUNCH queue has room (R251). -/
  | launchRoom (ctx : Nat)
  /-- An expert token queue has room (R170). -/
  | tokenRoom (q : Nat)
  /-- The sequencer queue of the block has room (R163). -/
  | seqRoom
  /-- The item at a position is at the head of a feed of the block, or another command has taken the position (R163, R305). -/
  | feed (f pos : Nat)
  /-- A CPY.zd no longer owes a tile predicate (R160). -/
  | tilePred (q : Nat)
  /-- Every command queued on an accumulator before has finished (R164). -/
  | accum (a before : Nat)
  /-- The truth of the load of a guess tag has arrived and been claimed (R138). -/
  | truths (accs : List Nat)
  /-- Every copy job of the block has completed (R240). -/
  | blockJobs
  /-- Every ARED buffer entry or U word that a DFLUSH or a barrier sends has been combined at its home (R63, R293). -/
  | flush
deriving DecidableEq, Repr

/-- One logged register write of the check window: the register, the lanes written and what it held before (R112). -/
inductive UndoItem where
  | v (r : Nat) (lanes : Mask) (old : VReg)
  | s (r : Nat) (old : SRegVal)
  | p (r : Nat) (lanes : Mask) (old : PReg)
  | lim (n : Nat) (old : Word)
  /-- The lanes of an outstanding result that younger writes had taken (R27). -/
  | dead (acc : Nat) (old : List Mask)
deriving DecidableEq, Repr

/-- A logged write with the issue that made it. -/
structure Undo where
  seq : Nat
  item : UndoItem
deriving DecidableEq, Repr

/-- A PC slot (R65, R27, R71, R112). -/
structure Slot where
  live : Bool
  path : PathRec
  /-- Parked by a switch marker (R27). -/
  parked : Bool
  /-- The unit that the slot holds until what it waits for has come about. -/
  held : Option Instr
  phase : Nat
  wait : Wait
  /-- What the held unit has made so far: the access or the job it waits on. -/
  ref : Nat
  /-- The unit at the PC was reached by a branch (R34). -/
  branched : Bool
  yielded : Bool
  /-- Consecutive choice points at which the ready slot was passed over (R71). -/
  passed : Nat
  undo : List Undo
  /-- Instructions that the PC slot has issued for its path: its check window counts them from the oldest open access (R112). -/
  windowCount : Nat
  /-- The held unit has been charged at the issue that passed its checks (R317). -/
  billed : Bool
deriving DecidableEq, Repr

/-- A kept fault of a guess tag (R130, R133): cause, subcode, detail and address. -/
structure KeptFault where
  cause : BitVec 8
  sub : BitVec 8
  detail : BitVec 16
  addr : DWord
deriving DecidableEq, Repr

/-- A guess tag (R133). -/
structure GTag where
  /-- The request: the access whose truth the tag keeps. -/
  acc : Nat
  base : Nat
  regs : Nat
  /-- Lanes guessed. -/
  mask : Mask
  /-- The guess written, register by register. -/
  guess : List (L8 Word)
  /-- The truth, once it has arrived. -/
  truth : Option (List (L8 Word))
  fault : Option KeptFault
  /-- Order of allocation. -/
  order : Nat
deriving DecidableEq, Repr

/-- The open region of a discardable wave (R73). -/
structure Region where
  entry : DWord
  liveV : BitVec 64
  liveS : BitVec 32
  mode : Word
  mask : Mask
deriving DecidableEq, Repr

/-- A pending error that a wave takes at its next wait on the ST path (R125, R207). -/
structure PendErr where
  cause : BitVec 8
  sub : BitVec 8
  addr : DWord
deriving DecidableEq, Repr

/-- A wave. -/
structure Wave where
  block : Nat
  /-- Index of the wave in its block. -/
  idx : Nat
  exited : Bool
  launchMask : Mask
  pad : Mask
  sregs : Tab SRegVal
  vregs : Tab VReg
  pregs : Tab PReg
  slotA : Slot
  slotB : Slot
  /-- The slot that issued last, for the alternation of R71. -/
  lastB : Bool
  /-- Spill stack, oldest entry first. -/
  spill : List Spill
  /-- The slot that runs the handler, when the wave is at handler level (R80). -/
  handler : Option Bool
  xpc : DWord
  xmode : Word
  xcause : DWord
  xlanes : Mask
  xaddr : DWord
  gexposed : DWord
  mm : Bool
  epoch : Bool
  tags : List GTag
  sfr : Nat
  /-- Barrier generations that the wave has arrived in and not waited for: barrier key and generation (R77, R250). -/
  arrived : List (Nat × Nat)
  region : Option Region
  pend : List PendErr
  /-- Writes lost under a .s release: peer and count (R123). -/
  lost : List (Nat × Nat)
  /-- Order in which waves became resident (R71). -/
  since : Nat
  /-- Commands of the wave that have started a job (R64). -/
  jobs : Nat
  /-- The core cycle in which the wave's EXIT completed (R316). -/
  left : Option DWord
deriving DecidableEq, Repr

/-! ## Blocks -/

/-- Where a block is in its life (R62, R74, R75). -/
inductive BState where
  | resident
  | saved
  | ended
deriving DecidableEq, Repr

/-- A claim on a word of scratch (R115). -/
structure SClaim where
  word : Nat
  /-- The wave and its SFR, or the job. -/
  job : Option Nat
  wave : Nat
  sfr : Nat
  wr : Bool
  acc : Nat
deriving DecidableEq, Repr

/-- An issue that a counter of R72 counts. -/
structure Flight where
  path : Path
  id : Nat
  done : Bool
deriving DecidableEq, Repr

/-- A permitted-target table: the join and the targets (R68). -/
structure Table where
  join : DWord
  targets : List DWord
deriving DecidableEq, Repr

/-- A shape record (R150). -/
structure Shape where
  base : DWord
  et : Nat
  ndim : Nat
  sc : Bool
  scr : Bool
  map : Bool
  tid : Nat
  d0 : Nat
  d1 : Nat
  d2 : Nat
  d3 : Nat
  s1 : Nat
  s2 : Nat
  s3 : Nat
  scale : DWord
deriving DecidableEq, Repr

/-- A stream register: its two records and its position (R162). -/
structure Stream where
  data : Shape
  index : Shape
  pos : Nat
  /-- The data handle that STRM named (R304). -/
  handle : Word
  /-- The STRM that bound the stream, by the order in which it issued: a VFEED that is withdrawn moves back only the stream it moved on (R304). -/
  bind : Nat
deriving DecidableEq, Repr

/-- An item of a feed: a tile of 32 rows, or a membership map (R159, R168). -/
structure Tile where
  isMap : Bool
  et : Nat
  k : Nat
  sc : Bool
  /-- The bytes of the rows, k-group by k-group: 16 bytes for each of the 32 rows (R159); or the 32 bytes of the map. -/
  bytes : List Byte
  /-- Row-major scale bytes. -/
  scales : List Byte
deriving DecidableEq, Repr

/-- One partition of a feed (R159): items not yet consumed, the position of the first, the positions that commands have been assigned, and the jobs that still deliver, in block issue order with the tiles each still owes. -/
structure Feed where
  items : List Tile
  first : Nat
  assigned : Nat
  /-- Jobs that still deliver to the feed, in block issue order, with the tiles that each owes (R300). -/
  owed : List (Nat × Nat)
deriving DecidableEq, Repr

/-- The value of a tile predicate as a queued command reads it (R160): known, or the one that a running CPY.zd will write. -/
inductive TileQ where
  | known (b : Bool)
  | owed (job : Nat)
deriving DecidableEq, Repr

/-- The sketch state of a block (R165). -/
structure Sketch where
  h : Nat
  cap : Nat
  rep : Bool
  mapIn : Bool
  seed : Word
deriving DecidableEq, Repr

/-- A queued command of the sequencer (R163). -/
structure SeqCmd where
  sketched : Bool
  aD : Nat
  i : Nat
  j : Nat
  pm : Option Nat
  pa : Nat
  pb : Nat
  q : TileQ
  sketch : Sketch
  tid : Nat
  /-- The CPYM job whose follow-on the command is (R161). -/
  job : Option Nat
  /-- The follow-on has begun; a command of an MMA has from the start. -/
  begun : Bool
  drain : Bool
  seq : Nat
deriving DecidableEq, Repr

/-- An accumulator tile (R163, R168): 32 by 32 words, the step and the membership map. -/
structure Accum where
  words : Tab Word
  step : Nat
  map : Tab Byte
deriving DecidableEq, Repr

/-- The current generation of a barrier: its number, the members that have arrived with the order of their arrivals (R77, R79). -/
structure Barrier where
  gen : Nat
  arrivals : List Nat
  /-- The core and the core cycle of the latest arrival, and how many arrivals that cycle has recorded (R79). -/
  last : Option (Nat × DWord)
  lastN : Nat
  /-- Epilogue waves of the completed generations that some wave still waits for: generation and wave. -/
  epilogue : List (Nat × Nat)
deriving DecidableEq, Repr

/-- A block. -/
structure Block where
  launch : Nat
  idx : Nat
  st : BState
  lcore : Nat
  pcore : Nat
  frame : Nat
  waves : List Nat
  /-- The 64 KiB granule that a saved block waits on, with its faulting address and kind (R101). -/
  pageWait : Option (Nat × DWord × Nat)
  scratch : Mem
  sclaims : List SClaim
  lim : Tab Word
  flights : List Flight
  tabs : Tab (Option Table)
  accs : Tab Accum
  feeds : Tab Feed
  preds : Tab TileQ
  streams : Tab (Option Stream)
  sketch : Sketch
  seqq : List SeqCmd
  bars : Tab Barrier
  share : BitVec 48
  /-- Instructions issued since the block became resident (R76). -/
  issued : Nat
  since : Nat
  /-- The block's frame was kept by a discard (R74). -/
  discarded : Bool
deriving DecidableEq, Repr

/-! ## Launches -/

/-- Where a launch record came from (R55, R56). -/
inductive Source where
  | queue (q : Nat)
  | launch (ctx : Nat)
  | firing (q : Nat)
deriving DecidableEq, Repr

/-- Where a launch is in its life. -/
inductive LState where
  /-- Waits for its edges (R153). -/
  | waiting
  /-- Flips of its footprint to device bias run (R203). -/
  | flipping
  | running
  | ended
deriving DecidableEq, Repr

/-- A range of a footprint: base, length, read, written (R152). -/
structure Range where
  base : Nat
  len : Nat
  rd : Bool
  wr : Bool
deriving DecidableEq, Repr

/-- A term of a group row (R59). -/
structure Term where
  start : Nat
  count : Nat
  stride : Nat
deriving DecidableEq, Repr

/-- The report of a launch that has ended: its code and XCAUSE, or a normal end (R70). -/
inductive Report where
  | normal
  | error (code xc : Nat)
deriving DecidableEq, Repr

/-- A launch: the fields of its record and of its descriptor (R52, R53), and its progress. -/
structure Launch where
  st : LState
  src : Source
  va : DWord
  kdesc : DWord
  nblk : Nat
  fom : Bool
  sh : Tab Word
  groups : List (List Term)
  ngrp : Nat
  ctx : Nat
  frameN : Nat
  frameVa : DWord
  statVa : DWord
  doneVa : DWord
  doneVal : DWord
  waves : Nat
  vregs : Nat
  sregs : Nat
  accs : Nat
  scr : Nat
  spillD : Nat
  handler : DWord
  lim : Tab Word
  entry : DWord
  next : Nat
  live : Nat
  frames : List Nat
  gbars : Tab Barrier
  /-- SATC, FLSC and NANC of each tensor identifier (R95), under 4 TID + 0, 1 and 2. -/
  stats : Tab Word
  /-- The token buffer of the firing, so that the buffer is freed at the end (R170). -/
  buffer : Option (Nat × Nat)
  /-- Bias pages still flipping (R203). -/
  flips : List Nat
  /-- The report that an ended launch still owes (R70). -/
  due : Option Report
deriving DecidableEq, Repr

/-! ## Cores -/

/-- States of an L1 word (R103). -/
inductive WState where
  | i | v | g | u
deriving DecidableEq, Repr

/-- One word of an L1 line: state, claim tag, data, and the operation of a U partial (R103, R119, R132). -/
structure L1Word where
  st : WState
  tag : Option (Nat × Nat)
  val : Word
  op : AredOp
  /-- The operation of the partial compares signed. -/
  sg : Bool
  /-- The data is a stale copy (R132). -/
  stale : Bool
  /-- The copy holds an uncorrectable error (R125). -/
  bad : Bool
deriving DecidableEq, Repr

/-- A line of an L1 (R102). -/
structure L1Line where
  asid : Nat
  vline : Nat
  pline : Nat
  streaming : Bool
  words : Tab L1Word
  /-- The level of the translation through which it was tagged: the page of R100 whose invalidation evicts it (R102). -/
  level : Nat
deriving DecidableEq, Repr

/-- An energy slot (R217, R220). -/
structure ESlot where
  pair : Option (Nat × Nat)
  val : BitVec 48
  esat : Bool
  /-- Charges of the current core cycle (R318). -/
  due : Nat
deriving DecidableEq, Repr

/-- Levels that PREF names (R286). -/
inductive PrefLevel where
  | l1 | l2 | msc
deriving DecidableEq, Repr

/-- A lane of a PREF whose line the array still holds back: the level, the context and the address (R190 to R193, R286). -/
structure Prefetch where
  lv : PrefLevel
  ctx : Nat
  va : DWord
deriving DecidableEq, Repr

/-- A physical core. -/
structure Core where
  cyc : DWord
  l1 : List L1Line
  carve : Nat
  carveReq : Option Nat
  /-- The block that asked for a carve-out below its own scratch (R295). -/
  carveBy : Option Nat
  history : Tab (L8 Word)
  prevCtx : Option Nat
  eslots : Tab ESlot
  /-- The active logical core and the instructions left in its slice (R61). -/
  active : Option Nat
  slice : Nat
  /-- Issue slots used in the current core cycle (R71). -/
  usedSlots : List Nat
  /-- The block whose k-group ran last (R163). -/
  lastSeq : Nat
  /-- Blocks that come to the core in this core cycle, and those that leave it in this core cycle, with their pairs (R316). -/
  entering : List Nat
  leaving : List (Nat × Nat × Nat)
  /-- Prefetches that wait for the array (R286). -/
  prefs : List Prefetch
deriving DecidableEq, Repr


/-! ## The ordering machine -/

/-- Where an access is performed (R100, R278). -/
inductive Target where
  | device
  | host
  | peer (dev : Nat) (asid : Nat)
deriving DecidableEq, Repr

/-- What has become of an entry of the fixed-order buffer: kept, on its way to its home, or in a link queue as the posted reduction of a number (R63, R293). -/
inductive BufState where
  | kept
  | flushing
  | posted (id : Nat)
deriving DecidableEq, Repr

/-- An entry of a fixed-order ARED buffer (R63). -/
structure ABuf where
  st : BufState
  /-- The wave, and the address that its lane named. -/
  wid : Nat
  va : DWord
  launch : Nat
  block : Nat
  bidx : Nat
  wave : Nat
  lane : Nat
  seq : Nat
  tgt : Target
  pa : Nat
  op : AredOp
  sg : Bool
  val : Word
deriving DecidableEq, Repr

/-- What has become of one lane's piece of an access. -/
inductive PState where
  | fresh
  | sent
  | atHome
  | passed
  | dataSent
  | acked
  | conflict
deriving DecidableEq, Repr

/-- The other party of a conflict and its kind (R113). -/
structure Conflict where
  sub : BitVec 8
  party : BitVec 16
  word : Nat
deriving DecidableEq, Repr

/-- One event of an access: the bytes of a lane at one place (R120). -/
structure Piece where
  lane : Nat
  /-- First byte of the lane's data that the piece holds. -/
  off : Nat
  va : DWord
  tgt : Target
  pa : Nat
  n : Nat
  uncached : Bool
  streaming : Bool
  /-- Bytes to write, `none` where a higher lane of the instruction writes the byte (R120). -/
  data : List (Option Byte)
  st : PState
  /-- Value returned by the home, or by a copy before it. -/
  val : List Byte
  /-- Value that the registers took before the claim returned (R105). -/
  early : Option (List Byte)
  /-- The value has reached the registers or the tag. -/
  taken : Bool
  conf : Option Conflict
  err : Option KeptFault
  /-- The lane is a linked draft (R149). -/
  linked : Bool
  /-- The result of a DRAFT or ERASE lane. -/
  ok : Bool
  /-- Place in home order of an atomic's check (R319). -/
  order : Nat
deriving DecidableEq, Repr

/-- What an access is. -/
inductive AKind where
  | ld (wd : Width) (sign : Bool)
  | lds (wd : Width)
  | sld (wd : Width)
  /-- A VFEED of stream `x`, which moved the stream on by `step` elements (R304). -/
  | vfeed (x step bind : Nat)
  | accld (a row : Nat)
  /-- MFSR of CYC or ECNT: the value is known at issue (R27, R220, R246). -/
  | mfsr (val : DWord)
  | st
  | sst
  | strc (n : Nat)
  | sts
  /-- A returning atomic: 0 AADD, 1 AMIN, 2 AMAX, 3 AAND, 4 AOR, 5 AXOR, 6 AXCHG, 7 ACAS, 8 AFADD; compared signed when `sg`. -/
  | atomic (op : Nat) (sg : Bool)
  /-- An ARED that is performed at its home: a peer, the host, or an uncached name. -/
  | ared (op : AredOp) (sg : Bool)
  | draft (pd : Nat)
  | ink
  | erase (pd : Nat)
  /-- The claim-and-compare of a consumed truth (R138). -/
  | truth (acc : Nat)
  /-- The reads of TABSET (R239). -/
  | tab
deriving DecidableEq, Repr

/-- An access in flight. -/
structure Acc where
  kind : AKind
  wave : Nat
  slotB : Bool
  block : Nat
  core : Nat
  ctx : Nat
  asid : Nat
  sfr : Nat
  seq : Nat
  /-- The path at the instruction, to which a conflict restores (R112). -/
  path : PathRec
  /-- The address after the instruction, and its switch marker. -/
  nextPc : DWord
  mark : Bool
  /-- First register of the destination group and its length. -/
  dst : Nat
  regs : Nat
  /-- Lanes that the access writes: touched lanes and pad lanes. -/
  lanes : Mask
  /-- Lanes that younger instructions have written, register by register (R27). -/
  dead : List Mask
  /-- Lanes whose address was guessed (R134). -/
  addrGuess : Mask
  pieces : List Piece
  age : Nat
  limit : Option Nat
  gsp : Nat
  gusp : Bool
  /-- The access holds the check window of its path open (R112). -/
  window : Bool
  /-- The access has been answered with a guess (R129). -/
  guessed : Bool
  /-- No tag was free at expiry, so the limit is ignored (R129). -/
  noLimit : Bool
  /-- The destination no longer takes the result: the counter has fallen. -/
  fell : Bool
  /-- Farthest level that served a lane (R218): 0 L1 to 5 HBM. -/
  level : Nat
  /-- Compare words of ACAS, lane by lane. -/
  cmp : L8 Word
  /-- Issued by the energy pair (R220). -/
  pair : Nat × Nat
  /-- Prior values of the destination group, for GSP 3. -/
  prior : List (L8 Word)
  /-- Fixed-order launches buffer their ARED (R63). -/
  tid : Nat
  /-- Instructions that its PC slot had issued before it (R112). -/
  count : Nat
  /-- The charge of its issue (R218). -/
  cost : Nat
deriving DecidableEq, Repr

/-- A message from a core to a home (R108). -/
inductive MBody where
  /-- The claim phase, the claim-and-compare, the check of an atomic or DRAFT, or an INK or ERASE of a piece. -/
  | piece (acc : Nat) (i : Nat)
  /-- The data phase of a piece. -/
  | data (acc : Nat) (i : Nat)
  /-- The close of an SFR. -/
  | close (wave sfr : Nat)
deriving DecidableEq, Repr

/-- A message in flight. A message that waits at its home has arrived and no longer keeps later ones back. -/
structure Msg where
  id : Nat
  core : Nat
  home : Nat
  body : MBody
  arrived : Bool
  /-- A close that has not left its core: data of the wave's stores for the same home comes before it (R108, R109). -/
  queued : Bool
deriving DecidableEq, Repr

/-- An open claim of an SFR on one word (R104, R105, R110, R114). -/
structure Claim where
  word : Nat
  wave : Nat
  sfr : Nat
  acc : Nat
  wr : Bool
  seq : Nat
  /-- Held in the overflow area (R114). -/
  ovf : Bool
deriving DecidableEq, Repr

/-- A live draft cell (R143). -/
structure Cell where
  addr : Nat
  old : BitVec 64
  new : BitVec 64
  ctx : Nat
  launch : Nat
  bidx : Nat
  wave : Nat
  observed : Bool
  linked : Bool
  /-- Order in which cells were obtained. -/
  order : Nat
deriving DecidableEq, Repr

/-- An entry of a region directory: base, size step k, sharers (R106). -/
structure RegionEnt where
  base : Nat
  k : Nat
  sharers : BitVec 4
  used : Nat
deriving DecidableEq, Repr

/-- A line of a remote-data cache (R97, R106). -/
structure RdcLine where
  die : Nat
  pline : Nat
  asid : Nat
  data : List Byte
  /-- Sectors of the line, 0 and 1, whose copy is uncorrectable (R125). -/
  bad : List Nat
deriving DecidableEq, Repr

/-- A page-fault that waits to be entered in the ring (R101). -/
structure PFault where
  ctx : Nat
  va : DWord
  kind : Nat
  die : Nat
  /-- Logical block, or job slot and engine code. -/
  who : Word
  entered : Bool
deriving DecidableEq, Repr

/-- A translation in a cluster TLB (R102). -/
structure TlbEnt where
  cluster : Nat
  asid : Nat
  vpage : Nat
  leaf : BitVec 64
  level : Nat
deriving DecidableEq, Repr

/-! ## Engines -/

/-- A descriptor of a collective as COLL read it (R172), with the die of its PARTY entry (R171). -/
structure CollDesc where
  op : Nat
  src : Nat
  dst : Nat
  count : Nat
  cid : Nat
  dom : Nat
  party : Nat
  emode : Nat
  eva : Nat
  errVa : Nat
  errN : Nat
  root : Nat
  die : Nat
deriving DecidableEq, Repr

/-- A record that COLLREDO read: step, chunk, kind, sender and receiver (R182, R185). -/
structure RedoRec where
  cid : Nat
  step : Nat
  chunk : Nat
  kind : Nat
  snd : Nat
  rcv : Nat
deriving DecidableEq, Repr

/-- What a job does. -/
inductive JKind where
  /-- CPY and CPYM: kind code of R45, source, destination, feed. -/
  | copy (kind : Nat) (src : Shape) (dst : Shape) (feed : Nat) (zd : Option Nat)
  | gath (data index : Shape) (row : Nat) (feed : Nat)
  | coll (d : CollDesc)
  /-- COLLREDO: the instance and the party for which it acts, none when it acts for no party (R315). -/
  | redo (act : Option (Nat × Nat)) (r : RedoRec)
deriving DecidableEq, Repr

/-- A job (R154 to R157). -/
structure Job where
  kind : JKind
  block : Nat
  wave : Nat
  ctx : Nat
  /-- Unit that runs the job: 2 × cluster + 0 or 1 for a copy engine, 1000 + hub for a collective engine. -/
  unit : Nat
  engine : Nat
  slot : Nat
  gen : Nat
  state : Nat
  code : BitVec 8
  sub : BitVec 8
  sect : Nat
  side : Bool
  started : Bool
  cancel : Bool
  suspended : Bool
  /-- Bytes copied so far. -/
  prog : Nat
  /-- Bytes gathered for the tile being delivered. -/
  buf : List Byte
  sbuf : List Byte
  tiles : Nat
  allZero : Bool
  foot : List Range
  prior : List Nat
  follow : Option SeqCmd
  copyDone : Bool
  seq : Nat
  pageWait : Option (Nat × DWord)
  tid : Nat
  /-- Reader-counted lines that the job has read (R189). -/
  counted : List Nat
  /-- The handle of the job; none once it is stale (R154, R155). -/
  label : Option Word
deriving DecidableEq, Repr

/-- An entry of the footprint unit: a launch or a job, its context, its ranges and the earlier entries it waits on (R153). -/
structure FootEnt where
  id : Nat
  launch : Option Nat
  job : Option Nat
  ctx : Nat
  foot : List Range
  edges : List Nat
deriving DecidableEq, Repr

/-- A slot of a shape table (R151). -/
structure ShapeSlot where
  gen : BitVec 20
  rcd : Option Shape
deriving DecidableEq, Repr

/-- An expert token queue (R169, R170). -/
structure EQueue where
  ctx : Option Nat
  lrec : DWord
  bufVa : DWord
  thresh : Nat
  nbuf : Nat
  cdown : Nat
  tokens : List (DWord × DWord)
  firing : Nat
  counting : Bool
  expired : Bool
  busy : List (Nat × Nat)
deriving DecidableEq, Repr

/-! ## Collectives -/

/-- A chunk of a reduction: its exponent, the special mask, the 64 words of 48 bits and the proof (R175, R176, R178). -/
structure FxChunk where
  e : Int
  mask : BitVec 64
  m : List (BitVec 48)
  proof : Nat
deriving DecidableEq, Repr

/-- A chunk that a party has sent and that has not been used: its chunk-step, its bytes, and on a hop of this device its flits as the receiving port holds them (R178, R186, R314). -/
structure Fly where
  step : Nat
  chunk : Nat
  snd : Nat
  rcv : Nat
  bytes : List Byte
  flits : List (List Byte)
deriving DecidableEq, Repr

/-- A failed chunk-step of a party (R182). -/
structure CFail where
  step : Nat
  chunk : Nat
  snd : Nat
  arith : Bool
deriving DecidableEq, Repr

/-- One party of an instance of a collective (R172 to R185). -/
structure Party where
  desc : CollDesc
  job : Option Nat
  /-- The block that issued the COLL, and the order in which parties joined (R185, R315). -/
  block : Nat
  since : Nat
  joined : Bool
  /-- Step 1 has run: the exponents of its chunks, or those supplied, are here. -/
  prep : Bool
  exps : Tab Int
  /-- Parties whose exponent message has come. -/
  expFrom : List Nat
  /-- Chunk-steps that it has gone through as receiver, and as sender, in the order of R174. -/
  rcur : Nat
  scur : Nat
  /-- Verified incoming chunks, under 4,096 × chunk + step. -/
  incs : Tab FxChunk
  /-- The partial of an owned chunk, and the step whose chunk it adds next. -/
  partials : Tab FxChunk
  nexts : Tab Nat
  /-- Converted sums of its chunks (R177). -/
  vals : Tab (List Word)
  blocked : List (Nat × Nat)
  failed : List CFail
  /-- Kinds of the error records, oldest first (R182). -/
  recs : List Nat
  /-- The party stopped on a fault of its own, or without exponents: code and subcode (R180, R182). -/
  off : Option (BitVec 8 × BitVec 8)
  /-- Chunk-steps asked for again, with the proofs of the first copy: step, chunk, expected, computed (R183). -/
  retried : List (Nat × Nat × Nat × Nat)
  /-- Its retained inputs are gone (R184, R315). -/
  released : Bool
  /-- Chunk-steps as sender whose chunks a peer has said it will not send: step, chunk and receiver (R175, R182). -/
  unsent : List (Nat × Nat × Nat)
deriving DecidableEq, Repr

/-- A re-run of a chunk-step: its job, how many error records each party had before it, and whether its own steps have run (R185). -/
structure Redo where
  job : Nat
  before : List Nat
  ran : Bool
deriving DecidableEq, Repr

/-- An instance of a collective: the domain, the collective id, the domain's record when the first party joined (device and die of each party), the parties and the chunks in flight or retained. -/
structure Inst where
  dom : Nat
  cid : Nat
  np : Nat
  flags : Nat
  timeout : Nat
  homes : List (Nat × Nat)
  parties : Tab Party
  flying : List Fly
  /-- Senders' copies of the chunks of failed chunk-steps (R184). -/
  kept : List Fly
  /-- A link on the path went down (R182). -/
  lost : Bool
  /-- Descriptors of the parties disagreed at step 1 (R182). -/
  disagree : Bool
  /-- Retention was exceeded (R184). -/
  exceeded : Bool
  /-- Re-runs that have started (R185). -/
  redos : List Redo
deriving DecidableEq, Repr

/-! ## Memory system -/

/-- A line of an MSC slice (R188, R189). -/
structure MscLine where
  line : Nat
  data : List Byte
  dirty : Bool
  readers : Nat
  used : Nat
deriving DecidableEq, Repr

/-- A row-cache entry (R190). -/
structure RowEnt where
  pci : Nat
  bank : Nat
  row : Nat
  /-- Dirty sectors, with their data. -/
  dirty : List (Nat × List Byte)
  pins : List Nat
  used : Nat
deriving DecidableEq, Repr

/-- The part of a request group that lies in one pseudo-channel (R191, R192); the parts of a group share their number. -/
structure Group where
  id : Nat
  /-- The group identifier of R191: core, wave and load tag; none for a request of no wave. -/
  who : Option (Nat × Nat × Nat)
  pci : Nat
  /-- Sector numbers: addresses ÷ 64. -/
  sectors : List Nat
  /-- The hub-cycle count at which the patience has fallen to 0; none for 0xFFFF_FFFF, which never falls. -/
  deadline : Option Nat
  demoted : Bool
  aged : Bool
  wr : Bool
  arrival : Nat
deriving DecidableEq, Repr

/-- Refresh states of a bank (R193). -/
inductive RState where
  | normal | catchup | backoff
deriving DecidableEq, Repr

/-- Refresh state of a bank and its count of postponed refreshes (R193). -/
structure BankRef where
  st : RState
  count : Nat
deriving DecidableEq, Repr

/-- A stack and its controller (R188 to R196). -/
structure Stack where
  rows : List RowEnt
  groups : List Group
  banks : Tab BankRef
  cecnt : BitVec 32
  uecnt : BitVec 16
  spared : BitVec 8
  mcspare : BitVec 32
  mcthr : BitVec 32
  /-- Corrected reads of tracked rows: pseudo-channel, bank, row and count (R195). -/
  tracked : List (Nat × Nat × Nat × Nat)
  /-- Spare rows in use: pseudo-channel, bank, row and spare (R195). -/
  remap : List (Nat × Nat × Nat × Nat)
  /-- The row being spared. -/
  sparing : Option (Nat × Nat × Nat)
  /-- Sectors written back while their bank allows no activate, with their data, the youngest first (R193). -/
  late : List (Nat × List Byte)
  failed : Bool
deriving DecidableEq, Repr

/-! ## Host, links, protection -/

/-- A posted write or reduction to a peer that waits in its link queue (R63, R108, R204). -/
structure Posted where
  acc : Nat
  i : Nat
  /-- The wave that wrote it; none for the device or a job. -/
  wave : Option Nat
  /-- The launch whose end wrote it (R70). -/
  launch : Option Nat
  dev : Nat
  /-- Context identifier and sending device number that the request carries (R207, R320). -/
  asid : Nat
  src : Nat
  va : DWord
  bytes : List (Option Byte)
  /-- The operation of a reduction, and whether it compares signed; none for a write. -/
  red : Option (AredOp × Bool)
deriving DecidableEq, Repr

/-- A flit of a millrace link (R204). -/
structure Flit where
  ty : Nat
  seq : Nat
  credits : Nat
  /-- What a peer request carries: untranslated VA, ASID and sending device number (R207, R320). -/
  req : Option (DWord × Nat × Nat)
  /-- A response that is an error completion (R207). -/
  err : Bool
  /-- The payload, where its layout is given: the bytes of a chunk, and what a read returns. -/
  payload : List Byte
deriving DecidableEq, Repr

/-- A millrace link (R204 to R206). -/
structure Link where
  stat : BitVec 64
  ctl : BitVec 32
  queue : List Posted
  replay : List Flit
  rxSeq : BitVec 12
  txSeq : BitVec 12
  /-- The flit replayed last, and how often its replay has failed in a row (R206). -/
  nak : Option Nat
  fails : Nat
  /-- A lane that has failed and waits for the retraining to replace it (R206). -/
  lostLane : Option Nat
  /-- The sequence number that the last NAK sent named, until the flit comes (R204). -/
  nakSent : Option Nat
  /-- Credits to be returned to the peer: flits accepted since the last return (R204, R212). -/
  owed : Nat
  /-- Accepted request and posted-write flits whose request has yet to be served (R207). -/
  reqs : Nat
  /-- Payloads of accepted collective flits, the oldest first (R314). -/
  chunkIn : List (List Byte)
deriving DecidableEq, Repr

/-- States of a bias flip (R201). -/
inductive FlipState where
  | d2h | d2hFl | h2d
deriving DecidableEq, Repr

/-- What asked for a flip: BIASCMD (R201), or the migration of a launch (R203). -/
inductive FlipBy where
  | command
  | launch (l : Nat)
deriving DecidableEq, Repr

/-- A running bias flip (R201). -/
structure Flip where
  page : Nat
  st : FlipState
  /-- Lines whose snoop has not been answered. -/
  snoops : List Nat
  who : FlipBy
deriving DecidableEq, Repr

/-- A bias range: its two words and its bias bits (R199). -/
structure BRange where
  w0 : BitVec 64
  w1 : BitVec 64
  /-- Bias pages in host bias. -/
  hostPages : List Nat
deriving DecidableEq, Repr

/-- What a host access returns: data, a Completer Abort (PCIe and CXL.io), or the error response of CXL.mem with zero data (R210). -/
inductive HReply where
  | data (d : List Byte)
  | abort
  | memError (d : List Byte)
deriving DecidableEq, Repr

/-- A host access: function, address, the bytes written or as many bytes as are read, and once it has been served its reply (R198, R202, R210). -/
structure HostAcc where
  fn : Nat
  pa : Nat
  wr : Bool
  data : List Byte
  done : Option HReply
deriving DecidableEq, Repr

/-! ## Hub 0: management -/

/-- A context-table entry (R99). -/
structure Ctx where
  v : Bool
  root : Nat
  asid : Nat
deriving DecidableEq, Repr

/-- A host launch queue (R55). -/
structure LQueue where
  ctx : Nat
  en : Bool
  recs : List DWord
  ovf : Bool
deriving DecidableEq, Repr

/-- A record in a LAUNCH queue: its VA, its source, the values of sh0 and sh1 that a firing sets and its buffer, and the launch that issued it (R170, R251). -/
structure LaunchRec where
  va : DWord
  src : Source
  sh : Option (Word × Word)
  buffer : Option (Nat × Nat)
  parent : Option Nat
deriving DecidableEq, Repr

/-- The flash operation that runs: OP, and the copy, the block and the 64 bytes that FLADDR and FLDATA held at GO (R25). -/
structure FlashOp where
  op : Nat
  copyB : Bool
  blk : Nat
  data : List Byte
deriving DecidableEq, Repr

/-- The registers of management space that hold plain values, and the state behind them. -/
structure Mgmt where
  partid : BitVec 32
  /-- PCI Vendor ID [15:0], Subsystem Vendor ID [31:16] and Subsystem ID [47:32], from the configuration block (R10, R21). -/
  pciid : BitVec 48
  cfgstat : BitVec 32
  bootstat : BitVec 32
  hostmode : BitVec 32
  apbase : BitVec 64
  devnum : BitVec 32
  flashA : Tab Byte
  flashB : Tab Byte
  /-- Areas of a copy that a failure of power left partly erased or programmed: copy B, the block or the whole copy, and a stamp (R25). -/
  flashTorn : List (Bool × Option Nat × Nat)
  /-- The flash operation that runs, while its effect has not been made yet. -/
  flashRun : Option FlashOp
  fladdr : BitVec 32
  flcmd : BitVec 32
  fldata : Tab (BitVec 64)
  remap : Tab (BitVec 9)
  failed : BitVec 512
  /-- Cluster of a spare core that hosts a logical core (R19). -/
  spareCluster : Tab Nat
  unplaced : List Nat
  /-- Former PCOREs of a logical core that parkings moved, the latest first (R215). -/
  former : Tab (List Nat)
  parkAtReset : BitVec 4
  spareLanes : Tab Byte
  sliceq : BitVec 24
  lq : Tab LQueue
  lauq : Tab (List LaunchRec)
  rr : Nat
  errlog : Tab (BitVec 128)
  /-- Entries made in the launch error log since reset: LERRCNT reads the number, saturated (R56). -/
  lerrcnt : Nat
  pwrceil : BitVec 32
  pstlim : BitVec 32
  pwrstat : BitVec 64
  /-- P- and M-state to which a running transition goes. -/
  pGoal : Option Nat
  mGoal : Option Nat
  /-- P- and M-state asked for while a transition or a checkpoint runs (R213, R222). -/
  pNext : List Nat
  mNext : List Nat
  diepark : BitVec 32
  dieWait : List (Nat × Bool)
  ensave : BitVec 64
  ewt : Tab (BitVec 32)
  stw : Tab (BitVec 32)
  hlth : BitVec 64
  age : Tab (BitVec 64)
  memh : Tab (BitVec 64)
  linkh : Tab (BitVec 64)
  /-- Daily samples of each component, oldest first (R221). -/
  samples : Tab (List Nat)
  ckpt0 : BitVec 64
  ckpt1 : BitVec 64
  ckpt2 : BitVec 64
  ckptGood : Bool
  ckptBlocks : List Nat
  ctxs : Tab Ctx
  pfbase : BitVec 64
  pfhead : BitVec 8
  pftail : BitVec 8
  faults : List PFault
  tlbinv : BitVec 64
  tlbinvn : BitVec 64
  ranges : Tab BRange
  biascmd : BitVec 64
  flips : List Flip
  /-- Flip requests that wait behind a running flip: page, to host, and who asks. -/
  flipWait : List (Nat × Bool × FlipBy)
  peerasid : Tab (BitVec 64)
  atsel : BitVec 32
  atwin : Tab (BitVec 128)
  /-- A commit that has not ended: target and master, and the entries (R209). -/
  atcommit : Option (Nat × Tab (BitVec 128))
  /-- Access tables: key 4,096 × target + MID, entries by index. -/
  ats : Tab (Tab (BitVec 128))
  colldom : Tab (BitVec 32)
  collinj : Tab (BitVec 64)
  /-- What the last access of management space returned, none for an error completion (R321). -/
  reply : Option (BitVec 64)
deriving DecidableEq, Repr

/-! ## The whole device -/

/-- The place that issues: a wave and one of its PC slots. -/
structure Focus where
  wave : Nat
  slotB : Bool
deriving DecidableEq, Repr

/-- What a peer tells of a party on it (R175, R182 to R185, R315): it has stopped, its descriptor disagrees, the block that issued its COLL has ended, its sum of a chunk is blocked, it will not send a chunk; of a chunk that was sent to it, that it has accepted it, that its check failed for good, or that it asks for it again. -/
inductive PartyNews where
  | stopped
  | disagrees
  | released
  | blocked (step chunk : Nat)
  | unsent (step chunk rcv : Nat)
  | accepted (step chunk snd : Nat)
  | failed (step chunk snd : Nat)
  | again (step chunk snd : Nat)
deriving DecidableEq, Repr

/-- What an agent does next. The manual leaves the order of the agents open; a list of turns says which order a run takes (log entry 5). -/
inductive Turn where
  /-- The slot scheduler of an issue slot picks and issues (R71). -/
  | issue (pcore islot : Nat)
  /-- A step of another agent: an event row. -/
  | event (e : Instr)
  /-- The hubs end the first piece of work of their own that can end: a flip, a commit, a transition, a parking, a sparing, a request at a memory controller, a step of a checkpoint or of the flash. -/
  | hub
  /-- The host writes its own memory. -/
  | hostMem (addr : Nat) (b : Byte)
  /-- A peer's memory changes. -/
  | peerMem (dev addr : Nat) (b : Byte)
  /-- A peer tells of a party on it. -/
  | partyNews (inst party : Nat) (n : PartyNews)
  /-- The host caches a line of a page in host bias dirty (R200). -/
  | hostLine (line : Nat) (data : List Byte)
  /-- Bits of a sector decay: at level 0 so that the array still corrects them, at levels 1 to 5 (R125) uncorrectably; `unit` is the die of a remote-data cache or the core of an L1. -/
  | upset (level unit sec : Nat)
deriving DecidableEq, Repr

/-- The state of the device. -/
structure State where
  waves : Tab Wave
  blocks : Tab Block
  launches : Tab Launch
  cores : Tab Core
  /-- Value of every byte of device memory at its home point (R97). -/
  mem : Mem
  /-- The DRAM arrays (R190). -/
  array : Mem
  /-- Host memory and the memory of peers, as the outside world holds them. -/
  hostMem : Mem
  peerMem : Tab Mem
  /-- Registrant of each word of device memory (R104). -/
  registrant : Tab (Option Nat)
  claims : List Claim
  cells : List Cell
  regions : Tab (List RegionEnt)
  rdc : List RdcLine
  /-- Lines of the L2 home slices, and the dirty ones (R97, R188). -/
  l2 : List (Nat × Bool)
  msc : List MscLine
  hbms : Tab Stack
  /-- Uncorrectable sectors: level of R125 and sector number (address ÷ 64). -/
  bad : List (Nat × Nat)
  /-- Sectors whose array data holds errors that a read will correct, and errors that it will find uncorrectable (R194). -/
  weak : List Nat
  lost : List Nat
  tlb : List TlbEnt
  accs : Tab Acc
  net : List Msg
  abufs : List ABuf
  jobs : Tab Job
  feet : List FootEnt
  shapes : Tab ShapeSlot
  eqs : Tab EQueue
  insts : Tab Inst
  links : Tab Link
  hostAccs : List HostAcc
  /-- Lines of pages in host bias that the host caches dirty, with their data (R200, R201). -/
  hostLines : Tab (List Byte)
  mgmt : Mgmt
  /-- The model's own fields (log entry 5). -/
  focus : Focus
  agenda : List Turn
  seq : Nat
deriving DecidableEq, Repr

/-! ## Defaults: what a record reads as that nothing has written -/

def VReg.zero : VReg := ⟨L8.rep 0, 0⟩
def PReg.zero : PReg := ⟨0, 0⟩
def SRegVal.zero : SRegVal := ⟨0, false⟩
def PathRec.zero : PathRec := ⟨0, 0, 0, none⟩
def Slot.zero : Slot := ⟨false, .zero, false, none, 0, .none, 0, false, false, 0, [], 0, false⟩
def Wave.zero : Wave :=
  { block := 0, idx := 0, exited := true, launchMask := 0, pad := 0, sregs := [], vregs := [], pregs := [],
    slotA := .zero, slotB := .zero, lastB := true, spill := [], handler := none, xpc := 0, xmode := 0, xcause := 0,
    xlanes := 0, xaddr := 0, gexposed := 0, mm := false, epoch := false, tags := [], sfr := 0, arrived := [],
    region := none, pend := [], lost := [], since := 0, jobs := 0, left := none }
def Sketch.zero : Sketch := ⟨0, 1, false, false, 0⟩
def Feed.zero : Feed := ⟨[], 0, 0, []⟩
def Accum.zero : Accum := ⟨[], 0, []⟩
def Barrier.zero : Barrier := ⟨0, [], none, 0, []⟩
def Shape.zero : Shape := ⟨0, 0, 1, false, false, false, 0, 1, 1, 1, 1, 0, 0, 0, 0⟩
def Block.zero : Block :=
  { launch := 0, idx := 0, st := .ended, lcore := 0, pcore := 0, frame := 0, waves := [], pageWait := none,
    scratch := [], sclaims := [], lim := [], flights := [], tabs := [], accs := [], feeds := [], preds := [],
    streams := [], sketch := .zero, seqq := [], bars := [], share := 0, issued := 0, since := 0, discarded := false }
def Launch.zero : Launch :=
  { st := .ended, src := .queue 0, va := 0, kdesc := 0, nblk := 1, fom := false, sh := [], groups := [], ngrp := 1,
    ctx := 0, frameN := 1, frameVa := 0, statVa := 0, doneVa := 0, doneVal := 0, waves := 1, vregs := 8, sregs := 1,
    accs := 0, scr := 0, spillD := 8, handler := 0, lim := [], entry := 0, next := 0, live := 0, frames := [],
    gbars := [], stats := [], buffer := none, flips := [], due := none }
def L1Word.zero : L1Word := ⟨.i, none, 0, .add, false, false, false⟩
def ESlot.zero : ESlot := ⟨none, 0, false, 0⟩
def Core.zero : Core :=
  { cyc := 0, l1 := [], carve := 0, carveReq := none, carveBy := none, history := [], prevCtx := none, eslots := [], active := none,
    slice := 65536, usedSlots := [], lastSeq := 0, entering := [], leaving := [], prefs := [] }
def Piece.zero : Piece :=
  { lane := 0, off := 0, va := 0, tgt := .device, pa := 0, n := 0, uncached := false, streaming := false, data := [], st := .fresh,
    val := [], early := none, taken := false, conf := none, err := none, linked := false, ok := false, order := 0 }
def Acc.zero : Acc :=
  { kind := .st, wave := 0, slotB := false, block := 0, core := 0, ctx := 0, asid := 0, sfr := 0, seq := 0,
    path := .zero, nextPc := 0, mark := false, dst := 0, regs := 0, lanes := 0, dead := [], addrGuess := 0, pieces := [], age := 0, limit := none,
    gsp := 0, gusp := false, window := false, guessed := false, noLimit := false, fell := false, level := 0,
    cmp := L8.rep 0, pair := (0, 0), prior := [], tid := 0, count := 0, cost := 0 }
def Job.zero : Job :=
  { kind := .gath .zero .zero 0 0, block := 0, wave := 0, ctx := 0, unit := 0, engine := 0, slot := 0, gen := 0,
    state := 2, code := 8, sub := 1, sect := 0, side := false, started := false, cancel := false, suspended := false,
    prog := 0, buf := [], sbuf := [], tiles := 0, allZero := true, foot := [], prior := [], follow := none,
    copyDone := false, seq := 0, pageWait := none, tid := 0, counted := [], label := none }
def ShapeSlot.zero : ShapeSlot := ⟨0, none⟩
def EQueue.zero : EQueue := ⟨none, 0, 0, 1, 1, 0, [], 0, false, false, []⟩
def CollDesc.zero : CollDesc := ⟨0, 0, 0, 0, 0, 0, 0, 0, 0, 0, 0, 0, 0⟩
def Party.zero : Party :=
  { desc := .zero, job := none, block := 0, since := 0, joined := false, prep := false, exps := [], expFrom := [], rcur := 0,
    scur := 0, incs := [], partials := [], nexts := [], vals := [], blocked := [], failed := [], recs := [], off := none,
    retried := [], released := false, unsent := [] }
def Inst.zero : Inst := ⟨0, 0, 0, 0, 0, [], [], [], [], false, false, false, []⟩
def BankRef.zero : BankRef := ⟨.normal, 0⟩
/-- A stack at reset: MCTHR.ROWCE is 16, the other registers 0 (R196). -/
def Stack.zero : Stack :=
  { rows := [], groups := [], banks := [], cecnt := 0, uecnt := 0, spared := 0, mcspare := 0, mcthr := 16,
    tracked := [], remap := [], sparing := none, late := [], failed := false }
/-- A link at reset: STATE 1, FLANE none, TIMEOUT 0x0100 (R205). -/
def Link.zero : Link := ⟨0x79, 0x100, [], [], 0, 0, none, 0, none, none, 0, 0, []⟩
def BRange.zero : BRange := ⟨0, 0, []⟩
def Ctx.zero : Ctx := ⟨false, 0, 0⟩
def LQueue.zero : LQueue := ⟨0, false, [], false⟩

/-- The weight table at reset (R218). -/
def ewtReset : Tab (BitVec 32) :=
  [(0, 20), (1, 60), (2, 90), (3, 80), (4, 40), (5, 150), (6, 250), (7, 400), (8, 600), (9, 1200), (10, 120),
   (11, 30), (12, 200), (13, 2600), (14, 300), (15, 0)]
/-- The static table at reset (R219). -/
def stwReset : Tab (BitVec 32) :=
  [(0, 1500), (1, 1520), (2, 1560), (3, 1640), (4, 1780), (5, 2400)]

/-- An access-table entry that grants every right over all pages (R208). -/
def grantAll : BitVec 128 := BitVec.ofNat 128 (0x3F + (2 ^ 40 - 1) * 2 ^ 76)
/-- Management registers at reset, before the configuration block is loaded. -/
def Mgmt.reset : Mgmt :=
  { partid := 0x00B14016, pciid := 0, cfgstat := 0, bootstat := 1, hostmode := 0, apbase := 0, devnum := 0, flashA := [],
    flashB := [], flashTorn := [], flashRun := none, fladdr := 0, flcmd := 0, fldata := [], remap := [], failed := 0, spareCluster := [], unplaced := [],
    former := [], parkAtReset := 0, spareLanes := [], sliceq := 65536, lq := [], lauq := [], rr := 0, errlog := [],
    lerrcnt := 0, pwrceil := 360, pstlim := 0, pwrstat := 0, pGoal := none, mGoal := none, pNext := [], mNext := [], diepark := 0xF0,
    dieWait := [], ensave := 0, ewt := ewtReset, stw := stwReset, hlth := 0x3FFFFF, age := [], memh := [],
    linkh := [], samples := [], ckpt0 := 0, ckpt1 := 0, ckpt2 := 0, ckptGood := true, ckptBlocks := [], ctxs := [],
    pfbase := 0, pfhead := 0, pftail := 0, faults := [], tlbinv := 0, tlbinvn := 0, ranges := [], biascmd := 0,
    flips := [], flipWait := [], peerasid := [], atsel := 0, atwin := [], atcommit := none, ats := [(4096 * 37 + 0xD00, [(0, grantAll)])], colldom := [],
    collinj := [], reply := none }

/-- The device right after reset: the configuration phase has not run yet (R224), nothing is listed in memory, and every register holds the value its rule gives. -/
def State.reset : State :=
  { waves := [], blocks := [], launches := [], cores := [], mem := [], array := [], hostMem := [], peerMem := [],
    registrant := [], claims := [], cells := [], regions := [], rdc := [], l2 := [], msc := [], hbms := [],
    bad := [], weak := [], lost := [], tlb := [], accs := [], net := [], abufs := [], jobs := [], feet := [], shapes := [], eqs := [],
    insts := [], links := [], hostAccs := [], hostLines := [], mgmt := .reset, focus := ⟨0, false⟩, agenda := [], seq := 0 }

end Sys2Proof.Machine
end

