-- ==== Sys2Proof/Machine/Mem.lean ====
section
/-! DEFINITION. Bytes, words and lines of memory, and the parts of a physical address (spec/09_ordering.md R97, R98, spec/17_memory_system.md R187). -/

namespace Sys2Proof.Machine

/-- What a byte that nothing has written reads as (log entry 2). -/
def emptyByte : Byte := 0

/-- One byte of memory. -/
def Mem.byte : Mem → Nat → Byte
  | [], _ => emptyByte
  | (a', b) :: t, a => if a' = a then b else Mem.byte t a

/-- Writes one byte, keeping the canonical form. -/
def Mem.put : Mem → Nat → Byte → Mem
  | [], a, b => if b = emptyByte then [] else [(a, b)]
  | (a', b') :: t, a, b =>
    if a < a' then (if b = emptyByte then (a', b') :: t else (a, b) :: (a', b') :: t)
    else if a' = a then (if b = emptyByte then t else (a, b) :: t)
    else (a', b') :: Mem.put t a b

/-- The canonical form: every address is above `lo`, addresses strictly rise, and no entry is what an unlisted byte reads as. -/
def Mem.wfFrom : Option Nat → Mem → Bool
  | _, [] => true
  | lo, (a, b) :: t => (match lo with | none => true | some l => decide (l < a)) && b != emptyByte && Mem.wfFrom (some a) t

/-- The canonical form of a memory. -/
def Mem.wf (m : Mem) : Bool := Mem.wfFrom none m

/-- The `n` bytes from address `a`. -/
def Mem.bytes (m : Mem) (a : Nat) : Nat → List Byte
  | 0 => []
  | n + 1 => m.byte a :: Mem.bytes m (a + 1) n

/-- Writes consecutive bytes; `none` leaves a byte as it is. -/
def Mem.putOpt (m : Mem) (a : Nat) : List (Option Byte) → Mem
  | [] => m
  | none :: t => Mem.putOpt m (a + 1) t
  | some b :: t => Mem.putOpt (m.put a b) (a + 1) t

/-- Writes consecutive bytes. -/
def Mem.putBytes (m : Mem) (a : Nat) : List Byte → Mem
  | [] => m
  | b :: t => Mem.putBytes (m.put a b) (a + 1) t

/-- Writes the `n` bytes from `a` on at once: byte `i` is `f i`. -/
def Mem.fill (m : Mem) (a n : Nat) (f : Nat → Byte) : Mem :=
  m.filter (fun c => decide (c.1 < a))
    ++ (List.range n).filterMap (fun i => if f i = emptyByte then none else some (a + i, f i))
    ++ m.filter (fun c => decide (a + n ≤ c.1))

/-- The number that little-endian bytes hold (R276). -/
def leNat : List Byte → Nat
  | [] => 0
  | b :: t => b.toNat + 256 * leNat t

/-- The `n` little-endian bytes of a number. -/
def leBytes (x : Nat) : Nat → List Byte
  | 0 => []
  | n + 1 => BitVec.ofNat 8 x :: leBytes (x / 256) n

def Mem.nat (m : Mem) (a n : Nat) : Nat := leNat (m.bytes a n)
def Mem.word (m : Mem) (a : Nat) : Word := BitVec.ofNat 32 (m.nat a 4)
def Mem.dword (m : Mem) (a : Nat) : DWord := BitVec.ofNat 64 (m.nat a 8)
def Mem.putNat (m : Mem) (a x n : Nat) : Mem := m.putBytes a (leBytes x n)

/-! ## Addresses -/

/-- Bits `lo` and up of a number, `w` of them. -/
def bitsOf (x lo w : Nat) : Nat := x / 2 ^ lo % 2 ^ w

/-- The home die of a device physical address (R98). -/
def dieOf (pa : Nat) : Nat := bitsOf pa 38 2
/-- The home slice, counted over the device: 64 × hub + slice (R98). -/
def homeOf (pa : Nat) : Nat := dieOf pa * 64 + bitsOf pa 8 6
/-- The stack of an address (R98). -/
def stackOf (pa : Nat) : Nat := dieOf pa * 4 + bitsOf pa 12 2
/-- Pseudo-channel index, bank index and row (R187). -/
def pciOf (pa : Nat) : Nat := bitsOf pa 14 2 * 16 + bitsOf pa 8 4
def bankOf (pa : Nat) : Nat := bitsOf pa 18 6
def rowOf (pa : Nat) : Nat := bitsOf pa 24 14
/-- Byte of the 1 KiB row (R187). -/
def colOf (pa : Nat) : Nat := bitsOf pa 16 2 * 256 + bitsOf pa 0 8
/-- The address of a byte of a row. -/
def rowAddr (stack pci bank row col : Nat) : Nat :=
  (stack / 4) * 2 ^ 38 + row * 2 ^ 24 + bank * 2 ^ 18 + (col / 256) * 2 ^ 16 + (pci / 16) * 2 ^ 14
    + (stack % 4) * 2 ^ 12 + (pci % 16) * 2 ^ 8 + col % 256
/-- The MSC set of a line (R188). -/
def mscSet (pa : Nat) : Nat := bitsOf pa 14 9 * 32 + bitsOf pa 7 5
/-- The 128-byte line of an address (R97). -/
def lineOf (a : Nat) : Nat := a / 128
/-- The address lies in a claim overflow area (R98). -/
def inOverflow (pa : Nat) : Bool := decide (2 ^ 38 - 2 ^ 24 ≤ pa % 2 ^ 38)
/-- The virtual address is canonical (R98). -/
def canonical (va : DWord) : Bool := va.extractLsb' 48 16 == 0 || va.extractLsb' 48 16 == 0xFFFF
/-- The die and the cluster of a physical core; a spare belongs to the cluster chosen for it (R18, R19). -/
def coreDie (pcore : Nat) : Nat := pcore / 128
/-- The PCORE value is assigned (R18). -/
def coreExists (pcore : Nat) : Bool := decide (pcore < 512) && decide (pcore % 128 < 68)

end Sys2Proof.Machine
end

