-- ==== Sys2Proof/Machine/Get.lean ====
section
/-! DEFINITION. Reading and writing the records of the state by number. A record that nothing has written reads as its default. -/

namespace Sys2Proof.Machine

/-- A wave by its number. -/
def State.wave (s : State) (w : Nat) : Wave := s.waves.get Wave.zero w
def State.setWave (s : State) (w : Nat) (x : Wave) : State := { s with waves := s.waves.set w x }
def State.updWave (s : State) (w : Nat) (f : Wave → Wave) : State := s.setWave w (f (s.wave w))

/-- A block by its number. -/
def State.block (s : State) (b : Nat) : Block := s.blocks.get Block.zero b
def State.setBlock (s : State) (b : Nat) (x : Block) : State := { s with blocks := s.blocks.set b x }
def State.updBlock (s : State) (b : Nat) (f : Block → Block) : State := s.setBlock b (f (s.block b))

/-- A launch by its number. -/
def State.launch (s : State) (l : Nat) : Launch := s.launches.get Launch.zero l
def State.setLaunch (s : State) (l : Nat) (x : Launch) : State := { s with launches := s.launches.set l x }
def State.updLaunch (s : State) (l : Nat) (f : Launch → Launch) : State := s.setLaunch l (f (s.launch l))

/-- A physical core by PCORE. -/
def State.core (s : State) (p : Nat) : Core := s.cores.get Core.zero p
def State.setCore (s : State) (p : Nat) (x : Core) : State := { s with cores := s.cores.set p x }
def State.updCore (s : State) (p : Nat) (f : Core → Core) : State := s.setCore p (f (s.core p))

/-- An access in flight by its number. -/
def State.acc (s : State) (a : Nat) : Acc := s.accs.get Acc.zero a
def State.setAcc (s : State) (a : Nat) (x : Acc) : State := { s with accs := s.accs.set a x }
def State.updAcc (s : State) (a : Nat) (f : Acc → Acc) : State := if s.accs.has a then s.setAcc a (f (s.acc a)) else s
def State.delAcc (s : State) (a : Nat) : State := { s with accs := s.accs.del a }

/-- A job by its number. -/
def State.job (s : State) (j : Nat) : Job := s.jobs.get Job.zero j
def State.setJob (s : State) (j : Nat) (x : Job) : State := { s with jobs := s.jobs.set j x }
def State.updJob (s : State) (j : Nat) (f : Job → Job) : State := if s.jobs.has j then s.setJob j (f (s.job j)) else s

/-- A memory stack, a link, an expert queue, an instance of a collective. -/
def State.stack (s : State) (k : Nat) : Stack := s.hbms.get Stack.zero k
def State.updStack (s : State) (k : Nat) (f : Stack → Stack) : State :=
  { s with hbms := s.hbms.set k (f (s.stack k)) }
def State.link (s : State) (k : Nat) : Link := s.links.get Link.zero k
def State.updLink (s : State) (k : Nat) (f : Link → Link) : State := { s with links := s.links.set k (f (s.link k)) }
def State.eq (s : State) (k : Nat) : EQueue := s.eqs.get EQueue.zero k
def State.updEq (s : State) (k : Nat) (f : EQueue → EQueue) : State := { s with eqs := s.eqs.set k (f (s.eq k)) }
def State.inst (s : State) (k : Nat) : Inst := s.insts.get Inst.zero k
def State.updInst (s : State) (k : Nat) (f : Inst → Inst) : State := { s with insts := s.insts.set k (f (s.inst k)) }

/-- The management registers. -/
def State.updMgmt (s : State) (f : Mgmt → Mgmt) : State := { s with mgmt := f s.mgmt }

/-- The next number of the model's own counter (log entry 5). -/
def State.tick (s : State) : State := { s with seq := s.seq + 1 }

/-- The number of this device (R320). -/
def State.devNum (s : State) : Nat := (s.mgmt.devnum.extractLsb' 0 14).toNat

/-- A context-table entry (R99). -/
def State.ctx (s : State) (c : Nat) : Ctx := s.mgmt.ctxs.get Ctx.zero c

/-! ## Registers of a wave -/

def Wave.s (w : Wave) (r : Nat) : DWord := (w.sregs.get SRegVal.zero r).val
def Wave.v (w : Wave) (r : Nat) : VReg := w.vregs.get VReg.zero r
def Wave.p (w : Wave) (r : Nat) : PReg := w.pregs.get PReg.zero r
/-- A PC slot: A is `false`. -/
def Wave.slot (w : Wave) (b : Bool) : Slot := if b then w.slotB else w.slotA
def Wave.setSlot (w : Wave) (b : Bool) (x : Slot) : Wave := if b then { w with slotB := x } else { w with slotA := x }
def Wave.updSlot (w : Wave) (b : Bool) (f : Slot → Slot) : Wave := w.setSlot b (f (w.slot b))

/-! ## The fields of MODE (R35) -/

def mGP (m : Word) : Nat := (m.extractLsb' 0 3).toNat
def mGE (m : Word) : Bool := m.getLsbD 3
def mGI (m : Word) : Bool := m.getLsbD 4
def mET (m : Word) : Nat := (m.extractLsb' 5 4).toNat
def mRND (m : Word) : Nat := (m.extractLsb' 9 3).toNat
def mGSP (m : Word) : Nat := (m.extractLsb' 12 2).toNat
def mGUSE (m : Word) : Nat := (m.extractLsb' 14 2).toNat
def mSAT (m : Word) : Bool := m.getLsbD 16
def mFTZ (m : Word) : Bool := m.getLsbD 17
def mFOM (m : Word) : Bool := m.getLsbD 18
def mTID (m : Word) : Nat := (m.extractLsb' 20 12).toNat

/-- The reset MODE of a wave: 0 but for FOM (R35). -/
def modeReset (fom : Bool) : Word := if fom then 0x40000 else 0

/-- A value that MODE may not hold (R37). -/
def modeIllegal (v : Word) : Bool := decide (12 < mET v) || decide (4 < mRND v) || decide (1 < mGUSE v)

/-- MODE after a whole write: FOM and bit 19 keep their values (R37). -/
def modeWrite (old new : Word) : Word := (new &&& 0xFFF3FFFF#32) ||| (old &&& 0x000C0000#32)

/-! ## Numbers of units -/

/-- The cluster of a physical core, counted over the device: 8 × die + cluster (R18, R19). -/
def State.clusterOf (s : State) (p : Nat) : Nat :=
  let c := p % 128
  if c < 64 then (p / 128) * 8 + c / 8 else s.mgmt.spareCluster.get ((p / 128) * 8 + 2 * (c - 64)) p

/-- The physical core of a logical core (R60). -/
def State.remapOf (s : State) (l : Nat) : Nat := (s.mgmt.remap.get 0 l).toNat

/-- Means 5 of the governor holds (R212). -/
def State.fullg (s : State) : Bool := s.mgmt.pwrstat.getLsbD 15
/-- A P transition stops the core clock (R213). -/
def State.coreClock (s : State) : Bool := s.mgmt.pGoal.isNone
/-- Core cycles pass and issue is not gated: no P transition runs and means 5 of the governor does not hold (R212, R213). -/
def State.clockRuns (s : State) : Bool := s.coreClock && !s.fullg
/-- The core clock in MHz (R213). -/
def State.coreMHz (s : State) : Nat := [800, 700, 600, 500, 400, 200].getD (bitsOf s.mgmt.pwrstat.toNat 0 3) 200
/-- A checkpoint is between its first and its last step: queues are held and no block comes to a core (R222). -/
def State.ckptHolds (s : State) : Bool := s.mgmt.ckpt2.getLsbD 2
/-- The task scheduler starts launches and the expert token queues fire (R216, R222). -/
def State.queuesRun (s : State) : Bool := !s.mgmt.diepark.getLsbD 13 && !s.ckptHolds

/-- The logical core has a place on a physical core (R60, R216). -/
def State.placed (s : State) (l : Nat) : Bool := decide (l < 256) && !s.mgmt.unplaced.contains l && coreExists (s.remapOf l)
/-- The logical cores that a physical core hosts. -/
def State.hosts (s : State) (p : Nat) : List Nat := (List.range 256).filter (fun l => s.placed l && s.remapOf l == p)

/-- The value that a read of a byte at its home point returns: the new value of a live draft cell, otherwise memory (R97, R145). -/
def cellByte (cells : List Cell) (a : Nat) : Option Byte :=
  match cells.find? (fun c => c.addr == a / 8 * 8) with
  | some c => some (c.new.extractLsb' (8 * (a % 8)) 8)
  | none => none
def State.homeByte (s : State) (a : Nat) : Byte :=
  match cellByte s.cells a with
  | some b => b
  | none => s.mem.byte a
def State.homeBytes (s : State) (a : Nat) : Nat → List Byte
  | 0 => []
  | n + 1 => s.homeByte a :: State.homeBytes s (a + 1) n
def State.homeNat (s : State) (a n : Nat) : Nat := leNat (s.homeBytes a n)

end Sys2Proof.Machine
end

