-- ==== Sys2Proof/Machine/Energy.lean ====
section
/-! DEFINITION. Energy charges: the slots of a core, their binding and their write-back (spec/21_power_health.md R217 to R220, spec/31_prog_energy_share.md R316 to R318). -/

namespace Sys2Proof.Machine

/-- Adds to a slot's value; beyond 2^48 − 1 it saturates and sets ESAT (R220). -/
def ESlot.add (e : ESlot) (n : Nat) : ESlot :=
  if e.val.toNat + n < 2 ^ 48 then { e with val := BitVec.ofNat 48 (e.val.toNat + n) }
  else { e with val := BitVec.ofNat 48 (2 ^ 48 - 1), esat := true }

/-- Ends a core cycle for a slot: what fell due in it is added (R318). -/
def ESlot.endCycle (e : ESlot) (n : Nat) : ESlot := { ESlot.add e (e.due + n) with due := 0 }

/-- The number of the slot that is bound to a pair. -/
def Core.slotOf (c : Core) (pair : Nat × Nat) : Option Nat :=
  match c.eslots.find? (fun x => x.2.pair == some pair) with
  | some x => some x.1
  | none => none

/-- Adds to a block's energy share, which saturates on its own (R220, R317). -/
def Block.addShare (b : Block) (n : Nat) : Block :=
  { b with share := BitVec.ofNat 48 (min (b.share.toNat + n) (2 ^ 48 - 1)) }

/-- Charges `n` pJ to the slot of a pair on a core and to the share of the block; with no slot bound the charge is kept nowhere (R217). -/
def State.charge (s : State) (p : Nat) (pair : Nat × Nat) (b n : Nat) : State :=
  match (s.core p).slotOf pair with
  | some k =>
    (s.updCore p fun c => { c with eslots := c.eslots.set k { c.eslots.get ESlot.zero k with due := (c.eslots.get ESlot.zero k).due + n } }).updBlock b
      (fun x => x.addShare n)
  | none => s

/-- Takes a charge back from a slot: from what is due at the end of this core cycle, and the rest from the value. -/
def ESlot.less (e : ESlot) (n : Nat) : ESlot :=
  { e with due := e.due - n, val := BitVec.ofNat 48 (e.val.toNat - (n - e.due)) }
/-- Takes back the charge of an issue that ended in a trap (R317). -/
def State.refund (s : State) (p : Nat) (pair : Nat × Nat) (b n : Nat) : State :=
  match (s.core p).slotOf pair with
  | some k =>
    (s.updCore p fun c => { c with eslots := c.eslots.set k ((c.eslots.get ESlot.zero k).less n) }).updBlock b
      (fun x => { x with share := BitVec.ofNat 48 (x.share.toNat - n) })
  | none => s

/-- The weight of a class (R218). -/
def State.weight (s : State) (k : Nat) : Nat := ((s.mgmt.ewt.get 0 k).extractLsb' 0 16).toNat

/-- The pair of a block (R217). -/
def State.pairOf (s : State) (b : Nat) : Nat × Nat := ((s.launch (s.block b).launch).ctx, (s.block b).lcore)

/-- The save entry of a pair (R217). -/
def State.saveEntry (s : State) (pair : Nat × Nat) : Nat := bitsOf s.mgmt.ensave.toNat 12 28 * 4096 + 2048 * pair.1 + 8 * pair.2

/-- The resident blocks of a core, in order of number. -/
def State.residents (s : State) (p : Nat) : List Nat :=
  s.blocks.keysWhere (fun _ b => b.st == .resident && b.pcore == p)

/-- A pair has a resident block on the core. -/
def State.pairResident (s : State) (p : Nat) (pair : Nat × Nat) : Bool :=
  (s.residents p).any (fun b => s.pairOf b == pair)

/-- Binds a slot to a pair that has a resident block and none yet, loading its save entry; while ENSAVE is 0 nothing is bound (R217). -/
def State.bindPair (s : State) (p : Nat) (pair : Nat × Nat) : State :=
  if s.mgmt.ensave.toNat / 4096 % 2 ^ 28 = 0 || ((s.core p).slotOf pair).isSome then s
  else
    match (List.range 8).find? (fun k => ((s.core p).eslots.get ESlot.zero k).pair.isNone) with
    | some k =>
      let e := s.homeNat (s.saveEntry pair) 8
      s.updCore p (fun c => { c with eslots := c.eslots.set k ⟨some pair, BitVec.ofNat 48 e, bitsOf e 48 1 == 1, 0⟩ })
    | none => s

/-- Writes the slot of a pair back to its save entry and frees it, when no resident block of the pair is left on the core: at the end of the last core cycle in which one was (R217, R316). -/
def State.releasePair (s : State) (p : Nat) (pair : Nat × Nat) : State :=
  if s.pairResident p pair then s
  else
    match (s.core p).slotOf pair with
    | some k =>
      let e := (s.core p).eslots.get ESlot.zero k
      let x := e.val.toNat + b2n e.esat * 2 ^ 48
      let s := { s with mem := s.mem.putNat (s.saveEntry pair) x 8 }
      s.updCore p (fun c => { c with eslots := c.eslots.set k .zero })
    | none => s

end Sys2Proof.Machine
end

