-- ==== Sys2Proof/Machine/Float.lean ====
section
/-! DEFINITION. Number formats and exact arithmetic with one rounding (spec/07_numbers.md R82 to R91). Every operation forms its exact result and rounds it once. -/

namespace Sys2Proof.Machine

/-! ## Formats -/

/-- A floating-point format: exponent bits, fraction bits, bias, and whether the top exponent holds infinities and NaNs (R85). -/
structure Fmt where
  eb : Nat
  fb : Nat
  bias : Nat
  ieee : Bool
deriving DecidableEq, Repr

def fF64 : Fmt := ⟨11, 52, 1023, true⟩
def fF32 : Fmt := ⟨8, 23, 127, true⟩
def fF16 : Fmt := ⟨5, 10, 15, true⟩
def fBF16 : Fmt := ⟨8, 7, 127, true⟩
def fE4M3 : Fmt := ⟨4, 3, 7, false⟩
def fE5M2 : Fmt := ⟨5, 2, 15, true⟩

/-- The format of a floating-point element type (R36); `none` for the others. -/
def fmtOf (et : Nat) : Option Fmt :=
  match et with
  | 2 => some fF32 | 3 => some fF16 | 4 => some fBF16 | 7 => some fE4M3 | 8 => some fE5M2 | 12 => some fF64
  | _ => none

/-- The 8-bit formats, whose NaNs carry no payload (R85). -/
def Fmt.small (f : Fmt) : Bool := decide (f.fb ≤ 3)
/-- Width in bits. -/
def Fmt.w (f : Fmt) : Nat := 1 + f.eb + f.fb
/-- The encoding of +∞, or of the first code beyond the finite ones. -/
def Fmt.top (f : Fmt) : Nat := (2 ^ f.eb - 1) * 2 ^ f.fb
/-- The encoding of the largest finite value (R85). -/
def Fmt.maxBits (f : Fmt) : Nat := if f.ieee then f.top - 1 else 2 ^ (f.eb + f.fb) - 2
/-- The canonical NaN (R85). -/
def Fmt.canon (f : Fmt) : Nat := if f.ieee then f.top + 2 ^ (f.fb - 1) else 2 ^ (f.eb + f.fb) - 1
/-- The sign bit of an encoding. -/
def Fmt.sgn (f : Fmt) (neg : Bool) : Nat := if neg then 2 ^ (f.eb + f.fb) else 0

/-- A decoded value: (−1)^neg × m × 2^e, an infinity, a NaN with its encoding and format, or the canonical NaN of an invalid operation (R91). -/
inductive FV where
  | num (neg : Bool) (m : Nat) (e : Int)
  | inf (neg : Bool)
  | nan (neg : Bool) (bits : Nat) (fb : Nat)
  | canon
deriving DecidableEq, Repr

/-- The value is a NaN. -/
def FV.isNaN : FV → Bool
  | .nan _ _ _ => true
  | .canon => true
  | _ => false

/-- The value of an encoding (R85). -/
def Fmt.decode (f : Fmt) (x : Nat) : FV :=
  let neg := bitsOf x (f.eb + f.fb) 1 == 1
  let ex := bitsOf x f.fb f.eb
  let fr := x % 2 ^ f.fb
  if f.ieee && ex == 2 ^ f.eb - 1 then (if fr == 0 then .inf neg else .nan neg x f.fb)
  else if !f.ieee && x % 2 ^ (f.eb + f.fb) == f.canon then .nan neg x f.fb
  else if ex == 0 then .num neg fr (1 - (f.bias : Int) - f.fb)
  else .num neg (2 ^ f.fb + fr) ((ex : Int) - f.bias - f.fb)

/-- The encoding is subnormal and not zero. -/
def Fmt.subnormal (f : Fmt) (x : Nat) : Bool := bitsOf x f.fb f.eb == 0 && x % 2 ^ f.fb != 0

/-- The value of an input element under FTZ, and whether it was flushed (R90). -/
def Fmt.read (f : Fmt) (ftz : Bool) (x : Nat) : FV × Bool :=
  if ftz && f.subnormal x then (.num (bitsOf x (f.eb + f.fb) 1 == 1) 0 0, true) else (f.decode x, false)

/-! ## Rounding -/

/-- What a result element counts in the statistics (R95). -/
structure FRes where
  bits : Nat
  sat : Bool
  flush : Bool
  nan : Bool
deriving DecidableEq, Repr

/-- A remainder `r` of `2^sh`, with more bits below it when `st`, is rounded up (R88). -/
def roundUpP (rnd : Nat) (neg odd : Bool) (r sh : Nat) (st : Bool) : Bool :=
  let inexact := r != 0 || st
  match rnd with
  | 0 => decide (2 ^ sh < 2 * r) || (2 * r == 2 ^ sh && (st || odd))
  | 1 => false
  | 2 => inexact && !neg
  | 3 => inexact && neg
  | 4 => decide (2 ^ sh ≤ 2 * r)
  | _ => inexact

/-- The positive value (q plus a fraction when `st`) × 2^e as an encoding without its sign, rounded once (R88). Mode 5 rounds away from zero. A value with bits below `q` has more bits in `q` than the format keeps. -/
def Fmt.roundPos (f : Fmt) (rnd : Nat) (neg : Bool) (q : Nat) (e : Int) (st : Bool) : Nat :=
  let emin : Int := 1 - (f.bias : Int) - f.fb
  let lsb : Int := max (e + (Nat.log2 q : Int) - f.fb) emin
  let d : Int := lsb - e
  let m : Nat :=
    if d ≤ 0 then q * 2 ^ (-d).toNat
    else
      let sh := d.toNat
      let k := q / 2 ^ sh
      k + b2n (roundUpP rnd neg (k % 2 == 1) (q % 2 ^ sh) sh st)
  m + (lsb - emin).toNat * 2 ^ f.fb

/-- The overflow result and whether it is a clamp that SATC counts (R89, log entry 99). -/
def Fmt.overflow (f : Fmt) (rnd : Nat) (sat neg : Bool) : FRes :=
  if sat then ⟨f.sgn neg + f.maxBits, true, false, false⟩
  else if !f.ieee then ⟨f.sgn neg + f.canon, false, false, true⟩
  else if !f.small && (rnd == 1 || (rnd == 2 && neg) || (rnd == 3 && !neg)) then ⟨f.sgn neg + f.maxBits, false, false, false⟩
  else ⟨f.sgn neg + f.top, false, false, false⟩

/-- A positive magnitude with its sign as a result element: rounding, overflow and flushing (R88 to R90). -/
def Fmt.finish (f : Fmt) (rnd orRnd : Nat) (sat ftz neg : Bool) (q : Nat) (e : Int) (st : Bool) : FRes :=
  let b := f.roundPos rnd neg q e st
  if f.maxBits < b then f.overflow orRnd sat neg
  else if ftz && b != 0 && decide (b < 2 ^ f.fb) then ⟨f.sgn neg, false, true, false⟩
  else ⟨f.sgn neg + b, false, false, false⟩

/-- The encoding of a NaN result: its sign, the top fraction bits that fit, and the quiet bit (R91); to an 8-bit format, that format's NaN (R89). -/
def Fmt.nanBits (f : Fmt) : FV → Nat
  | .nan neg bits fb =>
    if f.small then f.sgn neg + f.canon
    else
      let fr := bits % 2 ^ fb
      let fr' := if fb ≤ f.fb then fr * 2 ^ (f.fb - fb) else fr / 2 ^ (fb - f.fb)
      f.sgn neg + f.top + (fr' ||| 2 ^ (f.fb - 1))
  | _ => f.canon

/-- RoundTo of R227 under MODE.RND, SAT and FTZ. `conv` marks a conversion, in which SAT turns an infinity into the largest finite value of E4M3, E5M2, F16 and BF16, a clamp (R89, log entry 99). -/
def Fmt.encode (f : Fmt) (rnd : Nat) (sat ftz conv : Bool) (v : FV) : FRes :=
  match v with
  | .nan neg bits fb => ⟨f.nanBits (.nan neg bits fb), false, false, true⟩
  | .canon => ⟨f.canon, false, false, true⟩
  | .inf neg =>
    if sat && conv && (f.small || f == fF16 || f == fBF16) then ⟨f.sgn neg + f.maxBits, true, false, false⟩
    else if f.ieee then ⟨f.sgn neg + f.top, false, false, false⟩
    else ⟨f.sgn neg + f.canon, false, false, true⟩
  | .num neg 0 _ => ⟨f.sgn neg, false, false, false⟩
  | .num neg (m + 1) e => f.finish rnd rnd sat ftz neg (m + 1) e false

/-! ## Exact arithmetic -/

/-- The signed value of a number at an exponent no higher than its own. -/
def signedAt (neg : Bool) (m : Nat) (e e0 : Int) : Int :=
  let x : Int := m * 2 ^ (e - e0).toNat
  if neg then -x else x

/-- The first NaN of a list in operand order (R91). -/
def firstNaN (l : List FV) : Option FV := l.find? FV.isNaN

/-- x + y; an exact cancellation is −0 under RDN and +0 otherwise, as IEEE 754 has it (R85). -/
def fvAdd (rnd : Nat) (x y : FV) : FV :=
  match x, y with
  | .inf a, .inf b => if a == b then .inf a else .canon
  | .inf a, _ => .inf a
  | _, .inf b => .inf b
  | .num a 0 _, .num b 0 _ => .num (if a == b then a else rnd == 3) 0 0
  | .num _ 0 _, .num b m e => .num b m e
  | .num a m e, .num _ 0 _ => .num a m e
  | .num a m e, .num b n g =>
    let e0 := min e g
    let z := signedAt a m e e0 + signedAt b n g e0
    if z = 0 then .num (rnd == 3) 0 0 else .num (decide (z < 0)) z.natAbs e0
  | _, _ => .canon

def fvNeg : FV → FV
  | .num a m e => .num (!a) m e
  | .inf a => .inf (!a)
  | v => v

/-- x × y. -/
def fvMul (x y : FV) : FV :=
  match x, y with
  | .inf a, .inf b => .inf (a != b)
  | .inf a, .num b m _ => if m = 0 then .canon else .inf (a != b)
  | .num a m _, .inf b => if m = 0 then .canon else .inf (a != b)
  | .num a m e, .num b n g => .num (a != b) (m * n) (e + g)
  | _, _ => .canon

/-- The result of an operation whose exact value may have no finite expansion: an exact value, or a magnitude with bits below it. -/
inductive QV where
  | v (x : FV)
  | q (neg : Bool) (q : Nat) (e : Int) (st : Bool)
deriving DecidableEq, Repr

/-- x ÷ y (R260). -/
def fvDiv (x y : FV) : QV :=
  match x, y with
  | .inf _, .inf _ => .v .canon
  | .inf a, .num b _ _ => .v (.inf (a != b))
  | .num a _ _, .inf b => .v (.num (a != b) 0 0)
  | .num a m e, .num b n g =>
    if n = 0 then (if m = 0 then .v .canon else .v (.inf (a != b)))
    else if m = 0 then .v (.num (a != b) 0 0)
    else
      let k := 70 + Nat.log2 n
      .q (a != b) (m * 2 ^ k / n) (e - g - k) (m * 2 ^ k % n != 0)
  | _, _ => .v .canon

/-- The integer square root, one bit at a time from bit `k` down. -/
def isqrtFrom (x : Nat) : Nat → Nat → Nat
  | 0, r => if (r + 1) * (r + 1) ≤ x then r + 1 else r
  | k + 1, r =>
    let r' := r + 2 ^ (k + 1)
    isqrtFrom x k (if r' * r' ≤ x then r' else r)
def isqrt (x : Nat) : Nat := isqrtFrom x (Nat.log2 x / 2 + 1) 0

/-- m × 2^e with an even exponent. -/
def evenExp (m : Nat) (e : Int) : Nat × Int := if e % 2 = 0 then (m, e) else (2 * m, e - 1)

/-- The square root of a positive number. -/
def sqrtQ (m : Nat) (e : Int) : QV :=
  let (m', e') := evenExp m e
  let x := m' * 2 ^ 144
  let r := isqrt x
  .q false r (e' / 2 - 72) (r * r != x)

/-- The reciprocal square root of a positive number. -/
def rsqQ (m : Nat) (e : Int) : QV :=
  let (m', e') := evenExp m e
  let k := 2 * (Nat.log2 m' + 72)
  let x := 2 ^ k / m'
  let r := isqrt x
  .q false r (-(e' / 2) - (k / 2 : Nat)) (r * r * m' != 2 ^ k)

/-- Bits of the fixed-point numbers that enclose 2^x and log2 x. -/
def fpBits : Nat := 192

/-- ln 2 as a sum of 1 ÷ (k × 2^k), in fixed point. -/
def ln2From : Nat → Nat → Nat
  | 0, acc => acc
  | k + 1, acc => ln2From k (acc + 2 ^ (fpBits + 16) / ((k + 1) * 2 ^ (k + 1)))
def ln2Fix : Nat := ln2From (fpBits + 16) 0 / 2 ^ 16

/-- The exponential series of a fixed-point number. -/
def expFrom (x : Nat) : Nat → Nat → Nat → Nat → Nat
  | 0, _, _, acc => acc
  | n + 1, k, term, acc =>
    let t := term * x / 2 ^ fpBits / k
    expFrom x n (k + 1) t (acc + t)

/-- 2^x of a finite number that is no integer: 2^⌊x⌋ times 2 to the fraction. Beyond 2,000 in magnitude the result overflows or underflows every format. -/
def exp2Q (neg : Bool) (m : Nat) (e : Int) : QV :=
  let big : Bool := decide (11 ≤ e + (Nat.log2 m : Int))
  if big then (if neg then .q false 1 (-3000) true else .q false 1 3000 true)
  else if e < -300 then .q false (if neg then 2 ^ 130 - 1 else 2 ^ 130) (-130) true
  else
    let den : Nat := 2 ^ (-e).toNat
    let num : Int := if neg then -(m : Int) else m
    let fl : Int := num / (den : Int)
    let fr : Nat := (num - fl * den).toNat
    let x : Nat := fr * 2 ^ fpBits / den
    let y : Nat := x * ln2Fix / 2 ^ fpBits
    .q false (expFrom y 60 1 (2 ^ fpBits) (2 ^ fpBits)) (fl - (fpBits : Int)) true

/-- The fraction bits of log2 of a fixed-point number in [1, 2), one squaring for each bit. -/
def log2From : Nat → Nat → Nat → Nat
  | 0, _, acc => acc
  | n + 1, x, acc =>
    let y := x * x / 2 ^ (fpBits + 32)
    if 2 ^ (fpBits + 33) ≤ y then log2From n (y / 2) (2 * acc + 1) else log2From n y (2 * acc)

/-- log2 of a positive number that is no power of two. -/
def log2Q (m : Nat) (e : Int) : QV :=
  let lg := Nat.log2 m
  let x := m * 2 ^ (fpBits + 32) / 2 ^ lg
  let frac := log2From fpBits x 0
  let total : Int := (e + lg) * 2 ^ fpBits + frac
  if total < 0 then .q true ((-total).toNat - 1) (-(fpBits : Int)) true else .q false total.toNat (-(fpBits : Int)) true

/-- A result of an exact operation, rounded once. -/
def Fmt.encodeQ (f : Fmt) (rnd : Nat) (sat ftz : Bool) : QV → FRes
  | .v x => f.encode rnd sat ftz false x
  | .q neg q e st => f.finish rnd rnd sat ftz neg q e st

/-- One of the two values next to the exact result: toward zero, or away from it, as the fixed function of R262 chooses (log entry 6). -/
def Fmt.encodePick (f : Fmt) (op rnd et : Nat) (sat ftz : Bool) (x : Nat) : QV → FRes
  | .v y => f.encode rnd sat ftz false y
  | .q neg q e st =>
    let pick := Config.ulpPick op (BitVec.ofNat 64 x) et rnd sat ftz
    f.finish (if pick % 2 == 0 then 1 else 5) rnd sat ftz neg q e st

/-- The number is a power of two: its exponent. -/
def pow2Of (m : Nat) (e : Int) : Option Int := if m = 2 ^ Nat.log2 m then some (e + Nat.log2 m) else none

/-! ## Comparison and conversion -/

/-- The place of a value among the finite numbers and infinities at a common exponent. -/
def fvLt (x y : FV) : Bool :=
  match x, y with
  | .inf a, .inf b => a && !b
  | .inf a, _ => a
  | _, .inf b => !b
  | .num a m e, .num b n g =>
    let e0 := min e g
    decide (signedAt a m e e0 < signedAt b n g e0)
  | _, _ => false

/-- Both are equal as numbers; −0 equals +0 (R261). -/
def fvEq (x y : FV) : Bool := !x.isNaN && !y.isNaN && !fvLt x y && !fvLt y x

/-- The sign of a number or an infinity. -/
def FV.neg : FV → Bool
  | .num a _ _ => a
  | .inf a => a
  | .nan a _ _ => a
  | .canon => false

/-- The lesser of two numbers, with −0 below +0 (R91). -/
def fvMin (x y : FV) : FV := if fvLt x y || (fvEq x y && x.neg) then x else y
def fvMax (x y : FV) : FV := if fvLt y x || (fvEq x y && !x.neg) then x else y

/-- A finite number rounded to an integer (R88). -/
def roundInt (rnd : Nat) (neg : Bool) (m : Nat) (e : Int) : Int :=
  let a : Nat :=
    if 0 ≤ e then m * 2 ^ e.toNat
    else
      let sh := (-e).toNat
      m / 2 ^ sh + b2n (roundUpP rnd neg (m / 2 ^ sh % 2 == 1) (m % 2 ^ sh) sh false)
  if neg then -(a : Int) else a

/-- A value converted to an integer in a range, and whether it was clamped, as an infinite input is (R89, log entry 99): a NaN gives 0. -/
def fvToInt (rnd : Nat) (lo hi : Int) (v : FV) : Int × Bool :=
  match v with
  | .num neg m e =>
    let x := roundInt rnd neg m e
    if x < lo then (lo, true) else if hi < x then (hi, true) else (x, false)
  | .inf neg => (if neg then lo else hi, true)
  | .nan _ _ _ => (0, false)
  | .canon => (0, false)

/-- An integer as a number. -/
def fvOfInt (x : Int) : FV := .num (decide (x < 0)) x.natAbs 0

/-! ## O4 and E8M0 -/

/-- The element `i` of eight O4 codes, with its partner (R86). -/
def o4Val (code partner : Nat) (even : Bool) : FV :=
  if code == 8 && (partner != 8 || even) then .num (decide (8 ≤ partner)) 1 ((partner % 8) * 2 + 1 - 7)
  else if partner == 8 || code == 8 then .num false 0 0
  else fvOfInt (if code < 8 then (code : Int) else (code : Int) - 16)

/-- The element `i` of an O4 lane (R82, R86). -/
def o4Elem (word : Nat) (i : Nat) : FV :=
  o4Val (bitsOf word (4 * i) 4) (bitsOf word (4 * (i ^^^ 1)) 4) (i % 2 == 0)

/-- The exponent of an E8M0 scale (R87). -/
def e8m0 (code : Nat) : Int := if code == 255 then 128 else (code : Int) - 127

/-! ## Integer element types -/

/-- Element width of a type (R82). -/
def etW (et : Nat) : Nat :=
  match et with
  | 0 => 32 | 1 => 32 | 2 => 32 | 3 => 16 | 4 => 16 | 5 => 16 | 6 => 16 | 7 => 8 | 8 => 8 | 9 => 8 | 10 => 8
  | 11 => 4 | 12 => 64 | 13 => 4 | _ => 32

/-- The type is a signed integer type. -/
def etSigned (et : Nat) : Bool := et == 0 || et == 5 || et == 9
/-- The type is an integer type. -/
def etInt (et : Nat) : Bool := et == 0 || et == 1 || et == 5 || et == 6 || et == 9 || et == 10

/-- The range of an integer type (R83). -/
def etLo (et : Nat) : Int := if etSigned et then -(2 ^ (etW et - 1) : Nat) else 0
def etHi (et : Nat) : Int := if etSigned et then (2 ^ (etW et - 1) : Nat) - 1 else (2 ^ etW et : Nat) - 1

/-- The value of a w-bit code as a two's-complement or an unsigned integer. -/
def intVal (signed : Bool) (w x : Nat) : Int :=
  if signed && decide (2 ^ (w - 1) ≤ x) then (x : Int) - (2 ^ w : Nat) else x

/-- An integer modulo 2^w. -/
def wrapInt (w : Nat) (x : Int) : Nat := (x % (2 ^ w : Nat)).toNat

/-- An integer in the element type: clamped under SAT, otherwise modulo 2^w (R83); and whether it was clamped. -/
def intRes (et : Nat) (sat : Bool) (x : Int) : Nat × Bool :=
  if sat && decide (x < etLo et) then (wrapInt (etW et) (etLo et), true)
  else if sat && decide (etHi et < x) then (wrapInt (etW et) (etHi et), true)
  else (wrapInt (etW et) x, false)

/-- F32 addition to nearest, as AFADD, ARED FADD and the matrix array round it under a mode (R94, R289, R291). -/
def f32Add (rnd : Nat) (sat ftz : Bool) (x y : Nat) : FRes :=
  let (a, fa) := fF32.read ftz x
  let (b, fb) := fF32.read ftz y
  let r := match firstNaN [a, b] with
    | some n => fF32.encode rnd sat ftz false n
    | none => fF32.encode rnd sat ftz false (fvAdd rnd a b)
  { r with flush := r.flush || fa || fb }

end Sys2Proof.Machine
end

