-- ==== Sys2Proof/Machine/Translate.lean ====
section
/-! DEFINITION. From virtual addresses to places: the page-table walk, the cluster TLB, the rights of the leaf and the access tables (spec/09_ordering.md R98 to R102, spec/19_host_links.md R207 to R210). -/

namespace Sys2Proof.Machine

/-- The kinds of access that rights are named for (R210). -/
inductive Right where
  | read | write | fetch | draft | atomic
deriving DecidableEq, Repr

/-- The protection-fault subcode of a kind of access (R210). -/
def Right.sub : Right → BitVec 8
  | .read => 1 | .write => 2 | .fetch => 3 | .draft => 4 | .atomic => 5

/-- Where a virtual address leads: the target, the address at the target, the policy, the class and the owner of the page, and the place of the leaf in memory (R98, R100). -/
structure Place where
  tgt : Target
  pa : Nat
  pol : Nat
  cls : Nat
  own : Nat
  leafAt : Nat
deriving DecidableEq, Repr

/-- Why a translation gives no place: a fault with its cause and subcode, or a page that is not mapped (R100, R101). -/
inductive XErr where
  | fault (cause sub : BitVec 8)
  | unmapped
deriving DecidableEq, Repr

/-- The outcome of a walk: a leaf with its level and its place, or an error. -/
inductive Walk where
  | leaf (e : BitVec 64) (level at' : Nat)
  | err (x : XErr)
deriving DecidableEq, Repr

/-- log2 of the page that a leaf of a level maps (R100). -/
def pageBits (level : Nat) : Nat := if level = 2 then 30 else if level = 3 then 21 else 16

/-- Bits `lo` and up of an entry, `w` of them. -/
def eBits (e : BitVec 64) (lo w : Nat) : Nat := bitsOf e.toNat lo w

/-- A leaf that R100 calls malformed: at level 1, a reserved code, a reserved bit set, or an address not aligned to its page. For a peer, ADDR holds numbers and no address, so the alignment is not asked of it (log entry 13). -/
def leafBad (level : Nat) (e : BitVec 64) : Bool :=
  let tgt := eBits e 11 2
  level == 1 || eBits e 5 2 == 3 || eBits e 7 2 == 3 || tgt == 3 || eBits e 13 3 != 0 || eBits e 52 12 != 0
    || (tgt == 0 && eBits e 40 12 != 0) || (tgt == 2 && eBits e 46 6 != 0)
    || (tgt != 2 && eBits e 16 (pageBits level - 16) != 0)

/-- A pointer to a next table that R100 calls malformed. -/
def pointerBad (level : Nat) (e : BitVec 64) : Bool :=
  level == 4 || eBits e 2 6 != 0 || eBits e 40 24 != 0
    || (level != 3 && eBits e 8 4 != 0)

/-- The walk over the levels that are left: each with its number, the lowest VA bit of its index and the width of its index (R100). -/
def walkFrom (s : State) (va : Nat) : List (Nat × Nat × Nat) → Nat → Walk
  | [], _ => .err (.fault 0x05 3)
  | (level, lo, w) :: rest, table =>
    let at' := table + 8 * bitsOf va lo w
    let e : BitVec 64 := BitVec.ofNat 64 (s.homeNat at' 8)
    if !e.getLsbD 0 then (if e.getLsbD 63 then .err (.fault 0x05 1) else .err .unmapped)
    else if e.getLsbD 1 then (if leafBad level e then .err (.fault 0x05 3) else .leaf e level at')
    else if pointerBad level e then .err (.fault 0x05 3)
    else walkFrom s va rest (eBits e 8 32 * 256)

/-- The four levels (R100). -/
def walkLevels : List (Nat × Nat × Nat) := [(1, 39, 10), (2, 30, 9), (3, 21, 9), (4, 16, 5)]

/-- The walk of a context's tables (R99, R100). -/
def State.walk (s : State) (c : Nat) (va : DWord) : Walk :=
  walkFrom s va.toNat walkLevels (s.ctx c).root

/-- The place that a leaf gives an address (R98, R100). -/
def leafPlace (e : BitVec 64) (level at' : Nat) (va : DWord) : Place :=
  let low := va.toNat % 2 ^ pageBits level
  let base := eBits e 16 36 * 2 ^ 16
  let tgt : Target := match eBits e 11 2 with
    | 0 => .device
    | 1 => .host
    | _ => .peer (eBits e 16 14) (eBits e 30 16)
  { tgt := tgt, pa := (match tgt with | .device => base + low | .host => base + low | .peer _ _ => va.toNat),
    pol := eBits e 5 2, cls := eBits e 7 2, own := eBits e 9 2, leafAt := at' }

/-- The rights of the leaf permit the access (R100). -/
def leafAllows (e : BitVec 64) : Right → Bool
  | .read => e.getLsbD 2
  | .write => e.getLsbD 3
  | .fetch => e.getLsbD 4
  | .draft => e.getLsbD 3
  | .atomic => e.getLsbD 2 && e.getLsbD 3

/-! ## Access tables -/

/-- An entry of an access table covers the 4 KiB page of an address (R208). -/
def atCovers (e : BitVec 128) (a : Nat) : Bool :=
  e.getLsbD 0 && decide (bitsOf e.toNat 12 40 ≤ a / 4096) && decide (a / 4096 ≤ bitsOf e.toNat 76 40)

/-- The entry grants the right (R208, R210). -/
def atGrants (e : BitVec 128) : Right → Bool
  | .read => e.getLsbD 1 | .write => e.getLsbD 2 | .fetch => e.getLsbD 3 | .draft => e.getLsbD 4 | .atomic => e.getLsbD 5

/-- The valid entry of the lowest index that covers the address (R208). -/
def atLowest (a : Nat) : Tab (BitVec 128) → Option (Nat × BitVec 128)
  | [] => none
  | (k, e) :: t =>
    match atLowest a t with
    | none => if decide (k < 64) && atCovers e a then some (k, e) else none
    | some (k', e') => if decide (k < 64) && decide (k < k') && atCovers e a then some (k, e) else some (k', e')

/-- The lowest-indexed valid entry that covers the address decides; an address that no entry covers is denied (R208). -/
def atDecide (t : Tab (BitVec 128)) (a : Nat) (r : Right) : Bool :=
  match atLowest a t with
  | some (_, e) => atGrants e r
  | none => false

/-- The target permits the access (R208). -/
def State.permits (s : State) (target mid a : Nat) (r : Right) : Bool :=
  atDecide (s.mgmt.ats.get [] (4096 * target + mid)) a r

/-- The link that leads to a peer device (log entry 14). -/
def linkOf (dev : Nat) : Nat := dev % 16

/-- The access-table target of a place, with the address that it checks (R208, R209). -/
def Place.atTarget (p : Place) : Nat × Nat :=
  match p.tgt with
  | .device => (dieOf p.pa, p.pa)
  | .host => (20, p.pa)
  | .peer dev _ => (21 + linkOf dev, p.pa)

/-! ## The TLB -/

/-- The TLB entry translates the address (R102). -/
def TlbEnt.hits (t : TlbEnt) (cluster asid : Nat) (va : DWord) : Bool :=
  t.cluster == cluster && t.asid == asid && t.vpage == va.toNat / 2 ^ pageBits t.level

/-- A cluster keeps its latest 4,096 translations (R102, log entry 15). -/
def State.fillTlb (s : State) (t : TlbEnt) : State :=
  let mine := s.tlb.filter (fun x => x.cluster == t.cluster)
  let others := s.tlb.filter (fun x => x.cluster != t.cluster)
  { s with tlb := t :: mine.take 4095 ++ others }

/-- The leaf of an address for a wave or a copy job of a cluster: from the TLB when it holds one, otherwise by a walk. -/
def State.lookup (s : State) (cluster c : Nat) (va : DWord) : Walk :=
  match s.tlb.find? (fun t => t.hits cluster (s.ctx c).asid va) with
  | some t => .leaf t.leaf t.level 0
  | none => s.walk c va

/-- The TLB after a lookup. -/
def State.afterLookup (s : State) (cluster c : Nat) (va : DWord) : State :=
  match s.tlb.find? (fun t => t.hits cluster (s.ctx c).asid va) with
  | some _ => s
  | none =>
    match s.walk c va with
    | .leaf e level _ => s.fillTlb ⟨cluster, (s.ctx c).asid, va.toNat / 2 ^ pageBits level, e, level⟩
    | .err _ => s

/-- A leaf as a place, after the checks in the order of R98, R100 and R208: no leaf maps a claim overflow area, and one that does counts as malformed (log entry 102); then the rights of the leaf, then the access table of the target. -/
def State.checkLeaf (s : State) (mid : Nat) (va : DWord) (r : Right) : Walk → Except XErr Place
  | .err x => .error x
  | .leaf e level at' =>
    let p := leafPlace e level at' va
    if p.tgt == .device && inOverflow p.pa then .error (.fault 0x05 3)
    else if !leafAllows e r then .error (.fault 0x06 r.sub)
    else if s.permits p.atTarget.1 mid p.atTarget.2 r then .ok p
    else .error (.fault 0x06 r.sub)

/-- The translation of an address for a wave or a copy job of context `c` (R98, R100, R208): the place, or the first fault. -/
def State.place (s : State) (cluster c : Nat) (va : DWord) (r : Right) : Except XErr Place :=
  if !canonical va then .error (.fault 0x05 2) else s.checkLeaf c va r (s.lookup cluster c va)

/-- The translation for a collective engine, a peer request or the task scheduler, which walk the tables anew (R172, R207). -/
def State.placeHub (s : State) (mid c : Nat) (va : DWord) (r : Right) : Except XErr Place :=
  if !canonical va then .error (.fault 0x05 2) else s.checkLeaf mid va r (s.walk c va)

/-! ## Bias -/

/-- A bias range is in force and covers the bias page (R199). -/
def BRange.covers (b : BRange) (page : Nat) : Bool :=
  b.w0.getLsbD 0 && decide (eBits b.w0 12 28 ≤ page) && decide (page ≤ eBits b.w0 12 28 + eBits b.w0 40 24)

/-- The bias page is in host bias (R199). -/
def State.hostBias (s : State) (pa : Nat) : Bool :=
  s.mgmt.ranges.any (fun r => r.2.covers (pa / 4096) && r.2.hostPages.contains (pa / 4096))

/-- A flip of the page runs (R201). -/
def State.flipping (s : State) (pa : Nat) : Bool := s.mgmt.flips.any (fun f => f.page == pa / 4096)

end Sys2Proof.Machine
end

