-- ==== Sys2Proof/Machine/MemSys.lean ====
section
/-! DEFINITION. The levels below a home point: the L2 home slice, the memory-side cache, the row caches and the array (spec/17_memory_system.md R187 to R190). The value of a byte at its home point is `State.mem`; these levels hold copies of it, and the array what was last written back. -/

namespace Sys2Proof.Machine

/-- The place of a 64 B sector: stack, pseudo-channel, bank, row and sector of the row (R187). -/
def secStack (sec : Nat) : Nat := stackOf (sec * 64)
def secPci (sec : Nat) : Nat := pciOf (sec * 64)
def secBank (sec : Nat) : Nat := bankOf (sec * 64)
def secRow (sec : Nat) : Nat := rowOf (sec * 64)
def secCol (sec : Nat) : Nat := colOf (sec * 64) / 64

/-- The row-cache entry is that of a row. -/
def RowEnt.isRow (r : RowEnt) (pci bank row : Nat) : Bool := r.pci == pci && r.bank == bank && r.row == row

/-- The row-cache entry of a sector (R190). -/
def State.rowOf? (s : State) (sec : Nat) : Option RowEnt :=
  (s.stack (secStack sec)).rows.find? (fun r => r.isRow (secPci sec) (secBank sec) (secRow sec))

/-- The data of a sector that has been written below the MSC and not yet to the array: a write-back that waits for its bank, or a dirty row-cache sector (R190, R193). -/
def State.written? (s : State) (sec : Nat) : Option (List Byte) :=
  match (s.stack (secStack sec)).late.find? (fun x => x.1 == sec) with
  | some x => some x.2
  | none =>
    match s.rowOf? sec with
    | some r => (r.dirty.find? (fun d => d.1 == secCol sec)).map Prod.snd
    | none => none

/-- A sector as the levels below the MSC hold it. -/
def State.lowerSector (s : State) (sec : Nat) : List Byte := (s.written? sec).getD (s.array.bytes (sec * 64) 64)

/-- A line as the levels below the MSC hold it. -/
def State.lowerLine (s : State) (line : Nat) : List Byte := s.lowerSector (2 * line) ++ s.lowerSector (2 * line + 1)

/-- Writes the dirty sectors of a row-cache entry to the array, whose cells then hold no error (R190). -/
def State.writeRow (s : State) (stack : Nat) (r : RowEnt) : State :=
  let secs := r.dirty.map (fun d => rowAddr stack r.pci r.bank r.row (d.1 * 64) / 64)
  { s with
    array := r.dirty.foldl (fun a d => a.putBytes (rowAddr stack r.pci r.bank r.row (d.1 * 64)) d.2) s.array
    weak := s.weak.filter (fun x => !secs.contains x), lost := s.lost.filter (fun x => !secs.contains x) }

/-- The entries of a bank. -/
def Stack.bankRows (t : Stack) (pci bank : Nat) : List RowEnt := t.rows.filter (fun r => r.pci == pci && r.bank == bank)

/-- The least recently used entry of a list (R188, R190). -/
def lruRow : List RowEnt → Option RowEnt
  | [] => none
  | r :: t =>
    match lruRow t with
    | none => some r
    | some x => if r.used ≤ x.used then some r else some x

/-- Opens the row of a sector in a row-cache entry: a hit keeps it, a miss replaces the least recently used entry that no other group has pinned; where there is none nothing changes (R190). -/
def State.openRow (s : State) (stack pci bank row : Nat) (pin : List Nat) : State :=
  let t := s.stack stack
  match t.rows.find? (fun r => r.isRow pci bank row) with
  | some r =>
    (s.updStack stack fun t =>
      { t with rows := { r with used := s.seq, pins := r.pins ++ pin } :: t.rows.filter (fun x => !x.isRow pci bank row) }).tick
  | none =>
    let here := t.bankRows pci bank
    let fresh : RowEnt := ⟨pci, bank, row, [], pin, s.seq⟩
    if here.length < 4 then (s.updStack stack fun t => { t with rows := fresh :: t.rows }).tick
    else
      match lruRow (here.filter (fun r => r.pins.all pin.contains)) with
      | some v =>
        ((s.writeRow stack v).updStack stack fun t =>
          { t with rows := fresh :: t.rows.filter (fun x => !x.isRow v.pci v.bank v.row) }).tick
      | none => s

/-- The refresh state of a bank. -/
def Stack.bankRef (t : Stack) (pci bank : Nat) : BankRef := t.banks.get BankRef.zero (64 * pci + bank)
def Stack.setBank (t : Stack) (pci bank : Nat) (x : BankRef) : Stack := { t with banks := t.banks.set (64 * pci + bank) x }
/-- The row is in a row-cache entry (R190). -/
def Stack.hasRow (t : Stack) (pci bank row : Nat) : Bool := t.rows.any (fun r => r.isRow pci bank row)
/-- A row may be opened: an entry of the bank is free or not pinned (R190). -/
def Stack.canOpen (t : Stack) (pci bank : Nat) : Bool :=
  decide ((t.bankRows pci bank).length < 4) || (t.bankRows pci bank).any (fun r => r.pins.isEmpty)
/-- The row may be read and written now: it is in an entry, or its bank allows an activate and has an entry for it (R190, R193). -/
def Stack.reaches (t : Stack) (pci bank row : Nat) : Bool :=
  t.hasRow pci bank row || ((t.bankRef pci bank).st == .normal && t.canOpen pci bank)
/-- The sector may be read and written now. -/
def State.reachesSector (s : State) (sec : Nat) : Bool := (s.stack (secStack sec)).reaches (secPci sec) (secBank sec) (secRow sec)

/-- Writes a sector below the MSC: into the row cache; where its bank allows no activate, or every entry is pinned, the write-back waits (R190, R193). -/
def State.writeSector (s : State) (sec : Nat) (d : List Byte) : State :=
  let k := secStack sec
  let s := s.updStack k (fun t => { t with late := t.late.filter (fun x => x.1 != sec) })
  if s.reachesSector sec then
    (s.openRow k (secPci sec) (secBank sec) (secRow sec) []).updStack k (fun t => { t with rows := t.rows.map (fun r =>
      if r.isRow (secPci sec) (secBank sec) (secRow sec) then { r with dirty := (secCol sec, d) :: r.dirty.filter (fun x => x.1 != secCol sec) } else r) })
  else s.updStack k (fun t => { t with late := (sec, d) :: t.late })
/-- The write-backs of a stack that waited, the oldest first. -/
def State.drainLate (s : State) (k : Nat) : State := (s.stack k).late.reverse.foldl (fun s x => s.writeSector x.1 x.2) s

/-- Writes a line below the MSC. -/
def State.writeLower (s : State) (line : Nat) (d : List Byte) : State :=
  (s.writeSector (2 * line) (d.take 64)).writeSector (2 * line + 1) (d.drop 64)

/-! ## Errors of the array, and sparing (R194 to R196) -/

/-- A row of a stack. -/
abbrev RowName := Nat × Nat × Nat

/-- Adds to a saturating counter. -/
def addSat {w : Nat} (x : BitVec w) (n : Nat) : BitVec w := BitVec.ofNat w (min (x.toNat + n) (2 ^ w - 1))

/-- The pin that a sparing holds on its row: no group has this number. -/
def sparePin : Nat := 2 ^ 64

/-- MCSPARE.GO, and the row that MCSPARE names (R196). -/
def Stack.spareGo (t : Stack) : Bool := t.mcspare.getLsbD 26
def Stack.namedRow (t : Stack) : RowName := (bitsOf t.mcspare.toNat 0 6, bitsOf t.mcspare.toNat 6 6, bitsOf t.mcspare.toNat 12 14)

/-- A tracked row whose count has reached MCTHR.ROWCE (R195). -/
def Stack.worn (t : Stack) : Option RowName :=
  let ce := t.mcthr.toNat % 256
  if ce = 0 then none
  else
    match t.tracked.find? (fun x => decide (ce ≤ x.2.2.2)) with
    | some x => some (x.1, x.2.1, x.2.2.1)
    | none => none

/-- The sector is known to be uncorrectable in the array (R125). -/
def State.sectorBad (s : State) (sec : Nat) : Bool := s.bad.contains (1, sec)

/-- Starts sparing a row where it can be opened: it is pinned in a row-cache entry (R195). -/
def State.beginSpare (s : State) (k : Nat) (r : RowName) : State :=
  if (s.stack k).reaches r.1 r.2.1 r.2.2 then
    (s.openRow k r.1 r.2.1 r.2.2 [sparePin]).updStack k (fun t =>
      { t with sparing := some r, tracked := t.tracked.filter (fun x => !(x.1 == r.1 && x.2.1 == r.2.1 && x.2.2.1 == r.2.2)) })
  else s

/-- Starts the sparing that is due, while none runs: the row named through MCSPARE, or a tracked row (R195). -/
def State.nextSpare (s : State) (k : Nat) : State :=
  if (s.stack k).sparing.isSome then s
  else if (s.stack k).spareGo then s.beginSpare k (s.stack k).namedRow
  else
    match (s.stack k).worn with
    | some r => s.beginSpare k r
    | none => s

/-- Counts a corrected read of a row; 256 rows are tracked (R195). -/
def track (r : RowName) (l : List (Nat × Nat × Nat × Nat)) : List (Nat × Nat × Nat × Nat) :=
  if l.any (fun x => x.1 == r.1 && x.2.1 == r.2.1 && x.2.2.1 == r.2.2) then
    l.map (fun x => if x.1 == r.1 && x.2.1 == r.2.1 && x.2.2.1 == r.2.2 then (x.1, x.2.1, x.2.2.1, x.2.2.2 + 1) else x)
  else if l.length < 256 then (r.1, r.2.1, r.2.2, 1) :: l
  else l

/-- Sectors that are read from the array of a stack: those that were corrected and those that cannot be are counted, rows are tracked, and the sectors that cannot be corrected are known from now on (R194, R195). A sector that is uncorrectable stays so. -/
def State.meetErrors (s : State) (k : Nat) (read corrected uncorrectable : List Nat) : State :=
  let gone := uncorrectable ++ s.lost
  let fixed := ((corrected ++ s.weak).filter (fun x => read.contains x && !s.sectorBad x && !gone.contains x)).eraseDups
  let new := (gone.filter (fun x => read.contains x && !s.sectorBad x)).eraseDups
  let met := read.filter (fun x => s.sectorBad x || new.contains x)
  let s : State := { s with bad := new.map (fun x => (1, x)) ++ s.bad, lost := s.lost.filter (fun x => !new.contains x) }
  (s.updStack k (fun t =>
    { t with
      cecnt := addSat t.cecnt fixed.length, uecnt := addSat t.uecnt met.length
      tracked := fixed.foldl (fun l x => track (secPci x, secBank x, secRow x) l) t.tracked })).nextSpare k
/-- Reads sectors of a stack at a controller for a pin: their rows are opened where the bank allows it, and what comes from the array is checked (R190, R194). -/
def State.readSectors (s : State) (k : Nat) (secs pin corrected uncorrectable : List Nat) : State :=
  let s := ((secs.map (fun x => (secPci x, secBank x, secRow x))).eraseDups).foldl
    (fun s r => if (s.stack k).hasRow r.1 r.2.1 r.2.2 || ((s.stack k).bankRef r.1 r.2.1).st == .normal then s.openRow k r.1 r.2.1 r.2.2 pin else s) s
  s.meetErrors k (secs.filter (fun x => (s.written? x).isNone)) corrected uncorrectable

/-- The MSC line of a line number (R188). -/
def State.mscOf (s : State) (line : Nat) : Option MscLine := s.msc.find? (fun m => m.line == line)

/-- The line is reader-counted (R189). -/
def State.readerCounted (s : State) (line : Nat) : Bool :=
  match s.mscOf line with
  | some m => m.readers != 0
  | none => false

/-- The sectors of a line. -/
def lineSecs (line : Nat) : List Nat := [2 * line, 2 * line + 1]
/-- The line's L2 slice holds it. -/
def State.inL2 (s : State) (line : Nat) : Bool := s.l2.any (fun x => x.1 == line)
/-- A level above the array holds the line (R97, R188). -/
def State.aboveArray (s : State) (line : Nat) : Bool := s.inL2 line || (s.mscOf line).isSome

/-- An error of a level counts while that level is the one that serves the sector (R125): the array's always, since it is known only once a read has met it. -/
def State.badShows (s : State) (b : Nat × Nat) : Bool :=
  match b.1 with
  | 2 => !s.inL2 (b.2 / 2)
  | _ => true
/-- An uncorrectable sector of device memory that the bytes touch: its level (R125). A sector that only the array holds, and holds uncorrectably, is one. -/
def State.badLevel (s : State) (pa n : Nat) : Option Nat :=
  match s.bad.find? (fun b => overlaps (b.2 * 64) 64 pa n && s.badShows b) with
  | some b => some b.1
  | none => if s.lost.any (fun x => overlaps (x * 64) 64 pa n && !s.aboveArray (x / 2) && (s.written? x).isNone) then some 1 else none
/-- The sectors that a test names hold no error any more: they have been written whole (R125). -/
def State.mendSectors (s : State) (f : Nat → Bool) : State :=
  { s with bad := s.bad.filter (fun b => !f b.2), lost := s.lost.filter (fun x => !f x) }
/-- The errors of a level at a line pass to another level, or go with the copy. -/
def State.passErrors (s : State) (line l : Nat) (down : Option Nat) : State :=
  { s with bad := s.bad.filterMap (fun b => if b.1 == l && b.2 / 2 == line then down.map (fun m => (m, b.2)) else some b) }

/-- Removes a line from the MSC; a dirty line, and a reader-counted one, is written back (R188, R189). -/
def State.mscEvict (s : State) (m : MscLine) : State :=
  let s := ({ s with msc := s.msc.filter (fun x => x.line != m.line) } : State).passErrors m.line 2 (some 1)
  if m.dirty || m.readers != 0 then s.writeLower m.line (if m.readers != 0 then s.mem.bytes (m.line * 128) 128 else m.data) else s

/-- The least recently used MSC line of a list. -/
def lruMsc : List MscLine → Option MscLine
  | [] => none
  | r :: t =>
    match lruMsc t with
    | none => some r
    | some x => if r.used ≤ x.used then some r else some x

/-- Two lines share an MSC set of one stack (R188). -/
def sameMscSet (a b : Nat) : Bool := stackOf (a * 128) == stackOf (b * 128) && mscSet (a * 128) == mscSet (b * 128)

/-- Puts a line into the MSC, evicting the least recently used of 16 ways (R188). -/
def State.mscPut (s : State) (line : Nat) (d : List Byte) (dirty : Bool) (readers : Nat) : State :=
  match s.mscOf line with
  | some m =>
    ({ s with msc := { m with data := d, dirty := dirty || m.dirty, readers := readers, used := s.seq } ::
        s.msc.filter (fun x => x.line != line) } : State).tick
  | none =>
    let here := s.msc.filter (fun x => sameMscSet x.line line)
    let s := if here.length < 16 then s else
      match lruMsc here with
      | some v => s.mscEvict v
      | none => s
    ({ s with msc := ⟨line, d, dirty, readers, s.seq⟩ :: s.msc } : State).tick

/-- Brings a line into the MSC from below, as an array read or PREF does; a line that is there becomes its set's most recently used (R188). A line with an uncorrectable sector stays below, so that every read meets it (R125, log entry 84). -/
def State.mscFill (s : State) (line : Nat) : State :=
  match s.mscOf line with
  | some m => s.mscPut line m.data m.dirty m.readers
  | none => if (lineSecs line).any s.sectorBad then s else s.mscPut line (s.lowerLine line) false 0

/-- A read of a line at the MSC: what it does not hold is read in the array, checked, and kept (R188, R190, R194). -/
def State.mscRead (s : State) (line : Nat) : State :=
  (if (s.mscOf line).isSome then s else s.readSectors (secStack (2 * line)) (lineSecs line) [] [] []).mscFill line
/-- A read of a line at its home, which looks below its L2 slice for what that does not hold (R97, R188). -/
def State.fetchLine (s : State) (line : Nat) : State := if s.inL2 line then s else s.mscRead line

/-- Drops a line from its L2 slice; a dirty copy is written whole to the MSC, whose own errors of the line end (R97, R125, R188). -/
def State.l2Drop (s : State) (line : Nat) : State :=
  match s.l2.find? (fun x => x.1 == line) with
  | some x =>
    let s : State := { s with l2 := s.l2.filter (fun y => y.1 != line) }
    let s := (if x.2 then s.passErrors line 2 none else s).passErrors line 3 (if x.2 then some 2 else none)
    if x.2 then s.mscPut line (s.mem.bytes (line * 128) 128) true 0 else s
  | none => s

/-- Lines of one L2 home slice: 1 MiB (R97). -/
def l2Lines : Nat := 8192

/-- Marks a line present in its L2 slice, most recent first; a full slice drops its least recently used line. What the array has lost of a line that no level above it held is uncorrectable from now on. -/
def State.l2Touch (s : State) (line : Nat) (dirty : Bool) : State :=
  if s.readerCounted line then s
  else
    let was := s.l2.any (fun x => x.1 == line && x.2)
    let gone := if s.aboveArray line then [] else (lineSecs line).filter (fun x => s.lost.contains x && (s.written? x).isNone)
    let s := { s with bad := gone.map (fun x => (1, x)) ++ s.bad, lost := s.lost.filter (fun x => !gone.contains x) }
    let rest := s.l2.filter (fun x => x.1 != line)
    let s := { s with l2 := (line, dirty || was) :: rest }
    let mine := rest.filter (fun x => homeOf (x.1 * 128) == homeOf (line * 128))
    if mine.length < l2Lines then s
    else
      match mine.getLast? with
      | some v => s.l2Drop v.1
      | none => s

/-- The level that serves a read at the home of a line to a die: own-die L2 2, other-die L2 3, MSC 4, HBM 5 (R218). -/
def State.serveLevel (s : State) (die line : Nat) : Nat :=
  if s.inL2 line then (if die == dieOf (line * 128) then 2 else 3)
  else if (s.mscOf line).isSome then 4 else 5

/-- The copies that a read of a line leaves: in the L2 slice, and, where that did not hold it, in the MSC (R97, R188). -/
def State.afterServe (s : State) (line : Nat) : State := (if s.inL2 line then s else s.mscFill line).l2Touch line false

/-- The table of the stack's MSC denies an access that its home's L2 slice cannot serve (R208, R209, log entry 94). -/
def State.mscDenies (s : State) (mid pa : Nat) (r : Right) : Bool := !s.inL2 (lineOf pa) && !s.permits (4 + stackOf pa) mid pa r

/-- An M transition or means 5 of the governor holds every request to the array (R212, R213). -/
def State.arrayPaused (s : State) : Bool := s.fullg || s.mgmt.mGoal.isSome
/-- A read of the array waits: every request is held, its bank allows no activate or has every entry pinned, or a group that names its sectors has yet to be served there, its own or an older one (R190 to R193, R212, R213). -/
def State.sectorsWait (s : State) (line : Nat) : Bool :=
  s.arrayPaused || !s.reachesSector (2 * line) || (s.stack (secStack (2 * line))).groups.any (fun g => (lineSecs line).any g.sectors.contains)
/-- A read at a home that must go to the array waits. -/
def State.arrayWaits (s : State) (pa : Nat) : Bool := !s.aboveArray (lineOf pa) && s.sectorsWait (lineOf pa)
/-- The lines that bytes touch. -/
def linesOf (pa n : Nat) : List Nat := (List.range ((pa + n - 1) / 128 + 1 - pa / 128)).map (fun k => pa / 128 + k)
/-- A read of some bytes waits for the array. -/
def State.readWaits (s : State) (pa n : Nat) : Bool := (linesOf pa n).any (fun l => s.arrayWaits (l * 128))
/-- The reads of the array for bytes at their home. -/
def State.fetchLines (s : State) (pa n : Nat) : State := (linesOf pa n).foldl State.fetchLine s
/-- The reads of the array for sectors that a write covers in part, and whether one of them waits (R125). -/
def State.fetchSecs (s : State) (l : List Nat) : State := ((l.map (fun k => k / 2)).eraseDups).foldl State.fetchLine s
def State.secsWait (s : State) (l : List Nat) : Bool := l.any (fun k => s.arrayWaits (k * 64))
/-- The sectors of a list that are uncorrectable (R125). -/
def State.badSecs (s : State) (l : List Nat) : List Nat := l.filter (fun k => (s.badLevel (k * 64) 64).isSome)
/-- The sectors that bytes touch and do not cover: a write of them has their other bytes read first (R125). -/
def partSecs (pa n : Nat) : List Nat :=
  ((List.range ((pa + n - 1) / 64 + 1 - pa / 64)).map (fun k => pa / 64 + k)).filter (fun k => decide (k * 64 < pa) || decide (pa + n < k * 64 + 64))

/-- Bits of a sector decay (R125, R188, R194): the array corrects the sector or loses it; a clean MSC line is fetched again, a dirty or reader-counted one keeps the error; an L2 slice, the remote-data cache of a die and the L1 of a core keep it while they hold the copy. -/
def State.upsetSector (s : State) (level unit sec : Nat) : State :=
  let line := sec / 2
  match level with
  | 0 => { s with weak := if s.weak.contains sec then s.weak else sec :: s.weak }
  | 1 => { s with lost := if s.lost.contains sec || s.sectorBad sec then s.lost else sec :: s.lost }
  | 2 =>
    match s.mscOf line with
    | some m =>
      if m.dirty || m.readers != 0 then { s with bad := (2, sec) :: s.bad }
      else
        let s : State := { s with msc := s.msc.filter (fun x => x.line != line) }
        let s := s.readSectors (secStack sec) [sec] [] [] []
        if s.sectorBad sec then s else s.mscPut line (s.lowerLine line) false 0
    | none => s
  | 3 => if s.inL2 line then { s with bad := (3, sec) :: s.bad } else s
  | 4 => { s with rdc := s.rdc.map (fun r => if r.die == unit && r.pline == line then { r with bad := sec % 2 :: r.bad } else r) }
  | 5 =>
    if s.cores.has unit then
      s.updCore unit (fun c => { c with l1 := c.l1.map (fun l =>
        if l.pline == line then { l with words := l.words.mapVals (fun k w => if k / 16 == sec % 2 then { w with bad := true } else w) } else l) })
    else s
  | _ => s

/-- One reading of a reader-counted line: the count falls, and at 0 the line is dropped and its value is that of the levels below (R189). -/
def State.countRead (s : State) (line : Nat) : State :=
  match s.mscOf line with
  | some m =>
    if m.readers = 0 then s
    else if m.readers = 1 then
      let s := ({ s with msc := s.msc.filter (fun x => x.line != line) } : State).passErrors line 2 none
      { s with mem := s.mem.putBytes (line * 128) (s.lowerLine line) }
    else { s with msc := { m with readers := m.readers - 1 } :: s.msc.filter (fun x => x.line != line) }
  | none => s

end Sys2Proof.Machine
end

