-- ==== Sys2Proof/Machine/Order.lean ====
section
/-! DEFINITION. The ordering machine's shared operations: home-point values and copies, messages, claims, counters, check windows, SFR boundaries, acquires and the conditions that a held instruction waits for (spec/09_ordering.md R97 to R124, spec/05_execution.md R72). -/

namespace Sys2Proof.Machine

/-! ## Values and copies -/

/-- A reduction on one word (R43, R291). -/
def redWord (op : AredOp) (sg : Bool) (old d : Word) : Word :=
  match op with
  | .add => old + d
  | .min => if sg then (if old.toInt ≤ d.toInt then old else d) else (if old.toNat ≤ d.toNat then old else d)
  | .max => if sg then (if d.toInt ≤ old.toInt then old else d) else (if d.toNat ≤ old.toNat then old else d)
  | .and => old &&& d
  | .or => old ||| d
  | .xor => old ^^^ d
  | .fadd => BitVec.ofNat 32 (f32Add 0 false false old.toNat d.toNat).bits

/-- The new value of a word under a returning atomic (R289). -/
def atomWord (op : Nat) (sg : Bool) (old d c : Word) : Word :=
  match op with
  | 0 => redWord .add sg old d
  | 1 => redWord .min sg old d
  | 2 => redWord .max sg old d
  | 3 => redWord .and sg old d
  | 4 => redWord .or sg old d
  | 5 => redWord .xor sg old d
  | 6 => d
  | 7 => if old = c then d else old
  | _ => redWord .fadd sg old d

/-- The bytes of a word. -/
def wordBytes (w : Word) : List Byte := leBytes w.toNat 4

/-- What the host caches dirty of the lines that bytes touch comes to their home (R200, R201). -/
def State.pullHost (s : State) (pa n : Nat) : State :=
  s.hostLines.foldl (fun s x =>
    if overlaps (x.1 * 128) 128 pa n then
      ({ s with mem := s.mem.putBytes (x.1 * 128) x.2, hostLines := s.hostLines.del x.1 } : State).l2Touch x.1 true
    else s) s

/-- Writes bytes at their home: memory holds them, and the line's L2 copy is dirty; a reader-counted line only merges them (R104, R189). -/
def State.homePut (s : State) (pa : Nat) (d : List (Option Byte)) : State :=
  let s := s.pullHost pa d.length
  ({ s with mem := s.mem.putOpt pa d } : State).l2Touch (lineOf pa) true

/-- Whole bytes. -/
def allBytes (d : List Byte) : List (Option Byte) := d.map some

/-- Merges bytes into the new value of a draft cell (R144, R145). -/
def mergeCell (old : BitVec 64) (base pa : Nat) : List (Option Byte) → BitVec 64
  | [] => old
  | none :: t => mergeCell old base (pa + 1) t
  | some b :: t =>
    let k := 8 * (pa - base)
    mergeCell ((old &&& ~~~((0xFF#64) <<< k)) ||| ((b.setWidth 64) <<< k)) base (pa + 1) t

/-- The live draft cell at the aligned 8 bytes of an address (R143). -/
def State.cellAt (s : State) (pa : Nat) : Option Cell := s.cells.find? (fun c => c.addr == pa / 8 * 8)

/-- A live draft cell lies on the bytes (R143). -/
def State.cellOn (s : State) (pa n : Nat) : Bool := s.cells.any (fun c => overlaps c.addr 8 pa n)
/-- Changes the cell at an address. -/
def State.updCell (s : State) (addr : Nat) (f : Cell → Cell) : State :=
  { s with cells := s.cells.map (fun c => if c.addr == addr then f c else c) }

/-- Combines a reduction at its home: into memory, or into both values of a live draft cell (R119, R145). -/
def State.combineAt (s : State) (pa : Nat) (op : AredOp) (sg : Bool) (d : Word) : State :=
  match s.cellAt pa with
  | some c =>
    let half := 8 * (pa - c.addr)
    let f (x : BitVec 64) : BitVec 64 :=
      mergeCell x c.addr pa (allBytes (wordBytes (redWord op sg ((x >>> half).setWidth 32) d)))
    s.updCell c.addr (fun c => { c with old := f c.old, new := f c.new })
  | none =>
    let s := s.pullHost pa 4
    s.homePut pa (allBytes (wordBytes (redWord op sg (s.mem.word pa) d)))

/-- Changes one word in every L1 that holds its line. -/
def L1Line.updWord (l : L1Line) (k : Nat) (f : L1Word → L1Word) : L1Line :=
  if l.words.has k then { l with words := l.words.set k (f (l.words.get .zero k)) } else l
def Core.updWord (c : Core) (word : Nat) (f : L1Word → L1Word) : Core :=
  { c with l1 := c.l1.map (fun l => if l.pline == word / 32 then l.updWord (word % 32) f else l) }
def State.mapWord (s : State) (word : Nat) (f : Nat → L1Word → L1Word) : State :=
  { s with cores := s.cores.mapVals (fun p c => c.updWord word (f p)) }

/-- The word's copies in state U, in order of core (R119). -/
def Core.uCopies (c : Core) (word : Nat) : List L1Word :=
  (c.l1.filter (fun l => l.pline == word / 32)).flatMap
    (fun l => if (l.words.get .zero (word % 32)).st == .u then [l.words.get .zero (word % 32)] else [])
def State.uCopies (s : State) (word : Nat) : List L1Word := s.cores.flatMap (fun x => x.2.uCopies word)

/-- The home recalls every U copy of a word and combines them in the order they arrive (R119). -/
def State.recallU (s : State) (word : Nat) : State :=
  let us := s.uCopies word
  if us.isEmpty then s
  else
    let s := us.foldl (fun s u => s.combineAt (word * 4) u.op u.sg u.val) s
    let s := s.mapWord word (fun _ w => if w.st == .u then { w with st := .i, stale := false } else w)
    if s.readerCounted (word / 32) then s.countRead (word / 32) else s

/-- Recalls the U copies of every word that bytes touch, and what the host caches dirty of them. -/
def State.recallRange (s : State) (pa n : Nat) : State :=
  let s := s.pullHost pa n
  (List.range ((pa + n - 1) / 4 - pa / 4 + 1)).foldl (fun s i => s.recallU (pa / 4 + i)) s

/-- Words that bytes touch. -/
def wordsOf (pa n : Nat) : List Nat := (List.range ((pa + n - 1) / 4 - pa / 4 + 1)).map (fun i => pa / 4 + i)

/-- Invalidates the G copies of a word in every core but one (R104, R124). -/
def State.dropG (s : State) (word : Nat) (keep : Option Nat) : State :=
  let s := s.mapWord word (fun p w => if w.st == .g && keep != some p then { w with st := .i, stale := false } else w)
  { s with registrant := s.registrant.set word none }

/-- Drops a line from the remote-data caches of every die but one (R106). -/
def State.dropRdc (s : State) (line : Nat) (keep : Option Nat) : State :=
  { s with rdc := s.rdc.filter (fun r => !(r.pline == line && keep != some r.die)) }

/-- A word of device memory is written by an agent that keeps no copy: an atomic, a job, the host, a peer. G copies and RDC copies go, and the bytes are written at home. -/
def State.agentWrite (s : State) (pa : Nat) (d : List (Option Byte)) : State :=
  let s := s.recallRange pa d.length
  let s := (wordsOf pa d.length).foldl (fun s w => s.dropG w none) s
  (s.dropRdc (lineOf pa) none).homePut pa d

/-- Evicts a line from one L1: G words are written back (home already holds their value) and lose their registration, U words are combined at home, V words are dropped (R102, R103). -/
def State.evictL1 (s : State) (p pline : Nat) (pred : L1Line → Bool) : State :=
  let ls := (s.core p).l1.filter (fun l => l.pline == pline && pred l)
  let s := ls.foldl (fun s l => l.words.foldl (fun s kw =>
      match kw.2.st with
      | .u => s.combineAt ((pline * 32 + kw.1) * 4) kw.2.op kw.2.sg kw.2.val
      | .g => { s with registrant := s.registrant.set (pline * 32 + kw.1) none }
      | .v => s
      | .i => s) s) s
  s.updCore p (fun c => { c with l1 := c.l1.filter (fun l => !(l.pline == pline && pred l)) })

/-- Evicts from every L1 the lines that satisfy `pred`. -/
def State.evictAll (s : State) (pred : Nat → L1Line → Bool) : State :=
  s.cores.foldl (fun s pc => (pc.2.l1.filter (pred pc.1)).foldl
    (fun s l => s.evictL1 pc.1 l.pline (fun x => x.vline == l.vline && x.asid == l.asid)) s) s

/-! ## Messages -/

/-- Sends a message from a core to a home (R108). -/
def State.send (s : State) (core home : Nat) (b : MBody) : State :=
  { s with net := s.net ++ [⟨s.seq, core, home, b, false, false⟩], seq := s.seq + 1 }

/-- A message may be taken at its home: no earlier message of the same core to the same home is still in flight (R108). A queued close has not been sent. -/
def canArrive : List Msg → Msg → Bool
  | [], _ => true
  | x :: t, m => x.id == m.id || (!(x.core == m.core && x.home == m.home && !x.arrived && !x.queued) && canArrive t m)

/-- Removes a message. -/
def State.delMsg (s : State) (id : Nat) : State := { s with net := s.net.filter (fun m => m.id != id) }
/-- Marks a message that waits at its home. -/
def State.park (s : State) (id : Nat) : State :=
  { s with net := s.net.map (fun m => if m.id == id then { m with arrived := true } else m) }

/-! ## Flits (R204) -/

/-- A flit of a link is sent with its sequence number and, unless means 5 of the governor withholds them, the credits that are owed; the sender keeps 512 for replay (R204, R212). -/
def Link.sendFlit (l : Link) (pays : Bool) (ty : Nat) (req : Option (DWord × Nat × Nat)) (err : Bool) (payload : List Byte) : Link :=
  let c := if pays then min l.owed 4095 else 0
  let r := l.replay ++ [⟨ty, l.txSeq.toNat, c, req, err, payload⟩]
  { l with txSeq := l.txSeq + 1, replay := r.drop (r.length - 512), owed := l.owed - c }
def State.sendFlit (s : State) (k ty : Nat) (req : Option (DWord × Nat × Nat)) (err : Bool) (payload : List Byte) : State :=
  s.updLink k (fun l => l.sendFlit (!s.fullg) ty req err payload)
/-- A request to a peer leaves: it carries the untranslated VA, the ASID and this device's number (R207, R320). -/
def State.sendRequest (s : State) (dev asid : Nat) (va : DWord) : State := s.sendFlit (linkOf dev) 1 (some (va, asid, s.devNum)) false []
/-- LNKSTAT.STATE of the link to a device: 0 DOWN, 1 TRAINING, 2 UP, 3 RETRAIN (R205). -/
def Link.state (l : Link) : Nat := bitsOf l.stat.toNat 0 2
def State.linkUp (s : State) (dev : Nat) : Bool := (s.link (linkOf dev)).state == 2
def State.linkIsDown (s : State) (dev : Nat) : Bool := (s.link (linkOf dev)).state == 0
/-- Flits to the device wait: its link trains or retrains (R206). -/
def State.linkHolds (s : State) (dev : Nat) : Bool := !s.linkUp dev && !s.linkIsDown dev

/-! ## In-flight counters -/

/-- Removes the completed entries before the first incomplete one of a path (R72). -/
def trimPath (p : Path) : List Flight → List Flight
  | [] => []
  | f :: t => if f.path == p then (if f.done then trimPath p t else f :: t) else f :: trimPath p t

/-- A counter of the block (R72). -/
def Block.counter (b : Block) (p : Path) : Nat := (b.flights.filter (fun f => f.path == p)).length

/-- A counter rises for an issue (R72). -/
def State.flight (s : State) (b : Nat) (p : Path) (id : Nat) (done : Bool) : State :=
  s.updBlock b (fun x => { x with flights := trimPath p (x.flights ++ [⟨p, id, done⟩]) })

/-- An issue has returned: counters fall in issue order (R72). -/
def State.landed (s : State) (b : Nat) (p : Path) (id : Nat) : State :=
  s.updBlock b (fun x => { x with flights := trimPath p (x.flights.map (fun f => if f.path == p && f.id == id then { f with done := true } else f)) })

/-- The counter that an access counts in (R72). -/
def AKind.path : AKind → Option Path
  | .ld _ _ => some .ld | .sld _ => some .ld | .vfeed _ _ _ => some .ld
  | .lds _ => some .sc | .sts => some .sc
  | .st => some .st | .sst => some .st | .strc _ => some .st | .draft _ => some .st | .ink => some .st | .erase _ => some .st
  | .ared _ _ => some .st
  | .accld _ _ => none | .mfsr _ => none | .atomic _ _ => none | .truth _ => none | .tab => none

/-- The class under which the issue of an access is charged (R218); a load is charged when it returns. -/
def AKind.issueClass : AKind → Option Nat
  | .st => some 10 | .sst => some 10 | .strc _ => some 10 | .sts => some 10 | .ared _ _ => some 10 | .ink => some 10 | .erase _ => some 10
  | .atomic _ _ => some 10
  | .draft _ => some 12
  | .ld _ _ => none | .lds _ => none | .sld _ => none | .vfeed _ _ _ => none | .accld _ _ => none | .mfsr _ => none | .truth _ => none
  | .tab => none

/-- A path's counter has room for one more issue, or this is what the issue waits for (R72). -/
def State.counterWait (s : State) (b : Nat) (p : Option Path) : Option Wait :=
  match p with
  | some p => if 4095 ≤ (s.block b).counter p then some (.counter p 4094) else none
  | none => none

/-- The group identifier of an access's requests to a controller: core, wave and load tag (R191). -/
def Acc.who (x : Acc) : Nat × Nat × Nat := (x.core, x.wave, x.seq)

/-- The long-latency class of R27. -/
def AKind.long : AKind → Bool
  | .ld _ _ => true | .lds _ => true | .sld _ => true | .vfeed _ _ _ => true | .accld _ _ => true | .mfsr _ => true
  | .atomic _ _ => true
  | .st => false | .sst => false | .strc _ => false | .sts => false | .ared _ _ => false | .draft _ => false | .ink => false
  | .erase _ => false | .truth _ => false | .tab => false

/-- The destination is scalar. -/
def AKind.scalar : AKind → Bool
  | .sld _ => true | .mfsr _ => true
  | _ => false

/-- The access writes its words (R110). -/
def AKind.writes : AKind → Bool
  | .st => true | .sst => true | .strc _ => true | .sts => true | .draft _ => true | .ink => true | .erase _ => true
  | .atomic _ _ => true | .ared _ _ => true
  | _ => false

/-- Kinds that open the check window (R112). An access that takes no claim but is checked or judged at its home, an atomic, an ARED, an INK or an ERASE, holds it open until that check is back: the spec speaks of claim results alone, and the window keeps a trap that the home finds precise (DESIGN CHOICE, log entry 28). -/
def AKind.windowed : AKind → Bool
  | .ld _ _ => true | .sld _ => true | .vfeed _ _ _ => true | .st => true | .sst => true | .strc _ => true
  | .atomic _ _ => true | .draft _ => true | .ared _ _ => true | .ink => true | .erase _ => true
  | .lds _ => false | .accld _ _ => false | .mfsr _ => false | .sts => false | .truth _ => false | .tab => false

/-- Stores with a data phase. -/
def AKind.isStore : AKind → Bool
  | .st => true | .sst => true | .strc _ => true
  | _ => false

/-- A result that has not yet reached the registers (R27). -/
def Acc.outstanding (a : Acc) : Bool := a.kind.long && !a.fell

/-- Long-latency results of a PC slot are outstanding (R27). -/
def State.outstanding (s : State) (w : Nat) (sb : Bool) : Bool :=
  s.accs.any (fun x => x.2.wave == w && x.2.slotB == sb && x.2.outstanding)

/-- The check window of a PC slot is open (R112). -/
def State.windowOpen (s : State) (w : Nat) (sb : Bool) : Bool :=
  s.accs.any (fun x => x.2.wave == w && x.2.slotB == sb && x.2.window)

/-- Instructions that a PC slot has issued since the oldest access that holds its check window open, that access among them (R112). -/
def State.windowUse (s : State) (w : Nat) (sb : Bool) : Nat :=
  let n := ((s.wave w).slot sb).windowCount
  n - (s.accs.filter (fun x => x.2.wave == w && x.2.slotB == sb && x.2.window)).foldl (fun m x => min m x.2.count) n

/-- The wave's own older writes of a piece's bytes have not all reached their home: reads and later writes of the bytes wait for them, so that each wave's accesses keep its program order (R110, log entry 100). A write of the other PC slot counts once that slot's check window is closed. -/
def State.ownPending (s : State) (x : Acc) (p : Piece) : Bool :=
  s.accs.any (fun y => y.2.wave == x.wave && decide (y.2.seq < x.seq) && y.2.kind.writes
    && (y.2.slotB == x.slotB || !s.windowOpen y.2.wave y.2.slotB)
    && y.2.pieces.any (fun q => q.tgt == p.tgt && overlaps q.pa q.n p.pa p.n && !q.ok && q.st != .acked))

/-! ## Releases and waits -/

/-- The piece has passed its claim, or needs none. -/
def PState.hasPassed : PState → Bool
  | .passed => true | .dataSent => true | .acked => true
  | .fresh => false | .sent => false | .atHome => false | .conflict => false
/-- The data phase has left, or there is none to send. -/
def PState.dataOut : PState → Bool
  | .dataSent => true | .acked => true
  | .fresh => false | .sent => false | .atHome => false | .passed => false | .conflict => false

/-- The state that a release at a scope of a level needs of a piece (R116, R148): 1 claims passed and data phases sent, 2 acknowledged. Reads are complete when their claims have passed; an atomic or an ARED need only have been sent at level 1; drafts, INK and ERASE must have been answered. -/
def pieceDone (level : Nat) (k : AKind) (p : PState) : Bool :=
  match k with
  | .ld _ _ => p.hasPassed | .lds _ => p.hasPassed | .sld _ => p.hasPassed | .vfeed _ _ _ => p.hasPassed
  | .truth _ => p.hasPassed || p == .conflict | .tab => p.hasPassed || p == .conflict
  | .accld _ _ => true | .mfsr _ => true | .sts => p.hasPassed
  | .st => if level ≤ 1 then p.dataOut else p == .acked
  | .sst => if level ≤ 1 then p.dataOut else p == .acked
  | .strc _ => if level ≤ 1 then p.dataOut else p == .acked
  | .atomic _ _ => if level ≤ 1 then p != .fresh else p == .acked
  | .ared _ _ => if level ≤ 1 then p != .fresh else p == .acked
  | .draft _ => p == .acked | .ink => p == .acked | .erase _ => p == .acked

/-- Every lane of an access that obtains a draft cell has been answered; or some linked lane found no free cell, so that a settle comes first, and the other linked lanes have been answered (R144, R149). -/
def Acc.draftsOver (x : Acc) : Bool :=
  x.pieces.all (fun p => p.st == .acked || (match x.kind with | .draft _ => false | _ => !p.linked))
    || (x.pieces.any (fun p => p.linked && p.st == .conflict)
        && x.pieces.all (fun p => !p.linked || p.st == .acked || p.st == .conflict))

/-- The piece of a guessed load that has taken no data: it is no read (R138). -/
def Acc.truthOnly (x : Acc) (p : Piece) : Bool := x.guessed && !p.taken

/-- An access has come as far as a level: at level 0 only DRAFT, INK and ERASE lanes must have been answered (R148); level 3 is the return of its result, level 4 the answer of its draft lanes, level 5 claims passed or lanes answered (R117). -/
def State.accDone (s : State) (level a : Nat) : Bool :=
  if !s.accs.has a then true
  else if level = 0 then
    (match (s.acc a).kind with
     | .draft _ => (s.acc a).pieces.all (fun p => p.st == .acked)
     | .ink => (s.acc a).pieces.all (fun p => p.st == .acked)
     | .erase _ => (s.acc a).pieces.all (fun p => p.st == .acked)
     | _ => true)
  else if level ≤ 2 then (s.acc a).pieces.all (fun p => (s.acc a).truthOnly p || pieceDone level (s.acc a).kind p.st)
  else if level = 3 then (s.acc a).kind.long && (s.acc a).fell
  else if level = 4 then (s.acc a).draftsOver
  else (s.acc a).pieces.all (fun p => (s.acc a).truthOnly p || p.st.hasPassed)

/-- The level of a scope: 0 wave, 1 block, 2 group, die and device, 3 system (R116). -/
def scopeLevel : Scope → Nat
  | .w => 0 | .b => 1 | .g _ => 2 | .d => 2 | .v => 2 | .s => 3

/-- Accesses of a wave that are in flight, in order of issue. -/
def State.accsOf (s : State) (w : Nat) : List Nat := s.accs.keysWhere (fun _ a => a.wave == w)

/-- The VFEEDs of other PC slots of the block on a stream whose claims have yet to pass: one that fails takes the stream back, so its position counts for no other slot before (R304, log entry 123). -/
def State.streamUsers (s : State) (x : Nat) : List Nat :=
  s.accs.keysWhere (fun a y => (match y.kind with | .vfeed k _ _ => k == x | _ => false) && y.block == (s.wave s.focus.wave).block
    && !(y.wave == s.focus.wave && y.slotB == s.focus.slotB) && !s.accDone 1 a)

/-- Closes of the wave that have not reached their homes. -/
def State.closesOut (s : State) (w : Nat) : Bool :=
  s.net.any (fun m => match m.body with | .close w' _ => w' == w | .piece _ _ => false | .data _ _ => false)

/-- Closes of SFRs of the wave before one that have not been sent. -/
def State.closesQueued (s : State) (w sfr : Nat) : Bool :=
  s.net.any (fun m => m.queued && (match m.body with | .close w' k => w' == w && decide (k < sfr) | .piece _ _ => false | .data _ _ => false))

/-- Posted writes of the wave that sit in a link queue (R122, R123). -/
def State.postedOut (s : State) (w : Nat) : Bool := s.links.any (fun l => l.2.queue.any (fun p => p.wave == some w))

/-- The job that a future handle of a block names (R154, R155). -/
def State.findJob (s : State) (b : Nat) (h : Word) : Option Nat :=
  match s.jobs.find? (fun x => x.2.block == b && x.2.label == some h) with
  | some x => some x.1
  | none => none

/-- The job of a handle is pending (R155); a stale handle is not. -/
def State.futurePending (s : State) (b : Nat) (h : Word) : Bool :=
  match s.findJob b h with
  | some j => (s.job j).state == 0
  | none => false

/-- A tag of the wave waits for its truth (R133). -/
def Wave.truthMissing (w : Wave) (accs : List Nat) : Bool :=
  w.tags.any (fun t => accs.contains t.acc && t.truth.isNone && t.fault.isNone)

/-- The slots of a unit whose jobs are unfinished (R154). -/
def State.unitSlots (s : State) (u : Nat) : List Nat := (s.jobs.filter (fun x => x.2.unit == u && x.2.state == 0)).map (fun x => x.2.slot)

/-- The slots of a unit that no pending job holds (R154). -/
def State.freeSlots (s : State) (u : Nat) : List Nat := (List.range 256).filter (fun k => !(s.unitSlots u).contains k)

/-- Tokens that a queue holds when it is full (R170). -/
def tokenCap : Nat := 1024

/-- The item at a position of a feed, once it has entered (R159). -/
def Feed.itemAt (f : Feed) (pos : Nat) : Option Tile := if pos < f.first then none else f.items[pos - f.first]?
def Feed.visible (f : Feed) (pos : Nat) : Bool := (f.itemAt pos).isSome

/-- What a held PC slot of a wave waits for has come about. -/
def State.waitOver (s : State) (w : Nat) : Wait → Bool
  | .none => true
  | .window => !s.windowOpen w false && !s.windowOpen w true
  | .counter p n => decide ((s.block (s.wave w).block).counter p ≤ n)
  | .accesses level l => l.all (s.accDone level)
  | .release w' level l sfr => l.all (s.accDone (min level 2)) && (level = 0 || !s.closesQueued w' sfr) && (level < 2 || !s.closesOut w') && (level < 3 || !s.postedOut w')
  | .barrier glob n gen =>
    if glob then decide (gen < ((s.launch (s.block (s.wave w).block).launch).gbars.get Barrier.zero n).gen)
      && (n != 0 || !s.abufs.any (fun e => e.st != .kept && e.launch == (s.block (s.wave w).block).launch))
    else decide (gen < ((s.block (s.wave w).block).bars.get Barrier.zero n).gen)
  | .future h => !s.futurePending (s.wave w).block h
  | .jobRoom u => decide ((s.unitSlots u).length < 256) && decide (s.feet.length < 4096)
  | .launchRoom c => decide ((s.mgmt.lauq.get [] c).length < 256)
  | .tokenRoom q => decide ((s.eq q).tokens.length < tokenCap)
  | .seqRoom => decide ((s.block (s.wave w).block).seqq.length < 16)
  | .feed f pos => ((s.block (s.wave w).block).feeds.get Feed.zero f).visible pos || decide (pos < ((s.block (s.wave w).block).feeds.get Feed.zero f).assigned)
  | .tilePred q =>
    match (s.block (s.wave w).block).preds.get (.known true) q with
    | .known _ => true
    | .owed _ => false
  | .accum a q => !(s.block (s.wave w).block).seqq.any (fun c => c.aD == a && decide (c.seq < q))
  | .truths l => !(s.wave w).truthMissing l
  | .blockJobs => !s.jobs.any (fun x => x.2.block == (s.wave w).block && x.2.state == 0 && x.2.engine < 8)
  | .flush => !s.abufs.any (fun e => e.st != .kept && e.block == (s.wave w).block)

/-! ## SFR boundaries and acquires -/

/-- The home slice of a piece: device memory at its slice, others at their port. -/
def Piece.home (p : Piece) : Nat :=
  match p.tgt with
  | .device => homeOf p.pa
  | .host => 256
  | .peer dev _ => 257 + linkOf dev

/-- Accesses that never leave the core: they have no home. -/
def AKind.local : AKind → Bool
  | .lds _ => true | .sts => true | .accld _ _ => true | .mfsr _ => true
  | _ => false

/-- The home slices where an SFR holds claims or has claims under way (R109). -/
def State.sfrHomes (s : State) (w sfr : Nat) : List Nat :=
  ((s.claims.filter (fun c => c.wave == w && c.sfr == sfr)).map (fun c => homeOf (c.word * 4))
    ++ (s.accs.filter (fun x => x.2.wave == w && x.2.sfr == sfr && !x.2.kind.local)).flatMap
        (fun x => (x.2.pieces.filter (fun p => p.tgt == .device)).map Piece.home)).eraseDups

/-- The wave's stores of an SFR or an older one still have data to send to a home: the SFR's close travels behind it (R108, R109). -/
def State.dataQueued (s : State) (w sfr home : Nat) : Bool :=
  s.accs.any (fun x => x.2.wave == w && decide (x.2.sfr ≤ sfr) && x.2.kind.isStore && x.2.pieces.any (fun q => q.home == home && !q.st.dataOut))

/-- The close of an SFR that was just sent stays queued where data goes before it. -/
def State.queueClose (s : State) (w sfr : Nat) (m : Msg) : Msg :=
  match m.body with
  | .close w' k => if w' = w ∧ k = sfr then { m with queued := s.dataQueued w sfr m.home } else m
  | .piece _ _ => m
  | .data _ _ => m

/-- The closes of the wave's SFR that were just sent stay queued where data goes before them. -/
def State.queueCloses (s : State) (w sfr : Nat) : State := { s with net := s.net.map (s.queueClose w sfr) }

/-- An SFR boundary: closes go to every home slice where the SFR holds claims, behind the data that the wave has yet to send there; its scratch claims end, and the next SFR begins (R108, R109, R115). -/
def State.boundary (s : State) (w : Nat) : State :=
  let v := s.wave w
  let p := (s.block v.block).pcore
  let s := (s.sfrHomes w v.sfr).foldl (fun s h => s.send p h (.close w v.sfr)) s
  let s := s.queueCloses w v.sfr
  let s := if (s.block v.block).sclaims.isEmpty then s
    else s.updBlock v.block (fun b => { b with sclaims := b.sclaims.filter (fun c => !(c.job.isNone && c.wave == w && c.sfr == v.sfr)) })
  s.updWave w (fun x => { x with sfr := x.sfr + 1 })

/-- Self-invalidation: every V word of the core becomes I and keeps its data as a stale copy (R105, R132). -/
def State.selfInvalidate (s : State) (p : Nat) : State :=
  s.updCore p (fun c => { c with l1 := c.l1.map (fun l => { l with words := l.words.mapVals (fun _ w =>
    if w.st == .v then { w with st := .i, tag := none, stale := true } else w) }) })

/-- An acquire at a scope of a level (R116). -/
def State.acquire (s : State) (w level : Nat) : State :=
  if level < 2 then s else s.selfInvalidate (s.block (s.wave w).block).pcore

/-! ## Conflicts -/

/-- The party of a wave in XCAUSE[31:16] (R113). -/
def State.waveParty (s : State) (w : Nat) : BitVec 16 :=
  BitVec.ofNat 16 ((s.block (s.wave w).block).lcore % 256 * 128 + (s.wave w).idx % 64)
/-- The party of a job (R113). -/
def Job.party (j : Job) : BitVec 16 := BitVec.ofNat 16 (0x8000 + j.engine % 16 * 256 + j.slot % 256)

/-- A range holds a byte. -/
def Range.holds (r : Range) (a : Nat) : Bool := decide (r.base ≤ a) && decide (a < r.base + r.len)

/-- A range of a context covers a device address: some 64 KiB granule of the range leads to it (R100, R121). -/
def State.rangeCovers (s : State) (c : Nat) (r : Range) (pa : Nat) : Bool :=
  (List.range ((r.base + r.len - 1) / 65536 - r.base / 65536 + 1)).any (fun i =>
    let g := (r.base / 65536 + i) * 65536
    match s.walk c (BitVec.ofNat 64 g) with
    | .leaf e level at' =>
      let p := leafPlace e level at' (BitVec.ofNat 64 g)
      p.tgt == .device && p.pa / 65536 == pa / 65536 &&
        (List.range 4).any (fun k => r.holds (g + pa / 4 * 4 % 65536 + k))
    | .err _ => false)

/-- A footprint range covers a byte of a bias page. -/
def State.rangeOnPage (s : State) (c : Nat) (r : Range) (page : Nat) : Bool :=
  (List.range ((r.base + r.len - 1) / 65536 - r.base / 65536 + 1)).any (fun i =>
    let g := (r.base / 65536 + i) * 65536
    match s.walk c (BitVec.ofNat 64 g) with
    | .leaf e level at' =>
      let p := leafPlace e level at' (BitVec.ofNat 64 g)
      p.tgt == .device && p.pa / 65536 == page / 16 && overlaps (g + page % 16 * 4096) 4096 r.base r.len
    | .err _ => false)

/-- A bias page of the footprint of a job is flipping, so that its accesses are held (R201). -/
def State.jobFlips (s : State) (j : Job) : Bool := s.mgmt.flips.any (fun f => j.foot.any (fun r => s.rangeOnPage j.ctx r f.page))

/-- A started job of which the access meets a footprint claim (R121). -/
def State.jobClaim (s : State) (pa : Nat) (wr : Bool) : Option Nat :=
  match s.jobs.find? (fun x => x.2.started && x.2.state == 0 &&
      x.2.foot.any (fun r => (r.wr || (wr && r.rd)) && s.rangeCovers x.2.ctx r pa)) with
  | some x => some x.1
  | none => none

/-- The open claim of another wave that an access to a word meets: a writer claim before a reader claim (R110). -/
def State.waveClaim (s : State) (word w : Nat) (wr : Bool) : Option Claim :=
  match s.claims.find? (fun c => c.word == word && c.wave != w && c.wr) with
  | some c => some c
  | none => if wr then s.claims.find? (fun c => c.word == word && c.wave != w) else none

/-- The conflict of an access to a word, if there is one (R110, R113, R121). -/
def State.conflictAt (s : State) (word w : Nat) (wr : Bool) : Option Conflict :=
  match s.waveClaim word w wr with
  | some c => some ⟨if wr then (if c.wr then 1 else 2) else 3, s.waveParty c.wave, word⟩
  | none =>
    match s.jobClaim (word * 4) wr with
    | some j => some ⟨4, (s.job j).party, word⟩
    | none => none

/-- The scratch conflict of an access to a word of scratch (R115). -/
def State.scratchConflict (s : State) (b word w : Nat) (wr : Bool) : Option Conflict :=
  match (s.block b).sclaims.find? (fun c => c.word == word && (c.job.isSome || c.wave != w) && (wr || c.wr)) with
  | some c =>
    match c.job with
    | some j => some ⟨5, (s.job j).party, word⟩
    | none => some ⟨5, s.waveParty c.wave, word⟩
  | none => none

/-! ## Withdrawing accesses -/

/-- A stream goes back by the step of a VFEED that is withdrawn, unless STRM has bound it anew (R112, R304). -/
def State.backStream (s : State) (x : Acc) : State :=
  match x.kind with
  | .vfeed k step bind =>
    s.updBlock x.block (fun b => { b with streams := b.streams.upd none k (fun o => o.map (fun st => if st.bind = bind then { st with pos := st.pos - step } else st)) })
  | _ => s

/-- Withdraws an access: its claims, its messages and its record go, and its counter falls. -/
def State.withdraw (s : State) (a : Nat) : State :=
  let x := s.acc a
  let s := s.backStream x
  let s := { s with
    claims := s.claims.filter (fun c => c.acc != a)
    net := s.net.filter (fun m => match m.body with | .piece b _ => b != a | .data b _ => b != a | .close _ _ => true) }
  let s := match x.kind.path with
    | some p => s.landed x.block p a
    | none => s
  let s := s.updBlock x.block (fun b => { b with sclaims := b.sclaims.filter (fun c => c.acc != a || c.job.isSome) })
  s.delAcc a

/-! ## Registers and the check window's log -/

/-- Logs a register write of the issuing PC slot (R112). -/
def Wave.log (w : Wave) (sb : Bool) (q : Nat) (it : UndoItem) : Wave :=
  w.updSlot sb (fun t => { t with undo := ⟨q, it⟩ :: t.undo })

/-- The region after a write to a register: it ends when the register is live-in (R73). -/
def keepRegionS (r : Nat) : Option Region → Option Region
  | some x => if decide (r < 32) && x.liveS.getLsbD r then none else some x
  | none => none
def keepRegionV (r : Nat) : Option Region → Option Region
  | some x => if decide (r < 64) && x.liveV.getLsbD r then none else some x
  | none => none

/-- Lanes that younger writes have taken from an outstanding result, register by register (R27). -/
def addDead (i : Nat) (lanes : Mask) (d : List Mask) : List Mask :=
  (List.range (max d.length (i + 1))).map (fun k => d.getD k 0 ||| (if k = i then lanes else 0))

/-- A tag's group includes a register (R133). -/
def GTag.covers (t : GTag) (r : Nat) : Bool := decide (t.base ≤ r) && decide (r < t.base + t.regs)

/-- A tag's truth has arrived and equals its guess in every guessed lane (R142). -/
def GTag.right (t : GTag) : Bool :=
  match t.truth with
  | some tr => (List.range t.regs).all (fun i => lanes8.all (fun l =>
      !t.mask.getLsbD l || (tr.getD i (L8.rep 0)).get l == (t.guess.getD i (L8.rep 0)).get l))
  | none => false

/-- A write to a register of a group that holds a live tag drops the tag and sets MM unless its truth has come and equals its guess (R142). -/
def Wave.dropTag (w : Wave) (r : Nat) : Wave :=
  if w.tags.any (fun t => t.covers r) then
    { w with tags := w.tags.filter (fun t => !t.covers r), mm := w.mm || w.tags.any (fun t => t.covers r && !t.right) }
  else w

/-- Merges lanes into a vector register, with their guess bits. -/
def VReg.merge (old : VReg) (lanes : Mask) (val : Nat → Word) (guess : Mask) : VReg :=
  ⟨L8.ofFn (fun l => if lanes.getLsbD l then val l else old.lanes.get l), (old.guess &&& ~~~lanes) ||| (guess &&& lanes)⟩
/-- Merges lanes into a predicate register. -/
def PReg.merge (old : PReg) (lanes bits guess : Mask) : PReg :=
  ⟨(old.bits &&& ~~~lanes) ||| (bits &&& lanes), (old.guess &&& ~~~lanes) ||| (guess &&& lanes)⟩

/-- Undoes one logged register write (R112). -/
def State.undoItem (s : State) (w : Nat) : UndoItem → State
  | .v r lanes old => s.updWave w (fun x => { x with vregs := x.vregs.set r ((x.v r).merge lanes old.lanes.get old.guess) })
  | .s r old => s.updWave w (fun x => { x with sregs := x.sregs.set r old })
  | .p r lanes old => s.updWave w (fun x => { x with pregs := x.pregs.set r ((x.p r).merge lanes old.bits old.guess) })
  | .lim n old => s.updBlock (s.wave w).block (fun b => { b with lim := b.lim.set n old })
  | .dead a old => s.updAcc a (fun x => { x with dead := old })

/-- Restores a path to the moment before issue `q`, when the PC slot had issued `n` instructions: every register that they wrote from then on is restored, newest first, with the guess bits it had, and their accesses are withdrawn with the tags that those had allocated (R112). A tag that a younger write had dropped stays dropped and MM stays set: the spec restores registers and is silent on both (DESIGN CHOICE, log entry 117). -/
def State.undoFrom (s : State) (w : Nat) (sb : Bool) (q n : Nat) : State :=
  let items := ((s.wave w).slot sb).undo.filter (fun u => decide (q ≤ u.seq))
  let s := items.foldl (fun s u => s.undoItem w u.item) s
  let young := s.accs.keysWhere (fun _ a => a.wave == w && a.slotB == sb && decide (q ≤ a.seq))
  let s := young.foldl State.withdraw s
  s.updWave w (fun x => { x.updSlot sb (fun t => { t with undo := t.undo.filter (fun u => decide (u.seq < q)), windowCount := n }) with
    tags := x.tags.filter (fun t => !young.contains t.acc) })

end Sys2Proof.Machine
end

