-- ==== Sys2Proof/Machine/Block.lean ====
section
/-! DEFINITION. The life of launches and blocks as instructions and traps act on it: completion writes, ends by error, fixed-order flushes, saves, discards and restores (spec/05_execution.md R56, R63, R70, R74 to R76, R80, spec/07_numbers.md R96). -/

namespace Sys2Proof.Machine

/-! ## Writes by the device -/

/-- A write by an agent of the device, where a live draft cell takes the bytes into both its values, so that they stand however the cell ends (R145, log entry 16). -/
def State.deviceWrite (s : State) (pa : Nat) (d : List Byte) : State :=
  let s := s.agentWrite pa (allBytes d)
  { s with cells := s.cells.map (fun c =>
      if overlaps c.addr 8 pa d.length then
        let inside := (List.range 8).map (fun k => if pa ≤ c.addr + k && decide (c.addr + k < pa + d.length) then d[c.addr + k - pa]? else none)
        { c with old := mergeCell c.old c.addr c.addr inside, new := mergeCell c.new c.addr c.addr inside }
      else c) }

/-- A write of the device in a context's address space, for the launch `by'` where one ends: `none` when it cannot be made (R54, R56). -/
def State.sysWrite (s : State) (by' : Option Nat) (c : Nat) (va : DWord) (d : List Byte) : Option State :=
  match s.placeHub c c va .write with
  | .error _ => none
  | .ok p =>
    match p.tgt with
    | .device => if (s.badLevel p.pa d.length).isSome then none else some (s.deviceWrite p.pa d)
    | .host => some { s with hostMem := s.hostMem.putBytes p.pa d }
    | .peer dev asid =>
      some ((s.updLink (linkOf dev) fun l => { l with queue := l.queue ++ [⟨s.seq, 0, none, by', dev, asid, s.devNum, va, allBytes d, none⟩] }).tick)

/-! ## The launch error log -/

/-- The source byte of a log entry (R56). -/
def Source.code : Source → Nat
  | .queue q => q
  | .launch _ => 0x80
  | .firing _ => 0x81

/-- Makes an entry in the launch error log (R56). -/
def State.logLaunch (s : State) (va : DWord) (ctx code : Nat) (src : Source) (xc : Nat) : State :=
  let e := va.toNat + ctx % 4096 * 2 ^ 64 + code % 256 * 2 ^ 80 + src.code * 2 ^ 88 + xc % 65536 * 2 ^ 96
  s.updMgmt fun m =>
    { m with errlog := m.errlog.set (m.lerrcnt % 64) (BitVec.ofNat 128 e), lerrcnt := m.lerrcnt + 1 }

/-- Reports an end or a refusal with a code: to DONEVA, or to the log (R54, R56, R70). -/
def State.report (s : State) (by' : Option Nat) (doneVa va : DWord) (ctx code : Nat) (src : Source) (xc : Nat) : State :=
  let v := 2 ^ 63 + xc % 65536 * 65536 + code
  if doneVa = 0 || doneVa.toNat % 8 != 0 then s.logLaunch va ctx code src xc
  else
    match s.sysWrite by' ctx doneVa (leBytes v 8) with
    | some s => s
    | none => s.logLaunch va ctx code src xc

/-! ## Fixed-order buffers -/

/-- The order in which a home applies flushed entries (R63). -/
def ABuf.before (a b : ABuf) : Bool :=
  if a.bidx != b.bidx then decide (a.bidx < b.bidx)
  else if a.wave != b.wave then decide (a.wave < b.wave)
  else if a.lane != b.lane then decide (a.lane < b.lane)
  else decide (a.seq < b.seq)
def insertBuf (a : ABuf) : List ABuf → List ABuf
  | [] => [a]
  | b :: t => if a.before b then a :: b :: t else b :: insertBuf a t
def sortBufs : List ABuf → List ABuf
  | [] => []
  | a :: t => insertBuf a (sortBufs t)

/-- A flushed entry waits at its home: its page flips, or the array holds its line back (R193, R201, R213). -/
def State.bufWaits (s : State) (e : ABuf) : Bool := e.tgt == .device && (s.flipping e.pa || s.arrayWaits e.pa)

/-- The table in force at its target denies a flushed entry (R209). -/
def State.bufDenied (s : State) (e : ABuf) : Bool :=
  let t := Place.atTarget ⟨e.tgt, e.pa, 0, 0, 0, 0⟩
  !s.permits t.1 (s.launch e.launch).ctx t.2 .atomic

/-- Applies a flushed entry at its home; one of a peer joins the queue of the link (R63). One that the table there denies is dropped, and its wave learns of it as of a dropped write (R209, log entry 118). -/
def State.applyBuf (s : State) (e : ABuf) : State :=
  if s.bufDenied e then
    (if s.waves.has e.wid then s.updWave e.wid (fun v => { v with pend := v.pend ++ [⟨0x06, 5, e.va⟩] }) else s)
  else match e.tgt with
  | .device => (((s.fetchLine (lineOf e.pa)).recallU (e.pa / 4)).dropG (e.pa / 4) none).combineAt e.pa e.op e.sg e.val
  | .host => { s with hostMem := s.hostMem.putBytes e.pa (wordBytes (redWord e.op e.sg (s.hostMem.word e.pa) e.val)) }
  | .peer dev asid =>
    (s.updLink (linkOf dev) fun l => { l with queue := l.queue ++
      [⟨s.seq, 0, if s.waves.has e.wid then some e.wid else none, some e.launch, dev, asid, s.devNum, e.va, allBytes (wordBytes e.val), some (e.op, e.sg)⟩] }).tick

/-- Applies the entries of a list that need not wait, in order: the state, and the entries that are still on their way. -/
def State.applyBufs (s : State) : List ABuf → State × List ABuf
  | [] => (s, [])
  | e :: t =>
    if s.bufWaits e then
      let r := State.applyBufs s t
      (r.1, e :: r.2)
    else
      let r := State.applyBufs (s.applyBuf e) t
      (r.1, match e.tgt with
        | .peer _ _ => if s.bufDenied e then r.2 else { e with st := .posted s.seq } :: r.2
        | .device => r.2
        | .host => r.2)

/-- Flushed entries reach their homes, in ascending (logical block, wave, lane, issue sequence) order (R63). -/
def State.drainBufs (s : State) : State :=
  let r := s.applyBufs (sortBufs (s.abufs.filter (fun e => e.st == .flushing)))
  { r.1 with abufs := s.abufs.filter (fun e => e.st != .flushing) ++ r.2 }

/-- Flushes the buffered ARED entries that satisfy `f`: those that nothing holds back are applied at once (R63). -/
def State.flushBufs (s : State) (f : ABuf → Bool) : State :=
  State.drainBufs { s with abufs := s.abufs.map (fun e => if e.st == .kept && f e then { e with st := .flushing } else e) }

/-- Entries of a flush that satisfy `f` have not been acknowledged at their homes (R63, R293). -/
def State.flushOpen (s : State) (f : ABuf → Bool) : Bool := s.abufs.any (fun e => e.st != .kept && f e)

/-- A posted reduction of the buffer has been taken or dropped. -/
def State.bufDone (s : State) (id : Nat) : State := { s with abufs := s.abufs.filter (fun e => e.st != .posted id) }

/-! ## Draft cells -/

/-- The bytes of a cell's value. -/
def cellBytes (x : BitVec 64) : List Byte := leBytes x.toNat 8

/-- Ends a draft cell with a value: memory takes it and the cell is free (R146). -/
def State.freeCell (s : State) (c : Cell) (v : BitVec 64) : State :=
  ({ s with cells := s.cells.filter (fun x => x.addr != c.addr) } : State).homePut c.addr (allBytes (cellBytes v))
/-- INK of a cell (R146). -/
def State.inkCell (s : State) (c : Cell) : State := s.freeCell c c.new
/-- ERASE of a cell whose observed bit is clear (R146). -/
def State.eraseCell (s : State) (c : Cell) : State := s.freeCell c c.old

/-- The wave owns the cell: context, logical block and wave (R143). -/
def State.owns (s : State) (w : Nat) (c : Cell) : Bool :=
  let b := s.block (s.wave w).block
  c.launch == b.launch && c.bidx == b.idx && c.wave == (s.wave w).idx

/-- Observes the live cells on the bytes of a read by a wave that does not own them (R145). -/
def State.observeCells (s : State) (w pa n : Nat) : State :=
  { s with cells := s.cells.map (fun c => if overlaps c.addr 8 pa n && !s.owns w c then { c with observed := true } else c) }

/-! ## The end of a launch -/

/-- A launch's statistics block as bytes (R96). -/
def Launch.statBytes (l : Launch) (t : Nat) : List Byte :=
  wordBytes (l.stats.get 0 (4 * t)) ++ wordBytes (l.stats.get 0 (4 * t + 1)) ++ wordBytes (l.stats.get 0 (4 * t + 2))
    ++ wordBytes 0

/-- Writes the statistics block from chunk `k` of 64 bytes on, in ascending order; false when a write cannot be made (R96). -/
def State.putStats (s : State) (id : Nat) (l : Launch) : Nat → Nat → State × Bool
  | 0, _ => (s, true)
  | n + 1, k =>
    let d := l.statBytes (4 * k) ++ l.statBytes (4 * k + 1) ++ l.statBytes (4 * k + 2) ++ l.statBytes (4 * k + 3)
    match s.sysWrite (some id) l.ctx (l.statVa + BitVec.ofNat 64 (64 * k)) d with
    | some s => State.putStats s id l n (k + 1)
    | none => (s, false)

/-- Removes the edges that an entry of the footprint unit gave (R153). -/
def State.dropEdges (s : State) (id : Nat) : State :=
  { s with feet := s.feet.map (fun f => { f with edges := f.edges.filter (fun e => e != id) }) }

/-- An entry of the footprint unit leaves: the edges from it fall (R153). -/
def State.retireFoot (s : State) (f : FootEnt → Bool) : State :=
  let out := (s.feet.filter f).map FootEnt.id
  let s := { s with feet := s.feet.filter (fun e => !f e) }
  out.foldl State.dropEdges s

/-- Cancels a copy job with its block: its footprint entry goes, and the edges from it fall (R153). -/
def State.killJob (s : State) (j : Nat) : State :=
  (s.updJob j (fun x => { x with state := 3, started := false })).retireFoot (fun f => f.job == some j)

/-- A wave ends in a core cycle: both PC slots are free and nothing of it runs on (R69, R316). -/
def Wave.ended (cyc : DWord) (w : Wave) : Wave :=
  { w with exited := true, left := some cyc, slotA := .zero, slotB := .zero, spill := [], tags := [], epoch := false, handler := none, region := none }

/-- A wave is abandoned: reads and accesses whose data has not left are withdrawn, its SFR closes. -/
def State.abandonWave (s : State) (w : Nat) : State :=
  let out := s.accs.keysWhere (fun _ a => a.wave == w && (!a.kind.writes || !a.pieces.all (fun p => p.st.dataOut)))
  let s := out.foldl State.withdraw s
  (s.boundary w).updWave w (Wave.ended (s.core (s.block (s.wave w).block).pcore).cyc)

/-- A party whose retained inputs are released: the partials and the verified chunks of its failed and blocked chunk-steps go (R184, R315). -/
def Party.release (p : Party) : Party :=
  let held (c : Nat) : Bool := p.failed.any (fun f => f.chunk == c) || p.blocked.any (fun b => b.2 == c)
  { p with released := true, partials := p.partials.filter (fun x => !held x.1), incs := p.incs.filter (fun x => !held (x.1 / 4096)) }
/-- The inputs that hubs retain for the parties that a block issued are released when it ends: the senders' copies too (R184, R315). -/
def Inst.release (i : Inst) (b : Nat) : Inst :=
  let mine (p : Party) : Bool := p.joined && p.block == b
  { i with parties := i.parties.mapVals (fun _ p => if mine p then p.release else p), kept := i.kept.filter (fun f => !mine (i.parties.get Party.zero f.snd)) }
def State.releaseColl (s : State) (b : Nat) : State := { s with insts := s.insts.mapVals (fun _ i => i.release b) }

/-- A block leaves its core: this core cycle is its last there, and the slot of its pair is written back at the end of the cycle; one that has not been resident in a cycle yet leaves nothing (R217, R316). -/
def State.leaveCore (s : State) (b : Nat) : State :=
  s.updCore (s.block b).pcore (fun c =>
    if c.entering.contains b then { c with entering := c.entering.filter (fun x => x != b) }
    else { c with leaving := (b, s.pairOf b) :: c.leaving })
/-- A core takes a block of a logical core: the logical core is active there unless another one that the core hosts is (R61). -/
def Core.takesOn (c : Core) (hosts : List Nat) (lcore sliceq : Nat) : Core :=
  if (match c.active with | some l => hosts.contains l | none => false) then c else { c with active := some lcore, slice := sliceq }
/-- A block comes to its core: it is resident from the next core cycle on (R316). -/
def State.enterCore (s : State) (b : Nat) : State :=
  s.updCore (s.block b).pcore (fun c =>
    { c.takesOn (s.hosts (s.block b).pcore) (s.block b).lcore s.mgmt.sliceq.toNat with entering := b :: c.entering })

/-- A block leaves its core for good: its copy jobs end, its frame slot is freed. -/
def State.finishBlock (s : State) (b : Nat) : State :=
  let x := s.block b
  let jobs := s.jobs.keysWhere (fun _ j => j.block == b && j.state == 0 && decide (j.engine < 8))
  let s := jobs.foldl State.killJob s
  let s := if x.st == .resident then s.leaveCore b else s
  let s := s.setBlock b { x with st := .ended, pageWait := none, seqq := [], flights := [], sclaims := [] }
  let s := s.updLaunch x.launch (fun l => { l with live := l.live - 1, frames := l.frames.filter (fun f => f != x.frame) })
  s.releaseColl b

/-- The blocks of a launch that have started and not ended. -/
def State.liveBlocks (s : State) (l : Nat) : List Nat := s.blocks.keysWhere (fun _ b => b.launch == l && b.st != .ended)

/-- A launch that has ended may report (R70, R217): every store of its waves is acknowledged, the blocks that it wrote to peers are accepted, every flushed entry is, and no energy slot of its blocks waits to be written back. -/
def State.reportable (s : State) (l : Nat) : Bool :=
  !s.flushOpen (fun e => e.launch == l) && !s.accs.any (fun a => (s.block a.2.block).launch == l && a.2.kind.writes && !s.accDone 2 a.1)
    && !s.links.any (fun k => k.2.queue.any (fun p => p.launch == some l || (match p.wave with | some w => (s.block (s.wave w).block).launch == l | none => false)))
    && !s.cores.any (fun c => c.2.leaving.any (fun x => (s.block x.1).launch == l && (c.2.slotOf x.2).isSome))

/-- The report of an ended launch: DONEVAL, or the code of its error (R55, R70). -/
def State.giveReport (s : State) (r : Launch) : Report → State
  | .error code xc => s.report none r.doneVa r.va r.ctx code r.src xc
  | .normal =>
    if r.doneVa = 0 then s
    else
      match s.sysWrite none r.ctx r.doneVa (leBytes r.doneVal.toNat 8) with
      | some s => s
      | none => s.logLaunch r.va r.ctx 0 r.src 0

/-- The token buffer of a firing is free (R170). -/
def State.giveBuffer (s : State) : Option (Nat × Nat) → State
  | some (q, k) => s.updEq q (fun e => { e with busy := e.busy.filter (fun x => x.2 != k) })
  | none => s

/-- The last act of a launch (R70, R170): the completion word or the error is reported, and the token buffer of a firing is free. -/
def State.reportEnd (s : State) (l : Nat) : State :=
  let r := s.launch l
  match r.due with
  | none => s
  | some d =>
    if s.reportable l then
      ((s.giveReport r d).giveBuffer r.buffer).updLaunch l (fun x => { x with due := none })
    else s

/-- LAUNCH end, step 4 of R70, of the launches that owe their report and may make it. -/
def State.reportAll (s : State) : State := (s.launches.keysWhere (fun _ l => l.due.isSome)).foldl State.reportEnd s

/-- A launch ends by an error: its blocks are abandoned, its cells inked, its buffers flushed, its statistics written, its footprint retired, and the code reported once what it wrote has been accepted (R70, R148). A statistics block that cannot be written changes nothing of the error's code (log entry 104). -/
def State.endLaunch (s : State) (l code xc : Nat) : State :=
  if (s.launch l).st == .ended then s
  else
    let bs := s.liveBlocks l
    let s := s.flushBufs (fun e => e.launch == l)
    let s := bs.foldl (fun s b => (s.block b).waves.foldl State.abandonWave s) s
    let s := (s.cells.filter (fun c => c.launch == l)).foldl State.inkCell s
    let s := bs.foldl State.finishBlock s
    let r := s.launch l
    let s := if r.statVa = 0 then s else (s.putStats l r 1024 0).1
    let s := s.retireFoot (fun f => f.launch == some l)
    (s.updLaunch l (fun x => { x with st := .ended, live := 0, frames := [], due := some (.error code xc) })).reportEnd l

/-- A launch ends normally (R70): buffers flushed, statistics written, footprint retired, DONEVAL written once what the launch wrote has been accepted; a statistics block that cannot be written ends it with code 0x24 (R96). -/
def State.completeLaunch (s : State) (l : Nat) : State :=
  let s := s.flushBufs (fun e => e.launch == l)
  let r := s.launch l
  let (s, ok) := if r.statVa = 0 then (s, true) else s.putStats l r 1024 0
  let s := s.retireFoot (fun f => f.launch == some l)
  (s.updLaunch l (fun x => { x with st := .ended, live := 0, frames := [], due := some (if ok then .normal else .error 0x24 0) })).reportEnd l

/-! ## Frames -/

/-- FS: the size of a frame slot (R75). -/
def Launch.frameBytes (l : Launch) : Nat :=
  roundUp (32768 + l.waves * (2048 + l.vregs / 8 * 264 + l.sregs * 8 + l.spillD * 16) + l.scr * 65536 + l.accs * 4096
    + (if l.accs = 0 then 0 else 73728)) 65536
/-- The address of frame slot `i` (R75). -/
def Launch.frameAddr (l : Launch) (i : Nat) : DWord := l.frameVa + BitVec.ofNat 64 (i * l.frameBytes)

/-- The posted writes of one granule to a peer, a line each (R204). -/
def granulePosts (id dev asid src : Nat) (va : DWord) (f : Nat → Byte) : List Posted :=
  (List.range 512).map (fun k => ⟨id, 0, none, none, dev, asid, src, va + BitVec.ofNat 64 (128 * k), (List.range 128).map (fun i => some (f (128 * k + i))), none⟩)
/-- One granule of a frame slot is written: what its bytes hold is open (log entry 10). The writes to a peer join the queue of the link, or are dropped where it is DOWN (R204, R206, R207). -/
def State.fillGranule (s : State) (c : Nat) (va : DWord) : State :=
  match s.placeHub c c va .write with
  | .error _ => s
  | .ok p =>
    let f (i : Nat) : Byte := Config.frameByte (s.seq + va.toNat) i
    match p.tgt with
    | .device => { s with mem := s.mem.fill p.pa 65536 f }
    | .host => { s with hostMem := s.hostMem.fill p.pa 65536 f }
    | .peer dev asid =>
      if s.linkIsDown dev then s
      else (s.updLink (linkOf dev) fun l => { l with queue := l.queue ++ granulePosts s.seq dev asid s.devNum va f }).tick

/-- The granules of a frame slot at an address. -/
def State.fillGranules (s : State) (c : Nat) (va : DWord) (ks : List Nat) : State :=
  ks.foldl (fun s k => s.fillGranule c (va + BitVec.ofNat 64 (65536 * k))) s
/-- The whole of a frame slot of a launch (R75). -/
def State.fillFrame (s : State) (l : Launch) (frame : Nat) : State := s.fillGranules l.ctx (l.frameAddr frame) (List.range (l.frameBytes / 65536))
/-- The device writes in the frame slot of a block: its state at a save, or a spill area (R65, R74, R75). -/
def State.writeFrame (s : State) (b : Nat) : State := s.fillFrame (s.launch (s.block b).launch) (s.block b).frame

/-! ## Saves, discards, restores -/

/-- Sends the claim phase of every piece of an access that has not been sent (R104, R105). -/
def State.sendPieces (s : State) (a : Nat) : State :=
  let x := s.acc a
  let idx := (List.range x.pieces.length).filter (fun i => (x.pieces.getD i .zero).st == .fresh)
  let s := idx.foldl (fun s i => s.send x.core (x.pieces.getD i .zero).home (.piece a i)) s
  s.updAcc a (fun x => { x with pieces := x.pieces.map (fun p => if p.st == .fresh then { p with st := .sent } else p) })

/-- A load that a save abandons: its limit has not expired and its destination is not complete, so it will be issued again (R131). -/
def Acc.abandonable (a : Acc) : Bool :=
  a.kind.long && !a.fell && !a.guessed && (match a.kind with | .atomic _ _ => false | k => !k.local)

/-- Removes the messages and the claims of an access. -/
def State.unsend (s : State) (a : Nat) : State :=
  { s with
    claims := s.claims.filter (fun c => c.acc != a)
    net := s.net.filter (fun m => match m.body with | .piece b _ => b != a | .data b _ => b != a | .close _ _ => true) }

/-- Takes an abandoned load back to its issue; its check window stays open until it has been issued again. A value that it took early is checked when its claim comes (R105, R112, R131). -/
def State.rewindAcc (s : State) (a : Nat) : State :=
  (s.unsend a).updAcc a (fun x => { x with age := 0, window := x.kind.windowed, pieces := x.pieces.map (fun p =>
    { p with st := .fresh, val := [], taken := p.taken && p.early.isSome, conf := none, err := none }) })

/-- The request for the truth of a guessed load is dropped by a save, and made again at the restore (R131). -/
def Acc.truthAsked (a : Acc) : Bool := a.pieces.any (fun p => a.truthOnly p && (p.st == .sent || p.st == .atHome))
def State.rewindTruth (s : State) (a : Nat) : State :=
  let x := s.acc a
  let asked (p : Piece) : Bool := x.truthOnly p && (p.st == .sent || p.st == .atHome)
  let gone (k : Nat) : Bool := asked (x.pieces.getD k .zero)
  let s := { s with net := s.net.filter (fun m => match m.body with | .piece b k => !(b == a && gone k) | .data _ _ => true | .close _ _ => true) }
  s.updAcc a (fun x => { x with pieces := x.pieces.map (fun p => if asked p then { p with st := .fresh, val := [], conf := none, err := none } else p) })

/-- Every wave of the block that has not exited is discardable, no job of it is unfinished, and no wave holds a live linked cell (R74). -/
def State.discardable (s : State) (b : Nat) : Bool :=
  (s.block b).waves.all (fun w => (s.wave w).exited || (s.wave w).region.isSome)
    && !s.jobs.any (fun x => x.2.block == b && x.2.state == 0)
    && !(s.block b).waves.any (fun w => s.cells.any (fun c => c.linked && s.owns w c))

/-- The registers of a wave that a discard keeps: the live-in set (R73, R74). -/
def Wave.discard (w : Wave) : Wave :=
  match w.region with
  | some r =>
    { w with
      vregs := w.vregs.filter (fun x => decide (x.1 < 64) && r.liveV.getLsbD x.1)
      sregs := w.sregs.filter (fun x => decide (x.1 < 32) && r.liveS.getLsbD x.1)
      pregs := [], spill := [], tags := [], mm := false, epoch := false, gexposed := 0
      xpc := 0, xmode := 0, xcause := 0, xlanes := 0, xaddr := 0
      slotA := { Slot.zero with live := true, path := ⟨r.entry, r.mask, r.mode, none⟩ }
      slotB := .zero }
  | none => w

/-- A discard drops every read of the block, and the results of its atomics have no place to go. -/
def State.dropReads (s : State) (b : Nat) : State :=
  let isAtomic (a : Acc) : Bool := match a.kind with | .atomic _ _ => true | _ => false
  let s := (s.accs.keysWhere (fun _ a => a.block == b && a.kind.long && !isAtomic a)).foldl State.withdraw s
  { s with accs := s.accs.mapVals (fun _ a => if a.block == b && isAtomic a then { a with dead := [0xFF] } else a) }

/-- A PC slot of a block that leaves its core: no choice point of a scheduler counts for it any more (R71, R242). -/
def Slot.away (sl : Slot) : Slot := { sl with passed := 0, yielded := false }
/-- Both PC slots of a wave that leaves its core. -/
def Wave.away (w : Wave) : Wave := { w with slotA := w.slotA.away, slotB := w.slotB.away }

/-- A block leaves its core: discarded where that is asked for and it may be, saved to its frame otherwise (R74, R131, R157). A pre-emption may discard; a page fault, a move, a parking and a checkpoint save. -/
def State.saveBlock (s : State) (b : Nat) (mayDrop : Bool) (page : Option (Nat × DWord × Nat)) : State :=
  let x := s.block b
  if x.st != .resident then s
  else
    let disc := mayDrop && s.discardable b
    let live := x.waves.filter (fun w => !(s.wave w).exited)
    let loads := s.accs.keysWhere (fun _ a => a.block == b && a.abandonable)
    let s :=
      if disc then
        let s := s.dropReads b
        let s := live.foldl State.boundary s
        let s := live.foldl (fun s w => s.updWave w Wave.discard) s
        s.updBlock b (fun x => { x with tabs := [], feeds := [], preds := [], streams := [], sketch := .zero, seqq := [], discarded := true })
      else
        let truths := s.accs.keysWhere (fun _ a => a.block == b && a.truthAsked)
        let s := truths.foldl State.rewindTruth (loads.foldl State.rewindAcc s)
        let s := live.foldl State.boundary s
        let js := s.jobs.keysWhere (fun _ j => j.block == b && j.state == 0 && decide (j.engine < 8))
        (js.foldl (fun s j => s.updJob j (fun y => { y with suspended := true })) s).writeFrame b
    let s := live.foldl (fun s w => s.updWave w Wave.away) s
    (s.leaveCore b).updBlock b (fun x => { x with st := .saved, pageWait := page })

/-- The place of an access's pieces after a restore: translated again, or as before where the walk gives no place (log entry 17). -/
def State.replace (s : State) (a : Nat) : State :=
  let x := s.acc a
  s.updAcc a (fun x' => { x' with core := (s.block x.block).pcore, pair := s.pairOf x.block, sfr := (s.wave x.wave).sfr, pieces := x.pieces.map (fun p =>
    match s.place (s.clusterOf (s.block x.block).pcore) x.ctx p.va .read with
    | .ok q => { p with tgt := q.tgt, pa := q.pa, uncached := q.pol == 1 }
    | .error _ => p) })

/-- A started job that has not done its copying (R154). -/
def Job.copying (j : Job) : Bool := j.state == 0 && j.started && !j.copyDone
/-- Copy jobs that a unit runs: a job that is suspended with its block runs on none (R154, R157). -/
def State.running (s : State) (u : Nat) : Nat := (s.jobs.filter (fun x => x.2.unit == u && x.2.copying && !x.2.suspended)).length
/-- The copy engines of a core's cluster have room for the jobs of a saved block: no more than 8 started jobs each, and a slot for every job that comes from another cluster (R154, R157). -/
def State.jobsFit (s : State) (b pcore : Nat) : Bool :=
  let js := (s.jobs.filter (fun x => x.2.block == b && x.2.suspended)).map Prod.snd
  [0, 1].all (fun e =>
    let u := 2 * s.clusterOf pcore + e
    let mine := js.filter (fun j => j.engine == e)
    decide (s.running u + (mine.filter Job.copying).length ≤ 8) && decide ((mine.filter (fun j => j.unit != u)).length ≤ (s.freeSlots u).length))
/-- A copy job of a restored block goes on, on the copy engine of the core's cluster that its handle names (R157, R215); its old slot is free, and it has one of the new engine. -/
def State.resumeJob (s : State) (j : Nat) : State :=
  let x := s.job j
  let u := 2 * s.clusterOf (s.block x.block).pcore + x.engine
  s.updJob j (fun y => { y with suspended := false, unit := u, slot := if u = y.unit then y.slot else ((s.freeSlots u)[0]?).getD 256 })

/-- A saved block becomes resident on a logical core: its waves are the newest, abandoned loads are issued again, its jobs go on (R74, R131, R157, R316). -/
def State.restoreBlock (s : State) (b lcore : Nat) : State :=
  let x := s.block b
  let p := s.remapOf lcore
  let s := s.updBlock b (fun x => { x with st := .resident, lcore := lcore, pcore := p, issued := 0, since := s.seq, pageWait := none, discarded := false })
  let live := x.waves.filter (fun w => !(s.wave w).exited)
  let s := x.waves.foldl (fun s w => s.updWave w (fun v => { v with left := none })) s
  let s := live.foldl (fun s w => (s.boundary w).updWave w (fun v => { v with since := s.seq })) s
  let loads := s.accs.keysWhere (fun _ a => a.block == b && (a.abandonable || a.guessed) && a.pieces.any (fun p => p.st == .fresh))
  let s := loads.foldl (fun s a => (s.replace a).sendPieces a) s
  let js := s.jobs.keysWhere (fun _ j => j.block == b && j.suspended)
  let s := js.foldl State.resumeJob s
  (s.tick).enterCore b

end Sys2Proof.Machine
end

