-- ==== Sys2Proof/Machine/Ops.lean ====
section
/-! DEFINITION. The named operations that the meanings share: reading and writing registers with the check window's log, the issue of a unit with its checks, waits and completion, splits and joins, taking a trap and returning from one (spec/03_encoding.md R28, R47, R48, spec/05_execution.md R65 to R67, R73, R80, spec/09_ordering.md R109, R112, spec/13_engines.md R154). -/

namespace Sys2Proof.Machine

/-! ## The issuing path -/

/-- The wave, the PC slot, the block, the launch and the core that issue. -/
def State.fw (s : State) : Wave := s.wave s.focus.wave
def State.fs (s : State) : Slot := s.fw.slot s.focus.slotB
def State.fb (s : State) : Block := s.block s.fw.block
def State.fl (s : State) : Launch := s.launch s.fb.launch
def State.mode (s : State) : Word := s.fs.path.mode
def State.mask (s : State) : Mask := s.fs.path.mask
def State.pc (s : State) : DWord := s.fs.path.pc

/-- A scalar register of the issuing wave. -/
def State.sreg (s : State) (r : BitVec 6) : DWord := s.fw.s r.toNat
/-- A vector and a predicate register of the issuing wave. -/
def State.vreg (s : State) (r : Nat) : VReg := s.fw.v r
def State.preg (s : State) (r : BitVec 3) : PReg := s.fw.p r.toNat

/-! ## Register writes -/

/-- The result of an access is due in scalar register `r`, or in vector register `r`. -/
def Acc.dueS (a : Acc) (w r : Nat) : Bool := a.wave == w && a.kind.scalar && a.outstanding && a.dst == r
def Acc.dueV (a : Acc) (w r : Nat) : Bool :=
  a.wave == w && a.kind.long && !a.kind.scalar && a.outstanding && decide (a.dst ≤ r) && decide (r < a.dst + a.regs)

/-- A younger write stands: results due in the register no longer take the lanes it writes (R27). -/
def State.killS (s : State) (w r : Nat) : State :=
  { s with accs := s.accs.mapVals (fun _ a => if a.dueS w r then { a with dead := addDead 0 0xFF a.dead } else a) }
def State.killV (s : State) (w r : Nat) (lanes : Mask) : State :=
  { s with accs := s.accs.mapVals (fun _ a => if a.dueV w r then { a with dead := addDead (r - a.dst) lanes a.dead } else a) }
/-- Logs what the results due in a register had lost before (R112). -/
def State.logDead (s : State) (w : Nat) (sb : Bool) (f : Acc → Bool) : State :=
  (s.accs.filter (fun x => f x.2)).foldl (fun s x => s.updWave w (fun v => v.log sb s.seq (.dead x.1 x.2.dead))) s

/-- Writes a scalar register of the issuing wave (R226): the write is logged, ends a future mark unless it carries one, and ends discardability when the register is live-in. -/
def State.writeSV (s : State) (r : Nat) (x : SRegVal) : State :=
  let w := s.focus.wave
  let sb := s.focus.slotB
  ((s.logDead w sb (fun a => a.dueS w r)).killS w r).updWave w fun v =>
    { v.log sb s.seq (.s r (v.sregs.get .zero r)) with sregs := v.sregs.set r x, region := keepRegionS r v.region }
def State.writeS (s : State) (r : BitVec 6) (x : DWord) : State := s.writeSV r.toNat ⟨x, false⟩

/-- Writes lanes of a vector register of the issuing wave with their guess bits (R134, R252). Writing no lane is no write. -/
def State.writeV (s : State) (r : Nat) (lanes : Mask) (val : Nat → Word) (guess : Mask) : State :=
  if lanes = 0 then s
  else
    let w := s.focus.wave
    let sb := s.focus.slotB
    ((s.logDead w sb (fun a => a.dueV w r)).killV w r lanes).updWave w fun v =>
      { (v.dropTag r).log sb s.seq (.v r lanes (v.v r)) with
        vregs := v.vregs.set r ((v.v r).merge lanes val guess), region := keepRegionV r v.region }

/-- Writes lanes of a predicate register of the issuing wave with their guess bits. -/
def State.writeP (s : State) (r : BitVec 3) (lanes bits guess : Mask) : State :=
  let sb := s.focus.slotB
  s.updWave s.focus.wave fun v =>
    { v.log sb s.seq (.p r.toNat lanes (v.p r.toNat)) with pregs := v.pregs.set r.toNat ((v.p r.toNat).merge lanes bits guess) }

/-- Writes a limit register of the block (R127, R248). -/
def State.writeLim (s : State) (n : BitVec 3) (x : Word) : State :=
  let old := s.fb.lim.get 0 n.toNat
  (s.updWave s.focus.wave fun v => v.log s.focus.slotB s.seq (.lim n.toNat old)).updBlock s.fw.block
    fun b => { b with lim := b.lim.set n.toNat x }

/-! ## Taking a trap -/

/-- A trap as an instruction raises it: cause, subcode, detail, the lanes when they are not the path's mask, XADDR, and whether XPC is the next PC (R80, R227, R243). -/
structure Trap where
  cause : BitVec 8
  sub : BitVec 8
  detail : BitVec 16
  lanes : Option Mask
  addr : DWord
  next : Bool
deriving DecidableEq, Repr

/-- A trap with the path's lane mask, XADDR 0 and no detail. -/
def trapOf (cause sub : BitVec 8) : Trap := ⟨cause, sub, 0, none, 0, false⟩
/-- A trap with a lane set and an address. -/
def trapAt (cause sub : BitVec 8) (lanes : Mask) (addr : DWord) : Trap := ⟨cause, sub, 0, some lanes, addr, false⟩

/-- XCAUSE of a trap (R80). -/
def Trap.xcause (t : Trap) : DWord := (0#32 ++ t.detail ++ t.sub ++ t.cause : BitVec 64)

/-- The trap registers as a trap sets them (R80). -/
def Wave.setTrap (w : Wave) (sb : Bool) (t : Trap) (xpc : DWord) : Wave :=
  { w with xpc := xpc, xmode := (w.slot sb).path.mode, xcause := t.xcause,
           xlanes := (match t.lanes with | some m => m | none => (w.slot sb).path.mask), xaddr := t.addr }

/-- The trapping slot at the handler: the same lanes, MODE 0 but for FOM, nothing held (R80). -/
def Slot.atHandler (sl : Slot) (pc : DWord) : Slot :=
  { sl with path := { sl.path with pc := pc, mode := sl.path.mode &&& 0x40000#32 }, parked := false, held := none, phase := 0,
            wait := .none, ref := 0, branched := true, undo := [], windowCount := 0, billed := false }

/-- Takes a trap in a PC slot of a wave (R80). The trap registers are set. At handler level the launch ends with code 0x20; with no handler it ends with code 0x21 (R70). Otherwise the handler runs at handler level in the trapping slot, and the other slot stays stopped. -/
def State.takeTrap (s : State) (w : Nat) (sb : Bool) (t : Trap) (xpc : DWord) : State :=
  let l := s.launch (s.block (s.wave w).block).launch
  let s' := s.updWave w (fun v => v.setTrap sb t xpc)
  if (s.wave w).handler.isSome then s'.endLaunch (s.block (s.wave w).block).launch 0x20 t.xcause.toNat
  else if l.handler = 0 then s'.endLaunch (s.block (s.wave w).block).launch 0x21 t.xcause.toNat
  else s'.updWave w (fun v => { v.updSlot sb (fun sl => sl.atHandler (l.kdesc + l.handler)) with handler := some sb, region := none })

/-- Returns from a handler: MODE from XMODE, PC from XPC, and the wave leaves handler level, so that the other slot resumes (R244). -/
def Wave.returnFrom (w : Wave) (sb : Bool) : Wave :=
  { w.updSlot sb (fun sl => { sl with path := { sl.path with pc := w.xpc, mode := w.xmode } }) with handler := none }

/-! ## Splits and joins -/

/-- Replaces an element of a list. -/
def setNth {α : Type} (l : List α) (i : Nat) (x : α) : List α := l.take i ++ x :: l.drop (i + 1)

/-- A slot that loads a path (R67). -/
def Slot.load (p : PathRec) : Slot := { Slot.zero with live := true, path := p, branched := true }

/-- Splits the path of a slot (R66): `none` when the spill stack would overflow. The targets come with their lane sets, target 1 first. -/
def Wave.split (w : Wave) (sb : Bool) (depth : Nat) (targets : List (DWord × Mask)) (join : DWord) : Option Wave :=
  let x := w.slot sb
  let free := !(w.slot (!sb)).live
  if depth < w.spill.length + 1 + (targets.length - 1) - b2n free then none
  else
    let j := w.spill.length
    let path (t : DWord × Mask) : PathRec := ⟨t.1, t.2, x.path.mode, some j⟩
    let spill := w.spill ++ [.join join x.path.mask 0 x.path.mode x.path.jr]
    match targets with
    | [] => some w
    | t1 :: rest =>
      let w := { w.updSlot sb (fun sl => { sl with path := path t1 }) with spill := spill }
      if free then
        match rest with
        | [] => some w
        | t2 :: more => some { w.setSlot (!sb) (Slot.load (path t2)) with spill := spill ++ more.reverse.map (fun t => Spill.path (path t)) }
      else some { w with spill := spill ++ rest.reverse.map (fun t => Spill.path (path t)) }

/-- The slot's PC has reached the join PC of its path's record (R67). -/
def Wave.atJoin (w : Wave) (sb : Bool) : Bool :=
  (w.slot sb).live && match (w.slot sb).path.jr with
  | some j =>
    match w.spill[j]? with
    | some (.join pc _ _ _ _) => pc == (w.slot sb).path.pc
    | _ => false
  | none => false

/-- The path of a slot stops at its join: its lanes arrive and the slot is free (R67 step 1). -/
def Wave.arrive (w : Wave) (sb : Bool) : Wave :=
  match (w.slot sb).path.jr with
  | some j =>
    match w.spill[j]? with
    | some (.join pc e a m o) =>
      { w.setSlot sb .zero with spill := setNth w.spill j (.join pc e (a ||| (w.slot sb).path.mask) m o) }
    | _ => w
  | none => w

/-- A free slot loads the top entry of the spill stack when it may (R67 steps 2 and 3). -/
def Wave.refill (w : Wave) (sb : Bool) : Wave :=
  if (w.slot sb).live then w
  else
    match w.spill.getLast? with
    | some (.path p) => { w.setSlot sb (Slot.load p) with spill := w.spill.dropLast }
    | some (.join pc e a m o) =>
      if a = e then { w.setSlot sb (Slot.load ⟨pc, e, m, o⟩) with spill := w.spill.dropLast } else w
    | none => w

/-- The slot may stop at its join: its check window is closed and no long-latency result for which it is parked is outstanding (log entry 18). -/
def State.mayJoin (s : State) (w : Nat) (sb : Bool) : Bool :=
  (s.wave w).atJoin sb && !s.windowOpen w sb && !(((s.wave w).slot sb).parked && s.outstanding w sb)

/-- Arrivals at joins and loads of free slots, until nothing moves (R67). The slot that issued last comes first. -/
def State.joinLoop (s : State) (w : Nat) (sb : Bool) : Nat → State
  | 0 => s
  | n + 1 =>
    let s := if s.mayJoin w sb then s.updWave w (fun v => v.arrive sb) else s
    let s := if s.mayJoin w (!sb) then s.updWave w (fun v => v.arrive (!sb)) else s
    let s := if ((s.wave w).spill).isEmpty then s else s.updWave w (fun v => (v.refill sb).refill (!sb))
    State.joinLoop s w sb n

/-- Join processing of a wave. -/
def State.joinWave (s : State) (w : Nat) (sb : Bool) : State :=
  if ((s.wave w).spill).isEmpty || (s.wave w).exited then s else s.joinLoop w sb ((s.wave w).spill.length + 2)

/-! ## Issue -/

/-- The last word of a unit: the instruction word (R33). -/
def lastWordOf (i : Instr) : Word := (encode i).getLastD 0
/-- The switch marker of a unit (R27). -/
def markerOf (i : Instr) : Bool := fS (lastWordOf i)

/-- A register operand, with the field that holds it (R28, R47): a scalar that is read, the even scalar of a pair that is read, a scalar that is written or named, a vector group, an accumulator, a group-table row, a feed or a command that needs accumulators. -/
inductive Opd where
  | sr (f n : Nat)
  | sp (f n : Nat)
  | sd (f n : Nat)
  | v (f n len : Nat)
  | a (f n : Nat)
  | g (f n : Nat)
  | feed (f : Nat)
deriving DecidableEq, Repr

/-- The field of an operand. -/
def Opd.field : Opd → Nat
  | .sr f _ => f | .sp f _ => f | .sd f _ => f | .v f _ _ => f | .a f _ => f | .g f _ => f | .feed f => f
/-- The operand is at or beyond its declared count (R28). -/
def Opd.beyond (l : Launch) : Opd → Bool
  | .sr _ n => decide (l.sregs ≤ n)
  | .sp _ n => decide (l.sregs ≤ n + 1)
  | .sd _ n => decide (l.sregs ≤ n)
  | .v _ n len => decide (l.vregs < n + len)
  | .a _ n => decide (l.accs ≤ n)
  | .g _ n => decide (l.ngrp ≤ n)
  | .feed _ => l.accs == 0
/-- The operand is a group whose base breaks its rule (R28). -/
def Opd.odd : Opd → Bool
  | .v _ n len => n % len != 0
  | .sp _ n => n % 2 != 0
  | _ => false
/-- A scalar that is read. -/
def Opd.readS : Opd → Option Nat
  | .sr _ n => some n
  | .sp _ n => some n
  | _ => none

/-- The lowest field among the operands beyond their counts (R47). -/
def firstBeyond (l : Launch) (ops : List Opd) : Option Nat :=
  [1, 2, 3, 4].find? (fun f => ops.any (fun o => o.field == f && o.beyond l))

/-- What an instruction's row says of its issue: its weight class and how often it is charged (R218), whether it waits for closed check windows (R112), whether it ends discardability (R73), the counter that it raises (R72), the element types that its row accepts, bit e for ET e (R36; MODE never holds a reserved one, R37), and whether it needs handler level (R244). -/
structure Traits where
  cls : Nat := 0
  times : Nat := 1
  held : Bool := false
  breaks : Bool := false
  path : Option Path := none
  ets : BitVec 16 := 0xFFFF
  handlerOnly : Bool := false

/-- The outcome of the body of an instruction. -/
inductive Res where
  /-- Executed; the path goes on at the next unit. -/
  | done (s : State)
  /-- Executed; the body has set the path. -/
  | goto (s : State)
  /-- Executed; the wave no longer runs here. -/
  | ended (s : State)
  /-- The instruction traps before it changes any state, but for what `s` says. -/
  | trap (t : Trap) (s : State)
  /-- The PC slot holds the instruction until a condition comes about; the body goes on at a phase. -/
  | hold (phase : Nat) (w : Wait) (ref : Nat) (s : State)
  /-- An access met a valid page that is not mapped (R101): its address and kind. -/
  | page (va : DWord) (kind : Nat) (s : State)

/-- The first fault of a unit that depends on the state, in the order of R48: RTE or HALT below handler level, a bad group, an element type that the row does not accept, a register beyond its count. -/
def State.precheck (s : State) (i : Instr) (t : Traits) (ops : List Opd) : Option Trap :=
  let bad (sub : BitVec 8) : Option Trap := some ⟨1, sub, 0, none, (lastWordOf i).setWidth 64, false⟩
  if t.handlerOnly && s.fw.handler.isNone then bad 7
  else if ops.any Opd.odd then bad 5
  else if !t.ets.getLsbD (mET s.mode) then bad 4
  else
    match firstBeyond s.fl ops with
    | some f => some ⟨3, BitVec.ofNat 8 f, 0, none, (lastWordOf i).setWidth 64, false⟩
    | none => none

/-- The slot holds the unit until a condition comes about. -/
def State.holdAt (s : State) (i : Instr) (phase : Nat) (w : Wait) (ref : Nat) : State :=
  s.updWave s.focus.wave (fun v => v.updSlot s.focus.slotB (fun sl => { sl with held := some i, phase := phase, wait := w, ref := ref }))

/-- The slot after a unit has issued: nothing held, parked by its marker (R27), its count of issues raised (R112). -/
def Slot.issued (sl : Slot) (i : Instr) (jump wopen : Bool) : Slot :=
  { sl with
    path := if jump then sl.path else { sl.path with pc := sl.path.pc + BitVec.ofNat 64 (4 * i.words) }
    parked := markerOf i, held := none, phase := 0, wait := .none, ref := 0, branched := jump, passed := 0, billed := false
    undo := if wopen then sl.undo else [], windowCount := sl.windowCount + 1 }

/-- The charge of an issue and the counts of instructions (R61, R76, R218, R317). -/
def State.bill (s : State) (t : Traits) : State :=
  let b := s.fw.block
  let p := s.fb.pcore
  let s := s.charge p (s.pairOf b) b (t.times * s.weight t.cls)
  let s := s.updBlock b (fun x => { x with issued := x.issued + 1 })
  s.updCore p (fun c => if c.active == some (s.block b).lcore then { c with slice := c.slice - 1 } else c)

/-- The charge of a unit, once: a unit that held its slot behind its checks has been charged there (R317). -/
def State.charged (s : State) (t : Traits) : State := if s.fs.billed then s else s.bill t

/-- A hold that comes after every check of its unit, so that the unit is charged when it begins (R317): at a barrier after the arrival, for results, in WAITC but for ST, for a future, for room in a launch queue. A unit that may still trap is charged when it completes. -/
def passedChecks (phase : Nat) : Wait → Bool
  | .barrier _ _ _ => phase != 0
  | .accesses level _ => level == 3 || level == 5
  | .counter p _ => phase == 0 && p != .st
  | .future _ => true
  | .launchRoom _ => true
  | .accum _ _ => phase == 2
  | _ => false

/-- Completes the issue of a unit. -/
def State.complete (s : State) (i : Instr) (t : Traits) (jump : Bool) : State :=
  let w := s.focus.wave
  let sb := s.focus.slotB
  let wopen := s.windowOpen w sb
  let s := s.charged t
  let s := s.updWave w (fun v =>
    { v.updSlot sb (fun sl => sl.issued i jump wopen) with lastB := sb, region := if t.breaks then none else v.region })
  (s.tick).joinWave w sb

/-- Takes a trap of the issuing unit once no check window of the wave is open: XPC is the unit's first word, or the next PC (R33, R80, R112, R243). -/
def State.raise (s : State) (orig : State) (i : Instr) (t : Trap) : State :=
  if !orig.waitOver orig.focus.wave .window then orig.holdAt i orig.fs.phase .window orig.fs.ref
  else s.takeTrap s.focus.wave s.focus.slotB t (if t.next then s.pc + BitVec.ofNat 64 (4 * i.words) else s.pc)

/-- The page fault of a wave: the block is saved on the granule, and the fault waits to be entered in the ring once for each granule (R101). -/
def State.pageWait (s : State) (orig : State) (i : Instr) (va : DWord) (kind : Nat) : State :=
  if !orig.waitOver orig.focus.wave .window then orig.holdAt i 0 .window 0
  else
    let b := s.fw.block
    let c := s.fl.ctx
    let g := va.toNat / 65536
    let s := s.updWave s.focus.wave (fun v => v.updSlot s.focus.slotB (fun sl => { sl with held := none, phase := 0, wait := .none, ref := 0, billed := false }))
    let known := s.mgmt.faults.any (fun f => f.ctx == c && f.va.toNat / 65536 == g)
    let f : PFault := ⟨c, va, kind, coreDie s.fb.pcore, BitVec.ofNat 32 (s.block b).idx, false⟩
    let s := if known then s else s.updMgmt (fun m => { m with faults := m.faults ++ [f] })
    s.saveBlock b false (some (g, va, kind))

/-- A hold that comes after the unit has issued an access that writes: the unit has begun (R73). -/
def State.begun (s : State) (ref : Nat) : Wait → Bool
  | .accesses _ l => l.contains ref && (s.acc ref).kind.writes
  | _ => false

/-- Handles the outcome of a body. -/
def State.settle (s : State) (i : Instr) (t : Traits) : Res → State
  | .done s' => s'.complete i t false
  | .goto s' => s'.complete i t true
  | .ended s' => s'
  | .trap tr s' => s'.raise s i tr
  | .hold ph wt ref s' =>
    let s' := if t.breaks && s'.begun ref wt then s'.updWave s'.focus.wave (fun v => { v with region := none }) else s'
    if passedChecks ph wt then ((s'.charged t).holdAt i ph wt ref).updWave s'.focus.wave (fun v => v.updSlot s'.focus.slotB (fun sl => { sl with billed := true }))
    else s'.holdAt i ph wt ref
  | .page va kind s' => s'.pageWait s i va kind

/-- The future registers among the scalars that a unit reads (R154). -/
def State.futuresOf (s : State) (ops : List Opd) : List Nat :=
  (ops.filterMap Opd.readS).filter (fun r => (s.fw.sregs.get SRegVal.zero r).fut)

/-- The first future that a unit must wait for. -/
def State.futureWait (s : State) (rs : List Nat) : Option Word :=
  match rs.find? (fun r => s.futurePending s.fw.block ((s.fw.s r).setWidth 32)) with
  | some r => some ((s.fw.s r).setWidth 32)
  | none => none

/-- A read of a future register observes its job's completion: an SFR boundary and an acquire at .v (R109, R121, R154). -/
def State.observe (s : State) : State := (s.boundary s.focus.wave).acquire s.focus.wave 2

/-- Issues a unit: the faults of R48, the waits of R72, R112 and R154, then the body; a held unit goes on at its phase. -/
def run (i : Instr) (t : Traits) (ops : List Opd) (body : Nat → State → Res) (s : State) : State :=
  if s.fs.phase ≠ 0 then s.settle i t (body s.fs.phase s)
  else
    match s.precheck i t ops with
    | some tr => s.raise s i tr
    | none =>
      if t.held && !s.waitOver s.focus.wave .window then s.holdAt i 0 .window 0
      else
        match s.counterWait s.fw.block t.path with
        | some w => s.holdAt i 0 w 0
        | none =>
          let fs := s.futuresOf ops
          if fs.isEmpty then s.settle i t (body 0 s)
          else
            match s.futureWait fs with
            | some h => s.holdAt i 0 (.future h) 0
            | none => s.settle i t (body 0 s.observe)

/-- The outcome of a meaning: every meaning of this machine gives a next state (log entry 8). -/
def ok (s : State) : Host.Outcome State Fault Refusal := .next s

/-- A meaning whose body needs no phases. -/
def simple (i : Instr) (t : Traits) (ops : List Opd) (body : State → Res) (s : State) : Host.Outcome State Fault Refusal :=
  ok (run i t ops (fun _ s => body s) s)

end Sys2Proof.Machine
end

