-- ==== Sys2Proof/Machine/Operands.lean ====
section
/-! DEFINITION. The operand forms: lanes and guards, elements of a lane, the second source of vector instructions, and the lists of register operands that a unit is checked for (spec/03_encoding.md R28, R35, spec/07_numbers.md R82, spec/24_ref_vector.md R252, R253). -/

namespace Sys2Proof.Machine

/-! ## Lanes -/

/-- The lanes that pass the guard of MODE (R35). -/
def State.guardLanes (s : State) : Mask :=
  if mGE s.mode then (if mGI s.mode then ~~~(s.fw.p (mGP s.mode)).bits else (s.fw.p (mGP s.mode)).bits) else 0xFF
/-- The active lanes: in the path's mask and passing the guard (R227). -/
def State.active (s : State) : Mask := s.mask &&& s.guardLanes
/-- The lanes that carry the pad bit (R58). -/
def State.padLanes (s : State) : Mask := s.fw.pad
/-- The lanes that make a memory access (R227). -/
def State.touched (s : State) : Mask := s.active &&& ~~~s.padLanes
/-- The guess bits of the guard lanes; none while the guard is off (R134). -/
def State.guardGuess (s : State) : Mask := if mGE s.mode then (s.fw.p (mGP s.mode)).guess else 0
/-- The path is in strict mode (R135). -/
def State.strict (s : State) : Bool := mGUSE s.mode == 0

/-- The lowest lane of a set; 8 when it is empty. -/
def lowLane (m : Mask) : Nat := (lanes8.find? (fun l => m.getLsbD l)).getD 8
/-- The number of lanes of a set. -/
def countLanes (m : Mask) : Nat := (lanes8.filter (fun l => m.getLsbD l)).length

/-- A guessed guard lane of the path in strict mode raises the guess-use trap (R135, R252). -/
def State.guardTrap (s : State) : Option Trap :=
  if s.strict && (s.guardGuess &&& s.mask) != 0 then some (trapAt 0x18 1 (s.guardGuess &&& s.mask) 0) else none

/-! ## Elements -/

/-- Elements of a lane: of a register, or of a pair under F64 (R82). -/
def etN (et : Nat) : Nat := if et = 12 then 1 else 32 / etW et
/-- Registers of an operand: 2 under F64 (R252). -/
def etRegs (et : Nat) : Nat := if et = 12 then 2 else 1

/-- A lane of a register, or of a register pair under F64, as a number (R82). -/
def State.lane (s : State) (et r l : Nat) : Nat :=
  if et = 12 then ((s.vreg r).lanes.get l).toNat + 2 ^ 32 * ((s.vreg (r + 1)).lanes.get l).toNat
  else ((s.vreg r).lanes.get l).toNat
/-- The guess bits of a register, or of a pair under F64. -/
def State.guessV (s : State) (et r : Nat) : Mask :=
  if et = 12 then (s.vreg r).guess ||| (s.vreg (r + 1)).guess else (s.vreg r).guess

/-- Element `i` of a lane (R82). -/
def elem (et x i : Nat) : Nat := bitsOf x (etW et * i) (etW et)
/-- A lane from its elements. -/
def joinElems (w : Nat) : List Nat → Nat
  | [] => 0
  | e :: t => e % 2 ^ w + 2 ^ w * joinElems w t
/-- The lane whose element `i` is `f i` (R82). -/
def mkLane (et : Nat) (f : Nat → Nat) : Nat := joinElems (etW et) ((List.range (etN et)).map f)

/-- Writes lanes of a register, or of a pair under F64, with one guess set (R252). -/
def State.writeLanes (s : State) (et r : Nat) (lanes : Mask) (val : Nat → Nat) (guess : Mask) : State :=
  let s := s.writeV r lanes (fun l => BitVec.ofNat 32 (val l)) guess
  if et = 12 then s.writeV (r + 1) lanes (fun l => BitVec.ofNat 32 (val l / 2 ^ 32)) guess else s

/-! ## The second source of vector binary instructions -/

/-- How a row reads its second source (R253). -/
inductive BRow where
  | int | shift | float | scale
deriving DecidableEq, Repr

/-- A short immediate in one element (R253). -/
def immElem (row : BRow) (et : Nat) (c : BitVec 8) : Nat :=
  match row with
  | .int => wrapInt (etW et) c.toInt
  | .scale => wrapInt (etW et) c.toInt
  | .shift => c.toNat
  | .float =>
    match fmtOf et with
    | some f => (f.encode 0 false false false (fvOfInt c.toInt)).bits
    | none => 0

/-- A 32-bit lane word under F64 (R253). -/
def wordTo64 (row : BRow) (w : Word) : Nat :=
  match row with
  | .float => (fF64.encode 0 false false false (fF32.decode w.toNat)).bits
  | .shift => w.toNat
  | .int => (w.signExtend 64).toNat
  | .scale => (w.signExtend 64).toNat

/-- The second source in lane `l` (R253). -/
def State.srcB (s : State) (row : BRow) (et : Nat) (b : Opnd) (l : Nat) : Nat :=
  match b with
  | .reg v => s.lane et v.toNat l
  | .scal n => if et = 12 then wordTo64 row ((s.sreg n).setWidth 32) else ((s.sreg n).setWidth 32).toNat
  | .imm32 w => if et = 12 then wordTo64 row w else w.toNat
  | .imm8 c => mkLane et (fun _ => immElem row et c)

/-- The guess bits of the second source: scalars and immediates carry none (R253). -/
def State.guessB (s : State) (et : Nat) (b : Opnd) : Mask :=
  match b with
  | .reg v => s.guessV et v.toNat
  | .scal _ => 0 | .imm8 _ => 0 | .imm32 _ => 0

/-! ## Operand lists -/

/-- A vector operand in a field under the path's element type (R252). -/
def State.opV (s : State) (f : Nat) (r : BitVec 8) : Opd := .v f r.toNat (etRegs (mET s.mode))
/-- The second source as operands. -/
def State.opB (s : State) (b : Opnd) : List Opd :=
  match b with
  | .reg v => [s.opV 3 v]
  | .scal n => [.sr 3 n.toNat]
  | .imm8 _ => [] | .imm32 _ => []
/-- The operands of `OP vd, va, b`. -/
def State.opsVB (s : State) (d a : BitVec 8) (b : Opnd) : List Opd := s.opV 1 d :: s.opV 2 a :: s.opB b
/-- The operands of `OP vd, va`. -/
def State.opsV2 (s : State) (d a : BitVec 8) : List Opd := [s.opV 1 d, s.opV 2 a]

/-- Scalar operands of `OP sd, sa, sb`, `OP sd, sa` and the like. -/
def opsS3 (d a b : BitVec 6) : List Opd := [.sd 1 d.toNat, .sr 2 a.toNat, .sr 3 b.toNat]
def opsS2 (d a : BitVec 6) : List Opd := [.sd 1 d.toNat, .sr 2 a.toNat]

/-! ## Element-type sets (R36), bit e for ET e -/

def etsInt : BitVec 16 := 0x0663
def etsFloat : BitVec 16 := 0x101C
def etsAll : BitVec 16 := 0x1FFF
/-- Cross-lane: SI32, UI32, F32, F16, BF16, SI16, UI16, SI8, UI8. -/
def etsCross : BitVec 16 := 0x067F
/-- Atomics: SI32 and UI32. -/
def etsAtom : BitVec 16 := 0x0003
/-- AFADD and ARED FADD: F32. -/
def etsF32 : BitVec 16 := 0x0004

/-- The guess bits of a register group: the OR over its registers (R275, R276). -/
def State.groupGuess (s : State) (r n : Nat) : Mask := (List.range n).foldl (fun g i => g ||| (s.vreg (r + i)).guess) 0

/-- The bytes of a lane of a register group (R276). -/
def State.groupBytes (s : State) (r n bytes l : Nat) : List Byte :=
  ((List.range n).flatMap (fun i => wordBytes ((s.vreg (r + i)).lanes.get l))).take bytes

end Sys2Proof.Machine
end

