-- ==== Sys2Proof/Machine/Flags.lean ====
section
/-! DEFINITION. Conditions and the marks that results carry: the conditions of compares and branches (R38, R40, R42), the guess bit of a result lane (R134), and the statistics counters (R95). -/

namespace Sys2Proof.Machine

/-- The condition of SCMP on two 64-bit values (R40, R230). -/
def condS (c : SCond) (a b : DWord) : Bool :=
  match c with
  | .eq => a == b
  | .ne => a != b
  | .lt => decide (a.toInt < b.toInt)
  | .le => decide (a.toInt ≤ b.toInt)
  | .gt => decide (b.toInt < a.toInt)
  | .ge => decide (b.toInt ≤ a.toInt)
  | .ltu => decide (a.toNat < b.toNat)
  | .leu => decide (a.toNat ≤ b.toNat)
  | .gtu => decide (b.toNat < a.toNat)
  | .geu => decide (b.toNat ≤ a.toNat)

/-- The condition of BRS (R38, R235). -/
def condB (c : BCond) (a : DWord) : Bool :=
  match c with
  | .zero => a == 0
  | .nonzero => a != 0
  | .neg => a.getLsbD 63
  | .nonneg => !a.getLsbD 63

/-- The condition of VCMP on two integers (R42, R256). -/
def condV (c : VCond) (a b : Int) : Bool :=
  match c with
  | .eq => decide (a = b)
  | .ne => decide (a ≠ b)
  | .lt => decide (a < b)
  | .le => decide (a ≤ b)
  | .gt => decide (b < a)
  | .ge => decide (b ≤ a)

/-- The condition of VFCMP (R42, R261). -/
def condF (c : FCond) (a b : FV) : Bool :=
  let un := a.isNaN || b.isNaN
  match c with
  | .eq => !un && fvEq a b
  | .ne => un || !fvEq a b
  | .lt => !un && fvLt a b
  | .le => !un && !fvLt b a
  | .gt => !un && fvLt b a
  | .ge => !un && !fvLt a b
  | .un => un
  | .ordered => !un

/-- The guess bits of element-wise results: the OR over the sources and the guard (R134). -/
def State.guessOf (s : State) (sources : List Mask) : Mask := sources.foldl (· ||| ·) s.guardGuess

/-- A set of lanes that is full when `b` holds. -/
def allIf (b : Bool) : Mask := if b then 0xFF else 0

/-- A counter that saturates at 2^32 − 1 (R95). -/
def satAdd (x : Word) (n : Nat) : Word := BitVec.ofNat 32 (min (x.toNat + n) (2 ^ 32 - 1))

/-- What result elements count in the statistics: clamped, flushed, NaN (R95). -/
structure Counts where
  sat : Nat
  fls : Nat
  nan : Nat
deriving DecidableEq, Repr
def Counts.zero : Counts := ⟨0, 0, 0⟩
def Counts.add (a b : Counts) : Counts := ⟨a.sat + b.sat, a.fls + b.fls, a.nan + b.nan⟩
def FRes.counts (r : FRes) : Counts := ⟨b2n r.sat, b2n r.flush, b2n r.nan⟩

/-- Adds to the counters of a tensor identifier of a launch (R95). -/
def State.addStats (s : State) (l tid : Nat) (c : Counts) : State :=
  if c = .zero then s
  else s.updLaunch l (fun x => { x with stats :=
    ((x.stats.upd 0 (4 * tid) (satAdd · c.sat)).upd 0 (4 * tid + 1) (satAdd · c.fls)).upd 0 (4 * tid + 2) (satAdd · c.nan) })

/-- Counts the elements of the active lanes that are no pad lanes under MODE.TID (R95). -/
def State.count (s : State) (f : Nat → Counts) : State :=
  s.addStats s.fb.launch (mTID s.mode)
    ((lanes8.filter (fun l => s.touched.getLsbD l)).foldl (fun c l => c.add (f l)) .zero)

end Sys2Proof.Machine
end

