-- ==== Sys2Proof/Machine/Issue.lean ====
section
/-! DEFINITION. Issuing memory accesses and delivering their results: the checks of R277, the pieces of an access, L1 copies and region directories, and results that reach registers (spec/03_encoding.md R27, spec/09_ordering.md R97 to R107, R112, R120, spec/11_guesses_drafts.md R129, R132, spec/25_ref_memory.md R275 to R278). -/

namespace Sys2Proof.Machine

open Sys2Proof

/-! ## Checks -/

/-- The outcome of the checks 3 to 6 of R277: a place for each lane, a trap, or a page that is not mapped. -/
inductive Checked where
  | ok (ps : List (Nat × Place))
  | trap (t : Trap)
  | page (va : DWord)

/-- The lanes of a list of translations whose outcome satisfies `f`. -/
def lanesWhere (r : List (Nat × Except XErr Place)) (f : Nat → Except XErr Place → Bool) : Mask :=
  maskOf (fun l => r.any (fun x => x.1 == l && f l x.2))
/-- A translation fault of check 5: a page declared invalid or a malformed entry. -/
def isPageFault : Except XErr Place → Bool
  | .error (.fault c _) => c == 5
  | .error .unmapped => false
  | .ok _ => false
def isUnmapped : Except XErr Place → Bool
  | .error .unmapped => true
  | .error (.fault _ _) => false
  | .ok _ => false
/-- A refusal of check 6: the leaf, the access table, or a target that the instruction may not reach. -/
def isDenied (bad : Nat → Place → Bool) (l : Nat) : Except XErr Place → Bool
  | .error (.fault c _) => c == 6
  | .error .unmapped => false
  | .ok p => bad l p
/-- The subcode of a lane that faults; `d` where the lane has a place. -/
def faultSub (r : List (Nat × Except XErr Place)) (d : BitVec 8) (l : Nat) : BitVec 8 :=
  match r.find? (fun x => x.1 == l) with
  | some (_, .error (.fault _ sub)) => sub
  | _ => d
/-- The places of the lanes that have one. -/
def placesOf : List (Nat × Except XErr Place) → List (Nat × Place)
  | [] => []
  | (l, .ok p) :: t => (l, p) :: placesOf t
  | (_, .error _) :: t => placesOf t

/-- Checks 3 to 6 of R277 on lanes with addresses: alignment, canonical form, the walk, the rights. The first check that a lane fails is reported, with every lane that fails it and the address of the lowest; `xl` names another lane set where the entry gives one, and `bad` the places that a lane may not reach, with their subcode. -/
def State.checkLanes (s : State) (lanes : Mask) (va : Nat → DWord) (align : Nat) (r : Right) (msub : BitVec 8)
    (bad : Nat → Place → Bool) (badSub : BitVec 8) (xl : Option Mask) : Checked :=
  let trap (c sub : BitVec 8) (m : Mask) : Checked := .trap (trapAt c sub (xl.getD m) (va (lowLane m)))
  let mis := maskOf (fun l => lanes.getLsbD l && (va l).toNat % align != 0)
  let odd := maskOf (fun l => lanes.getLsbD l && !canonical (va l))
  if mis != 0 then trap 0x07 msub mis
  else if odd != 0 then trap 0x05 2 odd
  else
    let res := (lanes8.filter (fun l => lanes.getLsbD l)).map (fun l => (l, s.place (s.clusterOf s.fb.pcore) s.fl.ctx (va l) r))
    let pf := lanesWhere res (fun _ => isPageFault)
    let un := lanesWhere res (fun _ => isUnmapped)
    let den := lanesWhere res (isDenied bad)
    if pf != 0 then trap 0x05 (faultSub res 0 (lowLane pf)) pf
    else if un != 0 then .page (va (lowLane un))
    else if den != 0 then trap 0x06 (faultSub res badSub (lowLane den)) den
    else .ok (placesOf res)

/-- The cluster TLB after the lookups of an access (R102). -/
def State.lookups (s : State) (vas : List DWord) : State :=
  vas.foldl (fun s va => s.afterLookup (s.clusterOf s.fb.pcore) s.fl.ctx va) s

/-! ## Pieces -/

/-- A piece at an offset of a lane's access. -/
def pieceAt (lane : Nat) (va : DWord) (p : Place) (off n : Nat) (d : List (Option Byte)) : Piece :=
  { Piece.zero with
    lane := lane, off := off, va := va + BitVec.ofNat 64 off, tgt := p.tgt, pa := p.pa + off, n := n
    uncached := p.pol == 1, streaming := p.pol == 2, data := (d.drop off).take n }

/-- The pieces of a lane: one event for up to 8 bytes, one for each 8 bytes beyond (R120). -/
def lanePieces (lane : Nat) (va : DWord) (p : Place) (n : Nat) (d : List (Option Byte)) : List Piece :=
  if n ≤ 8 then [pieceAt lane va p 0 n d]
  else (List.range (n / 8)).map (fun k => pieceAt lane va p (8 * k) 8 d)

/-- A later piece of the list writes a byte. -/
def Piece.covers (q : Piece) (tgt : Target) (a : Nat) : Bool := q.tgt == tgt && decide (q.pa ≤ a) && decide (a < q.pa + q.n)
/-- Where several lanes write one byte, only the highest lane's value is written (R120). -/
def highestStands : List Piece → List Piece
  | [] => []
  | p :: t =>
    { p with data := (List.range p.n).map (fun k => if t.any (fun q => q.covers p.tgt (p.pa + k)) then none else (p.data[k]?).getD none) }
      :: highestStands t

/-- One event: all 8 lanes of a 16-byte access on one aligned 128-byte line of device memory (R120). -/
def Acc.coalesced (x : Acc) : Bool :=
  x.pieces.length == 16 && x.pieces.all (fun p => p.n == 8 && p.tgt == .device && lineOf p.pa == lineOf ((x.pieces.headD .zero).pa))

/-- An access of the issuing path. -/
def State.newAcc (s : State) (i : Instr) (k : AKind) (pieces : List Piece) : Acc :=
  { Acc.zero with
    kind := k, wave := s.focus.wave, slotB := s.focus.slotB, block := s.fw.block, core := s.fb.pcore, ctx := s.fl.ctx
    asid := (s.ctx s.fl.ctx).asid, sfr := s.fw.sfr, seq := s.seq, path := s.fs.path
    nextPc := s.pc + BitVec.ofNat 64 (4 * i.words), mark := markerOf i, pieces := pieces
    gsp := mGSP s.mode, gusp := mGUSE s.mode == 1, pair := s.pairOf s.fw.block, tid := mTID s.mode, count := s.fs.windowCount, cost := match k.issueClass with | some c => s.weight c | none => 0 }

/-! ## L1 copies -/

/-- The line of an L1 under a virtual name (R102). -/
def Core.lineAt (c : Core) (asid : Nat) (va : DWord) : Option L1Line :=
  c.l1.find? (fun l => l.asid == asid && l.vline == va.toNat / 128)
/-- A word of an L1 under a virtual name. -/
def Core.wordAt (c : Core) (asid : Nat) (va : DWord) : L1Word :=
  match c.lineAt asid va with
  | some l => l.words.get L1Word.zero (va.toNat / 4 % 32)
  | none => .zero

/-- Bytes `k` to `k + n` of the words from the one that holds an address. -/
def takeBytes (ws : List Word) (k n : Nat) : List Byte := ((ws.flatMap wordBytes).drop k).take n

/-- The words of an L1 that a piece touches. -/
def Core.pieceWords (c : Core) (asid : Nat) (p : Piece) : List L1Word :=
  (List.range ((p.va.toNat % 4 + p.n + 3) / 4)).map (fun i => c.wordAt asid (p.va + BitVec.ofNat 64 (4 * i)))

/-- The value of a piece when it is served locally: every word is in V or G and its claim tag names the current SFR (R103, R105). -/
def State.localValue (s : State) (core asid w sfr : Nat) (p : Piece) : Option (List Byte) :=
  let ws := (s.core core).pieceWords asid p
  if p.tgt == .device && !p.uncached && !s.cellOn p.pa p.n
      && ws.all (fun x => (x.st == .v || x.st == .g) && x.tag == some (w, sfr)) then
    some (takeBytes (ws.map L1Word.val) (p.va.toNat % 4) p.n)
  else none

/-- The die's RDC copy of the line of a piece, and whether it holds an uncorrectable error at the piece. -/
def State.rdcCopy (s : State) (x : Acc) (p : Piece) : Option RdcLine := s.rdc.find? (fun r => r.die == coreDie x.core && r.pline == lineOf p.pa)
def RdcLine.hurts (r : RdcLine) (p : Piece) : Bool := r.bad.any (fun k => overlaps ((2 * r.pline + k) * 64) 64 p.pa p.n)
/-- The value that a home read may return at once: an L1 copy of every word, or the die's RDC copy (R105); with the level that serves it, and whether the copy holds an uncorrectable error (R125). -/
def State.earlyValue (s : State) (x : Acc) (p : Piece) : Option (List Byte × Nat × Bool) :=
  let ws := (s.core x.core).pieceWords x.asid p
  if p.tgt != .device || p.uncached || s.cellOn p.pa p.n || s.readerCounted (lineOf p.pa) || s.ownPending x p then none
  else if ws.all (fun x => x.st == .v || x.st == .g) then some (takeBytes (ws.map L1Word.val) (p.va.toNat % 4) p.n, 0, ws.any L1Word.bad)
  else
    match s.rdcCopy x p with
    | some r => some ((r.data.drop (p.pa % 128)).take p.n, 1, r.hurts p)
    | none => none

/-- Lines that an L1 holds (R97, R102). -/
def Core.l1Cap (c : Core) : Nat := (8 - c.carve) * 512

/-- The line that a full L1 gives up: a streaming one first (R102), the one filled longest ago (log entry 103). -/
def Core.l1Victim (c : Core) : Option L1Line :=
  match c.l1.reverse.find? L1Line.streaming with
  | some l => some l
  | none => c.l1.getLast?

/-- Makes room for a line under a name: another name's line goes first, with its registered words written back (R102). -/
def State.l1Room (s : State) (core asid : Nat) (va : DWord) (pa : Nat) : State :=
  let s := s.evictL1 core (lineOf pa) (fun l => !(l.asid == asid && l.vline == va.toNat / 128))
  let c := s.core core
  if (c.lineAt asid va).isSome || decide (c.l1.length < c.l1Cap) then s
  else
    match c.l1Victim with
    | some v => s.evictL1 core v.pline (fun l => l.asid == v.asid && l.vline == v.vline)
    | none => s

/-- The level of the translation through which a line is tagged: that of the cluster TLB, or of a new walk where the TLB no longer holds it (R100, R102). -/
def State.tagLevel (s : State) (core asid : Nat) (va : DWord) : Nat :=
  match s.tlb.find? (fun t => t.hits (s.clusterOf core) asid va) with
  | some t => t.level
  | none =>
    match (s.mgmt.ctxs.find? (fun x => x.2.v && x.2.asid == asid)).map (fun x => s.walk x.1 va) with
    | some (.leaf _ level _) => level
    | _ => 4

/-- Writes words into an L1 line under a name: word number in the line and word. -/
def State.l1Fill (s : State) (core asid : Nat) (va : DWord) (pa : Nat) (streaming : Bool) (ws : List (Nat × L1Word)) : State :=
  let s := s.l1Room core asid va pa
  s.updCore core (fun c =>
    let old : L1Line := match c.lineAt asid va with
      | some l => l
      | none => ⟨asid, va.toNat / 128, lineOf pa, streaming, [], s.tagLevel core asid va⟩
    let new := { old with words := ws.foldl (fun t x => t.set x.1 x.2) old.words }
    { c with l1 := new :: c.l1.filter (fun l => !(l.asid == asid && l.vline == va.toNat / 128)) })

/-- The L1 and the RDC may keep copies of words of the line: a cached or streaming name of device memory in device bias that no flip takes, and no reader-counted line (R97, R189, R200). -/
def State.caches (s : State) (p : Piece) : Bool :=
  p.tgt == .device && !p.uncached && !s.readerCounted (lineOf p.pa) && !s.hostBias p.pa && !s.flipping p.pa
/-- They may keep copies of all of it: no live cell lies there (R145). -/
def State.copies (s : State) (p : Piece) : Bool := s.caches p && !s.cellOn (p.pa / 128 * 128) 128

/-- The words of a line that an L1 takes from home beside those it holds: V without a claim tag (R103); none of a sector with an uncorrectable error (R125, log entry 84). -/
def State.restOfLine (s : State) (core asid : Nat) (va : DWord) (pa : Nat) : List (Nat × L1Word) :=
  let have' := match (s.core core).lineAt asid va with
    | some l => l.words
    | none => []
  ((List.range 32).filter (fun k => (have'.get L1Word.zero k).st == .i && (s.badLevel (lineOf pa * 128 + 4 * k) 4).isNone)).map (fun k =>
    (k, ⟨.v, none, s.mem.word (lineOf pa * 128 + 4 * k), .add, false, false, false⟩))

/-- The L1 after a read has passed at home: the words read, in V or G, hold the claim tag of the reading SFR, as long as home still holds what was read (R105). -/
def State.fillRead (s : State) (x : Acc) (p : Piece) : State :=
  if s.copies p && p.val == s.homeBytes p.pa p.n then
    let s := s.l1Fill x.core x.asid p.va p.pa p.streaming (s.restOfLine x.core x.asid p.va p.pa)
    let state (w : Nat) : WState :=
      match (s.core x.core).lineAt x.asid p.va with
      | some l => (l.words.get L1Word.zero (w % 32)).st
      | none => .i
    let own := (wordsOf p.pa p.n).filter (fun w => state w == .v || state w == .g)
    s.l1Fill x.core x.asid p.va p.pa p.streaming
      (own.map (fun w => (w % 32, ⟨state w, some (x.wave, x.sfr), s.mem.word (w * 4), .add, false, false, false⟩)))
  else s

/-! ## Region directories (R106) -/

def RegionEnt.size (e : RegionEnt) : Nat := 65536 / 2 ^ e.k
def RegionEnt.covers (e : RegionEnt) (pa : Nat) : Bool := decide (e.base ≤ pa) && decide (pa < e.base + e.size)

/-- Drops the RDC lines of a region at the dies of a set. -/
def State.dropRegion (s : State) (e : RegionEnt) (dies : BitVec 4) : State :=
  { s with rdc := s.rdc.filter (fun r => !(dies.getLsbD r.die && e.covers (r.pline * 128))) }

/-- The least recently used entry. -/
def lruRegion : List RegionEnt → Option RegionEnt
  | [] => none
  | r :: t =>
    match lruRegion t with
    | none => some r
    | some x => if r.used ≤ x.used then some r else some x

/-- Entries of one directory (R106). -/
def regionCap : Nat := 16384

/-- Makes room for one more entry in a hub's directory: a full one gives up its least recently used entry but `keep`, whose sharers' RDC lines go (R106). -/
def State.regionRoom (s : State) (hub : Nat) (keep : Option RegionEnt) : State :=
  let es := s.regions.get [] hub
  if es.length < regionCap then s
  else
    match lruRegion (es.filter (fun e => keep != some e)) with
    | some v =>
      let s := s.dropRegion v v.sharers
      { s with regions := s.regions.set hub (es.filter (fun e => e != v)) }
    | none => s

/-- The class of the page of an address as a core's translation gives it (R107); a page without a translation counts as shared. -/
def State.pageClass (s : State) (core c : Nat) (va : DWord) : Nat :=
  match s.lookup (s.clusterOf core) c va with
  | .leaf e _ _ => eBits e 7 2
  | .err _ => 2

/-- Records that a die's RDC may hold lines of the region of an address (R106). For the least recently used entry, a fill alone is a use; a data phase and a split are none (DESIGN CHOICE, log entry 101). -/
def State.regionFill (s : State) (die pa : Nat) : State :=
  let hub := dieOf pa
  let es := s.regions.get [] hub
  let bit : BitVec 4 := 1#4 <<< die
  match es.find? (fun e => e.covers pa) with
  | some e =>
    ({ s with regions := s.regions.set hub (es.map (fun y => if y = e then { e with sharers := e.sharers ||| bit, used := s.seq } else y)) } : State).tick
  | none =>
    let fresh : RegionEnt := ⟨pa / 65536 * 65536, 0, bit, s.seq⟩
    let s := s.regionRoom hub none
    ({ s with regions := s.regions.set hub (fresh :: s.regions.get [] hub) } : State).tick

/-- A data phase from a die into a region: the copies of the other dies go, and the entry splits (R106). In a full directory the second half first takes the place of another entry (log entry 101). -/
def State.regionWrite (s : State) (die pa : Nat) : State :=
  let hub := dieOf pa
  let es := s.regions.get [] hub
  match es.find? (fun e => e.covers pa) with
  | none => s
  | some e =>
    let others := e.sharers &&& ~~~(1#4 <<< die)
    if others = 0 then s
    else
      let s := s.dropRegion e others
      let keep := e.sharers &&& ~~~others
      let parts : List RegionEnt :=
        if e.k = 9 then [{ e with sharers := keep }]
        else
          let h := e.size / 2
          let hi := decide (e.base + h ≤ pa)
          [⟨e.base, e.k + 1, if hi then e.sharers else keep, e.used⟩, ⟨e.base + h, e.k + 1, if hi then keep else e.sharers, e.used⟩]
      let s := if e.k = 9 then s else s.regionRoom hub (some e)
      { s with regions := s.regions.set hub (parts ++ (s.regions.get [] hub).filter (fun y => y != e)) }

/-- An RDC holds 32 MiB: the latest 262,144 lines (R97). -/
def State.trimRdc (s : State) (die : Nat) : State :=
  { s with rdc := (s.rdc.filter (fun r => r.die == die)).take 262144 ++ s.rdc.filter (fun r => r.die != die) }

/-- The RDC of a core's die takes a line (R97, R102); private and read-only pages bypass the region directory (R107). -/
def State.putRdc (s : State) (x : Acc) (p : Piece) : State :=
  let die := coreDie x.core
  let line := lineOf p.pa
  let s := { s with rdc := ⟨die, line, x.asid, s.homeBytes (line * 128) 128, []⟩ :: s.rdc.filter (fun r => !(r.die == die && r.pline == line)) }
  let s := s.trimRdc die
  if s.pageClass x.core x.ctx p.va == 2 then s.regionFill die p.pa else s
/-- An RDC may keep a copy of the line of a piece: it is homed on another die, its name is cached and not streaming, and no sector of it has an uncorrectable error (R97, R102, R125). -/
def State.rdcTakes (s : State) (x : Acc) (p : Piece) : Bool :=
  s.caches p && !p.streaming && dieOf p.pa != coreDie x.core && (s.badLevel (lineOf p.pa * 128) 128).isNone
/-- An RDC keeps a copy of a line that is read, under which no live cell lies (R97, R145). -/
def State.fillRdc (s : State) (x : Acc) (p : Piece) : State :=
  if s.copies p && s.rdcTakes x p then s.putRdc x p else s

/-! ## Sending -/

/-- Issues an access: its record, its counter, and the claim phase of each piece that is not served locally. -/
def State.issueAcc (s : State) (x : Acc) : State :=
  let a := s.seq
  let x := { x with pieces := x.pieces.map (fun p =>
    if x.kind.writes then p
    else
      match (if s.ownPending x p then none else s.localValue x.core x.asid x.wave x.sfr p) with
      | some v =>
        if ((s.core x.core).pieceWords x.asid p).any L1Word.bad then { p with st := .atHome, err := some ⟨0x11, 5, 0, p.va⟩ }
        else { p with st := .passed, val := v }
      | none => p) }
  let x := { x with window := x.kind.windowed && x.pieces.any (fun p => !p.st.hasPassed) }
  let s := (s.setAcc a x).tick
  let s := match x.kind.path with
    | some p => s.flight x.block p a false
    | none => s
  let s := s.lookups (x.pieces.map Piece.va)
  if x.coalesced && x.pieces.all (fun p => p.st == .fresh) then
    (s.send x.core ((x.pieces.headD .zero).home) (.piece a 0)).updAcc a
      (fun x => { x with pieces := x.pieces.map (fun p => { p with st := .sent }) })
  else s.sendPieces a

/-! ## Results -/

/-- The bytes of a lane as they stand. -/
def Acc.laneBytes (x : Acc) (l : Nat) : List Byte :=
  (x.pieces.filter (fun p => p.lane == l)).flatMap (fun p => p.early.getD p.val)

/-- Extends the bytes of a load narrower than a word (R279). -/
def extendTo32 (wd : Width) (sign : Bool) (v : Nat) : Word :=
  match wd with
  | .b => if sign then (BitVec.ofNat 8 v).signExtend 32 else BitVec.ofNat 32 (v % 256)
  | .h => if sign then (BitVec.ofNat 16 v).signExtend 32 else BitVec.ofNat 32 (v % 65536)
  | .w => BitVec.ofNat 32 v
  | .d => BitVec.ofNat 32 v
  | .q => BitVec.ofNat 32 v

/-- Register `i` of a lane from the bytes of its access (R276). -/
def AKind.regWord (k : AKind) (d : List Byte) (i : Nat) : Word :=
  let v := leNat ((d.drop (4 * i)).take 4)
  match k with
  | .ld wd sg => extendTo32 wd sg v
  | .lds wd => extendTo32 wd false v
  | _ => BitVec.ofNat 32 v

def Acc.result (x : Acc) (l i : Nat) : Word := x.kind.regWord (x.laneBytes l) i

/-- The scalar result of an access. -/
def Acc.scalarResult (x : Acc) : DWord :=
  match x.kind with
  | .mfsr v => v
  | _ => BitVec.ofNat 64 (leNat (x.laneBytes 0))

/-- Puts a late result below the younger write that took its lanes: the younger write's log entry now restores to the result, and an entry of the access restores to what was there before (R27, R112). The list is oldest first. -/
def underV (q r : Nat) (val : Nat → Word) (guess : Mask) : Mask → List Undo → List Undo
  | _, [] => []
  | lanes, u :: t =>
    match u.item with
    | .v r' ls old =>
      if r' = r ∧ q < u.seq ∧ ls &&& lanes ≠ 0 then
        ⟨q, .v r (ls &&& lanes) old⟩ :: ⟨u.seq, .v r ls (old.merge (ls &&& lanes) val guess)⟩ :: underV q r val guess (lanes &&& ~~~ls) t
      else u :: underV q r val guess lanes t
    | _ => u :: underV q r val guess lanes t
def underS (q r : Nat) (val : SRegVal) : List Undo → List Undo
  | [] => []
  | u :: t =>
    match u.item with
    | .s r' old => if r' = r ∧ q < u.seq then ⟨q, .s r old⟩ :: ⟨u.seq, .s r val⟩ :: t else u :: underS q r val t
    | _ => u :: underS q r val t

/-- Older results due in a register no longer take lanes that a younger result has written (R280). -/
def State.killOlder (s : State) (a : Nat) (x : Acc) (r : Nat) (lanes : Mask) : State :=
  let due (b : Nat) (y : Acc) : Bool := b != a && decide (y.seq < x.seq) && y.dueV x.wave r
  let s := if s.windowOpen x.wave x.slotB then
      (s.accs.filter (fun y => due y.1 y.2)).foldl (fun s y => s.updWave x.wave (fun v => v.log x.slotB x.seq (.dead y.1 y.2.dead))) s
    else s
  { s with accs := s.accs.mapVals (fun b y => if due b y then { y with dead := addDead (r - y.dst) lanes y.dead } else y) }

/-- A result reaches lanes of a register of the destination group of access `a`: lanes that younger instructions have written stay as they are (R27), a tag of another load on the register goes (R142), and the write is in the window's log. -/
def State.putResult (s : State) (a i : Nat) (lanes : Mask) (val : Nat → Word) (guess : Mask) : State :=
  let x := s.acc a
  let r := x.dst + i
  let dead := x.dead.getD i 0
  let live := lanes &&& ~~~dead
  let logs := s.windowOpen x.wave x.slotB
  let s := if lanes &&& dead = 0 || !logs then s
    else s.updWave x.wave (fun v => v.updSlot x.slotB (fun t => { t with undo := (underV x.seq r val guess (lanes &&& dead) t.undo.reverse).reverse }))
  if live = 0 then s
  else
    let s := s.killOlder a x r live
    s.updWave x.wave (fun v =>
      let v' := if v.tags.any (fun t => t.covers r && t.acc != a) then v.dropTag r else v
      let v' := if logs then v'.log x.slotB x.seq (.v r live (v.v r)) else v'
      { v' with vregs := v.vregs.set r ((v.v r).merge live val guess), region := keepRegionV r v.region })

/-- Older results due in a scalar register no longer reach it (R27). -/
def State.killOlderS (s : State) (a : Nat) (x : Acc) : State :=
  let due (b : Nat) (y : Acc) : Bool := b != a && decide (y.seq < x.seq) && y.dueS x.wave x.dst
  let s := if s.windowOpen x.wave x.slotB then
      (s.accs.filter (fun y => due y.1 y.2)).foldl (fun s y => s.updWave x.wave (fun v => v.log x.slotB x.seq (.dead y.1 y.2.dead))) s
    else s
  { s with accs := s.accs.mapVals (fun b y => if due b y then { y with dead := addDead 0 0xFF y.dead } else y) }

/-- A scalar result reaches its register, unless a younger instruction has written it (R27). -/
def State.putScalar (s : State) (a : Nat) (val : DWord) : State :=
  let x := s.acc a
  let logs := s.windowOpen x.wave x.slotB
  if x.dead.getD 0 0 = 0 then
    (s.killOlderS a x).updWave x.wave (fun v =>
      let v' := if logs then v.log x.slotB x.seq (.s x.dst (v.sregs.get SRegVal.zero x.dst)) else v
      { v' with sregs := v.sregs.set x.dst ⟨val, false⟩, region := keepRegionS x.dst v.region })
  else if logs then
    s.updWave x.wave (fun v => v.updSlot x.slotB (fun t => { t with undo := (underS x.seq x.dst ⟨val, false⟩ t.undo.reverse).reverse }))
  else s

/-- The value history of a core takes lanes of the first register of a load (R132). -/
def State.recordHistory (s : State) (x : Acc) (lanes : Mask) : State :=
  match x.kind with
  | .ld _ _ =>
    let k := bitsOf x.path.pc.toNat 2 10
    s.updCore x.core (fun c =>
      let old := c.history.get (L8.rep 0) k
      { c with history := c.history.set k (L8.ofFn (fun l => if lanes.getLsbD l then x.result l 0 else old.get l)) })
  | _ => s

/-- The weight class of a load that has returned (R218). -/
def Acc.loadClass (x : Acc) : Option Nat :=
  match x.kind with
  | .ld _ _ => some (4 + x.level) | .sld _ => some (4 + x.level) | .vfeed _ _ _ => some (4 + x.level) | .lds _ => some 4
  | _ => none
def State.chargeLoad (s : State) (x : Acc) : State :=
  match x.loadClass with
  | some k => s.charge (s.block x.block).pcore x.pair x.block (s.weight k)
  | none => s

/-- A guess tag of the wave keeps the access. -/
def Wave.tagOf (v : Wave) (a : Nat) : Option GTag := v.tags.find? (fun t => t.acc == a)

/-- Removes an access that nothing waits for: its messages go, its claims stay until the SFR closes. -/
def State.retire (s : State) (a : Nat) : State :=
  ({ s with net := s.net.filter (fun m => match m.body with | .piece b _ => b != a | .data b _ => b != a | .close _ _ => true) } : State).delAcc a
/-- Retires a finished load: its result has been written, every lane that took data has passed, and no tag keeps it. -/
def State.reap (s : State) (a : Nat) : State :=
  let x := s.acc a
  if x.kind.long && x.fell && x.pieces.all (fun p => !p.taken || p.st.hasPassed) && ((s.wave x.wave).tagOf a).isNone then s.retire a else s

/-- The destination has been written: the counter falls and a load is charged (R72, R218). -/
def State.fall (s : State) (a : Nat) : State :=
  let x := s.acc a
  let s := s.updAcc a (fun x => { x with fell := true })
  match x.kind.path with
  | some p => s.landed x.block p a
  | none => s

end Sys2Proof.Machine
end

