-- ==== Sys2Proof/Machine/Settle.lean ====
section
/-! DEFINITION. Consuming the truths of guess tags, settling an epoch, and the release that instructions perform (spec/09_ordering.md R109, R116, R122 to R125, spec/11_guesses_drafts.md R136 to R142, R148). -/

namespace Sys2Proof.Machine

open Sys2Proof

/-! ## Truths -/

/-- The claim-and-compare accesses of the issuing slot that consume truths. -/
def State.compares (s : State) : List (Nat × Nat) :=
  s.accs.filterMap (fun x => match x.2.kind with
    | .truth t => if x.2.wave == s.focus.wave && x.2.slotB == s.focus.slotB then some (x.1, t) else none
    | _ => none)

/-- Sends the claim-and-compare of a tag's guessed lanes under the current SFR (R138). -/
def State.sendCompare (s : State) (t : GTag) : State :=
  let x := s.acc t.acc
  let ps := (x.pieces.filter (fun p => t.mask.getLsbD p.lane)).map (fun p =>
    { p with st := .fresh, val := [], early := none, taken := false, conf := none, err := none })
  let y := { x with kind := .truth t.acc, slotB := s.focus.slotB, core := s.fb.pcore, sfr := s.fw.sfr, seq := s.seq, path := s.fs.path,
                    pieces := ps, age := 0, limit := none, window := false, guessed := false, fell := false, dead := [], level := 0 }
  ((s.setAcc s.seq y).tick).sendPieces s.seq

/-- The memory-model exception of an access whose pieces have conflicts: the lowest-addressed conflicting word, the lanes that touch it, its kind and its other party (R113). -/
def Piece.confVa (p : Piece) : Option (Nat × Conflict) :=
  match p.conf with
  | some c => some (p.va.toNat / 4 * 4 + (c.word - p.pa / 4) * 4, c)
  | none => none
def lowestConf : List Piece → Option (Nat × Conflict)
  | [] => none
  | p :: t =>
    match p.confVa, lowestConf t with
    | some a, some b => if a.1 ≤ b.1 then some a else some b
    | some a, none => some a
    | none, r => r
/-- The lanes of an access that touch the word at a virtual address. -/
def lanesOn (ps : List Piece) (va : Nat) : Mask :=
  maskOf (fun l => ps.any (fun p => p.lane == l && overlaps p.va.toNat p.n va 4))
/-- The lanes whose pieces keep an error of a cause. -/
def lanesErr (ps : List Piece) (cause : BitVec 8) : Mask :=
  maskOf (fun l => ps.any (fun p => p.lane == l && (match p.err with | some f => f.cause == cause | none => false)))
/-- The failure of an access: the memory-model exception when its lowest failing lane met a conflict, otherwise the error of that lane (R113, R125, R130). A denial or a page fault that the target finds reports every lane that failed so (R277). `scalar` names the lanes of a scalar access, and `conf` those of a conflict that are not the lanes on its word. -/
def failTrap (ps : List Piece) (scalar conf : Option Mask) : Option Trap :=
  match (ps.find? (fun p => p.conf.isSome || p.err.isSome)) with
  | none => none
  | some p =>
    match p.err with
    | some f => some ⟨f.cause, f.sub, f.detail, if f.cause = 0x05 ∨ f.cause = 0x06 then some (scalar.getD (lanesErr ps f.cause)) else none, f.addr, false⟩
    | none =>
      match lowestConf ps with
      | some (va, c) => some ⟨0x10, c.sub, c.party, some (scalar.getD (conf.getD (lanesOn ps va))), BitVec.ofNat 64 va, false⟩
      | none => none

/-- The outcome of consuming truths: wait, trap, or the wave's tags with the truths that the homes gave. -/
inductive Consumed where
  | wait (w : Wait) (s : State)
  | trap (t : Trap) (s : State)
  | done (s : State)

/-- The value history takes the truth of a tag (R132). -/
def State.recordTruth (s : State) (t : GTag) : State :=
  let x := s.acc t.acc
  match x.kind, t.truth with
  | .ld _ _, some (v :: _) =>
    let k := bitsOf x.path.pc.toNat 2 10
    s.updCore x.core (fun c =>
      { c with history := c.history.set k (L8.ofFn (fun l => if t.mask.getLsbD l then v.get l else (c.history.get (L8.rep 0) k).get l)) })
  | _, _ => s

/-- Takes the values that the compares returned into the tags as their truths, and ends the compares (R138). -/
def State.takeTruths (s : State) (cs : List (Nat × Nat)) : State :=
  let s := cs.foldl (fun s c =>
    let y := s.acc c.1
    let k := (s.acc c.2).kind
    s.updWave s.focus.wave (fun v => { v with tags := v.tags.map (fun t =>
      if t.acc = c.2 then
        { t with truth := some ((List.range t.regs).map (fun i => L8.ofFn (fun l =>
            if t.mask.getLsbD l then k.regWord (y.laneBytes l) i else ((t.truth.getD []).getD i (L8.rep 0)).get l))) }
      else t) })) s
  let s := s.fw.tags.foldl (fun s t => if cs.any (fun c => c.2 == t.acc) then s.recordTruth t else s) s
  cs.foldl (fun s c => s.retire c.1) s

/-- The failure of a tag: its kept fault, or what its compare met (R130, R138, R140). -/
def State.tagTrap (s : State) (cs : List (Nat × Nat)) (t : GTag) : Option Trap :=
  match t.fault with
  | some f => some ⟨f.cause, f.sub, f.detail, none, f.addr, false⟩
  | none =>
    match cs.find? (fun c => c.2 == t.acc) with
    | some c => failTrap (s.acc c.1).pieces none none
    | none => none

/-- Consumes the truths of tags of the issuing wave, in order of allocation (R138, R140). -/
def State.consume (s : State) (tags : List GTag) : Consumed :=
  let accs := tags.map GTag.acc
  if s.fw.truthMissing accs then .wait (.truths accs) s
  else
    let todo := tags.filter (fun t => t.fault.isNone && !s.compares.any (fun c => c.2 == t.acc))
    if !todo.isEmpty then
      let s := todo.foldl State.sendCompare s
      .wait (.accesses 1 (s.compares.map Prod.fst)) s
    else
      let cs := s.compares.filter (fun c => accs.contains c.2)
      if !cs.all (fun c => s.accDone 1 c.1) then .wait (.accesses 1 (cs.map Prod.fst)) s
      else
        match tags.findSome? (s.tagTrap cs) with
        | some t => .trap t (s.compares.foldl (fun s c => s.withdraw c.1) s)
        | none => .done (s.takeTruths cs)

/-! ## Settle -/

/-- The outcome of a settle: wait, trap, or whether it succeeded and how many cells were exposed. -/
inductive Settled where
  | wait (w : Wait) (s : State)
  | trap (t : Trap) (s : State)
  | done (ok : Bool) (exposed : Nat) (s : State)

/-- The truth of a tag equals its guess in every guessed lane. -/
def Wave.allRight (v : Wave) : Bool := v.tags.all GTag.right

/-- Clears every guess bit of a wave (R140). -/
def Wave.clearGuesses (v : Wave) : Wave :=
  { v with vregs := v.vregs.mapVals (fun _ x => { x with guess := 0 }), pregs := v.pregs.mapVals (fun _ x => { x with guess := 0 }) }

/-- Frees every tag: the accesses that they kept go. -/
def State.freeTags (s : State) (w : Nat) : State :=
  let out := (s.wave w).tags.map GTag.acc
  let s := s.updWave w (fun v => { v with tags := [] })
  out.foldl (fun s a => if (s.acc a).window then s else s.retire a) s

/-- Ends the epoch of the issuing wave once the truths are known (R140): its linked cells are inked or erased at their home points, and GEXPOSED counts the exposed ones. -/
def State.finishSettle (s : State) : State × Bool × Nat :=
  let w := s.focus.wave
  let ok := !s.fw.mm && s.fw.allRight
  let cells := s.cells.filter (fun c => c.linked && s.owns w c)
  let exposed := if ok then 0 else (cells.filter (fun c => c.observed)).length
  let s := cells.foldl (fun s c => if ok || c.observed then s.inkCell c else s.eraseCell c) s
  let s := if ok then s.updWave w Wave.clearGuesses else s
  let s := s.freeTags w
  (s.updWave w (fun v => { v with epoch := false, mm := false, gexposed := BitVec.ofNat 64 (min (v.gexposed.toNat + exposed) (2 ^ 64 - 1)) }), ok, exposed)

/-- Settles the epoch of the issuing wave (R140); held until every truth has come and been claimed. -/
def State.settleEpoch (s : State) : Settled :=
  match s.consume s.fw.tags with
  | .wait w s => .wait w s
  | .trap t s => .trap t s
  | .done s => let r := s.finishSettle; .done r.2.1 r.2.2 r.1

/-- The settle-failed trap with the exposed count (R141). -/
def settleTrap (sub : BitVec 8) (exposed : Nat) : Trap := ⟨0x19, sub, BitVec.ofNat 16 (min exposed 0xFFFF), none, 0, false⟩

/-- Settles when an epoch is open, then goes on; a failed settle raises its trap (R141). The slot waits at `phase`. -/
def State.settleFirst (s : State) (sub : BitVec 8) (phase : Nat) (k : State → Res) : Res :=
  if !s.fw.epoch then k s
  else
    match s.settleEpoch with
    | .wait w s => .hold phase w s.fs.ref s
    | .trap t s => .trap t s
    | .done true _ s => k s
    | .done false e s => .trap (settleTrap sub e) s

/-! ## Groups -/

/-- A block is in a term of a group row (R59). -/
def Term.holds (t : Term) (b : Nat) : Bool :=
  decide (t.start ≤ b) && decide (0 < t.count) &&
    (if t.stride = 0 then b == t.start else (b - t.start) % t.stride == 0 && decide ((b - t.start) / t.stride < t.count))
/-- A block is a member of a group: row g0 holds every block (R59). -/
def Launch.member (l : Launch) (g b : Nat) : Bool := g == 0 || (l.groups.getD (g - 1) []).any (fun t => t.holds b)
/-- The group of a scope, with the field that names it. -/
def groupOf : Scope → Option Nat
  | .g n => some n.toNat
  | .w => none | .b => none | .d => none | .v => none | .s => none
/-- Scope .g outside the group raises the group-membership trap (R289, R292). -/
def State.groupTrap (s : State) (sc : Scope) : Option Trap :=
  match groupOf sc with
  | some g => if s.fl.member g s.fb.idx then none else some (trapOf 0x24 1)
  | none => none
/-- The operand that a scope names. -/
def scopeOpds (f : Nat) (sc : Scope) : List Opd :=
  match groupOf sc with
  | some g => [.g f g]
  | none => []

/-! ## Releases -/

/-- A pending error of the ST path is raised at an instruction that waits on it (R125, R207). -/
def State.pendTrap (s : State) : Option (Trap × State) :=
  match s.fw.pend with
  | e :: t => some (trapAt e.cause e.sub s.mask e.addr, s.updWave s.focus.wave (fun v => { v with pend := t }))
  | [] => none

/-- What a release of the issuing wave at a level waits for: its accesses so far and its closes (R116, R122, R123). -/
def State.releaseWait (s : State) (level : Nat) : Wait := .release s.focus.wave level (s.accsOf s.focus.wave) s.fw.sfr

/-- A release at a level (R116): the SFR closes, so that the closes travel behind the data, and the slot waits at `phase` until the release is complete; then a pending error is raised, or `k` goes on. -/
def State.release (s : State) (level phase : Nat) : Res :=
  let s := s.boundary s.focus.wave
  .hold phase (s.releaseWait level) 0 s

/-- Writes to peers that were lost under a release at scope .s: the lowest peer and the number of them (R123). -/
def State.lostTrap (s : State) (level : Nat) : Option (Trap × State) :=
  if level < 3 || s.fw.lost.isEmpty then none
  else
    let dev := s.fw.lost.foldl (fun m x => min m x.1) ((s.fw.lost.headD (0, 0)).1)
    let n := s.fw.lost.foldl (fun m x => m + x.2) 0
    some (⟨0x12, 0, BitVec.ofNat 16 (min n 0xFFFF), none, BitVec.ofNat 64 (dev % 2 ^ 14), false⟩,
      s.updWave s.focus.wave (fun v => { v with lost := [] }))

/-- After the wait of a release at a level: an error that the wait found, or a lost write, is raised there; otherwise `k` goes on (R123, R125). -/
def State.released (s : State) (level : Nat) (k : State → Res) : Res :=
  match s.pendTrap with
  | some (t, s) => .trap t s
  | none =>
    match s.lostTrap level with
    | some (t, s) => .trap t s
    | none => k s

/-- The release of an instruction (R116, R141): an open epoch settles first, a pending error is raised, and the slot waits at `phase + 1` for the release; the settle waits at `phase`. -/
def State.releaseFirst (s : State) (sub : BitVec 8) (level phase : Nat) : Res :=
  s.settleFirst sub phase (fun s =>
    match s.pendTrap with
    | some (t, s) => .trap t s
    | none => s.release level (phase + 1))

/-- An acquire at a scope by the issuing wave (R116). -/
def State.acquireAt (s : State) (level : Nat) : State := s.acquire s.focus.wave level

end Sys2Proof.Machine
end

