-- ==== Sys2Proof/Machine/Access.lean ====
section
/-! DEFINITION. The steps of the ordering machine between the issue of an access and its end: claims and their results, data returns, limits and truths, data phases, acknowledgements, closes, evictions, atomics, drafts, overflow of the claim table, region merges and reclassification (spec/09_ordering.md R104 to R125, spec/11_guesses_drafts.md R127 to R149, spec/17_memory_system.md R189). -/

namespace Sys2Proof.Machine

open Sys2Proof

/-! ## Conditions at a home -/

/-- A message by its number. -/
def State.msgAt (s : State) (m : Nat) : Option Msg := s.net.find? (fun x => x.id == m)

/-- The piece of a live access whose claim message is next at its home. -/
def State.pieceMsg (s : State) (m : Nat) : Option (Nat × Nat) :=
  match s.msgAt m with
  | some x =>
    match x.body with
    | .piece a i => if s.accs.has a && canArrive s.net x then some (a, i) else none
    | .data _ _ => none
    | .close _ _ => none
  | none => none

/-- The class of a page conflicts with an access of a die: a private page that another die owns, or a write to a read-only page (R107). -/
def Walk.conflicts (e : Walk) (die : Nat) (wr : Bool) : Bool :=
  match e with
  | .leaf e _ _ => (eBits e 7 2 == 0 && eBits e 9 2 != die) || (eBits e 7 2 == 1 && wr)
  | .err _ => false
/-- The class of the page, as the core's translation gives it, conflicts with the access (R107). -/
def State.classConflict (s : State) (x : Acc) (p : Piece) : Bool :=
  p.tgt == .device && (s.lookup (s.clusterOf x.core) x.ctx p.va).conflicts (coreDie x.core) x.kind.writes

/-- The access has room in the claim table: its line is in the overflow area, or its entry has place for the SFR and the slice has an entry for the line (R114). -/
def State.claimRoom (s : State) (x : Acc) (p : Piece) : Bool :=
  let line := lineOf p.pa
  let here := s.claims.filter (fun c => c.word / 32 == line)
  let sfrs := ((here.filter (fun c => !(c.wave == x.wave && c.sfr == x.sfr))).map (fun c => (c.wave, c.sfr))).eraseDups
  let lines := (((s.claims.filter (fun c => !c.ovf && homeOf (c.word * 4) == homeOf p.pa)).map (fun c => c.word / 32)).filter (fun l => l != line)).eraseDups
  here.any (fun c => c.ovf) || (decide (sfrs.length < 8) && decide (lines.length < 128))

/-- The pieces that a claim message at a home covers: all of one event, all those of one instruction on a reader-counted line, or the one (R120, R189). -/
def State.claimGroup (s : State) (x : Acc) (i : Nat) : List Nat :=
  let p := x.pieces.getD i .zero
  let sent := (List.range x.pieces.length).filter (fun k => (x.pieces.getD k .zero).st == .sent)
  if x.coalesced then sent
  else if p.tgt == .device && s.readerCounted (lineOf p.pa) then
    sent.filter (fun k => (x.pieces.getD k .zero).tgt == .device && lineOf (x.pieces.getD k .zero).pa == lineOf p.pa)
  else [i]

/-- The pieces of the group must wait at the home: a read of bytes that the wave's own older writes have yet to reach, or of the array while its controller holds it; a page that is flipping, a class conflict, or no room in the claim table (R107, R110, R114, R190 to R193, R201). -/
def State.claimWaits (s : State) (x : Acc) (p : Piece) : Bool :=
  (!x.kind.writes && s.ownPending x p) ||
  match p.tgt with
  | .device => s.flipping p.pa || s.classConflict x p || (!x.kind.writes && s.readWaits p.pa p.n) || (!x.truthOnly p && !s.cellOn p.pa p.n && !s.claimRoom x p)
  | .host => false
  | .peer dev _ => s.linkHolds dev

/-- Changes a piece of an access. -/
def State.updPiece (s : State) (a i : Nat) (f : Piece → Piece) : State :=
  s.updAcc a (fun x => { x with pieces := (List.range x.pieces.length).map (fun k => if k = i then f (x.pieces.getD k .zero) else x.pieces.getD k .zero) })

/-- A kept error of a piece. -/
def errAt (cause sub : BitVec 8) (va : DWord) : KeptFault := ⟨cause, sub, 0, va⟩

/-- The right that an access of a kind needs (R210). -/
def AKind.right : AKind → Right
  | .st => .write | .sst => .write | .strc _ => .write | .sts => .write
  | .draft _ => .draft | .ink => .draft | .erase _ => .draft
  | .atomic _ _ => .atomic | .ared _ _ => .atomic
  | .ld _ _ => .read | .lds _ => .read | .sld _ => .read | .vfeed _ _ _ => .read | .accld _ _ => .read | .mfsr _ => .read
  | .truth _ => .read | .tab => .read

/-- The table in force denies a piece when it reaches its target: the home, the host port or the port of a link, and the MSC for a read that goes on to it (R209). -/
def State.lateDenied (s : State) (x : Acc) (p : Piece) : Bool :=
  let t := Place.atTarget ⟨p.tgt, p.pa, 0, 0, 0, 0⟩
  !s.permits t.1 x.ctx t.2 x.kind.right || (p.tgt == .device && !x.kind.writes && s.mscDenies x.ctx p.pa .read)

/-- Words of a piece that take claims: those on no live cell (R143). -/
def State.claimWords (s : State) (p : Piece) : List Nat := (wordsOf p.pa p.n).filter (fun w => !s.cellOn (w * 4) 4)

/-- A read that the host or a peer serves: the level that it is charged at is free (log entry 21). -/
def State.farServed (s : State) (a : Nat) : State :=
  s.updAcc a (fun x => { x with level := max x.level (Config.unservedLevel % 6) })

/-- The line's claims are in the overflow area (R114). -/
def State.lineOverflowed (s : State) (word : Nat) : Bool := s.claims.any (fun c => c.ovf && c.word / 32 == word / 32)

/-- The claim phase of one piece at its home: the denial, the conflict or the error, otherwise the claims and, for a read, the value (R104, R105, R110, R125, R145, R209). -/
def State.claimPiece (s : State) (a i : Nat) : State :=
  let x := s.acc a
  let p := x.pieces.getD i .zero
  if s.lateDenied x p then s.updPiece a i (fun p => { p with st := .atHome, err := some (errAt 0x06 x.kind.right.sub p.va) })
  else match p.tgt with
  | .host => (s.farServed a).updPiece a i (fun p => { p with st := .atHome, val := s.hostMem.bytes p.pa p.n })
  | .peer dev asid =>
    if s.linkIsDown dev && !x.kind.writes then
      s.updPiece a i (fun p => { p with st := .atHome, err := some (errAt 0x11 13 p.va) })
    else ((if x.kind.writes then s else s.sendRequest dev asid p.va).farServed a).updPiece a i (fun p => { p with st := .atHome, val := Mem.bytes (s.peerMem.get [] dev) p.va.toNat p.n })
  | .device =>
    let ws := s.claimWords p
    let conf := if x.truthOnly p then none else ws.findSome? (fun w => s.conflictAt w x.wave x.kind.writes)
    let lvl := s.serveLevel (coreDie x.core) (lineOf p.pa)
    let s := if x.kind.writes || conf.isSome then s else s.fetchLines p.pa p.n
    match s.badLevel p.pa p.n, conf, x.kind.writes with
    | some l, _, false => s.updPiece a i (fun p => { p with st := .atHome, err := some (errAt 0x11 (BitVec.ofNat 8 l) p.va) })
    | _, some c, _ => s.updPiece a i (fun p => { p with st := .atHome, conf := some c })
    | _, none, _ =>
      let s := if x.truthOnly p then s
        else { s with claims := s.claims ++ ws.map (fun w => ⟨w, x.wave, x.sfr, a, x.kind.writes, s.seq, s.lineOverflowed w⟩), seq := s.seq + 1 }
      if x.kind.writes then s.updPiece a i (fun p => { p with st := .atHome })
      else
        let s := s.recallRange p.pa p.n
        let s := if x.truthOnly p then s else s.observeCells x.wave p.pa p.n
        let s := s.afterServe (lineOf p.pa)
        let s := s.updPiece a i (fun p => { p with st := .atHome, val := s.homeBytes p.pa p.n })
        if p.early.isSome then s else s.updAcc a (fun x => { x with level := max x.level lvl })

/-- Removes the claim messages of the pieces of a group. -/
def State.dropClaims (s : State) (a : Nat) (g : List Nat) : State :=
  { s with net := s.net.filter (fun m => match m.body with | .piece b k => !(b == a && g.contains k) | .data _ _ => true | .close _ _ => true) }

/-- Kinds whose claim phase CLAIM handles; atomics, drafts, INK and ERASE have steps of their own. -/
def AKind.claims : AKind → Bool
  | .ld _ _ => true | .sld _ => true | .vfeed _ _ _ => true | .truth _ => true | .tab => true
  | .st => true | .sst => true | .strc _ => true
  | .lds _ => false | .accld _ _ => false | .mfsr _ => false | .sts => false | .atomic _ _ => false | .ared _ _ => false
  | .draft _ => false | .ink => false | .erase _ => false

/-- One reading of a line by an instruction is counted once; one that met a denial, an error or a conflict at the line has read nothing (R189). -/
def State.countGroup (s : State) (a : Nat) (x : Acc) (p : Piece) (g : List Nat) (counted : Bool) : State :=
  if counted && !x.kind.writes && !x.truthOnly p
      && g.all (fun k => let q := (s.acc a).pieces.getD k .zero; q.err.isNone && q.conf.isNone) then s.countRead (lineOf p.pa) else s

/-- CLAIM (R111): a claim, or a claim-and-compare, that is next at its home is taken; where it must wait it waits at the home. -/
def execClaim (msg : Nat) (s : State) : Host.Outcome State Fault Refusal :=
  match s.pieceMsg msg with
  | some (a, i) =>
    let x := s.acc a
    let p := x.pieces.getD i .zero
    if !x.kind.claims || p.linked then ok s
    else
      let g := s.claimGroup x i
      if g.any (fun k => s.claimWaits x (x.pieces.getD k .zero)) then ok (s.park msg)
      else
        let counted := p.tgt == .device && s.readerCounted (lineOf p.pa)
        let s := g.foldl (fun s k => s.claimPiece a k) (s.dropClaims a g)
        ok (s.countGroup a x p g counted)
  | none => ok s

/-! ## Results of claims -/

/-- The claim result of a piece is back. That of a guessed lane is no claim: its truth, or its fault, goes to the tag (R130, R138). -/
def Acc.back (x : Acc) (p : Piece) : Bool := p.st == .atHome && !x.truthOnly p
/-- A claim result that is back says that the piece failed. -/
def Acc.bad (x : Acc) (p : Piece) : Bool := x.back p && (p.conf.isSome || p.err.isSome)
/-- Every claim result of the access has come back, and some piece failed. -/
def Acc.failed (x : Acc) : Bool :=
  x.pieces.any x.bad && !x.pieces.any (fun p => (p.st == .sent || p.st == .fresh) && !x.truthOnly p)

/-- The path of a slot as it was at an access, or just after it. -/
def Slot.backTo (sl : Slot) (p : PathRec) (parked : Bool) : Slot :=
  { sl with path := p, parked := parked, held := none, phase := 0, wait := .none, ref := 0, branched := false, billed := false }

/-- A value that differs from the one served: the path is restored to the read, the home's value is written and the younger instructions issue again (R105, R112). -/
def State.mismatch (s : State) (a : Nat) : State :=
  let x := s.acc a
  let lanes := maskOf (fun l => x.pieces.any (fun p => p.lane == l && p.st.hasPassed && p.early.isSome && p.early != some p.val))
  let s := s.updAcc a (fun x => { x with pieces := x.pieces.map (fun p => if p.st.hasPassed then { p with early := none } else p) })
  if lanes = 0 then s
  else
    let s := s.undoFrom x.wave x.slotB (x.seq + 1) (x.count + 1)
    let s := s.updWave x.wave (fun v => v.updSlot x.slotB (fun sl => sl.backTo { x.path with pc := x.nextPc } x.mark))
    let y := s.acc a
    let s := if y.kind.scalar then s.putScalar a y.scalarResult
      else (List.range y.regs).foldl (fun s i => s.putResult a i lanes (fun l => y.result l i) (y.addrGuess &&& lanes)) s
    s.recordHistory y lanes

/-- Claims of the access that have come back without a failure have passed; a linked lane goes on to its cell instead (R149). -/
def State.passAll (s : State) (a : Nat) : State :=
  let back := (s.acc a).pieces.filter (s.acc a).back
  let s := s.updAcc a (fun x => { x with pieces := x.pieces.map (fun p => if x.back p && !p.linked then { p with st := .passed } else p) })
  let x := s.acc a
  let s := if x.kind.writes then s else back.foldl (fun s p => s.fillRead x p) s
  let s := s.mismatch a
  let s := s.updAcc a (fun x => { x with window := x.kind.windowed && x.pieces.any (fun p => !p.st.hasPassed && p.st != .conflict && !x.truthOnly p) })
  s.reap a

/-- The failure may be raised now: it is the first in issue order of its wave, its block is resident, and the other slot waits for no result but its own failures (R112, R113, log entry 18). -/
def State.mayRaise (s : State) (a : Nat) : Bool :=
  let x := s.acc a
  (s.block x.block).st == .resident &&
    s.accs.all (fun y => y.1 == a || y.2.wave != x.wave || !y.2.window ||
      (if y.2.slotB == x.slotB then decide (x.seq ≤ y.2.seq) else y.2.failed && decide (x.seq ≤ y.2.seq)))

/-- Takes a slot of the wave back to its first failed access, so that it issues that access again. -/
def State.rewindOther (s : State) (w : Nat) (sb : Bool) : State :=
  match s.accs.find? (fun y => y.2.wave == w && y.2.slotB == sb && y.2.window) with
  | some y =>
    let all := s.accs.filter (fun z => z.2.wave == w && z.2.slotB == sb && z.2.window)
    let first := all.foldl (fun b z => if z.2.seq < b.seq then z.2 else b) y.2
    (s.undoFrom w sb first.seq first.count).updWave w (fun v => v.updSlot sb (fun sl => sl.backTo first.path false))
  | none => s

/-- The lanes of an access whose claims met a conflict. -/
def Acc.confLanes (x : Acc) : Mask := maskOf (fun l => x.pieces.any (fun p => p.lane == l && p.conf.isSome && !x.truthOnly p))

/-- The lanes of a scalar access that a trap reports: the path's lanes. -/
def Acc.scalarLanes (x : Acc) : Option Mask :=
  match x.kind with
  | .sld _ => some x.path.mask
  | .sst => some x.path.mask
  | _ => none
/-- The lane set that a memory-model exception reports where it is not the lanes on the lowest conflicting word: every conflicting lane for an atomic, an ARED or a DRAFT (R113, R319). -/
def Acc.failLanes (x : Acc) : Option Mask :=
  match x.kind with
  | .atomic _ _ => some x.confLanes
  | .draft _ => some x.confLanes
  | .ared _ _ => some x.confLanes
  | _ => none

/-- Raises what an access met, at the access and with the state that the path had there (R112, R113, R125, R130); the charge of its issue is taken back (R317). A conflict of a guessed address in an open epoch settles first: the slot then holds this step as its unit (R136). -/
def State.raiseFailure (s : State) (a : Nat) : State :=
  let x := s.acc a
  match failTrap (x.pieces.filter (fun p => !x.truthOnly p)) x.scalarLanes x.failLanes with
  | none => s
  | some t =>
    let sl := (s.wave x.wave).slot x.slotB
    let s := if sl.held.isSome && sl.ref == a && !sl.billed then s else s.refund x.core x.pair x.block x.cost
    let s := s.rewindOther x.wave (!x.slotB)
    let s := (s.undoFrom x.wave x.slotB x.seq x.count).updWave x.wave (fun v => v.updSlot x.slotB (fun sl => sl.backTo x.path false))
    let conf := t.cause == 0x10
    if conf && (s.wave x.wave).epoch && (x.confLanes &&& x.addrGuess) != 0 then
      let keep := { x with window := false, fell := true, pieces := x.pieces.map (fun p => { p with st := .conflict }) }
      (s.setAcc a keep).updWave x.wave (fun v => v.updSlot x.slotB (fun sl => { sl with held := some (.claimResult a), phase := 1 }))
    else s.takeTrap x.wave x.slotB t x.path.pc

/-- The step that settles before a conflict on a guessed address (R136). -/
def State.settleConflict (s : State) (a : Nat) : State :=
  let x := s.acc a
  let i : Instr := .claimResult a
  match s.settleEpoch with
  | .wait w s => s.holdAt i 1 w 0
  | .trap t s => (s.delAcc a).takeTrap x.wave x.slotB t x.path.pc
  | .done false e s => (s.delAcc a).takeTrap x.wave x.slotB (settleTrap 5 e) x.path.pc
  | .done true _ s =>
    match failTrap x.pieces none none with
    | some t => (s.delAcc a).takeTrap x.wave x.slotB t x.path.pc
    | none => s.delAcc a

/-- CLAIM_RESULT (R112): claim results return to the core. With none failed they have passed, and a value that differs from the one served takes the path back to the read; a failure is raised once every result of the access is back. A consumed truth keeps its failure for the instruction that consumes it. -/
def execClaimResult (acc : Nat) (s : State) : Host.Outcome State Fault Refusal :=
  let x := s.acc acc
  if s.fs.held == some (.claimResult acc) && s.accs.has acc && s.waitOver s.focus.wave s.fs.wait then ok (s.settleConflict acc)
  else if !s.accs.has acc || !x.pieces.any x.back then ok s
  else if !x.pieces.any x.bad then
    (match x.kind with
     | .draft _ => ok s | .ink => ok s | .erase _ => ok s | .atomic _ _ => ok s | .ared _ _ => ok s
     | _ => ok (s.passAll acc))
  else
    match x.kind with
    | .truth _ => ok (s.updAcc acc (fun x => { x with pieces := x.pieces.map (fun p =>
        if p.st == .atHome then (if p.conf.isSome || p.err.isSome then { p with st := .conflict } else { p with st := .passed }) else p) }))
    | .tab => ok (s.updAcc acc (fun x => { x with pieces := x.pieces.map (fun p =>
        if p.st == .atHome then (if p.conf.isSome || p.err.isSome then { p with st := .conflict } else { p with st := .passed }) else p) }))
    | _ => if x.failed && s.mayRaise acc then ok (s.raiseFailure acc) else ok s

/-! ## Data, limits and truths -/

/-- The result of the access is in its record from the start. -/
def AKind.ready : AKind → Bool
  | .lds _ => true | .accld _ _ => true | .mfsr _ => true
  | _ => false

/-- Core cycles before which no result of a kind returns (R128). -/
def AKind.minAge : AKind → Nat
  | .ld _ _ => 12 | .sld _ => 12 | .lds _ => 12 | .vfeed _ _ _ => 12
  | _ => 0

/-- The pieces of a lane; a scalar access has the one lane 0. -/
def Acc.ofLane (x : Acc) (l : Nat) : List Piece := x.pieces.filter (fun p => p.lane == l)

/-- A lane's data has come: each of its pieces has passed, or an atomic has been performed (R105, R290). -/
def Acc.laneHere (x : Acc) (l : Nat) : Bool :=
  !(x.ofLane l).isEmpty && (x.ofLane l).all (fun p => !p.taken && p.st.hasPassed && p.conf.isNone && p.err.isNone)

/-- Lanes of the access whose result has not been written. -/
def Acc.untaken (x : Acc) : Mask := maskOf (fun l => x.pieces.any (fun p => p.lane == l && !p.taken))

/-- Marks lanes as written. -/
def State.takeLanes (s : State) (a : Nat) (lanes : Mask) : State :=
  s.updAcc a (fun x => { x with pieces := x.pieces.map (fun p => if lanes.getLsbD p.lane then { p with taken := true } else p) })

/-- Writes the results of lanes of an access to its destination group. -/
def State.writeResult (s : State) (a : Nat) (lanes : Mask) : State :=
  let x := s.acc a
  if x.kind.scalar then s.putScalar a x.scalarResult
  else (List.range x.regs).foldl (fun s i => s.putResult a i lanes (fun l => x.result l i) (x.addrGuess &&& lanes)) s

/-- The destination is complete: the counter falls and the load is charged, once (R72, R218). -/
def State.finishLoad (s : State) (a : Nat) : State :=
  let x := s.acc a
  if x.untaken = 0 && !x.fell then (((s.chargeLoad x).fall a).reap a) else s

/-- Values from copies for lanes, taken before their claims return (R105). -/
def State.takeEarly (s : State) (a : Nat) (lanes : Mask) : State :=
  (List.range (s.acc a).pieces.length).foldl (fun s i =>
    let x := s.acc a
    let p := x.pieces.getD i .zero
    if lanes.getLsbD p.lane then
      match s.earlyValue x p with
      | some (v, lvl, _) => (s.updPiece a i (fun p => { p with early := some v })).updAcc a (fun x => { x with level := max x.level lvl })
      | none => s
    else s) s

/-- A copy that was to serve a piece early holds an uncorrectable error: the load meets it there (R125). -/
def State.meetCopyErrors (s : State) (a : Nat) (lanes : Mask) : State :=
  s.updAcc a (fun x => { x with pieces := x.pieces.map (fun p =>
    match s.earlyValue x p with
    | some (_, lvl, true) =>
      if lanes.getLsbD p.lane && !p.taken && !p.st.hasPassed && p.conf.isNone && p.err.isNone then { p with err := some (errAt 0x11 (if lvl = 0 then 5 else 4) p.va) } else p
    | _ => p) })

/-- LOAD_DATA_RETURN (R27, R105, R128, R129, R279): data reaches destination lanes, after their claims have passed or, `early`, from a copy before; the counter falls when the whole destination is written. -/
def execLoadDataReturn (acc : Nat) (lanes : BitVec 8) (early : Bool) (s : State) : Host.Outcome State Fault Refusal :=
  let x := s.acc acc
  if !s.accs.has acc || !x.kind.long || x.fell || x.age < x.kind.minAge then ok s
  else if x.kind.ready && !x.pieces.all (fun p => p.st.hasPassed) then ok s
  else if x.kind.ready then ok (((s.writeResult acc x.lanes).takeLanes acc 0xFF).finishLoad acc)
  else if early then
    let can := maskOf (fun l => lanes.getLsbD l && !(x.ofLane l).isEmpty && (x.ofLane l).all (fun p =>
      !p.taken && !p.st.hasPassed && p.conf.isNone && p.err.isNone && (match s.earlyValue x p with | some (_, _, hurt) => !hurt | none => false)))
    (match x.kind with
     | .atomic _ _ => ok s
     | _ =>
       if can = 0 then ok (s.meetCopyErrors acc lanes)
       else
         let s := (s.takeEarly acc can).takeLanes acc can
         let s := (s.writeResult acc can).recordHistory (s.acc acc) can
         ok (s.finishLoad acc))
  else
    let can := maskOf (fun l => lanes.getLsbD l && x.laneHere l)
    if can = 0 then ok s
    else
      let s := (x.pieces.filter (fun p => can.getLsbD p.lane)).foldl (fun s p => s.fillRdc x p) s
      let s := (s.takeLanes acc can).writeResult acc can
      let s := s.recordHistory (s.acc acc) can
      ok (s.finishLoad acc)

/-- The guess for register `i` of a lane (R132). -/
def State.guessWord (s : State) (x : Acc) (l i : Nat) : Word :=
  let p := (x.ofLane l).headD .zero
  let stale : Option Word :=
    match (if p.tgt == .device then (s.core x.core).l1.find? (fun n => n.pline == lineOf (p.pa + 4 * i)) else none) with
    | some n => let w := n.words.get L1Word.zero ((p.pa + 4 * i) / 4 % 32); if w.stale && w.st == .i then some w.val else none
    | none => none
  if x.gsp = 1 then
    match stale with
    | some w => x.kind.regWord (leBytes (w.toNat / 2 ^ (8 * (p.pa % 4))) 4) 0
    | none => 0
  else if x.gsp = 2 then (if i = 0 then ((s.core x.core).history.get (L8.rep 0) (bitsOf x.path.pc.toNat 2 10)).get l else 0)
  else if x.gsp = 3 then (x.prior.getD i (L8.rep 0)).get l
  else 0

/-- The claims of lanes that were guessed do not stand (R138): claims of the access on words that no lane with data touches. -/
def State.unclaimGuessed (s : State) (a : Nat) : State :=
  let x := s.acc a
  { s with claims := s.claims.filter (fun c => c.acc != a || x.pieces.any (fun p => p.taken && (wordsOf p.pa p.n).contains c.word)) }

/-- A request that met a conflict is asked again as a fetch of the truth. -/
def State.askTruth (s : State) (a : Nat) : State :=
  (s.updAcc a (fun x => { x with pieces := x.pieces.map (fun p =>
    if !p.taken && p.st == .atHome && p.conf.isSome then { p with st := .fresh, conf := none } else p) })).sendPieces a

/-- A limit expires with no lane left to guess, since younger writes stand in every lane without data (R129): the requests of those lanes are dropped, a load that has taken data is charged, and the claims of the lanes with data are still checked. -/
def State.overtaken (s : State) (a : Nat) : State :=
  let x := s.acc a
  let g := (List.range x.pieces.length).filter (fun k => !(x.pieces.getD k .zero).taken)
  let s := (s.dropClaims a g).updAcc a (fun x => { x with pieces := x.pieces.map (fun p => if p.taken then p else { p with st := .passed, taken := true }) })
  let s := if x.pieces.any Piece.taken then s.chargeLoad x else s
  let s := s.updAcc a (fun x => { x with window := x.pieces.any (fun p => !p.st.hasPassed) })
  (s.fall a).reap a

/-- The limit of a load expires (R127, R129): lanes without data take guesses under a guess tag; with no tag free the load waits on; an error already found is raised instead. -/
def State.expire (s : State) (a : Nat) : State :=
  let x := s.acc a
  let found := x.pieces.any (fun p => p.err.isSome)
  let younger := x.dead.foldl (· ||| ·) 0
  let gl := x.untaken &&& ~~~younger
  if x.fell || x.noLimit || found then s
  else if gl = 0 then s.overtaken a
  else if 4 ≤ (s.wave x.wave).tags.length then s.updAcc a (fun x => { x with noLimit := true })
  else
    let gs := (List.range x.regs).map (fun i => L8.ofFn (fun l => if gl.getLsbD l then s.guessWord x l i else 0))
    let s := (List.range x.regs).foldl (fun s i => s.putResult a i gl (fun l => (gs.getD i (L8.rep 0)).get l) gl) s
    let t : GTag := ⟨a, x.dst, x.regs, gl, gs, none, none, s.seq⟩
    let s := (s.updWave x.wave (fun v => { v with tags := v.tags ++ [t], epoch := v.epoch || x.gusp })).tick
    let s := s.updAcc a (fun x => { x with guessed := true })
    let s := (s.unclaimGuessed a).askTruth a
    let s := s.charge (s.block x.block).pcore x.pair x.block (s.weight 11)
    let s := s.fall a
    s.updAcc a (fun x => { x with window := x.pieces.any (fun p => p.taken && !p.st.hasPassed) })

/-- LIMIT_EXPIRY (R127, R129): between `L` and `L` + 4 core cycles after the issue. -/
def execLimitExpiry (acc : Nat) (s : State) : Host.Outcome State Fault Refusal :=
  let x := s.acc acc
  match x.limit with
  | some l => if s.accs.has acc && l ≤ x.age && x.age ≤ l + 4 then ok (s.expire acc) else ok s
  | none => ok s

/-- The truth of a guessed load arrives (R130, R132, R133): the tag keeps it, or the fault of its lowest faulted lane; the history and the charge follow. -/
def State.truthArrives (s : State) (a : Nat) (t : GTag) : State :=
  let x := s.acc a
  let ps := x.pieces.filter (fun p => t.mask.getLsbD p.lane)
  match ps.find? (fun p => p.err.isSome) with
  | some p =>
    s.updWave x.wave (fun v => { v with tags := v.tags.map (fun u => if u.acc = a then { u with fault := p.err } else u) })
  | none =>
    let tr := (List.range t.regs).map (fun i => L8.ofFn (fun l => if t.mask.getLsbD l then x.result l i else 0))
    let s := s.updWave x.wave (fun v => { v with tags := v.tags.map (fun u => if u.acc = a then { u with truth := some tr } else u) })
    let s := s.updAcc a (fun x => { x with pieces := x.pieces.map (fun p => if t.mask.getLsbD p.lane then { p with st := .passed } else p) })
    (s.recordHistory x t.mask).chargeLoad x

/-- TRUTH_ARRIVAL (R133). -/
def execTruthArrival (acc : Nat) (s : State) : Host.Outcome State Fault Refusal :=
  let x := s.acc acc
  match (s.wave x.wave).tagOf acc with
  | some t =>
    let ps := x.pieces.filter (fun p => t.mask.getLsbD p.lane)
    if s.accs.has acc && t.truth.isNone && t.fault.isNone
        && ps.all (fun p => (p.st == .atHome || p.st == .passed) && p.conf.isNone) then ok (s.truthArrives acc t)
    else ok s
  | none => ok s

/-! ## Data phases -/

/-- An older access of the path has not passed (R104, R111). -/
def State.olderOpen (s : State) (x : Acc) : Bool :=
  s.accs.any (fun y => y.2.wave == x.wave && y.2.slotB == x.slotB && y.2.window && decide (y.2.seq < x.seq))

/-- An older store of the path still has data in the pending-store queue, which keeps issue order (R108). -/
def State.olderQueued (s : State) (x : Acc) (isStore : AKind → Bool) : Bool :=
  s.accs.any (fun y => y.2.wave == x.wave && y.2.slotB == x.slotB && isStore y.2.kind && decide (y.2.seq < x.seq)
    && y.2.pieces.any (fun p => !p.st.dataOut))

/-- The data phase of a piece leaves: to its home, or into the queue of a link (R104, R204). -/
def State.sendPiece (s : State) (a i : Nat) : State :=
  let x := s.acc a
  let p := x.pieces.getD i .zero
  let s := s.updPiece a i (fun p => { p with st := .dataSent })
  match p.tgt with
  | .peer dev asid => s.updLink (linkOf dev) (fun l => { l with queue := l.queue ++ [⟨a, i, some x.wave, none, dev, asid, s.devNum, p.va, p.data, none⟩] })
  | .device => s.send x.core p.home (.data a i)
  | .host => s.send x.core p.home (.data a i)

/-- SEND_DATA (R104, R108, R111, R112): every claim of the store and of the older accesses of its path has passed, its linked lanes have their cells, and the data of the path's older stores has left. -/
def execSendData (acc : Nat) (s : State) : Host.Outcome State Fault Refusal :=
  let x := s.acc acc
  if s.accs.has acc && x.kind.isStore && x.pieces.any (fun p => p.st == .passed) && x.pieces.all (fun p => p.st.hasPassed)
      && !s.olderOpen x && !s.olderQueued x AKind.isStore then
    if x.coalesced then
      ok ((s.send x.core ((x.pieces.headD .zero).home) (.data acc 0)).updAcc acc
        (fun x => { x with pieces := x.pieces.map (fun p => { p with st := .dataSent }) }))
    else ok (((List.range x.pieces.length).filter (fun i => (x.pieces.getD i .zero).st == .passed)).foldl (fun s i => s.sendPiece acc i) s)
  else ok s

/-- The bytes that an instruction writes to a sector are the whole sector (R125). -/
def Acc.coversSector (x : Acc) (sec : Nat) : Bool :=
  (List.range 64).all (fun k => x.pieces.any (fun p => p.tgt == .device && decide (p.pa ≤ sec * 64 + k) && decide (sec * 64 + k < p.pa + p.n)))

end Sys2Proof.Machine
end

