-- ==== Sys2Proof/Machine/HostPort.lean ====
section
/-! DEFINITION. The host port: accesses of agents that take no claim, host accesses to device memory, those held at their home points, and the port's training (spec/19_host_links.md R197, R198, R200, R202, R208, R210). -/

namespace Sys2Proof.Machine

open Sys2Proof

/-! ## Accesses without a claim -/

/-- A read of device memory at its home by an agent that takes no claim: U copies are recalled, foreign live cells are observed, and each reader-counted line is counted once (R119, R145, R189, R198). -/
def State.homeRead (s : State) (pa n : Nat) : State × List Byte :=
  let s : State := (s.fetchLines pa n).recallRange pa n
  let s : State := { s with cells := s.cells.map (fun (c : Cell) => if overlaps c.addr 8 pa n then { c with observed := true } else c) }
  let d := s.homeBytes pa n
  (((wordsOf pa n).map (fun w => w / 32)).eraseDups.foldl (fun s l => if s.readerCounted l then s.countRead l else s) s, d)

/-- A conflicting open claim of a wave or a job lies on the bytes; none conflicts under a live draft cell (R110, R143, R198). -/
def State.meetsClaim (s : State) (pa n : Nat) (wr : Bool) : Bool :=
  (wordsOf pa n).any (fun w => !s.cellOn (w * 4) 4 && (s.claims.any (fun c => c.word == w && (wr || c.wr)) || (s.jobClaim (w * 4) wr).isSome))

/-- A write at its home by an agent that keeps no copy: sectors that it covers are good again (R125). -/
def State.plainWrite (s : State) (pa : Nat) (d : List Byte) : State :=
  (s.mendSectors (fun k => overlaps (k * 64) 64 pa d.length)).agentWrite pa (allBytes d)

/-! ## Host accesses -/

/-- The master id of a host function (R208). -/
def hostMid (fn : Nat) : Nat := 0xC10 + fn % 8
/-- The device is in the recovery state (R22). -/
def State.recovery (s : State) : Bool := s.mgmt.cfgstat.getLsbD 4
/-- HOSTMODE.CXL (R197). -/
def State.cxlMode (s : State) : Bool := s.mgmt.hostmode.getLsbD 0

/-- The host reaches the address: in PCIe mode through the 64 GiB aperture at APBASE, in CXL mode through its decoder; never a claim overflow area, and nothing in the recovery state. An access lies within one line (R22, R197). -/
def State.hostReaches (s : State) (pa n : Nat) : Bool :=
  !s.recovery && decide (0 < n) && decide (pa / 128 = (pa + n - 1) / 128) && decide (pa + n ≤ 2 ^ 40) && !inOverflow pa
    && (s.cxlMode || pa / 2 ^ 36 == bitsOf s.mgmt.apbase.toNat 36 4)

/-- The state of the flip that runs on a page (R201). -/
def State.flipAt (s : State) (page : Nat) : Option FlipState :=
  match s.mgmt.flips.find? (fun f => f.page == page) with
  | some f => some f.st
  | none => none

/-- The access is held at its home point: by means 5 of the governor, a flip, a conflicting claim, for a write a live draft cell, for a read, and a write that covers a sector in part, an array that must wait (R125, R145, R193, R198, R202, R212). -/
def State.hostHeld (s : State) (a : HostAcc) : Bool :=
  let flip := match s.flipAt (a.pa / 4096) with
    | some .d2h => true
    | some .h2d => true
    | some .d2hFl => false
    | none => false
  s.fullg || (if a.wr then s.secsWait (partSecs a.pa a.data.length) else s.readWaits a.pa a.data.length) || flip || s.meetsClaim a.pa a.data.length a.wr || (a.wr && s.cells.any (fun c => overlaps c.addr 8 a.pa a.data.length))

/-- The reply to a host access that is in error: a Completer Abort, or under CXL.mem an error response and zero data (R210). -/
def State.hostError (s : State) (a : HostAcc) : HReply := if s.cxlMode then .memError (List.replicate a.data.length 0) else .abort
/-- Serves an access of a host or a peer at its home point, for a master id (R189, R198, R208). -/
def State.serveHostAcc (s : State) (mid : Nat) (a : HostAcc) : State × HostAcc :=
  let n := a.data.length
  if a.wr then
    let part := partSecs a.pa n
    let s := s.fetchSecs part
    (if !(s.badSecs part).isEmpty then (s, { a with done := some (s.hostError a) }) else (s.plainWrite a.pa a.data, { a with done := some (.data []) }))
  else if s.mscDenies mid a.pa .read then (s, { a with done := some (s.hostError a) })
  else if (s.badLevel a.pa n).isSome then (s.fetchLines a.pa n, { a with done := some (s.hostError a) })
  else
    let (s, d) := s.homeRead a.pa n
    (s, { a with done := some (.data d) })

/-- Serves, in the order of arrival, the host accesses that nothing holds any more. -/
def State.serveHosts (s : State) : List HostAcc → State × List HostAcc
  | [] => (s, [])
  | a :: t =>
    if a.done.isSome || s.hostHeld a then
      let (s, r) := State.serveHosts s t
      (s, a :: r)
    else
      let (s, a) := s.serveHostAcc (hostMid a.fn) a
      let (s, r) := State.serveHosts s t
      (s, a :: r)
def State.releaseHost (s : State) : State :=
  if s.hostAccs.isEmpty then s
  else
    let (s, r) := s.serveHosts s.hostAccs
    { s with hostAccs := r }

/-- The host caches a line dirty: of a page in host bias that no flip takes back, in CXL mode (R200, R201). -/
def State.hostCaches (s : State) (line : Nat) (d : List Byte) : State :=
  if s.cxlMode && d.length == 128 && decide (line < 2 ^ 33) && s.hostBias (line * 128) && s.flipAt (line / 32) == none then
    { s with hostLines := s.hostLines.set line d }
  else s

/-- HOST_ACCESS (R197, R198, R200, R208, R210): an access arrives at its home point; a denied one, or one that the port does not reach, changes nothing and completes with an error; otherwise it is served or held. What earlier accesses returned has been delivered. -/
def execHostAccess (fn : BitVec 3) (pa : Nat) (wr : Bool) (data : List Byte) (s : State) : Host.Outcome State Fault Refusal :=
  let a : HostAcc := ⟨fn.toNat, pa, wr, data, none⟩
  let s : State := { s with hostAccs := s.hostAccs.filter (fun (x : HostAcc) => x.done.isNone) }
  if s.hostReaches pa data.length && s.permits (dieOf pa) (hostMid fn.toNat) pa (if wr then .write else .read) then
    .next ({ s with hostAccs := s.hostAccs ++ [a] } : State).releaseHost
  else .next { s with hostAccs := s.hostAccs ++ [{ a with done := some (s.hostError a) }] }

/-- HOST_PORT_TRAIN (R197): HOSTMODE reports the mode and the trained lane count, 1, 2, 4, 8 or 16. -/
def execHostPortTrain (cxl : Bool) (width : BitVec 5) (s : State) : Host.Outcome State Fault Refusal :=
  if [1, 2, 4, 8, 16].contains width.toNat then
    .next (s.updMgmt (fun m => { m with hostmode := BitVec.ofNat 32 (b2n cxl + 2 * width.toNat) }))
  else .next s

end Sys2Proof.Machine
end

