-- ==== Sys2Proof/Machine/Home.lean ====
section
/-! DEFINITION. What happens to an access at its home point: data phases, acknowledgements, closes, evictions, deliveries to peers, atomics, drafts, INK and ERASE, overflow of the claim table, region merges and reclassification (spec/09_ordering.md R104 to R125, R319, spec/11_guesses_drafts.md R143 to R149, spec/17_memory_system.md R189, spec/25_ref_memory.md R285, R290). -/

namespace Sys2Proof.Machine

open Sys2Proof

/-! ## Data phases -/

/-- A live cell of another wave lies on the bytes (R145). -/
def State.foreignCell (s : State) (w pa n : Nat) : Bool := s.cells.any (fun c => overlaps c.addr 8 pa n && !s.owns w c)

/-- The bytes of a piece at their home (R104, R124, R145): an owned live cell takes them into its new value; otherwise memory takes them, copies in G elsewhere go, the storing core is the registrant and holds the words in G. -/
def State.writeHome (s : State) (x : Acc) (p : Piece) : State :=
  let s := s.recallRange p.pa p.data.length
  match s.cellAt p.pa with
  | some c => s.updCell c.addr (fun c => { c with new := mergeCell c.new c.addr p.pa p.data })
  | none =>
    let reg := s.copies p
    let s := (wordsOf p.pa p.n).foldl (fun s w => s.dropG w (if reg then some x.core else none)) s
    let s := s.homePut p.pa p.data
    let s := if s.pageClass x.core x.ctx p.va == 2 then s.regionWrite (coreDie x.core) p.pa else s
    let s := s.dropRdc (lineOf p.pa) (some (coreDie x.core))
    if reg then
      let s := s.l1Fill x.core x.asid p.va p.pa p.streaming
        ((wordsOf p.pa p.n).map (fun w => (w % 32, ⟨.g, some (x.wave, x.sfr), s.mem.word (w * 4), .add, false, false, false⟩)))
      { s with registrant := (wordsOf p.pa p.n).foldl (fun t w => t.set w (some x.core)) s.registrant }
    else s

/-- The line leaves every level above the MSC: G words are written back, U words combined, V copies dropped, a dirty L2 copy written to the MSC (R285). -/
def State.clearLine (s : State) (line : Nat) : State :=
  let s := s.recallRange (line * 128) 128
  let s := s.evictAll (fun _ l => l.pline == line)
  (s.dropRdc line none).l2Drop line

/-- STRC before its first data phase to a line: the line leaves the levels above, and is reader-counted (R189, R285). -/
def State.startCount (s : State) (line n : Nat) : State :=
  let s := if s.readerCounted line then s.recallRange (line * 128) 128 else s.clearLine line
  s.mscPut line (s.mem.bytes (line * 128) 128) false n

/-- No data phase of the access has been written to the line; a write that was dropped is none. -/
def Acc.firstOnLine (x : Acc) (line : Nat) : Bool :=
  !x.pieces.any (fun p => p.tgt == .device && lineOf p.pa == line && p.ok && p.err.isNone)

/-- The first piece of a store in the sectors that a test names, by lane: its address is the store's (R125). -/
def Acc.storeVa (x : Acc) (f : Piece → Bool) : DWord :=
  match x.pieces.find? f with
  | some p => p.va
  | none => 0

/-- A write of a store is dropped: its wave learns of it once for the writes that `same` names (R125, R207). -/
def State.dropWrite (s : State) (a i : Nat) (cause sub : BitVec 8) (same : Piece → Bool) : State :=
  let x := s.acc a
  let s := if x.pieces.any (fun p => same p && p.err.isSome) then s
    else s.updWave x.wave (fun v => { v with pend := v.pend ++ [⟨cause, sub, x.storeVa same⟩] })
  s.updPiece a i (fun p => { p with ok := true, err := some (errAt cause sub p.va) })

/-- The sectors that the access covers only in part among those of a piece (R125). -/
def Acc.partOf (x : Acc) (p : Piece) : List Nat := (linesOf p.pa p.n).flatMap (fun l => (lineSecs l).filter (fun k => overlaps (k * 64) 64 p.pa p.n && !x.coversSector k))

/-- The data phase of one piece at its home; the sectors that the store covers in part are read, and a partial store into an uncorrectable one is dropped, and the wave learns of it (R104, R125, R189). -/
def State.registerPiece (s : State) (a i : Nat) : State :=
  let x := s.acc a
  let p := x.pieces.getD i .zero
  let done (s : State) : State := s.updPiece a i (fun p => { p with ok := true })
  match p.tgt with
  | .host => done { s with hostMem := s.hostMem.putOpt p.pa p.data }
  | .peer _ _ => s
  | .device =>
    let part := x.partOf p
    let s := s.fetchSecs part
    if !(s.badSecs part).isEmpty then
      s.dropWrite a i 0x11 6 (fun q => q.tgt == .device && q.pa / 64 == p.pa / 64)
    else
      let s := s.mendSectors (fun k => overlaps (k * 64) 64 p.pa p.n)
      let s := match x.kind with
        | .strc n => if x.firstOnLine (lineOf p.pa) then s.startCount (lineOf p.pa) n else s
        | _ => s
      done (s.writeHome x p)

/-- A data phase waits at its home: a live cell of another wave lies on its bytes, or a sector that the store covers in part waits for the array (R125, R145, R193). -/
def State.dataWaits (s : State) (x : Acc) (p : Piece) : Bool :=
  p.tgt == .device && (s.foreignCell x.wave p.pa p.n || s.secsWait (x.partOf p))

/-- REGISTER (R104, R145): a data phase is taken at its home, or waits there. -/
def execRegister (msg : Nat) (s : State) : Host.Outcome State Fault Refusal :=
  match s.msgAt msg with
  | some m =>
    match m.body with
    | .data a i =>
      let x := s.acc a
      let g := if x.coalesced then List.range x.pieces.length else [i]
      if !s.accs.has a || !canArrive s.net m then ok s
      else if g.any (fun k => s.dataWaits x (x.pieces.getD k .zero)) then ok (s.park msg)
      else ok (g.foldl (fun s k => s.registerPiece a k) (s.delMsg msg))
    | .piece _ _ => ok s
    | .close _ _ => ok s
  | none => ok s

/-- STORE_ACK (R72): every home of the access has answered; the ST counter falls. A DRAFT or an ERASE is read by its held instruction. -/
def execStoreAck (acc : Nat) (s : State) : Host.Outcome State Fault Refusal :=
  let x := s.acc acc
  let all (f : Piece → Bool) : Bool := s.accs.has acc && x.pieces.all f
  match x.kind with
  | .st => if all (fun p => p.st == .acked || (p.st == .dataSent && p.ok)) then ok ((s.landed x.block .st acc).delAcc acc) else ok s
  | .sst => if all (fun p => p.st == .acked || (p.st == .dataSent && p.ok)) then ok ((s.landed x.block .st acc).delAcc acc) else ok s
  | .strc _ => if all (fun p => p.st == .acked || (p.st == .dataSent && p.ok)) then ok ((s.landed x.block .st acc).delAcc acc) else ok s
  | .ink => if all (fun p => p.st == .acked) then ok ((s.landed x.block .st acc).delAcc acc) else ok s
  | .ared _ _ => if all (fun p => p.st == .acked) then ok ((s.landed x.block .st acc).delAcc acc) else ok s
  | _ => ok s

/-- A claim of the SFR waits at the home (R114). -/
def State.claimWaitsAt (s : State) (w sfr home : Nat) : Bool :=
  s.net.any (fun m => m.home == home && (match m.body with
    | .piece a _ => (s.acc a).wave == w && (s.acc a).sfr == sfr && s.accs.has a
    | .data _ _ => false
    | .close _ _ => false))

/-- Sends a queued message: it goes behind everything that its core has sent. -/
def State.sendQueued (s : State) (m : Msg) : State := { s with net := (s.delMsg m.id).net ++ [{ m with queued := false }] }

/-- CLOSE (R108, R109, R111, R198): a queued close is sent once the data before it has left. At its home, once no claim of the SFR waits there, the SFR's claims there are removed, and host accesses that they held proceed. -/
def execClose (msg : Nat) (s : State) : Host.Outcome State Fault Refusal :=
  match s.msgAt msg with
  | some m =>
    match m.body with
    | .close w sfr =>
      if m.queued then (if s.dataQueued w sfr m.home then ok s else ok (s.sendQueued m))
      else if canArrive s.net m && !s.claimWaitsAt w sfr m.home then
        ok ({ (s.delMsg msg) with claims := s.claims.filter (fun c => !(c.wave == w && c.sfr == sfr && homeOf (c.word * 4) == m.home)) } : State).releaseHost
      else ok s
    | .piece _ _ => ok s
    | .data _ _ => ok s
  | none => ok s

/-- EVICT (R103, R111): any line of an L1, at any time. -/
def execEvict (core line : Nat) (s : State) : Host.Outcome State Fault Refusal := ok (s.evictL1 core line (fun _ => true))

/-- The peer takes a posted write or reduction. -/
def State.acceptPosted (s : State) (q : Posted) : State :=
  let m := s.peerMem.get [] q.dev
  let a := q.va.toNat
  { s with peerMem := s.peerMem.set q.dev (match q.red with
    | none => Mem.putOpt m a q.bytes
    | some (op, sg) => Mem.putBytes m a (wordBytes (redWord op sg (Mem.word m a) (BitVec.ofNat 32 (leNat (q.bytes.map (fun b => b.getD 0))))))) }

/-- A write to a peer that is dropped because its link is DOWN: the wave learns of it at its next release at scope .s, which no longer waits for it (R123, R206). -/
def State.dropPosted (s : State) (q : Posted) : State :=
  let s := match q.wave with
    | some w => if s.waves.has w then s.updWave w (fun v => { v with lost := (q.dev, 1) :: v.lost }) else s
    | none => s
  (s.updPiece q.acc q.i (fun p => { p with ok := true })).bufDone q.acc

/-- DELIVER (R111, R123, R204): the peer accepts the posted write at the head of a link's queue; on a link that is DOWN the write is dropped. -/
def execDeliver (link : Nat) (s : State) : Host.Outcome State Fault Refusal :=
  let l := s.link link
  match l.queue with
  | q :: rest =>
    if l.state == 2 then
      let s := (s.updLink link (fun l => { l with queue := rest })).sendFlit link 3 (some (q.va, q.asid, q.src)) false []
      let s := s.acceptPosted q
      ok ((s.updPiece q.acc q.i (fun p => { p with ok := true })).bufDone q.acc)
    else if l.state == 0 then ok ((s.updLink link (fun l => { l with queue := rest })).dropPosted q)
    else ok s
  | [] => ok s

/-! ## Classes and partials -/

/-- The operand word of a piece. -/
def Piece.word (p : Piece) : Word := BitVec.ofNat 32 (leNat (p.data.map (fun b => b.getD 0)))

/-- The page of an address under a context: first virtual address, size and leaf (R100). -/
def State.pageOf (s : State) (c : Nat) (va : DWord) : Option (Nat × Nat × BitVec 64 × Nat) :=
  match s.walk c va with
  | .leaf e level at' => some (va.toNat / 2 ^ pageBits level * 2 ^ pageBits level, 2 ^ pageBits level, e, at')
  | .err _ => none

/-- Sets the class of a page (R107): its translation leaves every cluster TLB, its registered words are written back and its lines leave every L1 and RDC, and the leaf holds the new class. -/
def State.setClass (s : State) (c : Nat) (va : DWord) (cls own : Nat) : State :=
  match s.pageOf c va with
  | some (_, size, e, at') =>
    let base := (leafPlace e (if size = 2 ^ 30 then 2 else if size = 2 ^ 21 then 3 else 4) at' va).pa / size * size
    let s := { s with tlb := s.tlb.filter (fun t => !t.hits t.cluster (s.ctx c).asid va) }
    let s := s.evictAll (fun _ l => overlaps (l.pline * 128) 128 base size)
    let s := { s with rdc := s.rdc.filter (fun r => !overlaps (r.pline * 128) 128 base size) }
    let w := e.toNat - eBits e 7 2 * 2 ^ 7 + cls * 2 ^ 7
    let w := if cls = 0 then w - eBits e 9 2 * 2 ^ 9 + own * 2 ^ 9 else w
    s.deviceWrite at' (leBytes w 8)
  | none => s

/-- The lane's partial is kept in L1: device memory in device bias through a cached or streaming name, on no reader-counted line, and in no open job's footprint, where the home must see it (R119, R121, R189, R200, R278). -/
def State.keepsU (s : State) (p : Piece) : Bool :=
  p.tgt == .device && !p.uncached && !s.readerCounted (lineOf p.pa) && !s.hostBias p.pa && !s.flipping p.pa && (s.jobClaim p.pa true).isNone

/-- The word takes a partial in state U (R119): the same operation combines, another is sent home first, a registered word is written back. -/
def State.putU (s : State) (x : Acc) (p : Piece) (o : AredOp) (sg : Bool) : State :=
  let s := if s.classConflict x p then s.setClass x.ctx p.va 2 0 else s
  let w := (s.core x.core).wordAt x.asid p.va
  let k := p.pa / 4 % 32
  let fill (s : State) (v : Word) : State := s.l1Fill x.core x.asid p.va p.pa p.streaming [(k, ⟨.u, none, v, o, sg, false, false⟩)]
  match w.st with
  | .u => if w.op == o && w.sg == sg then fill s (redWord o sg w.val p.word) else fill (s.combineAt p.pa w.op w.sg w.val) p.word
  | .g => fill { s with registrant := s.registrant.set (p.pa / 4) none } p.word
  | .v => fill s p.word
  | .i => fill s p.word

/-! ## Atomics (R118, R319) -/

/-- The claim message of a piece is next at its home. -/
def State.pieceNext (s : State) (a i : Nat) : Bool :=
  s.net.any (fun m => (match m.body with | .piece b k => b == a && k == i | .data _ _ => false | .close _ _ => false) && canArrive s.net m)

/-- The message of a piece that is next at its home waits there, and keeps no later one back (R108). -/
def State.parkPiece (s : State) (a i : Nat) : State :=
  { s with net := s.net.map (fun m => if m.body == .piece a i && canArrive s.net m then { m with arrived := true } else m) }

/-- The conflict that a checked lane meets: an atomic or a DRAFT with any other open claim, an ARED with the write or read footprint of a job (R110, R118, R119, R121). -/
def State.laneConflict (s : State) (x : Acc) (p : Piece) : Option Conflict :=
  match x.kind with
  | .ared _ _ => (s.claimWords p).findSome? (fun w => (s.jobClaim (w * 4) true).map (fun j => ⟨4, (s.job j).party, w⟩))
  | _ => (s.claimWords p).findSome? (fun w => s.conflictAt w x.wave true)

/-- The check of one lane's bytes at its home: place in home order and conflict (R319). A flip or a class conflict of its page makes it wait (R107, R201). -/
def State.checkPiece (s : State) (a i : Nat) : State :=
  let x := s.acc a
  let p := x.pieces.getD i .zero
  if p.st != .sent || !s.pieceNext a i then s
  else if s.lateDenied x p then
    ((s.dropClaims a [i]).updPiece a i (fun p => { p with st := .atHome, err := some (errAt 0x06 x.kind.right.sub p.va), order := s.seq })).tick
  else
    match p.tgt with
    | .device =>
      if s.flipping p.pa || s.classConflict x p then s.parkPiece a i
      else ((s.dropClaims a [i]).updPiece a i (fun p => { p with st := .atHome, conf := s.laneConflict x p, order := s.seq })).tick
    | .host => ((s.dropClaims a [i]).updPiece a i (fun p => { p with st := .atHome, order := s.seq })).tick
    | .peer dev _ =>
      if s.linkUp dev then
        ((s.dropClaims a [i]).updPiece a i (fun p => { p with st := .atHome, order := s.seq })).tick
      else if s.linkIsDown dev then
        ((s.dropClaims a [i]).updPiece a i (fun p => { p with st := .atHome, err := some (errAt 0x11 13 p.va), order := s.seq })).tick
      else s.parkPiece a i

/-- Every lane has reported or needs no check, and none reports a conflict or an error. -/
def Acc.allClear (x : Acc) : Bool := x.pieces.all (fun p => (p.st == .atHome || p.st == .passed || p.st == .acked) && p.conf.isNone && p.err.isNone)

/-- The piece is a lane that is checked at its home before its event: a lane of an atomic, an ARED or a DRAFT, or a linked lane of a store (R319). -/
def Acc.checkedLane (x : Acc) (q : Piece) : Bool :=
  match x.kind with
  | .atomic _ _ => true | .ared _ _ => true | .draft _ => true
  | _ => q.linked
/-- The bytes that the event of a checked lane concerns: the 8 bytes of a cell, or a word. -/
def Acc.eventSpan (x : Acc) (q : Piece) : Nat × Nat :=
  match x.kind with
  | .atomic _ _ => (q.pa / 4 * 4, 4) | .ared _ _ => (q.pa / 4 * 4, 4)
  | _ => (q.pa / 8 * 8, 8)

/-- A linked lane waits at a live cell of another wave (R149). -/
def State.linkedWaits (s : State) (x : Acc) (p : Piece) : Bool := p.linked && s.foreignCell x.wave p.pa p.n

/-- An event on the bytes that was checked before waits to be performed, and can be: every lane of its instruction is free of conflicts, and none waits at another wave's cell (R319). `own` says whether the access's own lanes count. -/
def State.earlierCheck (s : State) (x : Acc) (p : Piece) (own : Bool) : Bool :=
  s.accs.any (fun y => (own || y.2.seq != x.seq) && y.2.pieces.all (fun q => q.conf.isNone && q.err.isNone && !(q.st == .atHome && s.linkedWaits y.2 q))
    && y.2.pieces.any (fun q => y.2.checkedLane q && q.tgt == p.tgt && q.st == .atHome && decide (q.order < p.order)
        && overlaps (y.2.eventSpan q).1 (y.2.eventSpan q).2 (x.eventSpan p).1 (x.eventSpan p).2))

/-- A lane needs its home's memory, which waits for the array: no live cell holds its bytes (R190 to R193, R212, R213). -/
def State.memoryWaits (s : State) (p : Piece) : Bool := p.tgt == .device && !s.cellOn p.pa p.n && s.arrayWaits p.pa
/-- The array read of such a lane. -/
def State.memoryRead (s : State) (p : Piece) : State := if s.cellOn p.pa p.n then s else s.fetchLine (lineOf p.pa)

/-- A checked lane may be performed: the array holds it back no more, no earlier check of its word waits, the wave's own older writes of it are there, a peer's link is UP, and no live cell of another wave lies there (R110, R145, R206, R319). -/
def State.mayPerform (s : State) (x : Acc) (p : Piece) (own : Bool) : Bool :=
  p.st == .atHome && !s.memoryWaits p && !s.earlierCheck x p own && !s.ownPending x p && !(match p.tgt with | .peer dev _ => !s.linkUp dev | .device => false | .host => false) && !(p.tgt == .device && (match x.kind with | .ared _ _ => false | _ => s.foreignCell x.wave p.pa p.n))

/-- Performs the event of one lane at its home (R118, R119, R145, R290). -/
def State.performPiece (s : State) (a i : Nat) : State :=
  let x := s.acc a
  let p := x.pieces.getD i .zero
  let done (s : State) (v : Word) : State := s.updPiece a i (fun p => { p with st := .acked, val := wordBytes v, ok := true })
  let s := if p.tgt == .device then (s.memoryRead p).recallRange p.pa 4 else s
  let old : Word := match p.tgt with
    | .device => BitVec.ofNat 32 (s.homeNat p.pa 4)
    | .host => s.hostMem.word p.pa
    | .peer dev _ => Mem.word (s.peerMem.get [] dev) p.va.toNat
  let put (s : State) (v : Word) : State := match p.tgt with
    | .device =>
      match s.cellAt p.pa with
      | some c => s.updCell c.addr (fun c => { c with new := mergeCell c.new c.addr p.pa (allBytes (wordBytes v)) })
      | none => s.agentWrite p.pa (allBytes (wordBytes v))
    | .host => { s with hostMem := s.hostMem.putBytes p.pa (wordBytes v) }
    | .peer dev asid =>
      let s := s.sendRequest dev asid p.va
      { s with peerMem := s.peerMem.set dev (Mem.putBytes (s.peerMem.get [] dev) p.va.toNat (wordBytes v)) }
  match x.kind with
  | .atomic op sg =>
    let v := atomWord op sg old p.word (x.cmp.get p.lane)
    let nan := op == 8 && (fF32.decode v.toNat).isNaN
    (done (put s v) old).addStats (s.block x.block).launch x.tid ⟨0, 0, b2n nan⟩
  | .ared op sg =>
    (match p.tgt with
     | .device => done ((s.dropG (p.pa / 4) none).combineAt p.pa op sg p.word) old
     | .host => done (put s (redWord op sg old p.word)) old
     | .peer _ _ => done (put s (redWord op sg old p.word)) old)
  | _ => s

/-- The pieces of an access in the order of their checks. -/
def insertOrder (x : Acc) (i : Nat) : List Nat → List Nat
  | [] => [i]
  | j :: t => if (x.pieces.getD i .zero).order < (x.pieces.getD j .zero).order then i :: j :: t else j :: insertOrder x i t
def orderOf (x : Acc) : List Nat → List Nat
  | [] => []
  | i :: t => insertOrder x i (orderOf x t)

/-- A lane of an ARED that needs no home is kept in L1, or combined at its home where the line is no longer one to keep (R119). -/
def State.keepPiece (s : State) (a i : Nat) : State :=
  let x := s.acc a
  let p := x.pieces.getD i .zero
  match x.kind with
  | .ared op sg => (if s.keepsU p then s.putU x p op sg else (s.dropG (p.pa / 4) none).combineAt p.pa op sg p.word).updPiece a i (fun p => { p with st := .acked, ok := true })
  | _ => s

/-- Performs what may be performed of an access that is clear in every lane; on a reader-counted line all its lanes together, one after another on one word, with one count for the instruction (R189, R319). -/
def State.performAll (s : State) (a : Nat) : State :=
  let x := s.acc a
  if !x.allClear then s
  else
    let s := s.updAcc a (fun x => { x with window := false })
    let counted := ((x.pieces.filter (fun p => p.tgt == .device && p.st == .atHome && s.readerCounted (lineOf p.pa))).map (fun p => lineOf p.pa)).eraseDups
    let idx := orderOf x (List.range x.pieces.length)
    let mayLine (l : Nat) : Bool := x.pieces.all (fun p => lineOf p.pa != l || p.tgt != .device || p.st == .acked || s.mayPerform x p false)
    let s' := idx.foldl (fun s i =>
      let p := (s.acc a).pieces.getD i .zero
      if p.st == .passed then s.keepPiece a i
      else if s.mayPerform x p true && (!counted.contains (lineOf p.pa) || mayLine (lineOf p.pa)) then s.performPiece a i else s) s
    (counted.filter mayLine).foldl (fun s l => s.countRead l) s'

/-- ATOMIC_AT_HOME (R118, R319): lanes are checked in the order given; once every lane is clear, their events are performed in the order of the checks on each word. A conflict leaves every lane undone. -/
def execAtomicAtHome (acc : Nat) (order : List Nat) (s : State) : Host.Outcome State Fault Refusal :=
  let x := s.acc acc
  if !s.accs.has acc then ok s
  else
    match x.kind with
    | .atomic _ _ => ok ((order.foldl (fun s i => s.checkPiece acc i) s).performAll acc)
    | .ared _ _ => ok ((order.foldl (fun s i => s.checkPiece acc i) s).performAll acc)
    | _ => ok s

/-! ## Drafts (R144, R149, R319) -/

/-- Cells of one home slice (R143). -/
def cellCap : Nat := 64
def State.cellsAt (s : State) (home : Nat) : Nat := (s.cells.filter (fun c => homeOf c.addr == home)).length

/-- The check of a draft lane: its place in home order, a reader-counted line, or a conflict on bytes of no live cell (R144, R319). -/
def State.checkDraft (s : State) (a i : Nat) : State :=
  let x := s.acc a
  let p := x.pieces.getD i .zero
  if p.st != .sent || !s.pieceNext a i then s
  else if s.flipping p.pa || s.classConflict x p then s.parkPiece a i
  else if s.lateDenied x p then
    ((s.dropClaims a [i]).updPiece a i (fun p => { p with st := .atHome, err := some (errAt 0x06 4 p.va), order := s.seq })).tick
  else
    let live := (s.cellAt p.pa).isSome
    let rc := !live && s.readerCounted (lineOf p.pa)
    let conf := if live || rc then none else s.laneConflict x p
    ((s.dropClaims a [i]).updPiece a i (fun p =>
      { p with st := .atHome, conf := conf, err := if rc then some (errAt 0x1A 0 p.va) else none, order := s.seq })).tick

/-- Obtains the cell of one lane, or merges into it (R144); a linked lane with no free cell is marked for the settle. -/
def State.obtainCell (s : State) (a i : Nat) : State :=
  let x := s.acc a
  let p := x.pieces.getD i .zero
  let won (s : State) : State := s.updPiece a i (fun p => { p with st := .acked, ok := true })
  let lost (s : State) : State := s.updPiece a i (fun p => { p with st := .acked, ok := false })
  match s.cellAt p.pa with
  | some c =>
    if s.owns x.wave c then won (s.updCell c.addr (fun c => { c with new := mergeCell c.new c.addr p.pa p.data, linked := c.linked || p.linked }))
    else lost s
  | none =>
    if cellCap ≤ s.cellsAt (homeOf p.pa) then (if p.linked then s.updPiece a i (fun p => { p with st := .conflict }) else lost s)
    else
      let base := p.pa / 8 * 8
      let s := (s.fetchLine (lineOf p.pa)).recallRange base 8
      let s := s.evictAll (fun _ l => l.pline == lineOf p.pa)
      let s := s.dropRdc (lineOf p.pa) none
      let old : BitVec 64 := s.mem.dword base
      let b := s.block x.block
      let c : Cell := ⟨base, old, mergeCell old base p.pa p.data, x.ctx, b.launch, b.idx, (s.wave x.wave).idx, false, p.linked, s.seq⟩
      won ({ s with cells := s.cells ++ [c] } : State).tick

/-- The lanes of a draft access that obtain cells: every lane of a DRAFT, the linked lanes of a store. -/
def Acc.draftLanes (x : Acc) : List Nat :=
  (List.range x.pieces.length).filter (fun i => match x.kind with | .draft _ => true | _ => (x.pieces.getD i .zero).linked)

/-- Every lane has reported no conflict: draft lanes checked, plain lanes of the store passed. -/
def Acc.draftClear (x : Acc) : Bool :=
  x.pieces.all (fun p => (p.st.hasPassed || p.st == .atHome || p.st == .conflict) && p.conf.isNone && p.err.isNone)

/-- A checked draft lane may obtain its cell now: the array holds it back no more, no cell of another wave holds a linked lane up, no earlier check on its bytes waits, the wave's own older writes of them are there, and the linked lanes of the instruction come first (R110, R149, R319). -/
def State.mayObtain (s : State) (x : Acc) (p : Piece) : Bool :=
  p.st == .atHome && !s.memoryWaits p && !s.linkedWaits x p && !s.earlierCheck x p true && !s.ownPending x p
    && (p.linked || x.pieces.all (fun q => !q.linked || q.st == .acked))

/-- Once every lane of the access is clear, its draft lanes obtain their cells, each as soon as it may (R144, R319). A linked lane that found no free cell waits for the settle, and the lanes that are not linked wait with it (R149). A linked draft opens the epoch (R137). -/
def State.commitDrafts (s : State) (a : Nat) : State :=
  if !(s.acc a).draftClear then s
  else
    let s := (orderOf (s.acc a) (s.acc a).draftLanes).foldl
      (fun s i => if s.mayObtain (s.acc a) ((s.acc a).pieces.getD i .zero) then s.obtainCell a i else s) s
    let x := s.acc a
    let s := if x.draftLanes.all (fun i => (x.pieces.getD i .zero).st == .acked) then s.updAcc a (fun x => { x with window := false }) else s
    if x.pieces.any (fun p => p.linked && p.st == .acked && p.ok) then s.updWave x.wave (fun v => { v with epoch := true }) else s

/-- DRAFT_AT_HOME (R144, R149, R319): a lane is checked at its home; once every lane is clear, the lanes obtain their cells. -/
def execDraftAtHome (acc lane : Nat) (s : State) : Host.Outcome State Fault Refusal :=
  let x := s.acc acc
  let mine := x.draftLanes.filter (fun i => (x.pieces.getD i .zero).lane == lane)
  if !s.accs.has acc || x.draftLanes.isEmpty then ok s
  else ok ((mine.foldl (fun s i => s.checkDraft acc i) s).commitDrafts acc)

/-- Lanes of an INK or ERASE that name one cell share one action (R288). -/
def Acc.sharing (x : Acc) (p : Piece) : List Nat :=
  (List.range x.pieces.length).filter (fun i => let q := x.pieces.getD i .zero; q.tgt == p.tgt && q.pa / 8 == p.pa / 8 && q.st == .sent)

/-- Answers the lanes that share an action; the check window of the access closes with its last answer. -/
def State.answer (s : State) (a : Nat) (g : List Nat) (v : Bool) : State :=
  (g.foldl (fun s i => s.updPiece a i (fun p => { p with st := .acked, ok := v })) (s.dropClaims a g)).updAcc a
    (fun x => { x with window := x.pieces.any (fun p => p.st != .acked) })

/-- The number of the piece of a lane whose message is next at its home. -/
def State.laneNext (s : State) (a lane : Nat) : Option Nat :=
  (List.range (s.acc a).pieces.length).find? (fun i =>
    ((s.acc a).pieces.getD i .zero).lane == lane && ((s.acc a).pieces.getD i .zero).st == .sent && s.pieceNext a i)

/-- A lane of an INK or ERASE waits at its home: for the wave's own older writes of its bytes, for a flip, or for the class of its page (R107, R110, R201). -/
def State.laneWaits (s : State) (x : Acc) (p : Piece) : Bool :=
  s.ownPending x p || (p.tgt == .device && (s.flipping p.pa || s.classConflict x p))

/-- A lane of an INK or ERASE at its home: it waits there, the table in force there denies it (R209), or it acts. The access of a denied lane traps, and the lanes that have acted stay as they are (log entry 116). -/
def State.laneAtHome (s : State) (acc i : Nat) (act : Piece → State) : State :=
  let x := s.acc acc
  let p := x.pieces.getD i .zero
  if s.laneWaits x p then s.parkPiece acc i
  else if s.lateDenied x p then
    (s.dropClaims acc [i]).updPiece acc i (fun p => { p with st := .atHome, err := some (errAt 0x06 x.kind.right.sub p.va) })
  else act p

/-- INK_AT_HOME (R146, R147). -/
def execInkAtHome (acc lane : Nat) (s : State) : Host.Outcome State Fault Refusal :=
  let x := s.acc acc
  match x.kind, s.laneNext acc lane with
  | .ink, some i => ok (s.laneAtHome acc i (fun p =>
    let g := x.sharing p
    (match (if p.tgt == .device then s.cellAt p.pa else none) with
     | some c => if s.owns x.wave c then (s.inkCell c).answer acc g true else s.answer acc g true
     | none => s.answer acc g true)))
  | _, _ => ok s

/-- ERASE_AT_HOME (R146, R147): an unobserved cell gives back its old value; an observed one keeps the new value, and the lanes learn of it. -/
def execEraseAtHome (acc lane : Nat) (s : State) : Host.Outcome State Fault Refusal :=
  let x := s.acc acc
  match x.kind, s.laneNext acc lane with
  | .erase _, some i => ok (s.laneAtHome acc i (fun p =>
    let g := x.sharing p
    (match (if p.tgt == .device then s.cellAt p.pa else none) with
     | some c =>
       if s.owns x.wave c then
         (if c.observed then (s.inkCell c).answer acc g false else (s.eraseCell c).answer acc g true)
       else s.answer acc g true
     | none => s.answer acc g true)))
  | _, _ => ok s

/-! ## Claim overflow, region merges, reclassification -/

/-- Line entries that an overflow area holds (R114). -/
def overflowCap : Nat := 262144

/-- Lines of a die whose claims lie in the overflow area. -/
def State.overflowLines (s : State) (die : Nat) : Nat :=
  (((s.claims.filter (fun c => c.ovf && dieOf (c.word * 4) == die)).map (fun c => c.word / 32)).eraseDups).length

/-- The oldest claim of a list. -/
def oldestClaim : List Claim → Option Claim
  | [] => none
  | c :: t =>
    match oldestClaim t with
    | none => some c
    | some d => if c.seq ≤ d.seq then some c else some d
/-- The latest claim of each line of a list. -/
def latestClaims (l : List Claim) : List Claim := l.filter (fun c => !l.any (fun d => d.word / 32 == c.word / 32 && decide (c.seq < d.seq)))
/-- A claim of the least recently claimed line of a list: the one whose latest claim is oldest (R114). -/
def oldestLine (l : List Claim) : Option Claim := oldestClaim (latestClaims l)

/-- Moves the claims of a line to the overflow area (R114). -/
def State.moveLine (s : State) (line : Nat) : State :=
  { s with claims := s.claims.map (fun c => if c.word / 32 == line then { c with ovf := true } else c) }

/-- CLAIM_OVERFLOW (R114): an access that waits for room in the claim table moves its line's claims, or those of the least recently claimed line, to the overflow area; with that area full the launch ends with code 0x25. -/
def execClaimOverflow (msg : Nat) (s : State) : Host.Outcome State Fault Refusal :=
  match s.msgAt msg with
  | some m =>
    match m.body with
    | .piece a i =>
      let x := s.acc a
      let p := x.pieces.getD i .zero
      if !s.accs.has a || !m.arrived || p.tgt != .device || s.claimRoom x p then ok s
      else if overflowCap ≤ s.overflowLines (dieOf p.pa) then ok (s.endLaunch (s.block x.block).launch 0x25 0)
      else if s.claims.any (fun c => c.word / 32 == lineOf p.pa) then ok (s.moveLine (lineOf p.pa))
      else
        (match oldestLine (s.claims.filter (fun c => !c.ovf && homeOf (c.word * 4) == homeOf p.pa)) with
         | some c => ok (s.moveLine (c.word / 32))
         | none => ok s)
    | .data _ _ => ok s
    | .close _ _ => ok s
  | none => ok s

/-- REGION_MERGE (R106): two sibling halves with equal masks merge. -/
def execRegionMerge (hub entry : Nat) (s : State) : Host.Outcome State Fault Refusal :=
  let es := s.regions.get [] hub
  match es[entry]? with
  | some e =>
    let sib := if e.base / e.size % 2 = 0 then e.base + e.size else e.base - e.size
    (match es.find? (fun y => y.base == sib && y.k == e.k && y.sharers == e.sharers) with
     | some y =>
       if e.k = 0 then ok s
       else
         let up : RegionEnt := ⟨min e.base sib, e.k - 1, e.sharers, max e.used y.used⟩
         ok { s with regions := s.regions.set hub (up :: es.filter (fun z => z != e && z != y)) }
     | none => ok s)
  | none => ok s

/-- RECLASSIFY (R107): the access that meets a class conflict is held while its page becomes shared. -/
def execReclassify (acc : Nat) (s : State) : Host.Outcome State Fault Refusal :=
  let x := s.acc acc
  match x.pieces.find? (fun p => p.st == .sent && s.classConflict x p) with
  | some p => if s.accs.has acc then ok (s.setClass x.ctx p.va 2 0) else ok s
  | none => ok s

end Sys2Proof.Machine
end

