-- ==== Sys2Proof/Machine/Load.lean ====
section
/-! DEFINITION. Loads: the shared checks of memory instructions, LD, LDS and SLD (spec/25_ref_memory.md R275 to R282). -/

namespace Sys2Proof.Machine

open Sys2Proof

/-! ## Addresses and checks -/

/-- The address of a lane in the form `[sN+vM]` (R275). -/
def State.vaOf (s : State) (n : BitVec 5) (m : BitVec 8) (l : Nat) : DWord :=
  s.fw.s n.toNat + ((s.vreg m.toNat).lanes.get l).setWidth 64
/-- The offset of a lane into scratch (R275). -/
def State.offOf (s : State) (m : BitVec 8) (l : Nat) : Nat := ((s.vreg m.toNat).lanes.get l).toNat
/-- The address of a lane in the pair form (R275). -/
def State.pairVa (s : State) (a : BitVec 8) (l : Nat) : DWord :=
  (s.vreg (a.toNat + 1)).lanes.get l ++ (s.vreg a.toNat).lanes.get l

/-- The lowest guess-use subcode whose lane set is not empty (R135), with the address of the lowest such lane (R277). -/
def useTrap (va : Nat → DWord) : List (BitVec 8 × Mask) → Option Trap
  | [] => none
  | (sub, m) :: t => if m = 0 then useTrap va t else some (trapAt 0x18 sub m (va (lowLane m)))

/-- Check 2 of R277: a guessed guard lane in strict mode, then the uses that the instruction names. Pad lanes and lanes that are not Active are exempt. -/
def State.guessUse (s : State) (va : Nat → DWord) (uses : List (BitVec 8 × Mask)) : Option Trap :=
  useTrap va ((1, if s.strict then s.guardGuess &&& s.touched else 0) :: uses)

/-- The checks of R277 in order: the guessed operands, then the lanes' addresses; with none failed the body goes on with the places. -/
def State.checked (s : State) (use : Option Trap) (c : Checked) (kind : Nat) (k : List (Nat × Place) → Res) : Res :=
  match use with
  | some t => .trap t s
  | none =>
    match c with
    | .ok ps => k ps
    | .trap t => .trap t s
    | .page va => .page va kind s

/-- No place is forbidden beside what the rights say. -/
def anywhere (_ : Nat) (_ : Place) : Bool := false

/-- The pieces of an access: those of each lane in ascending order. -/
def piecesOf (ps : List (Nat × Place)) (va : Nat → DWord) (n : Nat) (d : Nat → List (Option Byte)) : List Piece :=
  ps.flatMap (fun x => lanePieces x.1 (va x.1) x.2 n (d x.1))
/-- The lane reads: it has no data. -/
def noData (_ : Nat) : List (Option Byte) := []

/-- Writes 0 to pad lanes of a register group, their guess bits clear (R58, R279). -/
def State.zeroPads (s : State) (r n : Nat) : State :=
  (List.range n).foldl (fun s i => s.writeV (r + i) (s.active &&& s.padLanes) (fun _ => 0) 0) s

/-- An access that no lane makes still counts in its path, and returns at once (R72). -/
def State.emptyFlight (s : State) (p : Path) : State := s.flight s.fw.block p s.seq true

/-! ## LD -/

/-- The limit of a load: 0xFFFF_FFFF never expires (R127). -/
def limitOf (x : Word) : Option Nat := if x = 0xFFFFFFFF#32 then none else some x.toNat

/-- Issues the requests of a vector load (R279). -/
def State.startLoad (s : State) (i : Instr) (wd : Width) (sign : Bool) (d : Nat) (ag : Mask) (k : BitVec 3) (ps : List Piece) : State :=
  let lim := limitOf (s.fb.lim.get 0 k.toNat)
  let prior := (List.range wd.regs).map (fun j => (s.vreg (d + j)).lanes)
  let x := { s.newAcc i (.ld wd sign) ps with dst := d, regs := wd.regs, lanes := s.touched, addrGuess := ag, limit := lim, prior := prior }
  let s' := s.zeroPads d wd.regs
  if s.touched = 0 then s'.emptyFlight .ld else s'.issueAcc x

/-- LD (R279). A load that no lane makes is charged at issue, since no data returns (log entry 21). -/
def loadVec (i : Instr) (wd : Width) (sign : Bool) (d m : BitVec 8) (n : BitVec 5) (k : BitVec 3) (s : State) : Host.Outcome State Fault Refusal :=
  simple i { path := some .ld, cls := 4 + Config.unservedLevel % 6, times := if s.touched = 0 then 1 else 0 }
    [.v 1 d.toNat wd.regs, .v 2 m.toNat 1, .sr 3 n.toNat]
    (fun s =>
      let va := s.vaOf n m
      let ag := (s.vreg m.toNat).guess &&& s.touched
      s.checked (s.guessUse va [(2, if s.strict then ag else 0)]) (s.checkLanes s.touched va wd.bytes .read 1 anywhere 0 none) 0
        (fun ps => .done (s.startLoad i wd sign d.toNat ag k (piecesOf ps va wd.bytes noData)))) s

def execLdB (S x : Bool) (d m : BitVec 8) (n : BitVec 5) (k : BitVec 3) (s : State) : Host.Outcome State Fault Refusal :=
  loadVec (.ldB S x d m n k) .b false d m n k s
def execLdBS (S : Bool) (d m : BitVec 8) (n : BitVec 5) (k : BitVec 3) (s : State) : Host.Outcome State Fault Refusal :=
  loadVec (.ldBS S d m n k) .b true d m n k s
def execLdH (S x : Bool) (d m : BitVec 8) (n : BitVec 5) (k : BitVec 3) (s : State) : Host.Outcome State Fault Refusal :=
  loadVec (.ldH S x d m n k) .h false d m n k s
def execLdHS (S : Bool) (d m : BitVec 8) (n : BitVec 5) (k : BitVec 3) (s : State) : Host.Outcome State Fault Refusal :=
  loadVec (.ldHS S d m n k) .h true d m n k s
def execLdW (S : Bool) (d m : BitVec 8) (n : BitVec 5) (k : BitVec 3) (s : State) : Host.Outcome State Fault Refusal :=
  loadVec (.ldW S d m n k) .w false d m n k s
def execLdD (S : Bool) (d m : BitVec 8) (n : BitVec 5) (k : BitVec 3) (s : State) : Host.Outcome State Fault Refusal :=
  loadVec (.ldD S d m n k) .d false d m n k s
def execLdQ (S : Bool) (d m : BitVec 8) (n : BitVec 5) (k : BitVec 3) (s : State) : Host.Outcome State Fault Refusal :=
  loadVec (.ldQ S d m n k) .q false d m n k s

/-! ## Scratch -/

/-- The scratch words that lanes touch, with the conflicts that they meet (R115). -/
def State.scratchConflicts (s : State) (lanes : Mask) (off : Nat → Nat) (n : Nat) (wr : Bool) : List (Nat × Conflict) :=
  (lanes8.filter (fun l => lanes.getLsbD l)).flatMap (fun l => (wordsOf (off l) n).filterMap (fun w =>
    match s.scratchConflict s.fw.block w s.focus.wave wr with
    | some c => some (w, c)
    | none => none))
/-- The conflict of the lowest word. -/
def lowestWord : List (Nat × Conflict) → Option (Nat × Conflict)
  | [] => none
  | x :: t =>
    match lowestWord t with
    | none => some x
    | some y => if x.1 ≤ y.1 then some x else some y

/-- The checks of a scratch access, in order: alignment, the range of the block's scratch, the scratch claims (R113, R115, R277). -/
def State.checkScratch (s : State) (lanes : Mask) (off : Nat → Nat) (n : Nat) (wr : Bool) : Option Trap :=
  let at' (l : Nat) : DWord := BitVec.ofNat 64 (off l)
  let mis := maskOf (fun l => lanes.getLsbD l && off l % n != 0)
  let out := maskOf (fun l => lanes.getLsbD l && decide (s.fl.scr * 65536 < off l + n))
  if mis != 0 then some (trapAt 0x07 2 mis (at' (lowLane mis)))
  else if out != 0 then some (trapAt 0x06 (if wr then 2 else 1) out (at' (lowLane out)))
  else
    match lowestWord (s.scratchConflicts lanes off n wr) with
    | some (w, c) =>
      some ⟨0x10, 5, c.party, some (maskOf (fun l => lanes.getLsbD l && (wordsOf (off l) n).contains w)), BitVec.ofNat 64 (w * 4), false⟩
    | none => none

/-- The claims of a scratch access on its words (R115). -/
def State.claimScratch (s : State) (lanes : Mask) (off : Nat → Nat) (n : Nat) (wr : Bool) : State :=
  let ws := ((lanes8.filter (fun l => lanes.getLsbD l)).flatMap (fun l => wordsOf (off l) n)).eraseDups
  s.updBlock s.fw.block (fun b => { b with sclaims := b.sclaims ++ ws.map (fun w => ⟨w, none, s.focus.wave, s.fw.sfr, wr, s.seq⟩) })

/-- A piece of scratch whose bytes are known. -/
def scratchPiece (lane off : Nat) (d : List Byte) : Piece :=
  { Piece.zero with lane := lane, va := BitVec.ofNat 64 off, pa := off, n := d.length, val := d, st := .passed }

/-- Reads the lanes' bytes and leaves the result to return later (R281). -/
def State.startScratch (s : State) (i : Instr) (wd : Width) (d : Nat) (off : Nat → Nat) : State :=
  let b := s.fb
  let ps := (lanes8.filter (fun l => s.touched.getLsbD l)).map (fun l => scratchPiece l (off l) (b.scratch.bytes (off l) wd.bytes))
  let x := { s.newAcc i (.lds wd) ps with dst := d, regs := wd.regs, lanes := s.touched }
  let s' := (s.claimScratch s.touched off wd.bytes false).zeroPads d wd.regs
  if s.touched = 0 then s'.emptyFlight .sc else (s'.setAcc s.seq x).flight s.fw.block .sc s.seq false

/-- LDS (R281). -/
def execLds (S : Bool) (d m : BitVec 8) (wd : Width) (s : State) : Host.Outcome State Fault Refusal :=
  simple (.lds S d m wd) { path := some .sc, cls := 4, times := if s.touched = 0 then 1 else 0 } [.v 1 d.toNat wd.regs, .v 2 m.toNat 1]
    (fun s =>
      let off := s.offOf m
      match s.guessUse (fun l => BitVec.ofNat 64 (off l)) [(2, (s.vreg m.toNat).guess &&& s.touched)] with
      | some t => .trap t s
      | none =>
        match s.checkScratch s.touched off wd.bytes false with
        | some t => .trap t s
        | none => .done (s.startScratch (.lds S d m wd) wd d.toNat off)) s

/-! ## SLD -/

/-- The address of a scalar access (R275). -/
def State.scalarVa (s : State) (a : BitVec 6) (o : BitVec 8) (wd : Width) : DWord :=
  s.sreg a + BitVec.ofNat 64 (o.toNat * wd.bytes)

/-- SLD (R282). -/
def loadScalar (i : Instr) (wd : Width) (d a : BitVec 6) (o : BitVec 8) (s : State) : Host.Outcome State Fault Refusal :=
  simple i { path := some .ld, times := 0 } [.sd 1 d.toNat, .sr 2 a.toNat]
    (fun s =>
      let va := s.scalarVa a o wd
      s.checked none (s.checkLanes 1 (fun _ => va) wd.bytes .read 3 anywhere 0 (some s.mask)) 0
        (fun ps => .done (s.issueAcc
          { s.newAcc i (.sld wd) (piecesOf ps (fun _ => va) wd.bytes noData) with dst := d.toNat, regs := 1, lanes := 1 }))) s

def execSldD (S : Bool) (d a : BitVec 6) (o : BitVec 8) (s : State) : Host.Outcome State Fault Refusal := loadScalar (.sldD S d a o) .d d a o s
def execSldW (S : Bool) (d a : BitVec 6) (o : BitVec 8) (s : State) : Host.Outcome State Fault Refusal := loadScalar (.sldW S d a o) .w d a o s

end Sys2Proof.Machine
end

