-- ==== Sys2Proof/Machine/Store.lean ====
section
/-! DEFINITION. Stores, prefetches and drafts: ST, STS, SST, STRC, PREF, DRAFT, INK and ERASE (spec/25_ref_memory.md R282 to R288, spec/11_guesses_drafts.md R143 to R149). -/

namespace Sys2Proof.Machine

open Sys2Proof

/-! ## Stores -/

/-- The bytes that a lane of a register group stores. -/
def State.storeData (s : State) (r : Nat) (wd : Width) (l : Nat) : List (Option Byte) := allBytes (s.groupBytes r wd.regs wd.bytes l)

/-- Marks the pieces of lanes as linked drafts (R149). -/
def markLinked (linked : Mask) (ps : List Piece) : List Piece := ps.map (fun p => { p with linked := linked.getLsbD p.lane })

/-- The guessed lanes that become linked drafts under speculate mode (R149). -/
def State.linkedLanes (s : State) (m r n : Nat) : Mask :=
  if s.strict then 0 else ((s.vreg m).guess ||| s.groupGuess r n) &&& s.touched

/-- A linked lane that finds no free cell settles first (R149): with success it acts as it would unguessed, and `k` goes on; a failed settle, which has ended the cells of the other linked lanes, raises subcode 4 and nothing is stored. -/
def State.settleLinked (s : State) (k : State → Res) : Res :=
  let a := s.fs.ref
  match s.settleEpoch with
  | .wait w s => .hold 2 w a s
  | .trap t s => .trap t (s.withdraw a)
  | .done false e s => .trap (settleTrap 4 e) (s.withdraw a)
  | .done true _ s =>
    k ((s.updAcc a (fun x => { x with window := true, pieces := x.pieces.map (fun p =>
      if p.linked && p.st == .conflict then { p with linked := false, st := .fresh } else { p with linked := false }) })).sendPieces a)

/-- Some linked lane of the access found no free cell. -/
def Acc.noCell (x : Acc) : Bool := x.pieces.any (fun p => p.linked && p.st == .conflict)
/-- The access leaves its check window, so that a settle may begin. -/
def State.leaveWindow (s : State) (a : Nat) : State := s.updAcc a (fun x => { x with window := false })

/-- The phases of a store after its issue: its linked lanes are answered, and settle where no cell was free (R149). -/
def storePhase (ph : Nat) (s : State) : Res :=
  if ph = 1 then (if (s.acc s.fs.ref).noCell then .hold 2 .none s.fs.ref (s.leaveWindow s.fs.ref) else .done s)
  else s.settleLinked .done

/-- Issues a vector store, whose linked lanes hold the PC slot until their homes have answered. -/
def State.startStore (s : State) (i : Instr) (k : AKind) (linked : Mask) (ps : List Piece) : Res :=
  if s.touched = 0 then .done (s.emptyFlight .st)
  else
    let s' := s.issueAcc { s.newAcc i k (highestStands (markLinked linked ps)) with lanes := s.touched }
    if linked = 0 then .done s' else .hold 1 (.accesses 4 [s.seq]) s.seq s'

/-- ST (R283): a linked lane obtains a cell, so it must name device memory (R144, R278). -/
def execSt (S : Bool) (d m : BitVec 8) (n : BitVec 5) (wd : Width) (s : State) : Host.Outcome State Fault Refusal :=
  let i : Instr := .st S d m n wd
  ok (run i { cls := 10, breaks := true, path := some .st, held := s.linkedLanes m.toNat d.toNat wd.regs != 0 }
    [.v 1 d.toNat wd.regs, .v 2 m.toNat 1, .sr 3 n.toNat]
    (fun ph s =>
      if ph ≠ 0 then storePhase ph s
      else
        let va := s.vaOf n m
        let linked := s.linkedLanes m.toNat d.toNat wd.regs
        let ag := (s.vreg m.toNat).guess &&& s.touched
        let dg := s.groupGuess d.toNat wd.regs &&& s.touched
        s.checked (s.guessUse va [(2, if s.strict then ag else 0), (3, if s.strict then dg else 0)])
          (s.checkLanes s.touched va wd.bytes .write 1 (fun l p => linked.getLsbD l && p.tgt != .device) 4 none) 1
          (fun ps => s.startStore i .st linked (piecesOf ps va wd.bytes (s.storeData d.toNat wd)))) s)

/-- STRC (R285): as ST, with any guessed operand a trap, and a reader count for each line. -/
def execStrc (S : Bool) (d m : BitVec 8) (n : BitVec 5) (wd : Width) (cnt : BitVec 8) (s : State) : Host.Outcome State Fault Refusal :=
  let i : Instr := .strc S d m n wd cnt
  simple i { cls := 10, breaks := true, path := some .st } [.v 1 d.toNat wd.regs, .v 2 m.toNat 1, .sr 3 n.toNat]
    (fun s =>
      let va := s.vaOf n m
      let g := ((s.vreg m.toNat).guess ||| s.groupGuess d.toNat wd.regs) &&& s.touched
      s.checked (s.guessUse va [(4, g)]) (s.checkLanes s.touched va wd.bytes .write 1 anywhere 0 none) 1
        (fun ps => s.startStore i (.strc cnt.toNat) 0 (piecesOf ps va wd.bytes (s.storeData d.toNat wd)))) s

/-- Writes the lanes' bytes into scratch in ascending order of lane, so that the highest stands (R284). -/
def State.putScratch (s : State) (lanes : Mask) (off : Nat → Nat) (d : Nat → List Byte) : State :=
  s.updBlock s.fw.block (fun b => { b with scratch :=
    (lanes8.filter (fun l => lanes.getLsbD l)).foldl (fun m l => Mem.putBytes m (off l) (d l)) b.scratch })

/-- STS (R284). -/
def execSts (S : Bool) (d m : BitVec 8) (wd : Width) (s : State) : Host.Outcome State Fault Refusal :=
  simple (.sts S d m wd) { cls := 10, held := true, path := some .sc } [.v 1 d.toNat wd.regs, .v 2 m.toNat 1]
    (fun s =>
      let off := s.offOf m
      let ag := (s.vreg m.toNat).guess &&& s.touched
      let dg := s.groupGuess d.toNat wd.regs &&& s.touched
      match s.guessUse (fun l => BitVec.ofNat 64 (off l)) [(2, ag), (3, dg)] with
      | some t => .trap t s
      | none =>
        match s.checkScratch s.touched off wd.bytes true with
        | some t => .trap t s
        | none =>
          .done (((s.claimScratch s.touched off wd.bytes true).putScratch s.touched off (s.groupBytes d.toNat wd.regs wd.bytes)).emptyFlight .sc)) s

/-- SST (R282). -/
def storeScalar (i : Instr) (wd : Width) (d a : BitVec 6) (o : BitVec 8) (s : State) : Host.Outcome State Fault Refusal :=
  simple i { cls := 10, breaks := true, path := some .st } [.sr 1 d.toNat, .sr 2 a.toNat]
    (fun s =>
      let va := s.scalarVa a o wd
      s.checked none (s.checkLanes 1 (fun _ => va) wd.bytes .write 3 anywhere 0 (some s.mask)) 1
        (fun ps => .done (s.issueAcc
          { s.newAcc i .sst (piecesOf ps (fun _ => va) wd.bytes (fun _ => allBytes (leBytes (s.sreg d).toNat wd.bytes))) with lanes := 1 }))) s

def execSstD (S : Bool) (d a : BitVec 6) (o : BitVec 8) (s : State) : Host.Outcome State Fault Refusal := storeScalar (.sstD S d a o) .d d a o s
def execSstW (S : Bool) (d a : BitVec 6) (o : BitVec 8) (s : State) : Host.Outcome State Fault Refusal := storeScalar (.sstW S d a o) .w d a o s

/-! ## PREF -/

/-- The lane names a live draft cell or a reader-counted line, so that PREF skips it (R286). -/
def State.prefSkips (s : State) (pa : Nat) : Bool := s.cellOn pa 1 || s.readerCounted (lineOf pa)

/-- A prefetch of a line to a level waits for the array (R190 to R193). -/
def State.prefWaits (s : State) (lv : PrefLevel) (pa : Nat) : Bool :=
  match lv with
  | .msc => (s.mscOf (lineOf pa)).isNone && s.sectorsWait (lineOf pa)
  | .l1 => s.arrayWaits pa
  | .l2 => s.arrayWaits pa
/-- The words of a line that a PREF brings to an L1: those that it does not hold and that lie under no live cell (R145, R286). -/
def State.prefWords (s : State) (x : Acc) (p : Piece) : List (Nat × L1Word) :=
  (s.restOfLine x.core x.asid p.va p.pa).filter (fun w => !s.cellOn (lineOf p.pa * 128 + 4 * w.1) 4)
/-- Fills the line of one lane at a level (R286). A private page of another die first becomes shared (R107). -/
def State.prefLine (s : State) (lv : PrefLevel) (x : Acc) (p : Piece) : State :=
  let s := if s.classConflict x p then s.setClass x.ctx p.va 2 0 else s
  match lv with
  | .l1 =>
    let s := s.fetchLine (lineOf p.pa)
    if s.caches p then s.l1Fill x.core x.asid p.va p.pa p.streaming (s.prefWords x p) else s
  | .l2 =>
    let s := s.fetchLine (lineOf p.pa)
    if s.rdcTakes x p then s.putRdc x p else s.l2Touch (lineOf p.pa) false
  | .msc => s.mscRead (lineOf p.pa)
/-- One lane of a PREF, unless it is skipped; the MSC's table must permit what reaches the MSC (R208). Where the array holds its line back, the core keeps it for later (R286). -/
def State.prefPiece (s : State) (lv : PrefLevel) (x : Acc) (p : Piece) : State :=
  if p.tgt != .device || s.prefSkips p.pa || s.mscDenies x.ctx p.pa .read then s
  else if s.prefWaits lv p.pa then s.updCore x.core (fun c => { c with prefs := c.prefs ++ [⟨lv, x.ctx, p.va⟩] })
  else s.prefLine lv x p
/-- A prefetch that waited: its address is translated and checked anew (R101, R277, R286). -/
def State.prefAgain (s : State) (core : Nat) (q : Prefetch) : State :=
  match s.place (s.clusterOf core) q.ctx q.va .read with
  | .ok p => s.prefPiece q.lv { Acc.zero with kind := .ld .w false, core := core, ctx := q.ctx, asid := (s.ctx q.ctx).asid } (pieceAt 0 q.va p 0 1 [])
  | .error _ => s
/-- The prefetches that the array no longer holds back are done. -/
def State.drainPrefs (s : State) : State :=
  s.cores.foldl (fun s c => c.2.prefs.foldl (fun s q => s.prefAgain c.1 q) (s.updCore c.1 (fun x => { x with prefs := [] }))) s

/-- The lanes of PREF that pass every check, that of a guessed guard lane in strict mode among them (R135, R277, R286). -/
def State.prefLanes (s : State) (va : Nat → DWord) (m : BitVec 8) : List Piece :=
  (lanes8.filter (fun l => (s.touched &&& ~~~(s.vreg m.toNat).guess &&& ~~~(if s.strict then s.guardGuess else 0)).getLsbD l)).flatMap (fun l =>
    match s.place (s.clusterOf s.fb.pcore) s.fl.ctx (va l) .read with
    | .ok p => [pieceAt l (va l) p 0 1 []]
    | .error _ => [])

/-- PREF (R286). -/
def prefetch (i : Instr) (lv : PrefLevel) (m : BitVec 8) (n : BitVec 5) (s : State) : Host.Outcome State Fault Refusal :=
  simple i {} [.v 2 m.toNat 1, .sr 3 n.toNat]
    (fun s =>
      let ps := s.prefLanes (s.vaOf n m) m
      let x := s.newAcc i (.ld .w false) ps
      .done (ps.foldl (fun s p => s.prefPiece lv x p) (s.lookups (ps.map Piece.va)))) s

def execPrefL1 (S : Bool) (m : BitVec 8) (n : BitVec 5) (s : State) : Host.Outcome State Fault Refusal := prefetch (.prefL1 S m n) .l1 m n s
def execPrefL2 (S : Bool) (m : BitVec 8) (n : BitVec 5) (s : State) : Host.Outcome State Fault Refusal := prefetch (.prefL2 S m n) .l2 m n s
def execPrefMsc (S : Bool) (m : BitVec 8) (n : BitVec 5) (s : State) : Host.Outcome State Fault Refusal := prefetch (.prefMsc S m n) .msc m n s

/-! ## Drafts -/

/-- The result bits of an access whose lanes have been answered: the lanes whose pieces all obtained what they asked for. -/
def Acc.okLanes (x : Acc) : Mask := maskOf (fun l => !(x.ofLane l).isEmpty && (x.ofLane l).all Piece.ok)
/-- Lanes of the access that have pieces. -/
def Acc.pieceLanes (x : Acc) : Mask := maskOf (fun l => !(x.ofLane l).isEmpty)

/-- Ends an access that its held instruction has read: its counter falls (R72). -/
def State.endHeld (s : State) (a : Nat) : State := (s.landed (s.acc a).block .st a).delAcc a

/-- DRAFT writes its predicate once every home has answered (R287): pad lanes read 0, guess bits are clear. -/
def State.finishDraft (s : State) (p : BitVec 3) : State :=
  let x := s.acc s.fs.ref
  (s.writeP p x.lanes x.okLanes 0).endHeld s.fs.ref

/-- The phases of DRAFT after its issue (R144, R149). -/
def draftPhase (p : BitVec 3) (ph : Nat) (s : State) : Res :=
  let a := s.fs.ref
  if ph = 1 then (if (s.acc a).noCell then .hold 2 .none a (s.leaveWindow a) else .done (s.finishDraft p))
  else s.settleLinked (fun s => .hold 1 (.accesses 4 [a]) a s)

/-- DRAFT (R287). -/
def draft (i : Instr) (wd : Width) (d m : BitVec 8) (n : BitVec 5) (p : BitVec 3) (s : State) : Host.Outcome State Fault Refusal :=
  ok (run i { cls := 12, held := true, breaks := true, path := some .st } [.v 1 d.toNat wd.regs, .v 2 m.toNat 1, .sr 3 n.toNat]
    (fun ph s =>
      if ph ≠ 0 then draftPhase p ph s
      else
        let va := s.vaOf n m
        let linked := s.linkedLanes m.toNat d.toNat wd.regs
        let ag := (s.vreg m.toNat).guess &&& s.touched
        let dg := s.groupGuess d.toNat wd.regs &&& s.touched
        s.checked (s.guessUse va [(2, if s.strict then ag else 0), (3, if s.strict then dg else 0)])
          (s.checkLanes s.touched va wd.bytes .draft 1 (fun _ p => p.tgt != .device) 4 none) 1
          (fun ps =>
            if s.touched = 0 then .done ((s.writeP p s.active 0 0).emptyFlight .st)
            else
              let x := s.newAcc i (.draft p.toNat) (highestStands (markLinked linked (piecesOf ps va wd.bytes (s.storeData d.toNat wd))))
              .hold 1 (.accesses 4 [s.seq]) s.seq (s.issueAcc { x with lanes := s.active }))) s)

def execDraftW (S x : Bool) (d m : BitVec 8) (n : BitVec 5) (p : BitVec 3) (s : State) : Host.Outcome State Fault Refusal :=
  draft (.draftW S x d m n p) .w d m n p s
def execDraftD (S : Bool) (d m : BitVec 8) (n : BitVec 5) (p : BitVec 3) (s : State) : Host.Outcome State Fault Refusal :=
  draft (.draftD S d m n p) .d d m n p s

/-- The checks of INK and ERASE and their pieces (R288). -/
def State.endDrafts (s : State) (m : BitVec 8) (n : BitVec 5) (k : List Piece → Res) : Res :=
  let va := s.vaOf n m
  s.checked (s.guessUse va [(4, (s.vreg m.toNat).guess &&& s.touched)]) (s.checkLanes s.touched va 4 .draft 1 anywhere 0 none) 1
    (fun ps => k (piecesOf ps va 4 noData))

/-- INK (R288). -/
def execInk (S : Bool) (m : BitVec 8) (n : BitVec 5) (s : State) : Host.Outcome State Fault Refusal :=
  let i : Instr := .ink S m n
  simple i { cls := 10, held := true, breaks := true, path := some .st } [.v 2 m.toNat 1, .sr 3 n.toNat]
    (fun s => s.endDrafts m n (fun ps =>
      if s.touched = 0 then .done (s.emptyFlight .st)
      else .done (s.issueAcc { s.newAcc i .ink ps with lanes := s.touched }))) s

/-- ERASE writes its predicate once every home has answered (R288): a pad lane reads 1. -/
def State.finishErase (s : State) (p : BitVec 3) : State :=
  let x := s.acc s.fs.ref
  (s.writeP p x.lanes (x.okLanes ||| (x.lanes &&& ~~~x.pieceLanes)) 0).endHeld s.fs.ref

/-- ERASE (R288). -/
def execErase (S : Bool) (p : BitVec 3) (m : BitVec 8) (n : BitVec 5) (s : State) : Host.Outcome State Fault Refusal :=
  let i : Instr := .erase S p m n
  ok (run i { cls := 10, held := true, breaks := true, path := some .st } [.v 2 m.toNat 1, .sr 3 n.toNat]
    (fun ph s =>
      if ph ≠ 0 then .done (s.finishErase p)
      else s.endDrafts m n (fun ps =>
        if s.touched = 0 then .done ((s.writeP p s.active s.active 0).emptyFlight .st)
        else .hold 1 (.accesses 2 [s.seq]) s.seq (s.issueAcc { s.newAcc i (.erase p.toNat) ps with lanes := s.active }))) s)

end Sys2Proof.Machine
end

