-- ==== Sys2Proof/Machine/Atomic.lean ====
section
/-! DEFINITION. The returning atomics and ARED (spec/25_ref_memory.md R289 to R291, spec/05_execution.md R63, spec/09_ordering.md R118, R119, R319). -/

namespace Sys2Proof.Machine

open Sys2Proof

/-! ## Orders and scopes -/

/-- Without EXT an atomic is .rlx at scope .v (R32, R289). -/
def amodOf (e : Option AMod) : AMod := e.getD ⟨.v, .rlx⟩
def amodReleases (m : AMod) : Bool := m.order == .rel || m.order == .ar
def amodAcquires (m : AMod) : Bool := m.order == .acq || m.order == .ar

/-- The host port runs CXL (R197). -/
def State.cxl (s : State) : Bool := s.mgmt.hostmode.getLsbD 0

/-- An atomic to host memory needs CXL mode (R278). -/
def State.noAtomics (s : State) (_ : Nat) (p : Place) : Bool := p.tgt == .host && !s.cxl

/-- The checks of an atomic or ARED on its address pair `a` and its operands (R277, R289). -/
def State.checkAtomic (s : State) (a : BitVec 8) (guess : Mask) (k : List (Nat × Place) → Res) : Res :=
  let va := s.pairVa a
  s.checked (s.guessUse va [(4, (s.groupGuess a.toNat 2 ||| guess) &&& s.touched)]) (s.checkLanes s.touched va 4 .atomic 1 s.noAtomics 5 none) 1 k

/-- The phases of an instruction that may release before it acts: phase 0 checks, 1 settles, 2 waits for the release, then `go`. -/
def releasing (m : AMod) (first : State → (State → Res) → Res) (go : State → Res) (ph : Nat) (s : State) : Res :=
  if ph = 2 then s.released (scopeLevel m.scope) (fun s => first s go)
  else if ph = 1 then s.releaseFirst 1 (scopeLevel m.scope) 1
  else first s (fun s => if amodReleases m then s.releaseFirst 1 (scopeLevel m.scope) 1 else go s)

/-! ## Returning atomics -/

/-- The lanes' words as pieces (R290). -/
def State.atomicPieces (s : State) (a b : BitVec 8) (ps : List (Nat × Place)) : List Piece :=
  piecesOf ps (s.pairVa a) 4 (fun l => allBytes (wordBytes ((s.vreg b.toNat).lanes.get l)))

/-- Issues the lanes of an atomic as one access in a new SFR; pad lanes take 0 (R290). -/
def State.startAtomic (s : State) (i : Instr) (op : Nat) (d a b c : BitVec 8) (m : AMod) (ps : List (Nat × Place)) : Res :=
  let s := s.boundary s.focus.wave
  let x := { s.newAcc i (.atomic op (mET s.mode == 0)) (s.atomicPieces a b ps) with
             dst := d.toNat, regs := 1, lanes := s.touched, cmp := (s.vreg c.toNat).lanes }
  let s' := s.zeroPads d.toNat 1
  let s' := if s.touched = 0 then s' else s'.issueAcc x
  if amodAcquires m then .hold 3 (.accesses 3 [s.seq]) s.seq s' else .done s'

/-- The determinism trap (R63): every touched lane fails that check, and the lowest one's address is reported (R277). -/
def State.fixedTrap (s : State) (sub : BitVec 8) (a : BitVec 8) : Trap := trapAt 0x25 sub s.touched (s.pairVa a (lowLane s.touched))

/-- The traps of an atomic before its lanes are checked: fixed order, and membership of the group of its scope (R63, R289). -/
def State.atomicFirst (s : State) (m : AMod) (a : BitVec 8) (guess : Mask) (k : List (Nat × Place) → Res) : Res :=
  if s.fl.fom then .trap (s.fixedTrap 2 a) s
  else
    match s.groupTrap m.scope with
    | some t => .trap t s
    | none => s.checkAtomic a guess k

/-- A returning atomic (R290): its checks, its release, its lanes at their homes and its acquire. -/
def atomic (i : Instr) (op : Nat) (ets : BitVec 16) (d a b c : BitVec 8) (m : AMod) (s : State) : Host.Outcome State Fault Refusal :=
  ok (run i { cls := 10, held := true, breaks := true, ets := ets }
    ([.v 1 d.toNat 1, .v 2 a.toNat 2, .v 3 b.toNat 1, .v 4 c.toNat 1] ++ scopeOpds 4 m.scope)
    (fun ph s =>
      if ph = 3 then .done (s.acquireAt (scopeLevel m.scope))
      else
        let g (s : State) : Mask := (s.vreg b.toNat).guess ||| (s.vreg c.toNat).guess
        releasing m (fun s k => s.atomicFirst m a (g s) (fun _ => k s))
          (fun s => s.atomicFirst m a (g s) (fun ps => s.startAtomic i op d a b c m ps)) ph s) s)

def execAadd (S : Bool) (d a b : BitVec 8) (e : Option AMod) (s : State) : Host.Outcome State Fault Refusal :=
  atomic (.aadd S d a b e) 0 etsAtom d a b b (amodOf e) s
def execAmin (S : Bool) (d a b : BitVec 8) (e : Option AMod) (s : State) : Host.Outcome State Fault Refusal :=
  atomic (.amin S d a b e) 1 etsAtom d a b b (amodOf e) s
def execAmax (S : Bool) (d a b : BitVec 8) (e : Option AMod) (s : State) : Host.Outcome State Fault Refusal :=
  atomic (.amax S d a b e) 2 etsAtom d a b b (amodOf e) s
def execAand (S : Bool) (d a b : BitVec 8) (e : Option AMod) (s : State) : Host.Outcome State Fault Refusal :=
  atomic (.aand S d a b e) 3 etsAtom d a b b (amodOf e) s
def execAor (S : Bool) (d a b : BitVec 8) (e : Option AMod) (s : State) : Host.Outcome State Fault Refusal :=
  atomic (.aor S d a b e) 4 etsAtom d a b b (amodOf e) s
def execAxor (S : Bool) (d a b : BitVec 8) (e : Option AMod) (s : State) : Host.Outcome State Fault Refusal :=
  atomic (.axor S d a b e) 5 etsAtom d a b b (amodOf e) s
def execAxchg (S : Bool) (d a b : BitVec 8) (e : Option AMod) (s : State) : Host.Outcome State Fault Refusal :=
  atomic (.axchg S d a b e) 6 etsAtom d a b b (amodOf e) s
def execAcas (S : Bool) (d a b c : BitVec 8) (e : AMod) (s : State) : Host.Outcome State Fault Refusal :=
  atomic (.acas S d a b c e) 7 etsAtom d a b c e s
def execAfadd (S : Bool) (d a b : BitVec 8) (e : Option AMod) (s : State) : Host.Outcome State Fault Refusal :=
  atomic (.afadd S d a b e) 8 etsF32 d a b b (amodOf e) s

/-! ## ARED -/

/-- An ARED compares signed: .min and .max under ET 0 (R291). -/
def aredSigned (o : AredOp) (et : Nat) : Bool := (o == .min || o == .max) && et == 0

/-- Entries in the fixed-order buffer of the block's logical core (R63). -/
def State.bufCount (s : State) : Nat := (s.abufs.filter (fun e => e.st == .kept && (s.block e.block).lcore == s.fb.lcore)).length

/-- Adds one entry for each lane to the buffer (R63). -/
def State.bufferAred (s : State) (o : AredOp) (sg : Bool) (ps : List Piece) : State :=
  let b := s.fb
  { s with abufs := s.abufs ++ ps.map (fun p => ⟨.kept, s.focus.wave, p.va, b.launch, s.fw.block, b.idx, s.fw.idx, p.lane, s.seq, p.tgt, p.pa, o, sg, p.word⟩) }

/-- The lanes of an ARED act in a new SFR: they are buffered in fixed order, otherwise combined into U words or sent home (R63, R119, R291). Where some lanes go home, the others are combined once no home has denied any, so that a trap finds no lane done. -/
def State.startAred (s : State) (i : Instr) (o : AredOp) (a b : BitVec 8) (ps : List (Nat × Place)) : State :=
  let s := s.boundary s.focus.wave
  let sg := aredSigned o (mET s.mode)
  let x := s.newAcc i (.ared o sg) (s.atomicPieces a b ps)
  let s := s.lookups (x.pieces.map Piece.va)
  if s.fl.fom then (s.bufferAred o sg x.pieces).emptyFlight .st
  else
    let far := x.pieces.filter (fun p => !s.keepsU p)
    if far.isEmpty then (x.pieces.foldl (fun s p => s.putU x p o sg) s).emptyFlight .st
    else s.issueAcc { x with pieces := x.pieces.map (fun p => if s.keepsU p then { p with st := .passed } else p) }

/-- ARED (R291): the ST counter may have reached its limit during the release (R72). -/
def execAred (S : Bool) (o : AredOp) (a b : BitVec 8) (e : Option AMod) (s : State) : Host.Outcome State Fault Refusal :=
  let i : Instr := .ared S o a b e
  let m := amodOf e
  let first (s : State) (k : List (Nat × Place) → Res) : Res :=
    if s.fl.fom && decide (2048 < s.bufCount + countLanes s.touched) then .trap (s.fixedTrap 1 a) s
    else
      match s.groupTrap m.scope with
      | some t => .trap t s
      | none => s.checkAtomic a (s.vreg b.toNat).guess k
  ok (run i { cls := 10, held := true, breaks := true, path := some .st, ets := if o == .fadd then etsF32 else etsAtom }
    ([.v 2 a.toNat 2, .v 3 b.toNat 1] ++ scopeOpds 4 m.scope)
    (releasing m (fun s k => first s (fun _ => k s)) (fun s => first s (fun ps =>
      match s.counterWait s.fw.block (some .st) with
      | some w => .hold 2 w 0 s
      | none => .done (s.startAred i o a b ps)))) s)

end Sys2Proof.Machine
end

