-- ==== Sys2Proof/Machine/Cache.lean ====
section
/-! DEFINITION. Fences and cache control: FENCE, DFLUSH, CFLUSH, CINV, CARVE and PCLASS (spec/25_ref_memory.md R292 to R296, spec/09_ordering.md R117, R122, R126). -/

namespace Sys2Proof.Machine

open Sys2Proof

/-! ## FENCE -/

def fenceReleases (k : FenceKind) : Bool := k != .acq
def fenceAcquires (k : FenceKind) : Bool := k != .rel

/-- Accesses that the .sc wait covers: every one but an atomic or an ARED (R117). -/
def State.plainAccs (s : State) : List Nat :=
  s.accs.keysWhere (fun _ a => a.wave == s.focus.wave && (match a.kind with | .atomic _ _ => false | .ared _ _ => false | _ => true))

/-- The end of a fence: its acquire and its boundary (R292). -/
def State.endFence (s : State) (k : FenceKind) (sc : Scope) : State :=
  (if fenceAcquires k then s.acquireAt (scopeLevel sc) else s).boundary s.focus.wave

/-- FENCE (R292): membership of its group, its release, the wait of .sc, its acquire. -/
def execFence (S : Bool) (k : FenceKind) (sc : Scope) (s : State) : Host.Outcome State Fault Refusal :=
  let tail (s : State) : Res := if k == .sc then .hold 3 (.accesses 5 s.plainAccs) 0 s else .done (s.endFence k sc)
  ok (run (.fence S k sc) { held := true } (scopeOpds 2 sc)
    (fun ph s =>
      if ph = 3 then .done (s.endFence k sc)
      else if ph = 2 then s.released (scopeLevel sc) tail
      else if ph = 1 then s.releaseFirst 1 (scopeLevel sc) 1
      else
        match s.groupTrap sc with
        | some t => .trap t s
        | none => if fenceReleases k then s.releaseFirst 1 (scopeLevel sc) 1 else tail s) s)

/-! ## DFLUSH -/

/-- Sends home every U word of a core's L1 (R293). -/
def State.flushU (s : State) (p : Nat) : State :=
  let us := (s.core p).l1.flatMap (fun l => (l.words.filter (fun w => w.2.st == .u)).map (fun w => ((l.pline * 32 + w.1) * 4, w.2)))
  let s := us.foldl (fun s u => s.combineAt u.1 u.2.op u.2.sg u.2.val) s
  s.updCore p (fun c => { c with l1 := c.l1.map (fun l => { l with words := l.words.mapVals (fun _ w =>
    if w.st == .u then { w with st := .i, stale := false } else w) }) })

/-- DFLUSH (R293): in fixed order it holds its PC slot until every entry has been acknowledged at its home. -/
def execDflush (S : Bool) (s : State) : Host.Outcome State Fault Refusal :=
  ok (run (.dflush S) { held := true } []
    (fun ph s =>
      if ph = 1 then .done s
      else if s.fl.fom then
        let t := s.flushBufs (fun e => e.block == s.fw.block)
        if t.flushOpen (fun e => e.block == s.fw.block) then .hold 1 .flush 0 t else .done t
      else .done (s.flushU s.fb.pcore)) s)

/-! ## Ranges of pages -/

/-- A page of a range: its first address as a 49-bit number, its size, its leaf and the place of the leaf. -/
structure RangePage where
  va : Nat
  size : Nat
  level : Nat
  leaf : BitVec 64
  leafAt : Nat
deriving DecidableEq, Repr

/-- The valid pages of a context that overlap `[lo, hi)`, both 49-bit, in ascending order (R100): a walk over the entries of each table that the range meets. -/
def pagesFrom (s : State) (lo hi : Nat) : List (Nat × Nat × Nat) → Nat → Nat → List RangePage
  | [], _, _ => []
  | (level, sh, w) :: rest, table, base =>
    let i0 := if base < lo then (lo - base) / 2 ^ sh else 0
    let i1 := min (2 ^ w) ((hi - base + 2 ^ sh - 1) / 2 ^ sh)
    (List.range' i0 (i1 - i0)).flatMap (fun i =>
      let at' := table + 8 * i
      let e : BitVec 64 := BitVec.ofNat 64 (s.homeNat at' 8)
      if !e.getLsbD 0 then []
      else if e.getLsbD 1 then (if leafBad level e then [] else [⟨base + i * 2 ^ sh, 2 ^ sh, level, e, at'⟩])
      else if pointerBad level e then []
      else pagesFrom s lo hi rest (eBits e 8 32 * 256) (base + i * 2 ^ sh))

/-- The canonical parts of a byte range as 49-bit intervals: the low half and the high half (R98). -/
def canonParts (a n : Nat) : List (Nat × Nat) :=
  [(a, min (a + n) (2 ^ 48)), (max a (2 ^ 64 - 2 ^ 48) - (2 ^ 64 - 2 ^ 49), min (a + n) (2 ^ 64) - (2 ^ 64 - 2 ^ 49))].filter (fun r => decide (r.1 < r.2))
/-- The address that a 49-bit number stands for. -/
def fullVa (v : Nat) : DWord := BitVec.ofNat 64 (if v < 2 ^ 48 then v else v + (2 ^ 64 - 2 ^ 49))

/-- Bytes of a range that an instruction covers (R294, R296). -/
def rangeLen (x : DWord) : Nat := min x.toNat (2 ^ 40)

/-- A page with the part of it that the range covers. -/
abbrev PagePart := RangePage × Nat × Nat

/-- The pages of a byte range of the issuing wave's context with a valid translation (R294, R296). -/
def State.rangePages (s : State) (a n : Nat) : List PagePart :=
  (canonParts a n).flatMap (fun r =>
    (pagesFrom s r.1 r.2 walkLevels (s.ctx s.fl.ctx).root 0).filterMap (fun p =>
      let q := leafPlace p.leaf p.level p.leafAt (fullVa p.va)
      if q.tgt == .device && inOverflow q.pa then none else some (p, max r.1 p.va, min r.2 (p.va + p.size))))

/-- The place of the part of a page. -/
def partPlace (x : PagePart) : Place := leafPlace x.1.leaf x.1.level x.1.leafAt (fullVa x.2.1)

/-- The first addresses of the pieces of a part over which an access table answers alike. -/
def State.tablePoints (s : State) (target mid a n : Nat) : List Nat :=
  a :: ((s.mgmt.ats.get [] (4096 * target + mid)).flatMap (fun e => [bitsOf e.2.toNat 12 40 * 4096, (bitsOf e.2.toNat 76 40 + 1) * 4096])).filter
    (fun x => decide (a < x) && decide (x < a + n))

/-- The part of a page may be read: its leaf and its target's access table permit it (R294). -/
def State.partReadable (s : State) (x : PagePart) : Bool :=
  let p := partPlace x
  let (target, a) := p.atTarget
  leafAllows x.1.leaf .read && (s.tablePoints target s.fl.ctx a (x.2.2 - x.2.1)).all (fun y => s.permits target s.fl.ctx y .read)

/-- The lines of device memory that a part covers, as first line and last line. -/
def partLines (x : PagePart) : Option (Nat × Nat) :=
  let p := partPlace x
  if p.tgt == .device then some (lineOf p.pa, lineOf (p.pa + (x.2.2 - x.2.1) - 1)) else none
/-- A line lies in one of the ranges. -/
def inLines (rs : List (Nat × Nat)) (l : Nat) : Bool := rs.any (fun r => decide (r.1 ≤ l) && decide (l ≤ r.2))

/-! ## CFLUSH and CINV -/

/-- Earlier stores of the wave to a byte range (R294). -/
def State.storesTo (s : State) (a n : Nat) : List Nat :=
  s.accs.keysWhere (fun _ x => x.wave == s.focus.wave && x.kind.isStore && x.pieces.any (fun p => overlaps p.va.toNat p.n a n))

/-- The write-backs and drops of CFLUSH in every L1 and RDC (R294). -/
def State.flushLines (s : State) (rs : List (Nat × Nat)) : State :=
  let s := s.evictAll (fun _ l => inLines rs l.pline)
  { s with rdc := s.rdc.filter (fun r => !inLines rs r.pline) }

/-- Lines of the ranges whose bytes memory, the array or a live cell names. -/
def State.knownLines (s : State) (rs : List (Nat × Nat)) : List Nat :=
  (((s.mem.map (fun c => lineOf c.1)) ++ (s.array.map (fun c => lineOf c.1)) ++ (s.cells.map (fun c => lineOf c.addr))).filter (inLines rs)).eraseDups

/-- The array takes every line of the ranges, and the levels above it hold them clean; a write-back that still waited is done with, and a sector written whole holds no error (R122, R125, R294). -/
def State.persistLines (s : State) (rs : List (Nat × Nat)) : State :=
  let put (sec : Nat) : Bool := inLines rs (sec / 2) && (s.l2.contains (sec / 2, true) || s.msc.any (fun m => m.line == sec / 2 && m.dirty))
  let s' : State := { s with array := (s.knownLines rs).foldl (fun m l => Mem.putBytes m (l * 128) (s.homeBytes (l * 128) 128)) s.array }
  let s' : State := { s' with l2 := s'.l2.map (fun x => if inLines rs x.1 then (x.1, false) else x)
                              msc := s'.msc.map (fun m => if inLines rs m.line then { m with dirty := false, data := s.homeBytes (m.line * 128) 128 } else m) }
  { s' with weak := s'.weak.filter (fun x => !put x), lost := s'.lost.filter (fun x => !put x)
            hbms := s'.hbms.mapVals (fun k t =>
              { t with late := t.late.filter (fun x => !inLines rs (x.1 / 2))
                       rows := t.rows.map (fun r =>
                         { r with dirty := r.dirty.filter (fun d => !inLines rs (lineOf (rowAddr k r.pci r.bank r.row (d.1 * 64)))) }) }) }

/-- CFLUSH, CFLUSH.persist and CINV (R294): the checks of every page, the wait for the wave's earlier stores to the range, then the effect on its lines. -/
def rangeFlush (i : Instr) (a b : BitVec 6) (act : State → List (Nat × Nat) → State) (s : State) : Host.Outcome State Fault Refusal :=
  ok (run i { held := true } [.sr 1 a.toNat, .sr 2 b.toNat]
    (fun ph s =>
      let base := (s.sreg a).toNat
      let n := rangeLen (s.sreg b)
      let parts := s.rangePages base n
      match parts.find? (fun x => !s.partReadable x) with
      | some x => .trap (trapAt 0x06 1 s.mask (fullVa x.1.va)) s
      | none =>
        let out := s.storesTo base n
        if ph = 0 && !out.isEmpty then .hold 1 (.accesses 2 out) 0 s
        else .done (act s (parts.filterMap partLines))) s)

def execCflush (S : Bool) (a b : BitVec 6) (s : State) : Host.Outcome State Fault Refusal :=
  rangeFlush (.cflush S a b) a b State.flushLines s
def execCflushPersist (S : Bool) (a b : BitVec 6) (s : State) : Host.Outcome State Fault Refusal :=
  rangeFlush (.cflushPersist S a b) a b (fun s rs => (s.flushLines rs).persistLines rs) s
def execCinv (S : Bool) (a b : BitVec 6) (s : State) : Host.Outcome State Fault Refusal :=
  rangeFlush (.cinv S a b) a b (fun s rs =>
    let s' := s.evictAll (fun p l => p == s.fb.pcore && inLines rs l.pline)
    { s' with rdc := s'.rdc.filter (fun r => !(r.die == coreDie s.fb.pcore && inLines rs r.pline)) }) s

/-! ## CARVE and PCLASS -/

/-- CARVE (R295): a request for the issuing block's core replaces an earlier one (R126). -/
def execCarve (S : Bool) (c : BitVec 3) (s : State) : Host.Outcome State Fault Refusal :=
  simple (.carve S c) { held := true } [] (fun s => .done (s.updCore s.fb.pcore (fun x => { x with carveReq := some c.toNat, carveBy := if c.toNat < s.fl.scr then some s.fw.block else none }))) s

def classCode : PClass → Nat
  | .priv => 0 | .ro => 1 | .shared => 2

/-- PCLASS (R296): no page changes when one does not permit writes; the owner of a private page is the die of the issuing core. -/
def execPclass (S : Bool) (a b : BitVec 6) (k : PClass) (s : State) : Host.Outcome State Fault Refusal :=
  simple (.pclass S a b k) { held := true } [.sr 1 a.toNat, .sr 2 b.toNat]
    (fun s =>
      let parts := (s.rangePages (s.sreg a).toNat (rangeLen (s.sreg b))).filter (fun x => (partPlace x).tgt == .device)
      match parts.find? (fun x => !leafAllows x.1.leaf .write) with
      | some x => .trap (trapAt 0x06 2 s.mask (fullVa x.1.va)) s
      | none => .done (parts.foldl (fun s x => s.setClass s.fl.ctx (fullVa x.1.va) (classCode k) (coreDie s.fb.pcore)) s)) s

end Sys2Proof.Machine
end

