-- ==== Sys2Proof/Machine/Fetch.lean ====
section
/-! DEFINITION. Fetching a unit and choosing the PC slot that issues (spec/03_encoding.md R33, R34, spec/05_execution.md R61, R71, spec/09_ordering.md R322, spec/23_ref_scalar_control.md R236, R242). -/

namespace Sys2Proof.Machine

/-! ## Fetch -/

/-- A word at a place, as a fetch reads it; what the host caches dirty comes first (R200). -/
def State.wordAt (s : State) (p : Place) : Word :=
  match p.tgt with
  | .device => BitVec.ofNat 32 ((s.pullHost p.pa 4).homeNat p.pa 4)
  | .host => s.hostMem.word p.pa
  | .peer dev _ => Mem.word (s.peerMem.get [] dev) p.pa

/-- The word at a virtual address as the issuing wave fetches it (R208, R322): `none` when it cannot be fetched. -/
def State.fetchWord (s : State) (va : DWord) : Option Word :=
  match s.place (s.clusterOf s.fb.pcore) s.fl.ctx va .fetch with
  | .ok p =>
    match p.tgt with
    | .device => if s.mscDenies s.fl.ctx p.pa .fetch || (s.badLevel p.pa 4).isSome then none else some (s.wordAt p)
    | .host => some (s.wordAt p)
    | .peer dev _ => if s.linkIsDown dev then none else some (s.wordAt p)
  | .error _ => none
/-- The fetch of a unit waits at one of its words, at most `n` of them: for the link to a peer, or for the array (R33, R193, R206). -/
def State.wordsWait (s : State) (core c : Nat) : Nat → DWord → Bool
  | 0, _ => false
  | n + 1, va =>
    match s.place (s.clusterOf core) c va .fetch with
    | .ok p =>
      (match p.tgt with | .peer dev _ => s.linkHolds dev | .device => s.arrayWaits p.pa | .host => false)
        || (isPfx (s.wordAt p) && s.wordsWait core c n (va + 4))
    | .error _ => false
/-- The fetch of a PC slot waits. -/
def State.fetchHeld (s : State) (w : Nat) (sl : Slot) : Bool :=
  let b := s.block (s.wave w).block
  sl.held.isNone && s.wordsWait b.pcore (s.launch b.launch).ctx 3 sl.path.pc

/-- The words of a unit, or the address of the word that cannot be fetched (R33). -/
def State.fetchWords (s : State) (pc : DWord) : Except DWord (Word × Word × Word) :=
  match s.fetchWord pc with
  | none => .error pc
  | some w0 =>
    if !isPfx w0 then .ok (w0, 0, 0)
    else
      match s.fetchWord (pc + 4) with
      | none => .error (pc + 4)
      | some w1 =>
        if !isPfx w1 then .ok (w0, w1, 0)
        else
          match s.fetchWord (pc + 8) with
          | none => .error (pc + 8)
          | some w2 => .ok (w0, w1, w2)

/-- A branch landed on an instruction that requires a prefix, and the word just before it is a prefix: that word (R34). -/
def State.splitUnit (s : State) (w0 : Word) : Option Word :=
  if s.fs.branched && !isPfx w0 && requiresExt w0 then
    match s.fetchWord (s.pc - 4) with
    | some q => if isPfx q then some q else none
    | none => none
  else none

/-- The unit at the PC of the issuing slot: an instruction, or one of the two rows for a fetch that gives none (R33, R34, R47, R236). -/
def State.fetchUnit (s : State) : Instr :=
  match s.fetchWords s.pc with
  | .error va => .instructionFetchFault va
  | .ok (w0, w1, w2) =>
    match s.splitUnit w0 with
    | some q => .illegalInstruction 2 0 q (-4)
    | none =>
      match decodeUnit w0 w1 w2 with
      | .ok (i, _) => i
      | .error r => .illegalInstruction r.cause r.sub r.word r.off

/-- A fetch of a word is a read of the fetching wave: a private page of another die becomes shared first (R107), what only the array holds is read there and kept (R188, R190, R194), another wave's live cell is observed (R145), and a peer is sent a request (R204, R207). -/
def State.observeFetch (s : State) (va : DWord) : State :=
  let cl := s.clusterOf s.fb.pcore
  match s.place cl s.fl.ctx va .fetch with
  | .ok p =>
    match p.tgt with
    | .device =>
      let s := if (s.lookup cl s.fl.ctx va).conflicts (coreDie s.fb.pcore) false then s.setClass s.fl.ctx va 2 0 else s
      let s := if s.aboveArray (lineOf p.pa) then s else (s.fetchLine (lineOf p.pa)).l2Touch (lineOf p.pa) false
      s.observeCells s.focus.wave p.pa 4
    | .host => s
    | .peer dev asid => s.sendRequest dev asid va
  | .error _ => s
/-- The addresses of the words that a fetch at the PC reads (R33). -/
def State.fetchedAt (s : State) : List DWord :=
  match s.fetchWords s.pc with
  | .error _ => []
  | .ok (w0, w1, _) => (List.range (unitWords w0 w1)).map (fun k => s.pc + BitVec.ofNat 64 (4 * k))

/-- The state after the fetch of the unit at the PC: the cluster TLB holds the translation (R102), and live cells are observed (R145). -/
def State.afterFetch (s : State) : State :=
  (s.fetchedAt.foldl State.observeFetch s).afterLookup (s.clusterOf s.fb.pcore) s.fl.ctx s.pc

/-! ## The slot scheduler -/

/-- A PC slot is ready (R71): live, its block resident, not stopped by a handler in the other slot, not parked, not at a join, its check window within 64 instructions, what it waits for has come about, and its fetch waits for nothing. -/
def State.ready (s : State) (w : Nat) (sb : Bool) : Bool :=
  let v := s.wave w
  let sl := v.slot sb
  !v.exited && sl.live && (s.block v.block).st == .resident && (v.handler.isNone || v.handler == some sb)
    && !v.atJoin sb && !(sl.parked && s.outstanding w sb)
    && !(s.core (s.block v.block).pcore).entering.contains v.block
    && decide (s.windowUse w sb ≤ 64) && s.waitOver w sl.wait && !s.fetchHeld w sl

/-- A candidate of a choice point: wave and PC slot. -/
abbrev Cand := Nat × Bool

/-- The PC slots of an issue slot of a core that are ready (R62, R71). -/
def State.cands (s : State) (p k : Nat) : List Cand :=
  ((s.waves.filter (fun x => x.2.idx % 8 == k && (s.block x.2.block).pcore == p && (s.block x.2.block).st == .resident)).map Prod.fst).flatMap
    (fun w => [(w, false), (w, true)].filter (fun c => s.ready c.1 c.2))

/-- The wave of `a` became resident before that of `b`, or they are one wave and slot `a` did not issue last (R71). -/
def State.older (s : State) (a b : Cand) : Bool :=
  if a.1 == b.1 then a.2 != (s.wave a.1).lastB
  else if (s.wave a.1).since == (s.wave b.1).since then decide (a.1 < b.1)
  else decide ((s.wave a.1).since < (s.wave b.1).since)

/-- The oldest candidate of a list. -/
def State.oldest (s : State) : List Cand → Option Cand
  | [] => none
  | c :: t =>
    match s.oldest t with
    | none => some c
    | some d => if s.older c d then some c else some d

/-- The choice of a slot scheduler (R61, R71, R242): a slot passed over 64 times, of whichever logical core (log entry 105); otherwise the oldest among those of the active logical core that have not yielded, then among those that have not yielded, then among all. -/
def State.choose (s : State) (p : Nat) (cs : List Cand) : Option Cand :=
  let starved := cs.filter (fun c => decide (64 ≤ ((s.wave c.1).slot c.2).passed))
  let keen := cs.filter (fun c => !((s.wave c.1).slot c.2).yielded)
  let home := keen.filter (fun c => match (s.core p).active with | some l => (s.block (s.wave c.1).block).lcore == l | none => true)
  if !starved.isEmpty then s.oldest starved
  else if !home.isEmpty then s.oldest home
  else if !keen.isEmpty then s.oldest keen
  else s.oldest cs

/-- A PC slot after a choice point of its scheduler: passed over once more when it was ready and is not the one picked, otherwise not passed over; a yield lasts for one choice point (R71, R242). -/
def Slot.seen (sl : Slot) (skipped : Bool) : Slot := { sl with passed := if skipped then sl.passed + 1 else 0, yielded := false }
/-- Both PC slots of a wave after a choice point. -/
def Wave.seen (v : Wave) (a b : Bool) : Wave := { v with slotA := v.slotA.seen a, slotB := v.slotB.seen b }

/-- The waves of an issue slot of a core after a choice point that picked `c` among the ready slots `cs` (R71, R242). -/
def State.passOver (s : State) (p k : Nat) (cs : List Cand) (c : Cand) : State :=
  let skipped (d : Cand) : Bool := cs.contains d && d != c
  { s with waves := s.waves.mapVals (fun w v =>
      if v.idx % 8 == k && (s.block v.block).pcore == p && (s.block v.block).st == .resident then v.seen (skipped (w, false)) (skipped (w, true)) else v) }

/-- ISTHR of every 16 core cycles are gated: the first of each 16 (R212, log entry 25). -/
def State.gated (s : State) (p : Nat) : Bool := decide ((s.core p).cyc.toNat % 16 < bitsOf s.mgmt.pwrstat.toNat 9 4)
/-- A core that hosts two logical cores has issued the whole slice of the active one, and has not switched (R61). -/
def State.sliceOver (s : State) (p : Nat) : Bool := (s.core p).slice == 0 && (s.hosts p).length == 2

/-- One choice point of an issue slot: nothing when it has issued in this core cycle, the clock is stopped or no slot is ready; otherwise the state that issues, its focus on the chosen slot. -/
def State.pick (s : State) (p k : Nat) : Option State :=
  if !s.clockRuns || (s.core p).usedSlots.contains k || s.sliceOver p || s.gated p then none
  else
    let cs := s.cands p k
    match s.choose p cs with
    | none => none
    | some c =>
      let s := s.passOver p k cs c
      let s := s.updCore p (fun x => { x with usedSlots := k :: x.usedSlots })
      some { s with focus := ⟨c.1, c.2⟩ }

/-- The unit that the focused slot issues: the one that it holds, or the one at its PC. -/
def State.unit (s : State) : Instr :=
  match s.fs.held with
  | some i => i
  | none => s.fetchUnit

/-- The state in which the unit issues: a fetch leaves its translation in the TLB. -/
def State.atIssue (s : State) : State :=
  match s.fs.held with
  | some _ => s
  | none => s.afterFetch

/-- The first choice of an empty agenda: the first core and issue slot, in order of number, that can issue. -/
def State.firstIssue (s : State) : Option Turn :=
  let cores := (s.cores.map Prod.fst) ++ ((s.blocks.filter (fun b => b.2.st == .resident)).map (fun b => b.2.pcore))
  match (cores.eraseDups.flatMap (fun p => (List.range 8).map (fun k => (p, k)))).find? (fun x => (s.pick x.1 x.2).isSome) with
  | some x => some (.issue x.1 x.2)
  | none => none

/-- The host and peers change their own memory (log entry 19). -/
def State.hostPoke (s : State) (a : Nat) (b : Byte) : State := { s with hostMem := s.hostMem.put a b }
def State.peerPoke (s : State) (dev a : Nat) (b : Byte) : State :=
  { s with peerMem := s.peerMem.set dev (Mem.put (s.peerMem.get [] dev) a b) }

/-! ## A state whose next instruction is given -/

/-- The place where the model puts a program when it is asked for one: virtual and device address 0x10000. -/
def bootVa : Nat := 0x10000
def bootRoot : Nat := 0x2000
def bootTable : Nat := 0x4000

/-- Page tables, program bytes, launch, block and wave of a one-wave program with every register declared (log entry 20). -/
def bootMem (m : Mem) (code : List Byte) : Mem :=
  ((m.putNat bootRoot (bootTable + 1) 8).putNat bootTable 0x11F 8).putBytes bootVa code
def bootLaunch : Launch := { Launch.zero with st := .running, waves := 1, vregs := 256, sregs := 64, accs := 16, scr := 7, frameVa := 0x1000000000000#64 - 0x800000000000#64, live := 1, frames := [0], next := 1 }
def bootBlock : Block := { Block.zero with st := .resident, waves := [0] }
def bootWave : Wave :=
  { Wave.zero with exited := false, launchMask := 0xFF,
                   slotA := { Slot.zero with live := true, path := ⟨BitVec.ofNat 64 bootVa, 0xFF, 0, none⟩ } }

/-- The state with a program at the PC of a resident wave that is about to issue. -/
def State.boot (s : State) (code : List Byte) : State :=
  { s with
    mem := bootMem s.mem code
    launches := s.launches.set 0 bootLaunch
    blocks := s.blocks.set 0 bootBlock
    waves := s.waves.set 0 bootWave
    mgmt := { s.mgmt with ctxs := s.mgmt.ctxs.set 0 ⟨true, bootRoot, 1⟩, ats := (s.mgmt.ats.set 0 [(0, grantAll)]).set (4096 * (4 + stackOf bootVa)) [(0, grantAll)] }
    agenda := [.issue 0 0] }

end Sys2Proof.Machine
end

