-- ==== Sys2Proof/Machine/Control.lean ====
section
/-! DEFINITION. Control flow and the system instructions: branches, indirect jumps and their tables, regions, traps by software, the return from a handler, special registers, MODE, limits, counter waits and LAUNCH (spec/23_ref_scalar_control.md R235 to R249, R251, spec/05_execution.md R66 to R73). -/

namespace Sys2Proof.Machine

open Sys2Proof

/-! ## Addresses -/

/-- The address of the unit's instruction word, and of the word after it (R227). -/
def State.wordPc (s : State) (i : Instr) : DWord := s.pc + BitVec.ofNat 64 (4 * (i.words - 1))
def State.nextPc (s : State) (i : Instr) : DWord := s.pc + BitVec.ofNat 64 (4 * i.words)
/-- Target(off): words from the instruction word (R227). -/
def State.target (s : State) (i : Instr) {w : Nat} (off : BitVec w) : DWord := s.wordPc i + off.signExtend 64 * 4
/-- The path of the issuing slot goes to an address. -/
def State.jumpTo (s : State) (pc : DWord) : State :=
  s.updWave s.focus.wave (fun v => v.updSlot s.focus.slotB (fun sl => { sl with path := { sl.path with pc := pc } }))

/-! ## Whole-path transfers -/

/-- BR (R235). -/
def execBr (S : Bool) (off : BitVec 24) (s : State) : Host.Outcome State Fault Refusal :=
  simple (.br S off) {} [] (fun s => .goto (s.jumpTo (s.target (.br S off) off))) s
/-- CALL (R235): s63 takes the address of the next word. -/
def execCall (S : Bool) (off : BitVec 24) (s : State) : Host.Outcome State Fault Refusal :=
  simple (.call S off) {} [.sd 1 63]
    (fun s => .goto ((s.writeS 63 (s.nextPc (.call S off))).jumpTo (s.target (.call S off) off))) s
/-- BRS (R235). -/
def execBrs (S : Bool) (c : BCond) (a : BitVec 6) (off : BitVec 16) (s : State) : Host.Outcome State Fault Refusal :=
  simple (.brs S c a off) {} [.sr 1 a.toNat]
    (fun s => if condB c (s.sreg a) then .goto (s.jumpTo (s.target (.brs S c a off) off)) else .done s) s
/-- RET (R235): an address that is no multiple of 4 raises the fetch fault with subcode 2 (R236). -/
def execRet (S : Bool) (a : BitVec 6) (s : State) : Host.Outcome State Fault Refusal :=
  simple (.ret S a) {} [.sr 1 a.toNat]
    (fun s => if (s.sreg a).toNat % 4 = 0 then .goto (s.jumpTo (s.sreg a)) else .trap (trapAt 0x04 2 s.mask (s.sreg a)) s) s

/-! ## Divergent branches -/

/-- Splits the issuing path (R66): it waits for closed check windows, since other slots and the spill stack take part; a full spill stack raises the spill-overflow trap. Entries beyond the latest eight go to the wave's area of its frame (R65). -/
def State.splitPath (s : State) (targets : List (DWord × Mask)) (join : DWord) : Res :=
  if !s.waitOver s.focus.wave .window then .hold 0 .window 0 s
  else
    match s.fw.split s.focus.slotB s.fl.spillD targets join with
    | some w =>
      let s := s.setWave s.focus.wave w
      .goto (if 8 < w.spill.length then s.writeFrame s.fw.block else s)
    | none => .trap (trapOf 0x22 0) s

/-- BRV (R237). -/
def execBrv (S : Bool) (n : Bool) (p : BitVec 3) (off join : BitVec 16) (s : State) : Host.Outcome State Fault Refusal :=
  let i : Instr := .brv S n p off join
  simple i {} []
    (fun s =>
      let g := (s.preg p).guess &&& s.mask
      let t := (if n then ~~~(s.preg p).bits else (s.preg p).bits) &&& s.mask
      if g != 0 && s.strict then .trap (trapAt 0x18 1 g 0) s
      else if t = 0 then .done s
      else if t = s.mask then .goto (s.jumpTo (s.target i off))
      else s.splitPath [(s.nextPc i, s.mask &&& ~~~t), (s.target i off, t)] (s.target i join)) s

/-- The distinct targets of lanes with their lane sets, in order of their lowest lane (R238). -/
def groupTargets (f : Nat → DWord) (m : Mask) : List Nat → List (DWord × Mask)
  | [] => []
  | l :: t =>
    if !m.getLsbD l then groupTargets f m t
    else
      let same := maskOf (fun k => m.getLsbD k && f k == f l)
      (f l, same) :: groupTargets f (m &&& ~~~same) t

/-- JMPI (R238). -/
def execJmpi (S : Bool) (vi : BitVec 8) (t : BitVec 3) (join : BitVec 16) (s : State) : Host.Outcome State Fault Refusal :=
  let i : Instr := .jmpi S vi t join
  simple i {} [.v 1 vi.toNat 1]
    (fun s =>
      let v := s.vreg vi.toNat
      let g := v.guess &&& s.mask
      if g != 0 && s.strict then .trap (trapAt 0x18 1 g 0) s
      else
        match s.fb.tabs.get none t.toNat with
        | none => .trap (trapOf 0x21 3) s
        | some tab =>
          if s.target i join != tab.join then .trap (trapOf 0x21 2) s
          else
            let bad := maskOf (fun l => s.mask.getLsbD l && decide (tab.targets.length ≤ (v.lanes.get l).toNat))
            if bad != 0 then .trap (trapAt 0x21 1 bad 0) s
            else
              match groupTargets (fun l => tab.targets.getD (v.lanes.get l).toNat 0) s.mask lanes8 with
              | [] => .done s
              | [x] => .goto (s.jumpTo x.1)
              | ts => s.splitPath ts (s.target i join)) s

/-! ## TABSET -/

/-- An entry of a table is at fault (R68): no multiple of 4, outside the executable pages, or just after a prefix. A target whose page is not mapped faults only when it is fetched. -/
def State.badEntry (s : State) (e : DWord) : Bool :=
  let after := match s.fetchWord (e - 4) with
    | some w => isPfx w
    | none => false
  e.toNat % 4 != 0 || after ||
    (match s.place (s.clusterOf s.fb.pcore) s.fl.ctx e .fetch with
     | .ok _ => false
     | .error .unmapped => false
     | .error (.fault _ _) => true)

/-- The index of the first entry at fault. -/
def State.firstBad (s : State) (es : List DWord) : Option Nat := (List.range es.length).find? (fun k => s.badEntry (es.getD k 0))

/-- The translations of the entries of a table, in the order of the checks of R277: the first failure, or the places. -/
def State.tablePlaces (s : State) (a : DWord) (n : Nat) : Checked :=
  let res := (List.range n).map (fun k => (k, s.place (s.clusterOf s.fb.pcore) s.fl.ctx (a + BitVec.ofNat 64 (8 * k)) .read))
  let va (k : Nat) : DWord := a + BitVec.ofNat 64 (8 * k)
  match res.find? (fun x => isPageFault x.2) with
  | some x => .trap (trapAt 0x05 (faultSub res 0 x.1) s.mask (va x.1))
  | none =>
    match res.find? (fun x => isUnmapped x.2) with
    | some x => .page (va x.1)
    | none =>
      match res.find? (fun x => isDenied anywhere x.1 x.2) with
      | some x => .trap (trapAt 0x06 (faultSub res 0 x.1) s.mask (va x.1))
      | none => .ok (placesOf res)

/-- The entries that the reads of a table have returned. -/
def Acc.entries (x : Acc) : List DWord := x.pieces.map (fun p => BitVec.ofNat 64 (leNat p.val))

/-- The end of TABSET: the entries are checked and the table is copied (R239). -/
def State.finishTable (s : State) (t : BitVec 3) : Res :=
  let a := s.fs.ref
  let x := s.acc a
  match failTrap x.pieces (some s.mask) none with
  | some tr => .trap tr (s.withdraw a)
  | none =>
    match s.firstBad x.entries with
    | some k => .trap (trapAt 0x21 4 s.mask (BitVec.ofNat 64 k)) (s.retire a)
    | none =>
      .done ((s.retire a).updBlock s.fw.block (fun b => { b with tabs := b.tabs.set t.toNat (some ⟨x.entries.headD 0, x.entries.drop 1⟩) }))

/-- TABSET (R239). -/
def execTabset (S : Bool) (t : BitVec 3) (a b : BitVec 6) (s : State) : Host.Outcome State Fault Refusal :=
  let i : Instr := .tabset S t a b
  ok (run i { held := true } [.sr 2 a.toNat, .sr 3 b.toNat]
    (fun ph s =>
      if ph ≠ 0 then s.finishTable t
      else
        let va := s.sreg a
        let n := (s.sreg b).toNat
        if va.toNat % 8 ≠ 0 then .trap (trapAt 0x07 3 s.mask va) s
        else if n = 0 || decide (256 < n) then .trap (trapAt 0x21 4 s.mask (-1)) s
        else if !canonical va || !canonical (va + BitVec.ofNat 64 (8 * n)) then
          .trap (trapAt 0x05 2 s.mask (if canonical va then va + BitVec.ofNat 64 (8 * n) else va)) s
        else s.checked none (s.tablePlaces va (n + 1)) 0 (fun ps =>
          let pieces := ps.map (fun x => pieceAt 0 (va + BitVec.ofNat 64 (8 * x.1)) x.2 0 8 [])
          .hold 1 (.accesses 1 [s.seq]) s.seq (s.issueAcc { s.newAcc i .tab pieces with lanes := 1 }))) s)

/-! ## Regions, yielding, traps -/

/-- The wave is converged: one live slot, an empty spill stack and the launch mask (R69). -/
def State.converged (s : State) : Bool :=
  !(s.fw.slot (!s.focus.slotB)).live && s.fw.spill.isEmpty && s.mask == s.fw.launchMask

/-- REGION (R73, R241): a converged wave below handler level opens a region at the REGION word. -/
def execRegion (S : Bool) (v r : BitVec 6) (s : State) : Host.Outcome State Fault Refusal :=
  simple (.region S v r) { held := true } [.sr 1 v.toNat, .sr 2 r.toNat]
    (fun s =>
      if s.fw.handler.isSome then .done s
      else
        let reg : Option Region := if s.converged then some ⟨s.pc, s.sreg v, (s.sreg r).setWidth 32, s.mode, s.mask⟩ else none
        .done (s.updWave s.focus.wave (fun w => { w with region := reg }))) s

/-- YIELD (R242). -/
def execYield (S : Bool) (s : State) : Host.Outcome State Fault Refusal :=
  simple (.yield S) {} [] (fun s =>
    .done (s.updWave s.focus.wave (fun v => v.updSlot s.focus.slotB (fun sl => { sl with yielded := true })))) s

/-- TRAP (R243). -/
def execTrap (S : Bool) (code : BitVec 8) (s : State) : Host.Outcome State Fault Refusal :=
  simple (.trap S code) {} [] (fun s => .trap { trapOf 0x30 code with next := true } s) s

/-- RTE (R244). -/
def execRte (S : Bool) (s : State) : Host.Outcome State Fault Refusal :=
  simple (.rte S) { held := true, handlerOnly := true } []
    (fun s =>
      if s.fw.xpc.toNat % 4 = 0 then .goto (s.updWave s.focus.wave (fun v => v.returnFrom s.focus.slotB))
      else .trap (trapAt 0x04 2 s.mask s.fw.xpc) s) s

/-- HALT (R245). -/
def execHalt (S : Bool) (s : State) : Host.Outcome State Fault Refusal :=
  simple (.halt S) { held := true, handlerOnly := true } []
    (fun s => .ended ((s.bill {}).endLaunch s.fb.launch 0x20 s.fw.xcause.toNat)) s

/-! ## Special registers -/

/-- The slot of the issuing pair, when one is bound (R217). -/
def State.pairSlot (s : State) : ESlot :=
  let c := s.core s.fb.pcore
  match c.slotOf (s.pairOf s.fw.block) with
  | some k => c.eslots.get ESlot.zero k
  | none => .zero

/-- The value of a special register whose read is not long-latency (R246). -/
def State.special (s : State) : SReg → DWord
  | .wave => BitVec.ofNat 64 s.fw.idx
  | .block => BitVec.ofNat 64 s.fb.idx
  | .lcore => BitVec.ofNat 64 s.fb.lcore
  | .pcore => BitVec.ofNat 64 s.fb.pcore
  | .ctx => BitVec.ofNat 64 s.fl.ctx
  | .sh n => (s.fl.sh.get 0 n.toNat).setWidth 64
  | .gexposed => s.fw.gexposed
  | .xpc => s.fw.xpc
  | .xmode => s.fw.xmode.setWidth 64
  | .xcause => s.fw.xcause
  | .xlanes => s.fw.xlanes.setWidth 64
  | .xaddr => s.fw.xaddr
  | .ecnt => s.pairSlot.val.setWidth 64
  | .estat => if s.pairSlot.esat then 1 else 0
  | .cyc => (s.core s.fb.pcore).cyc
/-- Reads of ECNT and CYC are long-latency (R27, R246). -/
def slowSpecial (x : SReg) : Bool := x == .ecnt || x == .cyc

/-- MFSR (R246): a long-latency read is known at its issue, and returns later. -/
def execMfsr (S : Bool) (d : BitVec 6) (x : SReg) (s : State) : Host.Outcome State Fault Refusal :=
  let i : Instr := .mfsr S d x
  simple i {} [.sd 1 d.toNat]
    (fun s =>
      if slowSpecial x then .done (s.setAcc s.seq { s.newAcc i (.mfsr (s.special x)) [] with dst := d.toNat, regs := 1, lanes := 1 })
      else .done (s.writeS d (s.special x))) s

/-- An X register, which MTSR may write at handler level only (R246). -/
def handlerReg (x : SReg) : Bool := x == .xpc || x == .xmode || x == .xcause || x == .xlanes || x == .xaddr

/-- The effect of MTSR on a register that it may write (R220, R246). -/
def State.setSpecial (s : State) (x : SReg) (v : DWord) : State :=
  let upd (f : Wave → Wave) : State := s.updWave s.focus.wave f
  match x with
  | .gexposed => upd (fun w => { w with gexposed := v })
  | .xpc => upd (fun w => { w with xpc := v })
  | .xmode => upd (fun w => { w with xmode := modeWrite w.xmode (v.setWidth 32) })
  | .xcause => upd (fun w => { w with xcause := (v.setWidth 32).setWidth 64 })
  | .xlanes => upd (fun w => { w with xlanes := v.setWidth 8 })
  | .xaddr => upd (fun w => { w with xaddr := v })
  | .estat =>
    if v.getLsbD 0 then
      (match (s.core s.fb.pcore).slotOf (s.pairOf s.fw.block) with
       | some k => s.updCore s.fb.pcore (fun c => { c with eslots := c.eslots.set k { c.eslots.get ESlot.zero k with esat := false } })
       | none => s)
    else s
  | .wave => s | .block => s | .lcore => s | .pcore => s | .ctx => s | .sh _ => s | .ecnt => s | .cyc => s

/-- An illegal-instruction trap found at execution (R47, R48). -/
def illegalTrap (i : Instr) (sub : BitVec 8) : Trap := ⟨1, sub, 0, none, (lastWordOf i).setWidth 64, false⟩

/-- MTSR (R246). -/
def execMtsr (S : Bool) (x : SReg) (a : BitVec 6) (s : State) : Host.Outcome State Fault Refusal :=
  let i : Instr := .mtsr S x a
  simple i { held := true, breaks := true } [.sr 2 a.toNat]
    (fun s =>
      if !x.writable then .trap (illegalTrap i 8) s
      else if handlerReg x && s.fw.handler.isNone then .trap (trapOf 0x06 6) s
      else if x == .xmode && modeIllegal ((s.sreg a).setWidth 32) then .trap (illegalTrap i 9) s
      else .done (s.setSpecial x (s.sreg a))) s

/-! ## MODE, limits, counter waits -/

/-- The MODE of the issuing slot takes a value. -/
def State.putMode (s : State) (m : Word) : State :=
  s.updWave s.focus.wave (fun v => v.updSlot s.focus.slotB (fun sl => { sl with path := { sl.path with mode := m } }))

/-- SETMODE (R247). -/
def execSetmode (S : Bool) (a : BitVec 6) (s : State) : Host.Outcome State Fault Refusal :=
  simple (.setmode S a) {} [.sr 2 a.toNat]
    (fun s =>
      let v : Word := (s.sreg a).setWidth 32
      if modeIllegal v then .trap (illegalTrap (.setmode S a) 9) s else .done (s.putMode (modeWrite s.mode v))) s

/-- MODE with one field replaced (R247). -/
def modeField (m : Word) (f : ModeField) (v : Nat) : Word :=
  let mask : Word := BitVec.ofNat 32 ((2 ^ f.width - 1) * 2 ^ f.lo)
  (m &&& ~~~mask) ||| (BitVec.ofNat 32 (v * 2 ^ f.lo) &&& mask)

/-- SETMODE.f (R247). -/
def execSetmodeF (S : Bool) (f : ModeField) (v : Imm) (s : State) : Host.Outcome State Fault Refusal :=
  simple (.setmodeF S f v) {} [] (fun s => .done (s.putMode (modeField s.mode f (v.ext false 64).toNat))) s

/-- SETLIM from a register (R248). -/
def execSetlim (S : Bool) (n : BitVec 3) (a : BitVec 6) (s : State) : Host.Outcome State Fault Refusal :=
  simple (.setlim S n a) {} [.sr 2 a.toNat] (fun s => .done (s.writeLim n ((s.sreg a).setWidth 32))) s
/-- SETLIM with an immediate, zero-extended as a count (R248). -/
def execSetlimImm (S : Bool) (n : BitVec 3) (i : Imm) (s : State) : Host.Outcome State Fault Refusal :=
  simple (.setlimImm S n i) {} [] (fun s => .done (s.writeLim n (i.ext true 32))) s

/-- WAITC (R72, R249): the slot waits while the counter is above the operand; WAITC ST raises a pending memory error (R125). -/
def State.waitCount (s : State) (p : Path) (n : Nat) : Res :=
  match (if p == .st then s.pendTrap else none) with
  | some (t, s) => .trap t s
  | none => if s.fb.counter p ≤ n then .done s else .hold 0 (.counter p n) 0 s

def execWaitc (S : Bool) (p : Path) (n : BitVec 6) (s : State) : Host.Outcome State Fault Refusal :=
  simple (.waitc S p n) {} [.sr 2 n.toNat] (fun s => s.waitCount p (s.sreg n).toNat) s
def execWaitcImm (S : Bool) (p : Path) (i : Imm) (s : State) : Host.Outcome State Fault Refusal :=
  simple (.waitcImm S p i) {} [] (fun s => s.waitCount p (i.ext true 64).toNat) s

/-! ## LAUNCH -/

/-- LAUNCH (R251): the record joins the queue of the issuing context; a full queue holds the slot. -/
def execLaunch (S : Bool) (a : BitVec 6) (s : State) : Host.Outcome State Fault Refusal :=
  simple (.launch S a) { held := true, breaks := true } [.sr 1 a.toNat]
    (fun s =>
      let c := s.fl.ctx
      if 256 ≤ (s.mgmt.lauq.get [] c).length then .hold 0 (.launchRoom c) 0 s
      else .done (s.updMgmt (fun m => { m with lauq := m.lauq.set c (m.lauq.get [] c ++ [⟨s.sreg a, .launch c, none, none, some s.fb.launch⟩]) }))) s

end Sys2Proof.Machine
end

