-- ==== Sys2Proof/Machine/Barrier.lean ====
section
/-! DEFINITION. Barriers and the end of a wave: BAR, BARA, BARW, GBAR and EXIT (spec/05_execution.md R69, R77 to R79, spec/23_ref_scalar_control.md R240, R250). -/

namespace Sys2Proof.Machine

open Sys2Proof

/-! ## Members and generations -/

/-- A barrier: bN of the block, or gN of the launch (R250). -/
inductive BarId where
  | blk (n : Nat)
  | grp (g : Nat)
deriving DecidableEq, Repr

/-- The key under which a wave remembers its arrival. -/
def barKey : BarId → Nat
  | .blk n => n
  | .grp g => 16 + g
/-- The barrier is a GBAR. -/
def barGlob : BarId → Bool
  | .blk _ => false
  | .grp _ => true
def barNum : BarId → Nat
  | .blk n => n
  | .grp g => g
/-- The level of its scope: .b for bN, .v or .g for gN (R250). -/
def barLevel : BarId → Nat
  | .blk _ => 1
  | .grp _ => 2

/-- A barrier as a block sees it. -/
def State.bar (s : State) (b : Nat) : BarId → Barrier
  | .blk n => (s.block b).bars.get Barrier.zero n
  | .grp g => (s.launch (s.block b).launch).gbars.get Barrier.zero g
def State.setBar (s : State) (b : Nat) (x : Barrier) : BarId → State
  | .blk n => s.updBlock b (fun y => { y with bars := y.bars.set n x })
  | .grp g => s.updLaunch (s.block b).launch (fun y => { y with gbars := y.gbars.set g x })

/-- Waves of a block that have not exited. -/
def State.liveWaves (s : State) (b : Nat) : List Nat := (s.block b).waves.filter (fun w => !(s.wave w).exited)
/-- Blocks of a launch that have started and are in a group. -/
def State.groupBlocks (s : State) (l g : Nat) : List Nat := s.blocks.keysWhere (fun _ b => b.launch == l && (s.launch l).member g b.idx)
/-- Blocks that a group holds (R59). -/
def Launch.groupSize (l : Launch) (g : Nat) : Nat := if g = 0 then l.nblk else ((List.range l.nblk).filter (fun b => l.member g b)).length

/-- The members of a barrier that have not exited, and whether every block of it has started (R77). -/
def State.barMembers (s : State) (b : Nat) : BarId → List Nat × Bool
  | .blk _ => (s.liveWaves b, true)
  | .grp g =>
    let l := (s.block b).launch
    let bs := s.groupBlocks l g
    (bs.flatMap s.liveWaves, decide ((s.launch l).groupSize g ≤ bs.length))

/-- The place of a wave in the order (logical block, wave). -/
def State.wavePlace (s : State) (w : Nat) : Nat × Nat := ((s.block (s.wave w).block).idx, (s.wave w).idx)
def placeLe (a b : Nat × Nat) : Bool := decide (a.1 < b.1) || (a.1 == b.1 && decide (a.2 ≤ b.2))
/-- The wave with the highest place. -/
def State.highestWave (s : State) : List Nat → Nat
  | [] => 0
  | [w] => w
  | w :: t => if placeLe (s.wavePlace w) (s.wavePlace (s.highestWave t)) then s.highestWave t else w

/-- The epilogue wave of a generation (R79): the highest member in fixed order, otherwise the member whose arrival was recorded last. -/
def State.epilogueWave (s : State) (fom : Bool) (members arrivals : List Nat) : Nat :=
  if fom then s.highestWave members
  else (arrivals.reverse.find? (fun w => members.contains w)).getD 0

/-- Completes the generation of a barrier when every member has arrived (R77); GBAR g0 of a fixed-order launch flushes every buffer of the launch first (R63). -/
def State.checkBar (s : State) (b : Nat) (i : BarId) : State :=
  let x := s.bar b i
  let (members, started) := s.barMembers b i
  if x.arrivals.isEmpty || !started || !members.all (fun w => x.arrivals.contains w) || members.isEmpty then s
  else
    let l := (s.block b).launch
    let fom := (s.launch l).fom
    let e := s.epilogueWave fom members x.arrivals
    let s := if fom && i == .grp 0 then s.flushBufs (fun a => a.launch == l) else s
    s.setBar b ⟨x.gen + 1, [], none, 0, (x.gen, e) :: x.epilogue⟩ i

/-- The generation in which the issuing wave has arrived and not waited. -/
def Wave.arrivedGen (w : Wave) (i : BarId) : Option Nat :=
  match w.arrived.find? (fun x => x.1 == barKey i) with
  | some x => some x.2
  | none => none

/-- A wave in its place among waves of ascending (logical block, wave). -/
def State.insertWave (s : State) (w : Nat) : List Nat → List Nat
  | [] => [w]
  | v :: t => if placeLe (s.wavePlace w) (s.wavePlace v) then w :: v :: t else v :: s.insertWave w t

/-- A barrier with one more arrival: those of one cycle of a core stand in ascending (logical block, wave) order (R79). -/
def State.arrival (s : State) (x : Barrier) (w : Nat) : Barrier :=
  let p := (s.block (s.wave w).block).pcore
  let now := (p, (s.core p).cyc)
  let n := if x.last = some now then x.lastN else 0
  let k := x.arrivals.length - n
  { x with arrivals := x.arrivals.take k ++ s.insertWave w (x.arrivals.drop k), last := some now, lastN := n + 1 }

/-- Records the arrival of the issuing wave in the current generation (R250); it ends discardability (R73). -/
def State.arriveBar (s : State) (i : BarId) : State :=
  let b := s.fw.block
  let w := s.focus.wave
  let x := s.bar b i
  let s := s.setBar b (s.arrival x w) i
  let s := s.updWave w (fun v => { v with region := none, arrived := (barKey i, x.gen) :: v.arrived.filter (fun y => y.1 != barKey i) })
  s.checkBar b i

/-- Leaves a completed generation: acquire, boundary, and the pd of R79. -/
def State.leaveBar (s : State) (i : BarId) (gen : Nat) (pd : Option (BitVec 3)) : State :=
  let b := s.fw.block
  let w := s.focus.wave
  let mine := (s.bar b i).epilogue.contains (gen, w)
  let s := (s.acquireAt (barLevel i)).boundary w
  let s := match pd with
    | some p => s.writeP p 0xFF (allIf mine) 0
    | none => s
  let s := s.updWave w (fun v => { v with arrived := v.arrived.filter (fun y => y.1 != barKey i) })
  let x := s.bar b i
  let awaited (g : Nat) : Bool := s.waves.any (fun v => v.2.arrived.contains (barKey i, g) && (s.block v.2.block).launch == (s.block b).launch)
  s.setBar b { x with epilogue := x.epilogue.filter (fun e => awaited e.1) } i

/-! ## The instructions -/

/-- The traps of a barrier that come first (R78, R250). -/
def State.barTrap (s : State) (i : BarId) : Option Trap :=
  if !s.converged then some (trapOf 0x23 0)
  else
    match i with
    | .blk _ => none
    | .grp g => if s.fl.member g s.fb.idx then none else some (trapOf 0x24 0)

/-- Waits for a generation at phase 3. -/
def waitBar (i : BarId) (gen : Nat) (s : State) : Res := .hold 3 (.barrier (barGlob i) (barNum i) gen) gen s

/-- A barrier instruction (R250): `arrive` when it arrives anew, `waits` when it waits for the generation. A wave that has arrived in a generation that is not complete waits for it before it arrives again (R77). -/
def barrier (u : Instr) (i : BarId) (ops : List Opd) (anew waits : Bool) (pd : Option (BitVec 3)) (s : State) : Host.Outcome State Fault Refusal :=
  let arrived (s : State) : Option Nat := s.fw.arrivedGen i
  ok (run u { held := true } ops
    (fun ph s =>
      if ph = 3 then .done (s.leaveBar i s.fs.ref pd)
      else if ph = 2 then
        s.released (barLevel i) (fun s =>
          let gen := (s.bar s.fw.block i).gen
          let s := (s.boundary s.focus.wave).arriveBar i
          if waits then waitBar i gen s else .done s)
      else if ph = 1 then s.releaseFirst 2 (barLevel i) 1
      else
        match s.barTrap i with
        | some t => .trap t s
        | none =>
          match arrived s with
          | none => s.releaseFirst 2 (barLevel i) 1
          | some g =>
            if !anew then
              match s.pendTrap with
              | some (t, s) => .trap t s
              | none => waitBar i g s
            else if g < (s.bar s.fw.block i).gen then s.releaseFirst 2 (barLevel i) 1
            else .hold 0 (.barrier (barGlob i) (barNum i) g) 0 s) s)

def execBar (S : Bool) (b : BitVec 4) (pd : Option (BitVec 3)) (s : State) : Host.Outcome State Fault Refusal :=
  barrier (.bar S b pd) (.blk b.toNat) [] true true pd s
def execBara (S : Bool) (b : BitVec 4) (s : State) : Host.Outcome State Fault Refusal :=
  barrier (.bara S b) (.blk b.toNat) [] true false none s
def execBarw (S : Bool) (b : BitVec 4) (pd : Option (BitVec 3)) (s : State) : Host.Outcome State Fault Refusal :=
  barrier (.barw S b pd) (.blk b.toNat) [] false true pd s
def execGbar (S : Bool) (g : BitVec 8) (pd : Option (BitVec 3)) (s : State) : Host.Outcome State Fault Refusal :=
  barrier (.gbar S g pd) (.grp g.toNat) [.g 1 g.toNat] true true pd s

/-! ## EXIT -/

/-- The exit trap of a wave that is not converged (R69). -/
def State.exitTrap (s : State) : Option Trap :=
  if (s.fw.slot (!s.focus.slotB)).live then some (trapOf 0x20 1)
  else if !s.fw.spill.isEmpty then some (trapOf 0x20 3)
  else if s.mask != s.fw.launchMask then some (trapOf 0x20 2)
  else none

/-- Results of the wave that are still to come. -/
def State.resultsOut (s : State) : List Nat := s.accs.keysWhere (fun _ a => a.wave == s.focus.wave && a.outstanding)

/-- The wave leaves the member set of every barrier of its block and its launch (R77). -/
def State.leaveBars (s : State) (b : Nat) : State :=
  let s := (List.range 16).foldl (fun s n => s.checkBar b (.blk n)) s
  let gs := ((s.launch (s.block b).launch).gbars.map Prod.fst)
  gs.foldl (fun s g => s.checkBar b (.grp g)) s

/-- The end of the wave (R148, R240): tags dropped, unlinked cells inked, barriers left. The block ends by a step of its own. -/
def State.endWave (s : State) : State :=
  let w := s.focus.wave
  let b := s.fw.block
  let s := s.freeTags w
  let s := (s.cells.filter (fun c => !c.linked && s.owns w c)).foldl State.inkCell s
  (s.updWave w (Wave.ended (s.core s.fb.pcore).cyc)).leaveBars b

/-- EXIT (R240). -/
def execExit (S : Bool) (s : State) : Host.Outcome State Fault Refusal :=
  let t : Traits := { held := true, breaks := true }
  ok (run (.exit S) t []
    (fun ph s =>
      if ph = 3 then .ended (s.charged t).endWave
      else if ph = 2 then s.released 2 (fun s => .hold 3 (.accesses 3 s.resultsOut) 0 (s.boundary s.focus.wave))
      else if ph = 1 then s.releaseFirst 3 2 1
      else
        match s.exitTrap with
        | some tr => .trap tr s
        | none => s.releaseFirst 3 2 1) s)

end Sys2Proof.Machine
end

