-- ==== Sys2Proof/Machine/Job.lean ====
section
/-! DEFINITION. What jobs share: shape records and handles, footprints and the footprint unit, job slots and futures, feeds, and the start of a job (spec/13_engines.md R150 to R157, R159, spec/28_ref_tile_engine.md R298). -/

namespace Sys2Proof.Machine

open Sys2Proof

/-! ## Shape records (R150) -/

/-- A little-endian field of a record. -/
def fieldAt (d : List Byte) (off n : Nat) : Nat := leNat ((d.drop off).take n)

/-- The width of an element; 13 is SI4 (R82, R150). -/
def shapeW (et : Nat) : Nat := if et = 13 then 4 else etW et

/-- The record that 64 bytes hold. -/
def shapeOf (d : List Byte) : Shape :=
  let fl := fieldAt d 10 1
  { base := BitVec.ofNat 64 (fieldAt d 0 8), et := fieldAt d 8 1, ndim := fieldAt d 9 1
    sc := bitsOf fl 0 1 == 1, scr := bitsOf fl 1 1 == 1, map := bitsOf fl 2 1 == 1, tid := bitsOf (fieldAt d 12 4) 0 12
    d0 := fieldAt d 16 4, d1 := fieldAt d 20 4, d2 := fieldAt d 24 4, d3 := fieldAt d 28 4
    s1 := fieldAt d 32 8, s2 := fieldAt d 40 8, s3 := fieldAt d 48 8, scale := BitVec.ofNat 64 (fieldAt d 56 8) }

/-- The fixed fields of a MAP shape (R150). -/
def Shape.mapOk (h : Shape) : Bool :=
  h.et == 10 && h.ndim == 1 && h.d0 == 32 && h.d1 == 1 && h.d2 == 1 && h.d3 == 1 && !h.sc && h.scale == 0
    && h.s1 == 0 && h.s2 == 0 && h.s3 == 0 && (h.scr || h.base.toNat % 32 == 0)

/-- The record breaks no rule of R150 (R151, subcode 3). -/
def shapeOk (d : List Byte) : Bool :=
  let h := shapeOf d
  bitsOf (fieldAt d 10 1) 3 5 == 0 && fieldAt d 11 1 == 0 && bitsOf (fieldAt d 12 4) 12 20 == 0
    && decide (h.et ≤ 13) && decide (1 ≤ h.ndim) && decide (h.ndim ≤ 4)
    && (!h.sc || h.et == 7 || h.et == 8 || h.et == 11) && (h.sc || h.scale == 0)
    && h.d0 != 0 && h.d1 != 0 && h.d2 != 0 && h.d3 != 0
    && (decide (1 < h.ndim) || h.d1 == 1) && (decide (2 < h.ndim) || h.d2 == 1) && (decide (3 < h.ndim) || h.d3 == 1)
    && h.d0 * shapeW h.et % 32 == 0 && h.base.toNat % 4 == 0 && h.s1 % 4 == 0 && h.s2 % 4 == 0 && h.s3 % 4 == 0
    && (!h.map || h.mapOk)

/-- Bytes of a row: dimension 0 is contiguous. -/
def Shape.rowBytes (h : Shape) : Nat := h.d0 * shapeW h.et / 8
/-- Rows: the product of the other dimensions. -/
def Shape.rows (h : Shape) : Nat := h.d1 * h.d2 * h.d3
/-- Offset of a row from BASE. -/
def Shape.rowOff (h : Shape) (j : Nat) : Nat := j % h.d1 * h.s1 + j / h.d1 % h.d2 * h.s2 + j / (h.d1 * h.d2) * h.s3
/-- Address of a row: a virtual address, or an offset into scratch. -/
def Shape.rowAddr (h : Shape) (j : Nat) : Nat := h.base.toNat + h.rowOff j
/-- Address of byte `o` of the elements in index order. -/
def Shape.byteAddr (h : Shape) (o : Nat) : Nat := h.rowAddr (o / h.rowBytes) + o % h.rowBytes
/-- All bytes of the elements. -/
def Shape.total (h : Shape) : Nat := h.rows * h.rowBytes
/-- From BASE to the last byte of the last element (R152). -/
def Shape.size (h : Shape) : Nat := h.rowBytes + (h.d1 - 1) * h.s1 + (h.d2 - 1) * h.s2 + (h.d3 - 1) * h.s3
/-- Scale bytes of a row, and of the shape (R150). -/
def Shape.scaleRow (h : Shape) : Nat := ceilDiv h.d0 32

/-- The footprint of a shape in memory (R152). A scratch shape has none but its scales. -/
def Shape.foot (h : Shape) (wr : Bool) : List Range :=
  (if h.scr then [] else [⟨h.base.toNat, h.size, !wr, wr⟩])
    ++ (if h.sc then [⟨h.scale.toNat, h.scaleRow * h.rows, !wr, wr⟩] else [])

/-- Elements of a k-group; 0 where the type feeds no array (R94, R159). -/
def kgroupOf (et : Nat) : Nat :=
  match et with
  | 3 => 8 | 4 => 8 | 7 => 16 | 8 => 16 | 9 => 16 | 10 => 16 | 11 => 32 | 13 => 32
  | _ => 0

/-- The source meets R159, with DIM1 given. -/
def Shape.feedOk (h : Shape) (d1 : Nat) : Bool :=
  h.map || (kgroupOf h.et != 0 && h.d0 % kgroupOf h.et == 0 && (!h.sc || h.d0 % 32 == 0) && d1 % 32 == 0)
/-- Tiles that the source delivers (R159). -/
def Shape.tiles (h : Shape) : Nat := if h.map then 1 else ceilDiv h.d1 32 * h.d2 * h.d3
/-- Steps of a feed partition that one item takes: a 32-byte map record takes one, a number that R159 does not give (DESIGN CHOICE, log entry 126). -/
def Shape.steps (h : Shape) : Nat := if h.map then 1 else h.d0 / kgroupOf h.et
def Tile.steps (t : Tile) : Nat := if t.isMap then 1 else t.k / kgroupOf t.et

/-- A word of elements encodes zero: the signs of floating-point zeros do not count (R158). `hi` marks the upper word of an F64 element. -/
def zeroWord (et : Nat) (hi : Bool) (w : Word) : Bool :=
  match et with
  | 2 => w &&& 0x7FFFFFFF#32 == 0
  | 3 => w &&& 0x7FFF7FFF#32 == 0
  | 4 => w &&& 0x7FFF7FFF#32 == 0
  | 7 => w &&& 0x7F7F7F7F#32 == 0
  | 8 => w &&& 0x7F7F7F7F#32 == 0
  | 12 => if hi then w &&& 0x7FFFFFFF#32 == 0 else w == 0
  | _ => w == 0

/-! ## Shape tables (R151) -/

/-- Slots of a context's table. -/
def shapeSlots : Nat := 4096
def State.shapeSlot (s : State) (c k : Nat) : ShapeSlot := s.shapes.get .zero (shapeSlots * c + k)
def State.setShape (s : State) (c k : Nat) (x : ShapeSlot) : State := { s with shapes := s.shapes.set (shapeSlots * c + k) x }

/-- A generation wraps from 0xF_FFFF to 1. -/
def nextGen (g : BitVec 20) : BitVec 20 := if g = 0xFFFFF#20 then 1 else g + 1

/-- A failed check of a handle: subcode and handle (R151). -/
def handleFault (sub : BitVec 8) (h : Word) : Trap := ⟨0x08, sub, 0, none, h.setWidth 64, false⟩

/-- The record of a handle, as its use takes it (R151). -/
def State.useHandle (s : State) (c : Nat) (h : Word) : Except Trap Shape :=
  let x := s.shapeSlot c (h.extractLsb' 0 12).toNat
  if x.gen != h.extractLsb' 12 20 then .error (handleFault 1 h)
  else
    match x.rcd with
    | some r => .ok r
    | none => .error (handleFault 2 h)

/-- The lowest free slot of a context. -/
def State.freeShape (s : State) (c : Nat) : Option Nat := (List.range shapeSlots).find? (fun k => (s.shapeSlot c k).rcd.isNone)

/-! ## Records that an instruction reads -/

/-- The checks of R277 on the words of a record, in order; XLANES holds the path's mask. -/
def State.recordPlaces (s : State) (va : DWord) (n : Nat) : Checked :=
  if va.toNat % n ≠ 0 then .trap (trapAt 0x07 3 s.mask va)
  else if !canonical va then .trap (trapAt 0x05 2 s.mask va)
  else
    match s.place (s.clusterOf s.fb.pcore) s.fl.ctx va .read with
    | .error (.fault c sub) => .trap (trapAt c sub s.mask va)
    | .error .unmapped => .page va
    | .ok p => .ok [(0, p)]

/-- Reads a record of `n` bytes at an aligned address as a plain read of the wave; the slot waits at `phase` until its claims have passed (R309, R311, R312). -/
def State.readRecord (s : State) (i : Instr) (va : DWord) (n phase : Nat) : Res :=
  s.checked none (s.recordPlaces va n) 0 (fun ps =>
    let pieces := ps.flatMap (fun x => (List.range (n / 8)).map (fun k => pieceAt 0 va x.2 (8 * k) 8 []))
    .hold phase (.accesses 1 [s.seq]) s.seq (s.issueAcc { s.newAcc i .tab pieces with lanes := 1 }))

/-- The record that the slot's access has read, or what the access met. -/
def State.recordRead (s : State) : Except Trap (List Byte) :=
  let x := s.acc s.fs.ref
  match failTrap x.pieces (some s.mask) none with
  | some t => .error t
  | none => .ok (x.pieces.flatMap Piece.val)

/-! ## The footprint unit (R153) -/

/-- Two footprints share a byte that one of them writes. -/
def clash (a b : List Range) : Bool :=
  a.any (fun x => b.any (fun y => (x.wr || y.wr) && overlaps x.base x.len y.base y.len))

/-- An entry enters the unit: an edge from every earlier entry of its context that clashes, but for the launch that issued the job. -/
def State.enterFoot (s : State) (launch job : Option Nat) (c : Nat) (foot : List Range) (by' : Option Nat) : State :=
  let edges := (s.feet.filter (fun f => f.ctx == c && clash f.foot foot && !(f.launch.isSome && f.launch == by'))).map FootEnt.id
  { s with feet := s.feet ++ [⟨s.seq, launch, job, c, foot, edges⟩], seq := s.seq + 1 }

/-- Every edge of a job has fallen. -/
def State.edgesFallen (s : State) (f : FootEnt → Bool) : Bool := !s.feet.any (fun e => f e && !e.edges.isEmpty)

/-! ## Job slots and futures (R154, R155) -/

/-- The copy engine of the issuing core's cluster (R154). -/
def State.copyUnit (s : State) : Nat := 2 * s.clusterOf s.fb.pcore + s.fb.lcore % 2
/-- The collective engine of a hub. -/
def collUnit (hub : Nat) : Nat := 1000 + hub

/-- A future handle: engine, job slot and generation (R154). -/
def handleOf (engine slot gen : Nat) : Word := BitVec.ofNat 32 (engine % 16 + slot % 256 * 16 + gen % 2 ^ 20 * 4096)
/-- The handle that the issue of a job wrote. -/
def Job.handle (j : Job) : Word := j.label.getD 0

/-- Tiles that a job delivers to its feed (R159, R162). -/
def JKind.tiles : JKind → Nat
  | .copy kind src _ _ _ => if 2 ≤ kind then src.tiles else 0
  | .gath _ _ _ _ => 1
  | .coll _ => 0
  | .redo _ _ => 0
/-- The feed that a job fills. -/
def JKind.feed : JKind → Option Nat
  | .copy kind _ _ f _ => if 2 ≤ kind then some f else none
  | .gath _ _ _ f => some f
  | .coll _ => none
  | .redo _ _ => none
/-- The tile predicate that a job writes (R158). -/
def JKind.zd : JKind → Option Nat
  | .copy _ _ _ _ q => q
  | .gath _ _ _ _ => none
  | .coll _ => none
  | .redo _ _ => none
/-- A job of a copy engine. -/
def JKind.isCopy : JKind → Bool
  | .copy _ _ _ _ _ => true | .gath _ _ _ _ => true
  | .coll _ => false | .redo _ _ => false

/-- A slot that is taken again makes the handles of its earlier job stale; that job's record stays while it still owes tiles to its feed. The handles of a fixed-order launch do not name slots, and theirs never become stale (R64, log entry 22). -/
def State.staleSlot (s : State) (u k : Nat) : State :=
  (s.jobs.keysWhere (fun _ j => j.unit == u && j.slot == k)).foldl (fun s n =>
    let fixed := (s.launch (s.block (s.job n).block).launch).fom
    if fixed || (s.job n).tiles < (s.job n).kind.tiles then
      s.updJob n (fun j => { j with slot := 256, label := if fixed then j.label else none })
    else { s with jobs := s.jobs.del n }) s

/-- The generation of a slot: 0 before its first job. -/
def State.slotGen (s : State) (u k : Nat) : Nat :=
  match s.jobs.find? (fun x => x.2.unit == u && x.2.slot == k) with
  | some x => x.2.gen
  | none => 0

/-- The generation that a job takes in a slot: the next one whose handle names no other job of the block (R154). -/
def State.newGen (s : State) (b u e k : Nat) : Nat :=
  let g := (nextGen (BitVec.ofNat 20 (s.slotGen u k))).toNat
  (((List.range 256).map (fun i => if g + i < 2 ^ 20 then g + i else g + i + 1 - 2 ^ 20)).find? (fun n => (s.findJob b (handleOf e k n)).isNone)).getD g

/-- The handle of a job of a fixed-order launch: made from the wave and the number of its jobs alone, so that no slicing, move or pre-emption shows in a register (R64, log entry 22). -/
def fixedHandle (engine wave n : Nat) : Word := handleOf engine (4 * wave + n % 4) (n / 4 % (2 ^ 20 - 1) + 1)

/-- What a job is told at its issue, beside what the issuing path gives. -/
structure Order where
  kind : JKind
  foot : List Range
  unit : Nat
  engine : Nat
  follow : Option SeqCmd
deriving DecidableEq, Repr

/-- Takes a slot, makes the job, writes its future to `sd` and enters its footprint (R298). The number of the job is the counter's. -/
def State.takeJob (s : State) (o : Order) (sd : BitVec 6) : State :=
  let free := s.freeSlots o.unit
  let k := free.getD ((s.seq + Config.jobSlot s.seq) % free.length) 0
  let id := s.seq
  let gen := s.newGen s.fw.block o.unit o.engine k
  let j : Job :=
    { Job.zero with
      kind := o.kind, block := s.fw.block, wave := s.focus.wave, ctx := s.fl.ctx, unit := o.unit, engine := o.engine, slot := k
      gen := gen, state := 0, code := 0, sub := 0, foot := o.foot
      prior := s.accsOf s.focus.wave, follow := o.follow, seq := s.seq, tid := mTID s.mode
      label := some (if s.fl.fom then fixedHandle o.engine s.fw.idx s.fw.jobs else handleOf o.engine k gen) }
  let s := ((s.staleSlot o.unit k).setJob id j).tick
  let s := (s.writeSV sd.toNat ⟨j.handle.setWidth 64, true⟩).updWave s.focus.wave (fun v => { v with jobs := v.jobs + 1 })
  s.enterFoot none (some id) j.ctx o.foot (some s.fb.launch)

/-- The steps of R298 behind the checks of an entry: the settle, the pending error, the release at .v and the boundary, then room. `check` makes the checks again at each step, since the slot may wait between them; the slot's access stays in `ref`. -/
def State.startJob (s : State) (ph base : Nat) (check : State → Except Trap Order) (room : State → Option Wait) (sd : BitVec 6)
    (after : Nat → State → State) : Res :=
  match check s with
  | .error t => .trap t s
  | .ok o =>
    if ph ≤ base + 1 then
      s.settleFirst 1 (base + 1) (fun s =>
        match s.pendTrap with
        | some (t, s) => .trap t s
        | none => let s := s.boundary s.focus.wave; .hold (base + 2) (s.releaseWait 2) s.fs.ref s)
    else
      s.released 2 (fun s =>
        match (if s.waitOver s.focus.wave (.jobRoom o.unit) then room s else some (.jobRoom o.unit)) with
        | some w => .hold (base + 3) w s.fs.ref s
        | none => .done (after s.seq (s.takeJob o sd)))

/-! ## The end of a job -/

/-- A block's copy counter falls when a copy into scratch has landed its last byte (R72, R300). -/
def State.copyLanded (s : State) (id : Nat) : State :=
  match (s.job id).kind with
  | .copy 0 _ _ _ _ => s.landed (s.job id).block .cp id
  | _ => s

/-- A tile predicate takes the value of a job, where the job's targeting is still the last; queued commands that read it learn the value (R160, R300). -/
def State.putPred (s : State) (b id q : Nat) (v : Bool) : State :=
  s.updBlock b (fun x =>
    { x with
      preds := if x.preds.get (.known true) q == .owed id then x.preds.set q (.known v) else x.preds
      seqq := x.seqq.map (fun c => if c.q == .owed id then { c with q := .known v } else c) })

/-- The copy part of a job ends with an outcome: a code and subcode for an error, `cancel` for a cancellation (R155, R156, R300). A copy between memory and scratch writes its tile predicate here; tiles that a feed is still owed are delivered as zeros later. -/
def State.endCopy (s : State) (id : Nat) (code sub : BitVec 8) (sect : Nat) (side cancel : Bool) : State :=
  let j := s.job id
  let s := s.copyLanded id
  let s := s.updBlock j.block (fun b => { b with sclaims := b.sclaims.filter (fun c => c.job != some id) })
  let s := match j.kind.zd with
    | some q => if j.kind.feed.isNone then s.putPred j.block id q (!j.allZero) else s
    | none => s
  s.updJob id (fun j => { j with copyDone := true, code := code, sub := sub, sect := min sect (2 ^ 31 - 1), side := side, cancel := cancel, pageWait := none })

/-- The state that a job ends in (R155). -/
def Job.outcome (j : Job) : Nat := if j.code ≠ 0 then 2 else if j.cancel then 3 else 1

/-- A command of the job is still queued (R161). -/
def State.followQueued (s : State) (id : Nat) : Bool := (s.block (s.job id).block).seqq.any (fun c => c.job == some id)

/-- The future completes and the job's edges fall (R153, R155). -/
def State.finishJob (s : State) (id : Nat) : State :=
  (s.updJob id (fun j => { j with state := j.outcome })).retireFoot (fun f => f.job == some id)

/-- The job's status word (R155); a stale handle reads as an error of cause 0x08, subcode 1. -/
def Job.status (j : Job) : DWord :=
  BitVec.ofNat 64 (j.state + (if j.state = 2 then j.code.toNat * 2 ^ 8 + j.sub.toNat * 2 ^ 16 else 0)
    + (if j.state = 1 || j.state = 2 then j.sect * 2 ^ 32 else 0) + b2n (j.side && j.state == 2) * 2 ^ 63)
def staleStatus : DWord := BitVec.ofNat 64 (2 + 0x08 * 2 ^ 8 + 2 ^ 16)

end Sys2Proof.Machine
end

