-- ==== Sys2Proof/Machine/Engine.lean ====
section
/-! DEFINITION. Copies, gathers, streams and futures: CPY, CPYM, GATH, STRM, SHSET, the future instructions, and the steps of copy engines (spec/13_engines.md R151 to R162, spec/28_ref_tile_engine.md R297 to R303, R309, R310). -/

namespace Sys2Proof.Machine

open Sys2Proof

/-! ## CPY (R299) -/

/-- The low word of a scalar register: a handle. -/
def State.handleReg (s : State) (r : BitVec 6) : Word := (s.sreg r).setWidth 32

/-- A scratch range beyond the block's scratch: the offset of the first byte outside (R299). -/
def State.scratchOut (s : State) (h : Shape) (sub : BitVec 8) : Option Trap :=
  let lim := s.fl.scr * 65536
  if h.scr && decide (lim < h.base.toNat + h.size) then some ⟨0x06, sub, 0, none, BitVec.ofNat 64 (max lim h.base.toNat), false⟩ else none

/-- The checks of a copy between memory and scratch, in order; `toScr` when scratch is the destination. -/
def State.checkFlat (s : State) (toScr : Bool) (hs hd : Word) : Except Trap (Shape × Shape) :=
  match s.useHandle s.fl.ctx hs with
  | .error t => .error t
  | .ok a =>
    match s.useHandle s.fl.ctx hd with
    | .error t => .error t
    | .ok b =>
      if a.scr == toScr || a.sc || a.map then .error (handleFault 4 hs)
      else if b.scr != toScr || b.sc || b.map || b.et != a.et || b.d0 != a.d0 || b.d1 != a.d1 || b.d2 != a.d2 || b.d3 != a.d3 then
        .error (handleFault 4 hd)
      else
        match s.scratchOut a 1, s.scratchOut b 2 with
        | some t, _ => .error t
        | none, some t => .error t
        | none, none => .ok (a, b)

/-- The checks of a copy to a feed, in order (R158, R159, R299). -/
def State.checkFeed (s : State) (fromScr zd : Bool) (hs : Word) : Except Trap Shape :=
  match s.useHandle s.fl.ctx hs with
  | .error t => .error t
  | .ok a =>
    if a.scr != fromScr || !a.feedOk a.d1 || decide (16 < a.steps) || (zd && decide (1 < a.tiles)) then .error (handleFault 4 hs)
    else
      match s.scratchOut a 1 with
      | some t => .error t
      | none => .ok a

/-- The order of a copy: its kind code of R45, its checks, its footprint. -/
def State.orderFlat (s : State) (toScr : Bool) (sd ss : BitVec 6) (zd : Option Nat) : Except Trap Order :=
  match s.checkFlat toScr (s.handleReg ss) (s.handleReg sd) with
  | .error t => .error t
  | .ok (a, b) => .ok ⟨.copy (if toScr then 0 else 1) a b 0 zd, a.foot false ++ b.foot true, s.copyUnit, s.fb.lcore % 2, none⟩
def State.orderFeed (s : State) (fromScr : Bool) (f : Nat) (ss : BitVec 6) (zd : Option Nat) (c : Option SeqCmd) : Except Trap Order :=
  match s.checkFeed fromScr zd.isSome (s.handleReg ss) with
  | .error t => .error t
  | .ok a => .ok ⟨.copy (if fromScr then 3 else 2) a .zero f zd, a.foot false, s.copyUnit, s.fb.lcore % 2, c⟩

/-- What a copy leaves in its block at its issue: its counter, its tile predicate, its place in its feed (R72, R160, R300). -/
def State.afterCopy (s : State) (id : Nat) : State :=
  let k := (s.job id).kind
  let b := (s.job id).block
  let s := match k with
    | .copy 0 _ _ _ _ => s.flight b .cp id false
    | _ => s
  let s := match k.zd with
    | some q => s.updBlock b (fun x => { x with preds := x.preds.set q (.owed id) })
    | none => s
  match k.feed with
  | some f => s.updBlock b (fun x => { x with feeds := x.feeds.upd Feed.zero f (fun y => { y with owed := y.owed ++ [(id, k.tiles)] }) })
  | none => s

/-- A command that starts a job (R298): it ends discardability (R73). -/
def jobTraits (p : Option Path) : Traits := { held := true, breaks := true, path := p }
/-- No room is needed beside the engine's. -/
def noRoom (_ : State) : Option Wait := none

/-- A copy instruction: its counter must still have room once its release is over (R72). -/
def copyOp (i : Instr) (p : Option Path) (ops : List Opd) (check : State → Except Trap Order) (d : BitVec 6) (s : State) :
    Host.Outcome State Fault Refusal :=
  ok (run i (jobTraits p) ops (fun ph s => s.startJob ph 0 check (fun s => s.counterWait s.fw.block p) d (fun id s => s.afterCopy id)) s)

def opsFlat (d t a : BitVec 6) : List Opd := [.sd 1 d.toNat, .sr 2 t.toNat, .sr 3 a.toNat]
def opsFeed (d a : BitVec 6) : List Opd := [.sd 1 d.toNat, .feed 2, .sr 3 a.toNat]

def execCpyMs (S x : Bool) (d t a : BitVec 6) (s : State) : Host.Outcome State Fault Refusal :=
  copyOp (.cpyMs S x d t a) (some .cp) (opsFlat d t a) (fun s => s.orderFlat true t a none) d s
def execCpySm (S x : Bool) (d t a : BitVec 6) (s : State) : Host.Outcome State Fault Refusal :=
  copyOp (.cpySm S x d t a) none (opsFlat d t a) (fun s => s.orderFlat false t a none) d s
def execCpyMf (S x : Bool) (d : BitVec 6) (f : BitVec 3) (a : BitVec 6) (s : State) : Host.Outcome State Fault Refusal :=
  copyOp (.cpyMf S x d f a) none (opsFeed d a) (fun s => s.orderFeed false f.toNat a none none) d s
def execCpySf (S x : Bool) (d : BitVec 6) (f : BitVec 3) (a : BitVec 6) (s : State) : Host.Outcome State Fault Refusal :=
  copyOp (.cpySf S x d f a) none (opsFeed d a) (fun s => s.orderFeed true f.toNat a none none) d s

/-- The four kinds with a tile predicate (R158, R299). -/
def State.orderZd (s : State) (t : CpyDst) (a : BitVec 6) (q : Nat) : Except Trap Order :=
  match t with
  | .ms t => s.orderFlat true t a (some q)
  | .sm t => s.orderFlat false t a (some q)
  | .mf f => s.orderFeed false f.toNat a (some q) none
  | .sf f => s.orderFeed true f.toNat a (some q) none
def opsZd (d a : BitVec 6) : CpyDst → List Opd
  | .ms t => opsFlat d t a
  | .sm t => opsFlat d t a
  | .mf _ => opsFeed d a
  | .sf _ => opsFeed d a
/-- The counter that rises: CP for a copy into scratch (R300). -/
def zdPath : CpyDst → Option Path
  | .ms _ => some .cp
  | .sm _ => none
  | .mf _ => none
  | .sf _ => none
def execCpyZd (S : Bool) (d : BitVec 6) (t : CpyDst) (a : BitVec 6) (q : BitVec 4) (s : State) : Host.Outcome State Fault Refusal :=
  copyOp (.cpyZd S d t a q) (zdPath t) (opsZd d a t) (fun s => s.orderZd t a q.toNat) d s

/-! ## CPYM (R301) -/

/-- The value of a tile predicate as a command reads it: 1 at the start of a block (R160). -/
def Block.pred (b : Block) (q : Nat) : TileQ := b.preds.get (.known true) q

/-- A command takes the next unassigned positions of its feeds: a map position first when the sketch asks for one (R301, R305). The A-feeds are 0 to 3, the B-feeds 4 to 7. -/
def State.usesMap (s : State) (sk : Bool) : Bool := sk && s.fb.sketch.h != 0 && s.fb.sketch.mapIn
def State.nextPos (s : State) (f : Nat) : Nat := (s.fb.feeds.get Feed.zero f).assigned
def State.command (s : State) (sk : Bool) (aD i j : Nat) (q : TileQ) (job : Option Nat) : SeqCmd :=
  let p := s.nextPos i
  let m := s.usesMap sk
  { sketched := sk && s.fb.sketch.h != 0, aD := aD, i := i, j := 4 + j, pm := if m then some p else none, pa := if m then p + 1 else p
    pb := s.nextPos (4 + j), q := q, sketch := s.fb.sketch, tid := mTID s.mode, job := job, begun := job.isNone, drain := false, seq := s.seq }
/-- Assigns a command's positions and queues it (R163). -/
def State.queueCmd (s : State) (c : SeqCmd) : State :=
  (s.updBlock s.fw.block (fun b => { b with
    feeds := (b.feeds.upd Feed.zero c.i (fun f => { f with assigned := c.pa + 1 })).upd Feed.zero c.j (fun f => { f with assigned := c.pb + 1 })
    seqq := b.seqq ++ [c] })).tick

/-- The follow-on command takes its place at the CPYM's issue (R301). -/
def State.afterCpym (s : State) (c : FollowOn) (id : Nat) : State :=
  let s := s.afterCopy id
  let cmd := s.command c.sk c.aD.toNat c.i.toNat c.j.toNat (s.fb.pred c.q.toNat) (some id)
  (s.queueCmd cmd).updJob id (fun j => { j with follow := some cmd })

/-- The sequencer queue of the block has room (R163). -/
def seqRoomFor (s : State) : Option Wait := if s.waitOver s.focus.wave .seqRoom then none else some .seqRoom

/-- CPYM (R301): the accumulator is operand field 4. -/
def cpymOp (i : Instr) (fromScr : Bool) (d : BitVec 6) (f : BitVec 3) (a : BitVec 6) (c : FollowOn) (s : State) : Host.Outcome State Fault Refusal :=
  ok (run i (jobTraits none) (opsFeed d a ++ [.a 4 c.aD.toNat])
    (fun ph s => s.startJob ph 0 (fun s => s.orderFeed fromScr f.toNat a none none) seqRoomFor d (fun id s => s.afterCpym c id)) s)
def execCpym (S : Bool) (d : BitVec 6) (f : BitVec 3) (a : BitVec 6) (c : FollowOn) (s : State) : Host.Outcome State Fault Refusal :=
  cpymOp (.cpym S d f a c) false d f a c s
def execCpymSf (S : Bool) (d : BitVec 6) (f : BitVec 3) (a : BitVec 6) (c : FollowOn) (s : State) : Host.Outcome State Fault Refusal :=
  cpymOp (.cpymSf S d f a c) true d f a c s

/-! ## Streams (R162, R302, R303) -/

/-- The checks of STRM, in order. -/
def State.checkStream (s : State) (ha hb : Word) : Except Trap Stream :=
  match s.useHandle s.fl.ctx ha with
  | .error t => .error t
  | .ok a =>
    match s.useHandle s.fl.ctx hb with
    | .error t => .error t
    | .ok b =>
      if a.scr || a.map || a.ndim != 2 then .error (handleFault 4 ha)
      else if b.scr || b.map || b.ndim != 1 || decide (1 < b.et) then .error (handleFault 4 hb)
      else .ok ⟨a, b, 0, ha, s.seq⟩

/-- STRM (R302). -/
def execStrm (S : Bool) (x : BitVec 3) (a b : BitVec 6) (s : State) : Host.Outcome State Fault Refusal :=
  simple (.strm S x a b) { held := true } [.sr 2 a.toNat, .sr 3 b.toNat]
    (fun s =>
      match s.checkStream (s.handleReg a) (s.handleReg b) with
      | .error t => .trap t s
      | .ok st => .done (s.updBlock s.fw.block (fun y => { y with streams := y.streams.set x.toNat (some st) }))) s

/-- The checks of GATH, in order; the job gathers 32 stream rows from the stream's position (R303). -/
def State.orderGath (s : State) (f x : Nat) : Except Trap Order :=
  match s.fb.streams.get none x with
  | none => .error (handleFault 2 0)
  | some st =>
    if !st.data.feedOk 32 then .error (handleFault 4 st.handle)
    else .ok ⟨.gath st.data st.index (st.pos / st.data.d0) f, st.data.foot false ++ st.index.foot false, s.copyUnit, s.fb.lcore % 2, none⟩
/-- The stream moves on by 32 rows at the issue. -/
def State.afterGath (s : State) (x id : Nat) : State :=
  (s.afterCopy id).updBlock s.fw.block (fun y => { y with streams := y.streams.upd none x (fun o => o.map (fun st => { st with pos := st.pos + 32 * st.data.d0 })) })
/-- GATH waits for the VFEEDs of other PC slots whose claims are open (R304). -/
def streamRoom (x : Nat) (s : State) : Option Wait := if (s.streamUsers x).isEmpty then none else some (.accesses 1 (s.streamUsers x))
/-- GATH (R303). -/
def execGath (S : Bool) (d : BitVec 6) (f x : BitVec 3) (s : State) : Host.Outcome State Fault Refusal :=
  ok (run (.gath S d f x) (jobTraits none) [.sd 1 d.toNat, .feed 2]
    (fun ph s => s.startJob ph 0 (fun s => s.orderGath f.toNat x.toNat) (streamRoom x.toNat) d (fun id s => s.afterGath x.toNat id)) s)

/-! ## SHSET (R151, R309) -/

/-- The Free form. -/
def State.freeHandle (s : State) (d : BitVec 6) (h : Word) : Res :=
  match s.useHandle s.fl.ctx h with
  | .error t => .trap t s
  | .ok _ =>
    let k := (h.extractLsb' 0 12).toNat
    .done ((s.setShape s.fl.ctx k ⟨nextGen (h.extractLsb' 12 20), none⟩).writeS d 0)
/-- The Bind form, once its record has been read. -/
def State.bindHandle (s : State) (d a : BitVec 6) : Res :=
  match s.recordRead with
  | .error t => .trap t (s.withdraw s.fs.ref)
  | .ok r =>
    let s' := s.retire s.fs.ref
    if !shapeOk r then .trap ⟨0x08, 3, 0, none, s.sreg a, false⟩ s'
    else
      match s.freeShape s.fl.ctx with
      | none => .done (s'.writeS d 0)
      | some k =>
        let g := nextGen (s.shapeSlot s.fl.ctx k).gen
        .done ((s'.setShape s.fl.ctx k ⟨g, some (shapeOf r)⟩).writeS d (BitVec.ofNat 64 (g.toNat * 4096 + k)))
/-- SHSET. -/
def execShset (S : Bool) (d a : BitVec 6) (s : State) : Host.Outcome State Fault Refusal :=
  let i : Instr := .shset S d a
  ok (run i { held := true } (opsS2 d a)
    (fun ph s =>
      if (s.sreg a).getLsbD 63 then s.freeHandle d (s.handleReg a)
      else if ph = 0 then s.readRecord i (s.sreg a) 64 1
      else s.bindHandle d a) s)

/-! ## Futures (R155, R310) -/

/-- The job that a register names, if the block issued it and it is not stale. -/
def State.namedJob (s : State) (a : BitVec 6) : Option Nat := s.findJob s.fw.block (s.handleReg a)

/-- Observing a job's completion: an acquire at .v (R121). -/
def State.acquireJob (s : State) : State := s.acquire s.focus.wave 2

/-- FWAIT. Its operand does not wait as a future register does: the instruction waits itself. -/
def execFwait (S : Bool) (a : BitVec 6) (s : State) : Host.Outcome State Fault Refusal :=
  simple (.fwait S a) { held := true } [.sd 2 a.toNat]
    (fun s =>
      if s.futurePending s.fw.block (s.handleReg a) then .hold 1 (.future (s.handleReg a)) 0 s
      else .done (s.acquireJob.boundary s.focus.wave)) s

/-- FTEST. -/
def execFtest (S : Bool) (d a : BitVec 6) (s : State) : Host.Outcome State Fault Refusal :=
  simple (.ftest S d a) { held := true } [.sd 1 d.toNat, .sd 2 a.toNat]
    (fun s =>
      let st : Nat := match s.namedJob a with | some j => (s.job j).state | none => 2
      let s' := s.writeS d (BitVec.ofNat 64 st)
      .done (if st = 0 then s' else s'.acquireJob)) s

/-- FSTAT. -/
def execFstat (S : Bool) (d a : BitVec 6) (s : State) : Host.Outcome State Fault Refusal :=
  simple (.fstat S d a) { held := true } [.sd 1 d.toNat, .sd 2 a.toNat]
    (fun s => .done (s.writeS d (match s.namedJob a with | some j => (s.job j).status | none => staleStatus))) s

/-- A job that has not started is cancelled at once and its footprint entry goes; one that has started is marked, and stops at its next step (R155, R301). -/
def State.cancelJob (s : State) (id : Nat) : State :=
  let j := s.job id
  if j.state ≠ 0 || j.copyDone then s
  else if j.started then s.updJob id (fun j => { j with cancel := true })
  else
    let s := (s.endCopy id 0 0 0 false true).retireFoot (fun f => f.job == some id)
    if s.followQueued id then s else s.finishJob id

/-- FCANCEL. -/
def execFcancel (S : Bool) (a : BitVec 6) (s : State) : Host.Outcome State Fault Refusal :=
  simple (.fcancel S a) { held := true } [.sd 2 a.toNat]
    (fun s => .done (match s.namedJob a with | some j => s.cancelJob j | none => s)) s

/-! ## The start of a job (R121) -/

/-- An open claim of a wave that a job's footprint meets: its kind, the word and the range; the words of a live draft cell never conflict (R110, R143, R156). -/
def State.footConflict (s : State) (j : Job) : Option (BitVec 8 × Nat × Range) :=
  s.claims.findSome? (fun c => j.foot.findSome? (fun r =>
    if (r.wr || c.wr) && !s.cellOn (c.word * 4) 4 && s.rangeCovers j.ctx r (c.word * 4) then
      some (if r.wr then (if c.wr then 1 else 2) else 3, c.word, r)
    else none))

/-- The virtual address of a word within a range of a context. -/
def State.rangeVa (s : State) (c : Nat) (r : Range) (pa : Nat) : Nat :=
  let gs := (List.range ((r.base + r.len - 1) / 65536 - r.base / 65536 + 1)).map (fun i => (r.base / 65536 + i) * 65536)
  match gs.find? (fun g => match s.walk c (BitVec.ofNat 64 g) with
      | .leaf e l a => (leafPlace e l a (BitVec.ofNat 64 g)).tgt == .device && (leafPlace e l a (BitVec.ofNat 64 g)).pa / 65536 == pa / 65536
      | .err _ => false) with
  | some g => max r.base (g + pa % 65536)
  | none => r.base

/-- Sectors from the start of a range to an address (R155). -/
def sectorIn (base a : Nat) : Nat := a / 64 - base / 64

/-- The scratch words that a copy reads or writes (R115). -/
def Shape.words (h : Shape) : List Nat := if h.scr then wordsOf h.base.toNat h.size else []
def JKind.scratchWords : JKind → List (Nat × Bool)
  | .copy _ a b _ _ => a.words.map (fun w => (w, false)) ++ b.words.map (fun w => (w, true))
  | .gath _ _ _ _ => []
  | .coll _ => []
  | .redo _ _ => []
/-- A scratch claim of a wave that the job's claims meet. -/
def State.jobScratchConflict (s : State) (j : Job) : Option (Nat × Bool) :=
  j.kind.scratchWords.find? (fun x => (s.block j.block).sclaims.any (fun c => c.word == x.1 && c.job.isNone && (x.2 || c.wr)))

/-- A copy job may start: its edges have fallen, the wave's prior accesses are acknowledged and its closes have arrived, its engine runs fewer than 8 jobs, and no earlier job of its block waits there (R121, R154). -/
def State.mayStart (s : State) (id : Nat) : Bool :=
  let j := s.job id
  s.jobs.has id && j.state == 0 && !j.started && !j.copyDone && !j.suspended && s.edgesFallen (fun f => f.job == some id)
    && j.prior.all (s.accDone 2) && !s.closesOut j.wave
    && (!j.kind.isCopy || ((s.block j.block).st == .resident && decide (s.running j.unit < 8)
      && !s.jobs.any (fun x => x.2.block == j.block && x.2.unit == j.unit && x.2.state == 0 && !x.2.started && !x.2.copyDone && decide (x.2.seq < j.seq))))

/-- A copy job starts: its claims are checked at every home and at the scratch, and held (R115, R121, R156). -/
def State.startCopy (s : State) (id : Nat) : State :=
  let j := s.job id
  let s := s.updJob id (fun j => { j with started := true })
  match s.footConflict j with
  | some (sub, word, r) => s.endCopy id 0x10 sub (sectorIn r.base (s.rangeVa j.ctx r (word * 4))) r.wr false
  | none =>
    match s.jobScratchConflict j with
    | some (w, wr) =>
      let base := match j.kind with | .copy _ a b _ _ => if wr then b.base.toNat else a.base.toNat | _ => 0
      s.endCopy id 0x10 5 (sectorIn base (4 * w)) wr false
    | none =>
      s.updBlock j.block (fun b => { b with sclaims := b.sclaims ++ j.kind.scratchWords.map (fun x => ⟨x.1, some id, 0, 0, x.2, 0⟩) })

/-! ## Steps of a copy job (R154, R156, R159) -/

/-- What stops a step: an error at an address of a side, or a wait on an address: its page is not mapped or must become shared, or the array holds the read. -/
inductive StepErr where
  | err (code sub : BitVec 8) (va : Nat) (side : Bool)
  | page (va : Nat)
deriving DecidableEq, Repr

/-- The cluster of a copy engine. -/
def Job.cluster (j : Job) : Nat := j.unit / 2

/-- The master id of a job's engine: the context of a copy engine, the hub's own of a collective engine (R208). -/
def Job.mid (j : Job) : Nat := if j.kind.isCopy then j.ctx else 0xC00 + (j.unit - 1000)
/-- The die of a job's engine. -/
def Job.die (j : Job) : Nat := if j.kind.isCopy then j.unit / 16 else j.unit - 1000
/-- Where a byte range of at most a word of a job lies: a copy engine looks it up in its cluster's TLB, a collective engine walks the tables (R102, R145, R156, R172, R208). -/
def State.jobLookup (s : State) (j : Job) (va : DWord) (r : Right) : Except XErr Place :=
  if j.kind.isCopy then s.place j.cluster j.ctx va r else s.placeHub j.mid j.ctx va r
/-- The class of the page conflicts with the job's access (R107). -/
def State.jobConflicts (s : State) (j : Job) (va : DWord) (wr : Bool) : Bool :=
  (if j.kind.isCopy then s.lookup j.cluster j.ctx va else s.walk j.ctx va).conflicts j.die wr
/-- The place of an access of a job: where it waits, the address it waits on; a denial by the MSC's table beside the others; a read through a link that is DOWN is the memory error of a load (R107, R156, R206, R208). -/
def State.jobPlace (s : State) (j : Job) (va : Nat) (wr : Bool) : Except StepErr Place :=
  match s.jobLookup j (BitVec.ofNat 64 va) (if wr then .write else .read) with
  | .error (.fault c sub) => .error (.err c sub va wr)
  | .error .unmapped => .error (.page va)
  | .ok p =>
    match p.tgt with
    | .host => .ok p
    | .peer dev _ =>
      if s.linkHolds dev && !wr then .error (.page va)
      else if s.linkIsDown dev && !wr then .error (.err 0x11 13 va false)
      else .ok p
    | .device =>
    if s.jobConflicts j (BitVec.ofNat 64 va) wr then .error (.page va)
    else if wr then .ok p
    else if s.mscDenies j.mid p.pa .read then .error (.err 0x06 (Right.sub .read) va false)
    else if s.arrayWaits p.pa then .error (.page va)
    else .ok p

/-- Reads a device range as an engine: U copies are recalled, live cells observed, a reader-counted line counted once for the job (R119, R145, R189). -/
def State.engineRead (s : State) (id pa n : Nat) : State :=
  let s : State := s.recallRange pa n
  let s : State := { s with cells := s.cells.map (fun (c : Cell) => if overlaps c.addr 8 pa n then { c with observed := true } else c) }
  s.updJob id (fun j => if s.readerCounted (lineOf pa) && !j.counted.contains (lineOf pa) then { j with counted := lineOf pa :: j.counted } else j)

/-- The lines that a job has read for the first time in a step lose one count each. -/
def State.countLines (s : State) (id : Nat) (before : List Nat) : State :=
  ((s.job id).counted.filter (fun l => !before.contains l)).foldl (fun s l => s.countRead l) s

/-- The array read behind an error that a job met, whose sectors the controller counts (R194). -/
def State.meetAt (s : State) (id va : Nat) (code sub : BitVec 8) : State :=
  if code = 0x11 ∧ sub = 1 then
    match s.jobLookup (s.job id) (BitVec.ofNat 64 va) .read with
    | .ok p => s.fetchLine (lineOf p.pa)
    | .error _ => s
  else s

/-- Reads ranges of a job's source: each an address and a length, in scratch or in memory. -/
def State.jobRead (s : State) (id : Nat) (scr : Bool) : List (Nat × Nat) → Except StepErr (State × List Byte)
  | [] => .ok (s, [])
  | (a, n) :: t =>
    if scr then
      match State.jobRead s id scr t with
      | .error e => .error e
      | .ok (s', d) => .ok (s', (s.block (s.job id).block).scratch.bytes a n ++ d)
    else
      match s.jobPlace (s.job id) a false with
      | .error e => .error e
      | .ok p =>
        match p.tgt with
        | .device =>
          match s.badLevel p.pa n with
          | some l => .error (.err 0x11 (BitVec.ofNat 8 l) a false)
          | none =>
            let s1 := (s.fetchLine (lineOf p.pa)).engineRead id p.pa n
            let v := s1.homeBytes p.pa n
            match State.jobRead (s1.afterServe (lineOf p.pa)) id scr t with
            | .error e => .error e
            | .ok (s', d) => .ok (s', v ++ d)
        | .host =>
          match State.jobRead s id scr t with
          | .error e => .error e
          | .ok (s', d) => .ok (s', s.hostMem.bytes p.pa n ++ d)
        | .peer dev asid =>
          match State.jobRead (s.sendRequest dev asid (BitVec.ofNat 64 a)) id scr t with
          | .error e => .error e
          | .ok (s', d) => .ok (s', Mem.bytes (s.peerMem.get [] dev) p.pa n ++ d)

/-- The places of the words that a step writes, in order. -/
def State.writePlaces (s : State) (j : Job) : List Nat → Except StepErr (List Place)
  | [] => .ok []
  | a :: t =>
    match s.jobPlace j a true with
    | .error e => .error e
    | .ok p =>
      match State.writePlaces s j t with
      | .error e => .error e
      | .ok ps => .ok (p :: ps)

/-- Sectors of device memory that a list of words covers in part (R156). -/
def partWords (ps : List Place) : List Nat :=
  let ws := (ps.filter (fun p => p.tgt == .device)).map (fun p => p.pa / 4)
  ((ws.map (fun w => w / 16)).eraseDups).filter (fun k => !(List.range 16).all (fun i => ws.contains (16 * k + i)))

/-- One word reaches its place. -/
def State.writeWordAt (s : State) (id : Nat) (p : Place) (d : List Byte) : State :=
  match p.tgt with
  | .device => s.agentWrite p.pa (allBytes d)
  | .host => { s with hostMem := s.hostMem.putBytes p.pa d }
  | .peer dev asid => s.updLink (linkOf dev) (fun l => { l with queue := l.queue ++ [⟨id, 0, none, none, dev, asid, s.devNum, BitVec.ofNat 64 p.pa, allBytes d, none⟩] })

/-- Writes words; those of a broken sector are dropped (R125, R156). A sector that is written whole is mended. -/
def State.writeWords (s : State) (id : Nat) (broken : List Nat) : List Place → List Byte → State
  | [], _ => s
  | p :: t, d =>
    let s' := if p.tgt == .device && broken.contains (p.pa / 64) then s else s.writeWordAt id p (d.take 4)
    State.writeWords s' id broken t (d.drop 4)
def State.mend (s : State) (broken : List Nat) (ps : List Place) : State :=
  s.mendSectors (fun k => !broken.contains k && ps.any (fun p => p.tgt == .device && p.pa / 64 == k))

/-- The energy of a step (R218, class 14). -/
def State.chargeStep (s : State) (id : Nat) : State :=
  let b := (s.job id).block
  s.charge (s.block b).pcore (s.pairOf b) b (s.weight 14)

/-- The byte offsets of the words of a step of a flat copy. -/
def stepWords (prog total : Nat) : List Nat := (List.range (min 512 (total - prog) / 4)).map (fun k => prog + 4 * k)

/-- All words of a step encode zero. -/
def allZeroFrom (et : Nat) (o : Nat) : List Byte → Bool
  | b0 :: b1 :: b2 :: b3 :: t => zeroWord et (o / 4 % 2 == 1) (BitVec.ofNat 32 (leNat [b0, b1, b2, b3])) && allZeroFrom et (o + 4) t
  | _ => true

/-- What a job that waits on an address does (R101, R107, R156): a page that is not mapped is a page wait, with the fault to be entered in the ring; a mapped page of a class that conflicts becomes shared; otherwise the job only waits. -/
def State.jobPage (s : State) (id va : Nat) : State :=
  let j := s.job id
  match s.jobLookup j (BitVec.ofNat 64 va) .read with
  | .ok _ =>
    if s.jobConflicts j (BitVec.ofNat 64 va) (j.foot.any (fun r => r.wr && overlaps r.base r.len va 1)) then s.setClass j.ctx (BitVec.ofNat 64 va) 2 0 else s
  | .error _ =>
  let known := s.mgmt.faults.any (fun f => f.ctx == j.ctx && f.va.toNat / 65536 == va / 65536)
  let f : PFault := ⟨j.ctx, BitVec.ofNat 64 va, 3, j.die, BitVec.ofNat 32 (j.slot % 256 + j.engine % 16 * 256), false⟩
  let s := if known then s else s.updMgmt (fun m => { m with faults := m.faults ++ [f] })
  s.updJob id (fun j => { j with pageWait := some (va / 65536, BitVec.ofNat 64 va) })

/-- A step of a copy between memory and scratch: up to 512 bytes in index order (R154, R300). A word under a live draft cell makes the step wait (R145). -/
def State.flatStep (s : State) (id : Nat) (a b : Shape) : State :=
  let j := s.job id
  let os := stepWords j.prog a.total
  let fail (s : State) : StepErr → State
    | .err c sub va side => (s.meetAt id va c sub).endCopy id c sub (sectorIn (if side then b.base.toNat else a.base.toNat) va) side false
    | .page va => s.jobPage id va
  match s.jobRead id a.scr (os.map (fun o => (a.byteAddr o, 4))) with
  | .error e => fail s e
  | .ok (s1, d) =>
    let z := allZeroFrom a.et j.prog d
    let next (s : State) : State :=
      let s := (s.countLines id j.counted).chargeStep id
      let s := s.updJob id (fun j => { j with prog := j.prog + 4 * os.length, allZero := j.allZero && z })
      if a.total ≤ j.prog + 4 * os.length then s.endCopy id 0 0 0 false false else s
    if b.scr then
      next (s1.updBlock j.block (fun x => { x with scratch := (os.zip (List.range os.length)).foldl (fun m o => m.putBytes (b.byteAddr o.1) ((d.drop (4 * o.2)).take 4)) x.scratch }))
    else
      match s.writePlaces j (os.map b.byteAddr) with
      | .error e => fail s e
      | .ok ps =>
        let part := partWords ps
        if ps.any (fun p => p.tgt == .device && s1.cellOn p.pa 4) || s1.secsWait part then s
        else
          let s1 := s1.fetchSecs part
          let broken := s1.badSecs part
          let s2 := (s1.mend broken ps).writeWords id broken ps d
          match broken with
          | [] => next s2
          | k :: _ =>
            let va := match ((os.zip ps).find? (fun x => x.2.tgt == .device && x.2.pa / 64 == k)) with
              | some x => b.byteAddr x.1
              | none => b.base.toNat
            (s2.countLines id j.counted).endCopy id 0x11 6 (sectorIn b.base.toNat va) true false

/-! ## Steps of a copy to a feed -/

/-- Room of a feed partition, in steps (R159). -/
def Feed.room (f : Feed) : Nat := 16 - f.items.foldl (fun n t => n + t.steps) 0

/-- The job is the next to deliver to its feed, and the item fits (R159, R300). -/
def State.feedReady (s : State) (id f steps : Nat) : Bool :=
  let x := (s.block (s.job id).block).feeds.get Feed.zero f
  (match x.owed with | (k, _) :: _ => k == id | [] => false) && decide (steps ≤ x.room)

/-- An item enters a feed; the job's debt falls (R159). -/
def State.enterFeed (s : State) (id f : Nat) (t : Tile) : State :=
  (s.updBlock (s.job id).block (fun b => { b with feeds := b.feeds.upd Feed.zero f (fun x =>
    { x with items := x.items ++ [t], owed := (x.owed.map (fun o => if o.1 = id then (o.1, o.2 - 1) else o)).filter (fun o => o.2 != 0) }) })).updJob
    id (fun j => { j with tiles := j.tiles + 1, prog := 0, buf := [], sbuf := [] })

/-- The item that a job delivers, from the bytes gathered and zeros for those that it did not deliver (R155). -/
def padTo (n : Nat) (d : List Byte) : List Byte := d ++ List.replicate (n - d.length) 0
def tileOf (h : Shape) (j : Job) : Tile :=
  if h.map then ⟨true, 10, 32, false, padTo 32 j.buf, []⟩
  else ⟨false, h.et, h.d0, h.sc, padTo (512 * h.steps) j.buf, if h.sc then padTo (32 * h.scaleRow) j.sbuf else []⟩
/-- Every element of an item encodes zero. -/
def Tile.isZero (t : Tile) : Bool := allZeroFrom t.et 0 t.bytes

/-- Delivers the item as it stands: the tile predicate first, then the item (R158, R159). -/
def State.deliver (s : State) (id f : Nat) (h : Shape) : State :=
  let t := tileOf h (s.job id)
  let s := match (s.job id).kind.zd with
    | some q => s.putPred (s.job id).block id q (!t.isZero)
    | none => s
  s.enterFeed id f t

/-- Addresses of the rows of a tile: `none` is a zero row. -/
def rangesOf (rows : List (Option Nat)) (off n : Nat) : List (Nat × Nat) := rows.filterMap (fun r => r.map (fun a => (a + off, n)))
/-- Spreads what was read over the rows, zeros for zero rows. -/
def spread (n : Nat) : List (Option Nat) → List Byte → List Byte
  | [], _ => []
  | none :: t, d => List.replicate n 0 ++ spread n t d
  | some _ :: t, d => d.take n ++ spread n t (d.drop n)

/-- One step to a feed: the map record, or one k-group of 32 rows, with the rows' scales at the first (R159, R218). -/
def State.feedStep (s : State) (id f : Nat) (h : Shape) (total : Nat) (rows scales : List (Option Nat)) : State :=
  let j := s.job id
  let fail (s : State) : StepErr → State
    | .err c sub va side =>
      let base := if h.sc && !(decide (h.base.toNat ≤ va) && decide (va < h.base.toNat + h.size)) then h.scale.toNat else h.base.toNat
      (s.meetAt id va c sub).endCopy id c sub (sectorIn base va) side false
    | .page va => s.jobPage id va
  let data : Except StepErr (State × List Byte) :=
    if h.map then s.jobRead id h.scr ((List.range 8).map (fun k => (h.base.toNat + 4 * k, 4)))
    else s.jobRead id h.scr ((rangesOf rows (16 * j.prog) 16).flatMap (fun x => (List.range 4).map (fun k => (x.1 + 4 * k, 4))))
  match data with
  | .error e => fail s e
  | .ok (s1, d) =>
    let sc : Except StepErr (State × List Byte) :=
      if h.sc && j.prog = 0 then s1.jobRead id false ((rangesOf scales 0 h.scaleRow).flatMap (fun x => (List.range x.2).map (fun k => (x.1 + k, 1)))) else .ok (s1, [])
    match sc with
    | .error e => fail s e
    | .ok (s2, sd) =>
      let s2 := (s2.countLines id j.counted).chargeStep id
      let s2 := s2.updJob id (fun y => { y with
        prog := y.prog + 1, buf := y.buf ++ (if h.map then d else spread 16 rows d)
        sbuf := if h.sc && y.prog = 0 then spread h.scaleRow scales sd else y.sbuf })
      if h.steps ≤ j.prog + 1 then
        let s3 := s2.deliver id f h
        if total ≤ j.tiles + 1 then s3.endCopy id 0 0 0 false false else s3
      else s2

/-- The rows and scale rows of tile `t` of a source (R159). -/
def Shape.tileRows (h : Shape) (t : Nat) : List (Option Nat) := (List.range 32).map (fun r => some (h.rowAddr (32 * t + r)))
def Shape.tileScales (h : Shape) (t : Nat) : List (Option Nat) := (List.range 32).map (fun r => some (h.scale.toNat + h.scaleRow * (32 * t + r)))

/-- The data rows that 32 stream rows name; a row beyond the index list, or an index beyond the data, is a zero row (R162, R303). -/
def gathRows (data index : Shape) (row : Nat) (idx : List Byte) : List (Option Nat) :=
  (List.range 32).map (fun r =>
    let v := fieldAt idx (4 * r) 4
    if decide (index.d0 ≤ row + r) || decide (data.d1 ≤ v) then none else some v)
/-- A step of a gather: the index words, then the rows that they name. -/
def State.gathStep (s : State) (id f : Nat) (data index : Shape) (row : Nat) : State :=
  let ws := (List.range 32).filter (fun r => decide (row + r < index.d0))
  match s.jobRead id false (ws.map (fun r => (index.base.toNat + 4 * (row + r), 4))) with
  | .error (.err c sub va side) => (s.meetAt id va c sub).endCopy id c sub (sectorIn index.base.toNat va) side false
  | .error (.page va) => s.jobPage id va
  | .ok (s1, idx) =>
    let rows := gathRows data index row idx
    s1.feedStep id f data 1 (rows.map (fun r => r.map data.rowAddr)) (rows.map (fun r => r.map (fun v => data.scale.toNat + data.scaleRow * v)))

/-- The items of an ended job that its feed is still owed come as zeros (R155). -/
def State.zeroStep (s : State) (id : Nat) : State :=
  let j := s.job id
  match j.kind with
  | .copy k h _ f _ => if 2 ≤ k && decide (j.tiles < h.tiles) && s.feedReady id f h.steps then s.deliver id f h else s
  | .gath h _ _ f => if j.tiles = 0 && s.feedReady id f h.steps then s.deliver id f h else s
  | .coll _ => s
  | .redo _ _ => s

/-- A job whose copy has ended still owes tiles to a feed (R155). -/
def Job.owesTiles (j : Job) : Bool :=
  j.copyDone && match j.kind with
  | .copy k h _ _ _ => decide (2 ≤ k) && decide (j.tiles < h.tiles)
  | .gath _ _ _ _ => decide (j.tiles = 0)
  | .coll _ => false
  | .redo _ _ => false

/-- A step of a running copy job. A cancelled job stops at the step boundary. -/
def State.copyStep (s : State) (id : Nat) : State :=
  let j := s.job id
  if j.cancel then s.endCopy id 0 0 0 false true
  else
    match j.kind with
    | .copy k a b f _ =>
      if k < 2 then s.flatStep id a b
      else if j.prog = 0 && !s.feedReady id f a.steps then s
      else s.feedStep id f a a.tiles (a.tileRows j.tiles) (a.tileScales j.tiles)
    | .gath data index row f => if j.prog = 0 && !s.feedReady id f data.steps then s else s.gathStep id f data index row
    | .coll _ => s
    | .redo _ _ => s

/-- JOB_STEP (R111, R154, R155, R157): while its block is resident and it waits on no page, a copy job performs its next step; one that is cancelled stops there, also while it waits; an ended job that still owes tiles delivers one of zeros. -/
def execJobStep (job : Nat) (s : State) : Host.Outcome State Fault Refusal :=
  let j := s.job job
  if !s.clockRuns || !s.jobs.has job || !j.kind.isCopy || (s.block j.block).st != .resident || j.suspended then ok s
  else if j.copyDone then ok (s.zeroStep job)
  else if j.state = 0 && j.started && (j.cancel || (j.pageWait.isNone && !s.jobFlips j)) then ok (s.copyStep job)
  else ok s

end Sys2Proof.Machine
end

