-- ==== Sys2Proof/Machine/Coll.lean ====
section
/-! DEFINITION. Collectives: COLL and COLLREDO, the start and the completion of jobs, exponents, chunks with their proofs, the schedules of the four operations, errors, retries and re-runs, and injected faults (spec/15_collectives.md R171 to R186, spec/28_ref_tile_engine.md R312, R313, spec/30_prog_proof_reduce.md R314, R315). -/

namespace Sys2Proof.Machine

open Sys2Proof

/-! ## Domains (R171) -/

/-- A word of the domain table: domain and byte offset. -/
def State.domWord (s : State) (k off : Nat) : Nat := (s.mgmt.colldom.get 0 (2048 * k + off / 4)).toNat
def State.domParties (s : State) (k : Nat) : Nat := s.domWord k 0 % 2 ^ 16
/-- Device and die of a party. -/
def State.domParty (s : State) (k n : Nat) : Nat × Nat :=
  let w := s.domWord k (0x40 + 4 * n)
  (bitsOf w 0 14, bitsOf w 14 2)

/-! ## COLL (R172, R312) -/

/-- The descriptor that 64 bytes hold; the die is that of the party's entry. -/
def State.collDesc (s : State) (op : Nat) (d : List Byte) : CollDesc :=
  let dom := fieldAt d 0x18 2
  let party := fieldAt d 0x1A 2
  { op := op, src := fieldAt d 0 8, dst := fieldAt d 8 8, count := fieldAt d 0x10 4, cid := fieldAt d 0x14 4, dom := dom, party := party
    emode := fieldAt d 0x1C 1, eva := fieldAt d 0x20 8, errVa := fieldAt d 0x28 8, errN := fieldAt d 0x30 4, root := fieldAt d 0x34 2
    die := (s.domParty dom party).2 }
/-- A descriptor that R172 refuses. ROOT has a range in a broadcast alone, where it names a party; any other operation leaves it unread (DESIGN CHOICE, log entry 128). -/
def State.collBad (s : State) (c : CollDesc) (d : List Byte) : Bool :=
  let np := s.domParties c.dom
  fieldAt d 0x1D 3 != 0 || fieldAt d 0x36 10 != 0 || c.cid == 0 || c.count % 64 != 0 || decide (63 < c.dom) || np == 0
    || decide (c.count < 64 * np) || decide (np ≤ c.party) || decide (1 < c.emode) || c.errVa % 32 != 0
    || c.errN == 0 || decide (4096 < c.errN) || (c.op == 3 && decide (np ≤ c.root))
    || (s.domParty c.dom c.party).1 != s.devNum || (decide (c.op < 2) && decide (127 < np))
/-- The footprint of a collective job (R173). -/
def CollDesc.foot (c : CollDesc) : List Range :=
  [⟨c.src, 4 * c.count, true, false⟩, ⟨c.dst, 4 * c.count, false, true⟩]
    ++ (if c.emode = 1 then [⟨c.eva, 2 * (c.count / 64), true, false⟩] else []) ++ [⟨c.errVa, 32 * c.errN, false, true⟩]

/-- The checks of COLL on the record that it has read, in order. -/
def State.orderColl (s : State) (op : Nat) (va : DWord) : Except Trap Order :=
  match s.recordRead with
  | .error t => .error t
  | .ok d =>
    let c := s.collDesc op d
    if s.collBad c d then .error ⟨0x08, 3, 0, none, va, false⟩
    else if s.domWord c.dom 4 != s.fl.ctx then .error ⟨0x06, 1, 0, none, va, false⟩
    else .ok ⟨.coll c, c.foot, collUnit c.die, 8 + c.die, none⟩

/-- A job whose record is read first: the record, then the steps of R298 (R312, R313). The read ends with the instruction. -/
def State.recordJob (s : State) (i : Instr) (ph : Nat) (va : DWord) (n : Nat) (check : State → Except Trap Order) (d : BitVec 6) : Res :=
  if ph = 0 then s.readRecord i va n 1
  else
    match s.startJob ph 1 check noRoom d (fun _ s' => s'.retire s.fs.ref) with
    | .trap t s' => .trap t (s'.withdraw s.fs.ref)
    | r => r

def collOp (i : Instr) (op : Nat) (d a : BitVec 6) (s : State) : Host.Outcome State Fault Refusal :=
  ok (run i (jobTraits none) (opsS2 d a) (fun ph s => s.recordJob i ph (s.sreg a) 64 (fun s => s.orderColl op (s.sreg a)) d) s)

def execCollAllreduce (S : Bool) (d a : BitVec 6) (s : State) : Host.Outcome State Fault Refusal := collOp (.collAllreduce S d a) 0 d a s
def execCollReducescatter (S : Bool) (d a : BitVec 6) (s : State) : Host.Outcome State Fault Refusal := collOp (.collReducescatter S d a) 1 d a s
def execCollAllgather (S : Bool) (d a : BitVec 6) (s : State) : Host.Outcome State Fault Refusal := collOp (.collAllgather S d a) 2 d a s
def execCollBroadcast (S : Bool) (d a : BitVec 6) (s : State) : Host.Outcome State Fault Refusal := collOp (.collBroadcast S d a) 3 d a s

/-! ## COLLREDO (R185, R313, R315) -/

/-- The later of two joinings. -/
def latestOf (best : Option (Nat × Nat × Nat)) (x : Nat × Nat × Nat) : Option (Nat × Nat × Nat) :=
  match best with
  | some b => if b.2.2 < x.2.2 then some x else best
  | none => some x
/-- The latest instance that a COLL of the block with an id joined, and the party (R172, R315). -/
def State.ownParty (s : State) (b cid : Nat) : Option (Nat × Nat) :=
  let all := s.insts.flatMap (fun i => if i.2.cid = cid then
    (i.2.parties.filter (fun p => p.2.joined && p.2.block == b)).map (fun p => (i.1, p.1, p.2.since)) else [])
  (all.foldl latestOf none).map (fun x => (x.1, x.2.1))

/-- The descriptors of an id that COLLs have brought to this device: of the parties that have joined, and of the jobs that have yet to join. -/
def State.collsOf (s : State) (cid : Nat) : List (Nat × CollDesc) :=
  s.insts.flatMap (fun i => if i.2.cid = cid then (i.2.parties.filter (fun p => p.2.joined)).map (fun p => (p.2.block, p.2.desc)) else [])
    ++ s.jobs.filterMap (fun j => match j.2.kind with
        | .coll d => if d.cid = cid && !j.2.started then some (j.2.block, d) else none
        | .redo _ _ => none | .copy _ _ _ _ _ => none | .gath _ _ _ _ => none)

/-- A redo record names a failed chunk-step; CHUNK holds the low 16 bits of the index (log entry 110). -/
def RedoRec.names (r : RedoRec) (f : CFail) : Bool :=
  f.step == r.step && f.chunk % 65536 == r.chunk && f.snd == r.snd && f.arith == (r.kind == 2)

/-- The order of COLLREDO: its engine is that of the party that the block named in its COLL; its footprint is the record, and the chunk's range in the DST of each party on this device (R185). -/
def State.orderRedo (s : State) (va : DWord) : Except Trap Order :=
  match s.recordRead with
  | .error t => .error t
  | .ok d =>
    let cid := fieldAt d 0 4
    let r : RedoRec := ⟨cid, fieldAt d 4 2, fieldAt d 6 2, fieldAt d 8 1, fieldAt d 0xC 2, fieldAt d 0xE 2⟩
    let act := s.ownParty s.fw.block cid
    let all : List (Nat × CollDesc) := s.collsOf cid
    let mine : Option CollDesc := match act with
      | some (i, p) => some ((s.inst i).parties.get Party.zero p).desc
      | none => (all.find? (fun x => x.1 == s.fw.block)).map Prod.snd
    let die := match mine with
      | some c => c.die
      | none => coreDie s.fb.pcore
    let chunk := match act with
      | some (i, p) => (match ((s.inst i).parties.get Party.zero p).failed.find? r.names with | some f => f.chunk | none => r.chunk)
      | none => r.chunk
    let dsts : List Range := match mine with
      | some c => (all.filter (fun x => x.2.dom == c.dom && decide (64 * chunk < x.2.count))).map (fun x => ⟨x.2.dst + 256 * chunk, 256, false, true⟩)
      | none => []
    .ok ⟨.redo act r, ⟨va.toNat, 32, true, false⟩ :: dsts, collUnit die, 8 + die, none⟩

def execCollredo (S : Bool) (d a : BitVec 6) (s : State) : Host.Outcome State Fault Refusal :=
  let i : Instr := .collredo S d a
  ok (run i (jobTraits none) (opsS2 d a) (fun ph s => s.recordJob i ph (s.sreg a) 32 (fun s => s.orderRedo (s.sreg a)) d) s)

/-! ## FX48 (R175 to R177) -/

/-- The exponent of a finite non-zero F32 element: ⌊log2 |x|⌋ + 1. -/
def leadExp (w : Word) : Option Int :=
  match fF32.decode w.toNat with
  | .num _ (m + 1) e => some (e + Nat.log2 (m + 1) + 1)
  | _ => none
/-- The largest of a chunk, −149 when it has none. -/
def chunkExp (ws : List Word) : Int := (ws.filterMap leadExp).foldl max (-149)
def expOutside (e : Int) : Bool := decide (e < -149) || decide (128 < e)

/-- A special element: kind, party and F32 word (R176). -/
def specialWord (kind party : Nat) (w : Word) : BitVec 48 := BitVec.ofNat 48 (kind * 2 ^ 46 + party % 1024 * 2 ^ 32 + w.toNat)
/-- An F32 element as FX48 under a block exponent, and whether it is special. `given` when the exponent was supplied (R175). -/
def fxElem (e : Int) (given : Bool) (party : Nat) (w : Word) : BitVec 48 × Bool :=
  match fF32.decode w.toNat with
  | .num neg m x =>
    if given && (match leadExp w with | some l => decide (e < l) | none => false) then
      (specialWord (if neg then 2 else 1) party (if neg then 0xFF800000 else 0x7F800000), true)
    else (BitVec.ofInt 48 (roundInt 0 neg m (x + 40 - e)), false)
  | .inf neg => (specialWord (if neg then 2 else 1) party w, true)
  | _ => (specialWord 0 party (w ||| 0x00400000#32), true)

/-- The modulus of proofs (R179). -/
def proofP : Nat := 2 ^ 61 - 1
/-- An element modulo p: FX48 as a signed integer, a raw word as unsigned. -/
def proofTerm (raw : Bool) (m : BitVec 48) : Nat := if raw then m.toNat % proofP else (m.toInt % (proofP : Int)).toNat
/-- The proof of a chunk over the elements that the mask does not mark (R179). -/
def proofFrom (raw : Bool) (mask : BitVec 64) : Nat → List (BitVec 48) → Nat
  | _, [] => 0
  | i, m :: t => ((if mask.getLsbD i then 0 else (i + 1) * proofTerm raw m) + proofFrom raw mask (i + 1) t) % proofP
def proofOf (raw : Bool) (mask : BitVec 64) (m : List (BitVec 48)) : Nat := proofFrom raw mask 0 m

/-- The set of marked elements. -/
def maskFrom : Nat → List Bool → Nat
  | _, [] => 0
  | i, b :: t => b2n b * 2 ^ i + maskFrom (i + 1) t
/-- A party's contribution to a chunk (R175). -/
def fxChunk (e : Int) (given : Bool) (party : Nat) (ws : List Word) : FxChunk :=
  let xs := ws.map (fxElem e given party)
  let mask := BitVec.ofNat 64 (maskFrom 0 (xs.map Prod.snd))
  ⟨e, mask, xs.map Prod.fst, proofOf false mask (xs.map Prod.fst)⟩

/-- Two special elements (R176). -/
def addSpecial (x y : BitVec 48) : BitVec 48 :=
  let k (z : BitVec 48) : Nat := bitsOf z.toNat 46 2
  let p (z : BitVec 48) : Nat := bitsOf z.toNat 32 10
  let lo := if p x ≤ p y then x else y
  if k x == k y && (k x == 1 || k x == 2) then lo
  else specialWord 0 (p lo) (if k lo = 0 then lo.setWidth 32 else 0x7FC00000)
/-- Two elements: exact sums modulo 2^48, and the rules for specials. -/
def collAdd (sa sb : Bool) (x y : BitVec 48) : BitVec 48 :=
  match sa, sb with
  | true, true => addSpecial x y
  | true, false => x
  | false, true => y
  | false, false => x + y
/-- The sum of a partial and a chunk, without its proof. -/
def addChunks (a b : FxChunk) : FxChunk :=
  ⟨a.e, a.mask ||| b.mask, (List.range 64).map (fun i => collAdd (a.mask.getLsbD i) (b.mask.getLsbD i) (a.m.getD i 0) (b.m.getD i 0)), 0⟩
/-- The proof that a sum must have (R181). -/
def expectedProof (a b : FxChunk) (mask : BitVec 64) : Nat :=
  let hat (x : FxChunk) (i : Nat) : Nat := if x.mask.getLsbD i then 0 else proofTerm false (x.m.getD i 0)
  let out := ((List.range 64).filter (fun i => mask.getLsbD i)).foldl (fun n i => n + (i + 1) * (hat a i + hat b i)) 0
  (((a.proof + b.proof : Nat) - (out : Int) : Int) % (proofP : Int)).toNat
/-- An element of a sum as the owner writes it (R177). -/
def fxOut (x : FxChunk) (i : Nat) : Word :=
  let m := x.m.getD i 0
  if x.mask.getLsbD i then m.setWidth 32
  else BitVec.ofNat 32 (fF32.encode 0 false false false (.num (decide (m.toInt < 0)) m.toInt.natAbs (x.e - 40))).bits
def fxWords (x : FxChunk) : List Word := (List.range 64).map (fxOut x)

/-! ## Chunk bytes (R178, R314) -/

/-- A chunk's bytes: header and payload. -/
def chunkBytes (cid step chunk sender : Nat) (raw : Bool) (x : FxChunk) : List Byte :=
  leBytes cid 4 ++ leBytes step 2 ++ leBytes chunk 2 ++ leBytes (BitVec.ofInt 16 x.e).toNat 2 ++ leBytes sender 2 ++ leBytes (b2n raw) 1
    ++ leBytes 0 3 ++ leBytes x.mask.toNat 8 ++ leBytes x.proof 8 ++ leBytes 0 32
    ++ x.m.flatMap (fun m => leBytes m.toNat (if raw then 4 else 6))
/-- The chunk that bytes hold. -/
def chunkOf (raw : Bool) (d : List Byte) : FxChunk :=
  let k := if raw then 4 else 6
  { e := (BitVec.ofNat 16 (fieldAt d 8 2)).toInt, mask := BitVec.ofNat 64 (fieldAt d 0x10 8), proof := fieldAt d 0x18 8
    m := (List.range 64).map (fun i => BitVec.ofNat 48 (fieldAt d (64 + k * i) k)) }
/-- Raw words as a chunk. -/
def rawChunk (ws : List Word) : FxChunk :=
  let m := ws.map (fun w => w.setWidth 48)
  ⟨0, 0, m, proofOf true 0 m⟩
def rawWords (x : FxChunk) : List Word := x.m.map (fun m => m.setWidth 32)
/-- The flits of a chunk, `n` bytes of it in each: the bytes of the last one after the chunk are zero (R314). -/
def chunkFlits (n : Nat) (d : List Byte) : List (List Byte) :=
  (List.range (ceilDiv d.length n)).map (fun k => let x := (d.drop (n * k)).take n; x ++ List.replicate (n - x.length) 0)
/-- Bytes of a chunk. -/
def chunkLen (raw : Bool) : Nat := 64 + 64 * (if raw then 4 else 6)
/-- Every header field but SMASK and PROOF is as expected, and SMASK too for raw words (R180); CHUNK holds the low 16 bits of the index (log entry 110). -/
def headerOk (cid step chunk sender : Nat) (raw : Bool) (e : Int) (d : List Byte) : Bool :=
  fieldAt d 0 4 == cid && fieldAt d 4 2 == step % 65536 && fieldAt d 6 2 == chunk % 65536 && fieldAt d 8 2 == (BitVec.ofInt 16 e).toNat
    && fieldAt d 0xA 2 == sender && fieldAt d 0xC 1 == b2n raw && fieldAt d 0xD 3 == 0 && fieldAt d 0x20 32 == 0
    && (!raw || fieldAt d 0x10 8 == 0)
/-- Inverts a bit of a list of bytes. -/
def flipBit (d : List Byte) (n : Nat) : List Byte :=
  if n / 8 < d.length then setNth d (n / 8) ((d.getD (n / 8) 0) ^^^ (1#8 <<< (n % 8))) else d

/-! ## Schedules (R174) -/

/-- What a chunk-step does: a write of one's own chunk, an addition, the conversion, or a raw word chunk that is stored. -/
inductive CAct where
  | own | red | cvt | gat
deriving DecidableEq, Repr
/-- A chunk-step. -/
structure CStep where
  act : CAct
  step : Nat
  chunk : Nat
  snd : Nat
  rcv : Nat
deriving DecidableEq, Repr

/-- The chunks that a party owns. -/
def ownChunks (np n p : Nat) : List Nat := (List.range n).filter (fun c => c % np = p)
/-- Steps 2 to P. -/
def stepsTo (np : Nat) : List Nat := (List.range (np - 1)).map (fun k => k + 2)

/-- The chunk-steps of a party as receiver, in order. -/
def recvSteps (op np n root p : Nat) : List CStep :=
  match op with
  | 2 => (ownChunks np n p).map (fun c => ⟨.own, 1, c, p, p⟩)
      ++ (stepsTo np).flatMap (fun s => let j := (p + np - (s - 1)) % np; (ownChunks np n j).map (fun c => ⟨.gat, s, c, j, p⟩))
  | 3 => if p = root then (List.range n).map (fun c => ⟨.own, 1, c, p, p⟩) else (List.range n).map (fun c => ⟨.gat, 2, c, root, p⟩)
  | _ => (stepsTo np).flatMap (fun s => (ownChunks np n p).map (fun c => ⟨.red, s, c, (p + np - (s - 1)) % np, p⟩))
      ++ (ownChunks np n p).map (fun c => ⟨.cvt, np, c, p, p⟩)
      ++ (if op = 0 then (List.range (np - 1)).flatMap (fun t =>
            let j := (p + np - (t + 1)) % np
            (ownChunks np n j).map (fun c => ⟨.gat, np + t + 1, c, j, p⟩)) else [])
/-- The chunk-steps of a party as sender, in order. -/
def sendSteps (op np n root p : Nat) : List CStep :=
  match op with
  | 2 => (stepsTo np).flatMap (fun s => (ownChunks np n p).map (fun c => ⟨.gat, s, c, p, (p + s - 1) % np⟩))
  | 3 => if p = root then ((List.range np).filter (fun q => q ≠ root)).flatMap (fun q => (List.range n).map (fun c => ⟨.gat, 2, c, root, q⟩)) else []
  | _ => (stepsTo np).flatMap (fun s => let j := (p + s - 1) % np; (ownChunks np n j).map (fun c => ⟨.red, s, c, p, j⟩))
      ++ (if op = 0 then (List.range (np - 1)).flatMap (fun t => (ownChunks np n p).map (fun c => ⟨.gat, np + t + 1, c, p, (p + t + 1) % np⟩)) else [])

/-! ## Parties -/

def Inst.party (i : Inst) (p : Nat) : Party := i.parties.get Party.zero p
def State.party (s : State) (i p : Nat) : Party := (s.inst i).party p
def State.updParty (s : State) (i p : Nat) (f : Party → Party) : State :=
  s.updInst i (fun x => { x with parties := x.parties.upd Party.zero p f })
/-- Device and die of a party; the party is on this device. -/
def Inst.home (i : Inst) (p : Nat) : Nat × Nat := i.homes.getD p (0, 0)
def State.isLocal (s : State) (i p : Nat) : Bool := ((s.inst i).home p).1 == s.devNum
def Party.recv (x : Party) (np : Nat) : List CStep := recvSteps x.desc.op np (x.desc.count / 64) x.desc.root x.desc.party
def Party.send (x : Party) (np : Nat) : List CStep := sendSteps x.desc.op np (x.desc.count / 64) x.desc.root x.desc.party
/-- A reduction. -/
def CollDesc.reduces (d : CollDesc) : Bool := decide (d.op < 2)

/-- The job of a party runs: it has started, neither ended nor stopped, and waits on no page. -/
def State.partyRuns (s : State) (i p : Nat) : Bool :=
  let x := s.party i p
  x.joined && x.off.isNone && !(s.inst i).lost && !(s.inst i).disagree &&
    match x.job with
    | some j => (s.job j).state == 0 && !(s.job j).cancel && (s.job j).pageWait.isNone
    | none => false
/-- A party takes no further part: what needs its later results is blocked (R182, R310). -/
def State.partyGone (s : State) (i p : Nat) : Bool :=
  let x := s.party i p
  x.off.isSome || (x.joined && match x.job with | some j => (s.job j).cancel || (s.job j).state == 3 | none => false)

/-- Exponents that the party expects will not come: a party has stopped before it had any (R175, R182). -/
def State.expsNever (s : State) (i p : Nat) : Bool :=
  let x := s.party i p
  x.desc.reduces && x.desc.emode == 0 &&
    (List.range (s.inst i).np).any (fun q => q != p && !x.expFrom.contains q && s.partyGone i q && !(s.party i q).prep)
/-- The party knows its block exponents (R175). -/
def State.hasExps (s : State) (i p : Nat) : Bool :=
  let x := s.party i p
  x.prep && (!x.desc.reduces || x.desc.emode == 1 ||
    (List.range (s.inst i).np).all (fun q => q == p || x.expFrom.contains q))
/-- The block exponent of a chunk at a party. -/
def State.expOf (s : State) (i p c : Nat) : Int :=
  let x := s.party i p
  if x.desc.emode = 1 then x.exps.get (-149) c
  else (List.range (s.inst i).np).foldl (fun e q => max e ((s.party i q).exps.get (-149) c)) (-149)
/-- The exponent of a chunk that a party was given lies outside −149 to 128 (R175). -/
def Party.expBad (x : Party) (c : Nat) : Bool := x.desc.reduces && x.desc.emode == 1 && expOutside (x.exps.get (-149) c)

/-! ## Memory of a party's job -/

/-- The ranges of a piece of memory that a job reads: words where they are aligned, bytes elsewhere. -/
def rangesIn (va n : Nat) : List (Nat × Nat) :=
  if va % 4 = 0 && n % 4 = 0 then (List.range (n / 4)).map (fun k => (va + 4 * k, 4)) else (List.range n).map (fun k => (va + k, 1))
/-- A read by a job; reader-counted lines are counted once (R189). -/
def State.collRead (s : State) (id va n : Nat) : Except StepErr (State × List Byte) :=
  match s.jobRead id false (rangesIn va n) with
  | .error e => .error e
  | .ok (s', d) => .ok (s'.countLines id (s.job id).counted, d)
def wordsIn (d : List Byte) : List Word := (List.range (d.length / 4)).map (fun k => BitVec.ofNat 32 (fieldAt d (4 * k) 4))

/-- Writes bytes piece by piece, but for those of broken sectors. -/
def State.putPieces (s : State) (id : Nat) : List (Place × Nat) → List Byte → State
  | [], _ => s
  | (p, n) :: t, d => State.putPieces (s.writeWordAt id p (d.take n)) id t (d.drop n)
/-- Sectors of device memory that the places of a write cover in part. -/
def partPlaces (ps : List (Place × Nat)) : List Nat :=
  (((ps.filter (fun x => x.1.tgt == .device)).map (fun x => x.1.pa / 64)).eraseDups).filter (fun k =>
    (ps.filter (fun y => y.1.tgt == .device && y.1.pa / 64 == k)).foldl (fun n y => n + y.2) 0 != 64)
/-- An address in the first sector that is uncorrectable among those that a write covers in part (R125). -/
def State.brokenAt (s : State) (ps : List (Nat × Place × Nat)) : Option Nat :=
  let broken := s.badSecs (partPlaces (ps.map Prod.snd))
  match ps.find? (fun x => x.2.1.tgt == .device && broken.contains (x.2.1.pa / 64)) with
  | some x => some x.1
  | none => none
/-- A write by a job of bytes at an address: a live draft cell there makes it wait, reported as a page wait on nothing (R145, R156, R182). -/
def State.collWrite (s : State) (id va : Nat) (d : List Byte) : Except StepErr State :=
  let rs := rangesIn va d.length
  match s.writePlaces (s.job id) (rs.map Prod.fst) with
  | .error e => .error e
  | .ok ps =>
    let xs : List (Nat × Place × Nat) := (rs.zip ps).map (fun x => (x.1.1, x.2, x.1.2))
    let s := s.fetchSecs (partPlaces (xs.map Prod.snd))
    match s.brokenAt xs with
    | some a => .error (.err 0x11 6 a true)
    | none =>
      let s := s.mendSectors (fun k => ps.any (fun (p : Place) => p.tgt == Target.device && p.pa / 64 == k))
      .ok (s.putPieces id (xs.map (fun (x : Nat × Place × Nat) => x.2)) d)
/-- The bytes of a job's write lie under a live draft cell, or a sector that they cover in part waits for the array: the step waits. -/
def State.cellWaits (s : State) (id va n : Nat) : Bool :=
  match s.writePlaces (s.job id) ((rangesIn va n).map Prod.fst) with
  | .error _ => false
  | .ok ps => ps.any (fun (p : Place) => p.tgt == Target.device && s.cellOn p.pa 4)
      || s.secsWait (partPlaces (ps.zip ((rangesIn va n).map Prod.snd)))

/-! ## Errors of a party -/

/-- The party stops on a fault of its own (R182). -/
def State.stopParty (s : State) (i p : Nat) (code sub : BitVec 8) : State := s.updParty i p (fun x => { x with off := some (code, sub) })

/-- PATH and PORT of a hop (R182). -/
def State.pathPort (s : State) (i snd rcv : Nat) : Nat × Nat :=
  let a := (s.inst i).home snd
  let b := (s.inst i).home rcv
  if a.1 != b.1 then (2, linkOf (if a.1 == s.devNum then b.1 else a.1))
  else if a.2 == b.2 then (3, a.2) else (1, a.2)

/-- The bytes of an error record (R182). -/
def recBytes (cid step chunk kind path port snd rcv pexp pgot : Nat) : List Byte :=
  leBytes cid 4 ++ leBytes step 2 ++ leBytes chunk 2 ++ leBytes kind 1 ++ leBytes path 1 ++ leBytes port 1 ++ leBytes 0 1
    ++ leBytes snd 2 ++ leBytes rcv 2 ++ leBytes pexp 8 ++ leBytes pgot 8
/-- Makes an error record of a party with the memory of job `id`: it counts whether or not it can be written; a record that cannot be written stops the party. A page that is not mapped makes the job wait. -/
def State.record (s : State) (id i p step chunk kind path port snd rcv pexp pgot : Nat) : Except StepErr State :=
  let x := s.party i p
  let n := x.recs.length
  let s' := s.updParty i p (fun x => { x with recs := x.recs ++ [kind] })
  if x.desc.errN ≤ n then .ok s'
  else
    match s'.collWrite id (x.desc.errVa + 32 * n) (recBytes (s.inst i).cid step chunk kind path port snd rcv pexp pgot) with
    | .ok s'' => .ok s''
    | .error (.err c sub _ _) => .ok (s'.stopParty i p c sub)
    | .error (.page va) => .error (.page va)

/-- Failed and blocked chunk-steps that a hub retains (R184): nothing of a chunk whose exponent lies outside at the party (R175). -/
def State.retainedAt (s : State) (die : Nat) : Nat :=
  s.insts.foldl (fun n i => if i.2.exceeded then n else
    i.2.parties.foldl (fun n p => if p.2.joined && p.2.desc.die == die && !p.2.released then n + p.2.failed.length + (p.2.blocked.filter (fun b => !p.2.expBad b.2)).length else n) n) 0
/-- Retention beyond 1,024 chunk-steps of a hub ends the collective with SUB 11 (R184). -/
def State.checkRetention (s : State) (i p : Nat) : State :=
  if 1024 < s.retainedAt (s.party i p).desc.die then s.updInst i (fun x => { x with exceeded := true }) else s
/-- A chunk-step waits on a result that is not there (R182). -/
def State.blockStep (s : State) (i p step chunk : Nat) : State :=
  (s.updParty i p (fun x => { x with blocked := if x.blocked.contains (step, chunk) then x.blocked else x.blocked ++ [(step, chunk)] })).checkRetention i p
def State.unblock (s : State) (i p step chunk : Nat) : State :=
  s.updParty i p (fun x => { x with blocked := x.blocked.filter (fun b => b != (step, chunk)) })
def State.failStep (s : State) (i p : Nat) (f : CFail) : State :=
  (s.updParty i p (fun x => { x with failed := x.failed ++ [f] })).checkRetention i p

/-! ## Injection (R186) -/

def State.inj (s : State) (hub : Nat) : Nat := (s.mgmt.collinj.get 0 hub).toNat
/-- ARM reads 0 after firing. -/
def State.disarm (s : State) (hub : Nat) : State :=
  s.updMgmt (fun m => { m with collinj := m.collinj.upd 0 hub (fun x => x &&& ~~~3#64) })
/-- The injection register of a hub fires for an arm and a step. -/
def State.injFires (s : State) (hub arm step : Nat) : Bool :=
  bitsOf (s.inj hub) 0 2 == arm && (bitsOf (s.inj hub) 32 16 == 0 || bitsOf (s.inj hub) 32 16 == step)
/-- A chunk crosses a hop of this device in flits of 256 bytes: the receiver's hub holds them as its fabric input from the sender's hub has received them, where a flip that is armed for the step inverts a bit of the first (R186, R314). -/
def State.cross (s : State) (i : Nat) (t : CStep) (d : List Byte) : State × List (List Byte) :=
  let hub := ((s.inst i).home t.rcv).2
  let fl := chunkFlits 256 d
  if s.injFires hub 1 t.step && bitsOf (s.inj hub) 8 5 == ((s.inst i).home t.snd).2 then
    (s.disarm hub, setNth fl 0 (flipBit (fl.getD 0 []) (bitsOf (s.inj hub) 13 11)))
  else (s, fl)

/-! ## Chunk-steps -/

def incKey (step chunk : Nat) : Nat := 4096 * chunk + step

/-- The words of a chunk of the party's SRC. -/
def State.srcWords (s : State) (id i p c : Nat) : Except StepErr (State × List Word) :=
  match s.collRead id ((s.party i p).desc.src + 256 * c) 256 with
  | .error e => .error e
  | .ok (s, d) => .ok (s, wordsIn d)
/-- The party's contribution to a chunk (R175). -/
def State.contribution (s : State) (id i p c : Nat) : Except StepErr (State × FxChunk) :=
  match s.srcWords id i p c with
  | .error e => .error e
  | .ok (s', ws) => .ok (s', fxChunk (s.expOf i p c) ((s.party i p).desc.emode == 1) p ws)
/-- Writes a chunk of the party's DST. -/
def State.putDst (s : State) (id i p c : Nat) (ws : List Word) : Except StepErr State :=
  s.collWrite id ((s.party i p).desc.dst + 256 * c) (ws.flatMap wordBytes)

/-- Keeps the receiver's partial of an addition that fails or is blocked, so that a re-run adds what there was (R184, R185). Where the party has no exponents, and where the chunk's lies outside, there is none. -/
def State.keepPartial (s : State) (id i : Nat) (t : CStep) : Except StepErr State :=
  let x := s.party i t.rcv
  if t.act != .red || !s.hasExps i t.rcv || x.expBad t.chunk || x.partials.has t.chunk then .ok s
  else
    match s.contribution id i t.rcv t.chunk with
    | .error e => .error e
    | .ok (s1, a) => .ok (s1.updParty i t.rcv (fun y => { y with partials := y.partials.set t.chunk a }))

/-- The sum of a partial and a chunk in the reducing unit of a hub, with an upset that is armed for it (R181, R186). -/
def State.reduce (s : State) (hub step : Nat) (a b : FxChunk) : State × FxChunk :=
  let r := addChunks a b
  if s.injFires hub 2 step then
    let j := bitsOf (s.inj hub) 13 6
    let k := bitsOf (s.inj hub) 19 5 + 32 * bitsOf (s.inj hub) 24 1
    let r := { r with m := setNth r.m j (r.m.getD j 0 ^^^ (1#48 <<< k)) }
    (s.disarm hub, { r with proof := proofOf false r.mask r.m })
  else (s, { r with proof := proofOf false r.mask r.m })

/-- The step whose chunk an owned chunk adds next. -/
def Party.next (x : Party) (c : Nat) : Nat := x.nexts.get 2 c
/-- Adds the verified chunks of an owned chunk in the order of their steps, as far as they are there (R174, R181): `id` is the job that does it, `n` bounds the steps. -/
def State.sumUp (s : State) (id i p c : Nat) : Nat → Except StepErr State
  | 0 => .ok s
  | n + 1 =>
    let x := s.party i p
    let step := x.next c
    match x.incs.find? (fun y => y.1 == incKey step c) with
    | none => .ok s
    | some (_, b) =>
      if x.failed.any (fun f => f.step == step && f.chunk == c) || (s.inst i).np < step then .ok s
      else
        let part : Except StepErr (State × FxChunk) := match x.partials.find? (fun y => y.1 == c) with
          | some y => .ok (s, y.2)
          | none => s.contribution id i p c
        match part with
        | .error e => .error e
        | .ok (s1, a) =>
          let s1 := s1.updParty i p (fun y => { y with partials := y.partials.set c a })
          let (s2, r) := s1.reduce x.desc.die step a b
          let want := expectedProof a b r.mask
          if r.proof ≠ want then
            let s3 := (s2.unblock i p step c).failStep i p ⟨step, c, p, true⟩
            s3.record id i p step c 2 0 x.desc.die p p want r.proof
          else
            let s3 := (s2.unblock i p step c).updParty i p (fun y =>
              { y with partials := y.partials.set c r, nexts := y.nexts.set c (step + 1), incs := y.incs.del (incKey step c) })
            State.sumUp s3 id i p c n

/-- Uses a verified chunk: an addition, or a store to DST. -/
def State.useChunk (s : State) (id i : Nat) (t : CStep) (x : FxChunk) : Except StepErr State :=
  match t.act with
  | .red =>
    let s := s.updParty i t.rcv (fun y => { y with incs := y.incs.set (incKey t.step t.chunk) x })
    let s := if (s.party i t.rcv).next t.chunk < t.step then s.blockStep i t.rcv t.step t.chunk else s
    match s.keepPartial id i t with
    | .error e => .error e
    | .ok s => s.sumUp id i t.rcv t.chunk (s.inst i).np
  | .gat => s.putDst id i t.rcv t.chunk (rawWords x)
  | .own => .ok s
  | .cvt => .ok s

/-- Removes the copy of a chunk-step from those in flight. -/
def sameFly (t : CStep) (f : Fly) : Bool := f.step == t.step && f.chunk == t.chunk && f.snd == t.snd && f.rcv == t.rcv
def State.unfly (s : State) (i : Nat) (t : CStep) : State := s.updInst i (fun x => { x with flying := x.flying.filter (fun f => !sameFly t f) })
/-- Keeps the sender's copy of a failed chunk-step, while the sender's inputs are retained (R184, R315). -/
def State.keepFly (s : State) (i : Nat) (t : CStep) (d : List Byte) : State :=
  if (s.party i t.snd).released then s.unfly i t
  else (s.unfly i t).updInst i (fun x => { x with kept := ⟨t.step, t.chunk, t.snd, t.rcv, d, []⟩ :: x.kept.filter (fun f => !sameFly t f) })
/-- The bytes of a chunk that has crossed a hop of this device. -/
def Fly.got (f : Fly) : List Byte := f.flits.flatten.take f.bytes.length
/-- A sender on this device sends a chunk again: its copy crosses the hop once more (R183). -/
def State.crossAgain (s : State) (i : Nat) (t : CStep) (d : List Byte) : State :=
  if s.isLocal i t.snd then
    let (s, fl) := s.cross i t d
    s.updInst i (fun x => { x with flying := x.flying.map (fun f => if sameFly t f then { f with flits := fl } else f) })
  else s

/-- The receiver's check of a chunk (R180, R183): `sent` is the sender's copy, `d` what arrived. A failed check asks once for the chunk again under ARETRY, and makes a record otherwise; a check that passes uses the chunk. The flag says that the chunk-step is over. -/
def State.checkChunk (s : State) (id i : Nat) (t : CStep) (sent d : List Byte) : Except StepErr (State × Bool) :=
  let raw := t.act == .gat
  let x := chunkOf raw d
  let e := if raw then 0 else s.expOf i t.rcv t.chunk
  let got := proofOf raw x.mask x.m
  let good := headerOk (s.inst i).cid t.step t.chunk t.snd raw e d && got == x.proof
  let (path, port) := s.pathPort i t.snd t.rcv
  let tried := (s.party i t.rcv).retried.find? (fun r => r.1 == t.step && r.2.1 == t.chunk)
  if good then
    let s1 : Except StepErr State := match tried with
      | some r => s.record id i t.rcv t.step t.chunk 3 path port t.snd t.rcv r.2.2.1 r.2.2.2
      | none => .ok s
    match s1 with
    | .error e => .error e
    | .ok s1 =>
      match (s1.unfly i t).useChunk id i t x with
      | .error e => .error e
      | .ok s2 => .ok (s2, true)
  else if (s.inst i).flags % 2 = 1 && tried.isNone then
    .ok ((s.crossAgain i t sent).updParty i t.rcv (fun y => { y with retried := y.retried ++ [(t.step, t.chunk, x.proof, got)] }), false)
  else
    let s := (s.keepFly i t sent).failStep i t.rcv ⟨t.step, t.chunk, t.snd, false⟩
    match s.keepPartial id i t with
    | .error e => .error e
    | .ok s =>
      match s.record id i t.rcv t.step t.chunk 1 path port t.snd t.rcv x.proof got with
      | .error e => .error e
      | .ok s => .ok (s, true)

/-! ## Chunks from peers (R174, R180, R314) -/

/-- Chunks of flits two by two: a chunk of either format takes two flits of a link (R314). -/
def pairUp : List (List Byte) → List (List Byte)
  | a :: b :: t => (a ++ b) :: pairUp t
  | _ => []
/-- The chunks that have come over a link and that no party has taken. -/
def Link.chunks (l : Link) : List (List Byte) := pairUp l.chunkIn
def Link.dropChunk (l : Link) (n : Nat) : Link := { l with chunkIn := l.chunkIn.take (2 * n) ++ l.chunkIn.drop (2 * n + 2) }
/-- The header names the chunk-step: CID, STEP, CHUNK and SENDER. -/
def headNames (cid : Nat) (t : CStep) (d : List Byte) : Bool :=
  fieldAt d 0 4 == cid && fieldAt d 4 2 == t.step % 65536 && fieldAt d 6 2 == t.chunk % 65536 && fieldAt d 0xA 2 == t.snd
/-- The link that a peer's party sends over. -/
def State.hopLink (s : State) (i snd : Nat) : Nat := linkOf ((s.inst i).home snd).1
/-- The header names some chunk-step that a party of this device receives from a peer, under the descriptor of a party that has joined. -/
def State.namesHop (s : State) (i : Nat) (c : CollDesc) (d : List Byte) : Bool :=
  (List.range (s.inst i).np).any (fun q => s.isLocal i q &&
    (recvSteps c.op (s.inst i).np (c.count / 64) c.root q).any (fun t => !s.isLocal i t.snd && headNames (s.inst i).cid t d))
/-- The party's job has not ended: it has not joined, or its job goes on. -/
def State.partyOpen (s : State) (i p : Nat) : Bool :=
  match (s.party i p).job with
  | some j => (s.job j).state == 0
  | none => true
/-- Copies of a broadcast chunk that come over a link before a party's own: those of lower parties of this device that have yet to take theirs (R174). -/
def State.copiesBefore (s : State) (i : Nat) (t : CStep) : Nat :=
  let c := (s.party i t.rcv).desc
  if c.op != 3 then 0 else ((List.range t.rcv).filter (fun q => q != c.root && s.isLocal i q && decide ((s.party i q).rcur ≤ t.chunk) && s.partyOpen i q)).length
/-- The chunks on a link whose headers name a chunk-step, by their numbers. -/
def State.namedChunks (s : State) (i : Nat) (t : CStep) : List Nat :=
  let cs := (s.link (s.hopLink i t.snd)).chunks
  (List.range cs.length).filter (fun n => headNames (s.inst i).cid t (cs.getD n []))
/-- The chunk on a link that is the hop's next for a chunk-step (log entry 122): the one that its header names; where none does, the first one of the collective whose header names no hop of this device. -/
def State.chunkFor (s : State) (i : Nat) (t : CStep) : Option Nat :=
  let cs := (s.link (s.hopLink i t.snd)).chunks
  let named := s.namedChunks i t
  if named.isEmpty then
    (List.range cs.length).find? (fun n => fieldAt (cs.getD n []) 0 4 == (s.inst i).cid && !s.namesHop i (s.party i t.rcv).desc (cs.getD n []))
  else named[s.copiesBefore i t]?
/-- Takes a chunk from a link: the state without it, and its bytes. -/
def State.takeChunk (s : State) (i : Nat) (t : CStep) (n : Nat) : State × List Byte :=
  let k := s.hopLink i t.snd
  (s.updLink k (fun l => l.dropChunk n), ((s.link k).chunks.getD n []).take (chunkLen (t.act == .gat)))
/-- The copy of a chunk that a receiver takes: the state without it, the sender's copy, and what the port of the hop received. -/
def State.arrived (s : State) (i : Nat) (t : CStep) : Option (State × List Byte × List Byte) :=
  if s.isLocal i t.snd then ((s.inst i).flying.find? (sameFly t)).map (fun f => (s, f.bytes, f.got))
  else (s.chunkFor i t).map (fun n => ((s.takeChunk i t n).1, (s.takeChunk i t n).2, (s.takeChunk i t n).2))
/-- The chunk of a chunk-step is on its way to its receiver. -/
def State.onItsWay (s : State) (i : Nat) (t : CStep) : Bool := (s.arrived i t).isSome

/-- The chunk of a chunk-step will not come: its exponent is out of range or will not be known at either end, its sender has stopped or will not send it, or the sender's own sum is blocked (R175, R182). -/
def State.neverComes (s : State) (i : Nat) (t : CStep) : Bool :=
  let a := s.party i t.snd
  let b := s.party i t.rcv
  (t.act == .red && (b.expBad t.chunk || s.expsNever i t.rcv || (s.isLocal i t.snd && (a.expBad t.chunk || s.expsNever i t.snd))))
    || (!s.onItsWay i t && (s.partyGone i t.snd || a.unsent.contains (t.step, t.chunk, t.rcv)
      || (t.act == .gat && b.desc.reduces && a.blocked.contains ((s.inst i).np, t.chunk) && (a.vals.find? (fun v => v.1 == t.chunk)).isNone)))

/-- Outcome of a party's work on memory: done, or a fault that stops the party, or a page that its job waits on (R156, R182). -/
def State.settleParty (s : State) (id i p : Nat) : Except StepErr State → State
  | .ok s' => s'
  | .error (.err c sub va _) => (s.meetAt id va c sub).stopParty i p c sub
  | .error (.page va) => s.jobPage id va

/-! ## EXPONENT_RECEIVE (R175) -/

/-- EXPONENT_RECEIVE (R175, R180): the exponent message of a party reaches another. That of a party on another device brings its exponents with it. -/
def execExponentReceive (inst src dst : Nat) (exps : List Int) (s : State) : Host.Outcome State Fault Refusal :=
  let x := s.party inst dst
  let y := s.party inst src
  if !s.insts.has inst || !s.partyRuns inst dst || !x.desc.reduces || x.desc.emode != 0 || src == dst || x.expFrom.contains src
      || decide ((s.inst inst).np ≤ src) then ok s
  else if s.isLocal inst src then
    (if y.joined && y.prep then ok (s.updParty inst dst (fun x => { x with expFrom := x.expFrom ++ [src] })) else ok s)
  else
    let s := s.updParty inst src (fun y => { y with exps := (List.range exps.length).map (fun k => (k, exps.getD k 0)) })
    ok (s.updParty inst dst (fun x => { x with expFrom := x.expFrom ++ [src] }))

/-! ## CHUNK_STEP_SEND (R174, R177, R178) -/

/-- Step 1 of a party: the exponents of its chunks, or those that it was given (R175). -/
def State.prepParty (s : State) (id i p : Nat) : Except StepErr State :=
  let d := (s.party i p).desc
  if !d.reduces then .ok (s.updParty i p (fun x => { x with prep := true }))
  else if d.emode = 1 then
    match s.collRead id d.eva (2 * (d.count / 64)) with
    | .error e => .error e
    | .ok (s, b) => .ok (s.updParty i p (fun x => { x with
        prep := true, exps := (List.range (d.count / 64)).map (fun c => (c, (BitVec.ofNat 16 (fieldAt b (2 * c) 2)).toInt)) }))
  else
    match s.collRead id d.src (4 * d.count) with
    | .error e => .error e
    | .ok (s, b) =>
      let ws := wordsIn b
      .ok (s.updParty i p (fun x => { x with prep := true, exps := (List.range (d.count / 64)).map (fun c => (c, chunkExp ((ws.drop (64 * c)).take 64))) }))

/-- A party's own chunk-step: a write of its own chunk, or the conversion of a sum (R174, R177). -/
def State.ownStep (s : State) (id i p : Nat) (t : CStep) : Except StepErr State :=
  let onward (s : State) : State := s.updParty i p (fun x => { x with rcur := x.rcur + 1 })
  match t.act with
  | .own =>
    (match s.srcWords id i p t.chunk with
     | .error e => .error e
     | .ok (s, ws) =>
       match s.putDst id i p t.chunk ws with
       | .error e => .error e
       | .ok s => .ok (onward s))
  | .cvt =>
    let x := s.party i p
    if x.next t.chunk ≤ (s.inst i).np then .ok (onward (s.blockStep i p t.step t.chunk))
    else
      let ws := fxWords (x.partials.get ⟨0, 0, [], 0⟩ t.chunk)
      (match s.putDst id i p t.chunk ws with
       | .error e => .error e
       | .ok s => .ok (onward (s.updParty i p (fun x => { x with vals := x.vals.set t.chunk ws }))))
  | .red => .ok s
  | .gat => .ok s

/-- A chunk leaves for a peer in consecutive flits of the link (R204, R314). -/
def State.sendChunk (s : State) (dev : Nat) (d : List Byte) : State :=
  (chunkFlits 244 d).foldl (fun s f => s.sendFlit (linkOf dev) 4 none false f) s
/-- A chunk leaves its sender: across a hop of this device, or in flits of a link (R314). -/
def State.launchFly (s : State) (i : Nat) (t : CStep) (d : List Byte) : State :=
  let (s, fl) := if s.isLocal i t.rcv then s.cross i t d else (s.sendChunk ((s.inst i).home t.rcv).1 d, [])
  s.updInst i (fun y => { y with flying := y.flying ++ [⟨t.step, t.chunk, t.snd, t.rcv, d, fl⟩] })
/-- Sends the next chunk of a party when its data is there, to a peer while the link is UP; a chunk that it cannot send is passed over. -/
def State.sendStep (s : State) (id i p : Nat) (t : CStep) : Except StepErr State :=
  let onward (s : State) : State := s.updParty i p (fun x => { x with scur := x.scur + 1 })
  let fly (s : State) (raw : Bool) (x : FxChunk) : State :=
    let d := chunkBytes (s.inst i).cid t.step t.chunk t.snd raw x
    onward (s.launchFly i t d)
  let x := s.party i p
  if !s.isLocal i t.rcv && !s.linkUp ((s.inst i).home t.rcv).1 then .ok s
  else if t.act == .red then
    if x.expBad t.chunk || s.expsNever i p then .ok (onward s)
    else if !s.hasExps i p then .ok s
    else
      match s.contribution id i p t.chunk with
      | .error e => .error e
      | .ok (s, f) => .ok (fly s false f)
  else if x.desc.reduces then
    match x.vals.find? (fun v => v.1 == t.chunk) with
    | some v => .ok (fly s true (rawChunk v.2))
    | none => if x.blocked.contains ((s.inst i).np, t.chunk) then .ok (onward s) else .ok s
  else
    match s.srcWords id i p t.chunk with
    | .error e => .error e
    | .ok (s, ws) => .ok (fly s true (rawChunk ws))

/-- CHUNK_STEP_SEND (R174, R177, R178): step 1 of a party, its next own chunk-step, or its next chunk to send. -/
def execChunkStepSend (inst party : Nat) (s : State) : Host.Outcome State Fault Refusal :=
  let x := s.party inst party
  match x.job with
  | none => ok s
  | some id =>
    if s.fullg || !s.insts.has inst || !s.partyRuns inst party || s.jobFlips (s.job id) then ok s
    else if !x.prep then ok (s.settleParty id inst party (s.prepParty id inst party))
    else
      match (x.recv (s.inst inst).np)[x.rcur]?, (x.send (s.inst inst).np)[x.scur]? with
      | some t, u =>
        if t.act == .own || t.act == .cvt then
          (if s.cellWaits id (x.desc.dst + 256 * t.chunk) 256 then ok s else ok (s.settleParty id inst party (s.ownStep id inst party t)))
        else
          (match u with
           | some t => ok (s.settleParty id inst party (s.sendStep id inst party t))
           | none => ok s)
      | none, some t => ok (s.settleParty id inst party (s.sendStep id inst party t))
      | none, none => ok s

/-! ## Re-runs (R185, R315) -/

/-- A party on this device has yet to send a chunk that a test names. -/
def State.yetToSend (s : State) (i q : Nat) (f : CStep → Bool) : Bool :=
  let y := s.party i q
  !s.partyGone i q && (!y.joined || ((y.send (s.inst i).np).drop y.scur).any f)
/-- The failed chunk-step that a redo record names, when the job may run it again: its inputs are retained, its sender is on a peer and has not said that its block has ended, or its sender has yet to send it (R184, R185, R315). -/
def State.redoable (s : State) (i p : Nat) (r : RedoRec) : Option CFail :=
  let x := s.party i p
  let y := s.party i r.snd
  if r.rcv != p || x.released || (s.inst i).exceeded || (r.kind != 1 && r.kind != 2) then none
  else
    match x.failed.find? r.names with
    | some f =>
      if f.arith then some f
      else if !s.isLocal i f.snd then (if y.released then none else some f)
      else if (y.joined && y.released) || (!((s.inst i).kept ++ (s.inst i).flying).any (fun g => g.step == f.step && g.chunk == f.chunk && g.snd == f.snd && g.rcv == p)
          && !s.yetToSend i f.snd (fun t => t.step == f.step && t.chunk == f.chunk && t.rcv == p)) then none
      else some f
    | none => none

/-- A copy of a chunk crosses a hop of this device and reaches its receiver, with the bits `flips` changed on the way. -/
def State.sendAcross (s : State) (i : Nat) (t : CStep) (d : List Byte) (flips : List Nat) : State × List Byte :=
  let (s, fl) := s.cross i t d
  (s, flips.foldl flipBit (fl.flatten.take d.length))
/-- A sender on this device sends a chunk again in a re-run, and once more under ARETRY; its hop changes the bits `flips` of the first and `again` of the second. -/
def State.redoCopy (s : State) (id i : Nat) (t : CStep) (sent : List Byte) (flips again : List Nat) : Except StepErr State :=
  let (s1, d) := s.sendAcross i t sent flips
  match s1.checkChunk id i t sent d with
  | .error e => .error e
  | .ok (s2, true) => .ok s2
  | .ok (s2, false) =>
    let (s3, d) := s2.sendAcross i t sent again
    match s3.checkChunk id i t sent d with
    | .error e => .error e
    | .ok (s4, _) => .ok s4

/-- The blocked all-gather steps of a converted chunk run at every party (R185). -/
def State.redoGather (s : State) (id i p c : Nat) (ws : List Word) : List Nat → Except StepErr State
  | [] => .ok s
  | k :: rest =>
    let np := (s.inst i).np
    let r := (p + k) % np
    let t : CStep := ⟨.gat, np + k, c, p, r⟩
    let sent := chunkBytes (s.inst i).cid t.step c p true (rawChunk ws)
    let one : Except StepErr State :=
      if s.isLocal i r && (s.party i r).blocked.contains (t.step, c) then (s.unblock i r t.step c).redoCopy id i t sent [] []
      else .ok (s.launchFly i t sent)
    match one with
    | .error e => .error e
    | .ok s => State.redoGather s id i p c ws rest

/-- The chunk-step that a party runs again. -/
def State.redoTarget (s : State) (i p : Nat) (f : CFail) : CStep :=
  ⟨if (s.party i p).desc.reduces && decide (f.step ≤ (s.inst i).np) then .red else .gat, f.step, f.chunk, f.snd, p⟩
/-- The failed chunk-step is done over: it is failed no more, and no copy of its chunk is kept. -/
def State.forget (s : State) (i p : Nat) (f : CFail) : State :=
  (s.updParty i p (fun x => { x with failed := x.failed.filter (fun g => g != f) })).updInst i
    (fun y => { y with kept := y.kept.filter (fun g => !sameFly (s.redoTarget i p f) g) })
/-- Runs a failed chunk-step again: an addition, or the check of a chunk that comes again; its sender on this device sends it at once, and one on a peer has sent it. The flag says that the step is over; it is not while a chunk has yet to come (R183, R185). -/
def State.redoFirst (s : State) (id i p : Nat) (f : CFail) (flips again : List Nat) : Except StepErr (State × Bool) :=
  let t := s.redoTarget i p f
  let ran : Except StepErr State → Except StepErr (State × Bool)
    | .ok s => .ok (s, true)
    | .error e => .error e
  if f.arith then ran ((s.forget i p f).sumUp id i p f.chunk (s.inst i).np)
  else if s.isLocal i f.snd then
    match ((s.inst i).kept ++ (s.inst i).flying).find? (sameFly t) with
    | some g => ran ((s.forget i p f).redoCopy id i t g.bytes flips again)
    | none => .ok (s, false)
  else
    match s.arrived i t with
    | none => .ok (s, false)
    | some (s1, sent, d) =>
      match (s1.forget i p f).checkChunk id i t sent (flips.foldl flipBit d) with
      | .error e => .error e
      | .ok (s2, true) => .ok (s2, true)
      | .ok (s2, false) => .ok (s2.updParty i p (fun x => { x with failed := f :: x.failed }), false)
/-- Runs a failed chunk-step again, and every blocked chunk-step that depended on it (R185). -/
def State.redoRun (s : State) (id i p : Nat) (f : CFail) (flips again : List Nat) : Except StepErr (State × Bool) :=
  let np := (s.inst i).np
  match s.redoFirst id i p f flips again with
  | .error e => .error e
  | .ok (s1, false) => .ok (s1, false)
  | .ok (s1, true) =>
    let x := s1.party i p
    if (s.redoTarget i p f).act == .gat || x.next f.chunk ≤ np || (x.vals.find? (fun v => v.1 == f.chunk)).isSome then .ok (s1, true)
    else
      let ws := fxWords (x.partials.get ⟨0, 0, [], 0⟩ f.chunk)
      match (s1.unblock i p np f.chunk).putDst id i p f.chunk ws with
      | .error e => .error e
      | .ok s2 =>
        let s3 := s2.updParty i p (fun x => { x with vals := x.vals.set f.chunk ws })
        if x.desc.op = 0 then
          match s3.redoGather id i p f.chunk ws ((List.range (np - 1)).map (· + 1)) with
          | .error e => .error e
          | .ok s4 => .ok (s4, true)
        else .ok (s3, true)

/-- Records of errors that a list of kinds holds. -/
def errorKinds (l : List Nat) : List Nat := l.filter (fun k => k != 3)
/-- A re-run starts: what the parties have recorded so far is no part of it, nor is a copy that was asked for before (R185). -/
def State.beginRedo (s : State) (id i p : Nat) (r : RedoRec) : State :=
  (s.updParty i p (fun x => { x with retried := x.retried.filter (fun y => !(y.1 == r.step && y.2.1 % 65536 == r.chunk)) })).updInst i
    (fun y => { y with redos := y.redos ++ [⟨id, (List.range y.np).map (fun q => (y.party q).recs.length), false⟩] })
/-- The re-run of a job. -/
def Inst.redo (y : Inst) (id : Nat) : Redo := (y.redos.find? (fun r => r.job == id)).getD ⟨id, [], false⟩
/-- The job of a re-run ends with a status, and the re-run is over. -/
def State.endRedo (s : State) (id i : Nat) (code sub : BitVec 8) (sect : Nat) (cancel : Bool) : State :=
  (s.updInst i (fun y => { y with redos := y.redos.filter (fun r => r.job != id) })).endCopy id code sub sect false cancel
/-- A chunk that the party has sent to a peer has yet to be accepted there, or to fail there (R173, R185). -/
def State.unheard (s : State) (i p : Nat) : Bool := (s.inst i).flying.any (fun f => f.snd == p && !s.isLocal i f.rcv)
/-- The steps of a re-run have run: it waits for the peers that it has sent chunks to, and ends with what was recorded since it began (R185, R315). -/
def State.redoDone (s : State) (id i p : Nat) : State :=
  let new (q : Nat) : List Nat := (s.party i q).recs.drop (((s.inst i).redo id).before.getD q 0)
  let others := (List.range (s.inst i).np).any (fun q => q != p && !(errorKinds (new q)).isEmpty)
  if s.unheard i p then s
  else
    match errorKinds (new p) with
    | k :: _ => s.endRedo id i 0x11 (BitVec.ofNat 8 (6 + k)) (new p).length false
    | [] => if others then s.endRedo id i 0x11 9 (new p).length false else s.endRedo id i 0 0 0 false

/-- The redo job of a party that is to run. -/
def State.redoJob (s : State) (i p : Nat) : Option Nat :=
  match s.jobs.find? (fun x => x.2.started && x.2.state == 0 && !x.2.copyDone && x.2.pageWait.isNone &&
      (match x.2.kind with | .redo (some a) _ => a == (i, p) | .redo none _ => false | .coll _ => false | .copy _ _ _ _ _ => false | .gath _ _ _ _ => false)) with
  | some x => some x.1
  | none => none

/-- A link to a peer of the collective is neither UP nor DOWN: a re-run that may send chunks there waits (R206). -/
def State.peersHeld (s : State) (i : Nat) : Bool := (s.inst i).homes.any (fun h => h.1 != s.devNum && s.linkHolds h.1)
/-- The step of a redo job; it waits for a chunk that is to come again, and for peers. -/
def State.redoStep (s : State) (id i p : Nat) (r : RedoRec) (flips again : List Nat) : State :=
  if (s.job id).cancel then s.endRedo id i 0 0 0 true
  else if (s.inst i).lost then s.endRedo id i 0x12 0 0 false
  else if ((s.inst i).redo id).ran then s.redoDone id i p
  else if s.peersHeld i then s
  else
    match s.redoable i p r with
    | none => s.endRedo id i 0x11 10 0 false
    | some f =>
      match s.redoRun id i p f flips again with
      | .ok (s', true) => (s'.updInst i (fun y => { y with redos := y.redos.map (fun w => if w.job = id then { w with ran := true } else w) })).redoDone id i p
      | .ok (s', false) => s'
      | .error (.err c sub va _) => (s.meetAt id va c sub).endRedo id i c sub 0 false
      | .error (.page va) => s.jobPage id va

/-! ## CHUNK_RECEIVE (R180 to R183) -/

/-- The expected chunk-step of a party: its chunk arrives, or is known never to come. -/
def State.receiveStep (s : State) (id i p : Nat) (t : CStep) (flips : List Nat) : Except StepErr State :=
  let onward (s : State) : State := s.updParty i p (fun x => { x with rcur := x.rcur + 1 })
  if s.neverComes i t then
    match s.keepPartial id i t with
    | .error e => .error e
    | .ok s => .ok (onward ((s.unfly i t).blockStep i p t.step t.chunk))
  else if t.act == .red && !s.hasExps i p then .ok s
  else
    match s.arrived i t with
    | none => .ok s
    | some (s1, sent, d) =>
      match s1.checkChunk id i t sent (flips.foldl flipBit d) with
      | .error e => .error e
      | .ok (s2, true) => .ok (onward s2)
      | .ok (s2, false) => .ok s2

/-- A blocked chunk-step of a party whose chunk a re-run at a peer has sent: the converted chunk of a sum, named on the link (R185). -/
def State.lateStep (s : State) (i p : Nat) : Option CStep :=
  let x := s.party i p
  let np := (s.inst i).np
  if !x.joined || x.desc.op != 0 then none
  else
    (x.blocked.map (fun b => (⟨.gat, b.1, b.2, b.2 % np, p⟩ : CStep))).find? (fun t => decide (np < t.step) && !s.isLocal i t.snd && !(s.namedChunks i t).isEmpty)
/-- The chunk of such a step is checked and written to DST, with the memory of the party's own job; the step stays blocked while a second copy has yet to come. -/
def State.lateReceive (s : State) (id i : Nat) (t : CStep) (flips : List Nat) : Except StepErr State :=
  match s.namedChunks i t with
  | [] => .ok s
  | n :: _ =>
    let (s1, d) := s.takeChunk i t n
    match s1.checkChunk id i t d (flips.foldl flipBit d) with
    | .error e => .error e
    | .ok (s2, done) => .ok (if done then s2.unblock i t.rcv t.step t.chunk else s2)

/-- CHUNK_RECEIVE (R180 to R183, R185): the next expected chunk reaches a party and is checked, then added or stored; `flips` are bits that its hop changed unseen. A party that has ended runs its redo job; `again` are the bits changed in the copy that comes once more in the same re-run. A chunk that a re-run at a peer has sent for a blocked chunk-step comes first. -/
def execChunkReceive (inst party : Nat) (flips again : List Nat) (s : State) : Host.Outcome State Fault Refusal :=
  let x := s.party inst party
  if s.fullg || !s.insts.has inst then ok s
  else
    match s.redoJob inst party with
    | some id =>
      (match (s.job id).kind with
       | .redo _ r => ok (s.redoStep id inst party r flips again)
       | _ => ok s)
    | none =>
      match x.job, s.lateStep inst party with
      | none, _ => ok s
      | some id, some t => if s.cellWaits id (x.desc.dst + 256 * t.chunk) 256 then ok s else ok (s.settleParty id inst party (s.lateReceive id inst t flips))
      | some id, none =>
        if !s.partyRuns inst party || !x.prep || s.jobFlips (s.job id) then ok s
        else
          match (x.recv (s.inst inst).np)[x.rcur]? with
          | some t =>
            if t.act == .own || t.act == .cvt then ok s
            else if t.act == .gat && s.cellWaits id (x.desc.dst + 256 * t.chunk) 256 then ok s
            else ok (s.settleParty id inst party (s.receiveStep id inst party t flips))
          | none => ok s

/-! ## COLL_TIMEOUT (R180) -/

/-- Records of exponents that did not come, in ascending order of party. -/
def State.missRecords (s : State) (id i p : Nat) : List Nat → Except StepErr State
  | [] => .ok s
  | q :: t =>
    let (path, port) := s.pathPort i q p
    let z := (Config.timeoutProof s.seq).toNat
    match s.tick.record id i p 1 0xFFFF 1 path port q p z z with
    | .error e => .error e
    | .ok s => State.missRecords s id i p t

/-- COLL_TIMEOUT (R180): TIMEOUT hub cycles have passed for the exponents or the chunk that a party expects. -/
def execCollTimeout (inst party : Nat) (s : State) : Host.Outcome State Fault Refusal :=
  let x := s.party inst party
  match x.job with
  | none => ok s
  | some id =>
    if !s.insts.has inst || !s.partyRuns inst party || !x.prep || (s.inst inst).timeout = 0 then ok s
    else if s.expsNever inst party then ok s
    else if !s.hasExps inst party then
      let miss := (List.range (s.inst inst).np).filter (fun q => q != party && !x.expFrom.contains q)
      ok (s.settleParty id inst party (match s.missRecords id inst party miss with
        | .ok s => .ok (s.updParty inst party (fun x => { x with off := some (x.off.getD (0x11, 7)) }))
        | .error e => .error e))
    else
      match (x.recv (s.inst inst).np)[x.rcur]? with
      | some t =>
        if t.act == .own || t.act == .cvt || s.neverComes inst t then ok s
        else
          let (path, port) := s.pathPort inst t.snd party
          let z := (Config.timeoutProof s.seq).toNat
          match s.keepPartial id inst t with
          | .error e => ok (s.settleParty id inst party (.error e))
          | .ok s =>
          let s1 := (s.tick.failStep inst party ⟨t.step, t.chunk, t.snd, false⟩).updParty inst party (fun x => { x with rcur := x.rcur + 1 })
          ok (s.settleParty id inst party (s1.record id inst party t.step t.chunk 1 path port t.snd party z z))
      | none => ok s

/-! ## The start and the completion of jobs (R121, R153, R172, R182) -/

/-- A job of the same party of the same collective has started and is not complete (R172). -/
def State.partyBusy (s : State) (d : CollDesc) : Bool :=
  s.jobs.any (fun x => x.2.started && x.2.state == 0 && (match x.2.kind with
    | .coll e => e.dom == d.dom && e.cid == d.cid && e.party == d.party
    | .redo _ _ => false | .copy _ _ _ _ _ => false | .gath _ _ _ _ => false))

/-- The instance that a party joins: the oldest of its domain and id that it has not joined, or a new one. -/
def State.openInst (s : State) (d : CollDesc) : Nat × State :=
  match s.insts.find? (fun i => i.2.dom == d.dom && i.2.cid == d.cid && !(i.2.party d.party).joined) with
  | some i => (i.1, s)
  | none =>
    let np := s.domParties d.dom
    let i : Inst := { Inst.zero with
      dom := d.dom, cid := d.cid, np := np, flags := bitsOf (s.domWord d.dom 0) 16 1, timeout := s.domWord d.dom 8
      homes := (List.range np).map (fun n => s.domParty d.dom n) }
    (s.seq, ({ s with insts := s.insts.set s.seq i } : State).tick)

/-- The descriptors of two parties disagree at step 1 (R182). -/
def disagrees (a b : CollDesc) : Bool := a.op != b.op || a.count != b.count || a.emode != b.emode || a.root != b.root

/-- A party joins its instance as its job starts; a conflict of its footprint stops it, and a link on the path that is DOWN already ends the parties of this device as one that goes DOWN does (R121, R156, R182, R206). -/
def State.joinColl (s : State) (id : Nat) (d : CollDesc) : State :=
  let j := s.job id
  let s := s.updJob id (fun j => { j with started := true })
  let (i, s) := s.openInst d
  let bad := (s.inst i).parties.any (fun p => p.2.joined && disagrees p.2.desc d)
  let s := s.updParty i d.party (fun x =>
    { x with desc := d, job := some id, block := j.block, since := s.seq, joined := true, released := !(s.blocks.has j.block) || (s.block j.block).st == .ended })
  let s := if bad then s.updInst i (fun y => { y with disagree := true }) else s
  let down := (s.inst i).homes.any (fun h => h.1 != s.devNum && s.linkIsDown h.1)
  let s := if down then s.updInst i (fun y => { y with lost := true }) else s
  match s.footConflict j with
  | some (sub, _, _) => (s.stopParty i d.party 0x10 sub).tick
  | none => s.tick

/-- A redo job starts: it acts on the latest instance that the block's COLL has joined; one that acts for no party ends at once (R172, R315). -/
def State.startRedo (s : State) (id : Nat) (r : RedoRec) : State :=
  let act := s.ownParty (s.job id).block r.cid
  let s := s.updJob id (fun j => { j with started := true, kind := .redo act r })
  match s.footConflict (s.job id) with
  | some (sub, _, _) => s.endCopy id 0x10 sub 0 false false
  | none =>
    match act with
    | some (i, p) => s.beginRedo id i p r
    | none => s.endCopy id 0x11 10 0 false false

/-- JOB_START (R121, R153, R154, R172). -/
def execJobStart (job : Nat) (s : State) : Host.Outcome State Fault Refusal :=
  if !s.mayStart job then ok s
  else
    match (s.job job).kind with
    | .copy _ _ _ _ _ => ok (s.startCopy job)
    | .gath _ _ _ _ => ok (s.startCopy job)
    | .coll d => if s.partyBusy d then ok s else ok (s.joinColl job d)
    | .redo _ r => ok (s.startRedo job r)

/-- The status that a party's job ends with: code, subcode, SECT and whether it is cancelled (R182); `none` while it goes on, as while a peer has yet to accept a chunk (R173). -/
def State.partyEnd (s : State) (id i p : Nat) : Option (BitVec 8 × BitVec 8 × Nat × Bool) :=
  let x := s.party i p
  let y := s.inst i
  let n := x.recs.length
  let chunks := x.desc.count / 64
  if (s.job id).cancel then some (0, 0, 0, true)
  else if y.disagree then some (0x11, 12, 0, false)
  else if y.lost then some (0x12, 0, 0, false)
  else
    match x.off with
    | some (c, sub) => some (c, sub, n, false)
    | none =>
      if !x.prep || decide (x.rcur < (x.recv y.np).length) || decide (x.scur < (x.send y.np).length)
          || s.unheard i p then none
      else if y.exceeded then some (0x11, 11, n, false)
      else
        match (List.range chunks).find? x.expBad with
        | some c => some (0x08, 3, c, false)
        | none =>
          match errorKinds x.recs with
          | k :: _ => some (0x11, BitVec.ofNat 8 (6 + k), n, false)
          | [] => if x.blocked.isEmpty then some (0, 0, n, false) else some (0x11, 9, 0, false)

/-- The instance and the party of a collective job. -/
def State.partyOfJob (s : State) (id : Nat) : Option (Nat × Nat) :=
  s.insts.findSome? (fun i => (i.2.parties.find? (fun p => p.2.joined && p.2.job == some id)).map (fun p => (i.1, p.1)))

/-- The chunks that a party has yet to take as it ends, because it stopped, go from its links (log entry 122). -/
def State.dropLeft (s : State) (i p : Nat) : State :=
  let x := s.party i p
  ((x.recv (s.inst i).np).drop x.rcur).foldl (fun s t =>
    if s.isLocal i t.snd then s
    else match (s.namedChunks i t)[s.copiesBefore i t]? with
      | some n => (s.takeChunk i t n).1
      | none => s) s

/-- JOB_COMPLETE (R121, R153, R155, R161, R182, R198): the future completes, the job's edges fall, and host accesses that its claims held proceed. -/
def execJobComplete (job : Nat) (s : State) : Host.Outcome State Fault Refusal :=
  let j := s.job job
  if !s.jobs.has job || j.state != 0 then ok s
  else
    match j.kind with
    | .coll _ =>
      (match s.partyOfJob job with
       | some (i, p) =>
         (match s.partyEnd job i p with
          | some (c, sub, n, cancel) => ok (((s.dropLeft i p).endCopy job c sub n false cancel).finishJob job).releaseHost
          | none => ok s)
       | none => ok s)
    | _ => if j.copyDone && !s.followQueued job then ok (s.finishJob job).releaseHost else ok s

/-- A chunk is sent to a peer again: from the copy that is on its way, or from the one that is kept while the sender's inputs are retained, which is then on its way once more (R183 to R185, R315). -/
def State.sendAgain (s : State) (i : Nat) (t : CStep) : State :=
  match (s.inst i).flying.find? (sameFly t), (s.inst i).kept.find? (sameFly t) with
  | some f, _ => s.sendChunk ((s.inst i).home t.rcv).1 f.bytes
  | none, some f =>
    if (s.party i t.snd).released then s
    else (s.sendChunk ((s.inst i).home t.rcv).1 f.bytes).updInst i (fun y => { y with flying := y.flying ++ [f], kept := y.kept.filter (fun g => !sameFly t g) })
  | none, none => s

/-- A peer tells of a party on it (R173, R175, R182 to R185, R315): what the party's state makes of the chunk-steps of this device follows by the schedule. A chunk that it has accepted is done with; one whose check failed there is kept while its sender's inputs are retained, and the failure counts as recorded there; one that it asks for again is sent again from the copy. -/
def State.hearParty (s : State) (i p : Nat) (n : PartyNews) : State :=
  if !s.insts.has i || s.isLocal i p then s
  else
    match n with
    | .stopped => s.updParty i p (fun x => { x with off := some (0x11, 9) })
    | .disagrees => s.updInst i (fun y => { y with disagree := true })
    | .released => s.updParty i p (fun x => { x with released := true })
    | .blocked step chunk => s.updParty i p (fun x => { x with blocked := if x.blocked.contains (step, chunk) then x.blocked else x.blocked ++ [(step, chunk)] })
    | .unsent step chunk rcv => s.updParty i p (fun x => { x with unsent := (step, chunk, rcv) :: x.unsent })
    | .accepted step chunk snd => s.unfly i ⟨.gat, step, chunk, snd, p⟩
    | .failed step chunk snd =>
      match (s.inst i).flying.find? (sameFly ⟨.gat, step, chunk, snd, p⟩) with
      | some f => (s.keepFly i ⟨.gat, step, chunk, snd, p⟩ f.bytes).updParty i p (fun x => { x with recs := x.recs ++ [1] })
      | none => s
    | .again step chunk snd => s.sendAgain i ⟨.gat, step, chunk, snd, p⟩

/-- A link on the path of a collective goes down: the parties of this device end with KIND 0x12 (R182, R206). -/
def State.loseLink (s : State) (link : Nat) : State :=
  { s with insts := s.insts.mapVals (fun _ i => if i.homes.any (fun h => h.1 != s.devNum && linkOf h.1 == link) then { i with lost := true } else i) }

end Sys2Proof.Machine
end

