-- ==== Sys2Proof/Machine/Launch.lean ====
section
/-! DEFINITION. The task scheduler and the distributor: taking and checking launch records, placing, saving, restoring and ending blocks, slices, carve-outs, and the fetches that give no instruction (spec/05_execution.md R52 to R62, R70, R74 to R76, spec/09_ordering.md R101, R126, spec/03_encoding.md R47, R48, spec/23_ref_scalar_control.md R236, R240). -/

namespace Sys2Proof.Machine

open Sys2Proof

/-! ## Reads of the task scheduler -/

/-- The parts of a range of a context in its 64 KiB granules. -/
def granules (va : DWord) (n : Nat) : List (DWord × Nat) :=
  if n = 0 then []
  else
    (List.range ((va.toNat % 65536 + n - 1) / 65536 + 1)).map (fun i =>
      let a := if i = 0 then va.toNat else (va.toNat / 65536 + i) * 65536
      (BitVec.ofNat 64 a, min (65536 - a % 65536) (va.toNat + n - a)))

/-- A read of the task scheduler waits. -/
def State.schedBlocked (s : State) (c : Nat) (va : DWord) (n : Nat) : Bool :=
  (granules va n).any (fun g =>
    match s.placeHub c c g.1 .read with
    | .ok p =>
      (match p.tgt with
       | .device => s.meetsClaim p.pa g.2 false || s.readWaits p.pa g.2
       | .peer dev _ => s.linkHolds dev
       | .host => false)
    | .error _ => false)

/-- One granule of a read of the task scheduler: `none` when the context cannot read it (R54). -/
def State.schedPart (s : State) (c : Nat) (va : DWord) (n : Nat) : Option (State × List Byte) :=
  match s.placeHub c c va .read with
  | .error _ => none
  | .ok p =>
    match p.tgt with
    | .device => if (s.badLevel p.pa n).isSome then none else some (s.homeRead p.pa n)
    | .host => some (s, s.hostMem.bytes p.pa n)
    | .peer dev asid => if s.linkIsDown dev then none else some (s.sendRequest dev asid va, Mem.bytes (s.peerMem.get [] dev) p.pa n)

/-- A read of the task scheduler. -/
def State.schedParts (s : State) (c : Nat) : List (DWord × Nat) → Option (State × List Byte)
  | [] => some (s, [])
  | g :: t =>
    match s.schedPart c g.1 g.2 with
    | none => none
    | some (s, d) =>
      match State.schedParts s c t with
      | none => none
      | some (s, e) => some (s, d ++ e)
def State.schedRead (s : State) (c : Nat) (va : DWord) (n : Nat) : Option (State × List Byte) := s.schedParts c (granules va n)

/-- The array reads behind a read that failed, whose uncorrectable sectors the controllers count (R194). -/
def State.schedMeet (s : State) (c : Nat) (va : DWord) (n : Nat) : State :=
  (granules va n).foldl (fun s g =>
    match s.placeHub c c g.1 .read with
    | .ok p => if p.tgt == .device then s.fetchLines p.pa g.2 else s
    | .error _ => s) s

/-! ## The fields of a launch (R52, R53, R59, R152) -/

/-- The bytes that validation reads: the record, the descriptor with its buckets, the footprint list and the group table. -/
structure LaunchData where
  record : List Byte
  desc : List Byte
  foot : List Byte
  groups : List Byte
deriving DecidableEq, Repr

def recKdesc (r : List Byte) : DWord := BitVec.ofNat 64 (fieldAt r 0 8)
def recNblk (r : List Byte) : Nat := fieldAt r 8 4 + 1
def recFlags (r : List Byte) : Nat := fieldAt r 0xC 4
def recSh (r : List Byte) (j : Nat) : Nat := fieldAt r (0x10 + 4 * j) 4
def recGtab (r : List Byte) : DWord := BitVec.ofNat 64 (fieldAt r 0x30 8)
def recNgrp (r : List Byte) : Nat := fieldAt r 0x38 4
def recCtx (r : List Byte) : Nat := fieldAt r 0x3C 4
def recFtab (r : List Byte) : DWord := BitVec.ofNat 64 (fieldAt r 0x40 8)
def recNftp (r : List Byte) : Nat := fieldAt r 0x48 4
def recFramen (r : List Byte) : Nat := fieldAt r 0x4C 4
def recFrameva (r : List Byte) : DWord := BitVec.ofNat 64 (fieldAt r 0x50 8)
def recStatva (r : List Byte) : DWord := BitVec.ofNat 64 (fieldAt r 0x58 8)
def recDoneva (r : List Byte) : DWord := BitVec.ofNat 64 (fieldAt r 0x60 8)
def recDoneval (r : List Byte) : DWord := BitVec.ofNat 64 (fieldAt r 0x68 8)

def descWaves (d : List Byte) : Nat := fieldAt d 0 1
def descVreg8 (d : List Byte) : Nat := fieldAt d 1 1
def descSregs (d : List Byte) : Nat := fieldAt d 2 1
def descAccs (d : List Byte) : Nat := fieldAt d 3 1
def descScr (d : List Byte) : Nat := fieldAt d 4 1
def descNbkt (d : List Byte) : Nat := fieldAt d 5 1
def descSpilld (d : List Byte) : Nat := fieldAt d 6 2
def descHandler (d : List Byte) : Nat := fieldAt d 8 8
def descLim (d : List Byte) (j : Nat) : Nat := fieldAt d (0x10 + 4 * j) 4
def bucketEntry (d : List Byte) (k : Nat) : Nat := fieldAt d (0x40 + 80 * k) 8
def bucketLo (d : List Byte) (k j : Nat) : Nat := fieldAt d (0x48 + 80 * k + 4 * j) 4
def bucketHi (d : List Byte) (k j : Nat) : Nat := fieldAt d (0x68 + 80 * k + 4 * j) 4

/-- The buckets that the descriptor holds; a count beyond its range is refused later (R54). -/
def bucketsOf (d : List Byte) : List Nat := List.range (min (descNbkt d) 8)

/-- A footprint entry (R152). -/
def footAt (f : List Byte) (i : Nat) : Range :=
  let k := fieldAt f (16 * i + 15) 1
  ⟨fieldAt f (16 * i) 8, fieldAt f (16 * i + 8) 6, k == 1 || k == 3, k == 2 || k == 3⟩
/-- A footprint entry breaks its format (R152). -/
def footBad (f : List Byte) (i : Nat) : Bool :=
  let k := fieldAt f (16 * i + 15) 1
  fieldAt f (16 * i + 14) 1 != 0 || k == 0 || decide (3 < k) || fieldAt f (16 * i + 8) 6 == 0

/-- The terms of row `g` that are in use (R59). -/
def rowTerms (t : List Byte) (g : Nat) : List Term :=
  (List.range 4).filterMap (fun i =>
    let o := 64 * (g - 1) + 12 * i
    if fieldAt t (o + 4) 4 = 0 then none else some ⟨fieldAt t o 4, fieldAt t (o + 4) 4, fieldAt t (o + 8) 4⟩)
/-- A term breaks R59. -/
def Term.bad (t : Term) (nblk : Nat) : Bool :=
  (decide (1 < t.count) && t.stride == 0) || decide (nblk ≤ t.start + (t.count - 1) * t.stride)

/-- The groups of the table, one list of terms for each stored row. -/
def groupsOf (x : LaunchData) : List (List Term) := (List.range (recNgrp x.record - 1)).map (fun i => rowTerms x.groups (i + 1))

/-- The group table breaks R59 (code 0x05). A row whose reserved bytes are not zero is taken as one of its faults. -/
def groupsBad (x : LaunchData) : Bool :=
  let gs := groupsOf x
  let n := recNblk x.record
  (List.range (recNgrp x.record - 1)).any (fun i => fieldAt x.groups (64 * i + 48) 16 != 0)
    || gs.any (fun g => g.isEmpty || g.any (fun t => t.bad n))
    || (decide (3 < gs.length) && (List.range n).any (fun b => decide (3 < (gs.filter (fun g => g.any (fun t => t.holds b))).length)))

/-- A reserved field that is set, or a field out of its range or alignment (code 0x02). -/
def fieldsBad (va : DWord) (x : LaunchData) : Bool :=
  let r := x.record
  let d := x.desc
  decide (1 < recFlags r) || fieldAt r 0x70 16 != 0 || va.toNat % 128 != 0 || (recKdesc r).toNat % 256 != 0
    || recNgrp r == 0 || decide (256 < recNgrp r) || (recNgrp r == 1 && recGtab r != 0)
    || (recStatva r).toNat % 64 != 0 || (recFrameva r).toNat % 65536 != 0 || (recDoneva r).toNat % 8 != 0
    || descWaves d == 0 || decide (64 < descWaves d) || descVreg8 d == 0 || decide (32 < descVreg8 d)
    || descSregs d == 0 || decide (64 < descSregs d) || decide (16 < descAccs d) || decide (7 < descScr d)
    || descNbkt d == 0 || decide (8 < descNbkt d) || decide (descSpilld d < 8) || decide (1024 < descSpilld d)
    || descHandler d % 4 != 0 || fieldAt d 0x30 16 != 0
    || (bucketsOf d).any (fun k => bucketEntry d k % 4 != 0 || fieldAt d (0x88 + 80 * k) 8 != 0)
    || (decide (recNftp r ≤ 64) && (List.range (recNftp r)).any (footBad x.foot))

/-- The shape values of the launch: those of the record, with sh0 and sh1 as a firing sets them (R57, R170). -/
def shOf (r : List Byte) (sh : Option (Word × Word)) (j : Nat) : Nat :=
  match sh with
  | some (a, b) => if j = 0 then a.toNat else if j = 1 then b.toNat else recSh r j
  | none => recSh r j

/-- The lowest bucket that the shape values match (R57). -/
def bucketFor (d : List Byte) (sh : Nat → Nat) : Option Nat :=
  (bucketsOf d).find? (fun k => (List.range 8).all (fun j => decide (bucketLo d k j ≤ sh j) && decide (sh j ≤ bucketHi d k j)))

/-- The lane count is out of bounds (R58). -/
def lanesBad (x : LaunchData) (sh : Nat → Nat) (k : Nat) : Bool :=
  let w8 := descWaves x.desc * 8
  let n := recNblk x.record * w8
  decide (n < sh 0) || decide (roundUp (bucketHi x.desc k 0) w8 < n)

/-- One block needs more than a core has (R62). -/
def tooBig (waves vregs scr accs : Nat) : Bool :=
  decide (64 < ceilDiv waves 8) || decide (4096 < ceilDiv waves 8 * vregs) || decide (7 < scr) || decide (64 < accs)

/-- The first check of R54 from code 0x02 on that fails, or the bucket. -/
def launchCheck (va : DWord) (x : LaunchData) (sh : Nat → Nat) : Except Nat Nat :=
  if fieldsBad va x then .error 2
  else
    match bucketFor x.desc sh with
    | none => .error 3
    | some k =>
      if lanesBad x sh k then .error 4
      else if groupsBad x then .error 5
      else if 64 < recNftp x.record || recFramen x.record == 0 then .error 6
      else if tooBig (descWaves x.desc) (8 * descVreg8 x.desc) (descScr x.desc) (descAccs x.desc) then .error 7
      else .ok k

/-- The launch that a checked record makes. -/
def launchOf (va : DWord) (c : Nat) (q : LaunchRec) (x : LaunchData) (k : Nat) : Launch :=
  let r := x.record
  let d := x.desc
  let sh := shOf r q.sh
  { st := .waiting, src := q.src, va := va, kdesc := recKdesc r, nblk := recNblk r, fom := recFlags r % 2 == 1
    sh := (List.range 8).map (fun j => (j, BitVec.ofNat 32 (sh j))), groups := groupsOf x, ngrp := recNgrp r, ctx := c
    frameN := recFramen r, frameVa := recFrameva r, statVa := recStatva r, doneVa := recDoneva r, doneVal := recDoneval r
    waves := descWaves d, vregs := 8 * descVreg8 d, sregs := descSregs d, accs := descAccs d, scr := descScr d
    spillD := descSpilld d, handler := BitVec.ofNat 64 (descHandler d)
    lim := (List.range 8).map (fun j => (j, BitVec.ofNat 32 (descLim d j)))
    entry := recKdesc r + BitVec.ofNat 64 (bucketEntry d k), next := 0, live := 0, frames := [], gbars := [], stats := []
    buffer := q.buffer, flips := [], due := none }

/-! ## LAUNCH_RECORD_TAKE -/

/-- Places of the round-robin: host queues 0 to 63, then the LAUNCH queues by context (R55). -/
def queuePlaces : Nat := 64 + 3072

/-- The record at the head of a queue, with the context of the queue. -/
def State.queueHead (s : State) (k : Nat) : Option (Nat × LaunchRec) :=
  if k < 64 then
    match (s.mgmt.lq.get .zero k).recs with
    | va :: _ => some ((s.mgmt.lq.get .zero k).ctx, ⟨va, .queue k, none, none, none⟩)
    | [] => none
  else
    match s.mgmt.lauq.get [] (k - 64) with
    | q :: _ => some (k - 64, q)
    | [] => none

/-- The queues that hold a record. -/
def State.fullQueues (s : State) : List Nat :=
  ((s.mgmt.lq.map Prod.fst) ++ (s.mgmt.lauq.map (fun (x : Nat × List LaunchRec) => 64 + x.1))).filter (fun k => (s.queueHead k).isSome)

/-- How far a queue is from the next place of the round-robin. -/
def State.turnsTo (s : State) (k : Nat) : Nat := (k + queuePlaces - s.mgmt.rr % queuePlaces) % queuePlaces
/-- The nearest queue of a list. -/
def State.nearest (s : State) : List Nat → Option Nat
  | [] => none
  | k :: t =>
    match s.nearest t with
    | none => some k
    | some j => if s.turnsTo k ≤ s.turnsTo j then some k else some j

/-- The head of a queue leaves it, and the round-robin moves on. -/
def State.popQueue (s : State) (k : Nat) : State :=
  s.updMgmt fun m =>
    if k < 64 then { m with lq := m.lq.upd .zero k (fun q => { q with recs := q.recs.drop 1 }), rr := (k + 1) % queuePlaces }
    else { m with lauq := m.lauq.upd [] (k - 64) (fun l => l.drop 1), rr := (k + 1) % queuePlaces }

/-- The buffer of a firing whose launch was refused is free again (R170). -/
def State.freeBuffer (s : State) (b : Option (Nat × Nat)) : State :=
  match b with
  | some (q, k) => s.updEq q (fun e => { e with busy := e.busy.filter (fun x => x.2 != k) })
  | none => s

/-- A refusal (R54): to DONEVA, or to the log where the record could not be read. -/
def State.refuse (s : State) (c : Nat) (q : LaunchRec) (r : Option (List Byte)) (code : Nat) : State :=
  match r with
  | some r => (s.report none (recDoneva r) q.va c code q.src 0).freeBuffer q.buffer
  | none => (s.logLaunch q.va c code q.src 0).freeBuffer q.buffer

/-- Reads what the record names: descriptor, buckets, footprint list and group table; `none` when the context cannot read one of them (code 0x01). -/
def State.readLaunch (s : State) (c : Nat) (r : List Byte) : Option (State × LaunchData) :=
  match s.schedRead c (recKdesc r) 64 with
  | none => none
  | some (s, d) =>
    match s.schedRead c (recKdesc r + 64) (80 * min (descNbkt d) 8) with
    | none => none
    | some (s, b) =>
      match s.schedRead c (recFtab r) (if recNftp r ≤ 64 then 16 * recNftp r else 0) with
      | none => none
      | some (s, f) =>
        match s.schedRead c (recGtab r) (if recNgrp r ≤ 256 then 64 * (recNgrp r - 1) else 0) with
        | none => none
        | some (s, g) => some (s, ⟨r, d ++ b, f, g⟩)

/-- The array reads behind a record whose descriptor, buckets, footprint list or group table cannot be read. -/
def State.launchMeet (s : State) (c : Nat) (r : List Byte) : State :=
  let nb := match s.schedRead c (recKdesc r) 64 with
    | some (_, d) => 80 * min (descNbkt d) 8
    | none => 0
  ((s.schedMeet c (recKdesc r) (64 + nb)).schedMeet c (recFtab r) (if recNftp r ≤ 64 then 16 * recNftp r else 0)).schedMeet c (recGtab r)
    (if recNgrp r ≤ 256 then 64 * (recNgrp r - 1) else 0)

/-- Some read of the record or of what it names waits at its home (R55, R251). -/
def State.launchBlocked (s : State) (c : Nat) (va : DWord) : Bool :=
  s.schedBlocked c va 128 ||
    match s.schedRead c va 128 with
    | none => false
    | some (_, r) =>
      let nb := match s.schedRead c (recKdesc r) 64 with
        | some (_, d) => 80 * min (descNbkt d) 8
        | none => 0
      s.schedBlocked c (recKdesc r) (64 + nb)
        || s.schedBlocked c (recFtab r) (if recNftp r ≤ 64 then 16 * recNftp r else 0)
        || s.schedBlocked c (recGtab r) (if recNgrp r ≤ 256 then 64 * (recNgrp r - 1) else 0)

/-- Checks a record and enters its launch in the footprint unit, or refuses it (R54, R153). -/
def State.takeRecord (s : State) (c : Nat) (q : LaunchRec) : State :=
  if !(s.ctx c).v then s.refuse c q none 1
  else
    match s.schedRead c q.va 128 with
    | none => (s.schedMeet c q.va 128).refuse c q none 1
    | some (s, r) =>
      if recCtx r != c then s.refuse c q (some r) 1
      else
        match s.readLaunch c r with
        | none => (s.launchMeet c r).refuse c q (some r) 1
        | some (s, x) =>
          match launchCheck q.va x (shOf r q.sh) with
          | .error code => s.refuse c q (some r) code
          | .ok k =>
            let l := s.launches.fresh
            let foot := (List.range (recNftp r)).map (footAt x.foot)
            (s.setLaunch l (launchOf q.va c q x k)).enterFoot (some l) none c foot q.parent

/-- LAUNCH_RECORD_TAKE (R54, R55, R216, R251): the next record of the round-robin. Nothing is taken under DIEPARK.HOLD or a checkpoint, before the device is ready (R222, R224), while the footprint unit is full, or while a read of the record waits at its home. -/
def execLaunchRecordTake (s : State) : Host.Outcome State Fault Refusal :=
  if !s.queuesRun || s.mgmt.bootstat.toNat % 16 != 4 || 4096 ≤ s.feet.length then ok s
  else
    match s.nearest s.fullQueues with
    | none => ok s
    | some k =>
      match s.queueHead k with
      | none => ok s
      | some (c, q) => if (s.ctx c).v && s.launchBlocked c q.va then ok s else ok ((s.popQueue k).takeRecord c q)

/-! ## Room on a core (R62) -/

/-- Resident waves of an issue slot. -/
def State.slotWaves (s : State) (p k : Nat) : List Nat :=
  ((s.residents p).flatMap (fun b => (s.block b).waves)).filter (fun w => (s.wave w).idx % 8 == k)
/-- Wave-registers that a slot holds. -/
def State.slotRegs (s : State) (p k : Nat) : Nat :=
  (s.slotWaves p k).foldl (fun n w => n + (s.launch (s.block (s.wave w).block).launch).vregs) 0
/-- Waves of a block in an issue slot. -/
def wavesIn (waves k : Nat) : Nat := ((List.range waves).filter (fun w => w % 8 == k)).length
/-- Scratch of the resident blocks, in 64 KiB units, and their accumulator tiles. -/
def State.scratchUsed (s : State) (p : Nat) : Nat := (s.residents p).foldl (fun n b => n + (s.launch (s.block b).launch).scr) 0
def State.accsUsed (s : State) (p : Nat) : Nat := (s.residents p).foldl (fun n b => n + (s.launch (s.block b).launch).accs) 0

/-- The pairs that hold an energy slot of a core, or will at the next core cycle (R217, R316). -/
def State.pairsOf (s : State) (p : Nat) : List (Nat × Nat) :=
  (((s.core p).eslots.filterMap (fun x => x.2.pair)) ++ (s.residents p).map s.pairOf).eraseDups

/-- The core has room for a block of a launch but for its scratch: registers and waves in every slot, tiles, feeds, and an energy slot (R62, R159, R217). -/
def State.roomBesides (s : State) (l : Launch) (lcore : Nat) : Bool :=
  let p := s.remapOf lcore
  (List.range 8).all (fun k =>
      decide (s.slotRegs p k + wavesIn l.waves k * l.vregs ≤ 4096) && decide ((s.slotWaves p k).length + wavesIn l.waves k ≤ 64))
    && decide (s.accsUsed p + l.accs ≤ 64)
    && (l.accs == 0 || decide (((s.residents p).filter (fun b => (s.launch (s.block b).launch).accs != 0)).length < 4))
    && (s.mgmt.ensave.toNat / 4096 % 2 ^ 28 == 0 || (s.pairsOf p).contains (l.ctx, lcore) || decide ((s.pairsOf p).length < 8))
/-- The block fits. -/
def State.fits (s : State) (l : Launch) (lcore : Nat) : Bool :=
  s.roomBesides l lcore && decide (s.scratchUsed (s.remapOf lcore) + l.scr ≤ (s.core (s.remapOf lcore)).carve)

/-- A saved block can come back to a logical core: it fits there, and so do its jobs (R62, R154). -/
def State.takesBack (s : State) (b lcore : Nat) : Bool := s.fits (s.launch (s.block b).launch) lcore && s.jobsFit b (s.remapOf lcore)

/-- The logical core may take block `b` of the launch (R62). -/
def Launch.mayUse (l : Launch) (b lcore : Nat) : Bool := !l.fom || lcore == b % 256

/-! ## BLOCK_START -/

/-- The lowest frame slot that no block holds (R75, log entry 24). -/
def Launch.freeFrame (l : Launch) : Option Nat := (List.range (l.frames.length + 1)).find? (fun f => decide (f < l.frameN) && !l.frames.contains f)

/-- The pad lanes of a wave (R58). -/
def padOf (l : Launch) (b w : Nat) : Mask := maskOf (fun k => decide ((l.sh.get 0 0).toNat ≤ (b * l.waves + w) * 8 + k))

/-- A wave at the start of its block (R65). -/
def startWave (l : Launch) (block b w since : Nat) : Wave :=
  { Wave.zero with
    block := block, idx := w, exited := false, launchMask := 0xFF, pad := padOf l b w, since := since
    slotA := { Slot.zero with live := true, path := ⟨l.entry, 0xFF, modeReset l.fom, none⟩ } }

/-- A core that starts a block of another context clears its value history (R132). -/
def Core.startFor (c : Core) (ctx : Nat) : Core :=
  { c with history := if c.prevCtx = some ctx then c.history else [], prevCtx := some ctx }

/-- Starts the next block of a launch on a logical core, with a frame slot. -/
def State.startBlock (s : State) (l lcore frame : Nat) : State :=
  let x := s.launch l
  let p := s.remapOf lcore
  let b := s.blocks.fresh
  let w0 := s.waves.fresh
  let ws := List.range x.waves
  let s := s.setBlock b { Block.zero with
    launch := l, idx := x.next, st := .resident, lcore := lcore, pcore := p, frame := frame
    waves := ws.map (fun w => w0 + w), lim := x.lim, since := s.seq }
  let s := ws.foldl (fun s w => s.setWave (w0 + w) (startWave x b x.next w s.seq)) s
  let s := s.updLaunch l (fun y => { y with next := y.next + 1, live := y.live + 1, frames := frame :: y.frames })
  let s := s.updCore p (fun c => c.startFor x.ctx)
  (s.tick).enterCore b

/-- The next block of the launch may start on the logical core (R62, R75, R126, R217): blocks start in ascending order, on a core with room that has no carve-out request. -/
def State.startable (s : State) (launch lcore : Nat) : Bool :=
  let l := s.launch launch
  !s.ckptHolds && l.st == .running && decide (l.next < l.nblk) && decide (l.frames.length < l.frameN) && s.placed lcore && l.mayUse l.next lcore
    && (s.core (s.remapOf lcore)).carveReq.isNone && s.fits l lcore

/-- BLOCK_START (R62, R75, R126, R217). -/
def execBlockStart (launch lcore : Nat) (s : State) : Host.Outcome State Fault Refusal :=
  if s.startable launch lcore then
    match (s.launch launch).freeFrame with
    | some f => ok (s.startBlock launch lcore f)
    | none => ok s
  else ok s

/-! ## Waiting blocks (R76) -/

/-- The held unit is WAITC. -/
def isWaitc : Option Instr → Bool
  | some (.waitc _ _ _) => true
  | some (.waitcImm _ _ _) => true
  | _ => false
/-- A PC slot is held at a barrier. -/
def State.atBarrier (s : State) (w : Nat) (sl : Slot) : Bool :=
  match sl.wait with
  | .barrier g n gen => !s.waitOver w (.barrier g n gen)
  | _ => false
/-- A PC slot is held at a barrier, in WAITC or on a future. -/
def State.slotWaits (s : State) (w : Nat) (sl : Slot) : Bool :=
  match sl.wait with
  | .barrier _ _ _ => s.atBarrier w sl
  | .future h => !s.waitOver w (.future h)
  | .counter p n => isWaitc sl.held && !s.waitOver w (.counter p n)
  | _ => false
/-- The PC slots of a wave that may run: both, or the one of the handler. -/
def Wave.runSlots (w : Wave) : List Slot :=
  match w.handler with
  | some sb => [w.slot sb]
  | none => [w.slotA, w.slotB].filter Slot.live
/-- Every PC slot of every wave that has not exited is held as `f` says. -/
def State.blockHeld (s : State) (b : Nat) (f : Nat → Slot → Bool) : Bool :=
  !(s.liveWaves b).isEmpty && (s.liveWaves b).all (fun w => !(s.wave w).runSlots.isEmpty && (s.wave w).runSlots.all (f w))
/-- The block waits (R76). -/
def State.blockWaits (s : State) (b : Nat) : Bool := s.blockHeld b s.slotWaits
/-- A saved block is ready to come back. -/
def State.savedReady (s : State) (b : Nat) : Bool := (s.block b).st == .saved && (s.block b).pageWait.isNone && !s.blockWaits b
/-- The resident blocks of a launch. -/
def State.launchResidents (s : State) (l : Nat) : List Nat := s.blocks.keysWhere (fun _ b => b.launch == l && b.st == .resident)
/-- A launch has a block that has not started and a frame slot for it. -/
def Launch.moreToStart (l : Launch) : Bool := l.st == .running && decide (l.next < l.nblk) && decide (l.frames.length < l.frameN)

/-- Some block could be brought in: saved and ready, or not started. -/
def State.othersToRun (s : State) : Bool :=
  !(s.blocks.keysWhere (fun b _ => s.savedReady b)).isEmpty || s.launches.any (fun l => l.2.moreToStart)

/-- The block has been resident longest among the blocks of its launch. -/
def State.longestResident (s : State) (b : Nat) : Bool :=
  (s.launchResidents (s.block b).launch).all (fun c => decide ((s.block b).since ≤ (s.block c).since))

/-- The swap that R76 describes: a waiting block while every resident block of its core waits and another can be brought in, or, while a saved block of the launch is ready, finds no room and no resident block of the launch waits, the block of the launch that has been resident longest once it has issued SLICEQ instructions. -/
def State.swapDue (s : State) (b : Nat) : Bool :=
  let x := s.block b
  (s.blockWaits b && (s.residents x.pcore).all s.blockWaits && s.othersToRun)
    || (s.blocks.any (fun y => y.2.launch == x.launch && s.savedReady y.1
          && !(List.range 256).any (fun l => s.placed l && (s.launch x.launch).mayUse y.2.idx l && s.fits (s.launch x.launch) l))
        && !(s.launchResidents x.launch).any s.blockWaits && s.longestResident b && decide (s.mgmt.sliceq.toNat ≤ x.issued))

/-- DISTRIBUTOR_SWAP (R76). -/
def execDistributorSwap (block : Nat) (s : State) : Host.Outcome State Fault Refusal :=
  if (s.block block).st == .resident && s.swapDue block then ok (s.saveBlock block true none) else ok s

/-- BLOCK_PREEMPT (R74). -/
def execBlockPreempt (block : Nat) (s : State) : Host.Outcome State Fault Refusal := ok (s.saveBlock block true none)

/-- A saved block that waits on no page may come back to the logical core (R74, R75). -/
def State.restorable (s : State) (block lcore : Nat) : Bool :=
  let x := s.block block
  let l := s.launch x.launch
  !s.ckptHolds && x.st == .saved && x.pageWait.isNone && s.placed lcore && l.mayUse x.idx lcore && s.takesBack block lcore

/-- BLOCK_RESTORE (R74, R75, R131): a saved block comes back to a core with room; a frame that fails its check ends the launch with code 0x23. -/
def execBlockRestore (block lcore : Nat) (intact : Bool) (s : State) : Host.Outcome State Fault Refusal :=
  if s.restorable block lcore then
    if intact then ok (s.restoreBlock block lcore) else ok (s.endLaunch (s.block block).launch 0x23 0)
  else ok s

/-- A wave of the block is held at a GBAR whose group has a block that has not started. -/
def State.needsUnstarted (s : State) (l : Launch) (b : Nat) : Bool :=
  (s.liveWaves b).any (fun w => (s.wave w).runSlots.any (fun sl =>
    match sl.wait with
    | .barrier true g gen => s.atBarrier w sl && decide (gen = (l.gbars.get Barrier.zero g).gen) && (List.range (l.nblk - l.next)).any (fun i => l.member g (l.next + i))
    | _ => false))

/-- LAUNCH_FRAMES_EXHAUSTED (R70, R76): every frame slot is held by a block that waits at a barrier which needs a block that has not started. -/
def execLaunchFramesExhausted (launch : Nat) (s : State) : Host.Outcome State Fault Refusal :=
  let l := s.launch launch
  let bs := s.liveBlocks launch
  if l.st == .running && decide (l.next < l.nblk) && decide (l.frameN ≤ l.frames.length) && !bs.isEmpty
      && bs.all (fun b => s.blockHeld b s.atBarrier && s.needsUnstarted l b) then ok (s.endLaunch launch 0x22 0)
  else ok s

/-! ## BLOCK_END -/

/-- Every wave of the block has exited and every copy job of it has completed (R240). -/
def State.blockOver (s : State) (b : Nat) : Bool :=
  (s.block b).st == .resident && (s.liveWaves b).isEmpty && !s.jobs.any (fun x => x.2.block == b && x.2.state == 0 && decide (x.2.engine < 8))

/-- BLOCK_END (R63, R69, R70, R240): the buffered ARED entries of the block are flushed and, once their homes have acknowledged them, its frame slot is freed; the launch ends with its last block. -/
def execBlockEnd (block : Nat) (s : State) : Host.Outcome State Fault Refusal :=
  if !s.blockOver block then ok s
  else
    let l := (s.block block).launch
    let s := s.flushBufs (fun e => e.launch == l && e.block == block)
    if s.flushOpen (fun e => e.launch == l && e.block == block) then ok s
    else
    let s := s.finishBlock block
    let x := s.launch l
    if x.live = 0 && decide (x.nblk ≤ x.next) && x.st == .running then ok (s.completeLaunch l) else ok s

/-! ## Slices and carve-outs (R61, R126) -/

/-- The active logical core has a resident wave that is ready. -/
def State.activeReady (s : State) (p l : Nat) : Bool :=
  s.waves.any (fun w => (s.block w.2.block).lcore == l && (s.block w.2.block).pcore == p && (s.ready w.1 false || s.ready w.1 true))

/-- SLICE_END (R61): after SLICEQ instructions of the active logical core, or when it has no ready wave, the other one is active. -/
def execSliceEnd (pcore : Nat) (s : State) : Host.Outcome State Fault Refusal :=
  match (s.core pcore).active, s.hosts pcore with
  | some l, [a, b] =>
    let other := if l = a then b else a
    if (s.core pcore).slice = 0 || !s.activeReady pcore l then
      ok (s.updCore pcore (fun c => { c with active := some other, slice := s.mgmt.sliceq.toNat }))
    else ok s
  | _, _ => ok s

/-- Sets the carve-out: lines beyond the ways that are left leave the L1 (R102, R126). -/
def State.setCarve (s : State) (p n : Nat) : State :=
  let out := (s.core p).l1.drop ((8 - n) * 512)
  let s := out.foldl (fun s l => s.evictL1 p l.pline (fun x => x.vline == l.vline && x.asid == l.asid)) s
  s.updCore p (fun c => { c with carve := n, carveReq := none, carveBy := none })

/-- The block whose own scratch exceeds the carve-out that it asked for has ended (R295). -/
def State.carveFree (s : State) (p : Nat) : Bool :=
  match (s.core p).carveBy with
  | some b => (s.block b).st == .ended
  | none => true

/-- CARVE_APPLY (R126, R295): once the scratch of the resident blocks fits the carve-out that is asked for, and the block that asked for less than its own scratch has ended. -/
def execCarveApply (pcore : Nat) (s : State) : Host.Outcome State Fault Refusal :=
  match (s.core pcore).carveReq with
  | some n => if s.scratchUsed pcore ≤ n && s.carveFree pcore then ok (s.setCarve pcore n) else ok s
  | none => ok s

/-- The physical core of a logical core has no resident block. -/
def State.idle (s : State) (l : Nat) : Bool := s.placed l && (s.residents (s.remapOf l)).isEmpty

/-- The core of a logical core is idle and has no carve-out request. -/
def State.carvable (s : State) (lcore : Nat) : Bool := s.idle lcore && (s.core (s.remapOf lcore)).carveReq.isNone
/-- The logical core that gets a carve-out for block `b` (R126): no core that could otherwise take the block has a carve-out for its scratch, and the core is idle without a request: that of the block's logical core in fixed order, otherwise the lowest. -/
def State.recarveFor (s : State) (l : Launch) (b : Nat) : Option Nat :=
  let core := if l.fom then (if s.carvable (b % 256) then some (b % 256) else none) else (List.range 256).find? s.carvable
  match core with
  | none => none
  | some c =>
    if (List.range 256).all (fun k => !(s.placed k && l.mayUse b k && s.roomBesides l k) || decide ((s.core (s.remapOf k)).carve < l.scr))
        && decide ((s.core (s.remapOf c)).carve < l.scr) then some c else none
/-- The blocks of a launch that wait for a place: the next one to start, and the saved ones. -/
def State.wantPlace (s : State) (launch : Nat) : List Nat :=
  let l := s.launch launch
  (if l.moreToStart then [l.next] else []) ++ ((s.blocks.filter (fun b => b.2.launch == launch && b.2.st == .saved && b.2.pageWait.isNone)).map (fun b => b.2.idx))
/-- The logical cores that the distributor would recarve for a launch now. -/
def State.recarves (s : State) (launch : Nat) : List Nat :=
  if (s.launch launch).st == .running then (s.wantPlace launch).filterMap (fun b => s.recarveFor (s.launch launch) b) else []

/-- DISTRIBUTOR_RECARVE (R126): an idle core gets the smallest carve-out that fits. -/
def execDistributorRecarve (launch lcore : Nat) (s : State) : Host.Outcome State Fault Refusal :=
  if (s.recarves launch).contains lcore then ok (s.setCarve (s.remapOf lcore) (s.launch launch).scr) else ok s

/-! ## The page-fault ring (R101) -/

/-- A ring entry (R101). -/
def PFault.bytes (f : PFault) : List Byte :=
  leBytes f.va.toNat 8 ++ leBytes (f.ctx % 4096) 2 ++ leBytes f.kind 1 ++ leBytes f.die 1 ++ leBytes f.who.toNat 4 ++ leBytes 0 16

/-- PAGE_FAULT_RING_ENTRY (R101): a waiting fault is entered while EN = 1 and the ring has room. -/
def execPageFaultRingEntry (fault : Nat) (s : State) : Host.Outcome State Fault Refusal :=
  let m := s.mgmt
  match m.faults[fault]? with
  | some f =>
    if f.entered || !m.pfbase.getLsbD 0 || m.pfhead + 1 = m.pftail then ok s
    else
      let s := s.deviceWrite (bitsOf m.pfbase.toNat 13 27 * 8192 + 32 * m.pfhead.toNat) f.bytes
      ok (s.updMgmt (fun m => { m with pfhead := m.pfhead + 1, faults := setNth m.faults fault { f with entered := true } }))
  | none => ok s

/-! ## Fetches that give no instruction -/

/-- A trap of a fetched unit is taken once no check window of the wave is open, with XPC at an offset from the unit. -/
def State.raiseAt (s : State) (i : Instr) (t : Trap) (xpc : DWord) : State :=
  if !s.waitOver s.focus.wave .window then s.holdAt i 0 .window 0 else s.takeTrap s.focus.wave s.focus.slotB t xpc

/-- ILLEGAL_INSTRUCTION (R34, R47, R48): the illegal-instruction or illegal-prefix trap of a unit that is no instruction. -/
def execIllegalInstruction (cause sub : BitVec 8) (word : BitVec 32) (off : BitVec 64) (s : State) : Host.Outcome State Fault Refusal :=
  ok (s.raiseAt (.illegalInstruction cause sub word off) ⟨cause, sub, 0, none, word.setWidth 64, false⟩ (s.pc + off))

/-- What a failed fetch of a word meets (R74, R101, R210, R236): a trap, a page that is not mapped, or nothing any more. -/
inductive FetchErr where
  | trap (t : Trap)
  | page
  | fine
deriving DecidableEq, Repr

/-- Why a word cannot be fetched: R236 for a leaf without execute permission or an uncorrectable word, R210 for the access table, R206 for a peer whose link is DOWN. -/
def State.fetchErr (s : State) (va : DWord) : FetchErr :=
  let cl := s.clusterOf s.fb.pcore
  match s.place cl s.fl.ctx va .fetch with
  | .error .unmapped => .page
  | .error (.fault cause sub) =>
    match s.lookup cl s.fl.ctx va with
    | .leaf e _ _ => if cause == 0x06 && !leafAllows e .fetch then .trap ⟨0x04, 1, 0, none, va, false⟩ else .trap ⟨cause, sub, 0, none, va, false⟩
    | .err _ => .trap ⟨cause, sub, 0, none, va, false⟩
  | .ok p =>
    if p.tgt == .device && s.mscDenies s.fl.ctx p.pa .fetch then .trap ⟨0x06, Right.sub .fetch, 0, none, va, false⟩
    else if p.tgt == .device && (s.badLevel p.pa 4).isSome then .trap ⟨0x04, 3, 0, none, va, false⟩
    else (match p.tgt with
      | .peer dev _ => if s.linkIsDown dev then .trap ⟨0x11, 13, 0, none, va, false⟩ else .fine
      | .device => .fine
      | .host => .fine)

/-- The array read of a word that cannot be fetched, whose uncorrectable sectors the controller counts (R194). -/
def State.fetchMet (s : State) (va : DWord) : State :=
  match s.place (s.clusterOf s.fb.pcore) s.fl.ctx va .fetch with
  | .ok p => if p.tgt == .device then s.fetchLine (lineOf p.pa) else s
  | .error _ => s

/-- INSTRUCTION_FETCH_FAULT (R33, R74, R101, R236): the trap with XPC at the unit's first word and XADDR at the word, or the block saved on the page. -/
def execInstructionFetchFault (va : DWord) (s : State) : Host.Outcome State Fault Refusal :=
  let i : Instr := .instructionFetchFault va
  match s.fetchErr va with
  | .trap t => ok ((if s.waitOver s.focus.wave .window then s.fetchMet va else s).raiseAt i t s.pc)
  | .page => ok (s.pageWait s i va 2)
  | .fine => ok (s.updWave s.focus.wave (fun v => v.updSlot s.focus.slotB (fun sl => { sl with held := none, phase := 0, wait := .none, ref := 0, billed := false })))

end Sys2Proof.Machine
end

