-- ==== Sys2Proof/Machine/Cycle.lean ====
section
/-! DEFINITION. The end of a core cycle: static charges, the ages of loads against their limits, and the slots that may issue again (spec/21_power_health.md R213, R217, R219, R220, spec/31_prog_energy_share.md R316 to R318, spec/11_guesses_drafts.md R127). -/

namespace Sys2Proof.Machine

/-- PWRSTAT.PST, the current P-state (R211). -/
def State.pst (s : State) : Nat := bitsOf s.mgmt.pwrstat.toNat 0 3
/-- The static charge of a core cycle (R219). -/
def State.staticEntry (s : State) : Nat := ((s.mgmt.stw.get 0 s.pst).extractLsb' 0 16).toNat
/-- The blocks that are resident on a core in its current core cycle, with their pairs: not those that come to it in this cycle, but those that leave it (R316). -/
def State.counted (s : State) (p : Nat) : List (Nat × Nat × Nat) :=
  let c := s.core p
  (((s.residents p).filter (fun b => !c.entering.contains b && !c.leaving.any (fun x => x.1 == b))).map (fun b => (b, s.pairOf b))) ++ c.leaving
/-- Resident waves of a block of a core: those that have not exited, those whose EXIT completed in this core cycle, and the last one until its block ends (R240, R316). -/
def State.waveCount (s : State) (p b : Nat) : Nat :=
  max 1 ((s.block b).waves.filter (fun w => !(s.wave w).exited || (s.wave w).left == some (s.core p).cyc)).length
/-- Resident waves of a list of blocks. -/
def State.wavesOf (s : State) (p : Nat) (bs : List (Nat × Nat × Nat)) : Nat := bs.foldl (fun n b => n + s.waveCount p b.1) 0
/-- The block among `bs` that holds the oldest resident wave (R71, R219, R316). -/
def State.oldestBlock (s : State) : List (Nat × Nat × Nat) → Option (Nat × Nat × Nat)
  | [] => none
  | b :: t =>
    match s.oldestBlock t with
    | none => some b
    | some c => if (s.block b.1).since ≤ (s.block c.1).since then some b else some c

/-- What the pair of a slot is charged in a core cycle (R219): its part of `S`, and the remainder when it holds the oldest wave. -/
def State.staticOf (s : State) (p : Nat) (pair : Nat × Nat) : Nat :=
  let bs := s.counted p
  let w := s.wavesOf p bs
  let part (q : Nat × Nat) : Nat := s.staticEntry * s.wavesOf p (bs.filter (fun b => b.2 == q)) / w
  if w = 0 then 0
  else
    let sum := ((bs.map Prod.snd).eraseDups.map part).foldl (· + ·) 0
    let old := match s.oldestBlock bs with
      | some b => b.2 == pair
      | none => false
    part pair + (if old then s.staticEntry - sum else 0)

/-- What a block's share takes of the static charge: the same split over waves (R220). -/
def State.staticShare (s : State) (p b : Nat) : Nat :=
  let bs := s.counted p
  let w := s.wavesOf p bs
  if w = 0 then 0
  else s.staticEntry / w * s.waveCount p b + (if (s.oldestBlock bs).map Prod.fst == some b then s.staticEntry - s.staticEntry / w * w else 0)

/-- Ends a core cycle for the energy slots of a core: what fell due and the static charge are added (R219, R220, R318). -/
def State.chargeStatic (s : State) (p : Nat) : State :=
  let s' := (s.counted p).foldl (fun t b =>
    if ((s.core p).slotOf b.2).isSome then t.updBlock b.1 (fun x => x.addShare (s.staticShare p b.1)) else t) s
  s'.updCore p (fun c => { c with eslots := c.eslots.mapVals (fun _ e =>
    match e.pair with
    | some q => e.endCycle (s.staticOf p q)
    | none => e) })

/-- Loads of the core whose guess may not be written later than in this cycle (R127). -/
def State.latest (s : State) (p : Nat) : List Nat :=
  s.accs.keysWhere (fun _ a => a.core == p && !a.fell && !a.guessed && (match a.limit with | some l => decide (l + 4 ≤ a.age) | none => false))

/-- The cycle is over: loads of resident blocks are one core cycle older, every issue slot may issue again, CYC advances. -/
def State.nextCycle (s : State) (p : Nat) : State :=
  let s := { s with accs := s.accs.mapVals (fun _ a => if a.core == p && (s.block a.block).st == BState.resident && !(s.core p).entering.contains a.block then { a with age := a.age + 1 } else a) }
  s.updCore p (fun c => { c with cyc := c.cyc + 1, usedSlots := [] })

/-- A slot of another core is still bound to the pair of a block: its write-back comes before the block is resident here (R217, R316). -/
def State.boundElsewhere (s : State) (p b : Nat) : Bool := s.cores.any (fun c => c.1 != p && (c.2.slotOf (s.pairOf b)).isSome)

/-- The blocks that left the core in the cycle that ends are gone from it, and the slots of pairs without a resident block are written back; pairs with a resident block and no slot are bound for the next cycle. A block whose pair another core has yet to write back does not become resident (R217, R316). -/
def State.turnover (s : State) (p : Nat) : State :=
  let out := (s.core p).leaving
  let s := s.updCore p (fun c => { c with leaving := [], entering := c.entering.filter (s.boundElsewhere p) })
  let s := out.foldl (fun s x => s.releasePair p x.2) s
  ((s.residents p).filter (fun b => !(s.core p).entering.contains b)).foldl (fun s b => s.bindPair p (s.pairOf b)) s

/-- DIEPARK.PARKED of a die (R214). -/
def State.parked (s : State) (d : Nat) : Bool := s.mgmt.diepark.getLsbD (4 + d)

/-- STATIC_CHARGE (R127, R213, R217, R219, R316): a core cycle ends, unless the clock is stopped or the die has no power: static charges, write-backs and bindings; launches that waited for a write-back report (R70), and host accesses that nothing holds any more are served. -/
def execStaticCharge (pcore : Nat) (s : State) : Host.Outcome State Fault Refusal :=
  if !s.coreClock || !coreExists pcore || s.parked (coreDie pcore) then ok s
  else
    let s := (s.latest pcore).foldl State.expire s
    let s := (s.chargeStatic pcore).nextCycle pcore
    ok ((s.turnover pcore).reportAll).releaseHost

end Sys2Proof.Machine
end

