-- ==== Sys2Proof/Machine/HostLink.lean ====
section
/-! DEFINITION. Bias flips and their commands, migration ahead of dispatch, millrace links and peers (spec/19_host_links.md R199 to R207, R320). -/

namespace Sys2Proof.Machine

open Sys2Proof

/-! ## Bias flips (R199, R201) -/

/-- The range in force that covers a bias page, with its number. -/
def State.biasRange (s : State) (page : Nat) : Option (Nat × BRange) := s.mgmt.ranges.find? (fun r => r.2.covers page)
/-- Writes the bit of a page into the bitmap of its range (R199). -/
def State.putBias (s : State) (page : Nat) (host : Bool) : State :=
  match s.biasRange page with
  | some (_, r) =>
    let i := page - eBits r.w0 12 28
    let a := eBits r.w1 3 37 * 8 + i / 8
    let b := (s.homeByte a).toNat
    let bit := 2 ^ (i % 8)
    s.deviceWrite a [BitVec.ofNat 8 (b - b / bit % 2 * bit + b2n host * bit)]
  | none => s
/-- Sets the bias of a page: the bit of its range, and the bitmap. -/
def State.setBias (s : State) (page : Nat) (host : Bool) : State :=
  match s.biasRange page with
  | some (k, r) =>
    let rest := r.hostPages.filter (fun p => p != page)
    (s.updMgmt (fun m => { m with ranges := m.ranges.set k { r with hostPages := if host then page :: rest else rest } })).putBias page host
  | none => s
/-- The page is in host bias. -/
def State.pageHost (s : State) (page : Nat) : Bool := s.hostBias (page * 4096)

/-- A flip takes its first state: device accesses are held from now on (R201). -/
def State.startFlip (s : State) (page : Nat) (host : Bool) (who : FlipBy) : State :=
  let f : Flip := if host then ⟨page, .d2h, [], who⟩ else ⟨page, .h2d, List.range 32, who⟩
  s.updMgmt (fun m => { m with flips := m.flips ++ [f] })
/-- A launch that waits for its flips has one fewer, and goes on after the last (R203). -/
def Launch.flipOver (l : Launch) (page : Nat) : Launch :=
  if l.st == LState.flipping then
    let f := l.flips.filter (fun p => p != page)
    { l with flips := f, st := if f.isEmpty then .running else .flipping }
  else l
/-- A flip of a page has ended, or was not needed, for whoever asked for it: BIASCMD.BUSY clears (R201), or the launch waits for it no longer (R203). -/
def State.flipOver (s : State) (page : Nat) : FlipBy → State
  | .command => s.updMgmt (fun m => { m with biascmd := m.biascmd &&& ~~~(6#64) })
  | .launch l => s.updLaunch l (fun x => x.flipOver page)

/-- Asks for a flip (R201, R202): behind a running flip of the page it waits; a page that no range in force covers, or that has the bias already, needs none. -/
def State.askFlip (s : State) (page : Nat) (host : Bool) (who : FlipBy) : State :=
  if s.mgmt.flips.any (fun f => f.page == page) then s.updMgmt (fun m => { m with flipWait := m.flipWait ++ [(page, host, who)] })
  else if (s.biasRange page).isNone || s.pageHost page == host then s.flipOver page who
  else s.startFlip page host who

/-- Ends the flip of a page: it is over for whoever asked for it, and the flips that wait for the page are asked for again, in order: the first that is needed begins and the rest wait behind it (R202). -/
def State.endFlip (s : State) (page : Nat) : State :=
  let who := (s.mgmt.flips.filter (fun f => f.page == page)).map Flip.who
  let s := s.updMgmt (fun m => { m with flips := m.flips.filter (fun f => f.page != page) })
  let s := who.foldl (fun s w => s.flipOver page w) s
  let ws := s.mgmt.flipWait.filter (fun w => w.1 == page)
  let s := s.updMgmt (fun m => { m with flipWait := m.flipWait.filter (fun w => w.1 != page) })
  (ws.foldl (fun s w => s.askFlip page w.2.1 w.2.2) s).releaseHost

/-- A data phase to the page has been sent and not acknowledged (R201). A store whose claim is taken and whose data has yet to be sent may wait for the flip itself, with another lane of it or an older access of its path held at the page; its data comes to the page after the flip (log entry 119). -/
def State.dataOutstanding (s : State) (page : Nat) : Bool :=
  s.accs.any (fun x => x.2.kind.writes && x.2.pieces.any (fun p => p.tgt == .device && p.pa / 4096 == page && p.st == .dataSent && !p.ok && p.conf.isNone && p.err.isNone))

/-- The lines of a page leave every L1, L2 slice and RDC: G words are written back, U words combined, V words dropped (R201). -/
def State.flushPage (s : State) (page : Nat) : State :=
  let s := s.evictAll (fun _ l => l.pline / 32 == page)
  { s with rdc := s.rdc.filter (fun r => r.pline / 32 != page) }

/-- BIAS_FLUSH_START (R201). -/
def execBiasFlushStart (page : Nat) (s : State) : Host.Outcome State Fault Refusal :=
  if s.flipAt page == some .d2h && !s.dataOutstanding page && !s.cells.any (fun c => c.addr / 4096 == page) then
    ok ((s.flushPage page).updMgmt (fun m => { m with flips := m.flips.map (fun f => if f.page == page then { f with st := .d2hFl } else f) })).releaseHost
  else ok s

/-- The region-directory entries that cover bytes of a page go (R201); one that covers more than the page is evicted whole, with the remote-data copies of its sharers (R106, log entry 109). -/
def State.dropRegions (s : State) (page : Nat) : State :=
  let on (e : RegionEnt) : Bool := overlaps e.base e.size (page * 4096) 4096
  let s := (s.regions.flatMap Prod.snd).foldl (fun s e => if on e then s.dropRegion e e.sharers else s) s
  { s with regions := s.regions.mapVals (fun _ es => es.filter (fun e => !on e)) }

/-- BIAS_FLUSH_COMPLETE (R201): the page is in host bias. -/
def execBiasFlushComplete (page : Nat) (s : State) : Host.Outcome State Fault Refusal :=
  if s.flipAt page == some .d2hFl then ok (((s.setBias page true).dropRegions page).endFlip page) else ok s

/-- SNOOP_RESPONSE (R201): a back-invalidate snoop of one of the 32 lines is answered; the dirty data that the host holds of it, or sends with the answer, is written at home, and with the last answer the page is in device bias. -/
def execSnoopResponse (page line : Nat) (dirty : Option (List Byte)) (s : State) : Host.Outcome State Fault Refusal :=
  match s.mgmt.flips.find? (fun f => f.page == page && f.st == .h2d && f.snoops.contains line) with
  | none => ok s
  | some f =>
    let s := s.pullHost (page * 4096 + line * 128) 128
    let s := match dirty with
      | some d => if d.length = 128 then s.plainWrite (page * 4096 + line * 128) d else s
      | none => s
    let left := f.snoops.filter (fun l => l != line)
    let s := s.updMgmt (fun m => { m with flips := m.flips.map (fun g => if g.page == page then { g with snoops := left } else g) })
    if left.isEmpty then ok (((s.setBias page false).dropRegions page).endFlip page) else ok s

/-! ## Migration ahead of dispatch (R203) -/

/-- FOOTPRINT_EDGES_FALLEN (R153, R203): the host-bias pages of the launch's footprint flip to device bias, and the launch becomes ready when the last flip ends. -/
def execFootprintEdgesFallen (launch : Nat) (s : State) : Host.Outcome State Fault Refusal :=
  let l := s.launch launch
  match s.feet.find? (fun f => f.launch == some launch) with
  | none => ok s
  | some f =>
    if l.st != .waiting || !f.edges.isEmpty then ok s
    else
      let pages := (s.mgmt.ranges.flatMap (fun r => r.2.hostPages.filter (fun p => r.2.covers p && f.foot.any (fun x => s.rangeOnPage l.ctx x p)))).eraseDups
      let s := s.updLaunch launch (fun x => { x with st := if pages.isEmpty then .running else .flipping, flips := pages })
      ok (pages.foldl (fun s p => s.askFlip p false (.launch launch)) s)

/-! ## Link states (R205, R206) -/

/-- LNKSTAT.SPARE and FLANE. -/
def Link.spare (l : Link) : Bool := l.stat.getLsbD 2
def Link.flane (l : Link) : Nat := bitsOf l.stat.toNat 3 4
def Link.setState (l : Link) (n : Nat) : Link := { l with stat := l.stat.extractLsb' 2 62 ++ BitVec.ofNat 2 n }
/-- A field of LNKSTAT takes a value. -/
def setField {w : Nat} (x : BitVec w) (lo n v : Nat) : BitVec w :=
  BitVec.ofNat w (x.toNat % 2 ^ lo + v % 2 ^ n * 2 ^ lo + x.toNat / 2 ^ (lo + n) * 2 ^ (lo + n))
/-- Adds 1 to a saturating field. -/
def bumpField {w : Nat} (x : BitVec w) (lo n : Nat) : BitVec w := setField x lo n (min (bitsOf x.toNat lo n + 1) (2 ^ n - 1))
/-- LNKCTL.DISABLE. -/
def Link.disabled (l : Link) : Bool := l.ctl.getLsbD 17

/-- A piece of an access waits on a peer through a link: a read whose claim has not been taken, or a lane of an atomic that has not been performed. -/
def Acc.waitsOn (x : Acc) (n : Nat) (p : Piece) : Bool :=
  !x.kind.isStore && p.err.isNone && (match p.tgt with | .peer dev _ => linkOf dev == n | .device => false | .host => false)
    && (p.st == .sent || (p.st == .atHome && x.kind.writes))
/-- The reads that wait on a peer through a link meet the memory error of a link that is DOWN (R130, R206). -/
def State.failReads (s : State) (n : Nat) : State :=
  s.accs.foldl (fun s x =>
    let g := (List.range x.2.pieces.length).filter (fun i => x.2.waitsOn n (x.2.pieces.getD i .zero))
    if g.isEmpty then s
    else g.foldl (fun s i => s.updPiece x.1 i (fun p => { p with st := .atHome, err := some (errAt 0x11 13 p.va) })) (s.dropClaims x.1 g)) s

/-- A link goes DOWN (R123, R182, R206): queued posted writes are dropped, reads that wait there meet their fault, and collectives through it end. What it had accepted and not served goes with it. -/
def State.linkDown (s : State) (n : Nat) : State :=
  let q := (s.link n).queue
  let s := s.updLink n (fun l => { l.setState 0 with queue := [], lostLane := none, nak := none, fails := 0, reqs := 0, chunkIn := [] })
  ((q.foldl State.dropPosted s).failReads n).loseLink n
/-- A link enters RETRAIN; its queues and its replay buffer stay. -/
def State.linkRetrain (s : State) (n : Nat) : State := s.updLink n (fun l => { l.setState 3 with nak := none, fails := 0 })

/-- The payload bytes of a flit: 4 to 247 (R204). -/
def flitPayload (d : List Byte) : List Byte := (d ++ List.replicate 244 0).take 244
/-- A link takes the flit that it expects: a request or a posted write is there to be served, a piece of a chunk to be received, and what takes a buffer owes a credit (R204, R207, R314). -/
def Link.accept (l : Link) (ty : Nat) (payload : List Byte) : Link :=
  { l with
    rxSeq := l.rxSeq + 1, nakSent := none
    owed := if 1 ≤ ty ∧ ty ≤ 4 then l.owed + 1 else l.owed
    reqs := if ty = 1 ∨ ty = 3 then l.reqs + 1 else l.reqs
    chunkIn := if ty = 4 then l.chunkIn ++ [flitPayload payload] else l.chunkIn }

/-- A collective flit passes the port of a link: a flip that is armed for it inverts its bit, of the payload or of what is no chunk byte (R186, R314). With STEP 0 it fires at the next flit, otherwise at the first flit of the next chunk of the step. -/
def State.portFlip (s : State) (link : Nat) (payload : List Byte) : State × List Byte :=
  let first := (s.link link).chunkIn.length % 2 == 0
  let b := bitsOf (s.inj (link / 4)) 13 11
  if s.injFires (link / 4) 1 (if first then fieldAt payload 4 2 else 2 ^ 16) && bitsOf (s.inj (link / 4)) 8 5 == 16 + link then
    (s.disarm (link / 4), if 32 ≤ b && b < 32 + 244 * 8 then flipBit payload (b - 32) else payload)
  else (s, payload)

/-- FLIT_RECEIVE (R186, R204, R205, R314): a flit with a bad CRC counts and is answered with a NAK that names the expected sequence; the flit that is expected is accepted, any other is dropped. A request that it carries, and a chunk, are steps of their own. `body` is the payload, and none where the CRC is bad. -/
def execFlitReceive (link ty seq : Nat) (body : Option (List Byte)) (s : State) : Host.Outcome State Fault Refusal :=
  let l := s.link link
  if l.state != 2 || decide (16 ≤ link) || decide (5 < ty) then ok s
  else
    match body with
    | none => ok (s.updLink link (fun l => { l with stat := bumpField l.stat 8 24, nakSent := some l.rxSeq.toNat }))
    | some payload =>
      if seq = l.rxSeq.toNat then
        let (s, payload) := if ty = 4 then s.portFlip link (flitPayload payload) else (s, payload)
        ok (s.updLink link (fun l => l.accept ty payload))
      else ok s

/-- NAK_RECEIVE (R204, R206): the sender replays from the named flit, which acknowledges those before it; 16 failed replays of one flit in a row make the link retrain. -/
def execNakReceive (link seq : Nat) (s : State) : Host.Outcome State Fault Refusal :=
  let l := s.link link
  if l.state != 2 || decide (16 ≤ link) || !l.replay.any (fun f => f.seq == seq) then ok s
  else
    let n := if l.nak = some seq then l.fails + 1 else 0
    let s := s.updLink link (fun l => { l with
      stat := bumpField l.stat 32 32, replay := l.replay.dropWhile (fun f => f.seq != seq), nak := some seq, fails := n })
    if 16 ≤ n then ok (s.linkRetrain link) else ok s

/-- LANE_LOSS (R206): a lane in use fails. The first failed lane sends the link to RETRAIN, where the ninth lane replaces it; a second one makes the link DOWN. Lane 8 is the ninth lane. -/
def execLaneLoss (link lane : Nat) (s : State) : Host.Outcome State Fault Refusal :=
  let l := s.link link
  let used := if lane = 8 then l.spare else decide (lane < 8) && !(l.spare && l.flane == lane) && l.lostLane != some lane
  if decide (16 ≤ link) || !(l.state == 2 || l.state == 3) || !used then ok s
  else if l.spare || l.lostLane.isSome then ok (s.linkDown link)
  else ok ((s.linkRetrain link).updLink link (fun l => { l with lostLane := some lane }))

/-- RETRAIN_END (R206): the failed lane, if there is one, is replaced by the ninth lane, and the link is UP. -/
def execRetrainEnd (link : Nat) (s : State) : Host.Outcome State Fault Refusal :=
  let l := s.link link
  if l.state != 3 then ok s
  else
    match l.lostLane with
    | none => ok (s.updLink link (fun l => l.setState 2))
    | some k =>
      if l.spare then ok (s.linkDown link)
      else ok (s.updLink link (fun l => { l.setState 2 with stat := setField (l.setState 2).stat 2 5 (1 + 2 * k), lostLane := none }))

/-- LINK_TIMEOUT (R206): one stay in RETRAIN outlasts TIMEOUT. -/
def execLinkTimeout (link : Nat) (s : State) : Host.Outcome State Fault Refusal :=
  if (s.link link).state == 3 then ok (s.linkDown link) else ok s

/-! ## Peers (R207) -/

/-- The context that PEERASID binds to an ASID. -/
def State.peerCtx (s : State) (asid : BitVec 16) : Option Nat :=
  match s.mgmt.peerasid.find? (fun e => decide (e.1 < 256) && e.2.getLsbD 63 && e.2.extractLsb' 0 16 == asid) with
  | some e => some (eBits e.2 16 32)
  | none => none

/-- The right that a request of a peer needs (R210). -/
def peerRight : PeerOp → Right
  | .read => .read | .write => .write | .atomic _ _ _ => .atomic | .ared _ _ => .atomic
/-- The request writes. -/
def peerWrites : PeerOp → Bool
  | .read => false | .write => true | .atomic _ _ _ => true | .ared _ _ => true
/-- The request reads or writes one aligned word, as an atomic and a reduction do, or bytes of one line. -/
def peerFits (op : PeerOp) (va : DWord) (n : Nat) : Bool :=
  match op with
  | .read => decide (0 < n) && va.toNat / 128 == (va.toNat + n - 1) / 128
  | .write => decide (0 < n) && va.toNat / 128 == (va.toNat + n - 1) / 128
  | .atomic _ _ _ => n == 4 && va.toNat % 4 == 0
  | .ared _ _ => n == 4 && va.toNat % 4 == 0

/-- A request of a peer is held at its home point as a host access is; a reduction takes no claim and meets no cell, and only a flip or the array holds it (R119, R145, R193, R198, R201). -/
def State.peerHeld (s : State) (op : PeerOp) (a : HostAcc) : Bool :=
  match op with
  | .ared _ _ => s.flipping a.pa || s.arrayWaits a.pa
  | .read => s.hostHeld a | .write => s.hostHeld a | .atomic _ _ _ => s.hostHeld a

/-- Serves a request of a peer at its home point for the context that its ASID is bound to: the state, and the response: data, or none for an error completion; a write and a reduction have none unless they fail. -/
def State.servePeer (s : State) (c pa : Nat) (op : PeerOp) (data : List Byte) : State × Option (Option (List Byte)) :=
  let word : Word := BitVec.ofNat 32 (leNat data)
  match op with
  | .read =>
    match s.serveHostAcc c ⟨0, pa, false, data, none⟩ with
    | (s, a) => (s, some (match a.done with | some (.data d) => some d | _ => none))
  | .write =>
    match s.serveHostAcc c ⟨0, pa, true, data, none⟩ with
    | (s, a) => (s, match a.done with | some (.data _) => none | _ => some none)
  | .atomic k sg cmp =>
    if (s.badLevel pa 4).isSome then (s.fetchLine (lineOf pa), some none)
    else
      let (s, d) := s.homeRead pa 4
      let old : Word := BitVec.ofNat 32 (leNat d)
      (s.deviceWrite pa (wordBytes (atomWord k sg old word cmp)), some (some d))
  | .ared k sg =>
    if (s.badLevel pa 4).isSome then (s.fetchLine (lineOf pa), some none)
    else ((((s.fetchLine (lineOf pa)).recallRange pa 4).dropG (pa / 4) none).combineAt pa k sg word, none)

/-- The response of a link to a request of its peer: a response flit, an error completion where it fails (R204, R207). -/
def State.respond (s : State) (k : Nat) : Option (Option (List Byte)) → State
  | none => s
  | some none => s.sendFlit k 2 none true []
  | some (some d) => s.sendFlit k 2 none false d

/-- PEER_REQUEST (R207, R208, R212): the request of an accepted flit is translated in the hub under the context of its ASID and performed at its home, where a read-only page that it writes becomes shared first (R107); one that cannot be translated gets an error completion and changes nothing. It stays on its link while the link is not UP, under means 5 of the governor, and while a claim, a flip or a live cell holds it as it would hold a host access. -/
def execPeerRequest (dev : BitVec 14) (asid : BitVec 16) (va : DWord) (op : PeerOp) (data : List Byte) (s : State) : Host.Outcome State Fault Refusal :=
  let k := linkOf dev.toNat
  if (s.link k).state != 2 || (s.link k).reqs = 0 || s.fullg || !peerFits op va data.length then ok s
  else
    let served (s : State) (r : Option (Option (List Byte))) : State := (s.updLink k (fun l => { l with reqs := l.reqs - 1 })).respond k r
    match s.peerCtx asid with
    | none => ok (served s (some none))
    | some c =>
      match s.placeHub c c va (peerRight op) with
      | .error _ => ok (served s (some none))
      | .ok p =>
        if p.tgt != .device then ok (served s (some none))
        else if s.peerHeld op ⟨0, p.pa, peerWrites op, data, none⟩ then ok s
        else
          let s := match s.walk c va with
            | .leaf e _ _ => if peerWrites op && eBits e 7 2 == 1 then s.setClass c va 2 0 else s
            | .err _ => s
          let r := s.servePeer c p.pa op data
          ok (served r.1 r.2)

/-- The device number of the peer that a piece goes to, with its ASID. -/
def Piece.peer (p : Piece) : Option (Nat × Nat) :=
  match p.tgt with | .peer dev asid => some (dev, asid) | .device => none | .host => none
/-- The posted write that is next on a link that is UP, of an access or of an entry of the fixed-order buffer. -/
def Link.nextOf (l : Link) (acc : Nat) : Option Posted := if l.state == 2 then l.queue.head?.filter (fun q => q.acc == acc) else none

/-- The peer answers a posted write with an error: its flit has been sent, and its wave learns of it at its next wait on the ST path (R207). -/
def State.rejectPosted (s : State) (k : Nat) (q : Posted) : State :=
  let s := (s.updLink k (fun l => { l with queue := l.queue.tail })).sendFlit k 3 (some (q.va, q.asid, q.src)) false []
  if s.accs.has q.acc then s.dropWrite q.acc q.i 0x06 7 (fun p => p.peer.isSome)
  else
    (match q.wave with
     | some w => if s.waves.has w then s.updWave w (fun (v : Wave) => { v with pend := v.pend ++ [⟨0x06, 7, q.va⟩] }) else s
     | none => s : State).bufDone q.acc
/-- The peer answers requests of an access with an error: those of the lanes that are next at their homes through links that are UP (R207). -/
def State.rejectReads (s : State) (acc : Nat) : State :=
  let x := s.acc acc
  let g := (List.range x.pieces.length).filter (fun i =>
    let p := x.pieces.getD i .zero
    p.st == .sent && s.pieceNext acc i && !s.ownPending x p && (match p.peer with | some (dev, _) => s.linkUp dev | none => false))
  g.foldl (fun s i =>
    let s := match (x.pieces.getD i .zero).peer with
      | some (dev, asid) => s.sendRequest dev asid (x.pieces.getD i .zero).va
      | none => s
    s.updPiece acc i (fun p => { p with st := .atHome, err := some (errAt 0x05 1 p.va) })) (s.dropClaims acc g)
/-- The peer answers the fetch of a PC slot that can issue with an error: the slot's wave takes the page-fault trap at the fetch (R207, log entry 121). -/
def State.rejectFetch (s : State) (w : Nat) (sb : Bool) : State :=
  let pc := ((s.wave w).slot sb).path.pc
  if !s.waves.has w || ((s.wave w).slot sb).held.isSome || !s.ready w sb || !s.waitOver w .window then s
  else
    let b := s.block (s.wave w).block
    match s.place (s.clusterOf b.pcore) (s.launch b.launch).ctx pc .fetch with
    | .ok p =>
      (match p.tgt with
       | .peer dev asid => if s.linkUp dev then (s.sendRequest dev asid pc).takeTrap w sb ⟨0x05, 1, 0, none, pc, false⟩ pc else s
       | .device => s
       | .host => s)
    | .error _ => s

/-- PEER_ERROR_COMPLETION (R207): the error answers a request that was sent and reaches the issuing wave: at a load, and at a fetch, the page-fault trap with subcode 1; for a posted write, which is dropped, a protection fault with subcode 7 at the next wait on the ST path. The number is that of an access or an entry; from 2^32 on it names a fetch, by its wave and PC slot (log entry 121). -/
def execPeerErrorCompletion (acc : Nat) (s : State) : Host.Outcome State Fault Refusal :=
  if 2 ^ 32 ≤ acc then ok (s.rejectFetch ((acc - 2 ^ 32) / 2) (acc % 2 == 1))
  else
    match s.links.findSome? (fun l => (l.2.nextOf acc).map (fun q => (l.1, q))) with
    | some (k, q) => ok (s.rejectPosted k q)
    | none => if s.accs.has acc && !(s.acc acc).kind.isStore then ok (s.rejectReads acc) else ok s

end Sys2Proof.Machine
end

