-- ==== Sys2Proof/Machine/MemCtl.lean ====
section
/-! DEFINITION. The memory controllers: request groups and their service, refresh and activation back-off, corrected and uncorrectable sectors, and row sparing (spec/17_memory_system.md R190 to R196). -/

namespace Sys2Proof.Machine

open Sys2Proof

/-- The meaning of an event whose outcome is always a next state (log entry 8). -/
def event (s : State) : Host.Outcome State Fault Refusal := .next s

/-- The lowest spare row of a bank that is free (R195). -/
def Stack.freeSpare (t : Stack) (pci bank : Nat) : Option Nat :=
  (List.range 4).find? (fun n => !t.remap.any (fun x => x.1 == pci && x.2.1 == bank && x.2.2.2 == n))

/-- MCSPARE at the end of a sparing: GO clears when it was the row named; DONE or FAIL is set (R196). -/
def Stack.spareEnd (t : Stack) (r : RowName) (found : Bool) : BitVec 32 :=
  let go := t.spareGo && t.namedRow != r
  BitVec.ofNat 32 (t.mcspare.toNat % 2 ^ 26 + b2n go * 2 ^ 26 + b2n found * 2 ^ 27 + b2n (!found) * 2 ^ 28)

/-- ROW_SPARE_DONE (R195, R196): the row, its correctable sectors corrected, is remapped to a free spare row of its bank and unpinned, or FAIL is set. -/
def execRowSpareDone (stack : Nat) (s : State) : Host.Outcome State Fault Refusal :=
  match (s.stack stack).sparing with
  | none => event s
  | some r =>
    let f := (s.stack stack).freeSpare r.1 r.2.1
    let s := s.updStack stack (fun t =>
      { t with
        sparing := none, mcspare := t.spareEnd r f.isSome
        rows := t.rows.map (fun x => { x with pins := x.pins.filter (fun p => p != sparePin) })
        remap := (match f with | some n => (r.1, r.2.1, r.2.2, n) :: t.remap | none => t.remap)
        spared := (match f with | some _ => t.spared + 1 | none => t.spared) })
    let s : State := { s with weak := if f.isSome then s.weak.filter (fun x => !(secStack x == stack && (secPci x, secBank x, secRow x) == r)) else s.weak }
    event ((s.drainLate stack).nextSpare stack)

/-- A scrub of a row number waits: the row of some bank is in no entry, and the bank allows no activate or has every entry pinned (R190, R193). -/
def Stack.scrubWaits (t : Stack) (row : Nat) : Bool :=
  t.banks.any (fun b => b.2.st != .normal && !t.hasRow (b.1 / 64) (b.1 % 64) row) || t.rows.any (fun r => !t.reaches r.pci r.bank row)
/-- A scrub reads the row of every bank through an entry of the bank (R190): in a bank that has entries as any read does, in the others a first one. -/
def State.scrubOpens (s : State) (stack row : Nat) : State :=
  let used := (((s.stack stack).rows.map (fun r => (r.pci, r.bank))).eraseDups)
  let s := used.foldl (fun s b => s.openRow stack b.1 b.2 row []) s
  let fresh := ((List.range 4096).filter (fun b => !used.contains (b / 64, b % 64))).map (fun b => (⟨b / 64, b % 64, row, [], [], s.seq⟩ : RowEnt))
  (s.updStack stack (fun t => { t with rows := fresh ++ t.rows })).tick
/-- PATROL_SCRUB (R193, R194, R212, R213): the sectors of one row number in every bank of a stack are read, and those that are corrected are written back; nothing is read while a bank must wait. -/
def execPatrolScrub (stack row : Nat) (corrected uncorrectable : List Nat) (s : State) : Host.Outcome State Fault Refusal :=
  let here (x : Nat) : Bool := secStack x == stack && secRow x == row && decide (x < 2 ^ 34)
  if stack < 16 && !s.arrayPaused && !(s.stack stack).scrubWaits row then
    let s := (s.scrubOpens stack row).meetErrors stack (((corrected ++ uncorrectable ++ s.weak ++ s.lost ++ s.bad.map Prod.snd).filter here).eraseDups) corrected uncorrectable
    event { s with weak := s.weak.filter (fun x => !here x || s.sectorBad x) }
  else event s

/-! ## Request groups (R191, R192) -/

/-- The sectors of a stack that an access has yet to read there: of its device pieces whose line no level above the array holds. -/
def State.requested (s : State) (x : Acc) (stack : Nat) : List Nat :=
  (((x.pieces.filter (fun p => p.tgt == .device && !p.st.hasPassed && stackOf p.pa == stack && !s.aboveArray (lineOf p.pa))).flatMap
    (fun p => (List.range ((p.pa + p.n - 1) / 64 + 1 - p.pa / 64)).map (fun k => p.pa / 64 + k)))).eraseDups
/-- The patience of an access in hub cycles, none for 0xFFFF_FFFF: what is left of a load's limit in core cycles, in the hub's cycles of 1,600 MHz (R191). A load whose limit has expired has none left. -/
def Acc.patience (x : Acc) (mhz : Nat) : Option Nat :=
  if x.noLimit then none
  else x.limit.map (fun l => if x.guessed then 0 else min ((l - x.age) * 1600 / mhz) 0xFFFFFFFE)

/-- A group's parts join the schedulers of its pseudo-channels; one without patience left is demoted (R191). -/
def State.joinGroups (s : State) (stack : Nat) (who : Option (Nat × Nat × Nat)) (secs : List Nat) (patience : Option Nat) (now : Nat) (wr : Bool) : State :=
  (s.updStack stack (fun t => { t with groups := t.groups ++ ((secs.map secPci).eraseDups).map (fun c =>
    ⟨s.seq, who, c, secs.filter (fun x => secPci x == c), patience.map (fun p => now + p), patience == some 0, false, wr, s.seq⟩) })).tick

/-- MC_REQUEST (R191): a group reaches the controller of a stack, at the hub-cycle count `now` after `fabric` hub cycles on the fabric and `home` at its home slice; each of the two hops subtracts its own. A group of an access names the sectors that it has yet to read and carries the access's patience; one of an engine, the host, a write-back or a prefetch names its own, and its patience never falls. -/
def execMcRequest (stack : Nat) (acc : Option Nat) (sectors : List Nat) (fabric home now : Nat) (wr : Bool) (s : State) : Host.Outcome State Fault Refusal :=
  match acc with
  | some a =>
    let x := s.acc a
    let secs := s.requested x stack
    if stack < 16 && s.accs.has a && !secs.isEmpty && !(s.stack stack).groups.any (fun g => g.who == some x.who) then
      event (s.joinGroups stack (some x.who) secs ((x.patience s.coreMHz).map (fun p => p - fabric - home)) now x.kind.writes)
    else event s
  | none =>
    let secs := (sectors.filter (fun x => secStack x == stack && decide (x < 2 ^ 34))).eraseDups
    if stack < 16 && !secs.isEmpty then event (s.joinGroups stack none secs none now wr) else event s

/-- Changes a group of a stack. -/
def Stack.updGroup (t : Stack) (g : Nat) (f : Group → Group) : Stack :=
  { t with groups := t.groups.map (fun x => if x.id = g then f x else x) }

/-- PATIENCE_EXPIRY (R191): patience has reached 0, so the group is demoted; the value 0xFFFF_FFFF never falls. -/
def execPatienceExpiry (stack group : Nat) (s : State) : Host.Outcome State Fault Refusal :=
  event (s.updStack stack (fun t => t.updGroup group (fun x => if x.deadline.isSome then { x with demoted := true } else x)))
/-- STARVATION_PROMOTE (R192): the group has waited 8,192 hub cycles. -/
def execStarvationPromote (stack group : Nat) (s : State) : Host.Outcome State Fault Refusal :=
  event (s.updStack stack (fun t => t.updGroup group (fun x => { x with aged := true })))

/-- Every sector of the group is in a row-cache entry (R190). -/
def Stack.rowHit (t : Stack) (g : Group) : Bool := g.sectors.all (fun x => t.hasRow (secPci x) (secBank x) (secRow x))
/-- An earlier group asks for a sector of the group (R192). -/
def Stack.behind (t : Stack) (g : Group) : Bool :=
  t.groups.any (fun x => decide (x.arrival < g.arrival) && x.pci == g.pci && x.sectors.any g.sectors.contains)
/-- The rows of a bank that the group names. -/
def Group.rowsOf (g : Group) (bank : Nat) : List Nat := ((g.sectors.filter (fun x => secBank x == bank)).map secRow).eraseDups
/-- A bank can serve the group: every row that it names is in an entry; or the bank allows an activate, and the entries that other groups have not pinned hold all its rows, or are all four (R190, R193, log entry 120). -/
def Stack.bankServes (t : Stack) (g : Group) (bank : Nat) : Bool :=
  let rows := g.rowsOf bank
  let taken := (t.bankRows g.pci bank).filter (fun r => !r.pins.all (fun p => p == g.id) && !rows.contains r.row)
  rows.all (t.hasRow g.pci bank) || ((t.bankRef g.pci bank).st == .normal && decide (min 4 rows.length + taken.length ≤ 4))
/-- The group may be served: no earlier request for its sectors, and every bank can serve it (R190, R192, R193). -/
def Stack.servable (t : Stack) (g : Group) : Bool :=
  !t.behind g && ((g.sectors.map secBank).eraseDups).all (t.bankServes g)

/-- Less patience is left; the value that never falls is the greatest. -/
def patienceLt : Option Nat → Option Nat → Bool
  | some a, some b => decide (a < b)
  | some _, none => true
  | none, _ => false

/-- Group `a` goes before group `b` (R192). -/
def Stack.sooner (t : Stack) (a b : Group) : Bool :=
  if a.aged != b.aged then a.aged
  else if a.aged then decide (a.arrival < b.arrival)
  else if a.demoted != b.demoted then b.demoted
  else if a.demoted then decide (a.arrival < b.arrival)
  else if a.deadline != b.deadline then patienceLt a.deadline b.deadline
  else if t.rowHit a != t.rowHit b then t.rowHit a
  else decide (a.arrival < b.arrival)

/-- The group that goes first. -/
def Stack.soonest (t : Stack) : List Group → Option Group
  | [] => none
  | g :: l =>
    match t.soonest l with
    | none => some g
    | some x => if t.sooner g x then some g else some x

/-- A served write sets the dirty bits of its sectors; their data is what the level above wrote (R190). -/
def State.serveWrite (s : State) (g : Group) : State := g.sectors.foldl (fun s x => s.writeSector x (s.lowerSector x)) s
/-- The lines that a read group has brought from the array go to the MSC (R188). -/
def State.serveRead (s : State) (g : Group) : State := ((g.sectors.map (fun x => x / 2)).eraseDups).foldl (fun s l => s.mscFill l) s
/-- A part of a group leaves its scheduler; with the last part the entries that the group touched are unpinned, and what waited for them goes on (R190, R195). -/
def State.leaveGroup (s : State) (stack : Nat) (g : Group) : State :=
  let s := s.updStack stack (fun t => { t with groups := t.groups.filter (fun x => !(x.id == g.id && x.pci == g.pci)) })
  if (s.stack stack).groups.any (fun x => x.id == g.id) then s
  else
    ((s.updStack stack (fun t => { t with rows := t.rows.map (fun r => { r with pins := r.pins.filter (fun p => p != g.id) }) })).drainLate stack).nextSpare stack

/-- Serves a group's sectors of one pseudo-channel back to back: a hit from its entry, a miss after an activate; what comes from the array is checked. A read brings whole lines, which the MSC keeps (R188, R190, R192, R194). -/
def State.serve (s : State) (stack : Nat) (g : Group) (corrected uncorrectable : List Nat) : State :=
  let secs := if g.wr then g.sectors else (g.sectors.flatMap (fun x => lineSecs (x / 2))).eraseDups
  let s := s.readSectors stack secs [g.id] corrected uncorrectable
  (if g.wr then s.serveWrite g else s.serveRead g).leaveGroup stack g

/-- PC_SCHEDULE (R192): the scheduler of a pseudo-channel serves the group that goes first among those that may be served. An M transition and means 5 of the governor hold every request (R212, R213). -/
def execPcSchedule (stack pci : Nat) (corrected uncorrectable : List Nat) (s : State) : Host.Outcome State Fault Refusal :=
  let t := s.stack stack
  if s.arrayPaused then event s
  else
    match t.soonest (t.groups.filter (fun g => g.pci == pci && t.servable g)) with
    | some g => event (s.serve stack g corrected uncorrectable)
    | none => event s

/-! ## Refresh and back-off (R193) -/

/-- An activate of the bank is queued: of a group, or of a write-back that waits. -/
def Stack.activates (t : Stack) (pci bank : Nat) : Bool :=
  (t.groups.any (fun g => g.pci == pci && g.sectors.any (fun x => secBank x == bank && !t.hasRow pci bank (secRow x))))
    || t.late.any (fun x => secPci x.1 == pci && secBank x.1 == bank)

/-- REFRESH_DUE (R193): in NORMAL the refresh is postponed while activates are queued and fewer than 8 are postponed; with 8 the bank enters CATCHUP; otherwise it is issued, which subtracts 1 from the count (log entry 83). -/
def execRefreshDue (stack pci bank : Nat) (s : State) : Host.Outcome State Fault Refusal :=
  let t := s.stack stack
  let b := t.bankRef pci bank
  match b.st with
  | .normal =>
    if 8 ≤ b.count then event (s.updStack stack (fun t => t.setBank pci bank { b with st := .catchup }))
    else if t.activates pci bank then event (s.updStack stack (fun t => t.setBank pci bank { b with count := b.count + 1 }))
    else event (s.updStack stack (fun t => t.setBank pci bank { b with count := b.count - 1 }))
  | .catchup => event s
  | .backoff => event s

/-- ALERT_BACKOFF (R193): an RFM is issued, which changes no count; with 8 refreshes postponed a bank in NORMAL enters BACKOFF. -/
def execAlertBackoff (stack pci bank : Nat) (s : State) : Host.Outcome State Fault Refusal :=
  let b := (s.stack stack).bankRef pci bank
  match b.st with
  | .normal => if 8 ≤ b.count then event (s.updStack stack (fun t => t.setBank pci bank { b with st := .backoff })) else event s
  | .catchup => event s
  | .backoff => event s

/-- CATCHUP_REFRESH (R193): BACKOFF issues its RFM and enters CATCHUP; CATCHUP refreshes, and returns to NORMAL at count 0, where the write-backs and the sparing that waited for an activate go on. -/
def execCatchupRefresh (stack pci bank : Nat) (s : State) : Host.Outcome State Fault Refusal :=
  let b := (s.stack stack).bankRef pci bank
  match b.st with
  | .normal => event s
  | .backoff => event (s.updStack stack (fun t => t.setBank pci bank { b with st := .catchup }))
  | .catchup =>
    let n := b.count - 1
    let s := s.updStack stack (fun t => t.setBank pci bank ⟨if n = 0 then .normal else .catchup, n⟩)
    event (if n = 0 then (s.drainLate stack).nextSpare stack else s)

end Sys2Proof.Machine
end

