-- ==== Sys2Proof/Machine/Power.lean ====
section
/-! DEFINITION. Power and health: the governor, P- and M-states, moving logical cores, parking dies, the health registers, the checkpoint engine and the writes of their registers (spec/01_organisation.md R19, R20, spec/05_execution.md R60, spec/21_power_health.md R211 to R217, R221 to R223). -/

namespace Sys2Proof.Machine

open Sys2Proof

/-! ## PWRSTAT (R211) -/

def State.mst (s : State) : Nat := bitsOf s.mgmt.pwrstat.toNat 3 2
def State.mxthr (s : State) : Nat := bitsOf s.mgmt.pwrstat.toNat 5 4
def State.isthr (s : State) : Nat := bitsOf s.mgmt.pwrstat.toNat 9 4
def State.pmin (s : State) : Nat := bitsOf s.mgmt.pstlim.toNat 0 3
def State.mmin (s : State) : Nat := bitsOf s.mgmt.pstlim.toNat 3 2
/-- Sets a field of PWRSTAT. -/
def State.setPwr (s : State) (lo n v : Nat) : State := s.updMgmt (fun m => { m with pwrstat := setField m.pwrstat lo n v })
/-- PWRSTAT.BUSY follows the transitions that run. -/
def State.pwrBusy (s : State) : State := s.setPwr 13 1 (b2n (s.mgmt.pGoal.isSome || s.mgmt.mGoal.isSome))

/-- Starts a P or an M transition; while one runs, and while a checkpoint is busy, the request is kept behind those before it and made afterwards (R213, R222). -/
def State.goP (s : State) (n : Nat) : State :=
  if s.mgmt.pGoal.isSome || s.ckptHolds then s.updMgmt (fun m => { m with pNext := m.pNext ++ [n] })
  else (s.updMgmt (fun m => { m with pGoal := some n })).pwrBusy
def State.goM (s : State) (n : Nat) : State :=
  if s.mgmt.mGoal.isSome || s.ckptHolds then s.updMgmt (fun m => { m with mNext := m.mNext ++ [n] })
  else (s.updMgmt (fun m => { m with mGoal := some n })).pwrBusy
/-- The states that the requests made so far lead to. -/
def State.pAim (s : State) : Nat := s.mgmt.pNext.getLastD (s.mgmt.pGoal.getD s.pst)
def State.mAim (s : State) : Nat := s.mgmt.mNext.getLastD (s.mgmt.mGoal.getD s.mst)
/-- States faster than PMIN and MMIN are left at once (R212). -/
def State.obeyLimits (s : State) : State :=
  let s := if s.pAim < s.pmin then s.goP s.pmin else s
  if s.mAim < s.mmin then s.goM s.mmin else s
/-- The first of the requests that were kept is made, but for one that the state fulfils already (R213). -/
def State.nextP (s : State) : State :=
  match s.mgmt.pNext.dropWhile (fun n => n == s.pst) with
  | n :: t => if s.ckptHolds then s else (s.updMgmt (fun m => { m with pGoal := some n, pNext := t })).pwrBusy
  | [] => s.updMgmt (fun m => { m with pNext := [] })
def State.nextM (s : State) : State :=
  match s.mgmt.mNext.dropWhile (fun n => n == s.mst) with
  | n :: t => if s.ckptHolds then s else (s.updMgmt (fun m => { m with mGoal := some n, mNext := t })).pwrBusy
  | [] => s.updMgmt (fun m => { m with mNext := [] })
/-- A P or an M transition runs, or one is asked for that has not begun: the governor steps one at a time (R212). -/
def State.pMoves (s : State) : Bool := s.mgmt.pGoal.isSome || !s.mgmt.pNext.isEmpty
def State.mMoves (s : State) : Bool := s.mgmt.mGoal.isSome || !s.mgmt.mNext.isEmpty

/-! ## The governor (R212) -/

/-- Takes the next means that is not exhausted, in their order; a P-state or M-state on its way is awaited before the next step. With every means at its limit OVER is set. -/
def State.tighten (s : State) : State :=
  let hit (s : State) : State := s.setPwr 14 1 1
  if s.mxthr < 15 then hit (s.setPwr 5 4 (s.mxthr + 1))
  else if s.pMoves then s
  else if s.pst < 5 then hit (s.goP (s.pst + 1))
  else if s.mMoves then s
  else if s.mst < 2 then hit (s.goM (s.mst + 1))
  else if s.isthr < 15 then hit (s.setPwr 9 4 (s.isthr + 1))
  else if !s.fullg then hit (s.setPwr 15 1 1)
  else s.setPwr 16 1 1
/-- Releases one means, in the reverse order, never faster than PMIN and MMIN. -/
def State.relax (s : State) : State :=
  let hit (s : State) : State := s.setPwr 14 1 1
  if s.fullg then (hit (s.setPwr 15 1 0)).releaseHost
  else if s.isthr != 0 then hit (s.setPwr 9 4 (s.isthr - 1))
  else if s.mMoves then s
  else if s.mmin < s.mst then hit (s.goM (s.mst - 1))
  else if s.pMoves then s
  else if s.pmin < s.pst then hit (s.goP (s.pst - 1))
  else if s.mxthr != 0 then hit (s.setPwr 5 4 (s.mxthr - 1))
  else s

/-- GOVERNOR_SAMPLE (R211, R212): AVGW takes the window average. Above 1.02 × the ceiling the governor takes one step; with the average below the ceiling and the sample not above it, it releases one (log entry 26). -/
def execGovernorSample (watts average : Nat) (s : State) : Host.Outcome State Fault Refusal :=
  let s := s.setPwr 32 16 (min average 65535)
  let ceil := 5 * bitsOf s.mgmt.pwrceil.toNat 0 9
  if 102 * ceil < 100 * average then ok s.tighten
  else if average < ceil && watts ≤ ceil then ok s.relax
  else ok s

/-! ## Logical cores on physical cores (R19, R20, R60) -/

/-- DIEPARK.BUSY of a die, HOLD. -/
def State.parkBusy (s : State) (d : Nat) : Bool := s.mgmt.diepark.getLsbD (8 + d)
def State.hold (s : State) : Bool := s.mgmt.diepark.getLsbD 13
/-- PARTID.CDIE of a die. -/
def State.harvested (s : State) (d : Nat) : Bool := s.mgmt.partid.getLsbD (24 + d)
/-- A field of DIEPARK takes a value. -/
def State.setPark (s : State) (lo n v : Nat) : State := s.updMgmt (fun m => { m with diepark := setField m.diepark lo n v })
/-- The remap-exhausted condition (R20, R221). -/
def State.remapExhausted (s : State) : State := s.updMgmt (fun m => { m with hlth := setField m.hlth 22 1 1 })
/-- The die runs: neither parked nor about to be. -/
def State.dieActive (s : State) (d : Nat) : Bool := !s.parked d && !s.parkBusy d
/-- The core is marked in the live failed-core mask. -/
def State.coreFailed (s : State) (p : Nat) : Bool := s.mgmt.failed.getLsbD p

/-- REMAP may name the core for a logical core that is not on it (R60). -/
def State.mayHost (s : State) (p : Nat) : Bool :=
  coreExists p && !s.coreFailed p && !s.parked (coreDie p) && decide ((s.hosts p).length < 2)

/-- The cluster of a spare that takes its first logical core: that of the lowest core of its two clusters that is marked as failed, or the lower cluster (R19). -/
def State.spareCluster (s : State) (p : Nat) : Nat :=
  let d := p / 128
  let j := p % 128 - 64
  match ((List.range 16).map (fun i => 128 * d + 16 * j + i)).find? s.coreFailed with
  | some q => 8 * d + q % 128 / 8
  | none => 8 * d + 2 * j
def State.fixSpare (s : State) (p : Nat) : State :=
  if p % 128 < 64 || !(s.hosts p).isEmpty then s
  else s.updMgmt (fun m => { m with spareCluster := m.spareCluster.set p (s.spareCluster p) })

/-- The entry of a logical core changes; a core that has no active logical core takes it, and one that it leaves goes on with the other (R61). -/
def State.setRemap (s : State) (l p : Nat) : State :=
  let old := s.remapOf l
  let was := s.placed l
  let s := s.fixSpare p
  let s := s.updMgmt (fun m => { m with remap := m.remap.set l (BitVec.ofNat 9 p), unplaced := m.unplaced.filter (fun x => x != l) })
  let s := if was then s.updCore old (fun c => if c.active == some l then { c with active := (s.hosts old).head?, slice := s.mgmt.sliceq.toNat } else c) else s
  s.updCore p (fun c => if c.active.isNone then { c with active := some l, slice := s.mgmt.sliceq.toNat } else c)

/-- A move of a logical core (R60): its resident blocks are saved, the entry changes, and those blocks are restored on the new core; one that finds no room there stays saved. -/
def State.moveCore (s : State) (l p : Nat) : State :=
  let bs := s.blocks.keysWhere (fun _ b => b.st == .resident && b.lcore == l)
  let s := bs.foldl (fun s b => s.saveBlock b false none) s
  let s := s.setRemap l p
  bs.foldl (fun s b => if (s.block b).st == .saved && s.takesBack b l then s.restoreBlock b l else s) s

/-- The lowest working core of an active die, other than `d`, that hosts exactly one logical core, when a list of moves has been made (R215 step 1). -/
def State.roomyCore (s : State) (d : Nat) (moved : List (Nat × Nat)) : Option Nat :=
  (List.range 512).find? (fun p => coreExists p && !s.coreFailed p && coreDie p != d && s.dieActive (coreDie p) &&
    (s.hosts p).length + (moved.filter (fun x => x.2 == p)).length == 1)
/-- The moves of logical cores off a die, or none when one finds no core (R215 steps 1 and 2). -/
def State.planMoves (s : State) (d : Nat) : List Nat → List (Nat × Nat) → Option (List (Nat × Nat))
  | [], moved => some moved
  | l :: t, moved =>
    match s.roomyCore d moved with
    | some p => State.planMoves s d t (moved ++ [(l, p)])
    | none => none
/-- Makes the moves of step 1 of R215; the former core of each is kept, so that it can return when that core's die is unparked. -/
def State.makeMoves (s : State) (ms : List (Nat × Nat)) : State :=
  ms.foldl (fun s m =>
    (s.updMgmt (fun g => { g with former := g.former.upd [] m.1 (fun l => s.remapOf m.1 :: l) })).moveCore m.1 m.2) s

/-! ## Parking (R214 to R216) -/

/-- Logical cores placed on a die. -/
def State.onDie (s : State) (d : Nat) : List Nat := (List.range 256).filter (fun l => s.placed l && coreDie (s.remapOf l) == d)
/-- No block of any launch is resident or saved (R216). -/
def State.deviceIdle (s : State) : Bool := !s.blocks.any (fun b => b.2.st != .ended)

/-- Starts to park a die (R215, R216): its logical cores move away, or become unplaced on an idle device under HOLD; when one finds no core nothing moves, REFUSED is set and the remap-exhausted condition rises. -/
def State.beginPark (s : State) (d : Nat) : State :=
  if s.hold && s.deviceIdle then
    let ls := s.onDie d
    (s.updMgmt (fun m => { m with unplaced := m.unplaced ++ ls })).setPark (8 + d) 1 1
  else
    match s.planMoves d (s.onDie d) [] with
    | some ms => (s.makeMoves ms).setPark (8 + d) 1 1
    | none => (s.setPark 12 1 1).remapExhausted

/-- Serves the requests that wait: a park waits for a P transition and for a checkpoint, and a die that is busy for its end (R215, R222). -/
def State.servePark (s : State) : State :=
  let w := s.mgmt.dieWait
  let s := s.updMgmt (fun m => { m with dieWait := [] })
  w.foldl (fun s r =>
    if s.parkBusy r.1 || (r.2 && (s.mgmt.pGoal.isSome || s.ckptHolds)) then s.updMgmt (fun m => { m with dieWait := m.dieWait ++ [r] })
    else if s.parked r.1 == r.2 then s
    else if r.2 then s.beginPark r.1
    else s.setPark (8 + r.1) 1 1) s

/-- DIE_PARK_DONE (R215 steps 4 and 5): the die's L1s and RDC are emptied and it is powered off, which loses what its cores and cluster TLBs hold. Logical cores that a write of REMAP has moved to the die meanwhile go by step 1 first; when one finds no core the die stays active with REFUSED set, as step 2 says (log entry 106). -/
def execDieParkDone (die : BitVec 2) (s : State) : Host.Outcome State Fault Refusal :=
  let d := die.toNat
  if !s.parkBusy d || s.parked d then ok s
  else
    match s.planMoves d (s.onDie d) [] with
    | none => ok (((s.setPark 12 1 1).remapExhausted).setPark (8 + d) 1 0).servePark
    | some ms =>
      let s := s.makeMoves ms
      let s := s.evictAll (fun p _ => coreDie p == d)
      let s := ((List.range 128).map (fun i => 128 * d + i)).foldl State.turnover s
      let s := { s with
        rdc := s.rdc.filter (fun r => r.die != d), tlb := s.tlb.filter (fun t => t.cluster / 8 != d)
        cores := s.cores.filter (fun c => coreDie c.1 != d) }
      ok ((s.setPark (4 + d) 1 1).setPark (8 + d) 1 0).servePark

/-- A logical core returns to the core of die `d` from which parking moved it; where a later parking moved it on, that move is forgotten. -/
def State.returnCore (s : State) (d l : Nat) : State :=
  match (s.mgmt.former.get [] l).dropWhile (fun p => coreDie p != d) with
  | p :: rest =>
    let s := s.updMgmt (fun m => { m with former := if rest.isEmpty then m.former.del l else m.former.set l rest })
    if s.remapOf l == p && s.placed l then s else if s.mayHost p then s.moveCore l p else s.remapExhausted
  | [] => s

/-- DIE_UNPARK_DONE (R215, R216): a die that passes its self test is active again and its logical cores return; one that fails stays parked with REFUSED set. -/
def execDieUnparkDone (die : BitVec 2) (passed : Bool) (s : State) : Host.Outcome State Fault Refusal :=
  let d := die.toNat
  if !s.parkBusy d || !s.parked d then ok s
  else if !passed then ok ((s.setPark (8 + d) 1 0).setPark 12 1 1).servePark
  else
    let s := (s.setPark (4 + d) 1 0).setPark (8 + d) 1 0
    let back := (s.mgmt.former.filter (fun x => x.2.any (fun p => coreDie p == d))).map Prod.fst
    let s := s.updMgmt (fun m => { m with unplaced := m.unplaced.filter (fun l => coreDie (s.remapOf l) != d) })
    ok (back.foldl (State.returnCore · d) s).servePark

/-- A write of DIEPARK (R214, R216): REFUSED clears by a 1; a write of HOLD = 0 first places the unplaced logical cores, and is ignored with REFUSED set when one finds no core; then each die whose state differs from REQ is asked to park or unpark. A die that is not harvested in stays parked. -/
def State.writeDiepark (s : State) (v : BitVec 32) : State :=
  let s := if v.getLsbD 12 then s.setPark 12 1 0 else s
  let place : Option (List (Nat × Nat)) := if s.hold && !v.getLsbD 13 then s.planMoves 4 s.mgmt.unplaced [] else some []
  match place with
  | none => s.setPark 12 1 1
  | some ms =>
    let s := (s.makeMoves ms).setPark 13 1 (b2n (v.getLsbD 13))
    let s := s.setPark 0 4 (bitsOf v.toNat 0 4)
    let asks := ((List.range 4).filter (fun d => s.harvested d && (s.parked d != v.getLsbD d || s.parkBusy d))).map (fun d => (d, v.getLsbD d))
    (s.updMgmt (fun m => { m with dieWait := asks })).servePark

/-- A write of REMAP[L] (R60, R216): ignored, with the remap-exhausted condition raised, where the core may not host it. -/
def State.writeRemap (s : State) (l : Nat) (v : BitVec 32) : State :=
  let p := bitsOf v.toNat 0 9
  if s.placed l && s.remapOf l == p && !s.coreFailed p && (s.hosts p).length == 1 && !s.parked (coreDie p) then s
  else if s.mayHost p then (s.updMgmt (fun m => { m with former := m.former.del l })).moveCore l p
  else s.remapExhausted

/-! ## Transitions (R213) -/

/-- P_TRANSITION_DONE (R213, R215): the core clock runs again; a slower limit, and a park, that came meanwhile are served. -/
def execPTransitionDone (s : State) : Host.Outcome State Fault Refusal :=
  match s.mgmt.pGoal with
  | some n => ok (((s.updMgmt (fun m => { m with pGoal := none })).setPwr 0 3 n).pwrBusy.nextP.obeyLimits).servePark
  | none => ok s
/-- M_TRANSITION_DONE (R213). -/
def execMTransitionDone (s : State) : Host.Outcome State Fault Refusal :=
  match s.mgmt.mGoal with
  | some n => ok ((s.updMgmt (fun m => { m with mGoal := none })).setPwr 3 2 n).pwrBusy.nextM.obeyLimits
  | none => ok s

/-- A write of PWRCEIL: a value out of range is ignored (R211). -/
def State.writePwrceil (s : State) (v : BitVec 32) : State :=
  let c := bitsOf v.toNat 0 9
  if 60 ≤ c && c ≤ 360 then s.updMgmt (fun m => { m with pwrceil := BitVec.ofNat 32 c }) else s
/-- A write of PSTLIM: PMIN 6 and 7 and MMIN 3 are ignored; a limit slower than the current state starts a transition (R211, R212). -/
def State.writePstlim (s : State) (v : BitVec 32) : State :=
  let p := bitsOf v.toNat 0 3
  let q := bitsOf v.toNat 3 2
  let s := if p < 6 then s.updMgmt (fun m => { m with pstlim := setField m.pstlim 0 3 p }) else s
  let s := if q < 3 then s.updMgmt (fun m => { m with pstlim := setField m.pstlim 3 2 q }) else s
  s.obeyLimits

/-- A write of ENSAVE is ignored while a slot of some core is bound (R217). -/
def State.writeEnsave (s : State) (v : BitVec 64) : State :=
  if s.cores.any (fun c => c.2.eslots.any (fun e => e.2.pair.isSome)) then s
  else s.updMgmt (fun m => { m with ensave := BitVec.ofNat 64 (bitsOf v.toNat 12 28 * 4096) })

/-! ## Health (R221) -/

/-- Sums of the least-squares line through samples at days 0, 1, …: n, Σx, Σy, Σxy, Σx². -/
def lineSums (ys : List Nat) : Int × Int × Int × Int × Int :=
  let xy := (List.range ys.length).zip ys
  (ys.length, (xy.foldl (fun a p => a + p.1) 0 : Nat), (xy.foldl (fun a p => a + p.2) 0 : Nat), (xy.foldl (fun a p => a + p.1 * p.2) 0 : Nat),
    (xy.foldl (fun a p => a + p.1 * p.1) 0 : Nat))
/-- Days from the last sample until the line through the samples reaches `goal`, upwards or downwards (R221): 0 when it has passed there, rounded down or up as the device does, and the device's own value where the line never comes there (log entry 12). -/
def daysTo (comp : Nat) (up : Bool) (goal : Nat) (ys : List Nat) : Nat :=
  let (n, sx, sy, sxy, sxx) := lineSums ys
  let den := n * sxx - sx * sx
  let slope := n * sxy - sx * sy
  let num := ((goal : Int) * den - (sy * sxx - sx * sxy)) - (n - 1) * slope
  let past := if up then decide ((goal : Int) ≤ ys.getLastD 0) else decide (((ys.getLastD 0 : Nat) : Int) ≤ goal)
  if (if up then decide (slope ≤ 0) else decide (0 ≤ slope)) then (if past then 0 else (Config.projectedDays comp ys).toNat)
  else
    let q := if 0 < slope then num / slope else -num / -slope
    let exact := num % slope = 0
    if q < 0 then 0 else min (q.toNat + (if exact then 0 else (Config.projectedDays comp ys).toNat % 2)) 65534

/-- A daily sample of a component, the last 30 kept. -/
def addSample (t : Tab (List Nat)) (comp x : Nat) : Tab (List Nat) := t.upd [] comp (fun l => (l ++ [x]).drop ((l ++ [x]).length - 30))
/-- DAYS of a component: 0xFFFF with fewer than 7 samples (R221). -/
def State.daysOf (s : State) (comp : Nat) (toward : List Nat → Nat) : Nat :=
  let ys := s.mgmt.samples.get [] comp
  if ys.length < 7 then 65535 else toward ys

/-- The spare rows that are left in the bank of a stack with the fewest (R195, R221). -/
def Stack.sparesLeft (t : Stack) : Nat :=
  4 - t.remap.foldl (fun n x => max n (t.remap.filter (fun y => y.1 == x.1 && y.2.1 == x.2.1)).length) 0

/-- HEALTH_UPDATE (R221): a daily sample of each die's slowdown, of the spare rows that each stack's fullest bank has left and of each link's eye margin; the projections, and EOLDAYS and WORST from them. -/
def execHealthUpdate (slow : List Nat) (margin : List Nat) (s : State) : Host.Outcome State Fault Refusal :=
  let ce (k : Nat) : Nat := (s.stack k).cecnt.toNat
  let day (k : Nat) : Nat := ce k - (s.mgmt.samples.get [0] (64 + k)).headD 0
  let t := (List.range 4).foldl (fun t n => addSample t n (slow.getD n 0 % 65536)) s.mgmt.samples
  let t := (List.range 16).foldl (fun t k => (addSample t (4 + k) (s.stack k).sparesLeft).set (64 + k) [ce k]) t
  let t := (List.range 16).foldl (fun t n => addSample t (20 + n) (margin.getD n 0 % 65536)) t
  let s := s.updMgmt (fun m => { m with samples := t })
  let days (c : Nat) : Nat :=
    if c < 4 then s.daysOf c (daysTo c true 800)
    else if c < 20 then s.daysOf c (daysTo c false 0)
    else
      let d := s.daysOf c (daysTo c false 20)
      if d != 65535 && (s.link (c - 20)).spare then d / 2 else d
  let least := (List.range 36).foldl (fun b c => min b (days c)) 65535
  let worst := if least = 65535 then 0x3F else (((List.range 36).find? (fun c => days c == least)).getD 0x3F)
  ok (s.updMgmt (fun m => { m with
    age := (List.range 4).map (fun n => (n, BitVec.ofNat 64 (slow.getD n 0 % 65536 + days n * 65536)))
    memh := (List.range 16).map (fun k => (k, BitVec.ofNat 64 (min (day k) (2 ^ 32 - 1) + days (4 + k) * 2 ^ 32)))
    linkh := (List.range 16).map (fun n => (n, BitVec.ofNat 64 (margin.getD n 0 % 65536 + days (20 + n) * 65536)))
    hlth := setField (setField m.hlth 0 16 least) 16 6 worst }))

/-! ## Checkpoints (R222) -/

/-- CKPT.STEP and DIR. -/
def State.ckptStep (s : State) : Nat := bitsOf s.mgmt.ckpt2.toNat 4 3
def State.ckptDir (s : State) : Bool := s.mgmt.ckpt2.getLsbD 0
def State.setCkpt (s : State) (lo n v : Nat) : State := s.updMgmt (fun m => { m with ckpt2 := setField m.ckpt2 lo n v })
/-- The range: first device address, length, host address. -/
def State.ckptBase (s : State) : Nat := bitsOf s.mgmt.ckpt1.toNat 21 19 * 2 ^ 21
def State.ckptLen (s : State) : Nat := (bitsOf s.mgmt.ckpt1.toNat 40 20 + 1) * 2 ^ 21
def State.ckptHost (s : State) : Nat := s.mgmt.ckpt0.toNat

/-- A write of the third word of CKPT: ERR clears by a 1; GO starts a checkpoint unless one is busy, in which case the whole write is ignored. -/
def State.writeCkpt2 (s : State) (v : BitVec 64) : State :=
  if v.getLsbD 1 then
    if s.ckptHolds then s
    else
      let s := if v.getLsbD 3 then s.setCkpt 3 1 0 else s
      (((s.setCkpt 0 1 (b2n (v.getLsbD 0))).setCkpt 2 1 1).setCkpt 4 3 1).updMgmt (fun m => { m with ckptBlocks := [], ckptGood := false })
  else
    let s := if v.getLsbD 3 then s.setCkpt 3 1 0 else s
    if s.ckptHolds then s else s.setCkpt 0 1 (b2n (v.getLsbD 0))

/-- Step 2: every resident block is saved, with its copy jobs. -/
def State.ckptSaveAll (s : State) : State :=
  let bs := s.blocks.keysWhere (fun _ b => b.st == .resident)
  (bs.foldl (fun s b => s.saveBlock b false none) s).updMgmt (fun m => { m with ckptBlocks := bs })
/-- A collective job has not completed. -/
def State.collBusy (s : State) : Bool := s.jobs.any (fun j => decide (8 ≤ j.2.engine) && j.2.state == 0)
/-- Uncorrectable sectors that a save streams are counted, each once, in MCERR.UECNT of their stacks (R125, R222). -/
def State.countBad (s : State) (pa n : Nat) : State :=
  (s.badSecs (((s.bad.map Prod.snd ++ s.lost).filter (fun k => overlaps (k * 64) 64 pa n)).eraseDups)).foldl
    (fun s k => s.updStack (secStack k) (fun t => { t with uecnt := addSat t.uecnt 1 })) s
/-- Step 4: `n` bytes of the range are streamed. -/
def State.ckptStream (s : State) (n : Nat) : State :=
  if s.ckptDir then s.plainWrite s.ckptBase (s.hostMem.bytes s.ckptHost n)
  else ({ s with hostMem := s.hostMem.putBytes s.ckptHost (s.homeBytes s.ckptBase n) } : State).countBad s.ckptBase n
/-- The checkpoint is over: queues run, saved blocks come back where there is room, and what waited for it is served. -/
def State.ckptEnd (s : State) : State :=
  let good := !s.mgmt.ckpt2.getLsbD 3
  let bs := s.mgmt.ckptBlocks
  let s := ((s.setCkpt 2 1 0).setCkpt 4 3 0).updMgmt (fun m => { m with ckptGood := good, ckptBlocks := [] })
  let s := bs.foldl (fun s b => if (s.block b).st == .saved && (s.block b).pageWait.isNone && s.takesBack b (s.block b).lcore then s.restoreBlock b (s.block b).lcore else s) s
  s.nextP.nextM.obeyLimits.servePark

/-- CKPT_STEP_DONE (R212, R222): the current step ends and the next begins; nothing is streamed while means 5 of the governor holds every request to memory. `hostError` is the number of bytes streamed before a host access took an error. -/
def execCkptStepDone (hostError : Option Nat) (s : State) : Host.Outcome State Fault Refusal :=
  if !s.ckptHolds then ok s
  else
    match s.ckptStep with
    | 1 => ok (s.ckptSaveAll.setCkpt 4 3 2)
    | 2 => if s.collBusy then ok s else ok (s.setCkpt 4 3 3)
    | 3 => ok ((s.evictAll (fun _ _ => true)).setCkpt 4 3 4)
    | 4 =>
      if s.arrayPaused then ok s else
      (match hostError with
       | some n => ok (((s.ckptStream (min n s.ckptLen)).setCkpt 3 1 1).setCkpt 4 3 5)
       | none => ok ((s.ckptStream s.ckptLen).setCkpt 4 3 5))
    | 5 => ok s.ckptEnd
    | _ => ok s

/-- SWAPRDY (R223). -/
def State.swapReady (s : State) : Bool :=
  s.mgmt.lq.all (fun q => q.2.recs.isEmpty) && s.mgmt.lauq.all (fun q => q.2.isEmpty) && s.launches.all (fun l => l.2.st == .ended)
    && (List.range 16).all (fun n => (s.link n).state == 0 && (s.link n).disabled) && s.mgmt.ckptGood && (List.range 4).all s.parked

end Sys2Proof.Machine
end

