-- ==== Sys2Proof/Machine/Mgmt.lean ====
section
/-! DEFINITION. Management space: its map, what each register reads as and what a write of it does, and the rows of the opcode table that are writes of management registers (spec/00_scope.md R8 to R10, spec/01_organisation.md R25, spec/05_execution.md R55, R56, R60, R61, spec/09_ordering.md R99, R101, spec/15_collectives.md R171, R186, spec/17_memory_system.md R196, spec/19_host_links.md R197, R199, R201, R205, R206, R209, R320, R321, spec/21_power_health.md R211 to R223). -/

namespace Sys2Proof.Machine

open Sys2Proof

/-! ## The map -/

/-- An 8-byte word of management space, by the register or table that holds it. A table word carries its number. -/
inductive MReg where
  | partid | cfgstat | bootstat | hostmode | apbase | devnum
  | remap (i : Nat)
  | sliceq
  | collinj
  | mcerr (k : Nat) | mcspare (k : Nat) | mcthr (k : Nat)
  | lnkstat (n : Nat) | lnkctl (n : Nat)
  | atsel | atcommit
  | window (i : Nat)
  | bias (i : Nat)
  | biascmd
  | peerasid (i : Nat)
  | pwrceil | pwrstat | pstlim | diepark
  | ewt (i : Nat) | stw (i : Nat)
  | ensave
  | hlth
  | age (n : Nat) | memh (k : Nat) | linkh (n : Nat)
  | ckpt0 | ckpt1 | ckpt2 | swaprdy
  | fladdr | flcmd
  | fldata (i : Nat)
  | ctx (i : Nat)
  | pfbase | pfhead | pftail | pfresume | tlbinv | tlbinvn
  | lqctl (q : Nat) | lqdoor (q : Nat) | lqstat (q : Nat)
  | errlog (i : Nat)
  | lerrcnt
  | colldom (i : Nat)
  /-- No register lies there. -/
  | hole
deriving DecidableEq, Repr

/-- Words below 0x0005_0000. -/
def regLow (w : Nat) : MReg :=
  if w = 0 then .partid
  else if w = 2 then .cfgstat
  else if w = 3 then .bootstat
  else if w = 4 then .hostmode
  else if w = 5 then .apbase
  else if w = 6 then .devnum
  else if 0x200 ≤ w && w < 0x280 then .remap (w - 0x200)
  else if w = 0x280 then .sliceq
  else if w = 0x5000 then .collinj
  else if 0x6000 ≤ w && w < 0x8000 then
    (if w % 0x200 = 0 then .mcerr ((w - 0x6000) / 0x200)
     else if w % 0x200 = 1 then .mcspare ((w - 0x6000) / 0x200)
     else if w % 0x200 = 2 then .mcthr ((w - 0x6000) / 0x200) else .hole)
  else if 0x8000 ≤ w && w < 0x8080 then
    (if w % 8 = 0 then .lnkstat ((w - 0x8000) / 8) else if w % 8 = 1 then .lnkctl ((w - 0x8000) / 8) else .hole)
  else .hole
/-- Words from 0x0005_0000 to 0x000A_FFFF. -/
def regMid (w : Nat) : MReg :=
  if w = 0xA000 then .atsel
  else if w = 0xA001 then .atcommit
  else if 0xA200 ≤ w && w < 0xA280 then .window (w - 0xA200)
  else if 0xC000 ≤ w && w < 0xC080 then .bias (w - 0xC000)
  else if w = 0xC200 then .biascmd
  else if 0xE000 ≤ w && w < 0xE100 then .peerasid (w - 0xE000)
  else if w = 0x10000 then .pwrceil
  else if w = 0x10001 then .pwrstat
  else if w = 0x10002 then .pstlim
  else if w = 0x10003 then .diepark
  else if 0x10020 ≤ w && w < 0x10028 then .ewt (w - 0x10020)
  else if 0x10028 ≤ w && w < 0x1002B then .stw (w - 0x10028)
  else if w = 0x10030 then .ensave
  else if w = 0x12000 then .hlth
  else if 0x12002 ≤ w && w < 0x12006 then .age (w - 0x12002)
  else if 0x12020 ≤ w && w < 0x12030 then .memh (w - 0x12020)
  else if 0x12040 ≤ w && w < 0x12050 then .linkh (w - 0x12040)
  else if w = 0x14000 then .ckpt0
  else if w = 0x14001 then .ckpt1
  else if w = 0x14002 then .ckpt2
  else if w = 0x14004 then .swaprdy
  else .hole
/-- Words from 0x000B_0000 on. -/
def regHigh (w : Nat) : MReg :=
  if w = 0x16000 then .fladdr
  else if w = 0x16001 then .flcmd
  else if 0x16008 ≤ w && w < 0x16010 then .fldata (w - 0x16008)
  else if 0x1A000 ≤ w && w < 0x1B800 then .ctx (w - 0x1A000)
  else if w = 0x1C000 then .pfbase
  else if w = 0x1C001 then .pfhead
  else if w = 0x1C002 then .pftail
  else if w = 0x1C003 then .pfresume
  else if w = 0x1C004 then .tlbinv
  else if w = 0x1C005 then .tlbinvn
  else if 0x1E000 ≤ w && w < 0x1E100 then
    (if w % 4 = 0 then .lqctl ((w - 0x1E000) / 4)
     else if w % 4 = 1 then .lqdoor ((w - 0x1E000) / 4)
     else if w % 4 = 2 then .lqstat ((w - 0x1E000) / 4) else .hole)
  else if 0x1E200 ≤ w && w < 0x1E280 then .errlog (w - 0x1E200)
  else if w = 0x1E300 then .lerrcnt
  else if 0x20000 ≤ w && w < 0x30000 then .colldom (w - 0x20000)
  else .hole

/-- What lies at a word of a hub's management space: COLLINJ on every hub, everything else on hub 0. -/
def regOf (hub w : Nat) : MReg :=
  let r := if w < 0xA000 then regLow w else if w < 0x16000 then regMid w else regHigh w
  if hub = 0 || r = .collinj then r else .hole

/-- Registers and tables with access HL: only the management master writes them (R8). The others are read-only or clear by a 1. R209 gives the access of ATSEL only; ATCOMMIT and the window are taken as HL too (log entry 91). -/
def MReg.locked : MReg → Bool
  | .partid | .cfgstat | .bootstat | .hostmode | .mcerr _ | .lnkstat _ | .pwrstat | .hlth | .age _ | .memh _ | .linkh _ | .swaprdy
  | .pfhead | .lqstat _ | .errlog _ | .lerrcnt | .hole => false
  | .apbase | .devnum | .remap _ | .sliceq | .collinj | .mcspare _ | .mcthr _ | .lnkctl _ | .atsel | .atcommit | .window _ | .bias _
  | .biascmd | .peerasid _ | .pwrceil | .pstlim | .diepark | .ewt _ | .stw _ | .ensave | .ckpt0 | .ckpt1 | .ckpt2 | .fladdr | .flcmd
  | .fldata _ | .ctx _ | .pfbase | .pftail | .pfresume | .tlbinv | .tlbinvn | .lqctl _ | .lqdoor _ | .colldom _ => true

/-- The half of a word of an HL register in which every bit is reserved, so that a write of it alone is ignored, from whatever master (R9). -/
def MReg.emptyHalf (r : MReg) (hi : Bool) : Bool :=
  match r with
  | .devnum | .sliceq | .mcspare _ | .mcthr _ | .lnkctl _ | .atsel | .atcommit | .pwrceil | .pstlim | .diepark | .ckpt2 | .fladdr | .flcmd
  | .pftail | .tlbinvn | .lqctl _ => hi
  | .apbase => !hi
  | .ctx i => hi && i % 2 == 1
  | _ => false

/-! ## Reading -/

/-- Two 4-byte entries as one word. -/
def pairWord (lo hi : BitVec 32) : BitVec 64 := hi ++ lo
/-- Half 0 or 1 of a 16-byte entry, by the parity of the word. -/
def halfOf (e : BitVec 128) (i : Nat) : BitVec 64 := if i % 2 = 0 then e.extractLsb' 0 64 else e.extractLsb' 64 64
/-- A context-table entry as software reads it (R99). -/
def Ctx.word (c : Ctx) (i : Nat) : BitVec 64 :=
  if i % 2 = 0 then BitVec.ofNat 64 (b2n c.v + bitsOf c.root 13 27 * 2 ^ 13) else BitVec.ofNat 64 (c.asid % 65536)
/-- LQCTL and LQSTAT of a queue (R55). -/
def LQueue.ctl (q : LQueue) : BitVec 64 := BitVec.ofNat 64 (q.ctx % 4096 + b2n q.en * 4096)
def LQueue.stat (q : LQueue) : BitVec 64 := BitVec.ofNat 64 (q.recs.length % 512 + b2n q.ovf * 512)
/-- A host launch queue. -/
def State.lqueue (s : State) (q : Nat) : LQueue := s.mgmt.lq.get LQueue.zero q
def State.updLq (s : State) (q : Nat) (f : LQueue → LQueue) : State := s.updMgmt (fun m => { m with lq := m.lq.set q (f (s.lqueue q)) })

/-- What a word of management space reads as. -/
def State.readReg (s : State) (hub : Nat) : MReg → BitVec 64
  | .partid => s.mgmt.partid.setWidth 64
  | .cfgstat => s.mgmt.cfgstat.setWidth 64
  | .bootstat => s.mgmt.bootstat.setWidth 64
  | .hostmode => s.mgmt.hostmode.setWidth 64
  | .apbase => s.mgmt.apbase
  | .devnum => s.mgmt.devnum.setWidth 64
  | .remap i => pairWord ((s.mgmt.remap.get 0 (2 * i)).setWidth 32) ((s.mgmt.remap.get 0 (2 * i + 1)).setWidth 32)
  | .sliceq => s.mgmt.sliceq.setWidth 64
  | .collinj => s.mgmt.collinj.get 0 hub
  | .mcerr k => (s.stack k).spared.setWidth 16 ++ (s.stack k).uecnt ++ (s.stack k).cecnt
  | .mcspare k => (s.stack k).mcspare.setWidth 64
  | .mcthr k => (s.stack k).mcthr.setWidth 64
  | .lnkstat n => (s.link n).stat
  | .lnkctl n => (s.link n).ctl.setWidth 64
  | .atsel => s.mgmt.atsel.setWidth 64
  | .atcommit => BitVec.ofNat 64 (b2n s.mgmt.atcommit.isSome)
  | .window i => halfOf (s.mgmt.atwin.get 0 (i / 2)) i
  | .bias i => if i % 2 = 0 then (s.mgmt.ranges.get BRange.zero (i / 2)).w0 else (s.mgmt.ranges.get BRange.zero (i / 2)).w1
  | .biascmd => s.mgmt.biascmd
  | .peerasid i => s.mgmt.peerasid.get 0 i
  | .pwrceil => s.mgmt.pwrceil.setWidth 64
  | .pwrstat => s.mgmt.pwrstat
  | .pstlim => s.mgmt.pstlim.setWidth 64
  | .diepark => s.mgmt.diepark.setWidth 64
  | .ewt i => pairWord (s.mgmt.ewt.get 0 (2 * i)) (s.mgmt.ewt.get 0 (2 * i + 1))
  | .stw i => pairWord (s.mgmt.stw.get 0 (2 * i)) (s.mgmt.stw.get 0 (2 * i + 1))
  | .ensave => s.mgmt.ensave
  | .hlth => s.mgmt.hlth
  | .age n => s.mgmt.age.get 0xFFFF0000 n
  | .memh k => s.mgmt.memh.get 0xFFFF00000000 k
  | .linkh n => s.mgmt.linkh.get 0xFFFF0000 n
  | .ckpt0 => s.mgmt.ckpt0
  | .ckpt1 => s.mgmt.ckpt1
  | .ckpt2 => s.mgmt.ckpt2
  | .swaprdy => BitVec.ofNat 64 (b2n s.swapReady)
  | .fladdr => s.mgmt.fladdr.setWidth 64
  | .flcmd => s.mgmt.flcmd.setWidth 64
  | .fldata i => s.mgmt.fldata.get 0 i
  | .ctx i => (s.ctx (i / 2)).word i
  | .pfbase => s.mgmt.pfbase
  | .pfhead => s.mgmt.pfhead.setWidth 64
  | .pftail => s.mgmt.pftail.setWidth 64
  | .pfresume => 0
  | .tlbinv => s.mgmt.tlbinv
  | .tlbinvn => s.mgmt.tlbinvn
  | .lqctl q => (s.lqueue q).ctl
  | .lqdoor _ => 0
  | .lqstat q => (s.lqueue q).stat
  | .errlog i => halfOf (s.mgmt.errlog.get 0 (i / 2)) i
  | .lerrcnt => BitVec.ofNat 64 (min s.mgmt.lerrcnt (2 ^ 32 - 1))
  | .colldom i => pairWord (s.mgmt.colldom.get 0 (2 * i)) (s.mgmt.colldom.get 0 (2 * i + 1))
  | .hole => 0

/-! ## Writing -/

/-- A write as its word takes it: the halves that it includes, and the word with its other half as it stands (R321). -/
structure MWrite where
  lo : Bool
  hi : Bool
  v : BitVec 64
deriving DecidableEq, Repr

/-- The low and the high half of the word written. -/
def MWrite.lowWord (w : MWrite) : BitVec 32 := w.v.extractLsb' 0 32
def MWrite.highWord (w : MWrite) : BitVec 32 := w.v.extractLsb' 32 32
/-- The write includes a bit and writes 1 to it. -/
def MWrite.sets (w : MWrite) (b : Nat) : Bool := (if b < 32 then w.lo else w.hi) && w.v.getLsbD b

/-- Applies a write to the entries of a table of 4-byte entries, low entry first. -/
def MWrite.each (w : MWrite) (i : Nat) (f : Nat → BitVec 32 → State → State) (s : State) : State :=
  let s := if w.lo then f (2 * i) w.lowWord s else s
  if w.hi then f (2 * i + 1) w.highWord s else s

/-- A field map with nothing but the bits `mask`: reserved bits stay 0 (R9). -/
def keep (v : BitVec 64) (lo n : Nat) : Nat := bitsOf v.toNat lo n * 2 ^ lo

/-- LQCTL (R55): CTX stays while records are queued. -/
def State.writeLqctl (s : State) (q : Nat) (w : MWrite) : State :=
  if !w.lo then s
  else s.updLq q (fun l => { l with ctx := if l.recs.isEmpty then bitsOf w.v.toNat 0 12 else l.ctx, en := w.v.getLsbD 12 })
/-- LQDOOR (R55, R321): an 8-byte write appends the VA of a record, or is refused, which sets OVF. -/
def State.writeLqdoor (s : State) (q : Nat) (w : MWrite) : State :=
  if !(w.lo && w.hi) then s
  else
    let l := s.lqueue q
    if !l.en || decide (256 ≤ l.recs.length) || w.v.toNat % 128 != 0 then s.updLq q (fun l => { l with ovf := true })
    else s.updLq q (fun l => { l with recs := l.recs ++ [w.v] })
/-- LQSTAT (R55): OVF clears by a 1. -/
def State.writeLqstat (s : State) (q : Nat) (w : MWrite) : State :=
  if w.sets 9 then s.updLq q (fun l => { l with ovf := false }) else s

/-- A launch of the context is queued or running, or a job of it is unfinished (R99). -/
def State.ctxBusy (s : State) (c : Nat) : Bool :=
  s.mgmt.lq.any (fun q => q.2.ctx == c && !q.2.recs.isEmpty) || s.mgmt.lauq.any (fun q => q.1 == c && !q.2.isEmpty)
    || s.launches.any (fun l => l.2.ctx == c && l.2.st != .ended) || s.jobs.any (fun j => j.2.ctx == c && j.2.state == 0)
/-- A context-table word (R99): ignored where the rule says so. -/
def State.writeCtx (s : State) (i : Nat) (w : MWrite) : State :=
  let c := i / 2
  let old := s.ctx c
  let new : Ctx := if i % 2 = 0 then { old with v := w.v.getLsbD 0, root := keep w.v 13 27 } else { old with asid := bitsOf w.v.toNat 0 16 }
  let reserved := if i % 2 = 0 then bitsOf w.v.toNat 1 12 != 0 || bitsOf w.v.toNat 40 24 != 0 else bitsOf w.v.toNat 16 48 != 0
  let clash := new.v && (new.asid == 0 || s.mgmt.ctxs.any (fun x => x.1 != c && x.2.v && x.2.asid == new.asid))
  let moved := new.root != old.root || new.asid != old.asid || (old.v && !new.v)
  if reserved || clash || (moved && s.ctxBusy c) then s
  else s.updMgmt (fun m => { m with ctxs := m.ctxs.set c new })

/-- PFRESUME (R101, R321): an 8-byte write; the granule leaves the ring, every block that waits on it is restored where it has room, and every job goes on. -/
def State.writePfresume (s : State) (w : MWrite) : State :=
  if !(w.lo && w.hi) then s
  else
    let c := bitsOf w.v.toNat 0 12
    let g := bitsOf w.v.toNat 16 33
    let s := s.updMgmt (fun m => { m with faults := m.faults.filter (fun f => !(f.ctx == c && f.va.toNat / 65536 % 2 ^ 33 == g)) })
    let waits (b : Block) : Bool := match b.pageWait with
      | some p => p.1 % 2 ^ 33 == g && (s.launch b.launch).ctx == c
      | none => false
    let bs := s.blocks.keysWhere (fun _ b => b.st == .saved && waits b)
    let js := s.jobs.keysWhere (fun _ j => j.ctx == c && (match j.pageWait with | some p => p.1 % 2 ^ 33 == g | none => false))
    let s := js.foldl (fun s j => s.updJob j (fun x => { x with pageWait := none })) s
    let s := bs.foldl (fun s b => s.updBlock b (fun x => { x with pageWait := none })) s
    bs.foldl (fun s b =>
      let x := s.block b
      if !s.ckptHolds && s.savedReady b && s.placed x.lcore && s.takesBack b x.lcore then s.restoreBlock b x.lcore else s) s

/-- The granule lies in the range that TLBINV and TLBINVN name (R101). -/
def State.invCovers (s : State) (granule : Nat) : Bool :=
  let v := s.mgmt.tlbinv
  let first := bitsOf v.toNat 16 33
  let n := max 1 (bitsOf s.mgmt.tlbinvn.toNat 0 32)
  v.getLsbD 12 || (decide (first ≤ granule) && decide (granule < first + n))
/-- A granule of the page lies in the range: the one translation of a large page covers all its granules (R100, R101). -/
def State.invCoversPage (s : State) (page level : Nat) : Bool :=
  (List.range (2 ^ (pageBits level - 16))).any (fun k => s.invCovers ((page * 2 ^ (pageBits level - 16) + k) % 2 ^ 33))
/-- Removes the translations that TLBINV names, and every line tagged through them: of a large page, the lines of all its granules (R101, R102). -/
def State.invalidate (s : State) : State :=
  let a := (s.ctx (bitsOf s.mgmt.tlbinv.toNat 0 12)).asid
  let t := s.evictAll (fun _ l => l.asid == a && s.invCoversPage (l.vline * 128 / 2 ^ pageBits l.level) l.level)
  { t with tlb := t.tlb.filter (fun e => !(e.asid == a && s.invCoversPage e.vpage e.level)), rdc := t.rdc.filter (fun r => r.asid != a) }
/-- TLBINV (R101): GO while BUSY is ignored; otherwise GO invalidates and BUSY reads 1 until the invalidation completes. -/
def State.writeTlbinv (s : State) (w : MWrite) : State :=
  let busy := s.mgmt.tlbinv.getLsbD 14
  let go := w.sets 13
  if go && busy then s
  else
    let v := BitVec.ofNat 64 (keep w.v 0 13 + b2n (busy || go) * 2 ^ 14 + keep w.v 16 33)
    let s := s.updMgmt (fun m => { m with tlbinv := v })
    if go then s.invalidate else s

/-- Two bias ranges in force share a page (R199). -/
def BRange.meets (a b : BRange) : Bool :=
  a.w0.getLsbD 0 && b.w0.getLsbD 0 && decide (eBits a.w0 12 28 ≤ eBits b.w0 12 28 + eBits b.w0 40 24)
    && decide (eBits b.w0 12 28 ≤ eBits a.w0 12 28 + eBits a.w0 40 24)
/-- The pages in host bias as the bitmap of a range gives them (R199). -/
def State.bitmapPages (s : State) (r : BRange) : List Nat :=
  ((List.range (eBits r.w0 40 24 + 1)).filter (fun i => (s.homeByte (eBits r.w1 3 37 * 8 + i / 8)).getLsbD (i % 8))).map (fun i => eBits r.w0 12 28 + i)
/-- A word of a bias range (R199): ignored when two ranges in force would overlap; the bitmap is read when EN becomes 1. -/
def State.writeBias (s : State) (i : Nat) (w : MWrite) : State :=
  let k := i / 2
  let old := s.mgmt.ranges.get BRange.zero k
  let new : BRange := if i % 2 = 0 then { old with w0 := BitVec.ofNat 64 (keep w.v 0 1 + keep w.v 12 52) } else { old with w1 := BitVec.ofNat 64 (keep w.v 3 37) }
  if s.mgmt.ranges.any (fun x => x.1 != k && x.2.meets new) then s
  else
    let new := if !new.w0.getLsbD 0 then { new with hostPages := [] }
      else if old.w0.getLsbD 0 then new else { new with hostPages := s.bitmapPages new }
    s.updMgmt (fun m => { m with ranges := m.ranges.set k new })
/-- BIASCMD (R201): ignored while BUSY; GO starts a flip. -/
def State.writeBiascmd (s : State) (w : MWrite) : State :=
  if s.mgmt.biascmd.getLsbD 2 then s
  else
    let go := w.sets 1
    let s := s.updMgmt (fun m => { m with biascmd := BitVec.ofNat 64 (keep w.v 0 1 + b2n go * 4 + keep w.v 12 28) })
    if go then s.askFlip (eBits w.v 12 28) (w.v.getLsbD 0) .command else s

/-- MCSPARE (R195, R196): ignored while GO = 1; GO starts sparing. -/
def State.writeMcspare (s : State) (k : Nat) (w : MWrite) : State :=
  if !w.lo || (s.stack k).spareGo then s
  else (s.updStack k (fun t => { t with mcspare := BitVec.ofNat 32 (keep w.v 0 27 + bitsOf t.mcspare.toNat 27 2 * 2 ^ 27) })).nextSpare k
/-- LNKCTL (R205, R206): DISABLE holds the link in DOWN; RETRAIN starts a retraining of a link that is not disabled. -/
def State.writeLnkctl (s : State) (n : Nat) (w : MWrite) : State :=
  if !w.lo then s
  else
    let off := w.v.getLsbD 17
    let was := (s.link n).disabled
    let s := s.updLink n (fun l => { l with ctl := BitVec.ofNat 32 (keep w.v 0 16 + keep w.v 17 1) })
    if off then (if was then s else s.linkDown n)
    else if w.v.getLsbD 16 then s.linkRetrain n else s

/-- A MID that some master has (R208). -/
def midProduced (m : Nat) : Bool := decide (m < 0xC04) || (decide (0xC10 ≤ m) && decide (m < 0xC18)) || m == 0xD00
/-- ATSEL (R209): a reserved target or a MID never produced is ignored. -/
def State.writeAtsel (s : State) (w : MWrite) : State :=
  let t := bitsOf w.v.toNat 0 8
  let m := bitsOf w.v.toNat 8 12
  if !w.lo || decide (37 < t) || !midProduced m then s else s.updMgmt (fun g => { g with atsel := BitVec.ofNat 32 (t + 256 * m) })
/-- ATCOMMIT (R209): the entries of the window are taken for the selected target and master; one that runs already goes on. -/
def State.writeAtcommit (s : State) (w : MWrite) : State :=
  if w.sets 0 && s.mgmt.atcommit.isNone then
    s.updMgmt (fun m => { m with atcommit := some (4096 * bitsOf m.atsel.toNat 0 8 + bitsOf m.atsel.toNat 8 12, m.atwin) })
  else s
/-- A word of the window (R208, R209): reserved bits stay 0. -/
def State.writeWindow (s : State) (i : Nat) (w : MWrite) : State :=
  let v := if i % 2 = 0 then BitVec.ofNat 64 (keep w.v 0 6 + keep w.v 12 40) else BitVec.ofNat 64 (keep w.v 12 40)
  s.updMgmt (fun m => { m with atwin := m.atwin.upd 0 (i / 2) (fun e => if i % 2 = 0 then e.extractLsb' 64 64 ++ v else v ++ e.extractLsb' 0 64) })

/-- COLLINJ (R186): a write of a reserved value is ignored whole. -/
def State.writeCollinj (s : State) (hub : Nat) (w : MWrite) : State :=
  let arm := bitsOf w.v.toNat 0 2
  let port := bitsOf w.v.toNat 8 5
  let k := bitsOf w.v.toNat 19 6
  let bad := arm == 3 || (arm == 1 && (w.v.getLsbD 24 || (decide (3 < port) && decide (port < 16)))) || (arm == 2 && decide (47 < k))
  if bad then s
  else s.updMgmt (fun m => { m with collinj := m.collinj.set hub (BitVec.ofNat 64 (keep w.v 0 2 + keep w.v 8 17 + keep w.v 32 16)) })
/-- A 4-byte entry of the collective domain table (R171): NPARTY 1 or above 1,024 keeps the field. -/
def writeColldom (i : Nat) (v : BitVec 32) (s : State) : State :=
  let j := i % 2048
  let old := s.mgmt.colldom.get 0 i
  let np := bitsOf v.toNat 0 16
  let np := if np = 1 || 1024 < np then bitsOf old.toNat 0 16 else np
  let new : BitVec 32 := if j = 0 then BitVec.ofNat 32 (np + bitsOf v.toNat 16 1 * 65536)
    else if j < 3 then v
    else if 16 ≤ j && j < 1040 then BitVec.ofNat 32 (bitsOf v.toNat 0 16)
    else 0
  s.updMgmt (fun m => { m with colldom := m.colldom.set i new })
/-- DEVNUM (R320): ignored while a collective job of the device is unfinished. -/
def State.writeDevnum (s : State) (w : MWrite) : State :=
  if !w.lo || s.collBusy then s else s.updMgmt (fun m => { m with devnum := BitVec.ofNat 32 (keep w.v 0 14) })
/-- SLICEQ (R61): a value outside 1,024 to 16,777,215 is ignored. -/
def State.writeSliceq (s : State) (w : MWrite) : State :=
  let n := bitsOf w.v.toNat 0 24
  if !w.lo || decide (n < 1024) then s else s.updMgmt (fun m => { m with sliceq := BitVec.ofNat 24 n })

/-- A read of PCI configuration space by the host, 4 bytes at an aligned offset of a function (R10): the Vendor and Device IDs, the Subsystem IDs, and PARTID at 0x0800 of function 0; nothing else of that space is given. The identifiers answer at every function number, also in the recovery state, since R22 does not say which functions answer (DESIGN CHOICE, log entry 125). -/
def State.pciConfig (s : State) (fn off : Nat) : Option (BitVec 32) :=
  if off = 0 then some (0x4016#16 ++ s.mgmt.pciid.extractLsb' 0 16)
  else if off = 0x2C then some (s.mgmt.pciid.extractLsb' 32 16 ++ s.mgmt.pciid.extractLsb' 16 16)
  else if fn = 0 && off = 0x800 then some s.mgmt.partid
  else none

/-- FLASH registers (R25). The copy that was loaded, B when true. -/
def State.loadedCopy (s : State) : Option Bool := if s.mgmt.cfgstat.getLsbD 0 then some (s.mgmt.cfgstat.getLsbD 1) else none
/-- The copy that FLADDR names, and the block. -/
def State.flashCopy (s : State) : Bool := s.mgmt.fladdr.getLsbD 0
def State.flashBlk (s : State) : Nat := bitsOf s.mgmt.fladdr.toNat 1 10
/-- The write starts an erase or a program of the loaded copy, which is denied (R24, R25). -/
def State.flashDenied (s : State) (w : MWrite) : Bool :=
  let op := bitsOf w.v.toNat 0 2
  w.sets 2 && !s.mgmt.flcmd.getLsbD 2 && (op == 1 || op == 2) && s.loadedCopy == some s.flashCopy
/-- The 64 bytes of FLDATA. -/
def State.fldataBytes (s : State) : List Byte := (List.range 8).flatMap (fun i => leBytes (s.mgmt.fldata.get 0 i).toNat 8)
/-- FLCMD (R25): ignored while GO = 1; ERR clears by a 1; GO starts OP with the copy, the block and the bytes that FLADDR and FLDATA hold now. A write that is denied sets ERR and changes nothing else (R24, R210). -/
def State.writeFlcmd (s : State) (w : MWrite) : State :=
  if !w.lo || s.mgmt.flcmd.getLsbD 2 then s
  else if s.flashDenied w then s.updMgmt (fun m => { m with flcmd := m.flcmd ||| 8 })
  else
    let op := bitsOf w.v.toNat 0 2
    let go := w.v.getLsbD 2 && op != 0
    let err := s.mgmt.flcmd.getLsbD 3 && !w.v.getLsbD 3
    s.updMgmt (fun m => { m with
      flcmd := BitVec.ofNat 32 (op + 4 * b2n go + 8 * b2n err)
      flashRun := if go then some ⟨op, s.flashCopy, s.flashBlk, s.fldataBytes⟩ else none })

/-- What a write of a word does. -/
def State.writeReg (s : State) (hub : Nat) (w : MWrite) : MReg → State
  | .apbase => s.updMgmt (fun m => { m with apbase := BitVec.ofNat 64 (keep w.v 36 4) })
  | .devnum => s.writeDevnum w
  | .remap i => w.each i (fun l v s => s.writeRemap l v) s
  | .sliceq => s.writeSliceq w
  | .collinj => s.writeCollinj hub w
  | .mcspare k => s.writeMcspare k w
  | .mcthr k => if w.lo then s.updStack k (fun t => { t with mcthr := BitVec.ofNat 32 (keep w.v 0 8) }) else s
  | .lnkctl n => s.writeLnkctl n w
  | .atsel => s.writeAtsel w
  | .atcommit => s.writeAtcommit w
  | .window i => s.writeWindow i w
  | .bias i => s.writeBias i w
  | .biascmd => s.writeBiascmd w
  | .peerasid i => s.updMgmt (fun m => { m with peerasid := m.peerasid.set i (BitVec.ofNat 64 (keep w.v 0 48 + keep w.v 63 1)) })
  | .pwrceil => if w.lo then s.writePwrceil w.lowWord else s
  | .pwrstat =>
    let s := if w.sets 14 then s.setPwr 14 1 0 else s
    if w.sets 16 then s.setPwr 16 1 0 else s
  | .pstlim => if w.lo then s.writePstlim w.lowWord else s
  | .diepark => if w.lo then s.writeDiepark w.lowWord else s
  | .ewt i => w.each i (fun k v s => if k = 15 then s else s.updMgmt (fun m => { m with ewt := m.ewt.set k (BitVec.ofNat 32 (bitsOf v.toNat 0 16)) })) s
  | .stw i => w.each i (fun k v s => s.updMgmt (fun m => { m with stw := m.stw.set k (BitVec.ofNat 32 (bitsOf v.toNat 0 16)) })) s
  | .ensave => s.writeEnsave w.v
  | .hlth => if w.sets 22 then s.updMgmt (fun m => { m with hlth := setField m.hlth 22 1 0 }) else s
  | .ckpt0 => s.updMgmt (fun m => { m with ckpt0 := BitVec.ofNat 64 (keep w.v 12 52) })
  | .ckpt1 => s.updMgmt (fun m => { m with ckpt1 := BitVec.ofNat 64 (keep w.v 21 39) })
  | .ckpt2 => if w.lo then s.writeCkpt2 w.v else s
  | .fladdr => if w.lo then s.updMgmt (fun m => { m with fladdr := BitVec.ofNat 32 (keep w.v 0 11) }) else s
  | .flcmd => s.writeFlcmd w
  | .fldata i => s.updMgmt (fun m => { m with fldata := m.fldata.set i w.v })
  | .ctx i => s.writeCtx i w
  | .pfbase => s.updMgmt (fun m => { m with pfbase := BitVec.ofNat 64 (keep w.v 0 1 + keep w.v 13 27) })
  | .pftail => if w.lo then s.updMgmt (fun m => { m with pftail := BitVec.ofNat 8 w.v.toNat }) else s
  | .pfresume => s.writePfresume w
  | .tlbinv => s.writeTlbinv w
  | .tlbinvn => if w.lo then s.updMgmt (fun m => { m with tlbinvn := BitVec.ofNat 64 (keep w.v 0 32) }) else s
  | .lqctl q => s.writeLqctl q w
  | .lqdoor q => s.writeLqdoor q w
  | .lqstat q => s.writeLqstat q w
  | .colldom i => w.each i writeColldom s
  | .partid | .cfgstat | .bootstat | .hostmode | .mcerr _ | .lnkstat _ | .age _ | .memh _ | .linkh _ | .swaprdy | .pfhead
  | .errlog _ | .lerrcnt | .hole => s

/-! ## An access -/

/-- The word that an access names. -/
def accReg (m : MAcc) : MReg := regOf m.hub.toNat (m.off / 8)
/-- An aligned access of 4 or 8 bytes (R321). -/
def accSized (m : MAcc) : Bool := (m.size == 4 || m.size == 8) && m.off % m.size == 0
/-- The master of the access (R208): the host's function 0, or the management master. -/
def accMid (m : MAcc) : Nat := if m.host then 0xC10 else 0xD00
/-- The write as its word takes it. -/
def State.mwrite (s : State) (m : MAcc) : MWrite :=
  let old := s.readReg m.hub.toNat (accReg m)
  if m.size = 8 then ⟨true, true, m.val⟩
  else if m.off % 8 = 0 then ⟨true, false, old.extractLsb' 32 32 ++ m.val.extractLsb' 0 32⟩
  else ⟨false, true, m.val.extractLsb' 0 32 ++ old.extractLsb' 0 32⟩
/-- The access is refused and completes with an error (R8, R24, R208, R210, R321): its size or alignment, the access table of management space, or a register that only the management master writes. -/
def State.mRefused (s : State) (wr : Bool) (m : MAcc) : Bool :=
  !(accSized m) || !s.permits 37 (accMid m) m.off (if wr then .write else .read)
    || (wr && m.host && (accReg m).locked && !(m.size == 4 && (accReg m).emptyHalf (m.off % 8 == 4)))
/-- What a read returns. -/
def State.mread (s : State) (m : MAcc) : BitVec 64 :=
  let v := s.readReg m.hub.toNat (accReg m)
  if m.size = 8 then v else if m.off % 8 = 0 then (v.extractLsb' 0 32).setWidth 64 else (v.extractLsb' 32 32).setWidth 64
/-- What the access returns is kept, none for an error completion. -/
def State.replyWith (s : State) (r : Option (BitVec 64)) : State := s.updMgmt (fun m => { m with reply := r })

/-- An access of management space (R321): one that is refused changes nothing and completes with an error; a read returns its word or half; a write acts on its register. A flash command on the loaded copy is denied, which its master, of which the table of R210 does not speak, sees as an error completion (log entry 107). -/
def State.manage (s : State) (wr : Bool) (m : MAcc) : State :=
  if s.mRefused wr m then s.replyWith none
  else if !wr then s.replyWith (some (s.mread m))
  else
    let w := s.mwrite m
    let denied := (accReg m) == .flcmd && s.flashDenied w
    (s.writeReg m.hub.toNat w (accReg m)).replyWith (if denied then none else some 0)

/-- The access takes in a 4-byte register of hub 0. -/
def accCovers (m : MAcc) (off : Nat) : Bool := m.hub == 0 && decide (m.off ≤ off) && decide (off < m.off + m.size)
/-- A row that is the write of a register: a write of something else is not that event. -/
def State.manageIf (s : State) (c : Bool) (m : MAcc) : Host.Outcome State Fault Refusal := if c then ok (s.manage true m) else ok s

/-! ## The rows -/

/-- MANAGEMENT_ACCESS (R321): any access of management space. -/
def execManagementAccess (wr : Bool) (m : MAcc) (s : State) : Host.Outcome State Fault Refusal := ok (s.manage wr m)
/-- LQDOOR (R55). -/
def execLqdoor (q : BitVec 6) (m : MAcc) (s : State) : Host.Outcome State Fault Refusal := s.manageIf ((accReg m) == .lqdoor q.toNat) m
/-- LQCTL_WRITE (R55). -/
def execLqctlWrite (q : BitVec 6) (m : MAcc) (s : State) : Host.Outcome State Fault Refusal := s.manageIf ((accReg m) == .lqctl q.toNat) m
/-- REMAP_WRITE (R60). -/
def execRemapWrite (l : BitVec 8) (m : MAcc) (s : State) : Host.Outcome State Fault Refusal := s.manageIf (accCovers m (0x1000 + 4 * l.toNat)) m
/-- CONTEXT_TABLE_WRITE (R99). -/
def execContextTableWrite (m : MAcc) (s : State) : Host.Outcome State Fault Refusal :=
  s.manageIf (match (accReg m) with | .ctx _ => true | _ => false) m
/-- PFRESUME (R101). -/
def execPfresume (m : MAcc) (s : State) : Host.Outcome State Fault Refusal := s.manageIf ((accReg m) == .pfresume) m
/-- TLBINV (R101). -/
def execTlbinv (m : MAcc) (s : State) : Host.Outcome State Fault Refusal := s.manageIf ((accReg m) == .tlbinv) m
/-- TLBINV_DONE (R101): BUSY clears. -/
def execTlbinvDone (s : State) : Host.Outcome State Fault Refusal :=
  ok (s.updMgmt (fun m => { m with tlbinv := m.tlbinv &&& ~~~(0x4000#64) }))
/-- BIAS_RANGE_WRITE (R199). -/
def execBiasRangeWrite (m : MAcc) (s : State) : Host.Outcome State Fault Refusal :=
  s.manageIf (match (accReg m) with | .bias _ => true | _ => false) m
/-- BIASCMD (R201). -/
def execBiascmd (m : MAcc) (s : State) : Host.Outcome State Fault Refusal := s.manageIf ((accReg m) == .biascmd) m
/-- MCSPARE (R195, R196). -/
def execMcspare (stack : BitVec 4) (m : MAcc) (s : State) : Host.Outcome State Fault Refusal := s.manageIf ((accReg m) == .mcspare stack.toNat) m
/-- LNKCTL_RETRAIN (R206): a write of LNKCTL with RETRAIN = 1. -/
def execLnkctlRetrain (link : BitVec 4) (m : MAcc) (s : State) : Host.Outcome State Fault Refusal :=
  s.manageIf ((accReg m) == .lnkctl link.toNat && (s.mwrite m).sets 16) m
/-- LNKCTL_DISABLE (R205): a write of LNKCTL with DISABLE = 1. -/
def execLnkctlDisable (link : BitVec 4) (m : MAcc) (s : State) : Host.Outcome State Fault Refusal :=
  s.manageIf ((accReg m) == .lnkctl link.toNat && (s.mwrite m).sets 17) m
/-- ATCOMMIT (R209). -/
def execAtcommit (m : MAcc) (s : State) : Host.Outcome State Fault Refusal := s.manageIf ((accReg m) == .atcommit) m
/-- ATCOMMIT_COMPLETE (R209): ATCOMMIT reads 0 again and the new table governs. -/
def execAtcommitComplete (s : State) : Host.Outcome State Fault Refusal :=
  match s.mgmt.atcommit with
  | some c => ok (s.updMgmt (fun m => { m with ats := m.ats.set c.1 c.2, atcommit := none }))
  | none => ok s
/-- COLLINJ_WRITE (R186). -/
def execCollinjWrite (m : MAcc) (s : State) : Host.Outcome State Fault Refusal := s.manageIf ((accReg m) == .collinj) m
/-- COLL_DOMAIN_WRITE (R171). -/
def execCollDomainWrite (m : MAcc) (s : State) : Host.Outcome State Fault Refusal :=
  s.manageIf (match (accReg m) with | .colldom _ => true | _ => false) m
/-- DEVNUM_WRITE (R320). -/
def execDevnumWrite (m : MAcc) (s : State) : Host.Outcome State Fault Refusal := s.manageIf ((accReg m) == .devnum) m
/-- PWRCEIL_WRITE (R211, R212). -/
def execPwrceilWrite (m : MAcc) (s : State) : Host.Outcome State Fault Refusal := s.manageIf ((accReg m) == .pwrceil) m
/-- PSTLIM_WRITE (R211, R212). -/
def execPstlimWrite (m : MAcc) (s : State) : Host.Outcome State Fault Refusal := s.manageIf ((accReg m) == .pstlim) m
/-- DIE_PARK (R214, R215): a write of DIEPARK that requests a die parked. -/
def execDiePark (m : MAcc) (s : State) : Host.Outcome State Fault Refusal :=
  s.manageIf ((accReg m) == .diepark && (List.range 4).any (fun d => (s.mwrite m).sets d)) m
/-- DIE_UNPARK (R215): a write of DIEPARK that requests a die unparked. -/
def execDieUnpark (m : MAcc) (s : State) : Host.Outcome State Fault Refusal :=
  s.manageIf ((accReg m) == .diepark && (s.mwrite m).lo && (List.range 4).any (fun d => !(s.mwrite m).v.getLsbD d)) m
/-- DIEPARK_HOLD (R216): a write of DIEPARK that changes HOLD. -/
def execDieparkHold (m : MAcc) (s : State) : Host.Outcome State Fault Refusal :=
  s.manageIf ((accReg m) == .diepark && (s.mwrite m).lo && (s.mwrite m).v.getLsbD 13 != s.hold) m
/-- ENSAVE_WRITE (R217). -/
def execEnsaveWrite (m : MAcc) (s : State) : Host.Outcome State Fault Refusal := s.manageIf ((accReg m) == .ensave) m
/-- CKPT_SAVE (R222): GO with DIR 0. -/
def execCkptSave (m : MAcc) (s : State) : Host.Outcome State Fault Refusal :=
  s.manageIf ((accReg m) == .ckpt2 && (s.mwrite m).sets 1 && !(s.mwrite m).v.getLsbD 0) m
/-- CKPT_RESTORE (R222): GO with DIR 1. -/
def execCkptRestore (m : MAcc) (s : State) : Host.Outcome State Fault Refusal :=
  s.manageIf ((accReg m) == .ckpt2 && (s.mwrite m).sets 1 && (s.mwrite m).v.getLsbD 0) m

end Sys2Proof.Machine
end

