-- ==== Sys2Proof/Machine/Boot.lean ====
section
/-! DEFINITION. The configuration flash, reset and the boot phases, and a failure of power (spec/01_organisation.md R19 to R25, spec/21_power_health.md R224). -/

namespace Sys2Proof.Machine

open Sys2Proof

/-! ## The flash (R21, R25) -/

/-- A byte of a copy, B when `c`: erased flash reads 0xFF, and an area that a failure of power left half done holds open values. -/
def State.flashByte (s : State) (c : Bool) (i : Nat) : Byte :=
  match s.mgmt.flashTorn.find? (fun t => t.1 == c && (match t.2.1 with | some b => i / 64 == b | none => true)) with
  | some t => Config.tornByte t.2.2 i
  | none => (if c then s.mgmt.flashB else s.mgmt.flashA).get 0xFF i
/-- The `n` little-endian bytes at an offset of a copy. -/
def State.flashNat (s : State) (c : Bool) (off n : Nat) : Nat := leNat ((List.range n).map (fun k => s.flashByte c (off + k)))
/-- The bytes from one offset to another are zero. -/
def State.flashZero (s : State) (c : Bool) (lo hi : Nat) : Bool := (List.range (hi - lo)).all (fun k => s.flashByte c (lo + k) == 0)

/-- The magic of a configuration block (R21). -/
def configMagic : Nat := 0x4951434647424B31
/-- An entry of the row-spare list of a copy (R21). -/
def State.rowSpare (s : State) (c : Bool) (i : Nat) : Nat := s.flashNat c (0xD000 + 8 * i) 8
/-- Two valid entries name one spare row of a bank: stack, pseudo-channel, bank and spare agree. -/
def sameSpare (x y : Nat) : Bool :=
  bitsOf x 0 1 == 1 && bitsOf y 0 1 == 1 && bitsOf x 1 16 == bitsOf y 1 16 && bitsOf x 31 2 == bitsOf y 31 2
/-- The reserved fields of a copy are zero (R21). -/
def State.reservedZero (s : State) (c : Bool) : Bool :=
  decide (s.flashNat c 0x10 4 < 16) && decide (s.flashNat c 0x18 4 < 65536) && decide (s.flashNat c 0x1C 4 < 16)
    && decide (s.flashNat c 0x20 4 < 16384) && s.flashZero c 0x24 0x100
    && (List.range 256).all (fun l => decide (s.flashNat c (0x100 + 4 * l) 4 < 512))
    && s.flashZero c 0x550 0x1000
    && (List.range 1024).all (fun i => decide (s.rowSpare c i < 2 ^ 33) && (s.rowSpare c i % 2 == 1 || s.rowSpare c i == 0))
    && s.flashZero c 0xF000 0xFF00 && s.flashZero c 0xFF60 0x10000
/-- The initial remap table names no core of a die that the copy parks at reset (R21). -/
def State.remapClear (s : State) (c : Bool) : Bool :=
  (List.range 256).all (fun l => !(s.flashNat c 0x1C 4).testBit (s.flashNat c (0x100 + 4 * l) 4 / 128))
/-- No spare row of a bank is named twice (R21). -/
def State.sparesDistinct (s : State) (c : Bool) : Bool :=
  (List.range 1024).all (fun i => (List.range i).all (fun j => !sameSpare (s.rowSpare c i) (s.rowSpare c j)))
/-- The copy is valid (R21, R22, R25). -/
def State.copyOk (s : State) (c : Bool) : Bool :=
  !s.mgmt.flashTorn.any (fun t => t.1 == c) && s.flashNat c 0 8 == configMagic && s.reservedZero c && s.remapClear c && s.sparesDistinct c
    && Config.signatureOk ((List.range 65536).map (s.flashByte c))
/-- The sequence number of a copy. -/
def State.copySeq (s : State) (c : Bool) : Nat := s.flashNat c 8 8

/-- The operation that FLCMD runs (R25), none while GO is 0 or once its effect has been made. -/
def State.flashOp (s : State) (op : Nat) : Option FlashOp :=
  match s.mgmt.flashRun with
  | some f => if s.mgmt.flcmd.getLsbD 2 && f.op == op then some f else none
  | none => none
/-- The effect of the operation has been made. -/
def State.flashMade (s : State) : State := s.updMgmt (fun m => { m with flashRun := none })
/-- Writes a copy. -/
def State.setFlash (s : State) (c : Bool) (t : Tab Byte) : State :=
  s.updMgmt (fun m => if c then { m with flashB := t } else { m with flashA := t })
def State.flashOf (s : State) (c : Bool) : Tab Byte := if c then s.mgmt.flashB else s.mgmt.flashA

/-- FLASH_ERASE (R25): every byte of the copy becomes 0xFF. -/
def execFlashErase (s : State) : Host.Outcome State Fault Refusal :=
  match s.flashOp 1 with
  | none => ok s
  | some f => ok ((s.setFlash f.copyB []).updMgmt (fun m => { m with flashTorn := m.flashTorn.filter (fun t => t.1 != f.copyB) })).flashMade
/-- A block of a copy is all 0xFF since the last erase (R25). -/
def State.blockClean (s : State) (c : Bool) (b : Nat) : Bool :=
  !s.mgmt.flashTorn.any (fun t => t.1 == c && (match t.2.1 with | some x => x == b | none => true))
    && (List.range 64).all (fun k => (s.flashOf c).get 0xFF (64 * b + k) == 0xFF)
/-- FLASH_PROGRAM (R25): FLDATA goes into the block, or ERR is set where the block is not clean. -/
def execFlashProgram (s : State) : Host.Outcome State Fault Refusal :=
  match s.flashOp 2 with
  | none => ok s
  | some f =>
    if !s.blockClean f.copyB f.blk then ok (s.updMgmt (fun m => { m with flcmd := m.flcmd ||| 8 })).flashMade
    else
      let t := ((List.range 64).zip f.data).foldl (fun (t : Tab Byte) x => t.set (64 * f.blk + x.1) x.2) (s.flashOf f.copyB)
      ok (s.setFlash f.copyB t).flashMade
/-- FLASH_READ (R25): the block goes into FLDATA. -/
def execFlashRead (s : State) : Host.Outcome State Fault Refusal :=
  match s.flashOp 3 with
  | none => ok s
  | some f => ok ((s.updMgmt (fun m => { m with fldata := (List.range 8).map (fun i => (i, BitVec.ofNat 64 (s.flashNat f.copyB (64 * f.blk + 8 * i) 8))) })).flashMade)
/-- PENDING (R23, R25): the copy that was not loaded is valid and holds a higher sequence number. -/
def State.checkPending (s : State) : State :=
  match s.loadedCopy with
  | some c => s.updMgmt (fun m => { m with cfgstat := setField m.cfgstat 5 1 (b2n (s.copyOk (!c) && decide (s.copySeq c < s.copySeq (!c)))) })
  | none => s
/-- FLASH_OP_DONE (R25): GO clears; after a program or an erase the copy that was not loaded is checked. -/
def execFlashOpDone (s : State) : Host.Outcome State Fault Refusal :=
  if !s.mgmt.flcmd.getLsbD 2 || s.mgmt.flashRun.isSome then ok s
  else
    let op := bitsOf s.mgmt.flcmd.toNat 0 2
    let s := s.updMgmt (fun m => { m with flcmd := setField m.flcmd 2 1 0 })
    if op = 3 then ok s else ok s.checkPending

/-! ## Reset (R22 to R24, R224) -/

/-- The device as power or reset leaves it: everything at its reset value but the flash, and what lies outside the device. A flash operation that runs at a reset whose effect has not been made is dropped, and the flash stands as it was (log entry 108). -/
def State.cold (s : State) : State :=
  { State.reset with
    hostMem := s.hostMem, peerMem := s.peerMem, agenda := s.agenda, seq := s.seq
    mgmt := { Mgmt.reset with flashA := s.mgmt.flashA, flashB := s.mgmt.flashB, flashTorn := s.mgmt.flashTorn } }
/-- BOOTSTAT (R224). -/
def State.phase (s : State) : Nat := bitsOf s.mgmt.bootstat.toNat 0 4
def State.setPhase (s : State) (n dies : Nat) : State := s.updMgmt (fun m => { m with bootstat := BitVec.ofNat 32 (n + 16 * dies) })

/-- Applies an entry of the row-spare list (R21, R196). -/
def State.applyRowSpare (s : State) (e : Nat) : State :=
  if e % 2 = 0 then s
  else s.updStack (bitsOf e 1 4) (fun t => { t with remap := (bitsOf e 5 6, bitsOf e 11 6, bitsOf e 17 14, bitsOf e 31 2) :: t.remap, spared := t.spared + 1 })
/-- LNKSTAT of a link as the spare-lane map gives it (R21, R205). -/
def laneStat (b : Byte) : BitVec 64 := if b.toNat < 8 then BitVec.ofNat 64 (1 + 4 + 8 * b.toNat) else 0x79
/-- The logical cores that a physical core hosts run on it, the lowest first (R61). -/
def State.startCores (s : State) : State :=
  (List.range 256).foldl (fun s l => if s.placed l then s.updCore (s.remapOf l) (fun c => if c.active.isNone then { c with active := some l } else c) else s) s
/-- The clusters of the spares that host a logical core (R19): the cluster of one that the initial table places, with no REMAP write, is fixed at load by the failed-core mask of the configuration block (DESIGN CHOICE, log entry 124). -/
def State.startSpares (s : State) : State :=
  (List.range 256).foldl (fun s l =>
    let p := s.remapOf l
    if s.placed l && 64 ≤ p % 128 then s.updMgmt (fun m => { m with spareCluster := m.spareCluster.set p (s.spareCluster p) }) else s) s

/-- The initial remap table of a copy would need three logical cores on one core (R20). -/
def State.remapOver (s : State) (c : Bool) : Bool :=
  let ps := (List.range 256).map (fun l => s.flashNat c (0x100 + 4 * l) 4)
  ps.any (fun p => coreExists p && decide (2 < (ps.filter (fun q => q == p)).length))

/-- Loads a copy (R21 to R23). A logical core on a die that is not harvested in, and one whose entry names a PCORE value that is never assigned, has no place; the copy is valid all the same (log entry 92). A table that needs three logical cores on one core is refused: the remap table stays as reset leaves it, with every logical core unplaced, and the remap-exhausted condition rises (R20, log entry 92). -/
def State.loadConfig (s : State) (c aok bok : Bool) : State :=
  let cdie := s.flashNat c 0x10 4 % 16
  let tooMany := s.remapOver c
  let remap := if tooMany then [] else (List.range 256).map (fun l => (l, BitVec.ofNat 9 (s.flashNat c (0x100 + 4 * l) 4)))
  let s' := s.updMgmt (fun m => { m with
    cfgstat := BitVec.ofNat 32 (1 + 2 * b2n c + 4 * b2n aok + 8 * b2n bok + 65536 * (s.copySeq c % 65536))
    partid := BitVec.ofNat 32 (0x00B14016 + cdie * 2 ^ 24)
    pciid := BitVec.ofNat 48 (s.flashNat c 0x14 4 + s.flashNat c 0x18 2 * 2 ^ 32)
    parkAtReset := BitVec.ofNat 4 (s.flashNat c 0x1C 4)
    devnum := BitVec.ofNat 32 (s.flashNat c 0x20 4)
    remap := remap
    unplaced := if tooMany then List.range 256 else (remap.filter (fun x => !cdie.testBit (x.2.toNat / 128))).map Prod.fst
    failed := BitVec.ofNat 512 (s.flashNat c 0x500 64)
    spareLanes := (List.range 16).map (fun n => (n, s.flashByte c (0x540 + n)))
    diepark := BitVec.ofNat 32 ((15 - cdie) * 16)
    bootstat := 2 })
  let s' := (List.range 1024).foldl (fun t i => t.applyRowSpare (s.rowSpare c i)) s'
  let s' := (List.range 16).foldl (fun t n => t.updLink n (fun l => { l with stat := laneStat (s.flashByte c (0x540 + n)) })) s'
  (if tooMany then s'.remapExhausted else s').startSpares.startCores

/-- RESET (R22, R224): the configuration phase. The valid copy with the higher sequence number is loaded, A at equal numbers; without a valid copy the device enters the recovery state. -/
def execReset (s : State) : Host.Outcome State Fault Refusal :=
  let s := s.cold
  let a := s.copyOk false
  let b := s.copyOk true
  if a && b then ok (s.loadConfig (decide (s.copySeq false < s.copySeq true)) a b)
  else if a || b then ok (s.loadConfig b a b)
  else ok (s.updMgmt (fun m => { m with cfgstat := 0x10, bootstat := 15 }))

/-! ## Self test and training (R19, R20, R224) -/

/-- The die will run when the boot is over: harvested in, and not parked at reset. -/
def State.dieStarts (s : State) (d : Nat) : Bool := s.harvested d && !s.mgmt.parkAtReset.getLsbD d
/-- The spare that stands in for a core of its pair of clusters: it works and hosts nothing (R19). -/
def State.freeSpareCore (s : State) (p : Nat) : Option Nat :=
  let q := p / 128 * 128 + 64 + p % 128 / 16
  if p % 128 < 64 && !s.coreFailed q && (s.hosts q).isEmpty then some q else none
/-- The lowest working core that hosts exactly one logical core (R20). -/
def State.sharedCore (s : State) : Option Nat :=
  (List.range 512).find? (fun p => coreExists p && !s.coreFailed p && s.dieStarts (coreDie p) && (s.hosts p).length == 1)
/-- Finds a place for a logical core whose core has failed: a spare, else a core that takes a second one, else the remap-exhausted condition (R19, R20). Repairs made before for other cores stand, and the entry of this one alone stays as it is (DESIGN CHOICE, log entry 124). -/
def State.repairCore (s : State) (l : Nat) : State :=
  let p := s.remapOf l
  if !s.placed l || !s.coreFailed p then s
  else
    match s.freeSpareCore p with
    | some q => s.setRemap l q
    | none =>
      match s.sharedCore with
      | some q => s.setRemap l q
      | none => s.remapExhausted

/-- SELF_TEST_END (R224): failures are marked, spares brought in, the dies of the park-at-reset mask parked; training begins. Of two failed cores of a pair of clusters the lower logical core takes the one spare (DESIGN CHOICE, log entry 124). -/
def execSelfTestEnd (failed : BitVec 512) (s : State) : Host.Outcome State Fault Refusal :=
  if s.phase != 2 then ok s
  else
    let s := s.updMgmt (fun m => { m with failed := m.failed ||| failed })
    let s := (List.range 256).foldl State.repairCore s
    let s := s.updMgmt (fun m => { m with diepark := m.diepark ||| BitVec.ofNat 32 (m.parkAtReset.toNat * 16) })
    ok (s.setPhase 3 0)

/-- TRAINING_END (R224): links are UP, or DOWN where training failed; with every stack trained the device is ready, otherwise it stays in phase 3, for good, with the failing dies in BOOTSTAT[7:4] and the failing stacks reported in MCERR. -/
def execTrainingEnd (stacksOk : BitVec 16) (linksOk : BitVec 16) (s : State) : Host.Outcome State Fault Refusal :=
  if s.phase != 3 || bitsOf s.mgmt.bootstat.toNat 4 4 != 0 then ok s
  else
    let s := (List.range 16).foldl (fun s n => s.updLink n (fun l => l.setState (if linksOk.getLsbD n && !l.disabled then 2 else 0))) s
    let s := (List.range 16).foldl (fun s k => s.updStack k (fun t =>
      { t with failed := !stacksOk.getLsbD k, uecnt := if stacksOk.getLsbD k then t.uecnt else Config.trainingReport k })) s
    let dies := (List.range 4).foldl (fun a d => a + (if (List.range 4).all (fun j => stacksOk.getLsbD (4 * d + j)) then 0 else 2 ^ d)) 0
    ok (s.setPhase (if dies = 0 then 4 else 3) dies)

/-- POWER_FAIL (R25): an erase or a program that runs leaves its copy, or the block, half done, so that the copy fails its check; everything that needs power is lost. -/
def execPowerFail (s : State) : Host.Outcome State Fault Refusal :=
  let torn := match s.flashOp 1, s.flashOp 2 with
    | some f, _ => [(f.copyB, none, s.seq)]
    | none, some f => [(f.copyB, some f.blk, s.seq)]
    | none, none => []
  ok (s.updMgmt (fun m => { m with flashTorn := torn ++ m.flashTorn })).cold.tick

end Sys2Proof.Machine
end

