-- ==== Sys2Proof/Machine/Vector.lean ====
section
/-! DEFINITION. Vector integer and bitwise instructions, compares, moves, broadcasts and bit fields, and the predicate instructions (spec/24_ref_vector.md R252 to R259, R269 to R271). -/

namespace Sys2Proof.Machine

open Sys2Proof

/-! ## The shape of a vector instruction (R252) -/

/-- A result element with what it counts. -/
abbrev ElemRes := Nat × Counts
/-- A result that counts nothing. -/
def plain (x : Nat) : ElemRes := (x, .zero)
/-- A result that may have been clamped. -/
def clampRes (x : Nat × Bool) : ElemRes := (x.1, ⟨b2n x.2, 0, 0⟩)

/-- The code is a NaN of the element type. -/
def nanElem (et x : Nat) : Bool :=
  match fmtOf et with
  | some f => (f.decode x).isNaN
  | none => false
/-- What a result element counts: NANC counts every result element that is a NaN, however it came about (R95, log entry 98). -/
def elemCounts (et : Nat) (r : ElemRes) : Counts := { r.2 with nan := b2n (nanElem et r.1) }
/-- The counts of a lane's elements. -/
def laneCounts (et : Nat) (f : Nat → ElemRes) : Counts := (List.range (etN et)).foldl (fun c i => c.add (elemCounts et (f i))) .zero

/-- Writes the active lanes of a destination from its elements, with the statistics of R95. -/
def State.writeElems (s : State) (et d : Nat) (guess : Mask) (f : Nat → Nat → ElemRes) : State :=
  (s.count (fun l => laneCounts et (f l))).writeLanes et d s.active (fun l => mkLane et (fun i => (f l i).1)) guess

/-- Writes the active lanes of a destination with whole lanes, whose NaN elements are counted (R95, R252). -/
def State.writeWhole (s : State) (et d : Nat) (val : Nat → Nat) (guess : Mask) : State :=
  (s.count (fun l => laneCounts et (fun i => plain (elem et (val l) i)))).writeLanes et d s.active val guess

/-- A vector instruction: its issue, the guessed guard lanes, and its effect on the active lanes. -/
def vectorOp (i : Instr) (t : Traits) (ops : List Opd) (body : State → State) (s : State) : Host.Outcome State Fault Refusal :=
  simple i t ops (fun s =>
    match s.guardTrap with
    | some tr => .trap tr s
    | none => .done (body s)) s

/-! ## Integer and bitwise binary family (R254) -/

/-- `VOP vd, va, b` on elements: `f` has the element type, MODE.SAT, x, y and the old z. -/
def vbinary (i : Instr) (row : BRow) (ets : BitVec 16) (readsZ : Bool) (d a : BitVec 8) (b : Opnd)
    (f : Nat → Bool → Nat → Nat → Nat → ElemRes) (s : State) : Host.Outcome State Fault Refusal :=
  vectorOp i { cls := 1, ets := ets } (s.opsVB d a b)
    (fun s =>
      let et := mET s.mode
      let g := s.guessOf ([s.guessV et a.toNat, s.guessB et b] ++ (if readsZ then [s.guessV et d.toNat] else []))
      s.writeElems et d.toNat g (fun l i =>
        f et (mSAT s.mode) (elem et (s.lane et a.toNat l) i) (elem et (s.srcB row et b l) i) (elem et (s.lane et d.toNat l) i))) s

/-- An element as an integer of its type. -/
def ival (et x : Nat) : Int := intVal (etSigned et) (etW et) x

/-- The results of R254. -/
def addElem (et : Nat) (sat : Bool) (x y _ : Nat) : ElemRes := clampRes (intRes et sat (ival et x + ival et y))
def subElem (et : Nat) (sat : Bool) (x y _ : Nat) : ElemRes := clampRes (intRes et sat (ival et x - ival et y))
def mulElem (et : Nat) (sat : Bool) (x y _ : Nat) : ElemRes := clampRes (intRes et sat (ival et x * ival et y))
def mulhElem (et : Nat) (_ : Bool) (x y _ : Nat) : ElemRes := plain (wrapInt (etW et) (ival et x * ival et y / (2 ^ etW et : Nat)))
def madElem (et : Nat) (sat : Bool) (x y z : Nat) : ElemRes := clampRes (intRes et sat (ival et x * ival et y + ival et z))
def andElem (_ : Nat) (_ : Bool) (x y _ : Nat) : ElemRes := plain (x &&& y)
def orElem (_ : Nat) (_ : Bool) (x y _ : Nat) : ElemRes := plain (x ||| y)
def xorElem (_ : Nat) (_ : Bool) (x y _ : Nat) : ElemRes := plain (x ^^^ y)
def shlElem (et : Nat) (_ : Bool) (x y _ : Nat) : ElemRes := plain (if etW et ≤ y then 0 else x * 2 ^ y % 2 ^ etW et)
def shrElem (et : Nat) (_ : Bool) (x y _ : Nat) : ElemRes := plain (if etW et ≤ y then 0 else x / 2 ^ y)
def sraElem (et : Nat) (_ : Bool) (x y _ : Nat) : ElemRes :=
  plain (wrapInt (etW et) (intVal true (etW et) x / (2 ^ min y (etW et - 1) : Nat)))
def minElem (et : Nat) (_ : Bool) (x y _ : Nat) : ElemRes := plain (if ival et x ≤ ival et y then x else y)
def maxElem (et : Nat) (_ : Bool) (x y _ : Nat) : ElemRes := plain (if ival et x ≤ ival et y then y else x)

def execVadd (S : Bool) (d a : BitVec 8) (b : Opnd) (s : State) : Host.Outcome State Fault Refusal :=
  vbinary (.vadd S d a b) .int etsInt false d a b addElem s
def execVsub (S : Bool) (d a : BitVec 8) (b : Opnd) (s : State) : Host.Outcome State Fault Refusal :=
  vbinary (.vsub S d a b) .int etsInt false d a b subElem s
def execVmul (S : Bool) (d a : BitVec 8) (b : Opnd) (s : State) : Host.Outcome State Fault Refusal :=
  vbinary (.vmul S d a b) .int etsInt false d a b mulElem s
def execVmulh (S : Bool) (d a : BitVec 8) (b : Opnd) (s : State) : Host.Outcome State Fault Refusal :=
  vbinary (.vmulh S d a b) .int etsInt false d a b mulhElem s
def execVmad (S : Bool) (d a : BitVec 8) (b : Opnd) (s : State) : Host.Outcome State Fault Refusal :=
  vbinary (.vmad S d a b) .int etsInt true d a b madElem s
def execVand (S : Bool) (d a : BitVec 8) (b : Opnd) (s : State) : Host.Outcome State Fault Refusal :=
  vbinary (.vand S d a b) .int etsAll false d a b andElem s
def execVor (S : Bool) (d a : BitVec 8) (b : Opnd) (s : State) : Host.Outcome State Fault Refusal :=
  vbinary (.vor S d a b) .int etsAll false d a b orElem s
def execVxor (S : Bool) (d a : BitVec 8) (b : Opnd) (s : State) : Host.Outcome State Fault Refusal :=
  vbinary (.vxor S d a b) .int etsAll false d a b xorElem s
def execVshl (S : Bool) (d a : BitVec 8) (b : Opnd) (s : State) : Host.Outcome State Fault Refusal :=
  vbinary (.vshl S d a b) .shift etsAll false d a b shlElem s
def execVshr (S : Bool) (d a : BitVec 8) (b : Opnd) (s : State) : Host.Outcome State Fault Refusal :=
  vbinary (.vshr S d a b) .shift etsAll false d a b shrElem s
def execVsra (S : Bool) (d a : BitVec 8) (b : Opnd) (s : State) : Host.Outcome State Fault Refusal :=
  vbinary (.vsra S d a b) .shift etsAll false d a b sraElem s
def execVmin (S : Bool) (d a : BitVec 8) (b : Opnd) (s : State) : Host.Outcome State Fault Refusal :=
  vbinary (.vmin S d a b) .int etsInt false d a b minElem s
def execVmax (S : Bool) (d a : BitVec 8) (b : Opnd) (s : State) : Host.Outcome State Fault Refusal :=
  vbinary (.vmax S d a b) .int etsInt false d a b maxElem s

/-! ## Integer unary family (R255) -/

/-- Leading zeros and 1 bits of a number of `w` bits. -/
def leadZeros (w x : Nat) : Nat := if x = 0 then w else w - 1 - Nat.log2 x
def countOnes : Nat → Nat → Nat
  | 0, _ => 0
  | w + 1, x => x % 2 + countOnes w (x / 2)

/-- `VUOP vd, va` on elements. -/
def vunary (i : Instr) (t : Traits) (d a : BitVec 8) (f : State → Nat → Nat → ElemRes) (s : State) : Host.Outcome State Fault Refusal :=
  vectorOp i t (s.opsV2 d a)
    (fun s =>
      let et := mET s.mode
      s.writeElems et d.toNat (s.guessOf [s.guessV et a.toNat]) (fun l i => f s et (elem et (s.lane et a.toNat l) i))) s

/-- Whole elements of a lane, as narrow as the element type's. -/
def notElem (et x : Nat) : ElemRes := plain (2 ^ etW et - 1 - x)
def absElem (et : Nat) (sat : Bool) (x : Nat) : ElemRes := clampRes (intRes et sat (ival et x).natAbs)
def negElem (et : Nat) (sat : Bool) (x : Nat) : ElemRes := clampRes (intRes et sat (-(ival et x)))

def execVnot (S : Bool) (d a : BitVec 8) (s : State) : Host.Outcome State Fault Refusal :=
  vunary (.vnot S d a) { cls := 1 } d a (fun _ et x => notElem et x) s
def execVabs (S : Bool) (d a : BitVec 8) (s : State) : Host.Outcome State Fault Refusal :=
  vunary (.vabs S d a) { cls := 1, ets := etsInt } d a (fun s et x => absElem et (mSAT s.mode) x) s
def execVneg (S : Bool) (d a : BitVec 8) (s : State) : Host.Outcome State Fault Refusal :=
  vunary (.vneg S d a) { cls := 1, ets := etsInt } d a (fun s et x => negElem et (mSAT s.mode) x) s
def execVmov (S : Bool) (d a : BitVec 8) (s : State) : Host.Outcome State Fault Refusal :=
  vunary (.vmov S d a) { cls := 1 } d a (fun _ _ x => plain x) s
def execVclz (S : Bool) (d a : BitVec 8) (s : State) : Host.Outcome State Fault Refusal :=
  vunary (.vclz S d a) { cls := 1, ets := etsInt } d a (fun _ et x => plain (leadZeros (etW et) x)) s
def execVpopc (S : Bool) (d a : BitVec 8) (s : State) : Host.Outcome State Fault Refusal :=
  vunary (.vpopc S d a) { cls := 1, ets := etsInt } d a (fun _ et x => plain (countOnes (etW et) x)) s

/-- VLANE (R255). -/
def execVlane (S : Bool) (d : BitVec 8) (s : State) : Host.Outcome State Fault Refusal :=
  vectorOp (.vlane S d) { cls := 1 } [s.opV 1 d]
    (fun s => s.writeWhole (mET s.mode) d.toNat (fun l => l) s.guardGuess) s

/-! ## Compare, select, broadcast (R256 to R258) -/

/-- A compare into a predicate: lane by lane, true when the condition holds in every element; each element gives its truth and what it counts. -/
def vcompare (i : Instr) (t : Traits) (p : BitVec 3) (a b : BitVec 8) (f : State → Nat → Nat → Nat → Bool × Counts) (s : State) :
    Host.Outcome State Fault Refusal :=
  vectorOp i t [s.opV 2 a, s.opV 3 b]
    (fun s =>
      let et := mET s.mode
      let res (l i : Nat) : Bool × Counts := f s et (elem et (s.lane et a.toNat l) i) (elem et (s.lane et b.toNat l) i)
      let holds (l : Nat) : Bool := (List.range (etN et)).all (fun i => (res l i).1)
      (s.count (fun l => (List.range (etN et)).foldl (fun c i => c.add (res l i).2) .zero)).writeP p s.active (maskOf holds) (s.guessOf [s.guessV et a.toNat, s.guessV et b.toNat])) s

/-- VCMP (R256). -/
def execVcmp (S : Bool) (c : VCond) (p : BitVec 3) (a b : BitVec 8) (s : State) : Host.Outcome State Fault Refusal :=
  vcompare (.vcmp S c p a b) { cls := 1, ets := etsInt } p a b (fun _ et x y => (condV c (ival et x) (ival et y), .zero)) s

/-- VSEL (R257): a lane whose predicate is 1 takes its lane of `va` and its guess bit; any other lane keeps its value and the guess bit of each of its registers; a guessed predicate lane marks its lane in either case. -/
def execVsel (S : Bool) (d a : BitVec 8) (p : BitVec 3) (s : State) : Host.Outcome State Fault Refusal :=
  vectorOp (.vsel S d a p) { cls := 1 } (s.opsV2 d a)
    (fun s =>
      let et := mET s.mode
      let q := s.preg p
      let g (k : Nat) : Mask :=
        (q.bits &&& s.guessV et a.toNat) ||| (~~~q.bits &&& (s.vreg (d.toNat + k)).guess) ||| q.guess ||| s.guardGuess
      let counted := s.count (fun l => if q.bits.getLsbD l then laneCounts et (fun i => plain (elem et (s.lane et a.toNat l) i)) else .zero)
      (List.range (etRegs et)).foldl (fun t k => t.writeV (d.toNat + k) s.active
        (fun l => ((s.vreg ((if q.bits.getLsbD l then a.toNat else d.toNat) + k)).lanes.get l)) (g k)) counted) s

/-- VBCAST from a scalar (R258). -/
def execVbcast (S : Bool) (d : BitVec 8) (a : BitVec 6) (s : State) : Host.Outcome State Fault Refusal :=
  vectorOp (.vbcast S d a) { cls := 1 } [s.opV 1 d, .sr 2 a.toNat]
    (fun s => s.writeWhole (mET s.mode) d.toNat (fun _ => (s.sreg a).toNat) s.guardGuess) s
/-- VBCAST of an immediate, sign-extended (R258). -/
def execVbcastImm (S : Bool) (d : BitVec 8) (i : Imm) (s : State) : Host.Outcome State Fault Refusal :=
  vectorOp (.vbcastImm S d i) { cls := 1 } [s.opV 1 d]
    (fun s => s.writeWhole (mET s.mode) d.toNat (fun _ => (i.ext false 64).toNat) s.guardGuess) s

/-! ## Bit fields (R259) -/

/-- The position and length of a field in a 32-bit word, cut at bit 31. -/
def vfPos (b : DWord) : Nat := (b.extractLsb' 0 5).toNat
def vfLen (b : DWord) : Nat := min ((b.extractLsb' 8 5).toNat + 1) (32 - vfPos b)
def vfGet (b : DWord) (x : Word) : Word := BitVec.ofNat 32 (bitsOf x.toNat (vfPos b) (vfLen b))
def vfGetS (b : DWord) (x : Word) : Word := ofInt 32 (intVal true (vfLen b) (bitsOf x.toNat (vfPos b) (vfLen b)))
def vfPut (b : DWord) (x z : Word) : Word :=
  let m : Word := BitVec.ofNat 32 ((2 ^ vfLen b - 1) * 2 ^ vfPos b)
  (z &&& ~~~m) ||| ((x <<< vfPos b) &&& m)

/-- A bit-field instruction: each register of the operand on its own, with the guess bits of the operand as a whole. -/
def vfield (i : Instr) (d a : BitVec 8) (b : BitVec 6) (readsZ : Bool) (f : DWord → Word → Word → Word) (s : State) :
    Host.Outcome State Fault Refusal :=
  vectorOp i { cls := 1 } (s.opsV2 d a ++ [.sr 3 b.toNat])
    (fun s =>
      let et := mET s.mode
      let g := s.guessOf ([s.guessV et a.toNat] ++ (if readsZ then [s.guessV et d.toNat] else []))
      let val (k l : Nat) : Word := f (s.sreg b) ((s.vreg (a.toNat + k)).lanes.get l) ((s.vreg (d.toNat + k)).lanes.get l)
      let whole (l : Nat) : Nat := joinElems 32 ((List.range (etRegs et)).map (fun k => (val k l).toNat))
      let counted := s.count (fun l => laneCounts et (fun i => plain (elem et (whole l) i)))
      (List.range (etRegs et)).foldl (fun t k => t.writeV (d.toNat + k) s.active (val k) g) counted) s

def execVbfx (S : Bool) (d a : BitVec 8) (b : BitVec 6) (s : State) : Host.Outcome State Fault Refusal :=
  vfield (.vbfx S d a b) d a b false (fun b x _ => vfGet b x) s
def execVbfxS (S : Bool) (d a : BitVec 8) (b : BitVec 6) (s : State) : Host.Outcome State Fault Refusal :=
  vfield (.vbfxS S d a b) d a b false (fun b x _ => vfGetS b x) s
def execVbfi (S : Bool) (d a : BitVec 8) (b : BitVec 6) (s : State) : Host.Outcome State Fault Refusal :=
  vfield (.vbfi S d a b) d a b true (fun b x z => vfPut b x z) s

/-! ## Predicates (R269 to R271) -/

/-- A predicate instruction: bits and guess bits of its active lanes. -/
def predOp (i : Instr) (d : BitVec 3) (bits guess : State → Mask) (s : State) : Host.Outcome State Fault Refusal :=
  vectorOp i { cls := 1 } [] (fun s => s.writeP d s.active (bits s) (guess s ||| s.guardGuess)) s

def execPand (S : Bool) (d a b : BitVec 3) (s : State) : Host.Outcome State Fault Refusal :=
  predOp (.pand S d a b) d (fun s => (s.preg a).bits &&& (s.preg b).bits) (fun s => (s.preg a).guess ||| (s.preg b).guess) s
def execPor (S : Bool) (d a b : BitVec 3) (s : State) : Host.Outcome State Fault Refusal :=
  predOp (.por S d a b) d (fun s => (s.preg a).bits ||| (s.preg b).bits) (fun s => (s.preg a).guess ||| (s.preg b).guess) s
def execPxor (S : Bool) (d a b : BitVec 3) (s : State) : Host.Outcome State Fault Refusal :=
  predOp (.pxor S d a b) d (fun s => (s.preg a).bits ^^^ (s.preg b).bits) (fun s => (s.preg a).guess ||| (s.preg b).guess) s
def execPnot (S : Bool) (d a : BitVec 3) (s : State) : Host.Outcome State Fault Refusal :=
  predOp (.pnot S d a) d (fun s => ~~~(s.preg a).bits) (fun s => (s.preg a).guess) s
def execPmov (S : Bool) (d a : BitVec 3) (s : State) : Host.Outcome State Fault Refusal :=
  predOp (.pmov S d a) d (fun s => (s.preg a).bits) (fun s => (s.preg a).guess) s
def execPset (S : Bool) (d : BitVec 3) (k : BitVec 8) (s : State) : Host.Outcome State Fault Refusal :=
  predOp (.pset S d k) d (fun _ => k) (fun _ => 0) s

/-- A predicate read into a scalar (R269, R271): a guessed lane of the predicate or of the guard, among the lanes of the path, raises subcode 5 in both modes. -/
def predToScalar (i : Instr) (t : Traits) (d : BitVec 6) (a : BitVec 3) (f : State → Mask → DWord) (s : State) : Host.Outcome State Fault Refusal :=
  simple i t [.sd 1 d.toNat]
    (fun s =>
      let g := ((s.preg a).guess ||| s.guardGuess) &&& s.mask
      if g != 0 then .trap (trapAt 0x18 5 g 0) s
      else .done (s.writeS d (f s ((s.preg a).bits &&& s.active)))) s

/-- PTEST (R271). -/
def testMask (k : PKind) (s : State) (m : Mask) : DWord :=
  match k with
  | .mask => m.setWidth 64
  | .any => if m = 0 then 0 else 1
  | .all => if m = s.active then 1 else 0
  | .count => BitVec.ofNat 64 (countLanes m)
def execPtest (S : Bool) (d : BitVec 6) (a : BitVec 3) (k : PKind) (s : State) : Host.Outcome State Fault Refusal :=
  predToScalar (.ptest S d a k) { cls := 1 } d a (testMask k) s
/-- VBALLOT and VFIRST (R269). -/
def execVballot (S : Bool) (d : BitVec 6) (a : BitVec 3) (s : State) : Host.Outcome State Fault Refusal :=
  predToScalar (.vballot S d a) { cls := 3, ets := etsCross } d a (fun _ m => m.setWidth 64) s
def execVfirst (S : Bool) (d : BitVec 6) (a : BitVec 3) (s : State) : Host.Outcome State Fault Refusal :=
  predToScalar (.vfirst S d a) { cls := 3, ets := etsCross } d a (fun _ m => BitVec.ofNat 64 (lowLane m)) s

end Sys2Proof.Machine
end

