-- ==== Sys2Proof/Machine/VFloat.lean ====
section
/-! DEFINITION. Vector float instructions and VCVT (spec/24_ref_vector.md R260 to R264, spec/07_numbers.md R85 to R91). -/

namespace Sys2Proof.Machine

open Sys2Proof

/-! ## Results -/

/-- A float result with what it counts; `fl` when an input was flushed (R90, R95). -/
def floatRes (fl : Bool) (r : FRes) : ElemRes := (r.bits, { r.counts with fls := b2n (r.flush || fl) })

/-- The result of an operation on inputs in the order of R91: the first NaN, quieted, otherwise `f`. -/
def nanFirst (f : Fmt) (l : List FV) (g : FRes) : FRes :=
  match firstNaN l with
  | some n => f.encode 0 false false false n
  | none => g

/-- Weight of a float issue: F64 is charged 4 times (R218). -/
def State.floatTraits (s : State) : Traits := { cls := 2, times := if mET s.mode = 12 then 4 else 1, ets := etsFloat }

/-- The float format of the path; the row's element types make it one (R36). -/
def State.fmt (s : State) : Fmt := (fmtOf (mET s.mode)).getD fF32

/-! ## Float binary family (R260) -/

/-- `VFOP vd, va, b`: `f` has the format, MODE, and the values of x, y and z, already read under FTZ. -/
def fbinary (i : Instr) (row : BRow) (readsZ : Bool) (d a : BitVec 8) (b : Opnd)
    (f : Fmt → Word → Nat → Nat → Nat → ElemRes) (s : State) : Host.Outcome State Fault Refusal :=
  vectorOp i s.floatTraits (s.opsVB d a b)
    (fun s =>
      let et := mET s.mode
      let g := s.guessOf ([s.guessV et a.toNat, s.guessB et b] ++ (if readsZ then [s.guessV et d.toNat] else []))
      s.writeElems et d.toNat g (fun l i =>
        f s.fmt s.mode (elem et (s.lane et a.toNat l) i) (elem et (s.srcB row et b l) i) (elem et (s.lane et d.toNat l) i))) s

/-- A binary result from the exact value of two inputs. -/
def fop2 (g : Nat → FV → FV → QV) (f : Fmt) (m : Word) (x y _ : Nat) : ElemRes :=
  let (a, fa) := f.read (mFTZ m) x
  let (b, fb) := f.read (mFTZ m) y
  floatRes (fa || fb) (nanFirst f [a, b] (f.encodeQ (mRND m) (mSAT m) (mFTZ m) (g (mRND m) a b)))

/-- x × y + z, rounded once; the addend comes first among NaNs (R88, R91). -/
def fmaElem (f : Fmt) (m : Word) (x y z : Nat) : ElemRes :=
  let (a, fa) := f.read (mFTZ m) x
  let (b, fb) := f.read (mFTZ m) y
  let (c, fc) := f.read (mFTZ m) z
  let p := fvMul a b
  let r := if p.isNaN then .canon else fvAdd (mRND m) p c
  floatRes (fa || fb || fc) (nanFirst f [c, a, b] (f.encode (mRND m) (mSAT m) (mFTZ m) false r))

/-- x × 2^n with a two's-complement count; an infinite or zero x is returned (R260). -/
def scaleElem (f : Fmt) (m : Word) (x y _ : Nat) : ElemRes :=
  let (a, fa) := f.read (mFTZ m) x
  let n := intVal true f.w y
  let v : FV := match a with
    | .num neg k e => .num neg k (e + max (-5000) (min 5000 n))
    | v => v
  floatRes fa (nanFirst f [a] (f.encode (mRND m) (mSAT m) (mFTZ m) false v))

def execVfadd (S : Bool) (d a : BitVec 8) (b : Opnd) (s : State) : Host.Outcome State Fault Refusal :=
  fbinary (.vfadd S d a b) .float false d a b (fop2 (fun r x y => .v (fvAdd r x y))) s
def execVfsub (S : Bool) (d a : BitVec 8) (b : Opnd) (s : State) : Host.Outcome State Fault Refusal :=
  fbinary (.vfsub S d a b) .float false d a b (fop2 (fun r x y => .v (fvAdd r x (fvNeg y)))) s
def execVfmul (S : Bool) (d a : BitVec 8) (b : Opnd) (s : State) : Host.Outcome State Fault Refusal :=
  fbinary (.vfmul S d a b) .float false d a b (fop2 (fun _ x y => .v (fvMul x y))) s
def execVfma (S : Bool) (d a : BitVec 8) (b : Opnd) (s : State) : Host.Outcome State Fault Refusal :=
  fbinary (.vfma S d a b) .float true d a b fmaElem s
def execVfmin (S : Bool) (d a : BitVec 8) (b : Opnd) (s : State) : Host.Outcome State Fault Refusal :=
  fbinary (.vfmin S d a b) .float false d a b (fop2 (fun _ x y => .v (fvMin x y))) s
def execVfmax (S : Bool) (d a : BitVec 8) (b : Opnd) (s : State) : Host.Outcome State Fault Refusal :=
  fbinary (.vfmax S d a b) .float false d a b (fop2 (fun _ x y => .v (fvMax x y))) s
def execVfdiv (S : Bool) (d a : BitVec 8) (b : Opnd) (s : State) : Host.Outcome State Fault Refusal :=
  fbinary (.vfdiv S d a b) .float false d a b (fop2 (fun _ x y => fvDiv x y)) s
def execVscale (S : Bool) (d a : BitVec 8) (b : Opnd) (s : State) : Host.Outcome State Fault Refusal :=
  fbinary (.vscale S d a b) .scale false d a b scaleElem s

/-- VFCMP (R261); an element with a flushed input counts in FLSC (R95). -/
def execVfcmp (S : Bool) (c : FCond) (p : BitVec 3) (a b : BitVec 8) (s : State) : Host.Outcome State Fault Refusal :=
  vcompare (.vfcmp S c p a b) s.floatTraits p a b
    (fun s _ x y =>
      let (u, fu) := s.fmt.read (mFTZ s.mode) x
      let (v, fv) := s.fmt.read (mFTZ s.mode) y
      (condF c u v, { Counts.zero with fls := b2n (fu || fv) })) s

/-! ## Float unary family (R262) -/

/-- The exact results of R262: the special inputs of its table, then the function. -/
def sqrtVal : FV → QV
  | .num neg 0 e => .v (.num neg 0 e)
  | .num true _ _ => .v .canon
  | .num false m e => sqrtQ m e
  | .inf true => .v .canon
  | .inf false => .v (.inf false)
  | v => .v v
def rcpVal (x : FV) : QV := fvDiv (.num false 1 0) x
/-- A power of four has an exact reciprocal root. -/
def rsqVal : FV → QV
  | .num neg 0 _ => .v (.inf neg)
  | .num true _ _ => .v .canon
  | .num false m e =>
    match pow2Of m e with
    | some k => if k % 2 = 0 then .v (.num false 1 (-(k / 2))) else rsqQ m e
    | none => rsqQ m e
  | .inf true => .v .canon
  | .inf false => .v (.num false 0 0)
  | v => .v v
/-- 2 to an integer is exact. -/
def exp2Val : FV → QV
  | .num _ 0 _ => .v (.num false 1 0)
  | .num neg m e =>
    if 0 ≤ e || m % 2 ^ (-e).toNat = 0 then
      let k : Nat := if 0 ≤ e then (if 20 < e then 2000 else m * 2 ^ e.toNat) else m / 2 ^ (-e).toNat
      .v (.num false 1 (if neg then -(min k 2000 : Nat) else (min k 2000 : Nat)))
    else exp2Q neg m e
  | .inf true => .v (.num false 0 0)
  | .inf false => .v (.inf false)
  | v => .v v
/-- The logarithm of a power of two is exact. -/
def log2Val : FV → QV
  | .num _ 0 _ => .v (.inf true)
  | .num true _ _ => .v .canon
  | .num false m e =>
    match pow2Of m e with
    | some k => .v (fvOfInt k)
    | none => log2Q m e
  | .inf true => .v .canon
  | .inf false => .v (.inf false)
  | v => .v v

/-- An element of a float unary instruction; `pick` numbers the three whose last place R262 leaves to a fixed function. -/
def funElem (pick : Option Nat) (g : FV → QV) (s : State) (et x : Nat) : ElemRes :=
  let f := s.fmt
  let m := s.mode
  let (a, fa) := f.read (mFTZ m) x
  let r := match pick with
    | some op => f.encodePick op (mRND m) et (mSAT m) (mFTZ m) x (g a)
    | none => f.encodeQ (mRND m) (mSAT m) (mFTZ m) (g a)
  floatRes fa (nanFirst f [a] r)

/-- The class bit of an element (R262). -/
def classBit (f : Fmt) (x : Nat) : Nat :=
  match f.decode x with
  | .inf true => 0
  | .inf false => 7
  | .num neg 0 _ => if neg then 3 else 4
  | .num neg _ _ => if f.subnormal x then (if neg then 2 else 5) else (if neg then 1 else 6)
  | _ => if bitsOf x (f.fb - 1) 1 = 1 then 9 else 8

def execVfsqrt (S : Bool) (d a : BitVec 8) (s : State) : Host.Outcome State Fault Refusal :=
  vunary (.vfsqrt S d a) s.floatTraits d a (funElem none sqrtVal) s
def execVfrcp (S : Bool) (d a : BitVec 8) (s : State) : Host.Outcome State Fault Refusal :=
  vunary (.vfrcp S d a) s.floatTraits d a (funElem none rcpVal) s
def execVfrsq (S : Bool) (d a : BitVec 8) (s : State) : Host.Outcome State Fault Refusal :=
  vunary (.vfrsq S d a) s.floatTraits d a (funElem (some 0) rsqVal) s
def execVfexp2 (S : Bool) (d a : BitVec 8) (s : State) : Host.Outcome State Fault Refusal :=
  vunary (.vfexp2 S d a) s.floatTraits d a (funElem (some 1) exp2Val) s
def execVflog2 (S : Bool) (d a : BitVec 8) (s : State) : Host.Outcome State Fault Refusal :=
  vunary (.vflog2 S d a) s.floatTraits d a (funElem (some 2) log2Val) s
def execVfclass (S : Bool) (d a : BitVec 8) (s : State) : Host.Outcome State Fault Refusal :=
  vunary (.vfclass S d a) s.floatTraits d a (fun s _ x => plain (2 ^ classBit s.fmt x)) s

/-! ## VCVT (R263, R264) -/

/-- Registers that `n` elements of a type take. -/
def groupRegs (et n : Nat) : Nat := if et = 12 then 2 * n else n * etW et / 32
/-- Elements of a VCVT. -/
def cvtCount (src dst : Nat) : Nat := max (max (32 / etW src) (32 / etW dst)) 1

/-- Element `j` of a lane of a group (R263). -/
def State.cvtRead (s : State) (et base l j : Nat) : Nat :=
  if et = 12 then ((s.vreg (base + 2 * j)).lanes.get l).toNat + 2 ^ 32 * ((s.vreg (base + 2 * j + 1)).lanes.get l).toNat
  else
    let e := 32 / etW et
    elem et ((s.vreg (base + j / e)).lanes.get l).toNat (j % e)

/-- An O4 element with its partner in the same register lane (R86). -/
def State.cvtO4 (s : State) (base l j : Nat) : FV := o4Elem ((s.vreg (base + j / 8)).lanes.get l).toNat (j % 8)

/-- A value as an O4 code: rounded and clamped to ±7 (R264, R86). -/
def toO4 (rnd : Nat) (v : FV) : ElemRes := let r := fvToInt rnd (-7) 7 v; (wrapInt 4 r.1, ⟨b2n r.2, 0, 0⟩)

/-- A float value to a type (R264). -/
def cvtValue (m : Word) (dst : Nat) (fl : Bool) (v : FV) : ElemRes :=
  if dst = 11 then let r := toO4 (mRND m) v; (r.1, { r.2 with fls := b2n fl })
  else
    match fmtOf dst with
    | some f => floatRes fl (f.encode (mRND m) (mSAT m) (mFTZ m) true v)
    | none =>
      let r := fvToInt (mRND m) (etLo dst) (etHi dst) v
      (wrapInt (etW dst) r.1, ⟨b2n r.2, b2n fl, 0⟩)

/-- One element of VCVT by its pair of types (R264); `o4` is the value of an O4 source. -/
def cvtElem (m : Word) (src dst x : Nat) (o4 : FV) : ElemRes :=
  if src = dst then plain x
  else if src = 11 then cvtValue m dst false o4
  else
    match fmtOf src with
    | some f => let r := f.read (mFTZ m) x; cvtValue m dst r.2 r.1
    | none => if etInt dst then clampRes (intRes dst (mSAT m) (ival src x)) else cvtValue m dst false (fvOfInt (ival src x))

/-- The type is a float type (R218). -/
def etFloat (et : Nat) : Bool := (fmtOf et).isSome

/-- Register `k` of a destination group from the elements of a lane. -/
def packReg (et k : Nat) (f : Nat → Nat) : Nat :=
  if et = 12 then f (k / 2) / 2 ^ (32 * (k % 2)) % 2 ^ 32
  else joinElems (etW et) ((List.range (32 / etW et)).map (fun i => f (k * (32 / etW et) + i)))

/-- VCVT (R263, R264): a conversion to the same type copies bits and counts nothing. -/
def execVcvt (S : Bool) (d a : BitVec 8) (e : ETy) (s : State) : Host.Outcome State Fault Refusal :=
  let src := mET s.mode
  let dst := e.code.toNat
  let n := cvtCount src dst
  vectorOp (.vcvt S d a e) { cls := if etFloat src || etFloat dst then 2 else 1, times := if src = 12 then 4 else 1 }
    [.v 1 d.toNat (groupRegs dst n), .v 2 a.toNat (groupRegs src n)]
    (fun s =>
      let res (l j : Nat) : ElemRes := cvtElem s.mode src dst (s.cvtRead src a.toNat l j) (s.cvtO4 a.toNat l j)
      let g := s.guessOf [s.groupGuess a.toNat (groupRegs src n)]
      let s' := if src = dst then s else s.count (fun l => (List.range n).foldl (fun c j => c.add (elemCounts dst (res l j))) .zero)
      (List.range (groupRegs dst n)).foldl (fun t k =>
        t.writeV (d.toNat + k) s.active (fun l => BitVec.ofNat 32 (packReg dst k (fun j => (res l j).1))) g) s') s

end Sys2Proof.Machine
end

