-- ==== Sys2Proof/Machine/Cross.lean ====
section
/-! DEFINITION. Cross-lane instructions: permutes, tables, reductions and scans (spec/24_ref_vector.md R265 to R268, spec/07_numbers.md R92, R93). -/

namespace Sys2Proof.Machine

open Sys2Proof

/-! ## Moves of whole lanes (R266) -/

/-- A move of lanes: lane `l` takes lane `src l` of `va`, with its guess bit and those of `g`. -/
def laneMove (i : Instr) (ops : State → List Opd) (d a : BitVec 8) (src : State → Nat → Nat) (g : State → Mask) (s : State) :
    Host.Outcome State Fault Refusal :=
  vectorOp i { cls := 3 } (ops s)
    (fun s =>
      let et := mET s.mode
      let ga := s.guessV et a.toNat
      s.writeWhole et d.toNat (fun l => s.lane et a.toNat (src s l))
        (maskOf (fun l => ga.getLsbD (src s l)) ||| g s ||| s.guardGuess)) s

/-- VPERM (R266): the source lane is in bits 2:0 of `vb`, of the low register under F64. -/
def execVperm (S : Bool) (d a b : BitVec 8) (s : State) : Host.Outcome State Fault Refusal :=
  laneMove (.vperm S d a b) (fun s => [s.opV 1 d, s.opV 2 a, s.opV 3 b]) d a
    (fun s l => ((s.vreg b.toNat).lanes.get l).toNat % 8) (fun s => s.guessV (mET s.mode) b.toNat) s

/-- The source lane of a VSHUF pattern (R266). -/
def shufLane (p : Shuf) (l : Nat) : Nat :=
  match p with
  | .x1 => l ^^^ 1
  | .x2 => l ^^^ 2
  | .x4 => l ^^^ 4
  | .rev => 7 - l

/-- VSHUF (R266). -/
def execVshuf (S : Bool) (d a : BitVec 8) (p : Shuf) (s : State) : Host.Outcome State Fault Refusal :=
  laneMove (.vshuf S d a p) (fun s => s.opsV2 d a) d a (fun _ l => shufLane p l) (fun _ => 0) s

/-- VROT (R266). -/
def execVrot (S : Bool) (d a : BitVec 8) (n : BitVec 3) (s : State) : Host.Outcome State Fault Refusal :=
  laneMove (.vrot S d a n) (fun s => s.opsV2 d a) d a (fun _ l => (l + 8 - n.toNat) % 8) (fun _ => 0) s

/-! ## Tables (R267) -/

/-- Table element `k` of `va`, 0 beyond the table. -/
def State.tableElem (s : State) (et a k : Nat) : Nat :=
  if k < 8 * etN et then elem et (s.lane et a (k / etN et)) (k % etN et) else 0
/-- The guess bit of a VTBL lane: its own lane of `vb` and the lanes of `va` that its elements read. -/
def State.tableGuess (s : State) (et a b : Nat) : Mask :=
  maskOf (fun l => (s.guessV et b).getLsbD l || (List.range (etN et)).any (fun i =>
    let k := elem et (s.lane et b l) i
    decide (k < 8 * etN et) && (s.guessV et a).getLsbD (k / etN et)))

/-- VTBL (R267). -/
def execVtbl (S : Bool) (d a b : BitVec 8) (s : State) : Host.Outcome State Fault Refusal :=
  vectorOp (.vtbl S d a b) { cls := 3, ets := etsCross } [s.opV 1 d, s.opV 2 a, s.opV 3 b]
    (fun s =>
      let et := mET s.mode
      s.writeWhole et d.toNat (fun l => mkLane et (fun i => s.tableElem et a.toNat (elem et (s.lane et b.toNat l) i)))
        (s.tableGuess et a.toNat b.toNat ||| s.guardGuess)) s

/-! ## Reductions and scans (R268) -/

/-- The identity of an operation (R92). -/
def redIdentity (et : Nat) (o : RedOp) : Nat :=
  match o with
  | .add => 0
  | .min => (match fmtOf et with | some f => f.top | none => wrapInt (etW et) (etHi et))
  | .max => (match fmtOf et with | some f => f.sgn true + f.top | none => wrapInt (etW et) (etLo et))
  | .and => 2 ^ etW et - 1
  | .or => 0
  | .xor => 0

/-- What a partial counts when two partials form it: a clamp or a flush on the way, and whether it is a NaN itself (R95). -/
def mergeCounts (a b r : Counts) : Counts := ⟨max (max a.sat b.sat) r.sat, max (max a.fls b.fls) r.fls, r.nan⟩

/-- Two partials combined (R92, R93). The left partial's lanes all lie below the right one's, so the NaN of lowest index is the left one's. -/
def redStep (et : Nat) (m : Word) (o : RedOp) (a b : ElemRes) : ElemRes :=
  let r : ElemRes :=
    match o with
    | .and => plain (a.1 &&& b.1)
    | .or => plain (a.1 ||| b.1)
    | .xor => plain (a.1 ^^^ b.1)
    | .add => (match fmtOf et with
      | some f => fop2 (fun r x y => .v (fvAdd r x y)) f m a.1 b.1 0
      | none => addElem et (mSAT m) a.1 b.1 0)
    | .min => (match fmtOf et with
      | some f => fop2 (fun _ x y => .v (fvMin x y)) f m a.1 b.1 0
      | none => minElem et (mSAT m) a.1 b.1 0)
    | .max => (match fmtOf et with
      | some f => fop2 (fun _ x y => .v (fvMax x y)) f m a.1 b.1 0
      | none => maxElem et (mSAT m) a.1 b.1 0)
  (r.1, mergeCounts a.2 b.2 r.2)

/-- An element as an operation reads it: a float one is flushed under FTZ and quieted when it is a NaN, but for the bitwise operations (R85, R90, R268). -/
def redRead (et : Nat) (m : Word) (o : RedOp) (x : Nat) : ElemRes :=
  match o with
  | .and => plain x
  | .or => plain x
  | .xor => plain x
  | _ =>
    match fmtOf et with
    | some f => let (v, fl) := f.read (mFTZ m) x; floatRes fl (f.encode (mRND m) false (mFTZ m) false v)
    | none => plain x

/-- The eight entries of a tree: an active lane's element, or the identity (R268). -/
def State.redInput (s : State) (et a : Nat) (o : RedOp) (i l : Nat) : ElemRes :=
  if s.active.getLsbD l then redRead et s.mode o (elem et (s.lane et a l) i) else plain (redIdentity et o)

/-- The tree of VRED (R92). -/
def redTree (f : ElemRes → ElemRes → ElemRes) (x : Nat → ElemRes) : ElemRes :=
  f (f (f (x 0) (x 1)) (f (x 2) (x 3))) (f (f (x 4) (x 5)) (f (x 6) (x 7)))

/-- One step of VSCAN at a distance, and the three of them (R92). -/
def scanStep (f : ElemRes → ElemRes → ElemRes) (d : Nat) (x : Nat → ElemRes) (l : Nat) : ElemRes :=
  if l < d then x l else f (x (l - d)) (x l)
def scanTree (f : ElemRes → ElemRes → ElemRes) (x : Nat → ElemRes) : Nat → ElemRes :=
  scanStep f 4 (scanStep f 2 (scanStep f 1 x))

/-- Lanes whose guess bits a scan's lane `l` collects: the active guessed lanes below `n` (R268). -/
def State.guessBelow (s : State) (et a n : Nat) : Bool :=
  lanes8.any (fun j => decide (j < n) && s.active.getLsbD j && (s.guessV et a).getLsbD j)

/-- A reduction or a scan: `f` gives lane `l` of element `i` from the entries, and `n` the number of contributing lanes. -/
def redOp (i : Instr) (d a : BitVec 8) (o : RedOp) (f : Nat → (ElemRes → ElemRes → ElemRes) → (Nat → ElemRes) → Nat → ElemRes) (n : Nat → Nat)
    (s : State) : Host.Outcome State Fault Refusal :=
  vectorOp i { cls := 3, ets := etsCross } (s.opsV2 d a)
    (fun s =>
      let et := mET s.mode
      s.writeElems et d.toNat (maskOf (fun l => s.guessBelow et a.toNat (n l)) ||| s.guardGuess)
        (fun l i => f et (redStep et s.mode o) (s.redInput et a.toNat o i) l)) s

/-- VRED (R268). -/
def execVred (S : Bool) (d a : BitVec 8) (o : RedOp) (s : State) : Host.Outcome State Fault Refusal :=
  redOp (.vred S d a o) d a o (fun _ f x _ => redTree f x) (fun _ => 8) s
/-- VSCAN (R268). -/
def execVscan (S : Bool) (d a : BitVec 8) (o : RedOp) (s : State) : Host.Outcome State Fault Refusal :=
  redOp (.vscan S d a o) d a o (fun _ f x l => scanTree f x l) (fun l => l + 1) s
/-- VSCAN.x (R268): lane 0 takes the identity, lane `l` the inclusive result of the lane below. -/
def execVscanX (S : Bool) (d a : BitVec 8) (o : RedOp) (s : State) : Host.Outcome State Fault Refusal :=
  redOp (.vscanX S d a o) d a o (fun et f x l => if l = 0 then plain (redIdentity et o) else scanTree f x (l - 1)) (fun l => l) s

end Sys2Proof.Machine
end

