-- ==== Sys2Proof/Machine/Expert.lean ====
section
/-! DEFINITION. Expert token queues: EQPUSH, EQCFG, the firing of a queue and the end of its countdown (spec/13_engines.md R169, R170, spec/28_ref_tile_engine.md R311, spec/21_power_health.md R216). -/

namespace Sys2Proof.Machine

open Sys2Proof

/-- A queue of another context: protection fault, subcode 2, XADDR = e (R311). -/
def State.eqFault (s : State) (e : Nat) : Option Trap :=
  match (s.eq e).ctx with
  | some c => if c = s.fl.ctx then none else some ⟨0x06, 2, 0, none, BitVec.ofNat 64 e, false⟩
  | none => none

/-- A token is appended; the first one after a firing starts the countdown (R170). -/
def EQueue.push (q : EQueue) (t : DWord × DWord) : EQueue := { q with tokens := q.tokens ++ [t], counting := true }

/-- EQPUSH (R311). -/
def execEqpush (S : Bool) (e a : BitVec 6) (s : State) : Host.Outcome State Fault Refusal :=
  simple (.eqpush S e a) { held := true, breaks := true } [.sp 2 a.toNat, .sr 2 (a.toNat + 1)]
    (fun s =>
      if (s.eq e.toNat).ctx.isNone then .done s
      else
        match s.eqFault e.toNat with
        | some t => .trap t s
        | none =>
          if !s.waitOver s.focus.wave (.tokenRoom e.toNat) then .hold 1 (.tokenRoom e.toNat) 0 s
          else .done (s.updEq e.toNat (fun q => q.push (s.sreg a, s.fw.s (a.toNat + 1))))) s

/-- A bad record of EQCFG (R169, R311). -/
def eqRecordBad (d : List Byte) : Bool :=
  let th := fieldAt d 0x10 2
  let nb := fieldAt d 0x12 2
  fieldAt d 0x18 40 != 0 || th == 0 || decide (256 < th) || nb == 0 || decide (16 < nb)
    || fieldAt d 8 8 % 4096 != 0 || fieldAt d 0 8 % 128 != 0
/-- The queue that a record binds: its tokens stay (R169), and so does its firing number, which counts from 0 and which neither a binding nor an unbinding restarts (R170; DESIGN CHOICE, log entry 127). -/
def EQueue.bind (q : EQueue) (c : Nat) (d : List Byte) : EQueue :=
  { q with
    ctx := some c, lrec := BitVec.ofNat 64 (fieldAt d 0 8), bufVa := BitVec.ofNat 64 (fieldAt d 8 8), thresh := fieldAt d 0x10 2
    nbuf := fieldAt d 0x12 2, cdown := fieldAt d 0x14 4 }
/-- The queue unbound: its tokens are discarded (R169). -/
def EQueue.unbind (q : EQueue) : EQueue := { q with ctx := none, tokens := [], counting := false, expired := false }

/-- EQCFG (R311). -/
def execEqcfg (S : Bool) (e a : BitVec 6) (s : State) : Host.Outcome State Fault Refusal :=
  let i : Instr := .eqcfg S e a
  ok (run i { held := true } [.sr 2 a.toNat]
    (fun ph s =>
      if ph = 0 && s.sreg a = 0 then
        (match s.eqFault e.toNat with
         | some t => .trap t s
         | none => .done (s.updEq e.toNat EQueue.unbind))
      else if ph = 0 then s.readRecord i (s.sreg a) 64 1
      else
        match s.recordRead with
        | .error t => .trap t (s.withdraw s.fs.ref)
        | .ok d =>
          let s' := s.retire s.fs.ref
          match s.eqFault e.toNat with
          | some t => .trap t s'
          | none =>
            if eqRecordBad d then .trap ⟨0x08, 8, 0, none, s.sreg a, false⟩ s'
            else .done (s'.updEq e.toNat (fun q => q.bind s.fl.ctx d))) s)

/-! ## Firings (R170) -/

/-- The queue is to fire: THRESH tokens, or a countdown that has run out. -/
def EQueue.due (q : EQueue) : Bool := !q.tokens.isEmpty && (decide (q.thresh ≤ q.tokens.length) || q.expired)
/-- The buffer of the next firing. -/
def EQueue.buffer (q : EQueue) : Nat := q.firing % q.nbuf
/-- The bytes of tokens. -/
def tokenBytes (ts : List (DWord × DWord)) : List Byte := ts.flatMap (fun t => leBytes t.1.toNat 8 ++ leBytes t.2.toNat 8)

/-- EQ_FIRING (R170): up to 256 of the oldest tokens go to the buffer, and the bound record joins the LAUNCH queue of the binding context. It waits while the buffer's last launch runs, while that queue is full, under DIEPARK.HOLD or a checkpoint (R216, R222), and while the buffer cannot be written. -/
def execEqFiring (q : Nat) (s : State) : Host.Outcome State Fault Refusal :=
  let e := s.eq q
  match e.ctx with
  | none => ok s
  | some c =>
    if !e.due || e.busy.any (fun x => x.2 == e.buffer) || decide (256 ≤ (s.mgmt.lauq.get [] c).length) || !s.queuesRun then ok s
    else
      let ts := e.tokens.take 256
      match s.sysWrite none c (e.bufVa + BitVec.ofNat 64 (4096 * e.buffer)) (tokenBytes ts) with
      | none => ok s
      | some s =>
        let r : LaunchRec := ⟨e.lrec, .firing q, some (BitVec.ofNat 32 ts.length, BitVec.ofNat 32 e.buffer), some (q, e.buffer), none⟩
        let s := s.updMgmt (fun m => { m with lauq := m.lauq.upd [] c (· ++ [r]) })
        ok (s.updEq q (fun e => { e with
          tokens := e.tokens.drop 256, firing := e.firing + 1, counting := false, expired := false, busy := (e.firing, e.buffer) :: e.busy }))

/-- EQ_COUNTDOWN_EXPIRY (R170): CDOWN hub cycles have passed since the first token after the last firing. -/
def execEqCountdownExpiry (q : Nat) (s : State) : Host.Outcome State Fault Refusal :=
  let e := s.eq q
  if e.ctx.isSome && e.cdown != 0 && e.counting then ok (s.updEq q (fun e => { e with expired := true })) else ok s

end Sys2Proof.Machine
end

