-- ==== Sys2Proof/Machine/Guess.lean ====
section
/-! DEFINITION. The guess instructions GTEST, GDEMAND, GACCEPT, GCHECK and GSETTLE (spec/11_guesses_drafts.md R138 to R140, spec/24_ref_vector.md R272 to R274). -/

namespace Sys2Proof.Machine

open Sys2Proof

/-- What the five instructions say of their issue: class 3; those that consume a truth hold their slot (R272). -/
def guessTraits (held : Bool) : Traits := { cls := 3, held := held }

/-- GTEST (R139): the guess bits of a register, or of a pair under F64 (R252), as a predicate. -/
def execGtest (S : Bool) (d : BitVec 3) (a : BitVec 8) (s : State) : Host.Outcome State Fault Refusal :=
  vectorOp (.gtest S d a) (guessTraits false) [s.opV 2 a] (fun s => s.writeP d s.active (s.guessV (mET s.mode) a.toNat) 0) s

/-- The registers of an operand under the path's element type (R252). -/
def State.regsOf (s : State) (r : Nat) : List Nat := (List.range (etRegs (mET s.mode))).map (fun k => r + k)
/-- The live tags whose destination groups include a register of an operand (R272). -/
def State.tagsOn (s : State) (r : Nat) : List GTag := s.fw.tags.filter (fun t => (s.regsOf r).any t.covers)

/-- Frees a tag of the issuing wave; the access that it kept goes (R133). -/
def State.freeTag (s : State) (t : GTag) : State :=
  let s := s.updWave s.focus.wave (fun v => { v with tags := v.tags.filter (fun u => u.acc != t.acc) })
  if (s.acc t.acc).window then s else s.retire t.acc

/-- Clears the guess bits of a register in the active lanes and leaves its values, and results due in it, alone (R139, R252). -/
def State.clearGuess (s : State) (r : Nat) : State :=
  if s.active = 0 then s
  else s.updWave s.focus.wave (fun v =>
    { v with vregs := v.vregs.set r { v.v r with guess := (v.v r).guess &&& ~~~s.active }, region := keepRegionV r v.region })
/-- Clears the guess bits of those registers of an operand that no tag of the list covers. -/
def State.clearUntagged (s : State) (r : Nat) (tags : List GTag) : State :=
  ((s.regsOf r).filter (fun k => !tags.any (fun t => t.covers k))).foldl State.clearGuess s

/-- Frees a tag and writes each register of its group in the guessed lanes, with guess bits clear. -/
def State.endTag (s : State) (t : GTag) (val : Nat → Nat → Word) : State :=
  let s := s.freeTag t
  (List.range t.regs).foldl (fun s i => s.writeV (t.base + i) t.mask (val i) 0) s

/-- The truth of a lane of a tag's group. -/
def GTag.truthAt (t : GTag) (i l : Nat) : Word := ((t.truth.getD []).getD i (L8.rep 0)).get l

/-- Consumes the truths of the tags on an operand, then goes on with the tags as the homes have left them; with no tag, goes on without. A tag that a write of the other slot has dropped in the meantime is gone (R274). -/
def State.withTruth (s : State) (r : Nat) (k : List GTag → State → Res) : Res :=
  match s.tagsOn r with
  | [] => k [] (s.compares.foldl (fun s c => s.retire c.1) s)
  | t :: ts =>
    match s.consume (t :: ts) with
    | .wait w s => .hold 1 w s.fs.ref s
    | .trap tr s => .trap tr s
    | .done s => k (s.tagsOn r) s

/-- The guess bits of lanes of the path's guard trap first (R252); then the body, which may wait. -/
def guessOp (i : Instr) (ops : List Opd) (body : State → Res) (s : State) : Host.Outcome State Fault Refusal :=
  ok (run i (guessTraits true) ops (fun _ s => match s.guardTrap with | some tr => .trap tr s | none => body s) s)

/-- GDEMAND (R139): the truth replaces the guess in the guessed lanes, and MM notes a difference. -/
def execGdemand (S : Bool) (d : BitVec 8) (s : State) : Host.Outcome State Fault Refusal :=
  guessOp (.gdemand S d) [s.opV 1 d]
    (fun s => s.withTruth d.toNat (fun ts s =>
      .done (ts.foldl (fun s t => (s.endTag t t.truthAt).updWave s.focus.wave (fun v => { v with mm := v.mm || !t.right }))
        (s.clearUntagged d.toNat ts)))) s

/-- GACCEPT (R139): the guess stands; a kept fault goes with the tag (R130). -/
def execGaccept (S : Bool) (d : BitVec 8) (s : State) : Host.Outcome State Fault Refusal :=
  guessOp (.gaccept S d) [s.opV 1 d]
    (fun s =>
      let ts := s.tagsOn d.toNat
      .done (ts.foldl (fun s t => s.endTag t (fun i l => (s.vreg (t.base + i)).lanes.get l)) (s.clearUntagged d.toNat ts))) s

/-- Lanes of a register in which the guess of a tag equals its truth, or that the tag does not guess (R139). -/
def GTag.rightLanes (t : GTag) (r : Nat) : Mask :=
  if t.covers r then
    maskOf (fun l => !t.mask.getLsbD l || t.truthAt (r - t.base) l == (t.guess.getD (r - t.base) (L8.rep 0)).get l)
  else 0xFF
/-- Lanes in which the guesses of every register of an operand equal their truths. -/
def State.rightLanesOf (s : State) (r : Nat) (ts : List GTag) : Mask :=
  ts.foldl (fun m t => (s.regsOf r).foldl (fun m k => m &&& t.rightLanes k) m) 0xFF

/-- GCHECK (R139): the register and the tag stay. -/
def execGcheck (S : Bool) (p : BitVec 3) (d : BitVec 8) (s : State) : Host.Outcome State Fault Refusal :=
  guessOp (.gcheck S p d) [s.opV 2 d]
    (fun s => s.withTruth d.toNat (fun ts s => .done (s.writeP p s.active (s.rightLanesOf d.toNat ts) 0))) s

/-- GSETTLE (R140): the exposed count and the outcome of the settle; a failed settle is no trap (R273). -/
def execGsettle (S : Bool) (d : BitVec 6) (p : BitVec 3) (s : State) : Host.Outcome State Fault Refusal :=
  guessOp (.gsettle S d p) [.sd 1 d.toNat]
    (fun s =>
      match s.settleEpoch with
      | .wait w s => .hold 1 w s.fs.ref s
      | .trap tr s => .trap tr s
      | .done good e s => .done ((s.writeS d (BitVec.ofNat 64 e)).writeP p 0xFF (allIf good) 0)) s

end Sys2Proof.Machine
end

