-- ==== Sys2Proof/Machine/Matrix.lean ====
section
/-! DEFINITION. The matrix array and the sketch stage: VFEED, MMA, MMAS, SKCFG, SKMAP, ACCLD, ACCZ, QSET and QCLR, the begin of a follow-on command and the k-group steps of the sequencer (spec/13_engines.md R160 to R168, spec/07_numbers.md R93 to R95, spec/28_ref_tile_engine.md R304 to R308). -/

namespace Sys2Proof.Machine

open Sys2Proof

/-! ## VFEED (R304) -/

/-- Words per stream row, the word position of a lane, and its stream row. -/
def Stream.wpr (t : Stream) : Nat := t.data.d0 * shapeW t.data.et / 32
def Stream.word (t : Stream) (l : Nat) : Nat := t.pos * shapeW t.data.et / 32 + l
def Stream.row (t : Stream) (l : Nat) : Nat := t.word l / t.wpr
/-- The elements that one VFEED moves the stream on by. -/
def Stream.step (t : Stream) : Nat := 256 / shapeW t.data.et
/-- Lanes of a set whose row lies within the index list. -/
def Stream.within (t : Stream) (lanes : Mask) : Mask := maskOf (fun l => lanes.getLsbD l && decide (t.row l < t.index.d0))
/-- The address of a lane's index word. -/
def Stream.indexVa (t : Stream) (l : Nat) : DWord := BitVec.ofNat 64 (t.index.base.toNat + 4 * t.row l)
/-- The index that an access has read for a lane. -/
def Acc.index (x : Acc) (l : Nat) : Nat := leNat (x.laneBytes l)
/-- The address of a lane's data word. -/
def Stream.dataVa (t : Stream) (x : Acc) (l : Nat) : DWord :=
  BitVec.ofNat 64 (t.data.rowAddr (x.index l) + 4 * (t.word l % t.wpr))
/-- The access has read the index words of the lanes at the stream's position. -/
def Stream.readBy (t : Stream) (x : Acc) (lanes : Mask) : Bool :=
  lanes8.all (fun l => lanes.getLsbD l == (x.pieces.any (fun p => p.lane == l && p.va == t.indexVa l)))

/-- Issues the reads of the index words; the slot waits for them. -/
def State.feedIndex (s : State) (i : Instr) (t : Stream) (lanes : Mask) : Res :=
  s.checked none (s.checkLanes lanes t.indexVa 4 .read 3 anywhere 0 none) 0 (fun ps =>
    .hold 1 (.accesses 1 [s.seq]) s.seq (s.issueAcc { s.newAcc i .tab (piecesOf ps t.indexVa 4 noData) with lanes := lanes }))

/-- Issues the reads of the data words; lanes that read none are written with 0, and the stream moves on. -/
def State.feedData (s : State) (i : Instr) (d x : Nat) (t : Stream) (lanes : Mask) (idx : Acc) : Res :=
  s.checked none (s.checkLanes lanes (t.dataVa idx) 4 .read 1 anywhere 0 none) 0 (fun ps =>
    let s := s.writeV d (s.active &&& ~~~lanes) (fun _ => 0) 0
    let s := s.updBlock s.fw.block (fun b => { b with streams := b.streams.set x (some { t with pos := t.pos + t.step }) })
    if lanes = 0 then .done (s.emptyFlight .ld)
    else .done (s.issueAcc { s.newAcc i (.vfeed x t.step t.bind) (piecesOf ps (t.dataVa idx) 4 noData) with
      dst := d, regs := 1, lanes := lanes, level := idx.level }))

/-- VFEED once its index words are there; when the stream has moved since, they are read again, and when the LD counter has reached its limit since, the slot waits (R72). -/
def State.feedLanes (s : State) (i : Instr) (d x : Nat) (t : Stream) : Res :=
  let lanes := t.within s.touched
  let idx := s.acc s.fs.ref
  if !t.readBy idx lanes then (s.withdraw s.fs.ref).feedIndex i t lanes
  else
    match failTrap idx.pieces none none with
    | some tr => .trap tr (s.withdraw s.fs.ref)
    | none =>
      let bad := maskOf (fun l => lanes.getLsbD l && decide (t.data.d1 ≤ idx.index l))
      if bad != 0 then .trap (trapAt 0x08 6 bad (t.handle.setWidth 64)) (s.retire s.fs.ref)
      else if decide (4095 ≤ s.fb.counter .ld) then .hold 2 (.counter .ld 4094) s.fs.ref s
      else (s.retire s.fs.ref).feedData i d x t lanes idx

/-- A VFEED in a phase has its index read on the way, or here. -/
def hasIndex (ph : Nat) : Bool := ph == 1 || ph == 2
/-- VFEED (R304). Its traps come in the order of its entry; while a VFEED of another PC slot on the stream may still fail, it waits (log entry 123). -/
def execVfeed (S : Bool) (d : BitVec 8) (x : BitVec 3) (s : State) : Host.Outcome State Fault Refusal :=
  let i : Instr := .vfeed S d x
  let none' (s : State) : Bool := match s.fb.streams.get none x.toNat with | some t => t.within s.touched == 0 | none => false
  ok (run i { held := true, breaks := true, path := some .ld, cls := 4 + Config.unservedLevel % 6, times := if none' s then 1 else 0 }
    [.v 1 d.toNat 1]
    (fun ph s =>
      match s.fb.streams.get none x.toNat with
      | none => .trap ⟨0x08, 2, 0, none, 0, false⟩ (if hasIndex ph then s.withdraw s.fs.ref else s)
      | some t =>
        if (s.guardGuess &&& s.mask) != 0 then .trap (trapAt 0x18 1 (s.guardGuess &&& s.mask) 0) s
        else if !(s.streamUsers x.toNat).isEmpty then .hold (if hasIndex ph then 2 else 3) (.accesses 1 (s.streamUsers x.toNat)) s.fs.ref s
        else if hasIndex ph then s.feedLanes i d.toNat x.toNat t
        else if t.within s.touched = 0 then s.feedData i d.toNat x.toNat t 0 .zero
        else s.feedIndex i t (t.within s.touched)) s)

/-! ## MMA and MMAS (R305) -/

/-- The map bytes of an item. -/
def Tile.mapByte (t : Tile) (i : Nat) : Nat := (t.bytes.getD i 0).toNat
/-- A map is malformed when a reserved bit is set, a byte names a row whose [5] is clear, or a byte with [5] set names another row (R168). -/
def Tile.malformed (t : Tile) : Bool :=
  (List.range 32).any (fun i =>
    let b := t.mapByte i
    bitsOf b 6 2 != 0 || bitsOf (t.mapByte (b % 32)) 5 1 == 0 || (bitsOf b 5 1 == 1 && b % 32 != i))

/-- The items at the positions of a command. -/
def Block.item (b : Block) (f pos : Nat) : Option Tile := (b.feeds.get Feed.zero f).itemAt pos
/-- The check of a command's items: the subcode of the handle fault (R305). -/
def checkItems (m : Option (Option Tile)) (ta tb : Tile) : Option (BitVec 8) :=
  let mapBad := match m with | some (some t) => !t.isMap | some none => true | none => false
  if ta.isMap || tb.isMap || mapBad then some 5
  else if ta.et != tb.et || ta.k != tb.k then some 5
  else
    match m with
    | some (some t) => if t.malformed then some 7 else none
    | some none => none
    | none => none
/-- The map item of a command, when it has a map position. -/
def Block.mapItem (b : Block) (c : SeqCmd) : Option (Option Tile) := c.pm.map (fun p => b.item c.i p)
/-- The first position of a command whose item is not yet at the head of its feed. -/
def Block.missing (b : Block) (c : SeqCmd) : Option (Nat × Nat) :=
  let ps := (match c.pm with | some p => [(c.i, p)] | none => []) ++ [(c.i, c.pa), (c.j, c.pb)]
  ps.find? (fun x => (b.item x.1 x.2).isNone)

/-- The body of MMA and MMAS: the items, their checks, the tile predicate, room in the queue, in that order. One that holds its PC slot reads the tile predicate and the sketch state again whenever it resumes, so that it takes them as it retires (R160; DESIGN CHOICE, log entry 126). -/
def State.matrixOp (s : State) (sk : Bool) (aD i j q : Nat) : Res :=
  let c := s.command sk aD i j (s.fb.pred q) none
  match s.fb.missing c with
  | some (f, pos) => .hold 1 (.feed f pos) 0 s
  | none =>
    match s.fb.item c.i c.pa, s.fb.item c.j c.pb with
    | some ta, some tb =>
      match checkItems (s.fb.mapItem c) ta tb with
      | some sub => .trap ⟨0x08, sub, 0, none, 0, false⟩ s
      | none =>
        if !s.waitOver s.focus.wave (.tilePred q) then .hold 1 (.tilePred q) 0 s
        else if !s.waitOver s.focus.wave .seqRoom then .hold 1 .seqRoom 0 s
        else .done (s.queueCmd c)
    | _, _ => .done s

def execMma (S : Bool) (d : BitVec 4) (i j : BitVec 2) (q : BitVec 4) (s : State) : Host.Outcome State Fault Refusal :=
  simple (.mma S d i j q) { held := true, breaks := true } [.a 1 d.toNat, .feed 2]
    (fun s => s.matrixOp false d.toNat i.toNat j.toNat q.toNat) s
def execMmas (S : Bool) (d : BitVec 4) (i j : BitVec 2) (q : BitVec 4) (s : State) : Host.Outcome State Fault Refusal :=
  simple (.mmas S d i j q) { held := true, breaks := true } [.a 1 d.toNat, .feed 2]
    (fun s => s.matrixOp true d.toNat i.toNat j.toNat q.toNat) s

/-! ## The sketch state (R165, R306) -/

/-- The sketch state that sa and sb give. -/
def sketchOf (a b : DWord) : Sketch :=
  let x := a.toNat
  let seed : Word := b.setWidth 32
  { h := min (bitsOf x 0 5) 16, cap := bitsOf x 8 5 + 1, rep := bitsOf x 16 1 == 1, mapIn := bitsOf x 17 1 == 1
    seed := if seed = 0 then 0x2545F491 else seed }

def execSkcfg (S : Bool) (a b : BitVec 6) (s : State) : Host.Outcome State Fault Refusal :=
  simple (.skcfg S a b) { held := true } [.sr 2 a.toNat, .sr 3 b.toNat]
    (fun s => .done (s.updBlock s.fw.block (fun x => { x with sketch := sketchOf (s.sreg a) (s.sreg b) }))) s

/-! ## Accumulators (R164, R168, R306, R307) -/

/-- A byte of an accumulator's map: the identity where nothing has been kept (R168). -/
def Accum.mapByte (x : Accum) (i : Nat) : Byte := x.map.get (BitVec.ofNat 8 (0x20 + i)) i
def Block.accum (b : Block) (a : Nat) : Accum := b.accs.get Accum.zero a
/-- Element (row, column) of an accumulator. -/
def Accum.at' (x : Accum) (row col : Nat) : Word := x.words.get 0 (32 * row + col)

/-- Waits in phase `h` until the commands queued on an accumulator before this instruction have finished, then goes on with the instruction's place in the block's issue order. The sequencer keeps later commands on the accumulator back meanwhile (`State.keptBack`). -/
def State.afterCmds (s : State) (h ph a : Nat) (k : Nat → State → Res) : Res :=
  let q := if ph = 0 then s.seq else s.fs.ref
  if s.waitOver s.focus.wave (.accum a q) then k q s else .hold h (.accum a q) q (if ph = 0 then s.tick else s)

/-- SKMAP (R306): the ST counter may have reached its limit during the wait (R72). -/
def execSkmap (S : Bool) (a : BitVec 6) (d : BitVec 4) (s : State) : Host.Outcome State Fault Refusal :=
  let i : Instr := .skmap S a d
  ok (run i { cls := 10, held := true, breaks := true, path := some .st } [.sr 2 a.toNat, .a 3 d.toNat]
    (fun ph s => s.afterCmds 1 ph d.toNat (fun q s =>
      let va := s.sreg a
      if decide (4095 ≤ s.fb.counter .st) then .hold 1 (.counter .st 4094) q (if ph = 0 then s.tick else s) else
      let m := (List.range 32).map (fun k => (s.fb.accum d.toNat).mapByte k)
      s.checked none (s.checkLanes 1 (fun _ => va) 32 .write 3 anywhere 0 (some s.mask)) 1
        (fun ps => .done (s.issueAcc { s.newAcc i .sst (piecesOf ps (fun _ => va) 32 (fun _ => allBytes m)) with lanes := 1 })))) s)

/-- The 16 bytes that ACCLD delivers to a lane: registers vd to vd + 3 take columns 8m + l. -/
def Accum.laneBytes (x : Accum) (row l : Nat) : List Byte := (List.range 4).flatMap (fun m => wordBytes (x.at' row (8 * m + l)))

/-- An ACCLD takes the words of its row once no command queued before it is left. -/
def Acc.capture (b : Block) (x : Acc) : Acc :=
  match x.kind with
  | .accld a row =>
    if x.pieces.all (fun p => p.st.hasPassed) || b.seqq.any (fun c => c.aD == a && decide (c.seq < x.seq)) then x
    else { x with pieces := x.pieces.map (fun p => { p with st := .passed, val := (b.accum a).laneBytes row p.lane }) }
  | _ => x
def State.captureAccs (s : State) (b : Nat) : State :=
  { s with accs := s.accs.mapVals (fun _ x => if x.block == b then x.capture (s.block b) else x) }

/-- ACCLD (R307). -/
def execAccld (S : Bool) (d : BitVec 8) (a : BitVec 4) (r : BitVec 5) (s : State) : Host.Outcome State Fault Refusal :=
  let i : Instr := .accld S d a r
  simple i { held := true } [.v 1 d.toNat 4, .a 2 a.toNat]
    (fun s =>
      if (s.guardGuess &&& s.mask) != 0 then .trap (trapAt 0x18 1 (s.guardGuess &&& s.mask) 0) s
      else if s.active = 0 then .done s
      else
        let ps := (lanes8.filter (fun l => s.active.getLsbD l)).map (fun l => { Piece.zero with lane := l, n := 16 })
        let x := { s.newAcc i (.accld a.toNat r.toNat) ps with dst := d.toNat, regs := 4, lanes := s.active }
        .done ((s.setAcc s.seq x).captureAccs s.fw.block)) s

/-- ACCZ (R307). -/
def execAccz (S : Bool) (a : BitVec 4) (s : State) : Host.Outcome State Fault Refusal :=
  ok (run (.accz S a) { held := true, breaks := true } [.a 2 a.toNat]
    (fun ph s => s.afterCmds 2 ph a.toNat (fun _ s =>
      .done (s.updBlock s.fw.block (fun b => { b with accs := b.accs.set a.toNat .zero })))) s)

/-! ## Tile predicates (R308) -/

def State.setPred (s : State) (q : Nat) (v : Bool) : State :=
  s.updBlock s.fw.block (fun b => { b with preds := b.preds.set q (.known v) })
def execQset (S : Bool) (q : BitVec 4) (s : State) : Host.Outcome State Fault Refusal :=
  simple (.qset S q) { held := true } [] (fun s => .done (s.setPred q.toNat true)) s
def execQclr (S : Bool) (q : BitVec 4) (s : State) : Host.Outcome State Fault Refusal :=
  simple (.qclr S q) { held := true } [] (fun s => .done (s.setPred q.toNat false)) s

/-! ## Elements of tiles -/

/-- The bits of k-group `g` of a row: 16 bytes. -/
def Tile.groupBits (t : Tile) (row g : Nat) : Nat := leNat ((t.bytes.drop (512 * g + 16 * row)).take 16)
/-- The scale code of a row for k-group `g`: 2^0 where the tile has no scales (R87). -/
def Tile.scaleAt (t : Tile) (row g : Nat) : Nat :=
  if t.sc then (t.scales.getD (ceilDiv t.k 32 * row + g * kgroupOf t.et / 32) 0).toNat else 127

/-- The value of element `k` of a k-group: floating-point types and O4 (R86), or an integer. -/
def tileElem (et bits k : Nat) : FV :=
  match fmtOf et with
  | some f => f.decode (bitsOf bits (f.w * k) f.w)
  | none => if et = 11 then o4Elem bits k else fvOfInt (intVal (et == 9 || et == 13) (shapeW et) (bitsOf bits (shapeW et * k) (shapeW et)))
/-- The element type is an integer type: its products accumulate as SI32. -/
def tileInt (et : Nat) : Bool := et == 9 || et == 10 || et == 13

/-! ## The k-group update (R93, R94) -/

/-- A candidate NaN of a k-group with its place along K. -/
structure NaNAt where
  k : Nat
  v : FV
deriving DecidableEq, Repr

/-- The candidate of one product: a NaN operand, A before B, or 0 × ∞. -/
def productNaN (a b : FV) : Option FV :=
  if a.isNaN then some a
  else if b.isNaN then some b
  else match fvMul a b with
    | .canon => some .canon
    | _ => none

/-- The lowest place at which a product is an infinity of a sign. -/
def infAt (neg : Bool) (ps : List (Nat × FV)) : Option Nat :=
  match ps.find? (fun x => x.2 == .inf neg) with
  | some x => some x.1
  | none => none

/-- The candidate of lowest place among the products of a k-group. -/
def groupNaN (ab : List (FV × FV)) : Option FV :=
  let idx := (List.range ab.length).zip ab
  let own : Option NaNAt := idx.findSome? (fun x => (productNaN x.2.1 x.2.2).map (fun v => ⟨x.1, v⟩))
  let ps := (idx.filter (fun x => (productNaN x.2.1 x.2.2).isNone)).map (fun x => (x.1, fvMul x.2.1 x.2.2))
  let clash : Option Nat := match infAt false ps, infAt true ps with
    | some i, some j => some (min i j)
    | _, _ => none
  match own, clash with
  | some n, some c => if n.k ≤ c then some n.v else some .canon
  | some n, none => some n.v
  | none, some _ => some .canon
  | none, none => none

/-- The exact sum of numbers and infinities of one sign; its zero is −0 only when every term is −0 (R94). -/
def exactSum : List FV → FV
  | [] => .num true 0 0
  | x :: t => fvAdd 0 x (exactSum t)

/-- The k-group's result T: the exact sum times the scale factor (R94). -/
def scaleSum (v : FV) (ea eb : Nat) : FV :=
  let e : Int := (ea : Int) + eb - 254
  match v with
  | .num neg 0 x => .num neg 0 x
  | .num neg m x => if 127 < e then .inf neg else .num neg m (x + e)
  | v => v

/-- One element of an accumulator after a floating-point k-group. -/
def updateFloat (acc : Word) (ab : List (FV × FV)) (ea eb : Nat) : Word :=
  let old := fF32.decode acc.toNat
  let r : FV :=
    if old.isNaN then old
    else
      match groupNaN ab with
      | some v => v
      | none => fvAdd 0 old (scaleSum (exactSum (ab.map (fun x => fvMul x.1 x.2))) ea eb)
  BitVec.ofNat 32 (fF32.encode 0 false false false r).bits

/-- An exact integer, for integer elements. -/
def FV.int : FV → Int
  | .num neg m _ => if neg then -(m : Int) else m
  | _ => 0
/-- One element of an accumulator after an integer k-group: exact, wrapping. -/
def updateInt (acc : Word) (ab : List (FV × FV)) : Word :=
  acc + BitVec.ofInt 32 ((ab.map (fun x => x.1.int * x.2.int)).foldl (· + ·) 0)

/-- One element of an accumulator after a k-group. -/
def kgroupUpdate (et : Nat) (acc : Word) (ab : List (FV × FV)) (ea eb : Nat) : Word :=
  if tileInt et then updateInt acc ab else updateFloat acc ab ea eb

/-! ## The sketch stage (R166 to R168) -/

/-- One draw of the weight generator. -/
def drawNext (x : Word) : Word :=
  let x := x ^^^ (x <<< 13)
  let x := x ^^^ (x >>> 17)
  x ^^^ (x <<< 5)
/-- The draws of signature bits 0 to `n` ÷ 32 − 1, 32 for each bit. -/
def draws (x : Word) : Nat → List Word
  | 0 => []
  | n + 1 => drawNext x :: draws (drawNext x) n
/-- The weight of column `k` of a signature bit. -/
def weightOf (ds : List Word) (h k : Nat) : Int :=
  match bitsOf (ds.getD (32 * h + k / 16) 0).toNat (2 * (k % 16)) 2 with
  | 1 => 1 | 2 => -1 | 3 => 1 | _ => 0

/-- Element `k` of a row with its scale (R166): a scale code 0xFF reads as 2^128. -/
def Tile.scaled (t : Tile) (row k : Nat) : FV :=
  let n := kgroupOf t.et
  match tileElem t.et (t.groupBits row (k / n)) (k % n) with
  | .num neg m e => .num neg m (if tileInt t.et then e else e + e8m0 (t.scaleAt row (k / n)))
  | v => v

/-- The signature of a row: `none` for a row that holds a NaN or an infinity among its columns. -/
def Tile.signature (t : Tile) (ds : List Word) (h row : Nat) : Option Nat :=
  let cols := List.range (min t.k 512)
  let xs := cols.map (fun k => (k, t.scaled row k))
  if xs.any (fun x => match x.2 with | .num _ _ _ => false | _ => true) then none
  else
    let bit (b : Nat) : Nat :=
      let ys := xs.map (fun x => match weightOf ds b x.1 with | 1 => x.2 | -1 => fvNeg x.2 | _ => .num false 0 0)
      match exactSum ys with
      | .num true (_ + 1) _ => 0
      | _ => 1
    some ((List.range h).foldl (fun n b => n + bit b * 2 ^ b) 0)

/-- A bucket: its signature and its members, the last first. -/
structure Bucket where
  sig : Option Nat
  rows : List Nat
deriving DecidableEq, Repr

/-- A row joins the most recently opened bucket of its signature while that has room, or opens a new one (R167). The newest bucket comes first. -/
def addRow (cap : Nat) (sig : Option Nat) (row : Nat) (bs : List Bucket) : List Bucket :=
  match sig with
  | none => ⟨none, [row]⟩ :: bs
  | some _ =>
    match bs.find? (fun b => b.sig == sig) with
    | some b => if b.rows.length < cap then bs.map (fun x => if x = b then { b with rows := row :: b.rows } else x) else ⟨sig, [row]⟩ :: bs
    | none => ⟨sig, [row]⟩ :: bs
/-- The buckets of a tile, each a list of rows in ascending order. -/
def Tile.buckets (t : Tile) (k : Sketch) : List (List Nat) :=
  let ds := draws k.seed (32 * k.h)
  ((List.range 32).foldl (fun bs r => addRow k.cap (t.signature ds k.h r) r bs) []).map (fun b => b.rows.reverse)

/-- The mean of members' values, rounded to the tile's type: saturating, never an outlier (R167). -/
def meanElem (et : Nat) (vs : List FV) : Nat :=
  match fmtOf et with
  | some f =>
    (match firstNaN vs with
     | some n => f.encode 0 true false false n
     | none => f.encodeQ 0 true false (fvDiv (exactSum vs) (fvOfInt vs.length))).bits
  | none =>
    let q : Int := if et = 11 then 7 else if et = 10 then 255 else if et = 9 then 127 else 7
    let lo : Int := if et = 11 then -7 else if et = 10 then 0 else if et = 9 then -128 else -8
    match fvDiv (exactSum vs) (fvOfInt vs.length) with
    | .v x => wrapInt (shapeW et) (fvToInt 0 lo q x).1
    | .q neg m e st => wrapInt (shapeW et) (fvToInt 0 lo q (.num neg (2 * m + b2n st) (e - 1))).1
/-- The bits of a k-group of the mean of rows. -/
def Tile.meanBits (t : Tile) (rows : List Nat) (g : Nat) : Nat :=
  joinElems (shapeW t.et) ((List.range (kgroupOf t.et)).map (fun k => meanElem t.et (rows.map (fun r => tileElem t.et (t.groupBits r g) k))))

/-- How a command multiplies the rows: for each row its representative row, whose scales it takes, and the members whose mean stands for the representative's values, when it is a mean. -/
abbrev RowPlan := Nat → Nat × Option (List Nat)

/-- The plan of a command: the identity without the sketch; the map where one came in (R168); otherwise the buckets (R166, R167). -/
def planOf (c : SeqCmd) (m : Option Tile) (ta : Tile) : RowPlan :=
  match c.sketched, m with
  | false, _ => fun i => (i, none)
  | true, some t => fun i => (t.mapByte i % 32, none)
  | true, none =>
    let bs := ta.buckets c.sketch
    fun i =>
      match bs.find? (fun b => b.contains i) with
      | some b => (b.headD i, if c.sketch.rep && decide (1 < b.length) then some b else none)
      | none => (i, none)
/-- The membership map that a command leaves (R168). -/
def planMap (p : RowPlan) : Tab Byte :=
  (List.range 32).map (fun i => (i, BitVec.ofNat 8 ((p i).1 + (if (p i).1 = i then 32 else 0))))

/-- The A elements of a row in k-group `g` under a plan. -/
def planBits (ta : Tile) (p : RowPlan) (i g : Nat) : Nat :=
  match (p i).2 with
  | some rows => ta.meanBits rows g
  | none => ta.groupBits (p i).1 g

/-- The accumulator after k-group `g`. -/
def runGroup (x : Accum) (ta tb : Tile) (p : RowPlan) (g : Nat) : Accum :=
  let n := kgroupOf ta.et
  let row (i : Nat) : List (Nat × Word) :=
    let a := planBits ta p i g
    let as := (List.range n).map (tileElem ta.et a)
    let ea := ta.scaleAt (p i).1 g
    (List.range 32).map (fun j =>
      let b := tb.groupBits j g
      (32 * i + j, kgroupUpdate ta.et (x.at' i j) (as.zip ((List.range n).map (tileElem tb.et b))) ea (tb.scaleAt j g)))
  { x with words := (List.range 32).flatMap row, step := g + 1 }

/-- Elements that hold a NaN and did not before (R95). -/
def newNaNs (et : Nat) (x y : Accum) : Nat :=
  if tileInt et then 0
  else ((List.range 1024).filter (fun k => (fF32.decode (y.words.get 0 k).toNat).isNaN && !(fF32.decode (x.words.get 0 k).toNat).isNaN)).length

/-! ## The sequencer (R163) -/

/-- Consumes the items of a command: they leave their feeds. -/
def Feed.pop (f : Feed) (pos : Nat) : Feed := { f with items := f.items.drop (pos + 1 - f.first), first := max f.first (pos + 1) }
def State.popItems (s : State) (b : Nat) (c : SeqCmd) : State :=
  s.updBlock b (fun x => { x with feeds := (x.feeds.upd Feed.zero c.i (fun f => f.pop c.pa)).upd Feed.zero c.j (fun f => f.pop c.pb) })

/-- A command ends: its items are consumed, the step is 0, the queue moves on, ACCLDs that waited take their words, and the future of a CPYM completes (R161, R163, R301). A drained MMA or MMAS leaves the map that the accumulator keeps, of which R168 says nothing (DESIGN CHOICE, log entry 126). -/
def State.endCmd (s : State) (b : Nat) (c : SeqCmd) : State :=
  let s := s.popItems b c
  let s := s.updBlock b (fun x => { x with seqq := x.seqq.drop 1, accs := x.accs.upd Accum.zero c.aD (fun y => { y with step := 0 }) })
  let s := s.captureAccs b
  match c.job with
  | some j => s.finishJob j
  | none => s

/-- One k-group of a command that multiplies. -/
def State.multiply (s : State) (b : Nat) (c : SeqCmd) (m : Option Tile) (ta tb : Tile) : State :=
  let x := (s.block b).accum c.aD
  let p := planOf c m ta
  let y := runGroup x ta tb p x.step
  let more := decide (x.step + 1 < ta.steps)
  let y := if more then y else { y with map := if c.sketched then planMap p else [] }
  let s := s.charge (s.block b).pcore (s.pairOf b) b (s.weight 13)
  let s := s.addStats (s.block b).launch c.tid ⟨0, 0, newNaNs ta.et x y⟩
  let s := s.updBlock b (fun z => { z with accs := z.accs.set c.aD y })
  if more then s else s.endCmd b c

/-- The accumulator of a held SKMAP or ACCZ. -/
def holdsAccum : Option Instr → Option Nat
  | some (.skmap _ _ d) => some d.toNat
  | some (.accz _ a) => some a.toNat
  | _ => none
/-- A PC slot holds a SKMAP or an ACCZ that issued before a command on the same accumulator. -/
def Slot.keepsBack (c : SeqCmd) (sl : Slot) : Bool := sl.phase != 0 && holdsAccum sl.held == some c.aD && decide (sl.ref ≤ c.seq)
/-- A command is kept back while a SKMAP or ACCZ that issued before it in the block is still held: the map is stored, and the tile cleared, without it (R306, R307). -/
def State.keptBack (s : State) (b : Nat) (c : SeqCmd) : Bool :=
  (s.block b).waves.any (fun w => (s.wave w).slotA.keepsBack c || (s.wave w).slotB.keepsBack c)

/-- A block's sequencer has work: its head command has begun, knows its predicate and is not kept back. -/
def State.seqReady (s : State) (b : Nat) : Bool :=
  match (s.block b).seqq with
  | c :: _ => c.begun && ((match c.q with | .known _ => true | .owed _ => false) || c.drain) && (s.block b).st == .resident && !s.keptBack b c
  | [] => false
/-- The block whose turn it is on a core: the next ready one after the last, round-robin (R163). -/
def State.seqTurn (s : State) (p : Nat) : Option Nat :=
  let ready := (s.residents p).filter s.seqReady
  let last := (s.core p).lastSeq
  match (ready.filter (fun b => decide (last < b))) with
  | b :: t => some (t.foldl min b)
  | [] => match ready with
    | b :: t => some (t.foldl min b)
    | [] => none

/-- KGROUP_STEP (R163): the head command of the block runs one k-group, or drains. -/
def execKgroupStep (block : Nat) (s : State) : Host.Outcome State Fault Refusal :=
  let p := (s.block block).pcore
  if !s.clockRuns || s.seqTurn p != some block then ok s
  else
    match (s.block block).seqq with
    | c :: _ =>
      let s := s.updCore p (fun x => { x with lastSeq := block })
      let b := s.block block
      (match b.item c.i c.pa, b.item c.j c.pb with
       | some ta, some tb =>
         if c.drain || c.q == .known false || decide (ta.steps ≤ (b.accum c.aD).step) then ok (s.endCmd block c)
         else ok (s.multiply block c (match b.mapItem c with | some m => m | none => none) ta tb)
       | _, _ => ok s)
    | [] => ok s

/-- FOLLOW_ON_BEGIN (R161, R301): the copy's last byte and the items of the follow-on have landed; its checks are made, and a failure, or an error or cancellation of the copy, makes it drain. -/
def execFollowOnBegin (job : Nat) (s : State) : Host.Outcome State Fault Refusal :=
  let j := s.job job
  let b := s.block j.block
  match b.seqq.find? (fun c => c.job == some job) with
  | some c =>
    if !s.jobs.has job || c.begun || !j.copyDone || (b.missing c).isSome then ok s
    else
      let sub : Option (BitVec 8) := match b.item c.i c.pa, b.item c.j c.pb with
        | some ta, some tb => checkItems (b.mapItem c) ta tb
        | _, _ => none
      let stopped := j.code != 0 || j.cancel
      let s := if stopped then s else
        match sub with
        | some k => s.updJob job (fun j => { j with code := 0x08, sub := k })
        | none => s
      ok (s.updBlock j.block (fun x => { x with seqq := x.seqq.map (fun y =>
        if y.job == some job then { y with begun := true, drain := stopped || sub.isSome } else y) }))
  | none => ok s

end Sys2Proof.Machine
end

