-- ==== Sys2Proof/Machine/Scalar.lean ====
section
/-! DEFINITION. The scalar instructions: arithmetic and logic, compare, select, move, constants, scaled addresses and bit fields (spec/23_ref_scalar_control.md R228 to R234, spec/07_numbers.md R84). -/

namespace Sys2Proof.Machine

open Sys2Proof

/-! ## Operations on 64-bit values -/

/-- Signed and unsigned quotient and remainder (R84). -/
def quotS (a b : DWord) : DWord := if b = 0 then -1 else ofInt 64 (a.toInt.tdiv b.toInt)
def remS (a b : DWord) : DWord := if b = 0 then a else ofInt 64 (a.toInt.tmod b.toInt)
def quotU (a b : DWord) : DWord := if b = 0 then -1 else BitVec.ofNat 64 (a.toNat / b.toNat)
def remU (a b : DWord) : DWord := if b = 0 then a else BitVec.ofNat 64 (a.toNat % b.toNat)
/-- Bits 127 to 64 of the signed and of the unsigned product (R228). -/
def highS (a b : DWord) : DWord := ofInt 64 (a.toInt * b.toInt / 2 ^ 64)
def highU (a b : DWord) : DWord := BitVec.ofNat 64 (a.toNat * b.toNat / 2 ^ 64)
/-- Shifts by an unsigned count of any size (R228). -/
def shl64 (a n : DWord) : DWord := if 64 ≤ n.toNat then 0 else a <<< n.toNat
def shr64 (a n : DWord) : DWord := if 64 ≤ n.toNat then 0 else a >>> n.toNat
def sra64 (a n : DWord) : DWord := a.sshiftRight (min n.toNat 63)
/-- Minimum and maximum, signed and unsigned (R228). -/
def minS (a b : DWord) : DWord := if a.toInt ≤ b.toInt then a else b
def maxS (a b : DWord) : DWord := if a.toInt ≤ b.toInt then b else a
def minU (a b : DWord) : DWord := if a.toNat ≤ b.toNat then a else b
def maxU (a b : DWord) : DWord := if a.toNat ≤ b.toNat then b else a
/-- Leading zeros of a number of `w` bits. -/
def clzN (w x : Nat) : Nat := if x = 0 then w else w - 1 - Nat.log2 x
/-- Number of 1 bits among the low `w` bits. -/
def popN : Nat → Nat → Nat
  | 0, _ => 0
  | w + 1, x => x % 2 + popN w (x / 2)
/-- A bit field of a 64-bit value: length and value, cut at bit 63 (R234). -/
def fieldLen (pos lenM1 : BitVec 6) : Nat := min (lenM1.toNat + 1) (64 - pos.toNat)
def fieldVal (a : DWord) (pos lenM1 : BitVec 6) : Nat := bitsOf a.toNat pos.toNat (fieldLen pos lenM1)
/-- The field sign-extended from its highest bit. -/
def fieldSigned (a : DWord) (pos lenM1 : BitVec 6) : DWord :=
  let n := fieldLen pos lenM1
  let x := fieldVal a pos lenM1
  ofInt 64 (if x < 2 ^ (n - 1) then x else (x : Int) - 2 ^ n)
/-- Inserts the low bits of `a` at a position of `d` (R234). -/
def fieldInsert (d a : DWord) (pos lenM1 : BitVec 6) : DWord :=
  let m : DWord := BitVec.ofNat 64 ((2 ^ fieldLen pos lenM1 - 1) * 2 ^ pos.toNat)
  (d &&& ~~~m) ||| ((a <<< pos.toNat) &&& m)

/-! ## Meanings -/

/-- `OP sd, sa, sb` (R228). -/
def alu3 (i : Instr) (d a b : BitVec 6) (f : DWord → DWord → DWord) (s : State) : Host.Outcome State Fault Refusal :=
  simple i {} (opsS3 d a b) (fun s => .done (s.writeS d (f (s.sreg a) (s.sreg b)))) s
/-- `OP sd, sa, imm` with an immediate already extended (R228, R30). -/
def aluImm (i : Instr) (d a : BitVec 6) (b : DWord) (f : DWord → DWord → DWord) (s : State) : Host.Outcome State Fault Refusal :=
  simple i {} (opsS2 d a) (fun s => .done (s.writeS d (f (s.sreg a) b))) s
/-- `OP sd, sa` (R228). -/
def alu2 (i : Instr) (d a : BitVec 6) (f : DWord → DWord) (s : State) : Host.Outcome State Fault Refusal :=
  simple i {} (opsS2 d a) (fun s => .done (s.writeS d (f (s.sreg a)))) s

/-- NOP (R40, R33): nothing but the issue. -/
def execNop (S : Bool) (s : State) : Host.Outcome State Fault Refusal := simple (.nop S) {} [] (fun s => .done s) s
/-- SADD sd, sa, sb (R228). -/
def execSadd (S : Bool) (d a b : BitVec 6) (s : State) : Host.Outcome State Fault Refusal := alu3 (.sadd S d a b) d a b (· + ·) s
/-- SSUB sd, sa, sb (R228). -/
def execSsub (S : Bool) (d a b : BitVec 6) (s : State) : Host.Outcome State Fault Refusal := alu3 (.ssub S d a b) d a b (· - ·) s
/-- SMUL sd, sa, sb (R228). -/
def execSmul (S : Bool) (d a b : BitVec 6) (s : State) : Host.Outcome State Fault Refusal := alu3 (.smul S d a b) d a b (· * ·) s
/-- SMULH sd, sa, sb (R228). -/
def execSmulh (S : Bool) (d a b : BitVec 6) (s : State) : Host.Outcome State Fault Refusal := alu3 (.smulh S d a b) d a b highS s
/-- SMULH.u sd, sa, sb (R228). -/
def execSmulhU (S : Bool) (d a b : BitVec 6) (s : State) : Host.Outcome State Fault Refusal := alu3 (.smulhU S d a b) d a b highU s
/-- SDIV sd, sa, sb (R228). -/
def execSdiv (S : Bool) (d a b : BitVec 6) (s : State) : Host.Outcome State Fault Refusal := alu3 (.sdiv S d a b) d a b quotS s
/-- SDIV.u sd, sa, sb (R228). -/
def execSdivU (S : Bool) (d a b : BitVec 6) (s : State) : Host.Outcome State Fault Refusal := alu3 (.sdivU S d a b) d a b quotU s
/-- SREM sd, sa, sb (R228). -/
def execSrem (S : Bool) (d a b : BitVec 6) (s : State) : Host.Outcome State Fault Refusal := alu3 (.srem S d a b) d a b remS s
/-- SREM.u sd, sa, sb (R228). -/
def execSremU (S : Bool) (d a b : BitVec 6) (s : State) : Host.Outcome State Fault Refusal := alu3 (.sremU S d a b) d a b remU s
/-- SAND sd, sa, sb (R228). -/
def execSand (S : Bool) (d a b : BitVec 6) (s : State) : Host.Outcome State Fault Refusal := alu3 (.sand S d a b) d a b (· &&& ·) s
/-- SOR sd, sa, sb (R228). -/
def execSor (S : Bool) (d a b : BitVec 6) (s : State) : Host.Outcome State Fault Refusal := alu3 (.sor S d a b) d a b (· ||| ·) s
/-- SXOR sd, sa, sb (R228). -/
def execSxor (S : Bool) (d a b : BitVec 6) (s : State) : Host.Outcome State Fault Refusal := alu3 (.sxor S d a b) d a b (· ^^^ ·) s
/-- SSHL sd, sa, sb (R228). -/
def execSshl (S : Bool) (d a b : BitVec 6) (s : State) : Host.Outcome State Fault Refusal := alu3 (.sshl S d a b) d a b shl64 s
/-- SSHR sd, sa, sb (R228). -/
def execSshr (S : Bool) (d a b : BitVec 6) (s : State) : Host.Outcome State Fault Refusal := alu3 (.sshr S d a b) d a b shr64 s
/-- SSRA sd, sa, sb (R228). -/
def execSsra (S : Bool) (d a b : BitVec 6) (s : State) : Host.Outcome State Fault Refusal := alu3 (.ssra S d a b) d a b sra64 s
/-- SMIN sd, sa, sb (R228). -/
def execSmin (S : Bool) (d a b : BitVec 6) (s : State) : Host.Outcome State Fault Refusal := alu3 (.smin S d a b) d a b minS s
/-- SMIN.u sd, sa, sb (R228). -/
def execSminU (S : Bool) (d a b : BitVec 6) (s : State) : Host.Outcome State Fault Refusal := alu3 (.sminU S d a b) d a b minU s
/-- SMAX sd, sa, sb (R228). -/
def execSmax (S : Bool) (d a b : BitVec 6) (s : State) : Host.Outcome State Fault Refusal := alu3 (.smax S d a b) d a b maxS s
/-- SMAX.u sd, sa, sb (R228). -/
def execSmaxU (S : Bool) (d a b : BitVec 6) (s : State) : Host.Outcome State Fault Refusal := alu3 (.smaxU S d a b) d a b maxU s
/-- SCLZ and SPOPC (R228). -/
def execSclz (S : Bool) (d a : BitVec 6) (s : State) : Host.Outcome State Fault Refusal := alu2 (.sclz S d a) d a (fun x => BitVec.ofNat 64 (clzN 64 x.toNat)) s
def execSpopc (S : Bool) (d a : BitVec 6) (s : State) : Host.Outcome State Fault Refusal := alu2 (.spopc S d a) d a (fun x => BitVec.ofNat 64 (popN 64 x.toNat)) s
/-- SADD sd, sa, imm (R228). -/
def execSaddImm (S : Bool) (d a : BitVec 6) (i : Imm) (s : State) : Host.Outcome State Fault Refusal := aluImm (.saddImm S d a i) d a (i.ext false 64) (· + ·) s
/-- SSUB sd, sa, imm (R228). -/
def execSsubImm (S : Bool) (d a : BitVec 6) (i : Imm) (s : State) : Host.Outcome State Fault Refusal := aluImm (.ssubImm S d a i) d a (i.ext false 64) (· - ·) s
/-- SMUL sd, sa, imm (R228). -/
def execSmulImm (S : Bool) (d a : BitVec 6) (i : Imm) (s : State) : Host.Outcome State Fault Refusal := aluImm (.smulImm S d a i) d a (i.ext false 64) (· * ·) s
/-- SMULH sd, sa, imm (R228). -/
def execSmulhImm (S : Bool) (d a : BitVec 6) (i : Imm) (s : State) : Host.Outcome State Fault Refusal := aluImm (.smulhImm S d a i) d a (i.ext false 64) highS s
/-- SMULH.u sd, sa, imm (R228). -/
def execSmulhUImm (S : Bool) (d a : BitVec 6) (i : Imm) (s : State) : Host.Outcome State Fault Refusal := aluImm (.smulhUImm S d a i) d a (i.ext false 64) highU s
/-- SDIV sd, sa, imm (R228). -/
def execSdivImm (S : Bool) (d a : BitVec 6) (i : Imm) (s : State) : Host.Outcome State Fault Refusal := aluImm (.sdivImm S d a i) d a (i.ext false 64) quotS s
/-- SDIV.u sd, sa, imm (R228). -/
def execSdivUImm (S : Bool) (d a : BitVec 6) (i : Imm) (s : State) : Host.Outcome State Fault Refusal := aluImm (.sdivUImm S d a i) d a (i.ext false 64) quotU s
/-- SREM sd, sa, imm (R228). -/
def execSremImm (S : Bool) (d a : BitVec 6) (i : Imm) (s : State) : Host.Outcome State Fault Refusal := aluImm (.sremImm S d a i) d a (i.ext false 64) remS s
/-- SREM.u sd, sa, imm (R228). -/
def execSremUImm (S : Bool) (d a : BitVec 6) (i : Imm) (s : State) : Host.Outcome State Fault Refusal := aluImm (.sremUImm S d a i) d a (i.ext false 64) remU s
/-- SAND sd, sa, imm (R228). -/
def execSandImm (S : Bool) (d a : BitVec 6) (i : Imm) (s : State) : Host.Outcome State Fault Refusal := aluImm (.sandImm S d a i) d a (i.ext false 64) (· &&& ·) s
/-- SOR sd, sa, imm (R228). -/
def execSorImm (S : Bool) (d a : BitVec 6) (i : Imm) (s : State) : Host.Outcome State Fault Refusal := aluImm (.sorImm S d a i) d a (i.ext false 64) (· ||| ·) s
/-- SXOR sd, sa, imm (R228). -/
def execSxorImm (S : Bool) (d a : BitVec 6) (i : Imm) (s : State) : Host.Outcome State Fault Refusal := aluImm (.sxorImm S d a i) d a (i.ext false 64) (· ^^^ ·) s
/-- SSHL sd, sa, imm (R228). -/
def execSshlImm (S : Bool) (d a : BitVec 6) (i : Imm) (s : State) : Host.Outcome State Fault Refusal := aluImm (.sshlImm S d a i) d a (i.ext true 64) shl64 s
/-- SSHR sd, sa, imm (R228). -/
def execSshrImm (S : Bool) (d a : BitVec 6) (i : Imm) (s : State) : Host.Outcome State Fault Refusal := aluImm (.sshrImm S d a i) d a (i.ext true 64) shr64 s
/-- SSRA sd, sa, imm (R228). -/
def execSsraImm (S : Bool) (d a : BitVec 6) (i : Imm) (s : State) : Host.Outcome State Fault Refusal := aluImm (.ssraImm S d a i) d a (i.ext true 64) sra64 s
/-- SMIN sd, sa, imm (R228). -/
def execSminImm (S : Bool) (d a : BitVec 6) (i : Imm) (s : State) : Host.Outcome State Fault Refusal := aluImm (.sminImm S d a i) d a (i.ext false 64) minS s
/-- SMIN.u sd, sa, imm (R228). -/
def execSminUImm (S : Bool) (d a : BitVec 6) (i : Imm) (s : State) : Host.Outcome State Fault Refusal := aluImm (.sminUImm S d a i) d a (i.ext false 64) minU s
/-- SMAX sd, sa, imm (R228). -/
def execSmaxImm (S : Bool) (d a : BitVec 6) (i : Imm) (s : State) : Host.Outcome State Fault Refusal := aluImm (.smaxImm S d a i) d a (i.ext false 64) maxS s
/-- SMAX.u sd, sa, imm (R228). -/
def execSmaxUImm (S : Bool) (d a : BitVec 6) (i : Imm) (s : State) : Host.Outcome State Fault Refusal := aluImm (.smaxUImm S d a i) d a (i.ext false 64) maxU s
/-- SCMP (R230). -/
def execScmp (S : Bool) (c : SCond) (d a b : BitVec 6) (s : State) : Host.Outcome State Fault Refusal :=
  alu3 (.scmp S c d a b) d a b (fun x y => BitVec.ofNat 64 (b2n (condS c x y))) s
def execScmpImm (S : Bool) (c : SCond) (d a : BitVec 6) (i : Imm) (s : State) : Host.Outcome State Fault Refusal :=
  aluImm (.scmpImm S c d a i) d a (i.ext false 64) (fun x y => BitVec.ofNat 64 (b2n (condS c x y))) s
/-- SSEL (R231): the old sd and sb are operands that wait for futures, sa is not. -/
def execSsel (S : Bool) (d a b : BitVec 6) (s : State) : Host.Outcome State Fault Refusal :=
  simple (.ssel S d a b) {} [.sr 1 d.toNat, .sd 2 a.toNat, .sr 3 b.toNat]
    (fun s => .done (s.writeS d (if s.sreg d ≠ 0 then s.sreg a else s.sreg b))) s
/-- SMOV (R231, R154): a future mark goes with the value, and nothing waits. -/
def execSmov (S : Bool) (d a : BitVec 6) (s : State) : Host.Outcome State Fault Refusal :=
  simple (.smov S d a) {} [.sd 1 d.toNat, .sd 2 a.toNat]
    (fun s => .done (s.writeSV d.toNat (s.fw.sregs.get SRegVal.zero a.toNat))) s
/-- SLI (R232). -/
def execSli (S : Bool) (d : BitVec 6) (i : SliImm) (s : State) : Host.Outcome State Fault Refusal :=
  simple (.sli S d i) {} [.sd 1 d.toNat] (fun s => .done (s.writeS d (i.ext 64))) s
/-- SLI.hi (R232): the lower half keeps its value. -/
def execSliHi (S : Bool) (d : BitVec 6) (i : SliImm) (s : State) : Host.Outcome State Fault Refusal :=
  simple (.sliHi S d i) {} [.sd 1 d.toNat] (fun s => .done (s.writeS d (i.ext 32 ++ (s.sreg d).extractLsb' 0 32))) s
/-- SLEA (R233). -/
def execSlea (S : Bool) (d a b : BitVec 6) (sh : BitVec 4) (s : State) : Host.Outcome State Fault Refusal :=
  alu3 (.slea S d a b sh) d a b (fun x y => x + (y <<< sh.toNat)) s
/-- SBFX (R234). -/
def execSbfx (S : Bool) (d a pos lenM1 : BitVec 6) (s : State) : Host.Outcome State Fault Refusal :=
  alu2 (.sbfx S d a pos lenM1) d a (fun x => BitVec.ofNat 64 (fieldVal x pos lenM1)) s
/-- SBFX.s (R234). -/
def execSbfxS (S : Bool) (d a pos lenM1 : BitVec 6) (s : State) : Host.Outcome State Fault Refusal :=
  alu2 (.sbfxS S d a pos lenM1) d a (fun x => fieldSigned x pos lenM1) s
/-- SBFI (R234): the other bits of sd keep their values. -/
def execSbfi (S : Bool) (d a pos lenM1 : BitVec 6) (s : State) : Host.Outcome State Fault Refusal :=
  simple (.sbfi S d a pos lenM1) {} (opsS2 d a) (fun s => .done (s.writeS d (fieldInsert (s.sreg d) (s.sreg a) pos lenM1))) s

end Sys2Proof.Machine
end

