-- ==== Sys2Proof/Machine/Dispatch.lean ====
section
/-! DEFINITION. One arm per constructor of Instr, each a direct call of its meaning. -/

namespace Sys2Proof.Machine

open Sys2Proof

/-- What an instruction or an event does to the device. -/
def exec (i : Instr) (s : State) : Host.Outcome State Fault Refusal :=
  match i with
  | .nop S => Sys2Proof.Machine.execNop S s
  | .sadd S d a b => Sys2Proof.Machine.execSadd S d a b s
  | .ssub S d a b => Sys2Proof.Machine.execSsub S d a b s
  | .smul S d a b => Sys2Proof.Machine.execSmul S d a b s
  | .smulh S d a b => Sys2Proof.Machine.execSmulh S d a b s
  | .smulhU S d a b => Sys2Proof.Machine.execSmulhU S d a b s
  | .sdiv S d a b => Sys2Proof.Machine.execSdiv S d a b s
  | .sdivU S d a b => Sys2Proof.Machine.execSdivU S d a b s
  | .srem S d a b => Sys2Proof.Machine.execSrem S d a b s
  | .sremU S d a b => Sys2Proof.Machine.execSremU S d a b s
  | .sand S d a b => Sys2Proof.Machine.execSand S d a b s
  | .sor S d a b => Sys2Proof.Machine.execSor S d a b s
  | .sxor S d a b => Sys2Proof.Machine.execSxor S d a b s
  | .sshl S d a b => Sys2Proof.Machine.execSshl S d a b s
  | .sshr S d a b => Sys2Proof.Machine.execSshr S d a b s
  | .ssra S d a b => Sys2Proof.Machine.execSsra S d a b s
  | .smin S d a b => Sys2Proof.Machine.execSmin S d a b s
  | .sminU S d a b => Sys2Proof.Machine.execSminU S d a b s
  | .smax S d a b => Sys2Proof.Machine.execSmax S d a b s
  | .smaxU S d a b => Sys2Proof.Machine.execSmaxU S d a b s
  | .sclz S d a => Sys2Proof.Machine.execSclz S d a s
  | .spopc S d a => Sys2Proof.Machine.execSpopc S d a s
  | .saddImm S d a i1 => Sys2Proof.Machine.execSaddImm S d a i1 s
  | .ssubImm S d a i1 => Sys2Proof.Machine.execSsubImm S d a i1 s
  | .smulImm S d a i1 => Sys2Proof.Machine.execSmulImm S d a i1 s
  | .smulhImm S d a i1 => Sys2Proof.Machine.execSmulhImm S d a i1 s
  | .sdivImm S d a i1 => Sys2Proof.Machine.execSdivImm S d a i1 s
  | .sremImm S d a i1 => Sys2Proof.Machine.execSremImm S d a i1 s
  | .sandImm S d a i1 => Sys2Proof.Machine.execSandImm S d a i1 s
  | .sorImm S d a i1 => Sys2Proof.Machine.execSorImm S d a i1 s
  | .sxorImm S d a i1 => Sys2Proof.Machine.execSxorImm S d a i1 s
  | .sshlImm S d a i1 => Sys2Proof.Machine.execSshlImm S d a i1 s
  | .sshrImm S d a i1 => Sys2Proof.Machine.execSshrImm S d a i1 s
  | .ssraImm S d a i1 => Sys2Proof.Machine.execSsraImm S d a i1 s
  | .sminImm S d a i1 => Sys2Proof.Machine.execSminImm S d a i1 s
  | .smaxImm S d a i1 => Sys2Proof.Machine.execSmaxImm S d a i1 s
  | .smulhUImm S d a i1 => Sys2Proof.Machine.execSmulhUImm S d a i1 s
  | .sdivUImm S d a i1 => Sys2Proof.Machine.execSdivUImm S d a i1 s
  | .sremUImm S d a i1 => Sys2Proof.Machine.execSremUImm S d a i1 s
  | .sminUImm S d a i1 => Sys2Proof.Machine.execSminUImm S d a i1 s
  | .smaxUImm S d a i1 => Sys2Proof.Machine.execSmaxUImm S d a i1 s
  | .scmp S c d a b => Sys2Proof.Machine.execScmp S c d a b s
  | .scmpImm S c d a i1 => Sys2Proof.Machine.execScmpImm S c d a i1 s
  | .ssel S d a b => Sys2Proof.Machine.execSsel S d a b s
  | .smov S d a => Sys2Proof.Machine.execSmov S d a s
  | .sli S d i1 => Sys2Proof.Machine.execSli S d i1 s
  | .sliHi S d i1 => Sys2Proof.Machine.execSliHi S d i1 s
  | .slea S d a b sh => Sys2Proof.Machine.execSlea S d a b sh s
  | .sbfx S d a pos lenM1 => Sys2Proof.Machine.execSbfx S d a pos lenM1 s
  | .sbfxS S d a pos lenM1 => Sys2Proof.Machine.execSbfxS S d a pos lenM1 s
  | .sbfi S d a pos lenM1 => Sys2Proof.Machine.execSbfi S d a pos lenM1 s
  | .br S off => Sys2Proof.Machine.execBr S off s
  | .call S off => Sys2Proof.Machine.execCall S off s
  | .brs S c a off => Sys2Proof.Machine.execBrs S c a off s
  | .brv S n p off join => Sys2Proof.Machine.execBrv S n p off join s
  | .jmpi S vi t join => Sys2Proof.Machine.execJmpi S vi t join s
  | .tabset S t a b => Sys2Proof.Machine.execTabset S t a b s
  | .ret S a => Sys2Proof.Machine.execRet S a s
  | .exit S => Sys2Proof.Machine.execExit S s
  | .yield S => Sys2Proof.Machine.execYield S s
  | .rte S => Sys2Proof.Machine.execRte S s
  | .halt S => Sys2Proof.Machine.execHalt S s
  | .launch S a => Sys2Proof.Machine.execLaunch S a s
  | .trap S code => Sys2Proof.Machine.execTrap S code s
  | .region S v s1 => Sys2Proof.Machine.execRegion S v s1 s
  | .mfsr S d x => Sys2Proof.Machine.execMfsr S d x s
  | .mtsr S x a => Sys2Proof.Machine.execMtsr S x a s
  | .setmode S a => Sys2Proof.Machine.execSetmode S a s
  | .setmodeF S f v => Sys2Proof.Machine.execSetmodeF S f v s
  | .setlim S n a => Sys2Proof.Machine.execSetlim S n a s
  | .setlimImm S n i1 => Sys2Proof.Machine.execSetlimImm S n i1 s
  | .waitc S p n => Sys2Proof.Machine.execWaitc S p n s
  | .waitcImm S p i1 => Sys2Proof.Machine.execWaitcImm S p i1 s
  | .bar S b pd => Sys2Proof.Machine.execBar S b pd s
  | .bara S b => Sys2Proof.Machine.execBara S b s
  | .barw S b pd => Sys2Proof.Machine.execBarw S b pd s
  | .gbar S g pd => Sys2Proof.Machine.execGbar S g pd s
  | .vadd S d a b => Sys2Proof.Machine.execVadd S d a b s
  | .vsub S d a b => Sys2Proof.Machine.execVsub S d a b s
  | .vmul S d a b => Sys2Proof.Machine.execVmul S d a b s
  | .vmulh S d a b => Sys2Proof.Machine.execVmulh S d a b s
  | .vmad S d a b => Sys2Proof.Machine.execVmad S d a b s
  | .vand S d a b => Sys2Proof.Machine.execVand S d a b s
  | .vor S d a b => Sys2Proof.Machine.execVor S d a b s
  | .vxor S d a b => Sys2Proof.Machine.execVxor S d a b s
  | .vshl S d a b => Sys2Proof.Machine.execVshl S d a b s
  | .vshr S d a b => Sys2Proof.Machine.execVshr S d a b s
  | .vsra S d a b => Sys2Proof.Machine.execVsra S d a b s
  | .vmin S d a b => Sys2Proof.Machine.execVmin S d a b s
  | .vmax S d a b => Sys2Proof.Machine.execVmax S d a b s
  | .vcmp S c p a b => Sys2Proof.Machine.execVcmp S c p a b s
  | .vsel S d a p => Sys2Proof.Machine.execVsel S d a p s
  | .vnot S d a => Sys2Proof.Machine.execVnot S d a s
  | .vabs S d a => Sys2Proof.Machine.execVabs S d a s
  | .vneg S d a => Sys2Proof.Machine.execVneg S d a s
  | .vmov S d a => Sys2Proof.Machine.execVmov S d a s
  | .vclz S d a => Sys2Proof.Machine.execVclz S d a s
  | .vpopc S d a => Sys2Proof.Machine.execVpopc S d a s
  | .vlane S d => Sys2Proof.Machine.execVlane S d s
  | .vbcast S d a => Sys2Proof.Machine.execVbcast S d a s
  | .vbcastImm S d i1 => Sys2Proof.Machine.execVbcastImm S d i1 s
  | .vbfx S d a b => Sys2Proof.Machine.execVbfx S d a b s
  | .vbfxS S d a b => Sys2Proof.Machine.execVbfxS S d a b s
  | .vbfi S d a b => Sys2Proof.Machine.execVbfi S d a b s
  | .pand S d a b => Sys2Proof.Machine.execPand S d a b s
  | .por S d a b => Sys2Proof.Machine.execPor S d a b s
  | .pxor S d a b => Sys2Proof.Machine.execPxor S d a b s
  | .pnot S d a => Sys2Proof.Machine.execPnot S d a s
  | .pmov S d a => Sys2Proof.Machine.execPmov S d a s
  | .pset S d k => Sys2Proof.Machine.execPset S d k s
  | .ptest S d a k => Sys2Proof.Machine.execPtest S d a k s
  | .vfadd S d a b => Sys2Proof.Machine.execVfadd S d a b s
  | .vfsub S d a b => Sys2Proof.Machine.execVfsub S d a b s
  | .vfmul S d a b => Sys2Proof.Machine.execVfmul S d a b s
  | .vfma S d a b => Sys2Proof.Machine.execVfma S d a b s
  | .vfmin S d a b => Sys2Proof.Machine.execVfmin S d a b s
  | .vfmax S d a b => Sys2Proof.Machine.execVfmax S d a b s
  | .vfdiv S d a b => Sys2Proof.Machine.execVfdiv S d a b s
  | .vscale S d a b => Sys2Proof.Machine.execVscale S d a b s
  | .vfcmp S c p a b => Sys2Proof.Machine.execVfcmp S c p a b s
  | .vfsqrt S d a => Sys2Proof.Machine.execVfsqrt S d a s
  | .vfrcp S d a => Sys2Proof.Machine.execVfrcp S d a s
  | .vfrsq S d a => Sys2Proof.Machine.execVfrsq S d a s
  | .vfexp2 S d a => Sys2Proof.Machine.execVfexp2 S d a s
  | .vflog2 S d a => Sys2Proof.Machine.execVflog2 S d a s
  | .vfclass S d a => Sys2Proof.Machine.execVfclass S d a s
  | .vcvt S d a e => Sys2Proof.Machine.execVcvt S d a e s
  | .vperm S d a b => Sys2Proof.Machine.execVperm S d a b s
  | .vshuf S d a p => Sys2Proof.Machine.execVshuf S d a p s
  | .vtbl S d a b => Sys2Proof.Machine.execVtbl S d a b s
  | .vrot S d a n => Sys2Proof.Machine.execVrot S d a n s
  | .vred S d a o => Sys2Proof.Machine.execVred S d a o s
  | .vscan S d a o => Sys2Proof.Machine.execVscan S d a o s
  | .vscanX S d a o => Sys2Proof.Machine.execVscanX S d a o s
  | .vballot S d a => Sys2Proof.Machine.execVballot S d a s
  | .vfirst S d a => Sys2Proof.Machine.execVfirst S d a s
  | .gtest S d a => Sys2Proof.Machine.execGtest S d a s
  | .gdemand S d => Sys2Proof.Machine.execGdemand S d s
  | .gaccept S d => Sys2Proof.Machine.execGaccept S d s
  | .gcheck S p d => Sys2Proof.Machine.execGcheck S p d s
  | .gsettle S d p => Sys2Proof.Machine.execGsettle S d p s
  | .ldB S x d m n k => Sys2Proof.Machine.execLdB S x d m n k s
  | .ldBS S d m n k => Sys2Proof.Machine.execLdBS S d m n k s
  | .ldH S x d m n k => Sys2Proof.Machine.execLdH S x d m n k s
  | .ldHS S d m n k => Sys2Proof.Machine.execLdHS S d m n k s
  | .ldW S d m n k => Sys2Proof.Machine.execLdW S d m n k s
  | .ldD S d m n k => Sys2Proof.Machine.execLdD S d m n k s
  | .ldQ S d m n k => Sys2Proof.Machine.execLdQ S d m n k s
  | .lds S d m wd => Sys2Proof.Machine.execLds S d m wd s
  | .st S d m n wd => Sys2Proof.Machine.execSt S d m n wd s
  | .sts S d m wd => Sys2Proof.Machine.execSts S d m wd s
  | .sldD S d a o => Sys2Proof.Machine.execSldD S d a o s
  | .sldW S d a o => Sys2Proof.Machine.execSldW S d a o s
  | .sstD S d a o => Sys2Proof.Machine.execSstD S d a o s
  | .sstW S d a o => Sys2Proof.Machine.execSstW S d a o s
  | .prefL1 S m n => Sys2Proof.Machine.execPrefL1 S m n s
  | .prefL2 S m n => Sys2Proof.Machine.execPrefL2 S m n s
  | .prefMsc S m n => Sys2Proof.Machine.execPrefMsc S m n s
  | .strc S d m n wd cnt => Sys2Proof.Machine.execStrc S d m n wd cnt s
  | .draftW S x d m n p => Sys2Proof.Machine.execDraftW S x d m n p s
  | .draftD S d m n p => Sys2Proof.Machine.execDraftD S d m n p s
  | .ink S m n => Sys2Proof.Machine.execInk S m n s
  | .erase S p m n => Sys2Proof.Machine.execErase S p m n s
  | .aadd S d a b e => Sys2Proof.Machine.execAadd S d a b e s
  | .amin S d a b e => Sys2Proof.Machine.execAmin S d a b e s
  | .amax S d a b e => Sys2Proof.Machine.execAmax S d a b e s
  | .aand S d a b e => Sys2Proof.Machine.execAand S d a b e s
  | .aor S d a b e => Sys2Proof.Machine.execAor S d a b e s
  | .axor S d a b e => Sys2Proof.Machine.execAxor S d a b e s
  | .axchg S d a b e => Sys2Proof.Machine.execAxchg S d a b e s
  | .acas S d a b c e => Sys2Proof.Machine.execAcas S d a b c e s
  | .afadd S d a b e => Sys2Proof.Machine.execAfadd S d a b e s
  | .ared S o a b e => Sys2Proof.Machine.execAred S o a b e s
  | .fence S k sc => Sys2Proof.Machine.execFence S k sc s
  | .dflush S => Sys2Proof.Machine.execDflush S s
  | .cflush S a b => Sys2Proof.Machine.execCflush S a b s
  | .cflushPersist S a b => Sys2Proof.Machine.execCflushPersist S a b s
  | .cinv S a b => Sys2Proof.Machine.execCinv S a b s
  | .carve S c => Sys2Proof.Machine.execCarve S c s
  | .pclass S a b k => Sys2Proof.Machine.execPclass S a b k s
  | .cpyMs S x d t s1 => Sys2Proof.Machine.execCpyMs S x d t s1 s
  | .cpySm S x d t s1 => Sys2Proof.Machine.execCpySm S x d t s1 s
  | .cpyMf S x d f s1 => Sys2Proof.Machine.execCpyMf S x d f s1 s
  | .cpySf S x d f s1 => Sys2Proof.Machine.execCpySf S x d f s1 s
  | .cpyZd S d t s1 q => Sys2Proof.Machine.execCpyZd S d t s1 q s
  | .cpym S d f s1 c => Sys2Proof.Machine.execCpym S d f s1 c s
  | .cpymSf S d f s1 c => Sys2Proof.Machine.execCpymSf S d f s1 c s
  | .gath S d f x => Sys2Proof.Machine.execGath S d f x s
  | .strm S x a b => Sys2Proof.Machine.execStrm S x a b s
  | .vfeed S d x => Sys2Proof.Machine.execVfeed S d x s
  | .mma S d i1 j q => Sys2Proof.Machine.execMma S d i1 j q s
  | .mmas S d i1 j q => Sys2Proof.Machine.execMmas S d i1 j q s
  | .skcfg S a b => Sys2Proof.Machine.execSkcfg S a b s
  | .skmap S a d => Sys2Proof.Machine.execSkmap S a d s
  | .accld S d a r => Sys2Proof.Machine.execAccld S d a r s
  | .accz S a => Sys2Proof.Machine.execAccz S a s
  | .qset S q => Sys2Proof.Machine.execQset S q s
  | .qclr S q => Sys2Proof.Machine.execQclr S q s
  | .shset S d a => Sys2Proof.Machine.execShset S d a s
  | .fwait S a => Sys2Proof.Machine.execFwait S a s
  | .ftest S d a => Sys2Proof.Machine.execFtest S d a s
  | .fstat S d a => Sys2Proof.Machine.execFstat S d a s
  | .fcancel S a => Sys2Proof.Machine.execFcancel S a s
  | .eqpush S e a => Sys2Proof.Machine.execEqpush S e a s
  | .eqcfg S e a => Sys2Proof.Machine.execEqcfg S e a s
  | .collAllreduce S d a => Sys2Proof.Machine.execCollAllreduce S d a s
  | .collReducescatter S d a => Sys2Proof.Machine.execCollReducescatter S d a s
  | .collAllgather S d a => Sys2Proof.Machine.execCollAllgather S d a s
  | .collBroadcast S d a => Sys2Proof.Machine.execCollBroadcast S d a s
  | .collredo S d a => Sys2Proof.Machine.execCollredo S d a s
  | .illegalInstruction cause sub word off => Sys2Proof.Machine.execIllegalInstruction cause sub word off s
  | .instructionFetchFault va => Sys2Proof.Machine.execInstructionFetchFault va s
  | .loadDataReturn acc lanes early => Sys2Proof.Machine.execLoadDataReturn acc lanes early s
  | .truthArrival acc => Sys2Proof.Machine.execTruthArrival acc s
  | .claim msg => Sys2Proof.Machine.execClaim msg s
  | .claimResult acc => Sys2Proof.Machine.execClaimResult acc s
  | .sendData acc => Sys2Proof.Machine.execSendData acc s
  | .register msg => Sys2Proof.Machine.execRegister msg s
  | .storeAck acc => Sys2Proof.Machine.execStoreAck acc s
  | .close msg => Sys2Proof.Machine.execClose msg s
  | .atomicAtHome acc order => Sys2Proof.Machine.execAtomicAtHome acc order s
  | .draftAtHome acc lane => Sys2Proof.Machine.execDraftAtHome acc lane s
  | .inkAtHome acc lane => Sys2Proof.Machine.execInkAtHome acc lane s
  | .eraseAtHome acc lane => Sys2Proof.Machine.execEraseAtHome acc lane s
  | .deliver link => Sys2Proof.Machine.execDeliver link s
  | .footprintEdgesFallen launch => Sys2Proof.Machine.execFootprintEdgesFallen launch s
  | .blockStart launch lcore => Sys2Proof.Machine.execBlockStart launch lcore s
  | .blockRestore block lcore intact => Sys2Proof.Machine.execBlockRestore block lcore intact s
  | .pageFaultRingEntry fault => Sys2Proof.Machine.execPageFaultRingEntry fault s
  | .blockEnd block => Sys2Proof.Machine.execBlockEnd block s
  | .carveApply pcore => Sys2Proof.Machine.execCarveApply pcore s
  | .jobStart job => Sys2Proof.Machine.execJobStart job s
  | .jobStep job => Sys2Proof.Machine.execJobStep job s
  | .jobComplete job => Sys2Proof.Machine.execJobComplete job s
  | .followOnBegin job => Sys2Proof.Machine.execFollowOnBegin job s
  | .kgroupStep block => Sys2Proof.Machine.execKgroupStep block s
  | .eqFiring q => Sys2Proof.Machine.execEqFiring q s
  | .chunkReceive inst party flips again => Sys2Proof.Machine.execChunkReceive inst party flips again s
  | .exponentReceive inst src dst exps => Sys2Proof.Machine.execExponentReceive inst src dst exps s
  | .chunkStepSend inst party => Sys2Proof.Machine.execChunkStepSend inst party s
  | .staticCharge pcore => Sys2Proof.Machine.execStaticCharge pcore s
  | .sliceEnd pcore => Sys2Proof.Machine.execSliceEnd pcore s
  | .distributorSwap block => Sys2Proof.Machine.execDistributorSwap block s
  | .distributorRecarve launch lcore => Sys2Proof.Machine.execDistributorRecarve launch lcore s
  | .limitExpiry acc => Sys2Proof.Machine.execLimitExpiry acc s
  | .collTimeout inst party => Sys2Proof.Machine.execCollTimeout inst party s
  | .eqCountdownExpiry q => Sys2Proof.Machine.execEqCountdownExpiry q s
  | .evict core line => Sys2Proof.Machine.execEvict core line s
  | .claimOverflow msg => Sys2Proof.Machine.execClaimOverflow msg s
  | .regionMerge hub entry => Sys2Proof.Machine.execRegionMerge hub entry s
  | .reclassify acc => Sys2Proof.Machine.execReclassify acc s
  | .launchFramesExhausted launch => Sys2Proof.Machine.execLaunchFramesExhausted launch s
  | .dieParkDone die => Sys2Proof.Machine.execDieParkDone die s
  | .biasFlushStart page => Sys2Proof.Machine.execBiasFlushStart page s
  | .biasFlushComplete page => Sys2Proof.Machine.execBiasFlushComplete page s
  | .launchRecordTake => Sys2Proof.Machine.execLaunchRecordTake s
  | .blockPreempt block => Sys2Proof.Machine.execBlockPreempt block s
  | .mcRequest stack acc sectors fabric home now wr => Sys2Proof.Machine.execMcRequest stack acc sectors fabric home now wr s
  | .pcSchedule stack pci corrected uncorrectable => Sys2Proof.Machine.execPcSchedule stack pci corrected uncorrectable s
  | .patienceExpiry stack group => Sys2Proof.Machine.execPatienceExpiry stack group s
  | .starvationPromote stack group => Sys2Proof.Machine.execStarvationPromote stack group s
  | .refreshDue stack pci bank => Sys2Proof.Machine.execRefreshDue stack pci bank s
  | .alertBackoff stack pci bank => Sys2Proof.Machine.execAlertBackoff stack pci bank s
  | .catchupRefresh stack pci bank => Sys2Proof.Machine.execCatchupRefresh stack pci bank s
  | .rowSpareDone stack => Sys2Proof.Machine.execRowSpareDone stack s
  | .patrolScrub stack row corrected uncorrectable => Sys2Proof.Machine.execPatrolScrub stack row corrected uncorrectable s
  | .flitReceive link ty seq body => Sys2Proof.Machine.execFlitReceive link ty seq body s
  | .nakReceive link seq => Sys2Proof.Machine.execNakReceive link seq s
  | .laneLoss link lane => Sys2Proof.Machine.execLaneLoss link lane s
  | .retrainEnd link => Sys2Proof.Machine.execRetrainEnd link s
  | .linkTimeout link => Sys2Proof.Machine.execLinkTimeout link s
  | .peerRequest dev asid va op data => Sys2Proof.Machine.execPeerRequest dev asid va op data s
  | .peerErrorCompletion acc => Sys2Proof.Machine.execPeerErrorCompletion acc s
  | .hostPortTrain cxl width => Sys2Proof.Machine.execHostPortTrain cxl width s
  | .hostAccess fn pa wr data => Sys2Proof.Machine.execHostAccess fn pa wr data s
  | .snoopResponse page line dirty => Sys2Proof.Machine.execSnoopResponse page line dirty s
  | .governorSample watts average => Sys2Proof.Machine.execGovernorSample watts average s
  | .pTransitionDone => Sys2Proof.Machine.execPTransitionDone s
  | .mTransitionDone => Sys2Proof.Machine.execMTransitionDone s
  | .dieUnparkDone die passed => Sys2Proof.Machine.execDieUnparkDone die passed s
  | .healthUpdate slow margin => Sys2Proof.Machine.execHealthUpdate slow margin s
  | .ckptStepDone hostError => Sys2Proof.Machine.execCkptStepDone hostError s
  | .reset => Sys2Proof.Machine.execReset s
  | .selfTestEnd failed => Sys2Proof.Machine.execSelfTestEnd failed s
  | .trainingEnd stacksOk linksOk => Sys2Proof.Machine.execTrainingEnd stacksOk linksOk s
  | .flashErase => Sys2Proof.Machine.execFlashErase s
  | .flashProgram => Sys2Proof.Machine.execFlashProgram s
  | .flashRead => Sys2Proof.Machine.execFlashRead s
  | .flashOpDone => Sys2Proof.Machine.execFlashOpDone s
  | .lqdoor q m => Sys2Proof.Machine.execLqdoor q m s
  | .lqctlWrite q m => Sys2Proof.Machine.execLqctlWrite q m s
  | .remapWrite l m => Sys2Proof.Machine.execRemapWrite l m s
  | .contextTableWrite m => Sys2Proof.Machine.execContextTableWrite m s
  | .pfresume m => Sys2Proof.Machine.execPfresume m s
  | .tlbinv m => Sys2Proof.Machine.execTlbinv m s
  | .tlbinvDone => Sys2Proof.Machine.execTlbinvDone s
  | .biasRangeWrite m => Sys2Proof.Machine.execBiasRangeWrite m s
  | .biascmd m => Sys2Proof.Machine.execBiascmd m s
  | .mcspare stack m => Sys2Proof.Machine.execMcspare stack m s
  | .lnkctlRetrain link m => Sys2Proof.Machine.execLnkctlRetrain link m s
  | .lnkctlDisable link m => Sys2Proof.Machine.execLnkctlDisable link m s
  | .atcommit m => Sys2Proof.Machine.execAtcommit m s
  | .collinjWrite m => Sys2Proof.Machine.execCollinjWrite m s
  | .collDomainWrite m => Sys2Proof.Machine.execCollDomainWrite m s
  | .devnumWrite m => Sys2Proof.Machine.execDevnumWrite m s
  | .pwrceilWrite m => Sys2Proof.Machine.execPwrceilWrite m s
  | .pstlimWrite m => Sys2Proof.Machine.execPstlimWrite m s
  | .diePark m => Sys2Proof.Machine.execDiePark m s
  | .dieUnpark m => Sys2Proof.Machine.execDieUnpark m s
  | .dieparkHold m => Sys2Proof.Machine.execDieparkHold m s
  | .ensaveWrite m => Sys2Proof.Machine.execEnsaveWrite m s
  | .ckptSave m => Sys2Proof.Machine.execCkptSave m s
  | .ckptRestore m => Sys2Proof.Machine.execCkptRestore m s
  | .managementAccess wr m => Sys2Proof.Machine.execManagementAccess wr m s
  | .powerFail => Sys2Proof.Machine.execPowerFail s
  | .atcommitComplete => Sys2Proof.Machine.execAtcommitComplete s

end Sys2Proof.Machine
end

