-- ==== Sys2Proof/Machine/Agenda.lean ====
section
/-! DEFINITION. What the device does when the agenda names nothing: a model's order among agents that the manual leaves unordered (log entry 5). -/

namespace Sys2Proof.Machine

open Sys2Proof

/-- A row that an agenda may name: an event, and no instruction or failed fetch, which only an issue slot brings about. -/
def isEvent (i : Instr) : Bool :=
  match i with
  | .illegalInstruction _ _ _ _ => false
  | .instructionFetchFault _ => false
  | i => i.words == 0

/-- Steps of the memory system that may be possible: messages at their homes, accesses, link queues. -/
def State.memoryEvents (s : State) : List Instr :=
  s.net.map (fun m => match m.body with | .piece _ _ => .claim m.id | .data _ _ => .register m.id | .close _ _ => .close m.id)
    ++ s.accs.flatMap (fun a => [.claimResult a.1, .sendData a.1, .storeAck a.1, .atomicAtHome a.1 (List.range 8), .loadDataReturn a.1 0xFF false, .truthArrival a.1]
      ++ (List.range 8).flatMap (fun l => [.draftAtHome a.1 l, .inkAtHome a.1 l, .eraseAtHome a.1 l]))
    ++ (s.links.filter (fun l => !l.2.queue.isEmpty)).map (fun l => .deliver l.1)
/-- Steps of jobs, engines and collectives. -/
def State.engineEvents (s : State) : List Instr :=
  s.jobs.flatMap (fun j => if j.2.state == 0 then [.jobStart j.1, .jobStep j.1, .followOnBegin j.1, .jobComplete j.1]
      else if j.2.owesTiles then [.jobStep j.1] else [])
    ++ (s.blocks.filter (fun b => b.2.st == .resident && !b.2.seqq.isEmpty)).map (fun b => .kgroupStep b.1)
    ++ s.eqs.map (fun q => .eqFiring q.1)
    ++ s.insts.flatMap (fun i => (List.range i.2.np).flatMap (fun p =>
      ((List.range i.2.np).filter (fun q => s.isLocal i.1 q && !((s.party i.1 p).expFrom.contains q))).map (fun q => .exponentReceive i.1 q p [])
        ++ [.chunkStepSend i.1 p, .chunkReceive i.1 p [] []]))
/-- Steps of the task scheduler and of the distributor. -/
def State.blockEvents (s : State) : List Instr :=
  (s.blocks.keysWhere (fun b _ => s.blockOver b)).map .blockEnd
    ++ (s.launches.keysWhere (fun _ l => l.st == .waiting)).map .footprintEdgesFallen
    ++ (s.launches.keysWhere (fun _ l => l.moreToStart)).filterMap (fun l => ((List.range 256).find? (s.startable l)).map (.blockStart l))
    ++ (s.blocks.keysWhere (fun _ b => b.st == .saved)).filterMap (fun b => (((s.block b).lcore :: List.range 256).find? (s.restorable b)).map (fun c => .blockRestore b c true))
    ++ (s.blocks.keysWhere (fun b x => x.st == .resident && s.swapDue b)).map .distributorSwap
    ++ (s.launches.map Prod.fst).flatMap (fun l => (s.recarves l).map (.distributorRecarve l))
    ++ (s.cores.keysWhere (fun _ c => c.carveReq.isSome)).map .carveApply
    ++ (s.cores.keysWhere (fun p c => decide ((s.hosts p).length = 2) && (c.slice == 0 || (s.hosts p).any (s.activeReady p)))).map .sliceEnd
    ++ ((List.range s.mgmt.faults.length).filter (fun f => s.mgmt.pfbase.getLsbD 0 && !((s.mgmt.faults[f]?).map PFault.entered).getD true)).map .pageFaultRingEntry
    ++ (if s.queuesRun && (s.mgmt.lq.any (fun q => !q.2.recs.isEmpty) || s.mgmt.lauq.any (fun q => !q.2.isEmpty)) then [.launchRecordTake] else [])

/-- The first outcome of a list that changes the state. -/
def State.firstChange (s : State) : List (State → Host.Outcome State Fault Refusal) → State
  | [] => s
  | f :: t =>
    match f s with
    | .next u => if u = s then s.firstChange t else u
    | .fault _ => s.firstChange t
    | .refused _ => s.firstChange t
/-- Work of the hubs and of the memory controllers that ends by itself. -/
def State.hubStep (s : State) : State :=
  s.firstChange (
    s.mgmt.flips.flatMap (fun f => [execBiasFlushStart f.page, execBiasFlushComplete f.page])
      ++ (if s.mgmt.atcommit.isSome then [execAtcommitComplete] else [])
      ++ (if s.mgmt.tlbinv.getLsbD 14 then [execTlbinvDone] else [])
      ++ (if s.mgmt.pGoal.isSome then [execPTransitionDone] else [])
      ++ (if s.mgmt.mGoal.isSome then [execMTransitionDone] else [])
      ++ (if s.mgmt.flcmd.getLsbD 2 then [execFlashErase, execFlashProgram, execFlashRead, execFlashOpDone] else [])
      ++ ((List.range 4).filter s.parkBusy).map (fun d => execDieParkDone (BitVec.ofNat 2 d))
      ++ s.hbms.flatMap (fun t => t.2.groups.map (fun g => execPcSchedule t.1 g.pci [] [])
          ++ (t.2.banks.filter (fun b => b.2.st != .normal)).map (fun b => execCatchupRefresh t.1 (b.1 / 64) (b.1 % 64)))
      ++ (s.hbms.keysWhere (fun _ t => t.sparing.isSome)).map execRowSpareDone
      ++ (s.launches.keysWhere (fun _ l => l.st == .running && decide (l.next < l.nblk) && decide (l.frameN ≤ l.frames.length))).map execLaunchFramesExhausted
      ++ (if s.ckptHolds then [execCkptStepDone none] else [])
      ++ [fun s => ok s.drainBufs, fun s => ok s.drainPrefs, fun s => ok s.reportAll, fun s => ok s.releaseHost])

/-- The event does something now. -/
def State.enabled (s : State) (e : Instr) : Bool :=
  match exec e s with
  | .next t => t != s
  | .fault _ => false
  | .refused _ => false

/-- The cores that hold a block, or that one leaves in this core cycle. -/
def State.cycling (s : State) : List Nat :=
  (((s.blocks.filter (fun b => b.2.st == .resident)).map (fun b => b.2.pcore)) ++ s.cores.keysWhere (fun _ c => !c.leaving.isEmpty)).eraseDups
/-- The core of a list that has counted the fewest core cycles. -/
def State.slowest (s : State) : List Nat → Nat
  | [] => 0
  | [p] => p
  | p :: t => let q := s.slowest t; if (s.core p).cyc.toNat ≤ (s.core q).cyc.toNat then p else q

/-- The turn of an empty agenda: the first issue slot that can issue; then the first step of the memory system, of an engine, of the distributor or of a hub that does something; then the end of a core cycle. -/
def State.defaultTurn (s : State) : Turn :=
  match s.firstIssue with
  | some t => t
  | none =>
    match (s.memoryEvents ++ s.engineEvents ++ s.blockEvents).find? s.enabled with
    | some e => .event e
    | none =>
      if s.hubStep != s then .hub
      else .event (.staticCharge (s.slowest s.cycling))

end Sys2Proof.Machine
end

