-- ==== Sys2Proof/Machine/Step.lean ====
section
/-! DEFINITION. One step of the device: the turn that the agenda names, or the default turn (log entry 5). -/

namespace Sys2Proof.Machine

open Sys2Proof

/-- One turn: a choice point of an issue slot, an event, a change of memory outside the device, a peer's word of a party, a line that the host caches, or a decay of bits in it. -/
def stepTurn (t : Turn) (s : State) : Host.Outcome State Fault Refusal :=
  match t with
  | .issue p k =>
    match s.pick p k with
    | some x => exec x.unit x.atIssue
    | none => .next s
  | .event e => if isEvent e then exec e s else .next s
  | .hub => .next s.hubStep
  | .hostMem a b => .next (s.hostPoke a b)
  | .peerMem dev a b => .next (s.peerPoke dev a b)
  | .partyNews i p n => .next (s.hearParty i p n)
  | .hostLine line d => .next (s.hostCaches line d)
  | .upset level unit sec => .next (s.upsetSector level unit sec)

/-- One step. -/
def step (s : State) : Host.Outcome State Fault Refusal :=
  match s.agenda with
  | [] => stepTurn s.defaultTurn s
  | t :: rest => stepTurn t { s with agenda := rest }

/-- `s` with an instruction of `nbits` bits placed where the next step fetches (log entry 20). -/
def State.withFetchWord (s : State) (nbits w : Nat) : State := s.boot (tableBytes nbits w)

end Sys2Proof.Machine
end

