-- ==== Sys2Proof/WellFormed.lean ====
section
/-! DEFINITION. The instructions that a unit of words can hold: the operand checks that the decoder makes on the word alone (spec/03_encoding.md R28, R31, R37, R46, R47). Events are never in memory and are not well formed in this sense. -/

namespace Sys2Proof

/-- The row is an instruction, not an event: it has words. -/
def Instr.isInstr (i : Instr) : Bool := !(encode i).isEmpty

/-- The order of the EXT word is legal for ARED (R291). -/
def aredOrderOk : Option AMod → Bool
  | some m => m.order == .rlx || m.order == .rel
  | none => true

/-- The operands of the instruction pass every check that depends on its words alone. -/
def Instr.operandsOk : Instr → Bool
  | .mtsr _ x _ => x.writable
  | .setmodeF _ f v => !modeTooWide f v && !modeReserved f v
  | .ldD _ d _ _ _ => !odd2 d
  | .ldQ _ d _ _ _ => !odd4 d
  | .lds _ d _ wd => !badGrp wd d
  | .st _ d _ _ wd => !badGrp wd d
  | .sts _ d _ wd => !badGrp wd d
  | .strc _ d _ _ wd c => !badGrp wd d && nz c
  | .draftD _ d _ _ _ => !odd2 d
  | .aadd _ _ a _ _ => !odd2 a
  | .amin _ _ a _ _ => !odd2 a
  | .amax _ _ a _ _ => !odd2 a
  | .aand _ _ a _ _ => !odd2 a
  | .aor _ _ a _ _ => !odd2 a
  | .axor _ _ a _ _ => !odd2 a
  | .axchg _ _ a _ _ => !odd2 a
  | .acas _ _ a _ _ _ => !odd2 a
  | .afadd _ _ a _ _ => !odd2 a
  | .ared _ _ a _ e => !odd2 a && aredOrderOk e
  | .accld _ d _ _ => !odd4 d
  | .eqpush _ _ a => !a.getLsbD 0
  | _ => true

/-- The instruction is one that a unit of words can hold. -/
def Instr.wf (i : Instr) : Bool := i.isInstr && i.operandsOk

/-- The instruction is one that a unit of words can hold. -/
abbrev WellFormed (i : Instr) : Prop := i.wf = true

end Sys2Proof
end

