-- ==== Sys2Proof/Safety.lean ====
section
/-! DEFINITION. The terms in which claims about the machine are stated: when an instruction may execute at once, what a step leaves as it was, and the invariants of the machine. -/

namespace Sys2Proof.Machine

open Sys2Proof

/-! ## When a unit executes at once -/

/-- No scalar register that the operands read holds a future of a pending job (R154). -/
def State.futuresDone (s : State) (ops : List Opd) : Prop :=
  ∀ o ∈ ops, ∀ r, o.readS = some r → (s.fw.sregs.get SRegVal.zero r).fut = true → s.futurePending s.fw.block ((s.fw.s r).setWidth 32) = false

/-- Every register operand lies below its declared count and every group base keeps its rule (R28, R47). -/
def State.inRange (s : State) (ops : List Opd) : Prop := ∀ o ∈ ops, o.odd = false ∧ o.beyond s.fl = false

/-- The issuing slot starts the unit, its registers are in range, and nothing that it reads is owed by a job. -/
def State.mayIssue (s : State) (ops : List Opd) : Prop := s.fs.phase = 0 ∧ s.inRange ops ∧ s.futuresDone ops

/-- The check windows of the issuing wave are closed (R112). -/
def State.windowsClosed (s : State) : Prop := s.windowOpen s.focus.wave false = false ∧ s.windowOpen s.focus.wave true = false

/-- The state in which a unit sees its operands: a resolved future that it reads has been observed (R109, R121, R154). -/
def State.seen (s : State) (ops : List Opd) : State := if (s.futuresOf ops).isEmpty then s else s.observe

/-- A unit that waits for closed check windows runs now: its slot holds it at a later phase, or it may issue and the windows are closed (R112). -/
def State.runsNow (s : State) (ops : List Opd) : Prop := s.fs.phase ≠ 0 ∨ (s.mayIssue ops ∧ s.windowsClosed)

/-! ## What a step leaves as it was -/

/-- The scalar, vector and predicate registers of every wave, but for those named of the issuing wave. -/
def keepsRegs (s t : State) (ks kv kp : List Nat) : Prop :=
  ∀ w r, (¬(w = s.focus.wave ∧ r ∈ ks) → (t.wave w).sregs.get SRegVal.zero r = (s.wave w).sregs.get SRegVal.zero r) ∧
    (¬(w = s.focus.wave ∧ r ∈ kv) → (t.wave w).v r = (s.wave w).v r) ∧
    (¬(w = s.focus.wave ∧ r ∈ kp) → (t.wave w).p r = (s.wave w).p r)

/-- The trap registers, the handler level and the exposed counts of every wave (R80, R246). -/
def keepsTraps (s t : State) : Prop :=
  ∀ w, (t.wave w).handler = (s.wave w).handler ∧ (t.wave w).xpc = (s.wave w).xpc ∧ (t.wave w).xmode = (s.wave w).xmode ∧
    (t.wave w).xcause = (s.wave w).xcause ∧ (t.wave w).xlanes = (s.wave w).xlanes ∧ (t.wave w).xaddr = (s.wave w).xaddr ∧
    (t.wave w).gexposed = (s.wave w).gexposed ∧ (t.wave w).exited = (s.wave w).exited

/-- Every byte of device memory at its home, of host memory, of the memory of peers and of scratch. -/
def keepsMemory (s t : State) : Prop :=
  (∀ a, t.homeByte a = s.homeByte a) ∧ (∀ a, t.hostMem.byte a = s.hostMem.byte a) ∧
    (∀ d a, Mem.byte (t.peerMem.get [] d) a = Mem.byte (s.peerMem.get [] d) a) ∧
    (∀ b a, (t.block b).scratch.byte a = (s.block b).scratch.byte a)

/-- The limits, tables, accumulators, feeds, tile predicates, streams, sketch state, sequencer queue and barriers of every block. -/
def keepsBlocks (s t : State) : Prop :=
  ∀ b, (t.block b).lim = (s.block b).lim ∧ (t.block b).tabs = (s.block b).tabs ∧ (t.block b).accs = (s.block b).accs ∧
    (t.block b).feeds = (s.block b).feeds ∧ (t.block b).preds = (s.block b).preds ∧ (t.block b).streams = (s.block b).streams ∧
    (t.block b).sketch = (s.block b).sketch ∧ (t.block b).seqq = (s.block b).seqq ∧ (t.block b).bars = (s.block b).bars ∧
    (t.block b).st = (s.block b).st

/-- Management registers, jobs, shapes, expert queues, collectives and draft cells. -/
def keepsDevice (s t : State) : Prop :=
  t.mgmt = s.mgmt ∧ t.jobs = s.jobs ∧ t.shapes = s.shapes ∧ t.eqs = s.eqs ∧ t.insts = s.insts ∧ t.cells = s.cells

/-- Every launch, but for its statistics counters (R95). -/
def keepsLaunches (s t : State) : Prop := ∀ l, { t.launch l with stats := [] } = { s.launch l with stats := [] }

/-- Nothing but registers: traps, memory, blocks, launches and the rest of the device. -/
def keepsRest (s t : State) : Prop := keepsTraps s t ∧ keepsMemory s t ∧ keepsBlocks s t ∧ keepsDevice s t ∧ keepsLaunches s t

/-- The path goes on at the next unit with its lanes and MODE, when no join record waits for it (R65, R67). -/
def goesOn (s t : State) (i : Instr) : Prop :=
  s.fw.spill = [] → t.fs.path = { s.fs.path with pc := s.pc + BitVec.ofNat 64 (4 * i.words) }

/-- The path goes on at an address with its lanes and MODE, when no join record waits for it. -/
def goesTo (s t : State) (pc : DWord) : Prop := s.fw.spill = [] → t.fs.path = { s.fs.path with pc := pc }

/-! ## Invariants -/

/-- Every memory of the device and of the outside world, and the scratch of every block, is in its canonical form: addresses strictly rise, and no entry is what an unlisted byte reads as. -/
def State.memoriesWf (s : State) : Prop :=
  s.mem.wf = true ∧ s.array.wf = true ∧ s.hostMem.wf = true ∧ (∀ d, Mem.wf (s.peerMem.get [] d) = true) ∧ ∀ b, (s.block b).scratch.wf = true

/-- A MODE that holds no reserved value (R37). -/
def modeLegal (m : Word) : Prop := mET m ≤ 12 ∧ mRND m ≤ 4 ∧ mGUSE m ≤ 1

/-- The MODE that an entry of a spill stack holds is legal. -/
def Spill.modeLegal : Spill → Prop
  | .path p => Machine.modeLegal p.mode
  | .join _ _ _ m _ => Machine.modeLegal m
/-- Every MODE that a wave holds is legal: that of each path, of each entry of its spill stack, XMODE, and that of its open region. -/
def Wave.modesLegal (w : Wave) : Prop :=
  modeLegal w.slotA.path.mode ∧ modeLegal w.slotB.path.mode ∧ (∀ x ∈ w.spill, x.modeLegal) ∧ modeLegal w.xmode ∧ ∀ r, w.region = some r → modeLegal r.mode
/-- The unit that a PC slot holds is one that words decode to, or a row of the opcode table that no word encodes (R33, R47). -/
def Slot.unitDecoded (sl : Slot) : Prop := ∀ i, sl.held = some i → WellFormed i ∨ i.words = 0
/-- Every unit that a PC slot holds has been decoded: none holds an instruction that no word encodes. -/
def State.unitsDecoded (s : State) : Prop := ∀ e ∈ s.waves, e.2.slotA.unitDecoded ∧ e.2.slotB.unitDecoded

/-- Every MODE of the machine is legal, those that accesses keep of the paths that issued them among them (R37). -/
def State.modesLegal (s : State) : Prop := (∀ e ∈ s.waves, e.2.modesLegal) ∧ ∀ x ∈ s.accs, modeLegal x.2.path.mode

end Sys2Proof.Machine
end

