-- ==== Sys2Proof/Certificates/Slice0/Obligations.lean ====
section
/-! DEFINITION. The claims about the machine, for the provers: each formalises rules of the spec, or follows from the sections it cites. -/

namespace Sys2Proof.Claims
end Sys2Proof.Claims

open Sys2Proof Sys2Proof.Machine Sys2Proof.Claims

/-! ## Scalar instructions -/

namespace Sys2Proof.Claims

/-- A scalar row: its operands, its destination, and the value that the rules give it. -/
structure ScalarRow where
  ops : List Opd
  d : BitVec 6
  x : SRegVal

/-- A row of the form `OP sd, sa, sb` (R228). -/
def row3 (s : State) (d a b : BitVec 6) (f : DWord → DWord → DWord) : ScalarRow := ⟨opsS3 d a b, d, ⟨f (s.sreg a) (s.sreg b), false⟩⟩
/-- A row of the form `OP sd, sa, imm` (R228); the immediate is sign-extended, that of a shift is not (R30). -/
def rowI (s : State) (d a : BitVec 6) (i : DWord) (f : DWord → DWord → DWord) : ScalarRow := ⟨opsS2 d a, d, ⟨f (s.sreg a) i, false⟩⟩
/-- A row of the form `OP sd, sa`. -/
def row2 (s : State) (d a : BitVec 6) (f : DWord → DWord) : ScalarRow := ⟨opsS2 d a, d, ⟨f (s.sreg a), false⟩⟩

/-- What the rules R228 to R234 give each scalar instruction. -/
def scalarRow (s : State) : Instr → Option ScalarRow
  | .sadd _ d a b => some (row3 s d a b (fun x y => x + y))
  | .ssub _ d a b => some (row3 s d a b (fun x y => x - y))
  | .smul _ d a b => some (row3 s d a b (fun x y => x * y))
  | .smulh _ d a b => some (row3 s d a b (fun x y => BitVec.ofInt 64 (x.toInt * y.toInt / 2 ^ 64)))
  | .smulhU _ d a b => some (row3 s d a b (fun x y => BitVec.ofNat 64 (x.toNat * y.toNat / 2 ^ 64)))
  | .sdiv _ d a b => some (row3 s d a b (fun x y => if y = 0 then -1 else BitVec.ofInt 64 (x.toInt.tdiv y.toInt)))
  | .sdivU _ d a b => some (row3 s d a b (fun x y => if y = 0 then -1 else BitVec.ofNat 64 (x.toNat / y.toNat)))
  | .srem _ d a b => some (row3 s d a b (fun x y => if y = 0 then x else BitVec.ofInt 64 (x.toInt.tmod y.toInt)))
  | .sremU _ d a b => some (row3 s d a b (fun x y => if y = 0 then x else BitVec.ofNat 64 (x.toNat % y.toNat)))
  | .sand _ d a b => some (row3 s d a b (fun x y => x &&& y))
  | .sor _ d a b => some (row3 s d a b (fun x y => x ||| y))
  | .sxor _ d a b => some (row3 s d a b (fun x y => x ^^^ y))
  | .sshl _ d a b => some (row3 s d a b (fun x y => if 64 ≤ y.toNat then 0 else x <<< y.toNat))
  | .sshr _ d a b => some (row3 s d a b (fun x y => if 64 ≤ y.toNat then 0 else x >>> y.toNat))
  | .ssra _ d a b => some (row3 s d a b (fun x y => x.sshiftRight (min y.toNat 63)))
  | .smin _ d a b => some (row3 s d a b (fun x y => if x.toInt ≤ y.toInt then x else y))
  | .sminU _ d a b => some (row3 s d a b (fun x y => if x.toNat ≤ y.toNat then x else y))
  | .smax _ d a b => some (row3 s d a b (fun x y => if x.toInt ≤ y.toInt then y else x))
  | .smaxU _ d a b => some (row3 s d a b (fun x y => if x.toNat ≤ y.toNat then y else x))
  | .sclz _ d a => some (row2 s d a (fun x => BitVec.ofNat 64 (clzN 64 x.toNat)))
  | .spopc _ d a => some (row2 s d a (fun x => BitVec.ofNat 64 (popN 64 x.toNat)))
  | .saddImm _ d a i => some (rowI s d a (i.ext false 64) (fun x y => x + y))
  | .ssubImm _ d a i => some (rowI s d a (i.ext false 64) (fun x y => x - y))
  | .smulImm _ d a i => some (rowI s d a (i.ext false 64) (fun x y => x * y))
  | .smulhImm _ d a i => some (rowI s d a (i.ext false 64) (fun x y => BitVec.ofInt 64 (x.toInt * y.toInt / 2 ^ 64)))
  | .smulhUImm _ d a i => some (rowI s d a (i.ext false 64) (fun x y => BitVec.ofNat 64 (x.toNat * y.toNat / 2 ^ 64)))
  | .sdivImm _ d a i => some (rowI s d a (i.ext false 64) (fun x y => if y = 0 then -1 else BitVec.ofInt 64 (x.toInt.tdiv y.toInt)))
  | .sdivUImm _ d a i => some (rowI s d a (i.ext false 64) (fun x y => if y = 0 then -1 else BitVec.ofNat 64 (x.toNat / y.toNat)))
  | .sremImm _ d a i => some (rowI s d a (i.ext false 64) (fun x y => if y = 0 then x else BitVec.ofInt 64 (x.toInt.tmod y.toInt)))
  | .sremUImm _ d a i => some (rowI s d a (i.ext false 64) (fun x y => if y = 0 then x else BitVec.ofNat 64 (x.toNat % y.toNat)))
  | .sandImm _ d a i => some (rowI s d a (i.ext false 64) (fun x y => x &&& y))
  | .sorImm _ d a i => some (rowI s d a (i.ext false 64) (fun x y => x ||| y))
  | .sxorImm _ d a i => some (rowI s d a (i.ext false 64) (fun x y => x ^^^ y))
  | .sshlImm _ d a i => some (rowI s d a (i.ext true 64) (fun x y => if 64 ≤ y.toNat then 0 else x <<< y.toNat))
  | .sshrImm _ d a i => some (rowI s d a (i.ext true 64) (fun x y => if 64 ≤ y.toNat then 0 else x >>> y.toNat))
  | .ssraImm _ d a i => some (rowI s d a (i.ext true 64) (fun x y => x.sshiftRight (min y.toNat 63)))
  | .sminImm _ d a i => some (rowI s d a (i.ext false 64) (fun x y => if x.toInt ≤ y.toInt then x else y))
  | .sminUImm _ d a i => some (rowI s d a (i.ext false 64) (fun x y => if x.toNat ≤ y.toNat then x else y))
  | .smaxImm _ d a i => some (rowI s d a (i.ext false 64) (fun x y => if x.toInt ≤ y.toInt then y else x))
  | .smaxUImm _ d a i => some (rowI s d a (i.ext false 64) (fun x y => if x.toNat ≤ y.toNat then y else x))
  | .scmp _ c d a b => some (row3 s d a b (fun x y => if condS c x y then 1 else 0))
  | .scmpImm _ c d a i => some (rowI s d a (i.ext false 64) (fun x y => if condS c x y then 1 else 0))
  | .ssel _ d a b => some ⟨[.sr 1 d.toNat, .sd 2 a.toNat, .sr 3 b.toNat], d, ⟨if s.sreg d ≠ 0 then s.sreg a else s.sreg b, false⟩⟩
  | .smov _ d a => some ⟨[.sd 1 d.toNat, .sd 2 a.toNat], d, s.fw.sregs.get SRegVal.zero a.toNat⟩
  | .sli _ d i => some ⟨[.sd 1 d.toNat], d, ⟨i.ext 64, false⟩⟩
  | .sliHi _ d i => some ⟨[.sd 1 d.toNat], d, ⟨i.ext 32 ++ (s.sreg d).extractLsb' 0 32, false⟩⟩
  | .slea _ d a b sh => some (row3 s d a b (fun x y => x + (y <<< sh.toNat)))
  | .sbfx _ d a pos n => some (row2 s d a (fun x => BitVec.ofNat 64 (fieldVal x pos n)))
  | .sbfxS _ d a pos n => some (row2 s d a (fun x => fieldSigned x pos n))
  | .sbfi _ d a pos n => some ⟨opsS2 d a, d, ⟨fieldInsert (s.sreg d) (s.sreg a) pos n, false⟩⟩
  | _ => none

end Sys2Proof.Claims

/-- R84, R154, R228 to R234: SADD, SSUB, SMUL, SMULH, SMULH.u, SDIV, SDIV.u, SREM, SREM.u, SAND, SOR, SXOR, SSHL, SSHR, SSRA, SMIN, SMIN.u, SMAX and SMAX.u with a register or an immediate, SCLZ, SPOPC, SCMP with a register or an immediate, SSEL, SMOV, SLI, SLI.hi, SLEA, SBFX, SBFX.s and SBFI. Each executes as soon as its registers are in range and owed by no job, writes its value to the destination, and leaves every other register, every trap register, every block's state and every byte of memory as it was. SSEL waits for a job that owes its old destination or sb and for none that owes sa (R231). That SBFI and SLI.hi run while the old value of their destination is a future owed by a job, and that SSEL waits for these two, is the model's own choice of log entry 32. -/
def Obligations.ScalarInstructionsWriteTheirResults : Prop :=
  ∀ (s : State) (i : Instr) (r : ScalarRow), scalarRow s i = some r → s.mayIssue r.ops →
    ∃ t, exec i s = .next t ∧ (t.wave s.focus.wave).sregs.get SRegVal.zero r.d.toNat = r.x ∧
      keepsRegs s t [r.d.toNat] [] [] ∧ keepsRest s t ∧ goesOn s t i

/-! ## Vector instructions -/

namespace Sys2Proof.Claims

/-- A vector row: its operands, the element types it accepts, its destination group, the word that it gives a lane of register `k` of the group, and the guess bits of register `k`. -/
structure VectorRow where
  ops : List Opd
  ets : BitVec 16
  d : Nat
  n : Nat
  val : Nat → Nat → Word
  guess : Nat → Mask

/-- The active lanes of a group take the values of a row; the other lanes keep theirs (R252). -/
def VectorRow.holds (r : VectorRow) (s t : State) : Prop :=
  ∀ k, k < r.n → (t.wave s.focus.wave).v (r.d + k) = ((s.wave s.focus.wave).v (r.d + k)).merge s.active (r.val k) (r.guess k)
/-- The registers of a row's group. -/
def VectorRow.group (r : VectorRow) : List Nat := (List.range r.n).map (r.d + ·)

/-- A row that works element by element: `f` gives element `i` of lane `l` (R82, R252). -/
def elemRow (s : State) (ops : List Opd) (ets : BitVec 16) (d : BitVec 8) (g : Mask) (f : Nat → Nat → Nat) : VectorRow :=
  ⟨ops, ets, d.toNat, etRegs (mET s.mode), fun k l => BitVec.ofNat 32 (mkLane (mET s.mode) (f l) / 2 ^ (32 * k)), fun _ => g⟩
/-- A row that moves whole lanes. -/
def laneRow (s : State) (ops : List Opd) (ets : BitVec 16) (d : BitVec 8) (g : Mask) (f : Nat → Nat) : VectorRow :=
  ⟨ops, ets, d.toNat, etRegs (mET s.mode), fun k l => BitVec.ofNat 32 (f l / 2 ^ (32 * k)), fun _ => g⟩

/-- `VOP vd, va, b` (R252, R253): x from va, y from the second source, z the old value; `z` says that the row reads it. -/
def vbinRow (s : State) (row : BRow) (ets : BitVec 16) (z : Bool) (d a : BitVec 8) (b : Opnd) (f : Nat → Nat → Nat → Nat) : VectorRow :=
  elemRow s (s.opsVB d a b) ets d
    (s.guessOf ([s.guessV (mET s.mode) a.toNat, s.guessB (mET s.mode) b] ++ (if z then [s.guessV (mET s.mode) d.toNat] else [])))
    (fun l i => f (elem (mET s.mode) (s.lane (mET s.mode) a.toNat l) i) (elem (mET s.mode) (s.srcB row (mET s.mode) b l) i)
      (elem (mET s.mode) (s.lane (mET s.mode) d.toNat l) i))
/-- `VOP vd, va`. -/
def vunRow (s : State) (ets : BitVec 16) (d a : BitVec 8) (f : Nat → Nat) : VectorRow :=
  elemRow s (s.opsV2 d a) ets d (s.guessOf [s.guessV (mET s.mode) a.toNat])
    (fun l i => f (elem (mET s.mode) (s.lane (mET s.mode) a.toNat l) i))
/-- A bit-field row: each register of the operand on its own (R259). -/
def vfieldRow (s : State) (z : Bool) (d a : BitVec 8) (b : BitVec 6) (f : DWord → Word → Word → Word) : VectorRow :=
  ⟨s.opsV2 d a ++ [.sr 3 b.toNat], 0xFFFF, d.toNat, etRegs (mET s.mode),
    fun k l => f (s.sreg b) ((s.vreg (a.toNat + k)).lanes.get l) ((s.vreg (d.toNat + k)).lanes.get l),
    fun _ => s.guessOf ([s.guessV (mET s.mode) a.toNat] ++ (if z then [s.guessV (mET s.mode) d.toNat] else []))⟩

/-- What the rules R254, R255 and R257 to R259 give each integer, bitwise and moving row. -/
def vectorRow (s : State) (i : Instr) : Option VectorRow :=
  let et := mET s.mode
  let I := ival et
  let res (x : Int) : Nat := (intRes et (mSAT s.mode) x).1
  match i with
  | .vadd _ d a b => some (vbinRow s .int etsInt false d a b (fun x y _ => res (I x + I y)))
  | .vsub _ d a b => some (vbinRow s .int etsInt false d a b (fun x y _ => res (I x - I y)))
  | .vmul _ d a b => some (vbinRow s .int etsInt false d a b (fun x y _ => res (I x * I y)))
  | .vmulh _ d a b => some (vbinRow s .int etsInt false d a b (fun x y _ => wrapInt (etW et) (I x * I y / (2 ^ etW et : Nat))))
  | .vmad _ d a b => some (vbinRow s .int etsInt true d a b (fun x y z => res (I x * I y + I z)))
  | .vand _ d a b => some (vbinRow s .int etsAll false d a b (fun x y _ => x &&& y))
  | .vor _ d a b => some (vbinRow s .int etsAll false d a b (fun x y _ => x ||| y))
  | .vxor _ d a b => some (vbinRow s .int etsAll false d a b (fun x y _ => x ^^^ y))
  | .vshl _ d a b => some (vbinRow s .shift etsAll false d a b (fun x y _ => if etW et ≤ y then 0 else x * 2 ^ y % 2 ^ etW et))
  | .vshr _ d a b => some (vbinRow s .shift etsAll false d a b (fun x y _ => if etW et ≤ y then 0 else x / 2 ^ y))
  | .vsra _ d a b => some (vbinRow s .shift etsAll false d a b
      (fun x y _ => wrapInt (etW et) (intVal true (etW et) x / (2 ^ min y (etW et - 1) : Nat))))
  | .vmin _ d a b => some (vbinRow s .int etsInt false d a b (fun x y _ => if I x ≤ I y then x else y))
  | .vmax _ d a b => some (vbinRow s .int etsInt false d a b (fun x y _ => if I x ≤ I y then y else x))
  | .vnot _ d a => some (vunRow s 0xFFFF d a (fun x => 2 ^ etW et - 1 - x))
  | .vabs _ d a => some (vunRow s etsInt d a (fun x => res (I x).natAbs))
  | .vneg _ d a => some (vunRow s etsInt d a (fun x => res (-(I x))))
  | .vmov _ d a => some (vunRow s 0xFFFF d a (fun x => x))
  | .vclz _ d a => some (vunRow s etsInt d a (fun x => leadZeros (etW et) x))
  | .vpopc _ d a => some (vunRow s etsInt d a (fun x => countOnes (etW et) x))
  | .vlane _ d => some (laneRow s [s.opV 1 d] 0xFFFF d s.guardGuess (fun l => l))
  | .vsel _ d a p =>
    some { laneRow s (s.opsV2 d a) 0xFFFF d 0 (fun l => if (s.preg p).bits.getLsbD l then s.lane et a.toNat l else s.lane et d.toNat l) with
      guess := fun k => ((s.preg p).bits &&& s.guessV et a.toNat) ||| (~~~(s.preg p).bits &&& (s.vreg (d.toNat + k)).guess)
        ||| (s.preg p).guess ||| s.guardGuess }
  | .vbcast _ d a => some (laneRow s [s.opV 1 d, .sr 2 a.toNat] 0xFFFF d s.guardGuess (fun _ => (s.sreg a).toNat))
  | .vbcastImm _ d i => some (laneRow s [s.opV 1 d] 0xFFFF d s.guardGuess (fun _ => (i.ext false 64).toNat))
  | .vbfx _ d a b => some (vfieldRow s false d a b (fun b x _ => BitVec.ofNat 32 (bitsOf x.toNat (vfPos b) (vfLen b))))
  | .vbfxS _ d a b => some (vfieldRow s false d a b (fun b x _ => BitVec.ofInt 32 (intVal true (vfLen b) (bitsOf x.toNat (vfPos b) (vfLen b)))))
  | .vbfi _ d a b => some (vfieldRow s true d a b (fun b x z => vfPut b x z))
  | _ => none

/-- What the rules R260, R262 to R264 give each float row and VCVT. -/
def floatRow (s : State) (i : Instr) : Option VectorRow :=
  let et := mET s.mode
  match i with
  | .vfadd _ d a b => some (vbinRow s .float etsFloat false d a b (fun x y z => (fop2 (fun r x y => .v (fvAdd r x y)) s.fmt s.mode x y z).1))
  | .vfsub _ d a b => some (vbinRow s .float etsFloat false d a b (fun x y z => (fop2 (fun r x y => .v (fvAdd r x (fvNeg y))) s.fmt s.mode x y z).1))
  | .vfmul _ d a b => some (vbinRow s .float etsFloat false d a b (fun x y z => (fop2 (fun _ x y => .v (fvMul x y)) s.fmt s.mode x y z).1))
  | .vfma _ d a b => some (vbinRow s .float etsFloat true d a b (fun x y z => (fmaElem s.fmt s.mode x y z).1))
  | .vfmin _ d a b => some (vbinRow s .float etsFloat false d a b (fun x y z => (fop2 (fun _ x y => .v (fvMin x y)) s.fmt s.mode x y z).1))
  | .vfmax _ d a b => some (vbinRow s .float etsFloat false d a b (fun x y z => (fop2 (fun _ x y => .v (fvMax x y)) s.fmt s.mode x y z).1))
  | .vfdiv _ d a b => some (vbinRow s .float etsFloat false d a b (fun x y z => (fop2 (fun _ x y => fvDiv x y) s.fmt s.mode x y z).1))
  | .vscale _ d a b => some (vbinRow s .scale etsFloat false d a b (fun x y z => (scaleElem s.fmt s.mode x y z).1))
  | .vfsqrt _ d a => some (vunRow s etsFloat d a (fun x => (funElem none sqrtVal s et x).1))
  | .vfrcp _ d a => some (vunRow s etsFloat d a (fun x => (funElem none rcpVal s et x).1))
  | .vfrsq _ d a => some (vunRow s etsFloat d a (fun x => (funElem (some 0) rsqVal s et x).1))
  | .vfexp2 _ d a => some (vunRow s etsFloat d a (fun x => (funElem (some 1) exp2Val s et x).1))
  | .vflog2 _ d a => some (vunRow s etsFloat d a (fun x => (funElem (some 2) log2Val s et x).1))
  | .vfclass _ d a => some (vunRow s etsFloat d a (fun x => 2 ^ classBit s.fmt x))
  | .vcvt _ d a e =>
    let dst := e.code.toNat
    let n := cvtCount et dst
    some ⟨[.v 1 d.toNat (groupRegs dst n), .v 2 a.toNat (groupRegs et n)], 0xFFFF, d.toNat, groupRegs dst n,
      fun k l => BitVec.ofNat 32 (packReg dst k (fun j => (cvtElem s.mode et dst (s.cvtRead et a.toNat l j) (s.cvtO4 a.toNat l j)).1)),
      fun _ => s.guessOf [s.groupGuess a.toNat (groupRegs et n)]⟩
  | _ => none

/-- What the rules R266 to R268 give each cross-lane row. -/
def crossRow (s : State) (i : Instr) : Option VectorRow :=
  let et := mET s.mode
  let moved (a : BitVec 8) (f : Nat → Nat) (g : Mask) : Mask := maskOf (fun l => (s.guessV et a.toNat).getLsbD (f l)) ||| g ||| s.guardGuess
  let red (o : RedOp) (d a : BitVec 8) (n : Nat → Nat) (f : (ElemRes → ElemRes → ElemRes) → (Nat → ElemRes) → Nat → ElemRes) : VectorRow :=
    elemRow s (s.opsV2 d a) etsCross d (maskOf (fun l => s.guessBelow et a.toNat (n l)) ||| s.guardGuess)
      (fun l i => (f (redStep et s.mode o) (s.redInput et a.toNat o i) l).1)
  match i with
  | .vperm _ d a b => some (laneRow s [s.opV 1 d, s.opV 2 a, s.opV 3 b] 0xFFFF d
      (moved a (fun l => ((s.vreg b.toNat).lanes.get l).toNat % 8) (s.guessV et b.toNat))
      (fun l => s.lane et a.toNat (((s.vreg b.toNat).lanes.get l).toNat % 8)))
  | .vshuf _ d a p => some (laneRow s (s.opsV2 d a) 0xFFFF d (moved a (shufLane p) 0) (fun l => s.lane et a.toNat (shufLane p l)))
  | .vrot _ d a n => some (laneRow s (s.opsV2 d a) 0xFFFF d (moved a (fun l => (l + 8 - n.toNat) % 8) 0)
      (fun l => s.lane et a.toNat ((l + 8 - n.toNat) % 8)))
  | .vtbl _ d a b => some (elemRow s [s.opV 1 d, s.opV 2 a, s.opV 3 b] etsCross d (s.tableGuess et a.toNat b.toNat ||| s.guardGuess)
      (fun l i => s.tableElem et a.toNat (elem et (s.lane et b.toNat l) i)))
  | .vred _ d a o => some (red o d a (fun _ => 8) (fun f x _ => redTree f x))
  | .vscan _ d a o => some (red o d a (fun l => l + 1) (fun f x l => scanTree f x l))
  | .vscanX _ d a o => some (red o d a (fun l => l) (fun f x l => if l = 0 then plain (redIdentity et o) else scanTree f x (l - 1)))
  | _ => none

/-- A vector row executes: when its operands are in range and owed by no job, MODE.ET is one that it accepts, and no guessed guard lane traps, the active lanes of its destination take its values, and nothing else but the statistics counters and the PC changes. -/
def VectorRow.executes (r : VectorRow) (i : Instr) (s : State) : Prop :=
  s.mayIssue r.ops → r.ets.getLsbD (mET s.mode) = true → s.guardTrap = none →
    ∃ t, exec i s = .next t ∧ r.holds s t ∧ keepsRegs s t [] r.group [] ∧ keepsRest s t ∧ goesOn s t i

end Sys2Proof.Claims

/-- R252 to R255 and R257 to R259: VADD, VSUB, VMUL, VMULH, VMAD, VAND, VOR, VXOR, VSHL, VSHR, VSRA, VMIN, VMAX, VNOT, VABS, VNEG, VMOV, VCLZ, VPOPC, VLANE, VSEL, VBCAST of a scalar and of an immediate, VBFX, VBFX.s and VBFI execute and write their values to the active lanes alone. A VSEL word with a bit of C[7:3] set is illegal, subcode 3. -/
def Obligations.VectorIntegerInstructionsWriteActiveLanes : Prop :=
  (∀ (s : State) (i : Instr) (r : VectorRow), vectorRow s i = some r → r.executes i s) ∧
  ∀ w : Word, fMaj w = 0x2E → 8 ≤ (fC w).toNat → decodeUnit w 0 0 = .error ⟨1, 3, w, 0⟩

/-- R252, R253, R260 and R262 to R264: VFADD, VFSUB, VFMUL, VFMA, VFMIN, VFMAX, VFDIV, VSCALE, VFSQRT, VFRCP, VFRSQ, VFEXP2, VFLOG2, VFCLASS and VCVT execute and write their values to the active lanes alone. The last place of VFRSQ, VFEXP2 and VFLOG2 is a free value (log entry 6). It rests on the model's own choices of log entries 6 and 57. -/
def Obligations.VectorFloatInstructionsWriteActiveLanes : Prop :=
  ∀ (s : State) (i : Instr) (r : VectorRow), floatRow s i = some r → r.executes i s

/-- R265 to R268: VPERM, VSHUF, VROT, VTBL, VRED, VSCAN and VSCAN.x execute and write their values to the active lanes alone. It rests on the model's own choices of log entry 56. -/
def Obligations.CrossLaneInstructionsWriteActiveLanes : Prop :=
  ∀ (s : State) (i : Instr) (r : VectorRow), crossRow s i = some r → r.executes i s

namespace Sys2Proof.Claims

/-- A row that writes a predicate: operands, accepted element types, destination, bits and guess bits. -/
structure PredRow where
  ops : List Opd
  ets : BitVec 16
  p : BitVec 3
  bits : Mask
  guess : Mask

/-- What the rules R256, R261 and R270 give each row that writes a predicate. -/
def predRow (s : State) (i : Instr) : Option PredRow :=
  let et := mET s.mode
  let cmp (p : BitVec 3) (a b : BitVec 8) (ets : BitVec 16) (f : Nat → Nat → Bool) : PredRow :=
    ⟨[s.opV 2 a, s.opV 3 b], ets, p,
      maskOf (fun l => (List.range (etN et)).all (fun i => f (elem et (s.lane et a.toNat l) i) (elem et (s.lane et b.toNat l) i))),
      s.guessOf [s.guessV et a.toNat, s.guessV et b.toNat]⟩
  match i with
  | .vcmp _ c p a b => some (cmp p a b etsInt (fun x y => condV c (ival et x) (ival et y)))
  | .vfcmp _ c p a b => some (cmp p a b etsFloat (fun x y => condF c (s.fmt.read (mFTZ s.mode) x).1 (s.fmt.read (mFTZ s.mode) y).1))
  | .pand _ d a b => some ⟨[], 0xFFFF, d, (s.preg a).bits &&& (s.preg b).bits, (s.preg a).guess ||| (s.preg b).guess ||| s.guardGuess⟩
  | .por _ d a b => some ⟨[], 0xFFFF, d, (s.preg a).bits ||| (s.preg b).bits, (s.preg a).guess ||| (s.preg b).guess ||| s.guardGuess⟩
  | .pxor _ d a b => some ⟨[], 0xFFFF, d, (s.preg a).bits ^^^ (s.preg b).bits, (s.preg a).guess ||| (s.preg b).guess ||| s.guardGuess⟩
  | .pnot _ d a => some ⟨[], 0xFFFF, d, ~~~(s.preg a).bits, (s.preg a).guess ||| s.guardGuess⟩
  | .pmov _ d a => some ⟨[], 0xFFFF, d, (s.preg a).bits, (s.preg a).guess ||| s.guardGuess⟩
  | .pset _ d k => some ⟨[], 0xFFFF, d, k, s.guardGuess⟩
  | _ => none

/-- A row that reads a predicate into a scalar: accepted element types, destination, predicate and value (R269, R271). -/
structure TestRow where
  ets : BitVec 16
  d : BitVec 6
  a : BitVec 3
  x : DWord

/-- What the rules R269 and R271 give PTEST, VBALLOT and VFIRST. -/
def testRow (s : State) (i : Instr) : Option TestRow :=
  let m (a : BitVec 3) : Mask := (s.preg a).bits &&& s.active
  match i with
  | .ptest _ d a .mask => some ⟨0xFFFF, d, a, (m a).setWidth 64⟩
  | .ptest _ d a .any => some ⟨0xFFFF, d, a, if m a = 0 then 0 else 1⟩
  | .ptest _ d a .all => some ⟨0xFFFF, d, a, if m a = s.active then 1 else 0⟩
  | .ptest _ d a .count => some ⟨0xFFFF, d, a, BitVec.ofNat 64 (countLanes (m a))⟩
  | .vballot _ d a => some ⟨etsCross, d, a, (m a).setWidth 64⟩
  | .vfirst _ d a => some ⟨etsCross, d, a, BitVec.ofNat 64 (lowLane (m a))⟩
  | _ => none

end Sys2Proof.Claims

/-- R256, R261 and R270: VCMP, VFCMP, PAND, POR, PXOR, PNOT, PMOV and PSET write the active lanes of their predicate, bits and guess bits, and nothing else but the PC changes. -/
def Obligations.ComparesAndPredicatesWriteActiveLanes : Prop :=
  ∀ (s : State) (i : Instr) (r : PredRow), predRow s i = some r → s.mayIssue r.ops → r.ets.getLsbD (mET s.mode) = true → s.guardTrap = none →
    ∃ t, exec i s = .next t ∧ (t.wave s.focus.wave).p r.p.toNat = ((s.wave s.focus.wave).p r.p.toNat).merge s.active r.bits r.guess ∧
      keepsRegs s t [] [] [r.p.toNat] ∧ keepsRest s t ∧ goesOn s t i

/-- R269 and R271: PTEST, VBALLOT and VFIRST read the active lanes of a predicate into a scalar when no lane of the path is guessed in the predicate or in the guard. It rests on the model's own choices of log entry 40. -/
def Obligations.PredicateReadsWriteTheirScalar : Prop :=
  ∀ (s : State) (i : Instr) (r : TestRow), testRow s i = some r → s.mayIssue [.sd 1 r.d.toNat] → r.ets.getLsbD (mET s.mode) = true →
    ((s.preg r.a).guess ||| s.guardGuess) &&& s.mask = 0 →
    ∃ t, exec i s = .next t ∧ (t.wave s.focus.wave).sregs.get SRegVal.zero r.d.toNat = ⟨r.x, false⟩ ∧
      keepsRegs s t [r.d.toNat] [] [] ∧ keepsRest s t ∧ goesOn s t i

/-! ## Control flow and the system instructions -/

/-- R235, R236: NOP goes on at the next word; BR goes to its target; CALL goes to its target and s63 takes the address of the next word; BRS goes to its target when its condition holds and on when it does not; RET goes to the address in its register when that is a multiple of 4. Targets count words from the instruction word. -/
def Obligations.BranchesGoToTheirTargets : Prop :=
  ∀ s : State, s.fs.phase = 0 →
    (∀ S, ∃ t, exec (.nop S) s = .next t ∧ keepsRegs s t [] [] [] ∧ keepsRest s t ∧ goesOn s t (.nop S)) ∧
    (∀ S off, ∃ t, exec (.br S off) s = .next t ∧ keepsRegs s t [] [] [] ∧ keepsRest s t ∧ goesTo s t (s.pc + off.signExtend 64 * 4)) ∧
    (∀ S off, s.mayIssue [.sd 1 63] → ∃ t, exec (.call S off) s = .next t ∧ (t.wave s.focus.wave).sregs.get SRegVal.zero 63 = ⟨s.pc + 4, false⟩ ∧
      keepsRegs s t [63] [] [] ∧ keepsRest s t ∧ goesTo s t (s.pc + off.signExtend 64 * 4)) ∧
    (∀ S c a off, s.mayIssue [.sr 1 a.toNat] → ∃ t, exec (.brs S c a off) s = .next t ∧ keepsRegs s t [] [] [] ∧ keepsRest s t ∧
      goesTo s t (if condB c (s.sreg a) then s.pc + off.signExtend 64 * 4 else s.pc + 4)) ∧
    (∀ S a, s.mayIssue [.sr 1 a.toNat] → (s.sreg a).toNat % 4 = 0 → ∃ t, exec (.ret S a) s = .next t ∧ keepsRegs s t [] [] [] ∧ keepsRest s t ∧
      goesTo s t (s.sreg a))

namespace Sys2Proof.Claims

/-- The paths of the issuing wave in a later state: that of the slot that issued, that of the other slot, and the spill stack (R65). -/
def pathsOf (s t : State) : Option PathRec × Option PathRec × List Spill :=
  let v := t.wave s.focus.wave
  let live (sb : Bool) : Option PathRec := if (v.slot sb).live then some (v.slot sb).path else none
  (live s.focus.slotB, live (!s.focus.slotB), v.spill)
/-- The join PC of a path's record on a spill stack. -/
def joinPcAt (l : List Spill) (jr : Option Nat) : Option DWord :=
  match jr with
  | some k => (match l[k]? with | some (.join pc _ _ _ _) => some pc | _ => none)
  | none => none
/-- The issuing path is live, and the rest of its wave is settled by R67: the other path is not at its join, or the other slot is free and may not load the top entry of the spill stack. -/
def settledElse (s : State) : Prop :=
  s.fs.live = true ∧
  match (pathsOf s s).2.1 with
  | some z => (∀ k, z.jr = some k → k < s.fw.spill.length) ∧ joinPcAt s.fw.spill z.jr ≠ some z.pc
  | none =>
    match s.fw.spill.getLast? with
    | some (.path _) => False
    | some (.join _ e a _ _) => a ≠ e
    | none => True
/-- In a wave that is otherwise settled the path goes on at an address that is not its join, and the rest of the wave stays. -/
def movesTo (s t : State) (pc : DWord) : Prop :=
  settledElse s → joinPcAt s.fw.spill s.fs.path.jr ≠ some pc → pathsOf s t = (some { s.fs.path with pc := pc }, (pathsOf s s).2.1, s.fw.spill)
/-- Split and R67 (R66): `xs` are the new paths, target 1 first. Target 1 takes the issuing slot and target 2 the other one where it is free; the others go on the spill stack above the join record, the last one lowest. A path that takes a slot and starts at the join arrives there at once, and the slot takes the next path. -/
def splitPaths (old : List Spill) (other : Option PathRec) (record : Mask → Spill) (join : DWord) (xs : List PathRec) :
    Option PathRec × Option PathRec × List Spill :=
  let onto (a : Mask) (l : List PathRec) : List Spill := old ++ record a :: l.reverse.map Spill.path
  match other, xs with
  | none, x :: y :: more =>
    if x.pc = join then (more.head?, some y, onto x.mask (more.drop 1))
    else if y.pc = join then (some x, more.head?, onto y.mask (more.drop 1))
    else (some x, some y, onto 0 more)
  | some z, x :: more =>
    if x.pc = join then (more.head?, some z, onto x.mask (more.drop 1)) else (some x, some z, onto 0 more)
  | none, _ => (none, none, old)
  | some z, [] => (none, some z, old)
/-- The path of the issuing slot splits (R66, R67): the new paths run under its MODE and the new join record. The traps, and with no more than eight spilled entries the rest of the machine, stay as they were. -/
def splitsOver (s t : State) (targets : List (DWord × Mask)) (join : DWord) : Prop :=
  let other := (pathsOf s s).2.1
  let record (a : Mask) : Spill := .join join s.mask a s.mode s.fs.path.jr
  pathsOf s t = splitPaths s.fw.spill other record join (targets.map (fun x => ⟨x.1, x.2, s.mode, some s.fw.spill.length⟩)) ∧
    keepsRegs s t [] [] [] ∧ keepsTraps s t ∧
    (s.fw.spill.length + targets.length ≤ 8 + (if other.isNone then 1 else 0) → keepsRest s t)
/-- A split may happen now: the check windows are closed, no parked result of the slot is outstanding, the rest of the wave is settled, and the spill stack has room (R66). -/
def splitsNow (s : State) (n : Nat) : Prop :=
  s.windowsClosed ∧ s.outstanding s.focus.wave s.focus.slotB = false ∧ settledElse s ∧
    s.fw.spill.length + n ≤ s.fl.spillD + (if (pathsOf s s).2.1.isNone then 1 else 0)

end Sys2Proof.Claims

/-- R66, R67, R227, R237: BRV with no lane taken goes on at the next word; with every lane taken it goes to its target; with some lanes taken the path splits: the lanes not taken go on in the issuing slot, and the lanes taken start in the other slot, or on the spill stack where that slot is live. Targets and join count words from the BRV word. A target at the join arrives at once; with both there, and the join of the outer record elsewhere, the path goes on whole at the join. That a split waits for closed check windows and for parked results, and that the issuing slot loads first, is the model's own choice of log entry 18. -/
def Obligations.BrvBranchesOrSplits : Prop :=
  ∀ (s : State) (S n : Bool) (p : BitVec 3) (off join : BitVec 16), s.fs.phase = 0 →
    ((s.preg p).guess &&& s.mask = 0 ∨ s.strict = false) →
    let i : Instr := .brv S n p off join
    let taken : Mask := (if n then ~~~(s.preg p).bits else (s.preg p).bits) &&& s.mask
    let npc := s.pc + 8
    let tpc := s.pc + 4 + BitVec.signExtend 64 off * 4
    let jpc := s.pc + 4 + BitVec.signExtend 64 join * 4
    npc = s.nextPc i ∧ tpc = s.target i off ∧ jpc = s.target i join ∧
    (taken = 0 → ∃ t, exec i s = .next t ∧ keepsRegs s t [] [] [] ∧ keepsRest s t ∧ goesTo s t npc ∧ movesTo s t npc) ∧
    (taken ≠ 0 → taken = s.mask → ∃ t, exec i s = .next t ∧ keepsRegs s t [] [] [] ∧ keepsRest s t ∧ goesTo s t tpc ∧ movesTo s t tpc) ∧
    (taken ≠ 0 → taken ≠ s.mask → splitsNow s 2 → ¬(npc = jpc ∧ tpc = jpc) →
      ∃ t, exec i s = .next t ∧ splitsOver s t [(npc, s.mask &&& ~~~taken), (tpc, taken)] jpc) ∧
    (taken ≠ 0 → taken ≠ s.mask → splitsNow s 2 → npc = jpc → tpc = jpc → joinPcAt s.fw.spill s.fs.path.jr ≠ some jpc →
      ∃ t, exec i s = .next t ∧ pathsOf s t = (some { s.fs.path with pc := jpc }, (pathsOf s s).2.1, s.fw.spill) ∧
        keepsRegs s t [] [] [] ∧ keepsTraps s t)

/-- R66, R67, R68, R227, R238: JMPI reads its table entry for each lane. With one distinct target the path goes there; with several it splits over them in the order of their lowest lanes, and a target at the join arrives there as soon as it has a slot. The join of the table must be the one that the EXT offset gives, counted from the JMPI word. That a split waits for closed check windows and for parked results is the model's own choice of log entry 18. -/
def Obligations.JmpiGoesToItsTargets : Prop :=
  ∀ (s : State) (S : Bool) (vi : BitVec 8) (k : BitVec 3) (join : BitVec 16) (tab : Table), s.mayIssue [.v 1 vi.toNat 1] →
    ((s.vreg vi.toNat).guess &&& s.mask = 0 ∨ s.strict = false) → s.fb.tabs.get none k.toNat = some tab →
    let i : Instr := .jmpi S vi k join
    s.target i join = s.pc + 4 + BitVec.signExtend 64 join * 4 ∧
    (tab.join = s.target i join →
    (∀ l, l < 8 → s.mask.getLsbD l = true → ((s.vreg vi.toNat).lanes.get l).toNat < tab.targets.length) →
    let targets := groupTargets (fun l => tab.targets.getD ((s.vreg vi.toNat).lanes.get l).toNat 0) s.mask lanes8
    (∀ x, targets = [x] → ∃ t, exec i s = .next t ∧ keepsRegs s t [] [] [] ∧ keepsRest s t ∧ goesTo s t x.1 ∧ movesTo s t x.1) ∧
    (2 ≤ targets.length → splitsNow s targets.length → ∃ t, exec i s = .next t ∧ splitsOver s t targets tab.join))

/-- R39, R247, R248: SETMODE writes MODE but for FOM and bit 19 when the value is legal; SETMODE.f replaces one field; SETLIM writes a limit of the block, from a register or a zero-extended immediate. -/
def Obligations.ModeAndLimitsAreWritten : Prop :=
  ∀ s : State,
    (∀ S a, s.mayIssue [.sr 2 a.toNat] → modeIllegal ((s.sreg a).setWidth 32) = false →
      ∃ t, exec (.setmode S a) s = .next t ∧ keepsRegs s t [] [] [] ∧ keepsRest s t ∧
        (s.fw.spill = [] → t.fs.path = { s.fs.path with pc := s.pc + 4, mode := ((s.sreg a).setWidth 32 &&& 0xFFF3FFFF#32) ||| (s.mode &&& 0x000C0000#32) })) ∧
    (∀ S f v, s.fs.phase = 0 → Instr.wf (.setmodeF S f v) = true → ∃ t, exec (.setmodeF S f v) s = .next t ∧ keepsRegs s t [] [] [] ∧ keepsRest s t ∧
        (s.fw.spill = [] → t.fs.path =
          { s.fs.path with pc := s.pc + BitVec.ofNat 64 (4 * (Instr.setmodeF S f v).words), mode := modeField s.mode f (v.ext false 64).toNat })) ∧
    (∀ S n a, s.mayIssue [.sr 2 a.toNat] → ∃ t, exec (.setlim S n a) s = .next t ∧
        (t.block s.fw.block).lim.get 0 n.toNat = (s.sreg a).setWidth 32 ∧ keepsRegs s t [] [] [] ∧ keepsTraps s t ∧ keepsMemory s t ∧ keepsDevice s t ∧
        (∀ b k, ¬(b = s.fw.block ∧ k = n.toNat) → (t.block b).lim.get 0 k = (s.block b).lim.get 0 k) ∧ goesOn s t (.setlim S n a)) ∧
    (∀ S n i, s.fs.phase = 0 → ∃ t, exec (.setlimImm S n i) s = .next t ∧
        (t.block s.fw.block).lim.get 0 n.toNat = i.ext true 32 ∧ keepsRegs s t [] [] [] ∧ keepsTraps s t ∧ keepsMemory s t ∧ keepsDevice s t ∧
        (∀ b k, ¬(b = s.fw.block ∧ k = n.toNat) → (t.block b).lim.get 0 k = (s.block b).lim.get 0 k) ∧ goesOn s t (.setlimImm S n i))

namespace Sys2Proof.Claims

/-- The value of a special register (R246). -/
def specialValue (s : State) : SReg → DWord
  | .wave => BitVec.ofNat 64 s.fw.idx
  | .block => BitVec.ofNat 64 s.fb.idx
  | .lcore => BitVec.ofNat 64 s.fb.lcore
  | .pcore => BitVec.ofNat 64 s.fb.pcore
  | .ctx => BitVec.ofNat 64 s.fl.ctx
  | .sh n => (s.fl.sh.get 0 n.toNat).setWidth 64
  | .gexposed => s.fw.gexposed
  | .xpc => s.fw.xpc
  | .xmode => s.fw.xmode.setWidth 64
  | .xcause => s.fw.xcause
  | .xlanes => s.fw.xlanes.setWidth 64
  | .xaddr => s.fw.xaddr
  | .ecnt => s.pairSlot.val.setWidth 64
  | .estat => if s.pairSlot.esat then 1 else 0
  | .cyc => (s.core s.fb.pcore).cyc

/-- What MTSR leaves in the writable registers of the wave (R246): XCAUSE takes 32 bits, XLANES 8, and XMODE keeps FOM and bit 19. -/
def mtsrWrites (s t : State) (x : SReg) (v : DWord) : Prop :=
  match x with
  | .gexposed => t.fw.gexposed = v
  | .xpc => t.fw.xpc = v
  | .xmode => t.fw.xmode = (v.setWidth 32 &&& 0xFFF3FFFF#32) ||| (s.fw.xmode &&& 0x000C0000#32)
  | .xcause => t.fw.xcause = (v.setWidth 32).setWidth 64
  | .xlanes => t.fw.xlanes = v.setWidth 8
  | .xaddr => t.fw.xaddr = v
  | .estat => v.getLsbD 0 = true → t.pairSlot.esat = false
  | _ => False

end Sys2Proof.Claims

/-- R246: MFSR of a register other than ECNT and CYC writes its value at once; MFSR of ECNT and CYC issues a long-latency read of the value, due in its destination. It rests on the model's own choices of log entry 81. -/
def Obligations.MfsrReadsSpecialRegisters : Prop :=
  ∀ (s : State) (S : Bool) (d : BitVec 6) (x : SReg), s.mayIssue [.sd 1 d.toNat] →
    (x ≠ .ecnt → x ≠ .cyc → ∃ t, exec (.mfsr S d x) s = .next t ∧ (t.wave s.focus.wave).sregs.get SRegVal.zero d.toNat = ⟨specialValue s x, false⟩ ∧
      keepsRegs s t [d.toNat] [] [] ∧ keepsRest s t ∧ goesOn s t (.mfsr S d x)) ∧
    (x = .ecnt ∨ x = .cyc → ∃ t, exec (.mfsr S d x) s = .next t ∧ (t.acc s.seq).kind = .mfsr (specialValue s x) ∧ (t.acc s.seq).dst = d.toNat ∧
      (t.acc s.seq).wave = s.focus.wave ∧ (t.acc s.seq).fell = false ∧ keepsRegs s t [] [] [] ∧ keepsRest s t ∧ goesOn s t (.mfsr S d x))

/-- R37, R220, R246: with closed check windows, MTSR writes GEXPOSED and ESTAT in every mode, and the trap registers at handler level; XMODE takes no reserved value. -/
def Obligations.MtsrWritesSpecialRegisters : Prop :=
  ∀ (s : State) (S : Bool) (x : SReg) (a : BitVec 6), s.mayIssue [.sr 2 a.toNat] → s.windowsClosed → x.writable = true →
    (handlerReg x = true → s.fw.handler.isSome = true) → (x = .xmode → modeIllegal ((s.sreg a).setWidth 32) = false) →
    ∃ t, exec (.mtsr S x a) s = .next t ∧ mtsrWrites s t x (s.sreg a) ∧ keepsRegs s t [] [] [] ∧ keepsMemory s t ∧ keepsBlocks s t ∧
      keepsDevice s t ∧ goesOn s t (.mtsr S x a)

/-- R72, R73, R241, R242, R249: YIELD marks its slot; REGION below handler level opens a region at its own address when the wave is converged, and none when it is not; WAITC completes, and changes nothing but the PC, when its counter is at most the operand and, for the ST counter, no memory error is pending. -/
def Obligations.YieldRegionAndWaitcComplete : Prop :=
  ∀ s : State,
    (s.fs.phase = 0 →
      (∀ S, ∃ t, exec (.yield S) s = .next t ∧ (s.fw.spill = [] → t.fs.yielded = true) ∧ keepsRegs s t [] [] [] ∧ keepsRest s t ∧ goesOn s t (.yield S)) ∧
      (∀ S v r, s.mayIssue [.sr 1 v.toNat, .sr 2 r.toNat] → s.windowsClosed → s.fw.handler = none →
        ∃ t, exec (.region S v r) s = .next t ∧
          t.fw.region = (if s.converged then some ⟨s.pc, s.sreg v, (s.sreg r).setWidth 32, s.mode, s.mask⟩ else none) ∧
          keepsRegs s t [] [] [] ∧ keepsRest s t ∧ goesOn s t (.region S v r))) ∧
    ∀ (S : Bool) (p : Path), (p = .st → s.fw.pend = []) →
      (∀ n, s.mayIssue [.sr 2 n.toNat] → s.fb.counter p ≤ (s.sreg n).toNat →
        ∃ t, exec (.waitc S p n) s = .next t ∧ keepsRegs s t [] [] [] ∧ keepsRest s t ∧ goesOn s t (.waitc S p n)) ∧
      (∀ i, s.fs.phase = 0 → s.fb.counter p ≤ (i.ext true 64).toNat →
        ∃ t, exec (.waitcImm S p i) s = .next t ∧ keepsRegs s t [] [] [] ∧ keepsRest s t ∧ goesOn s t (.waitcImm S p i))

/-- R239: TABSET of a legal table, all of whose pages are mapped and readable, issues one access with one read of 8 bytes for each of its 1 + n entries, in ascending order from sa, and holds its slot. When the access is answered with no conflict and no error, and none of the entries that it returned is at fault, TABSET completes and the table holds those entries: the join address and then the n targets. It rests on the model's own choices of log entry 54. -/
def Obligations.TabsetRegistersItsTable : Prop :=
  ∀ (s : State) (S : Bool) (k : BitVec 3) (a b : BitVec 6),
    (s.mayIssue [.sr 2 a.toNat, .sr 3 b.toNat] → s.windowsClosed → (s.sreg a).toNat % 8 = 0 → 1 ≤ (s.sreg b).toNat → (s.sreg b).toNat ≤ 256 →
      canonical (s.sreg a) = true → canonical (s.sreg a + BitVec.ofNat 64 (8 * (s.sreg b).toNat)) = true →
      ∀ ps, s.tablePlaces (s.sreg a) ((s.sreg b).toNat + 1) = .ok ps →
        ∃ t, exec (.tabset S k a b) s = .next t ∧ t.fs.held = some (.tabset S k a b) ∧ t.fs.phase = 1 ∧ t.fs.wait = .accesses 1 [t.fs.ref] ∧
          (t.acc t.fs.ref).kind = .tab ∧ (t.acc t.fs.ref).wave = s.focus.wave ∧
          (t.acc t.fs.ref).pieces.map Piece.va = (List.range ((s.sreg b).toNat + 1)).map (fun i => s.sreg a + BitVec.ofNat 64 (8 * i)) ∧
          (t.acc t.fs.ref).pieces.map (fun p => (p.tgt, p.pa, p.n)) = ps.map (fun x => (x.2.tgt, x.2.pa, 8)) ∧
          keepsRegs s t [] [] [] ∧ keepsRest s t) ∧
    (s.fs.phase = 1 → (∀ p ∈ (s.acc s.fs.ref).pieces, p.conf = none ∧ p.err = none) →
      ∀ es, (s.acc s.fs.ref).pieces.map (fun p => BitVec.ofNat 64 (leNat p.val)) = es → (∀ e ∈ es, s.badEntry e = false) →
      ∃ t, exec (.tabset S k a b) s = .next t ∧ (t.block s.fw.block).tabs.get none k.toNat = some ⟨es.headD 0, es.drop 1⟩ ∧
        keepsRegs s t [] [] [] ∧ keepsTraps s t ∧ keepsMemory s t ∧ goesOn s t (.tabset S k a b))

/-- R33, R80, R243: with closed check windows and a handler, TRAP below handler level enters the handler: XCAUSE holds cause 0x30 with the code, XPC the next address, XMODE the MODE, XLANES the lanes, XADDR 0; the path runs at the handler's address with the same lanes and MODE 0 but for FOM. A TRAP behind a prefix does not decode. -/
def Obligations.TrapEntersTheHandler : Prop :=
  (∀ (s : State) (S : Bool) (code : BitVec 8), s.fs.phase = 0 → s.windowsClosed → s.fw.handler = none → s.fl.handler ≠ 0 →
    ∃ t, exec (.trap S code) s = .next t ∧ t.fw.handler = some s.focus.slotB ∧ t.fw.xcause = 0x30 + code.setWidth 64 * 256 ∧ t.fw.xpc = s.pc + 4 ∧
      t.fw.xmode = s.mode ∧ t.fw.xlanes = s.mask ∧ t.fw.xaddr = 0 ∧
      t.fs.path = { s.fs.path with pc := s.fl.kdesc + s.fl.handler, mode := s.mode &&& 0x40000 } ∧
      keepsRegs s t [] [] [] ∧ keepsMemory s t ∧ keepsBlocks s t ∧ keepsDevice s t) ∧
  ∀ w0 w1 w2 : Word, isPfx w0 = true → fMaj w1 = 0x18 → ∃ e, decodeUnit w0 w1 w2 = .error e

/-- R70, R244, R245: at handler level, with closed check windows, RTE with XPC a multiple of 4 leaves handler level and restores the PC and MODE from XPC and XMODE, and HALT ends the launch. -/
def Obligations.RteReturnsAndHaltEnds : Prop :=
  ∀ (s : State) (S : Bool), s.fs.phase = 0 → s.windowsClosed → s.fw.handler.isSome = true →
    (s.fw.xpc.toNat % 4 = 0 → ∃ t, exec (.rte S) s = .next t ∧ t.fw.handler = none ∧
      (s.fw.spill = [] → t.fs.path = { s.fs.path with pc := s.fw.xpc, mode := s.fw.xmode }) ∧
      keepsRegs s t [] [] [] ∧ keepsMemory s t ∧ keepsBlocks s t ∧ keepsDevice s t) ∧
    ∃ t, exec (.halt S) s = .next t ∧ (t.launch s.fb.launch).st = .ended

/-- R251: LAUNCH, with closed check windows and room, appends its record to the LAUNCH queue of the issuing context. It rests on the model's own choices of log entry 28. -/
def Obligations.LaunchQueuesItsRecord : Prop :=
  ∀ (s : State) (S : Bool) (a : BitVec 6), s.mayIssue [.sr 1 a.toNat] → s.windowsClosed → (s.mgmt.lauq.get [] s.fl.ctx).length < 256 →
    ∃ t, exec (.launch S a) s = .next t ∧
      t.mgmt.lauq.get [] s.fl.ctx = s.mgmt.lauq.get [] s.fl.ctx ++ [⟨s.sreg a, .launch s.fl.ctx, none, none, some s.fb.launch⟩] ∧
      keepsRegs s t [] [] [] ∧ keepsTraps s t ∧ keepsMemory s t ∧ keepsBlocks s t ∧ goesOn s t (.launch S a)

/-- R77, R79, R116, R250: BAR, BARW and GBAR, their release done and no error pending, record the arrival of their wave in the current generation and hold the slot until that generation is complete; the arrival is among those of the barrier unless it has completed the generation, and memory changes only where a GBAR of g0 in fixed order flushes its buffers. They leave a barrier that has completed: the wave has no arrival left at it, and pd tells in every lane whether the wave is the epilogue wave. BARA, its release done and no error pending, records the arrival of its wave in the current generation and goes on without waiting. -/
def Obligations.BarriersAreLeft : Prop :=
  (∀ (s : State) (i : Instr) (b : BarId) (pd : Option (BitVec 3)),
    ((∃ S k, i = .bar S k pd ∧ b = .blk k.toNat) ∨ (∃ S k, i = .barw S k pd ∧ b = .blk k.toNat) ∨ (∃ S k, i = .gbar S k pd ∧ b = .grp k.toNat)) →
    s.fs.phase = 2 → s.fw.pend = [] →
    let g := (s.bar s.fw.block b).gen
    ∃ t, exec i s = .next t ∧ t.fw.arrivedGen b = some g ∧ t.fw.region = none ∧ t.fs.held = some i ∧ t.fs.phase = 3 ∧ t.fs.ref = g ∧
      t.fs.wait = .barrier (barGlob b) (barNum b) g ∧
      ((t.bar s.fw.block b).gen = g + 1 ∨ ((t.bar s.fw.block b).gen = g ∧ s.focus.wave ∈ (t.bar s.fw.block b).arrivals)) ∧
      keepsRegs s t [] [] [] ∧ keepsTraps s t ∧ (b ≠ .grp 0 ∨ s.fl.fom = false → keepsMemory s t)) ∧
  (∀ (s : State) (i : Instr) (b : BarId) (pd : Option (BitVec 3)),
    ((∃ S k, i = .bar S k pd ∧ b = .blk k.toNat) ∨ (∃ S k, i = .barw S k pd ∧ b = .blk k.toNat) ∨ (∃ S k, i = .gbar S k pd ∧ b = .grp k.toNat)) →
    s.fs.phase = 3 →
    ∃ t, exec i s = .next t ∧ t.fw.arrivedGen b = none ∧ t.fw.sfr = s.fw.sfr + 1 ∧
      (∀ p, pd = some p → (t.wave s.focus.wave).p p.toNat =
        ((s.wave s.focus.wave).p p.toNat).merge 0xFF (allIf ((s.bar s.fw.block b).epilogue.contains (s.fs.ref, s.focus.wave))) 0) ∧
      keepsRegs s t [] [] (pd.toList.map BitVec.toNat) ∧ keepsTraps s t ∧ keepsMemory s t ∧ goesOn s t i) ∧
  ∀ (s : State) (S : Bool) (b : BitVec 4), s.fs.phase = 2 → s.fw.pend = [] →
    ∃ t, exec (.bara S b) s = .next t ∧ t.fw.arrivedGen (.blk b.toNat) = some (s.fb.bars.get Barrier.zero b.toNat).gen ∧ t.fw.region = none ∧
      keepsRegs s t [] [] [] ∧ keepsTraps s t ∧ keepsMemory s t ∧ goesOn s t (.bara S b)

/-- R69, R240: EXIT, its release done and every result of the wave returned, ends the wave: it runs no more, holds no path, no tag and no spilled entry. It rests on the model's own choices of log entry 58. -/
def Obligations.ExitEndsItsWave : Prop :=
  ∀ (s : State) (S : Bool), s.fs.phase = 3 →
    ∃ t, exec (.exit S) s = .next t ∧ t.fw.exited = true ∧ t.fw.slotA.live = false ∧ t.fw.slotB.live = false ∧ t.fw.tags = [] ∧ t.fw.spill = [] ∧
      keepsRegs s t [] [] []

/-! ## Guesses -/

namespace Sys2Proof.Claims

/-- The guess bits of registers go in the active lanes; their values stay (R139, R252). -/
def clearsGuess (s t : State) (rs : List Nat) : Prop :=
  ∀ r ∈ rs, (t.wave s.focus.wave).v r = ⟨((s.wave s.focus.wave).v r).lanes, ((s.wave s.focus.wave).v r).guess &&& ~~~s.active⟩
/-- No two tags cover one register (R142). -/
def apartTags (ts : List GTag) : Prop := ∀ x ∈ ts, ∀ y ∈ ts, ∀ r, x.covers r = true → y.covers r = true → x = y
/-- The registers of a tag's group. -/
def groupOfTag (x : GTag) : List Nat := (List.range x.regs).map (x.base + ·)
/-- The registers of an operand that no tag of the list covers. -/
def untagged (s : State) (ts : List GTag) (r : Nat) : List Nat := (s.regsOf r).filter (fun k => !ts.any (fun x => x.covers k))

end Sys2Proof.Claims

/-- R139, R140, R272 to R274: with no guessed guard lane, GTEST writes the guess bits of its operand, a pair under ET 12, to its predicate; GDEMAND replaces the guesses of the tags on its operand by their truths and MM notes a difference; GACCEPT lets the guesses stand; both free the tags and clear their guess bits; GCHECK tells the lanes in which every guess on its operand is right; on registers with no live tag, GDEMAND and GACCEPT clear the guess bits of the active lanes and GCHECK answers true; GSETTLE ends the epoch, writes the number of exposed cells and whether the settle succeeded, and frees every tag. It rests on the model's own choices of log entries 41 and 42. -/
def Obligations.GuessInstructionsSettleGuesses : Prop :=
  ∀ (s : State), s.guardTrap = none → let w := s.focus.wave
    (∀ S d a, s.mayIssue [s.opV 2 a] → ∃ t, exec (.gtest S d a) s = .next t ∧
      (t.wave w).p d.toNat = ((s.wave w).p d.toNat).merge s.active (s.guessV (mET s.mode) a.toNat) 0 ∧
      keepsRegs s t [] [] [d.toNat] ∧ keepsRest s t ∧ goesOn s t (.gtest S d a)) ∧
    (∀ S d, s.runsNow [s.opV 1 d] → s.tagsOn d.toNat = [] → ∃ t, exec (.gdemand S d) s = .next t ∧
      clearsGuess s t (s.regsOf d.toNat) ∧ keepsRegs s t [] (s.regsOf d.toNat) [] ∧ keepsRest s t ∧ goesOn s t (.gdemand S d)) ∧
    (∀ S d u, s.runsNow [s.opV 1 d] → s.tagsOn d.toNat ≠ [] → s.consume (s.tagsOn d.toNat) = .done u → apartTags u.fw.tags →
      let ts := u.tagsOn d.toNat
      ∃ t, exec (.gdemand S d) s = .next t ∧
        (∀ x ∈ ts, ∀ k, k < x.regs → (t.wave w).v (x.base + k) = ((s.wave w).v (x.base + k)).merge x.mask (x.truthAt k) 0) ∧
        clearsGuess s t (untagged s ts d.toNat) ∧ t.fw.mm = (s.fw.mm || ts.any (fun x => !x.right)) ∧ (∀ x ∈ ts, ∀ y ∈ t.fw.tags, y.acc ≠ x.acc) ∧
        keepsRegs s t [] (ts.flatMap groupOfTag ++ s.regsOf d.toNat) [] ∧ keepsRest s t ∧ goesOn s t (.gdemand S d)) ∧
    (∀ S d, s.runsNow [s.opV 1 d] → apartTags s.fw.tags →
      let ts := s.tagsOn d.toNat
      ∃ t, exec (.gaccept S d) s = .next t ∧
        (∀ x ∈ ts, ∀ k, k < x.regs → (t.wave w).v (x.base + k) =
          ((s.wave w).v (x.base + k)).merge x.mask (fun l => ((s.wave w).v (x.base + k)).lanes.get l) 0) ∧
        clearsGuess s t (untagged s ts d.toNat) ∧ t.fw.mm = s.fw.mm ∧ (∀ x ∈ ts, ∀ y ∈ t.fw.tags, y.acc ≠ x.acc) ∧
        keepsRegs s t [] (ts.flatMap groupOfTag ++ s.regsOf d.toNat) [] ∧ keepsRest s t ∧ goesOn s t (.gaccept S d)) ∧
    (∀ S p d, s.runsNow [s.opV 2 d] → s.tagsOn d.toNat = [] → ∃ t, exec (.gcheck S p d) s = .next t ∧
      (t.wave w).p p.toNat = ((s.wave w).p p.toNat).merge s.active 0xFF 0 ∧ keepsRegs s t [] [] [p.toNat] ∧ keepsRest s t ∧ goesOn s t (.gcheck S p d)) ∧
    (∀ S p d u, s.runsNow [s.opV 2 d] → s.tagsOn d.toNat ≠ [] → s.consume (s.tagsOn d.toNat) = .done u →
      ∃ t, exec (.gcheck S p d) s = .next t ∧
        (t.wave w).p p.toNat = ((s.wave w).p p.toNat).merge s.active (u.rightLanesOf d.toNat (u.tagsOn d.toNat)) 0 ∧
        t.fw.tags = u.fw.tags ∧ keepsRegs s t [] [] [p.toNat] ∧ keepsRest s t ∧ goesOn s t (.gcheck S p d)) ∧
    (∀ S d p u, s.runsNow [.sd 1 d.toNat] → s.consume s.fw.tags = .done u →
      let good := !u.fw.mm && u.fw.allRight
      let exposed := if good then 0 else (u.cells.filter (fun c => c.linked && u.owns w c && c.observed)).length
      ∃ t, exec (.gsettle S d p) s = .next t ∧
        (t.wave w).sregs.get SRegVal.zero d.toNat = ⟨BitVec.ofNat 64 exposed, false⟩ ∧
        (t.wave w).p p.toNat = ⟨allIf good, 0⟩ ∧ t.fw.epoch = false ∧ t.fw.mm = false ∧ t.fw.tags = [] ∧
        (∀ r, r ≠ d.toNat → (t.wave w).sregs.get SRegVal.zero r = (s.wave w).sregs.get SRegVal.zero r) ∧
        (∀ r, ((t.wave w).v r).lanes = ((s.wave w).v r).lanes ∧ ((t.wave w).v r).guess = if good then 0 else ((s.wave w).v r).guess) ∧
        goesOn s t (.gsettle S d p))

/-! ## Memory instructions: what they ask for and when they complete -/

namespace Sys2Proof.Claims

/-- What a piece of an access asks of its home: lane, first byte, address, place, length, the bytes to write and whether it is a linked draft. -/
def asked (p : Piece) : Nat × Nat × DWord × Target × Nat × Nat × List (Option Byte) × Bool := (p.lane, p.off, p.va, p.tgt, p.pa, p.n, p.data, p.linked)

/-- Access `a` of a state is a request of a kind by the issuing slot, for a destination of registers in lanes, with pieces. -/
def requested (s t : State) (a : Nat) (k : AKind) (dst regs : Nat) (lanes : Mask) (ps : List Piece) : Prop :=
  t.accs.has a = true ∧ (t.acc a).kind = k ∧ (t.acc a).wave = s.focus.wave ∧ (t.acc a).slotB = s.focus.slotB ∧ (t.acc a).dst = dst ∧
    (t.acc a).regs = regs ∧ (t.acc a).lanes = lanes ∧ (t.acc a).pieces.map asked = ps.map asked

/-- What the issue of an access leaves: traps, every memory, blocks, the device and launches. -/
def issuesOnly (s t : State) (i : Instr) : Prop := keepsTraps s t ∧ keepsMemory s t ∧ keepsBlocks s t ∧ keepsDevice s t ∧ keepsLaunches s t ∧ goesOn s t i

/-- The registers of a group from `d`. -/
def groupOfRegs (d n : Nat) : List Nat := (List.range n).map (d + ·)

/-- Pad lanes that are active take 0 with their guess bits clear (R58, R279). -/
def padsZeroed (s t : State) (d n : Nat) : Prop :=
  ∀ k, k < n → (t.wave s.focus.wave).v (d + k) = ((s.wave s.focus.wave).v (d + k)).merge (s.active &&& s.padLanes) (fun _ => 0) 0

/-- A vector load: width, sign extension, destination, offsets, base and limit register (R279). -/
structure LoadForm where
  wd : Width
  sign : Bool
  d : Nat
  m : BitVec 8
  n : BitVec 5
  k : BitVec 3

def loadForm : Instr → Option LoadForm
  | .ldB _ _ d m n k => some ⟨.b, false, d.toNat, m, n, k⟩
  | .ldBS _ d m n k => some ⟨.b, true, d.toNat, m, n, k⟩
  | .ldH _ _ d m n k => some ⟨.h, false, d.toNat, m, n, k⟩
  | .ldHS _ d m n k => some ⟨.h, true, d.toNat, m, n, k⟩
  | .ldW _ d m n k => some ⟨.w, false, d.toNat, m, n, k⟩
  | .ldD _ d m n k => some ⟨.d, false, d.toNat, m, n, k⟩
  | .ldQ _ d m n k => some ⟨.q, false, d.toNat, m, n, k⟩
  | _ => none

def LoadForm.ops (f : LoadForm) : List Opd := [.v 1 f.d f.wd.regs, .v 2 f.m.toNat 1, .sr 3 f.n.toNat]

end Sys2Proof.Claims

/-- R275 to R279: LD.b, LD.bs, LD.h, LD.hs, LD.w, LD.d and LD.q. With room in the LD counter, no guessed operand in strict mode and every touched lane passing its checks, the load issues one request for its touched lanes at `sN` plus the lane's offset, with the limit of its limit register, and goes on; pad lanes take 0; nothing else changes until data returns. -/
def Obligations.LoadsIssueTheirRequests : Prop :=
  ∀ (s : State) (i : Instr) (f : LoadForm) (ps : List (Nat × Place)), loadForm i = some f → s.mayIssue f.ops → s.fb.counter .ld < 4095 →
    (s.strict = true → s.guardGuess &&& s.touched = 0 ∧ (s.vreg f.m.toNat).guess &&& s.touched = 0) →
    s.checkLanes s.touched (s.vaOf f.n f.m) f.wd.bytes .read 1 anywhere 0 none = .ok ps →
    ∃ t, exec i s = .next t ∧
      (s.touched ≠ 0 → requested s t (s.seen f.ops).seq (.ld f.wd f.sign) f.d f.wd.regs s.touched (piecesOf ps (s.vaOf f.n f.m) f.wd.bytes noData) ∧
        (t.acc (s.seen f.ops).seq).limit = limitOf (s.fb.lim.get 0 f.k.toNat)) ∧
      padsZeroed s t f.d f.wd.regs ∧ keepsRegs s t [] (groupOfRegs f.d f.wd.regs) [] ∧ issuesOnly s t i

/-- R113, R115, R281, R284: LDS and STS, their lanes aligned, inside the block's scratch and free of other claims. LDS asks for the bytes that scratch holds; STS writes the bytes of each touched lane at its offset, the highest lane standing where several write one byte, and leaves every other byte of scratch. It rests on the model's own choices of log entries 44 and 45. -/
def Obligations.ScratchAccessesReadAndWrite : Prop :=
  ∀ (s : State) (d m : BitVec 8) (wd : Width), s.fb.counter .sc < 4095 → (s.strict = true → s.guardGuess &&& s.touched = 0) →
    (∀ S, s.mayIssue [.v 1 d.toNat wd.regs, .v 2 m.toNat 1] → (s.vreg m.toNat).guess &&& s.touched = 0 →
      s.checkScratch s.touched (s.offOf m) wd.bytes false = none →
      ∃ t, exec (.lds S d m wd) s = .next t ∧
        (s.touched ≠ 0 → (t.acc s.seq).kind = .lds wd ∧ (t.acc s.seq).dst = d.toNat ∧ (t.acc s.seq).lanes = s.touched ∧
          ∀ l, l < 8 → s.touched.getLsbD l = true → (t.acc s.seq).laneBytes l = s.fb.scratch.bytes (s.offOf m l) wd.bytes) ∧
        padsZeroed s t d.toNat wd.regs ∧ keepsRegs s t [] (groupOfRegs d.toNat wd.regs) [] ∧ issuesOnly s t (.lds S d m wd)) ∧
    (∀ S, s.mayIssue [.v 1 d.toNat wd.regs, .v 2 m.toNat 1] → s.windowsClosed → s.fb.scratch.wf = true → (s.vreg m.toNat).guess &&& s.touched = 0 →
      s.groupGuess d.toNat wd.regs &&& s.touched = 0 → s.checkScratch s.touched (s.offOf m) wd.bytes true = none →
      ∃ t, exec (.sts S d m wd) s = .next t ∧
        (∀ l k, l < 8 → s.touched.getLsbD l = true → k < wd.bytes →
          (∀ h, h < 8 → l < h → s.touched.getLsbD h = true → ¬(s.offOf m h ≤ s.offOf m l + k ∧ s.offOf m l + k < s.offOf m h + wd.bytes)) →
          (t.block s.fw.block).scratch.byte (s.offOf m l + k) = (s.groupBytes d.toNat wd.regs wd.bytes l).getD k 0) ∧
        (∀ b a, (b = s.fw.block → ∀ l, l < 8 → s.touched.getLsbD l = true → ¬(s.offOf m l ≤ a ∧ a < s.offOf m l + wd.bytes)) →
          (t.block b).scratch.byte a = (s.block b).scratch.byte a) ∧
        (∀ a, t.homeByte a = s.homeByte a) ∧ (∀ a, t.hostMem.byte a = s.hostMem.byte a) ∧
        keepsRegs s t [] [] [] ∧ keepsTraps s t ∧ keepsBlocks s t ∧ keepsDevice s t ∧ keepsLaunches s t ∧ goesOn s t (.sts S d m wd))

namespace Sys2Proof.Claims

def scalarLoad : Instr → Option (Width × BitVec 6 × BitVec 6 × BitVec 8)
  | .sldD _ d a o => some (.d, d, a, o)
  | .sldW _ d a o => some (.w, d, a, o)
  | _ => none
def scalarStore : Instr → Option (Width × BitVec 6 × BitVec 6 × BitVec 8)
  | .sstD _ d a o => some (.d, d, a, o)
  | .sstW _ d a o => some (.w, d, a, o)
  | _ => none

end Sys2Proof.Claims

/-- R275, R282: SLD.d and SLD.w issue one read at `sA` plus the scaled offset into their scalar destination; SST.d and SST.w issue one write there of the low bytes of their scalar. They issue when the address passes its checks, and change no register and no memory at issue. -/
def Obligations.ScalarAccessesIssueTheirRequests : Prop :=
  ∀ (s : State) (i : Instr) (wd : Width) (d a : BitVec 6) (o : BitVec 8) (ps : List (Nat × Place)),
    (scalarLoad i = some (wd, d, a, o) → s.mayIssue [.sd 1 d.toNat, .sr 2 a.toNat] → s.fb.counter .ld < 4095 →
      s.checkLanes 1 (fun _ => s.scalarVa a o wd) wd.bytes .read 3 anywhere 0 (some s.mask) = .ok ps →
      ∃ t, exec i s = .next t ∧
        requested s t (s.seen [.sd 1 d.toNat, .sr 2 a.toNat]).seq (.sld wd) d.toNat 1 1 (piecesOf ps (fun _ => s.scalarVa a o wd) wd.bytes noData) ∧
        keepsRegs s t [] [] [] ∧ issuesOnly s t i) ∧
    (scalarStore i = some (wd, d, a, o) → s.mayIssue [.sr 1 d.toNat, .sr 2 a.toNat] → s.fb.counter .st < 4095 →
      s.checkLanes 1 (fun _ => s.scalarVa a o wd) wd.bytes .write 3 anywhere 0 (some s.mask) = .ok ps →
      ∃ t, exec i s = .next t ∧
        requested s t (s.seen [.sr 1 d.toNat, .sr 2 a.toNat]).seq .sst 0 0 1
          (piecesOf ps (fun _ => s.scalarVa a o wd) wd.bytes (fun _ => allBytes (leBytes (s.sreg d).toNat wd.bytes))) ∧
        keepsRegs s t [] [] [] ∧ issuesOnly s t i)

/-- R120, R149, R283, R285: ST and STRC with no guessed operand issue one request for their touched lanes, of the bytes of each lane of the source group; where several lanes write one byte only the highest lane's is written. ST in speculate mode with guessed lanes marks them as linked drafts and its slot holds it until their homes have answered; it completes when they have. It rests on the model's own choices of log entries 28 and 38. -/
def Obligations.StoresIssueTheirRequests : Prop :=
  ∀ (s : State) (d m : BitVec 8) (n : BitVec 5) (wd : Width) (ps : List (Nat × Place)),
    let ops : List Opd := [.v 1 d.toNat wd.regs, .v 2 m.toNat 1, .sr 3 n.toNat]
    let va := s.vaOf n m
    let data := piecesOf ps va wd.bytes (s.storeData d.toNat wd)
    let guessed := ((s.vreg m.toNat).guess ||| s.groupGuess d.toNat wd.regs) &&& s.touched
    (s.mayIssue ops → s.fb.counter .st < 4095 → (s.strict = true → s.guardGuess &&& s.touched = 0) → guessed = 0 →
      s.checkLanes s.touched va wd.bytes .write 1 anywhere 0 none = .ok ps →
      (∀ S, ∃ t, exec (.st S d m n wd) s = .next t ∧ (s.touched ≠ 0 → requested s t (s.seen ops).seq .st 0 0 s.touched (highestStands data)) ∧
        keepsRegs s t [] [] [] ∧ issuesOnly s t (.st S d m n wd)) ∧
      (∀ S c, ∃ t, exec (.strc S d m n wd c) s = .next t ∧
        (s.touched ≠ 0 → requested s t (s.seen ops).seq (.strc c.toNat) 0 0 s.touched (highestStands data)) ∧
        keepsRegs s t [] [] [] ∧ issuesOnly s t (.strc S d m n wd c))) ∧
    (s.mayIssue ops → s.fb.counter .st < 4095 → s.windowsClosed → s.strict = false → guessed ≠ 0 →
      s.checkLanes s.touched va wd.bytes .write 1 (fun l p => guessed.getLsbD l && p.tgt != .device) 4 none = .ok ps →
      ∀ S, ∃ t, exec (.st S d m n wd) s = .next t ∧
        requested s t (s.seen ops).seq .st 0 0 s.touched (highestStands (markLinked guessed data)) ∧
        t.fs.held = some (.st S d m n wd) ∧ t.fs.phase = 1 ∧ t.fs.path = s.fs.path ∧ keepsRegs s t [] [] [] ∧ keepsMemory s t) ∧
    (s.fs.phase = 1 → (s.acc s.fs.ref).noCell = false → ∀ S, ∃ t, exec (.st S d m n wd) s = .next t ∧
      keepsRegs s t [] [] [] ∧ keepsRest s t ∧ goesOn s t (.st S d m n wd))

namespace Sys2Proof.Claims

def prefForm : Instr → Option (PrefLevel × BitVec 8 × BitVec 5)
  | .prefL1 _ m n => some (.l1, m, n)
  | .prefL2 _ m n => some (.l2, m, n)
  | .prefMsc _ m n => some (.msc, m, n)
  | _ => none

/-- No class conflict stops an access of the issuing wave to a piece: its page is shared, or private to the die of the core, or read-only and read (R107). -/
def classAllows (s : State) (p : Piece) (wr : Bool) : Prop :=
  p.tgt = .device → (s.lookup (s.clusterOf s.fb.pcore) s.fl.ctx p.va).conflicts (coreDie s.fb.pcore) wr = false

/-- The line of a piece is held at the level that PREF names: the core's L1; the L2 slice of its own die or the RDC of the core's die; the memory-side cache. -/
def heldAt (t : State) (core asid : Nat) (lv : PrefLevel) (p : Piece) : Prop :=
  match lv with
  | .l1 => ((t.core core).lineAt asid p.va).isSome = true
  | .l2 => (t.l2.any (fun x => x.1 == lineOf p.pa) || t.rdc.any (fun r => r.die == coreDie core && r.pline == lineOf p.pa)) = true
  | .msc => (t.mscOf (lineOf p.pa)).isSome = true

end Sys2Proof.Claims

/-- R286: PREF never traps. It completes whatever its lanes meet, and changes no register and, when no L1 holds ARED partials and no page of a lane changes its class, no memory; where one lane passes its checks, its page keeps its class, the MSC's table permits it, the array does not hold its line back, an L1 may copy its line, its region directory has room and the array has not lost its line, that line is then held at the level it names; where the array holds the line back, the core keeps the prefetch. It rests on the model's own choices of log entry 50. -/
def Obligations.PrefetchesFillTheirLevel : Prop :=
  ∀ (s : State) (i : Instr) (lv : PrefLevel) (m : BitVec 8) (n : BitVec 5), prefForm i = some (lv, m, n) →
    s.mayIssue [.v 2 m.toNat 1, .sr 3 n.toNat] →
    let ps := s.prefLanes (s.vaOf n m) m
    let u := (s.seen [.v 2 m.toNat 1, .sr 3 n.toNat]).lookups (ps.map Piece.va)
    ∃ t, exec i s = .next t ∧ keepsRegs s t [] [] [] ∧ keepsTraps s t ∧ keepsBlocks s t ∧ goesOn s t i ∧
      ((∀ c l w, l ∈ (s.core c).l1 → w ∈ l.words → w.2.st ≠ .u) → (∀ p ∈ ps, classAllows u p false) → keepsMemory s t) ∧
      (∀ p, ps = [p] → p.tgt = .device → s.prefSkips p.pa = false → s.mscDenies s.fl.ctx p.pa .read = false →
        (u.prefWaits lv p.pa = true → ∃ q ∈ (t.core s.fb.pcore).prefs, q = ⟨lv, s.fl.ctx, p.va⟩) ∧
        (u.prefWaits lv p.pa = false → classAllows u p false → (lv = .l1 → s.caches p = true) →
          (lv = .l2 → (s.regions.get [] (dieOf p.pa)).length < regionCap) →
          (lv = .msc → (s.mscOf (lineOf p.pa)).isSome = true ∨ ∀ x ∈ lineSecs (lineOf p.pa), s.sectorBad x = false ∧ s.lost.contains x = false) →
          heldAt t s.fb.pcore (s.ctx s.fl.ctx).asid lv p))

namespace Sys2Proof.Claims

def draftForm : Instr → Option (Width × BitVec 8 × BitVec 8 × BitVec 5 × BitVec 3)
  | .draftW _ _ d m n p => some (.w, d, m, n, p)
  | .draftD _ d m n p => some (.d, d, m, n, p)
  | _ => none

end Sys2Proof.Claims

/-- R144 to R147, R287, R288: with closed check windows and every lane passing its checks, DRAFT.w and DRAFT.d, INK and ERASE issue one request for their touched lanes; INK goes on; DRAFT and ERASE hold their slot until every home has answered, and then write to their predicate the lanes that obtained or freed their cell: a pad lane reads 0 for DRAFT and 1 for ERASE, and guess bits are clear. It rests on the model's own choices of log entry 28. -/
def Obligations.DraftsAreAskedAndAnswered : Prop :=
  ∀ (s : State),
    (∀ i wd d m n p ps, draftForm i = some (wd, d, m, n, p) →
      s.mayIssue [.v 1 d.toNat wd.regs, .v 2 m.toNat 1, .sr 3 n.toNat] → s.windowsClosed → s.fb.counter .st < 4095 →
      (s.strict = true → s.guardGuess &&& s.touched = 0) → ((s.vreg m.toNat).guess ||| s.groupGuess d.toNat wd.regs) &&& s.touched = 0 → s.touched ≠ 0 →
      s.checkLanes s.touched (s.vaOf n m) wd.bytes .draft 1 (fun _ p => p.tgt != .device) 4 none = .ok ps →
      let a := (s.seen [.v 1 d.toNat wd.regs, .v 2 m.toNat 1, .sr 3 n.toNat]).seq
      ∃ t, exec i s = .next t ∧ requested s t a (.draft p.toNat) 0 0 s.active
          (highestStands (piecesOf ps (s.vaOf n m) wd.bytes (s.storeData d.toNat wd))) ∧
        t.fs.held = some i ∧ t.fs.phase = 1 ∧ t.fs.ref = a ∧ keepsRegs s t [] [] [] ∧ keepsMemory s t) ∧
    (∀ i wd d m n p, draftForm i = some (wd, d, m, n, p) → s.fs.phase = 1 → (s.acc s.fs.ref).noCell = false →
      ∃ t, exec i s = .next t ∧ (t.wave s.focus.wave).p p.toNat =
          ((s.wave s.focus.wave).p p.toNat).merge (s.acc s.fs.ref).lanes (s.acc s.fs.ref).okLanes 0 ∧
        keepsRegs s t [] [] [p.toNat] ∧ keepsRest s t ∧ goesOn s t i) ∧
    (∀ S m n ps, s.mayIssue [.v 2 m.toNat 1, .sr 3 n.toNat] → s.windowsClosed → s.fb.counter .st < 4095 →
      (s.strict = true → s.guardGuess &&& s.touched = 0) → (s.vreg m.toNat).guess &&& s.touched = 0 →
      s.checkLanes s.touched (s.vaOf n m) 4 .draft 1 anywhere 0 none = .ok ps →
      let a := (s.seen [.v 2 m.toNat 1, .sr 3 n.toNat]).seq
      (∃ t, exec (.ink S m n) s = .next t ∧ (s.touched ≠ 0 → requested s t a .ink 0 0 s.touched (piecesOf ps (s.vaOf n m) 4 noData)) ∧
        keepsRegs s t [] [] [] ∧ issuesOnly s t (.ink S m n)) ∧
      (∀ p, s.touched ≠ 0 → ∃ t, exec (.erase S p m n) s = .next t ∧
        requested s t a (.erase p.toNat) 0 0 s.active (piecesOf ps (s.vaOf n m) 4 noData) ∧
        t.fs.held = some (.erase S p m n) ∧ t.fs.phase = 1 ∧ t.fs.ref = a ∧ keepsRegs s t [] [] [] ∧ keepsMemory s t)) ∧
    (∀ S p m n, s.fs.phase = 1 → ∃ t, exec (.erase S p m n) s = .next t ∧
      (t.wave s.focus.wave).p p.toNat = ((s.wave s.focus.wave).p p.toNat).merge (s.acc s.fs.ref).lanes
        ((s.acc s.fs.ref).okLanes ||| ((s.acc s.fs.ref).lanes &&& ~~~(s.acc s.fs.ref).pieceLanes)) 0 ∧
      keepsRegs s t [] [] [p.toNat] ∧ keepsRest s t ∧ goesOn s t (.erase S p m n))

namespace Sys2Proof.Claims

/-- A returning atomic: its operation, the element types of its row, destination, address pair, operand, comparand, order and scope (R290). -/
structure AtomicForm where
  op : Nat
  ets : BitVec 16
  d : BitVec 8
  a : BitVec 8
  b : BitVec 8
  c : BitVec 8
  m : AMod

def atomicForm : Instr → Option AtomicForm
  | .aadd _ d a b e => some ⟨0, etsAtom, d, a, b, b, Machine.amodOf e⟩
  | .amin _ d a b e => some ⟨1, etsAtom, d, a, b, b, Machine.amodOf e⟩
  | .amax _ d a b e => some ⟨2, etsAtom, d, a, b, b, Machine.amodOf e⟩
  | .aand _ d a b e => some ⟨3, etsAtom, d, a, b, b, Machine.amodOf e⟩
  | .aor _ d a b e => some ⟨4, etsAtom, d, a, b, b, Machine.amodOf e⟩
  | .axor _ d a b e => some ⟨5, etsAtom, d, a, b, b, Machine.amodOf e⟩
  | .axchg _ d a b e => some ⟨6, etsAtom, d, a, b, b, Machine.amodOf e⟩
  | .acas _ d a b c e => some ⟨7, etsAtom, d, a, b, c, e⟩
  | .afadd _ d a b e => some ⟨8, etsF32, d, a, b, b, Machine.amodOf e⟩
  | _ => none

def AtomicForm.ops (f : AtomicForm) : List Opd :=
  [.v 1 f.d.toNat 1, .v 2 f.a.toNat 2, .v 3 f.b.toNat 1, .v 4 f.c.toNat 1] ++ scopeOpds 4 f.m.scope

/-- Nothing that an atomic checks stops it: no fixed order, the block in the group of the scope, no guessed lane (R63, R289). -/
def atomicMay (s : State) (f : AtomicForm) : Prop :=
  s.fl.fom = false ∧ s.groupTrap f.m.scope = none ∧ (s.strict = true → s.guardGuess &&& s.touched = 0) ∧
    (s.groupGuess f.a.toNat 2 ||| ((s.vreg f.b.toNat).guess ||| (s.vreg f.c.toNat).guess)) &&& s.touched = 0

end Sys2Proof.Claims

/-- R116, R118, R289, R290: AADD, AMIN, AMAX, AAND, AOR, AXOR, AXCHG, ACAS and AFADD. Without release they issue at once, and with it once the release is complete; the lanes go as one request in a new SFR. An order that acquires holds the slot until the results have returned, and then acquires at its scope. It rests on the model's own choices of log entry 28. -/
def Obligations.AtomicsIssueTheirRequests : Prop :=
  ∀ (s : State) (i : Instr) (f : AtomicForm), atomicForm i = some f →
    (∀ ps, (s.mayIssue f.ops ∧ s.windowsClosed ∧ f.ets.getLsbD (mET s.mode) = true ∧ amodReleases f.m = false) ∨
        (s.fs.phase = 2 ∧ s.fw.pend = [] ∧ s.fw.lost = []) →
      atomicMay s f → s.checkLanes s.touched (s.pairVa f.a) 4 .atomic 1 s.noAtomics 5 none = .ok ps →
      ∃ t, exec i s = .next t ∧
        (s.touched ≠ 0 → requested s t (s.boundary s.focus.wave).seq (.atomic f.op (mET s.mode == 0)) f.d.toNat 1 s.touched (s.atomicPieces f.a f.b ps) ∧
          (t.acc (s.boundary s.focus.wave).seq).cmp = (s.vreg f.c.toNat).lanes ∧ (t.acc (s.boundary s.focus.wave).seq).sfr = s.fw.sfr + 1) ∧
        padsZeroed s t f.d.toNat 1 ∧ keepsRegs s t [] [f.d.toNat] [] ∧ keepsTraps s t ∧ keepsMemory s t ∧ keepsBlocks s t ∧ keepsDevice s t ∧
        (amodAcquires f.m = false → goesOn s t i) ∧
        (amodAcquires f.m = true → t.fs.held = some i ∧ t.fs.phase = 3 ∧ t.fs.wait = .accesses 3 [(s.boundary s.focus.wave).seq] ∧ t.fs.path = s.fs.path)) ∧
    (s.fs.phase = 3 → ∃ t, exec i s = .next t ∧ keepsRegs s t [] [] [] ∧ keepsRest s t ∧ goesOn s t i ∧
      (2 ≤ scopeLevel f.m.scope → ∀ l w, l ∈ (t.core s.fb.pcore).l1 → w ∈ l.words → w.2.st ≠ .v))

/-- R63, R116, R119, R291: ARED, with closed check windows and no lane stopped. With an order that releases it first closes its SFR and holds its slot for the release; then, and without release at once, it acts in a new SFR. In fixed order each touched lane enters the buffer. Otherwise, when a lane is none that the L1 may keep, the lanes go out as one request; one lane alone that the L1 keeps is a partial in state U there: combined with the partial of the same operation that the word held, or its own word; and when no L1 held a partial, no memory changes. Where the ST counter has reached its limit during the release, it holds its slot. It writes no register. It rests on the model's own choices of log entries 28, 51 and 52. -/
def Obligations.AredContributesItsLanes : Prop :=
  ∀ (s : State) (S : Bool) (o : AredOp) (a b : BitVec 8) (e : Option AMod) (ps : List (Nat × Place)),
    let m := Machine.amodOf e
    let i : Instr := .ared S o a b e
    let sg := aredSigned o (mET s.mode)
    let pieces := s.atomicPieces a b ps
    let issues := s.mayIssue ([.v 2 a.toNat 2, .v 3 b.toNat 1] ++ scopeOpds 4 m.scope) ∧ s.windowsClosed ∧ s.fb.counter .st < 4095 ∧
      (if o == .fadd then etsF32 else etsAtom).getLsbD (mET s.mode) = true
    s.groupTrap m.scope = none → (s.strict = true → s.guardGuess &&& s.touched = 0) →
    (s.groupGuess a.toNat 2 ||| (s.vreg b.toNat).guess) &&& s.touched = 0 → (s.fl.fom = true → s.bufCount + countLanes s.touched ≤ 2048) →
    s.checkLanes s.touched (s.pairVa a) 4 .atomic 1 s.noAtomics 5 none = .ok ps →
    (issues → amodReleases m = true → s.fw.epoch = false → s.fw.pend = [] →
      ∃ t, exec i s = .next t ∧ t.fs.held = some i ∧ t.fs.phase = 2 ∧ t.fs.path = s.fs.path ∧ t.fw.sfr = s.fw.sfr + 1 ∧
        t.fs.wait = (s.boundary s.focus.wave).releaseWait (scopeLevel m.scope) ∧ keepsRegs s t [] [] [] ∧ keepsRest s t) ∧
    (s.fs.phase = 2 → s.fw.pend = [] → s.fw.lost = [] → 4095 ≤ s.fb.counter .st →
      ∃ t, exec i s = .next t ∧ t.fs.held = some i ∧ t.fs.phase = 2 ∧ t.fs.wait = .counter .st 4094 ∧ t.fs.path = s.fs.path ∧ keepsRegs s t [] [] [] ∧ keepsRest s t) ∧
    ((issues ∧ amodReleases m = false) ∨ (s.fs.phase = 2 ∧ s.fw.pend = [] ∧ s.fw.lost = [] ∧ s.fb.counter .st < 4095) →
      (s.fl.fom = true →
        ∃ t, exec i s = .next t ∧
          t.abufs = s.abufs ++ pieces.map (fun p =>
            ⟨.kept, s.focus.wave, p.va, s.fb.launch, s.fw.block, s.fb.idx, s.fw.idx, p.lane, (s.boundary s.focus.wave).seq, p.tgt, p.pa, o, sg, p.word⟩) ∧
          keepsRegs s t [] [] [] ∧ issuesOnly s t i) ∧
      (s.fl.fom = false →
        (∃ t, exec i s = .next t ∧ keepsRegs s t [] [] [] ∧ keepsTraps s t ∧ goesOn s t i) ∧
        ((∃ p ∈ pieces, s.keepsU p = false) →
          ∃ t, exec i s = .next t ∧ requested s t (s.boundary s.focus.wave).seq (.ared o sg) 0 0 0 pieces ∧
            keepsRegs s t [] [] [] ∧ issuesOnly s t i) ∧
        (∀ p, pieces = [p] → s.keepsU p = true → classAllows ((s.boundary s.focus.wave).lookups [p.va]) p true →
          let w := (s.core s.fb.pcore).wordAt (s.ctx s.fl.ctx).asid p.va
          ∃ t line, exec i s = .next t ∧ (t.core s.fb.pcore).lineAt (s.ctx s.fl.ctx).asid p.va = some line ∧
            line.words.get L1Word.zero (p.pa / 4 % 32) =
              ⟨.u, none, if w.st = .u ∧ w.op = o ∧ w.sg = sg then redWord o sg w.val p.word else p.word, o, sg, false, false⟩ ∧
            ((∀ c l x, l ∈ (s.core c).l1 → x ∈ l.words → x.2.st ≠ .u) → keepsMemory s t) ∧
            keepsRegs s t [] [] [] ∧ keepsTraps s t ∧ keepsBlocks s t ∧ goesOn s t i)))

/-! ## Fences and cache control -/

/-- R109, R116, R117, R292: FENCE with closed check windows, in the group of its scope. An acquire fence completes at once; a release fence settles, closes its SFR and holds its slot until the release is complete, and completes then; .sc also holds it until every plain access has passed. A fence that completes has begun a new SFR and, where it acquires at .g or wider, the core's L1 holds no valid unregistered word; it changes no register, no memory and no other state. It rests on the model's own choices of log entry 28. -/
def Obligations.FencesComplete : Prop :=
  ∀ (s : State) (S : Bool) (k : FenceKind) (sc : Scope),
    let done (t : State) : Prop := t.fw.sfr = s.fw.sfr + 1 ∧ keepsRegs s t [] [] [] ∧ keepsRest s t ∧ goesOn s t (.fence S k sc) ∧
      (fenceAcquires k = true → 2 ≤ scopeLevel sc → ∀ l w, l ∈ (t.core s.fb.pcore).l1 → w ∈ l.words → w.2.st ≠ .v)
    (s.mayIssue (scopeOpds 2 sc) → s.windowsClosed → s.groupTrap sc = none →
      (fenceReleases k = false → ∃ t, exec (.fence S k sc) s = .next t ∧ done t) ∧
      (fenceReleases k = true → s.fw.epoch = false → s.fw.pend = [] →
        ∃ t, exec (.fence S k sc) s = .next t ∧ t.fs.held = some (.fence S k sc) ∧ t.fs.phase = 2 ∧ t.fs.path = s.fs.path ∧
          t.fw.sfr = s.fw.sfr + 1 ∧ keepsRegs s t [] [] [] ∧ keepsRest s t)) ∧
    (s.fs.phase = 2 → s.fw.pend = [] → s.fw.lost = [] →
      (k ≠ .sc → ∃ t, exec (.fence S k sc) s = .next t ∧ done t) ∧
      (k = .sc → ∃ t, exec (.fence S k sc) s = .next t ∧ t.fs.held = some (.fence S k sc) ∧ t.fs.phase = 3 ∧ t.fs.wait = .accesses 5 s.plainAccs ∧
        t.fs.path = s.fs.path ∧ keepsRegs s t [] [] [] ∧ keepsRest s t)) ∧
    (s.fs.phase = 3 → ∃ t, exec (.fence S k sc) s = .next t ∧ done t)

/-- R63, R119, R126, R293 to R295: DFLUSH leaves no partial of the core in state U; in fixed order it leaves no contribution of its block in the buffer, holds its slot while one has yet to be acknowledged at its home, and completes then; CFLUSH, CFLUSH.persist and CINV, their pages readable and no earlier store of the wave to the range in flight, leave no copy of a line of the range in the L1s and RDCs they name; CARVE asks for a carve-out of its core. None changes a register. It rests on the model's own choices of log entries 28 and 53. -/
def Obligations.CacheControlCompletes : Prop :=
  ∀ (s : State) (S : Bool),
    (s.fs.phase = 0 → s.windowsClosed →
      (let mine (e : ABuf) : Bool := e.block == s.fw.block
       ∃ t, exec (.dflush S) s = .next t ∧ keepsRegs s t [] [] [] ∧ keepsTraps s t ∧ keepsBlocks s t ∧
        (s.fl.fom = false → goesOn s t (.dflush S) ∧ ∀ l w, l ∈ (t.core s.fb.pcore).l1 → w ∈ l.words → w.2.st ≠ .u) ∧
        (s.fl.fom = true → (∀ e ∈ t.abufs, mine e = true → e.st ≠ .kept) ∧
          ((s.flushBufs mine).flushOpen mine = false → goesOn s t (.dflush S) ∧ ∀ e ∈ t.abufs, mine e = false) ∧
          ((s.flushBufs mine).flushOpen mine = true → t.fs.held = some (.dflush S) ∧ t.fs.phase = 1 ∧ t.fs.wait = .flush ∧ t.fs.path = s.fs.path))) ∧
      (∀ c, ∃ t, exec (.carve S c) s = .next t ∧ (t.core s.fb.pcore).carveReq = some c.toNat ∧ keepsRegs s t [] [] [] ∧ keepsRest s t ∧
        goesOn s t (.carve S c))) ∧
    (s.fs.phase = 1 → ∃ t, exec (.dflush S) s = .next t ∧ keepsRegs s t [] [] [] ∧ keepsRest s t ∧ goesOn s t (.dflush S)) ∧
    (∀ a b : BitVec 6,
      let u := s.seen [.sr 1 a.toNat, .sr 2 b.toNat]
      let parts := u.rangePages (s.sreg a).toNat (rangeLen (s.sreg b))
      let rs := parts.filterMap partLines
      s.mayIssue [.sr 1 a.toNat, .sr 2 b.toNat] → s.windowsClosed → parts.all u.partReadable = true →
      u.storesTo (s.sreg a).toNat (rangeLen (s.sreg b)) = [] →
      (∃ t, exec (.cflush S a b) s = .next t ∧ keepsRegs s t [] [] [] ∧ keepsTraps s t ∧ keepsBlocks s t ∧ goesOn s t (.cflush S a b) ∧
        (∀ r ∈ t.rdc, inLines rs r.pline = false) ∧ (∀ c l, l ∈ (t.core c).l1 → inLines rs l.pline = false)) ∧
      (∃ t, exec (.cflushPersist S a b) s = .next t ∧ keepsRegs s t [] [] [] ∧ keepsTraps s t ∧ keepsBlocks s t ∧
        goesOn s t (.cflushPersist S a b) ∧
        (∀ r ∈ t.rdc, inLines rs r.pline = false) ∧ (∀ c l, l ∈ (t.core c).l1 → inLines rs l.pline = false) ∧
        (s.memoriesWf → ∀ x, inLines rs (lineOf x) = true → t.array.byte x = t.homeByte x)) ∧
      (∃ t, exec (.cinv S a b) s = .next t ∧ keepsRegs s t [] [] [] ∧ keepsTraps s t ∧ keepsBlocks s t ∧ goesOn s t (.cinv S a b) ∧
        (∀ r ∈ t.rdc, r.die = coreDie s.fb.pcore → inLines rs r.pline = false) ∧
        (∀ l, l ∈ (t.core s.fb.pcore).l1 → inLines rs l.pline = false)))

/-- R107, R296: PCLASS with closed check windows, every device page of its range writable, completes and changes no register; with one such page its leaf then holds the class, and the rest of the leaf but for the owner of a private page is as before. It rests on the model's own choices of log entry 53. -/
def Obligations.PclassSetsTheClass : Prop :=
  ∀ (s : State) (S : Bool) (a b : BitVec 6) (k : PClass),
    let ops : List Opd := [.sr 1 a.toNat, .sr 2 b.toNat]
    let u := s.seen ops
    let parts := (u.rangePages (s.sreg a).toNat (rangeLen (s.sreg b))).filter (fun x => (partPlace x).tgt == .device)
    s.mayIssue ops → s.windowsClosed → (∀ x ∈ parts, leafAllows x.1.leaf .write = true) →
    ∃ t, exec (.pclass S a b k) s = .next t ∧ keepsRegs s t [] [] [] ∧ keepsTraps s t ∧ keepsBlocks s t ∧ goesOn s t (.pclass S a b k) ∧
      (parts = [] → keepsMemory s t) ∧
      (∀ x e level at', parts = [x] → u.walk s.fl.ctx (fullVa x.1.va) = .leaf e level at' → s.cells = [] → s.memoriesWf → s.fb.pcore < 512 →
        eBits (BitVec.ofNat 64 (t.homeNat at' 8)) 7 2 = classCode k ∧
        eBits (BitVec.ofNat 64 (t.homeNat at' 8)) 0 7 = eBits e 0 7 ∧ eBits (BitVec.ofNat 64 (t.homeNat at' 8)) 11 53 = eBits e 11 53 ∧
        (k = .priv → eBits (BitVec.ofNat 64 (t.homeNat at' 8)) 9 2 = coreDie s.fb.pcore % 4) ∧
        (k ≠ .priv → eBits (BitVec.ofNat 64 (t.homeNat at' 8)) 9 2 = eBits e 9 2))

/-! ## Copies, gathers, collectives: the issue of a job -/

namespace Sys2Proof.Claims

/-- What an instruction that starts a job orders, its destination, and whether it queues a follow-on command (R298, R299, R301, R303, R312, R313). -/
def jobForm (s : State) : Instr → Option (Except Trap Machine.Order × BitVec 6 × Bool)
  | .cpyMs _ _ d t a => some (s.orderFlat true t a none, d, false)
  | .cpySm _ _ d t a => some (s.orderFlat false t a none, d, false)
  | .cpyMf _ _ d f a => some (s.orderFeed false f.toNat a none none, d, false)
  | .cpySf _ _ d f a => some (s.orderFeed true f.toNat a none none, d, false)
  | .cpyZd _ d t a q => some (s.orderZd t a q.toNat, d, false)
  | .cpym _ d f a _ => some (s.orderFeed false f.toNat a none none, d, true)
  | .cpymSf _ d f a _ => some (s.orderFeed true f.toNat a none none, d, true)
  | .gath _ d f x => some (s.orderGath f.toNat x.toNat, d, false)
  | .collAllreduce _ d a => some (s.orderColl 0 (s.sreg a), d, false)
  | .collReducescatter _ d a => some (s.orderColl 1 (s.sreg a), d, false)
  | .collAllgather _ d a => some (s.orderColl 2 (s.sreg a), d, false)
  | .collBroadcast _ d a => some (s.orderColl 3 (s.sreg a), d, false)
  | .collredo _ d a => some (s.orderRedo (s.sreg a), d, false)
  | _ => none

end Sys2Proof.Claims

/-- R153, R154, R298: CPY, CPYM, GATH, COLL and COLLREDO, their release complete, no error pending, their checks passed and room for the job: the job is made in a free slot of its unit, pending, with the footprint of its order, its entry in the footprint unit waits for every earlier entry of the context that it clashes with but for its own launch's, and the destination takes the job's handle as a future; no other register changes, and no memory. It rests on the model's own choices of log entries 22 and 61. -/
def Obligations.JobsAreIssued : Prop :=
  ∀ (s : State) (i : Instr) (o : Machine.Order) (d : BitVec 6) (follow : Bool), jobForm s i = some (.ok o, d, follow) → s.fs.phase = 3 → s.fw.pend = [] →
    (s.unitSlots o.unit).length < 256 → s.feet.length < 4096 → (follow = true → s.fb.seqq.length < 16) →
    ∃ t, exec i s = .next t ∧ (t.job s.seq).kind = o.kind ∧ (t.job s.seq).foot = o.foot ∧ (t.job s.seq).unit = o.unit ∧
      (t.job s.seq).block = s.fw.block ∧ (t.job s.seq).ctx = s.fl.ctx ∧ (t.job s.seq).state = 0 ∧ (t.job s.seq).started = false ∧
      ((t.job s.seq).slot < 256 ∧ (t.job s.seq).slot ∉ s.unitSlots o.unit) ∧
      (t.wave s.focus.wave).sregs.get SRegVal.zero d.toNat = ⟨((t.job s.seq).handle).setWidth 64, true⟩ ∧
      (∃ f ∈ t.feet, f.job = some s.seq ∧ f.foot = o.foot ∧
        f.edges = (s.feet.filter (fun f => f.ctx == s.fl.ctx && clash f.foot o.foot && !(f.launch.isSome && f.launch == some s.fb.launch))).map FootEnt.id) ∧
      (follow = true → (t.block s.fw.block).seqq.length = s.fb.seqq.length + 1) ∧
      keepsRegs s t [d.toNat] [] [] ∧ keepsTraps s t ∧ keepsMemory s t ∧ goesOn s t i

/-! ## The matrix array -/

/-- R163 to R165, R302, R305 to R308: STRM binds its stream; MMA and MMAS queue a command on the next items of their feeds once these are there, well-formed and their tile predicate known; SKCFG sets the sketch state; SKMAP asks to store the 32 bytes of an accumulator's map, ACCLD returns a row of it, and ACCZ clears it, once no queued command names the accumulator; QSET and QCLR set a tile predicate. It rests on the model's own choices of log entry 68. -/
def Obligations.MatrixCommandsExecute : Prop :=
  ∀ (s : State) (S : Bool),
    let b := s.fw.block
    let only (t : State) (i : Instr) : Prop := keepsRegs s t [] [] [] ∧ keepsTraps s t ∧ keepsMemory s t ∧ keepsDevice s t ∧ goesOn s t i
    (∀ x a c st, s.mayIssue [.sr 2 a.toNat, .sr 3 c.toNat] → s.windowsClosed → s.checkStream (s.handleReg a) (s.handleReg c) = .ok st →
      ∃ t, exec (.strm S x a c) s = .next t ∧ (t.block b).streams.get none x.toNat = some st ∧
        (∀ k, k ≠ x.toNat → (t.block b).streams.get none k = s.fb.streams.get none k) ∧ only t (.strm S x a c)) ∧
    (∀ d i j q sk ta tb, s.runsNow [.a 1 d.toNat, .feed 2] →
      let c := s.command sk d.toNat i.toNat j.toNat (s.fb.pred q.toNat) none
      s.fb.missing c = none → s.fb.item c.i c.pa = some ta → s.fb.item c.j c.pb = some tb → checkItems (s.fb.mapItem c) ta tb = none →
      (∃ v, s.fb.pred q.toNat = .known v) → s.fb.seqq.length < 16 →
      let ins : Instr := if sk then .mmas S d i j q else .mma S d i j q
      ∃ t, exec ins s = .next t ∧ (t.block b).seqq = s.fb.seqq ++ [c] ∧
        (t.block b).accs = s.fb.accs ∧ only t ins) ∧
    (∀ a c, s.mayIssue [.sr 2 a.toNat, .sr 3 c.toNat] → s.windowsClosed →
      ∃ t, exec (.skcfg S a c) s = .next t ∧ (t.block b).sketch = sketchOf (s.sreg a) (s.sreg c) ∧ only t (.skcfg S a c)) ∧
    (∀ a d ps, s.mayIssue [.sr 2 a.toNat, .a 3 d.toNat] → s.windowsClosed → s.fb.counter .st < 4095 → (∀ c ∈ s.fb.seqq, c.aD ≠ d.toNat) →
      s.checkLanes 1 (fun _ => s.sreg a) 32 .write 3 anywhere 0 (some s.mask) = .ok ps →
      ∃ t, exec (.skmap S a d) s = .next t ∧
        requested s t (s.seen [.sr 2 a.toNat, .a 3 d.toNat]).seq .sst 0 0 1 (piecesOf ps (fun _ => s.sreg a) 32
          (fun _ => allBytes ((List.range 32).map (fun k => (s.fb.accum d.toNat).mapByte k)))) ∧
        keepsBlocks s t ∧ only t (.skmap S a d)) ∧
    (∀ d a r, s.mayIssue [.v 1 d.toNat 4, .a 2 a.toNat] → s.windowsClosed → s.guardGuess &&& s.mask = 0 → (∀ c ∈ s.fb.seqq, c.aD ≠ a.toNat) →
      ∃ t, exec (.accld S d a r) s = .next t ∧ keepsBlocks s t ∧ only t (.accld S d a r) ∧
        (s.active ≠ 0 → (t.acc s.seq).kind = .accld a.toNat r.toNat ∧ (t.acc s.seq).dst = d.toNat ∧ (t.acc s.seq).regs = 4 ∧
          (t.acc s.seq).lanes = s.active ∧
          ∀ l, l < 8 → s.active.getLsbD l = true → (t.acc s.seq).laneBytes l = (s.fb.accum a.toNat).laneBytes r.toNat l)) ∧
    (∀ a, s.mayIssue [.a 2 a.toNat] → s.windowsClosed → (∀ c ∈ s.fb.seqq, c.aD ≠ a.toNat) →
      ∃ t, exec (.accz S a) s = .next t ∧ (t.block b).accum a.toNat = Accum.zero ∧
        (∀ k, k ≠ a.toNat → (t.block b).accum k = s.fb.accum k) ∧ only t (.accz S a)) ∧
    (∀ q, s.fs.phase = 0 → s.windowsClosed →
      (∃ t, exec (.qset S q) s = .next t ∧ (t.block b).pred q.toNat = .known true ∧ (∀ k, k ≠ q.toNat → (t.block b).pred k = s.fb.pred k) ∧ only t (.qset S q)) ∧
      (∃ t, exec (.qclr S q) s = .next t ∧ (t.block b).pred q.toNat = .known false ∧ (∀ k, k ≠ q.toNat → (t.block b).pred k = s.fb.pred k) ∧ only t (.qclr S q)))

/-- R162, R304: VFEED on a bound stream that no other PC slot's VFEED with open claims uses; while one does, it holds its slot and the stream stays. With no lane inside the index list it writes 0 to its active lanes; otherwise, once it has read the index words, every index and address is good and the LD counter has room, it issues one read for those lanes at the rows that the indices name and writes 0 to the other active lanes. Either way the stream moves on by its step. It rests on the model's own choices of log entries 63 and 123. -/
def Obligations.VfeedReadsItsStream : Prop :=
  ∀ (s : State) (S : Bool) (d : BitVec 8) (x : BitVec 3) (st : Stream), s.guardGuess &&& s.mask = 0 → s.fb.streams.get none x.toNat = some st →
    let lanes := st.within s.touched
    let moved (t : State) : Prop := (t.block s.fw.block).streams.get none x.toNat = some { st with pos := st.pos + st.step } ∧
      (t.wave s.focus.wave).v d.toNat = ((s.wave s.focus.wave).v d.toNat).merge (s.active &&& ~~~lanes) (fun _ => 0) 0 ∧
      keepsRegs s t [] [d.toNat] [] ∧ keepsTraps s t ∧ keepsMemory s t ∧ keepsDevice s t ∧ goesOn s t (.vfeed S d x)
    (s.mayIssue [.v 1 d.toNat 1] → s.windowsClosed → s.fb.counter .ld < 4095 → s.streamUsers x.toNat = [] → lanes = 0 →
      ∃ t, exec (.vfeed S d x) s = .next t ∧ moved t) ∧
    (s.mayIssue [.v 1 d.toNat 1] → s.windowsClosed → s.fb.counter .ld < 4095 → s.streamUsers x.toNat ≠ [] →
      ∃ t, exec (.vfeed S d x) s = .next t ∧ t.fs.held = some (.vfeed S d x) ∧ t.fs.wait = .accesses 1 (s.streamUsers x.toNat) ∧ t.fs.path = s.fs.path ∧
        keepsRegs s t [] [] [] ∧ keepsRest s t) ∧
    (∀ ps, s.fs.phase = 1 ∨ s.fs.phase = 2 → s.fb.counter .ld < 4095 → s.streamUsers x.toNat = [] → lanes ≠ 0 → st.readBy (s.acc s.fs.ref) lanes = true →
      failTrap (s.acc s.fs.ref).pieces none none = none →
      (∀ l, l < 8 → lanes.getLsbD l = true → (s.acc s.fs.ref).index l < st.data.d1) →
      s.checkLanes lanes (st.dataVa (s.acc s.fs.ref)) 4 .read 1 anywhere 0 none = .ok ps →
      ∃ t, exec (.vfeed S d x) s = .next t ∧ moved t ∧
        requested s t s.seq (.vfeed x.toNat st.step st.bind) d.toNat 1 lanes (piecesOf ps (st.dataVa (s.acc s.fs.ref)) 4 noData))

/-! ## Shapes, futures and expert queues -/

/-- R151, R154, R155, R309, R310: SHSET frees the slot of a handle, or binds the record that it has read in the lowest free slot and answers its handle, 0 when none is free; FWAIT completes on a future that is not pending; FTEST and FSTAT answer the state and the status of a job, a stale handle reading as an error of cause 0x08, subcode 1; FCANCEL cancels a job that has not started and marks one that has. -/
def Obligations.ShapesAndFuturesAnswer : Prop :=
  ∀ (s : State) (S : Bool),
    let out (t : State) (d : BitVec 6) (x : DWord) : Prop := (t.wave s.focus.wave).sregs.get SRegVal.zero d.toNat = ⟨x, false⟩
    (∀ d a r, s.mayIssue (opsS2 d a) → s.windowsClosed → (s.sreg a).getLsbD 63 = true → s.useHandle s.fl.ctx (s.handleReg a) = .ok r →
      ∃ t, exec (.shset S d a) s = .next t ∧ out t d 0 ∧
        t.shapeSlot s.fl.ctx ((s.handleReg a).extractLsb' 0 12).toNat = ⟨nextGen ((s.handleReg a).extractLsb' 12 20), none⟩ ∧
        keepsRegs s t [d.toNat] [] [] ∧ keepsTraps s t ∧ keepsMemory s t ∧ keepsBlocks s t ∧ goesOn s t (.shset S d a)) ∧
    (∀ d a r k, s.fs.phase = 1 → (s.sreg a).getLsbD 63 = false → s.recordRead = .ok r → shapeOk r = true → s.freeShape s.fl.ctx = some k →
      ∃ t, exec (.shset S d a) s = .next t ∧ out t d (BitVec.ofNat 64 ((nextGen (s.shapeSlot s.fl.ctx k).gen).toNat * 4096 + k)) ∧
        t.shapeSlot s.fl.ctx k = ⟨nextGen (s.shapeSlot s.fl.ctx k).gen, some (shapeOf r)⟩ ∧
        keepsRegs s t [d.toNat] [] [] ∧ keepsTraps s t ∧ keepsMemory s t ∧ keepsBlocks s t ∧ goesOn s t (.shset S d a)) ∧
    (∀ d a r, s.fs.phase = 1 → (s.sreg a).getLsbD 63 = false → s.recordRead = .ok r → shapeOk r = true → s.freeShape s.fl.ctx = none →
      ∃ t, exec (.shset S d a) s = .next t ∧ out t d 0 ∧ t.shapes = s.shapes ∧ keepsRegs s t [d.toNat] [] [] ∧ keepsRest s t ∧ goesOn s t (.shset S d a)) ∧
    (∀ a, s.runsNow [.sd 2 a.toNat] → s.futurePending s.fw.block (s.handleReg a) = false →
      ∃ t, exec (.fwait S a) s = .next t ∧ t.fw.sfr = s.fw.sfr + 1 ∧ keepsRegs s t [] [] [] ∧ keepsRest s t ∧ goesOn s t (.fwait S a)) ∧
    (∀ d a, s.mayIssue [.sd 1 d.toNat, .sd 2 a.toNat] → s.windowsClosed →
      (∃ t, exec (.ftest S d a) s = .next t ∧ out t d (match s.namedJob a with | some j => BitVec.ofNat 64 (s.job j).state | none => 2) ∧
        keepsRegs s t [d.toNat] [] [] ∧ keepsRest s t ∧ goesOn s t (.ftest S d a)) ∧
      (∃ t, exec (.fstat S d a) s = .next t ∧ out t d (match s.namedJob a with | some j => (s.job j).status | none => 0x10802) ∧
        keepsRegs s t [d.toNat] [] [] ∧ keepsRest s t ∧ goesOn s t (.fstat S d a))) ∧
    (∀ a, s.mayIssue [.sd 2 a.toNat] → s.windowsClosed →
      ∃ t, exec (.fcancel S a) s = .next t ∧ keepsRegs s t [] [] [] ∧ keepsTraps s t ∧ keepsMemory s t ∧ goesOn s t (.fcancel S a) ∧
        (∀ j, s.namedJob a = some j → (s.job j).state = 0 → (s.job j).copyDone = false →
          ((s.job j).started = true → (t.job j).cancel = true ∧ (t.job j).state = 0) ∧
          ((s.job j).started = false → s.followQueued j = false → (t.job j).state = 3 ∧ ∀ f ∈ t.feet, f.job ≠ some j)))

/-- R169, R170, R311: EQPUSH appends its token to a queue bound to its context with room, and starts the countdown, and changes nothing on an unbound queue; EQCFG with 0 unbinds a queue and discards its tokens, and binds it with a good record, whose tokens stay. It rests on the model's own choices of log entry 70. -/
def Obligations.ExpertQueuesTakeTokens : Prop :=
  ∀ (s : State) (S : Bool) (e a : BitVec 6),
    (s.mayIssue [.sp 2 a.toNat, .sr 2 (a.toNat + 1)] → s.windowsClosed →
      ((s.eq e.toNat).ctx = some s.fl.ctx → (s.eq e.toNat).tokens.length < 1024 →
        ∃ t, exec (.eqpush S e a) s = .next t ∧ (t.eq e.toNat).tokens = (s.eq e.toNat).tokens ++ [(s.sreg a, s.fw.s (a.toNat + 1))] ∧
          (t.eq e.toNat).counting = true ∧ (t.eq e.toNat).ctx = some s.fl.ctx ∧
          keepsRegs s t [] [] [] ∧ keepsTraps s t ∧ keepsMemory s t ∧ keepsBlocks s t ∧ goesOn s t (.eqpush S e a)) ∧
      ((s.eq e.toNat).ctx = none → ∃ t, exec (.eqpush S e a) s = .next t ∧ t.eqs = s.eqs ∧ keepsRegs s t [] [] [] ∧ keepsRest s t ∧ goesOn s t (.eqpush S e a))) ∧
    (s.mayIssue [.sr 2 a.toNat] → s.windowsClosed → s.sreg a = 0 → (∀ c, (s.eq e.toNat).ctx = some c → c = s.fl.ctx) →
      ∃ t, exec (.eqcfg S e a) s = .next t ∧ (t.eq e.toNat).ctx = none ∧ (t.eq e.toNat).tokens = [] ∧
        keepsRegs s t [] [] [] ∧ keepsTraps s t ∧ keepsMemory s t ∧ keepsBlocks s t ∧ goesOn s t (.eqcfg S e a)) ∧
    (∀ r, s.fs.phase = 1 → s.recordRead = .ok r → (∀ c, (s.eq e.toNat).ctx = some c → c = s.fl.ctx) → eqRecordBad r = false →
      ∃ t, exec (.eqcfg S e a) s = .next t ∧ (t.eq e.toNat).ctx = some s.fl.ctx ∧ (t.eq e.toNat).tokens = (s.eq e.toNat).tokens ∧
        (t.eq e.toNat).thresh = fieldAt r 0x10 2 ∧ (t.eq e.toNat).nbuf = fieldAt r 0x12 2 ∧ (t.eq e.toNat).cdown = fieldAt r 0x14 4 ∧
        (t.eq e.toNat).lrec = BitVec.ofNat 64 (fieldAt r 0 8) ∧ (t.eq e.toNat).bufVa = BitVec.ofNat 64 (fieldAt r 8 8) ∧
        keepsRegs s t [] [] [] ∧ keepsTraps s t ∧ keepsMemory s t ∧ keepsBlocks s t ∧ goesOn s t (.eqcfg S e a))

/-! ## What the memory system does between the issue of an access and its end -/

namespace Sys2Proof.Claims

/-- The registers of every wave, but for vector registers named of one wave. -/
def keepsVregs (s t : State) (w : Nat) (kv : List Nat) : Prop :=
  ∀ u r, (t.wave u).sregs.get SRegVal.zero r = (s.wave u).sregs.get SRegVal.zero r ∧ (t.wave u).p r = (s.wave u).p r ∧
    (¬(u = w ∧ r ∈ kv) → (t.wave u).v r = (s.wave u).v r)

/-- Memory in its canonical form, no live draft cell, no line that the host caches dirty, and no partial sum in any core: a byte at home is the byte of memory (R119, R145, R200). -/
def plainHome (s : State) : Prop := s.memoriesWf ∧ s.cells = [] ∧ s.hostLines = [] ∧ ∀ c ∈ s.cores, ∀ l ∈ c.2.l1, ∀ w ∈ l.words, w.2.st ≠ .u

/-- Device memory at home, but for the bytes of one access. -/
def keepsHomeBut (s t : State) (pa n : Nat) : Prop := ∀ a, ¬(pa ≤ a ∧ a < pa + n) → t.homeByte a = s.homeByte a

/-- The other memories. -/
def keepsFarMemory (s t : State) : Prop :=
  (∀ a, t.hostMem.byte a = s.hostMem.byte a) ∧ (∀ d a, Mem.byte (t.peerMem.get [] d) a = Mem.byte (s.peerMem.get [] d) a) ∧
    (∀ b a, (t.block b).scratch.byte a = (s.block b).scratch.byte a)

end Sys2Proof.Claims

/-- R27, R105, R128, R129, R132, R133, R279: LOAD_DATA_RETURN of lanes of a vector load whose claims have passed writes each lane of each register that no younger instruction has written; TRUTH_ARRIVAL keeps the truth in the tag of its load, or the fault of the lowest faulted lane; LIMIT_EXPIRY allocates a guess tag for the lanes without data and sets their guess bits. No memory changes. It rests on the model's own choices of log entries 35, 36 and 37. -/
def Obligations.DataReturnsToItsLanes : Prop :=
  ∀ (s : State) (acc : Nat), s.accs.has acc = true →
    let x := s.acc acc
    (∀ (lanes : BitVec 8) wd sg, x.kind = .ld wd sg → x.fell = false → 12 ≤ x.age → lanes ≠ 0 →
      (∀ l, l < 8 → lanes.getLsbD l = true → x.laneHere l = true) →
      ∃ t, exec (.loadDataReturn acc lanes false) s = .next t ∧
        (∀ i l, i < x.regs → l < 8 → lanes.getLsbD l = true → (x.dead.getD i 0).getLsbD l = false →
          ((t.wave x.wave).v (x.dst + i)).lanes.get l = x.result l i) ∧
        keepsVregs s t x.wave (groupOfRegs x.dst x.regs) ∧ keepsMemory s t) ∧
    (∀ g, (s.wave x.wave).tagOf acc = some g → g.truth = none → g.fault = none →
      (∀ p ∈ x.pieces, g.mask.getLsbD p.lane = true → (p.st = .atHome ∨ p.st = .passed) ∧ p.conf = none) →
      ∃ t, exec (.truthArrival acc) s = .next t ∧ keepsVregs s t 0 [] ∧ keepsMemory s t ∧
        (∀ p, x.pieces.find? (fun p => g.mask.getLsbD p.lane && p.err.isSome) = some p → ∀ u ∈ (t.wave x.wave).tags, u.acc = acc → u.fault = p.err) ∧
        ((∀ p ∈ x.pieces, g.mask.getLsbD p.lane = true → p.err = none) → ∀ u ∈ (t.wave x.wave).tags, u.acc = acc →
          u.truth = some ((List.range g.regs).map (fun i => L8.ofFn (fun l => if g.mask.getLsbD l then x.result l i else 0))))) ∧
    (∀ n, x.limit = some n → n ≤ x.age → x.age ≤ n + 4 → x.fell = false → x.noLimit = false → (∀ p ∈ x.pieces, p.err = none) →
      (s.wave x.wave).tags.length < 4 →
      let gl := x.untaken &&& ~~~(x.dead.foldl (· ||| ·) 0)
      gl ≠ 0 →
      ∃ t, exec (.limitExpiry acc) s = .next t ∧
        (∃ g, (t.wave x.wave).tags.getLast? = some g ∧ g.acc = acc ∧ g.base = x.dst ∧ g.regs = x.regs ∧ g.mask = gl ∧ g.truth = none ∧ g.fault = none) ∧
        (∀ i l, i < x.regs → l < 8 → gl.getLsbD l = true → ((t.wave x.wave).v (x.dst + i)).guess.getLsbD l = true) ∧
        keepsVregs s t x.wave (groupOfRegs x.dst x.regs) ∧ keepsMemory s t)

/-- R104, R105, R107, R109, R110, R112, R114, R198: at its home a claim of a plain load takes the claims of its words and the value there, and one that meets a claim of another wave keeps the conflict; claim results without a failure pass; the data phases of a store leave for its homes once every claim has passed; STORE_ACK ends the store; a CLOSE that is queued behind data of the SFR is sent once that data has left, and not before; at its home CLOSE removes the claims of the SFR there. No register changes. It rests on the model's own choices of log entry 46. -/
def Obligations.ClaimsAreTakenAndAnswered : Prop :=
  ∀ s : State,
    (∀ msg a i, s.pieceMsg msg = some (a, i) →
      let x := s.acc a
      let p := x.pieces.getD i .zero
      (∃ wd sg, x.kind = .ld wd sg) → i < x.pieces.length → x.coalesced = false → p.tgt = .device → p.linked = false → p.early = none → x.truthOnly p = false →
      s.readerCounted (lineOf p.pa) = false → s.claimWaits x p = false → s.lateDenied x p = false → plainHome s →
      ((∀ w ∈ wordsOf p.pa p.n, s.conflictAt w x.wave false = none) → (s.fetchLines p.pa p.n).badLevel p.pa p.n = none →
        ∃ t, exec (.claim msg) s = .next t ∧ ((t.acc a).pieces.getD i .zero).st = .atHome ∧
          ((t.acc a).pieces.getD i .zero).val = s.homeBytes p.pa p.n ∧
          (∀ w ∈ wordsOf p.pa p.n, ∃ c ∈ t.claims, c.word = w ∧ c.wave = x.wave ∧ c.sfr = x.sfr ∧ c.wr = false) ∧
          keepsVregs s t 0 [] ∧ keepsMemory s t) ∧
      (∀ w c, (wordsOf p.pa p.n).head? = some w → s.conflictAt w x.wave false = some c → s.badLevel p.pa p.n = none →
        ∃ t, exec (.claim msg) s = .next t ∧ ((t.acc a).pieces.getD i .zero).st = .atHome ∧ ((t.acc a).pieces.getD i .zero).conf = some c ∧
          t.claims = s.claims ∧ keepsVregs s t 0 [] ∧ keepsMemory s t)) ∧
    (∀ acc, s.accs.has acc = true → s.fs.held ≠ some (.claimResult acc) →
      let x := s.acc acc
      x.kind.isStore = true → x.pieces.any x.back = true → x.pieces.any x.bad = false → (∀ p ∈ x.pieces, p.early = none ∧ p.linked = false) →
      ∃ t, exec (.claimResult acc) s = .next t ∧
        (t.acc acc).pieces = x.pieces.map (fun p => if x.back p then { p with st := .passed } else p) ∧ keepsVregs s t 0 [] ∧ keepsMemory s t) ∧
    (∀ acc, s.accs.has acc = true →
      let x := s.acc acc
      x.kind.isStore = true → x.coalesced = false → (∃ p ∈ x.pieces, p.st = .passed) → (∀ p ∈ x.pieces, p.st.hasPassed = true) → s.olderOpen x = false → s.olderQueued x AKind.isStore = false →
      ∃ t, exec (.sendData acc) s = .next t ∧
        (t.acc acc).pieces = x.pieces.map (fun p => if p.st = .passed then { p with st := .dataSent } else p) ∧
        (∀ i, i < x.pieces.length → (x.pieces.getD i .zero).st = .passed → (x.pieces.getD i .zero).tgt = .device →
          ∃ m ∈ t.net, m.body = .data acc i ∧ m.core = x.core ∧ m.home = (x.pieces.getD i .zero).home) ∧
        keepsVregs s t 0 [] ∧ keepsMemory s t) ∧
    (∀ acc, s.accs.has acc = true →
      let x := s.acc acc
      (x.kind.isStore = true ∨ x.kind = .ink) → (∀ p ∈ x.pieces, p.st = .acked) →
      ∃ t, exec (.storeAck acc) s = .next t ∧ t.accs.has acc = false ∧
        ((∀ f ∈ (s.block x.block).flights, f.path = .st → f.id = acc ∨ f.done = true) → (t.block x.block).counter .st = 0) ∧
        keepsVregs s t 0 [] ∧ keepsMemory s t) ∧
    (∀ msg m w sfr, s.msgAt msg = some m → m.body = .close w sfr → m.queued = true →
      (s.dataQueued w sfr m.home = true → exec (.close msg) s = .next s) ∧
      (s.dataQueued w sfr m.home = false → ∃ t, exec (.close msg) s = .next t ∧ t.net.getLast? = some { m with queued := false } ∧
        t.claims = s.claims ∧ keepsVregs s t 0 [] ∧ keepsMemory s t)) ∧
    (∀ msg m w sfr, s.msgAt msg = some m → m.body = .close w sfr → m.queued = false → canArrive s.net m = true → s.claimWaitsAt w sfr m.home = false →
      ∃ t, exec (.close msg) s = .next t ∧
        t.claims = s.claims.filter (fun c => !(c.wave == w && c.sfr == sfr && homeOf (c.word * 4) == m.home)) ∧
        keepsVregs s t 0 [] ∧ (s.hostAccs = [] → keepsMemory s t))

/-- R103, R104, R106, R107, R111, R114, R123, R124: REGISTER writes the bytes of a data phase at their home and acknowledges them; EVICT leaves no copy of the line in the core; DELIVER hands the oldest write of an UP link to its peer; CLAIM_OVERFLOW moves the claims of the waiting line to the overflow area, or with that area full ends the launch; REGION_MERGE joins two sibling halves; RECLASSIFY makes the page shared. No register changes. It rests on the model's own choices of log entries 47 and 48. -/
def Obligations.HomesTakeDataAndLines : Prop :=
  ∀ s : State,
    (∀ msg m a i, s.msgAt msg = some m → m.body = .data a i → canArrive s.net m = true → s.accs.has a = true →
      let x := s.acc a
      let p := x.pieces.getD i .zero
      i < x.pieces.length → x.coalesced = false → p.tgt = .device → x.kind = .st → p.data.length = p.n → plainHome s → s.secsWait (x.partOf p) = false → (s.fetchSecs (x.partOf p)).badSecs (x.partOf p) = [] →
      ∃ t, exec (.register msg) s = .next t ∧ ((t.acc a).pieces.getD i .zero).ok = true ∧
        (∀ k b, p.data[k]? = some (some b) → t.homeByte (p.pa + k) = b) ∧
        (∀ k, p.data[k]? = some none → t.homeByte (p.pa + k) = s.homeByte (p.pa + k)) ∧
        keepsHomeBut s t p.pa p.n ∧ keepsFarMemory s t ∧ keepsVregs s t 0 []) ∧
    (∀ core line, ∃ t, exec (.evict core line) s = .next t ∧ (∀ l ∈ (t.core core).l1, l.pline ≠ line) ∧ keepsVregs s t 0 [] ∧
      ((∀ l ∈ (s.core core).l1, l.pline = line → ∀ w ∈ l.words, w.2.st ≠ .u) → keepsMemory s t)) ∧
    (∀ link q rest, (s.link link).queue = q :: rest → (s.link link).stat.extractLsb' 0 2 = 2 → s.memoriesWf →
      ∃ t, exec (.deliver link) s = .next t ∧ (t.link link).queue = rest ∧
        (q.red = none →
          (∀ k b, q.bytes[k]? = some (some b) → Mem.byte (t.peerMem.get [] q.dev) (q.va.toNat + k) = b) ∧
          (∀ d a, ¬(d = q.dev ∧ q.va.toNat ≤ a ∧ a < q.va.toNat + q.bytes.length) → Mem.byte (t.peerMem.get [] d) a = Mem.byte (s.peerMem.get [] d) a)) ∧
        (∀ op sg, q.red = some (op, sg) →
          Mem.word (t.peerMem.get [] q.dev) q.va.toNat =
            redWord op sg (Mem.word (s.peerMem.get [] q.dev) q.va.toNat) (BitVec.ofNat 32 (leNat (q.bytes.map (fun b => b.getD 0)))) ∧
          (∀ d a, ¬(d = q.dev ∧ q.va.toNat ≤ a ∧ a < q.va.toNat + 4) → Mem.byte (t.peerMem.get [] d) a = Mem.byte (s.peerMem.get [] d) a)) ∧
        (∃ f, (t.link link).replay.getLast? = some f ∧ f.seq = (s.link link).txSeq.toNat) ∧ (t.link link).txSeq = (s.link link).txSeq + 1 ∧
        (∀ a, t.homeByte a = s.homeByte a) ∧ keepsVregs s t 0 []) ∧
    (∀ msg m a i, s.msgAt msg = some m → m.body = .piece a i → s.accs.has a = true → m.arrived = true →
      let x := s.acc a
      let p := x.pieces.getD i .zero
      p.tgt = .device → s.claimRoom x p = false →
      (s.overflowLines (dieOf p.pa) < overflowCap → s.claims.any (fun c => c.word / 32 == lineOf p.pa) = true →
        ∃ t, exec (.claimOverflow msg) s = .next t ∧
          t.claims = s.claims.map (fun c => if c.word / 32 == lineOf p.pa then { c with ovf := true } else c) ∧ keepsVregs s t 0 [] ∧ keepsRest s t) ∧
      (overflowCap ≤ s.overflowLines (dieOf p.pa) →
        ∃ t, exec (.claimOverflow msg) s = .next t ∧ (t.launch (s.block x.block).launch).st = .ended ∧ keepsVregs s t 0 [])) ∧
    (∀ hub entry e y, (s.regions.get [] hub)[entry]? = some e → 0 < e.k →
      (s.regions.get [] hub).find? (fun y => y.base == (if e.base / e.size % 2 = 0 then e.base + e.size else e.base - e.size) && y.k == e.k && y.sharers == e.sharers) = some y →
      ∃ t, exec (.regionMerge hub entry) s = .next t ∧ (∃ r ∈ t.regions.get [] hub, r.base = min e.base y.base ∧ r.k = e.k - 1 ∧ r.sharers = e.sharers) ∧
        keepsVregs s t 0 [] ∧ keepsRest s t) ∧
    (∀ acc p e level at', s.accs.has acc = true → (s.acc acc).pieces.find? (fun p => p.st == .sent && s.classConflict (s.acc acc) p) = some p →
      s.walk (s.acc acc).ctx p.va = .leaf e level at' → s.cells = [] → s.memoriesWf →
      ∃ t, exec (.reclassify acc) s = .next t ∧ eBits (BitVec.ofNat 64 (t.homeNat at' 8)) 7 2 = 2 ∧ keepsVregs s t 0 [])

/-- R118, R144 to R147, R290, R319: with no conflict at its home, an atomic of one device word is performed there and answers with the old word; a DRAFT obtains a cell that holds the old and the new value and answers true; INK of a cell of its wave leaves the new value in memory; ERASE leaves the old value, unless the cell has been observed, and answers which. A lane that meets a claim of another wave keeps the conflict and changes nothing. It rests on the model's own choices of log entry 39. -/
def Obligations.HomesPerformAtomicsAndDrafts : Prop :=
  ∀ (s : State) (acc : Nat), s.accs.has acc = true →
    let x := s.acc acc
    ∀ p, x.pieces = [p] → p.st = .sent → p.tgt = .device → s.pieceNext acc 0 = true → p.conf = none → p.err = none →
      s.lateDenied x p = false → s.ownPending x p = false →
      (∀ op sg, x.kind = .atomic op sg → s.flipping p.pa = false → s.classConflict x p = false →
        ((∀ w ∈ wordsOf p.pa p.n, s.conflictAt w x.wave true = none) → plainHome s → s.memoryWaits p = false → s.readerCounted (lineOf p.pa) = false →
          (∀ y ∈ s.accs, ∀ q ∈ y.2.pieces, q.tgt = p.tgt → q.pa / 8 = p.pa / 8 → q.st ≠ .atHome) → p.pa % 4 = 0 →
          let old : Word := BitVec.ofNat 32 (s.homeNat p.pa 4)
          ∃ t, exec (.atomicAtHome acc [0]) s = .next t ∧
            t.homeNat p.pa 4 = (atomWord op sg old p.word (x.cmp.get p.lane)).toNat ∧ keepsHomeBut s t p.pa 4 ∧ keepsFarMemory s t ∧
            (t.acc acc).pieces.map (fun q => (q.st, q.val)) = [(.acked, wordBytes old)] ∧ keepsVregs s t 0 []) ∧
        (∀ w c, (s.claimWords p).head? = some w → s.conflictAt w x.wave true = some c →
          ∃ t, exec (.atomicAtHome acc [0]) s = .next t ∧ (t.acc acc).pieces.map (fun q => (q.st, q.conf)) = [(.atHome, some c)] ∧
            keepsVregs s t 0 [] ∧ keepsMemory s t)) ∧
      (∀ o, x.kind = .draft o → p.linked = false → s.flipping p.pa = false → s.classConflict x p = false →
        (plainHome s → s.memoryWaits p = false → s.readerCounted (lineOf p.pa) = false → (∀ w ∈ wordsOf p.pa p.n, s.conflictAt w x.wave true = none) →
          s.cellsAt (homeOf p.pa) < cellCap → (∀ y ∈ s.accs, ∀ q ∈ y.2.pieces, q.tgt = p.tgt → q.pa / 8 = p.pa / 8 → q.st ≠ .atHome) →
          ∃ t c, exec (.draftAtHome acc p.lane) s = .next t ∧ t.cellAt p.pa = some c ∧ c.old = s.mem.dword (p.pa / 8 * 8) ∧
            c.new = mergeCell c.old (p.pa / 8 * 8) p.pa p.data ∧ t.owns x.wave c = true ∧ c.observed = false ∧
            (t.acc acc).pieces.map (fun q => (q.st, q.ok)) = [(.acked, true)] ∧ keepsHomeBut s t (p.pa / 8 * 8) 8 ∧ keepsFarMemory s t ∧ keepsVregs s t 0 []) ∧
        (∀ w c, s.cellAt p.pa = none → s.readerCounted (lineOf p.pa) = false → (s.claimWords p).head? = some w → s.conflictAt w x.wave true = some c →
          ∃ t, exec (.draftAtHome acc p.lane) s = .next t ∧ (t.acc acc).pieces.map (fun q => (q.st, q.conf)) = [(.atHome, some c)] ∧
            t.cells = s.cells ∧ keepsVregs s t 0 [] ∧ keepsMemory s t)) ∧
      (∀ c, s.cellAt p.pa = some c → s.owns x.wave c = true → s.memoriesWf → s.hostLines = [] → s.laneWaits x p = false →
        (x.kind = .ink → ∃ t, exec (.inkAtHome acc p.lane) s = .next t ∧ t.cellAt p.pa = none ∧ t.mem.dword (p.pa / 8 * 8) = c.new ∧
          (∀ a, ¬(p.pa / 8 * 8 ≤ a ∧ a < p.pa / 8 * 8 + 8) → t.mem.byte a = s.mem.byte a) ∧
          (t.acc acc).pieces.map (fun q => (q.st, q.ok)) = [(.acked, true)] ∧ keepsFarMemory s t ∧ keepsVregs s t 0 []) ∧
        (∀ e, x.kind = .erase e → ∃ t, exec (.eraseAtHome acc p.lane) s = .next t ∧ t.cellAt p.pa = none ∧
          t.mem.dword (p.pa / 8 * 8) = (if c.observed then c.new else c.old) ∧
          (∀ a, ¬(p.pa / 8 * 8 ≤ a ∧ a < p.pa / 8 * 8 + 8) → t.mem.byte a = s.mem.byte a) ∧
          (t.acc acc).pieces.map (fun q => (q.st, q.ok)) = [(.acked, !c.observed)] ∧ keepsFarMemory s t ∧ keepsVregs s t 0 []))

/-! ## Fetches that give no instruction -/

/-- R33, R34, R47, R48, R80, R236, R244, R245: with closed check windows and a handler, below handler level, a unit that is no instruction, RTE and HALT, and a word that cannot be fetched enter the handler: XCAUSE holds the cause and subcode (7 for RTE and HALT), XPC the unit, XADDR the word or its address. A fetch that no longer fails leaves the path as it is. It rests on the model's own choices of log entry 31. -/
def Obligations.UnitsThatDoNotExecuteTrap : Prop :=
  ∀ s : State, s.windowsClosed → s.fw.handler = none → s.fl.handler ≠ 0 →
    let enters (s' t : State) (xpc : DWord) : Prop :=
      t.fw.handler = some s.focus.slotB ∧ t.fw.xpc = xpc ∧ t.fw.xmode = s.mode ∧ t.fw.xlanes = s.mask ∧
      t.fs.path = { s.fs.path with pc := s.fl.kdesc + s.fl.handler, mode := s.mode &&& 0x40000 } ∧
      keepsRegs s t [] [] [] ∧ keepsMemory s t ∧ keepsBlocks s t ∧ keepsDevice s' t
    (∀ cause sub word off, ∃ t, exec (.illegalInstruction cause sub word off) s = .next t ∧ enters s t (s.pc + off) ∧
      t.fw.xcause = cause.setWidth 64 + sub.setWidth 64 * 256 ∧ t.fw.xaddr = word.setWidth 64) ∧
    (∀ i, (∃ S, i = .rte S ∨ i = .halt S) → s.fs.phase = 0 → ∃ t, exec i s = .next t ∧ enters s t s.pc ∧
      t.fw.xcause = 0x0701 ∧ t.fw.xaddr = ((encode i).getLastD 0).setWidth 64) ∧
    (∀ va tr, s.fetchErr va = .trap tr → ∃ t, exec (.instructionFetchFault va) s = .next t ∧ enters (s.fetchMet va) t s.pc ∧
      t.fw.xcause = tr.cause.setWidth 64 + tr.sub.setWidth 64 * 256 ∧ t.fw.xaddr = va) ∧
    (∀ va, s.fetchErr va = .fine → ∃ t, exec (.instructionFetchFault va) s = .next t ∧ t.fs.path = s.fs.path ∧ t.fs.held = none ∧
      keepsRegs s t [] [] [] ∧ keepsRest s t)

/-! ## The task scheduler and the distributor -/

/-- R54, R55, R57, R59, R153, R203: LAUNCH_RECORD_TAKE takes the head of the next queue in turn; the record of a context that is not valid makes no launch, and one that passes every check makes the launch that its fields and the lowest matching bucket give. FOOTPRINT_EDGES_FALLEN makes a launch with no page to flip ready. It rests on the model's own choices of log entries 75 and 76. -/
def Obligations.LaunchRecordsAreTaken : Prop :=
  ∀ (s : State) (k c : Nat) (q : LaunchRec), s.queuesRun = true → s.mgmt.bootstat.toNat % 16 = 4 → s.feet.length < 4096 →
    s.nearest s.fullQueues = some k → s.queueHead k = some (c, q) →
    let u := s.popQueue k
    ((s.ctx c).v = false → ∃ t, exec .launchRecordTake s = .next t ∧ t.launches = s.launches ∧ t.mgmt.rr = (k + 1) % 3136 ∧
      (k < 64 → (t.mgmt.lq.get .zero k).recs = (s.mgmt.lq.get .zero k).recs.drop 1) ∧ keepsRegs s t [] [] []) ∧
    (∀ v r w x n, (s.ctx c).v = true → s.launchBlocked c q.va = false → u.schedRead c q.va 128 = some (v, r) → recCtx r = c →
      v.readLaunch c r = some (w, x) → launchCheck q.va x (shOf r q.sh) = .ok n →
      ∃ t, exec .launchRecordTake s = .next t ∧ t.launch w.launches.fresh = launchOf q.va c q x n ∧ t.mgmt.rr = (k + 1) % 3136 ∧
        keepsRegs s t [] [] [] ∧ ∃ f ∈ t.feet, f.launch = some w.launches.fresh ∧ f.ctx = c) ∧
    (∀ l f, s.feet.find? (fun f => f.launch == some l) = some f → (s.launch l).st = .waiting → f.edges = [] → s.mgmt.ranges = [] →
      ∃ t, exec (.footprintEdgesFallen l) s = .next t ∧ (t.launch l).st = .running ∧ keepsRegs s t [] [] [] ∧ keepsMemory s t)

namespace Sys2Proof.Claims

/-- A discarded wave restarts at its REGION word with the lanes and the MODE of then; it keeps its live-in registers, and every other register is zero without guess bits (R73, R74). -/
def restartsAt (v u : Wave) (r : Region) : Prop :=
  u.slotA = { Slot.zero with live := true, path := ⟨r.entry, r.mask, r.mode, none⟩ } ∧ u.slotB = Slot.zero ∧
    u.spill = [] ∧ u.tags = [] ∧ u.mm = false ∧ u.gexposed = 0 ∧ u.pregs = [] ∧
    (∀ k, u.v k = if k < 64 ∧ r.liveV.getLsbD k = true then v.v k else VReg.zero) ∧
    (∀ k, u.sregs.get SRegVal.zero k = if k < 32 ∧ r.liveS.getLsbD k = true then v.sregs.get SRegVal.zero k else SRegVal.zero)

/-- What a pre-emption makes of a resident block (R74, R131, R157). A discardable block keeps its limits, scratch and accumulators and what each wave restarts with; a block that is saved keeps its state and that of its waves, its unfinished loads are taken back to their issue and its copy jobs are suspended. -/
def leavesCore (s t : State) (b : Nat) : Prop :=
  (s.discardable b = true →
    t.block b = { s.block b with
      tabs := [], feeds := [], preds := [], streams := [], sketch := .zero, seqq := [], discarded := true, st := .saved, pageWait := none
      flights := (t.block b).flights, sclaims := (t.block b).sclaims } ∧
    t.abufs = s.abufs ∧
    ∀ w ∈ (s.block b).waves, (s.wave w).exited = false → ∀ r, (s.wave w).region = some r → restartsAt (s.wave w) (t.wave w) r) ∧
  (s.discardable b = false →
    t.block b = { s.block b with st := .saved, pageWait := none, sclaims := (t.block b).sclaims } ∧
    (∀ w ∈ (s.block b).waves, (s.wave w).exited = false → t.wave w = { (s.wave w).away with sfr := (t.wave w).sfr }) ∧
    (∀ a, s.accs.has a = true → (s.acc a).block = b → (s.acc a).abandonable = true → (t.acc a).age = 0 ∧ ∀ p ∈ (t.acc a).pieces, p.st = .fresh) ∧
    (∀ j, (s.job j).block = b → (s.job j).state = 0 → (s.job j).engine < 8 → s.jobs.has j = true → (t.job j).suspended = true))

end Sys2Proof.Claims

/-- R58, R62, R65, R73 to R76, R131, R157: BLOCK_START makes the next block of the launch resident on its core with fresh waves, each at the entry in every lane; BLOCK_PREEMPT and DISTRIBUTOR_SWAP discard a discardable resident block, which keeps its live-in registers, limits, scratch and accumulators, and save any other with the state that it has; BLOCK_RESTORE makes it resident again, and a frame that fails its check ends the launch. It rests on the model's own choices of log entries 10, 24 and 78. -/
def Obligations.BlocksStartMoveAndReturn : Prop :=
  ∀ s : State,
    (∀ l lcore f, s.startable l lcore = true → (s.launch l).freeFrame = some f →
      let b := s.blocks.fresh
      ∃ t, exec (.blockStart l lcore) s = .next t ∧ (t.block b).st = .resident ∧ (t.block b).launch = l ∧ (t.block b).idx = (s.launch l).next ∧
        (t.block b).lcore = lcore ∧ (t.block b).pcore = s.remapOf lcore ∧ (t.block b).frame = f ∧ (t.block b).lim = (s.launch l).lim ∧
        (t.launch l).next = (s.launch l).next + 1 ∧ (t.launch l).live = (s.launch l).live + 1 ∧
        (∀ w, w < (s.launch l).waves → (t.block b).waves[w]? = some (s.waves.fresh + w) ∧
          (t.wave (s.waves.fresh + w)).slotA.path = ⟨(s.launch l).entry, 0xFF, modeReset (s.launch l).fom, none⟩ ∧
          (t.wave (s.waves.fresh + w)).slotA.live = true ∧ (t.wave (s.waves.fresh + w)).slotB.live = false ∧
          (t.wave (s.waves.fresh + w)).idx = w ∧ (t.wave (s.waves.fresh + w)).block = b ∧
          (t.wave (s.waves.fresh + w)).pad = padOf (s.launch l) (s.launch l).next w) ∧
        (∀ w, w < s.waves.fresh → t.wave w = s.wave w) ∧ (∀ a, t.homeByte a = s.homeByte a)) ∧
    (∀ b, (s.block b).st = .resident →
      (∃ t, exec (.blockPreempt b) s = .next t ∧ leavesCore s t b) ∧
      (s.swapDue b = true → ∃ t, exec (.distributorSwap b) s = .next t ∧ leavesCore s t b)) ∧
    (∀ b lcore, s.restorable b lcore = true →
      (∃ t, exec (.blockRestore b lcore true) s = .next t ∧ (t.block b).st = .resident ∧ (t.block b).lcore = lcore ∧
        (t.block b).pcore = s.remapOf lcore ∧ (∀ a, t.homeByte a = s.homeByte a) ∧ keepsRegs s t [] [] []) ∧
      (∃ t, exec (.blockRestore b lcore false) s = .next t ∧ (t.launch (s.block b).launch).st = .ended))

/-- R61, R69, R70, R76, R101, R126, R219, R240, R295: BLOCK_END flushes the block's entries of the fixed-order buffer and, once all have reached their homes, ends the block, and with the last one the launch; LAUNCH_FRAMES_EXHAUSTED ends the launch; SLICE_END makes the other logical core active for SLICEQ instructions; CARVE_APPLY and DISTRIBUTOR_RECARVE set the carve-out and leave no request; PAGE_FAULT_RING_ENTRY writes the next entry of the ring and moves its head; STATIC_CHARGE ends a core cycle: CYC rises by 1 and every issue slot may issue again. It rests on the model's own choices of log entries 11, 58, 77 and 79. -/
def Obligations.CoresAndBlocksAreTended : Prop :=
  ∀ s : State,
    (∀ b, s.blockOver b = true →
      let mine (e : ABuf) : Bool := e.launch == (s.block b).launch && e.block == b
      ((s.flushBufs mine).flushOpen mine = true → ∃ t, exec (.blockEnd b) s = .next t ∧ t.blockOver b = true ∧ (∀ e ∈ t.abufs, mine e = true → e.st ≠ .kept)) ∧
      ((s.flushBufs mine).flushOpen mine = false → ∃ t, exec (.blockEnd b) s = .next t ∧ (t.block b).st = .ended ∧
      ((s.launch (s.block b).launch).live = 1 → (s.launch (s.block b).launch).nblk ≤ (s.launch (s.block b).launch).next →
        (s.launch (s.block b).launch).st = .running → (t.launch (s.block b).launch).st = .ended))) ∧
    (∀ l, (s.launch l).st = .running → (s.launch l).next < (s.launch l).nblk → (s.launch l).frameN ≤ (s.launch l).frames.length → s.liveBlocks l ≠ [] →
      (∀ b ∈ s.liveBlocks l, s.blockHeld b s.atBarrier = true ∧ s.needsUnstarted (s.launch l) b = true) →
      ∃ t, exec (.launchFramesExhausted l) s = .next t ∧ (t.launch l).st = .ended) ∧
    (∀ p l a b, (s.core p).active = some l → s.hosts p = [a, b] → (s.core p).slice = 0 →
      ∃ t, exec (.sliceEnd p) s = .next t ∧ (t.core p).active = some (if l = a then b else a) ∧ (t.core p).slice = s.mgmt.sliceq.toNat ∧
        keepsRegs s t [] [] [] ∧ keepsRest s t) ∧
    (∀ p n, (s.core p).carveReq = some n → s.scratchUsed p ≤ n → s.carveFree p = true →
      ∃ t, exec (.carveApply p) s = .next t ∧ (t.core p).carve = n ∧ (t.core p).carveReq = none ∧ keepsRegs s t [] [] []) ∧
    (∀ l lcore, (s.recarves l).contains lcore = true →
      ∃ t, exec (.distributorRecarve l lcore) s = .next t ∧ (t.core (s.remapOf lcore)).carve = (s.launch l).scr ∧ (t.core (s.remapOf lcore)).carveReq = none ∧ keepsRegs s t [] [] []) ∧
    (∀ k f, s.mgmt.faults[k]? = some f → f.entered = false → s.mgmt.pfbase.getLsbD 0 = true → s.mgmt.pfhead + 1 ≠ s.mgmt.pftail → plainHome s →
      ∃ t, exec (.pageFaultRingEntry k) s = .next t ∧ t.mgmt.pfhead = s.mgmt.pfhead + 1 ∧
        t.homeBytes (bitsOf s.mgmt.pfbase.toNat 13 27 * 8192 + 32 * s.mgmt.pfhead.toNat) 32 = f.bytes ∧
        keepsHomeBut s t (bitsOf s.mgmt.pfbase.toNat 13 27 * 8192 + 32 * s.mgmt.pfhead.toNat) 32 ∧ keepsRegs s t [] [] []) ∧
    (∀ p, s.coreClock = true → coreExists p = true → s.parked (coreDie p) = false →
      ∃ t, exec (.staticCharge p) s = .next t ∧ (t.core p).cyc = (s.core p).cyc + 1 ∧ (t.core p).usedSlots = [])

/-! ## Jobs, the sequencer, expert queues -/

namespace Sys2Proof.Claims

/-- Words of a copy step: word `k` of those read is in `d` at byte 4k. -/
def wordOf (d : List Byte) (k : Nat) : List Byte := (d.drop (4 * k)).take 4

/-- No later word of the list lies on the bytes of word `k`: where the rows of a destination overlap, the last word written stands. -/
def lastAt (as : List Nat) (k : Nat) : Prop := ∀ (a b m : Nat), as[k]? = some a → k < m → as[m]? = some b → overlaps b 4 a 4 = false

/-- What a step to a feed does with the 32 rows of a k-group, read in state `u`: the job keeps them, and the last group completes the item, which enters the feed (R159, R162). -/
def feedsGroup (u t : State) (id f : Nat) (h : Shape) (total : Nat) (rows scales : List (Option Nat)) : Prop :=
  let j := u.job id
  ∀ s1 d s2 sd,
    u.jobRead id h.scr ((rangesOf rows (16 * j.prog) 16).flatMap (fun x => (List.range 4).map (fun k => (x.1 + 4 * k, 4)))) = .ok (s1, d) →
    (if h.sc && j.prog = 0 then s1.jobRead id false ((rangesOf scales 0 h.scaleRow).flatMap (fun x => (List.range x.2).map (fun k => (x.1 + k, 1)))) else .ok (s1, [])) = .ok (s2, sd) →
    let buf := j.buf ++ spread 16 rows d
    let sbuf := if h.sc && j.prog = 0 then spread h.scaleRow scales sd else j.sbuf
    let items (v : State) : List Tile := ((v.block j.block).feeds.get Feed.zero f).items
    (j.prog + 1 < h.steps → (t.job id).prog = j.prog + 1 ∧ (t.job id).buf = buf ∧ (t.job id).sbuf = sbuf ∧ (t.job id).tiles = j.tiles ∧ items t = items u) ∧
    (h.steps ≤ j.prog + 1 → items t = items u ++ [⟨false, h.et, h.d0, h.sc, padTo (512 * h.steps) buf, if h.sc then padTo (32 * h.scaleRow) sbuf else []⟩] ∧
      (t.job id).tiles = j.tiles + 1 ∧ (t.job id).prog = 0 ∧ ((t.job id).copyDone = true ↔ total ≤ j.tiles + 1))

end Sys2Proof.Claims

/-- R115, R121, R153 to R156, R159, R161 to R163, R170, R301: JOB_START starts a job whose edges have fallen, and ends one whose footprint meets an open claim with cause 0x10; JOB_STEP moves a copy on by up to 512 bytes, from scratch to memory and from memory to scratch, brings a k-group of the rows of a tile or of the rows that a gather names to a feed, and stops a cancelled one; JOB_COMPLETE completes the future in the state of the outcome; FOLLOW_ON_BEGIN begins the queued command of a landed copy; KGROUP_STEP runs one k-group of the head command, or ends a command that drains; EQ_FIRING empties up to 256 tokens into the buffer and queues the bound record; EQ_COUNTDOWN_EXPIRY makes the queue due. It rests on the model's own choices of log entries 64, 67, 68 and 70. -/
def Obligations.JobsRunAndEnd : Prop :=
  ∀ s : State,
    (∀ id, s.mayStart id = true → (s.job id).kind.isCopy = true →
      ∃ t, exec (.jobStart id) s = .next t ∧ (t.job id).started = true ∧ keepsRegs s t [] [] [] ∧ keepsMemory s t ∧
        (∀ c, s.footConflict (s.job id) = some c → (t.job id).copyDone = true ∧ (t.job id).code = 0x10 ∧ (t.job id).sub = c.1)) ∧
    (∀ id, s.clockRuns = true → s.jobs.has id = true → (s.job id).kind.isCopy = true → (s.block (s.job id).block).st = .resident →
      (s.job id).suspended = false → (s.job id).copyDone = false → (s.job id).state = 0 → (s.job id).started = true →
      ((s.job id).cancel = true → ∃ t, exec (.jobStep id) s = .next t ∧ (t.job id).copyDone = true ∧ (t.job id).code = 0 ∧ keepsRegs s t [] [] [] ∧ keepsMemory s t) ∧
      ((s.job id).cancel = false → (s.job id).pageWait = none → s.jobFlips (s.job id) = false →
        (∀ k a b f q, (s.job id).kind = .copy k a b f q → k < 2 → plainHome s →
          let os := stepWords (s.job id).prog a.total
          let goesOn (t : State) : Prop := (t.job id).prog = (s.job id).prog + 4 * os.length ∧
            ((t.job id).copyDone = true ↔ a.total ≤ (s.job id).prog + 4 * os.length) ∧ keepsRegs s t [] [] []
          (a.scr = true → b.scr = false → ∀ ps, s.writePlaces (s.job id) (os.map b.byteAddr) = .ok ps → (∀ p ∈ ps, p.tgt = .device) →
            s.secsWait (partWords ps) = false → (s.fetchSecs (partWords ps)).badSecs (partWords ps) = [] →
            ∃ t, exec (.jobStep id) s = .next t ∧ goesOn t ∧
              (∀ (n o : Nat) p, os[n]? = some o → ps[n]? = some p → lastAt (ps.map Place.pa) n →
                t.homeBytes p.pa 4 = (s.block (s.job id).block).scratch.bytes (a.byteAddr o) 4) ∧
              (∀ c, (∀ p ∈ ps, ¬(p.pa ≤ c ∧ c < p.pa + 4)) → t.homeByte c = s.homeByte c) ∧ keepsFarMemory s t) ∧
          (a.scr = false → b.scr = true → ∀ s1 d, s.jobRead id false (os.map (fun o => (a.byteAddr o, 4))) = .ok (s1, d) →
            ∃ t, exec (.jobStep id) s = .next t ∧ goesOn t ∧
              (∀ (n o : Nat), os[n]? = some o → lastAt (os.map b.byteAddr) n → (t.block (s.job id).block).scratch.bytes (b.byteAddr o) 4 = wordOf d n) ∧
              (∀ c, (∀ o ∈ os, ¬(b.byteAddr o ≤ c ∧ c < b.byteAddr o + 4)) →
                (t.block (s.job id).block).scratch.byte c = (s.block (s.job id).block).scratch.byte c) ∧
              (∀ c, t.homeByte c = s.homeByte c))) ∧
        (∀ k a b f q, (s.job id).kind = .copy k a b f q → 2 ≤ k → a.map = false → (s.job id).prog ≠ 0 ∨ s.feedReady id f a.steps = true →
          ∃ t, exec (.jobStep id) s = .next t ∧ keepsRegs s t [] [] [] ∧
            feedsGroup s t id f a a.tiles (a.tileRows (s.job id).tiles) (a.tileScales (s.job id).tiles)) ∧
        (∀ data index row f s1 idx, (s.job id).kind = .gath data index row f → data.map = false → (s.job id).prog ≠ 0 ∨ s.feedReady id f data.steps = true →
          s.jobRead id false (((List.range 32).filter (fun r => decide (row + r < index.d0))).map (fun r => (index.base.toNat + 4 * (row + r), 4))) = .ok (s1, idx) →
          ∃ t, exec (.jobStep id) s = .next t ∧ keepsRegs s t [] [] [] ∧
            feedsGroup s1 t id f data 1 ((gathRows data index row idx).map (fun r => r.map data.rowAddr))
              ((gathRows data index row idx).map (fun r => r.map (fun v => data.scale.toNat + data.scaleRow * v)))))) ∧
    (∀ id, s.jobs.has id = true → (s.job id).state = 0 → (s.job id).kind.isCopy = true → (s.job id).copyDone = true → s.followQueued id = false →
      ∃ t, exec (.jobComplete id) s = .next t ∧ (t.job id).state = (s.job id).outcome ∧ (∀ f ∈ t.feet, f.job ≠ some id) ∧ keepsRegs s t [] [] [] ∧
        (s.hostAccs = [] → keepsMemory s t)) ∧
    (∀ id c, (s.block (s.job id).block).seqq.find? (fun c => c.job == some id) = some c → s.jobs.has id = true → c.begun = false →
      (s.job id).copyDone = true → (s.block (s.job id).block).missing c = none →
      ∃ t, exec (.followOnBegin id) s = .next t ∧ (∀ y ∈ (t.block (s.job id).block).seqq, y.job = some id → y.begun = true) ∧
        ((s.job id).code ≠ 0 ∨ (s.job id).cancel = true → ∀ y ∈ (t.block (s.job id).block).seqq, y.job = some id → y.drain = true) ∧
        keepsRegs s t [] [] [] ∧ keepsMemory s t) ∧
    (∀ b c rest ta tb, s.clockRuns = true → s.seqTurn (s.block b).pcore = some b → (s.block b).seqq = c :: rest →
      (s.block b).item c.i c.pa = some ta → (s.block b).item c.j c.pb = some tb →
      (c.drain = true ∨ c.q = .known false → ∃ t, exec (.kgroupStep b) s = .next t ∧ (t.block b).seqq = rest ∧ keepsRegs s t [] [] [] ∧ keepsMemory s t) ∧
      (c.drain = false → c.q ≠ .known false → ((s.block b).accum c.aD).step + 1 < ta.steps → (s.block b).mapItem c = none →
        ∃ t, exec (.kgroupStep b) s = .next t ∧ (t.block b).seqq = c :: rest ∧
          (t.block b).accum c.aD = runGroup ((s.block b).accum c.aD) ta tb (planOf c none ta) ((s.block b).accum c.aD).step ∧
          keepsRegs s t [] [] [] ∧ keepsMemory s t)) ∧
    (∀ q c, (s.eq q).ctx = some c →
      (∀ u, (s.eq q).due = true → (s.eq q).busy.any (fun x => x.2 == (s.eq q).buffer) = false → (s.mgmt.lauq.get [] c).length < 256 → s.queuesRun = true →
        s.sysWrite none c ((s.eq q).bufVa + BitVec.ofNat 64 (4096 * (s.eq q).buffer)) (tokenBytes ((s.eq q).tokens.take 256)) = some u →
        ∃ t, exec (.eqFiring q) s = .next t ∧ (t.eq q).tokens = (s.eq q).tokens.drop 256 ∧ (t.eq q).firing = (s.eq q).firing + 1 ∧
          (∃ r, t.mgmt.lauq.get [] c = s.mgmt.lauq.get [] c ++ [r] ∧ r.va = (s.eq q).lrec ∧
            r.sh = some (BitVec.ofNat 32 ((s.eq q).tokens.take 256).length, BitVec.ofNat 32 (s.eq q).buffer)) ∧
          (∀ a, t.homeByte a = u.homeByte a) ∧ keepsRegs s t [] [] []) ∧
      ((s.eq q).cdown ≠ 0 → (s.eq q).counting = true →
        ∃ t, exec (.eqCountdownExpiry q) s = .next t ∧ t.eq q = { s.eq q with expired := true } ∧ keepsRegs s t [] [] [] ∧ keepsMemory s t))

/-! ## Collectives -/

/-- R174, R175, R177, R180 to R185: for a party of a running collective, EXPONENT_RECEIVE records the sender, and the exponents of one on a peer; CHUNK_STEP_SEND first prepares the party and then makes its next own chunk-step, or sends its next chunk with its header and proof word; CHUNK_RECEIVE passes over a chunk that never comes, adds one that passes its check to the partial in the order of the steps, stores one of the all-gather, and keeps a failed chunk-step with the sender's copy; COLL_TIMEOUT makes the missing chunk a failed chunk-step, and ends the party with SUB 7 where exponents are missing. It rests on the model's own choices of log entries 23, 71 and 73. -/
def Obligations.PartiesExchangeChunks : Prop :=
  ∀ (s : State) (i p id : Nat), s.insts.has i = true → s.partyRuns i p = true → (s.party i p).job = some id →
    let x := s.party i p
    let np := (s.inst i).np
    (∀ src exps, x.desc.reduces = true → x.desc.emode = 0 → src ≠ p → x.expFrom.contains src = false → src < np →
      (s.isLocal i src = true → (s.party i src).joined = true ∧ (s.party i src).prep = true) →
      ∃ t, exec (.exponentReceive i src p exps) s = .next t ∧ (t.party i p).expFrom = x.expFrom ++ [src] ∧
        (s.isLocal i src = false → ∀ k, k < exps.length → (t.party i src).exps.get (-149) k = exps.getD k 0) ∧
        keepsRegs s t [] [] [] ∧ keepsMemory s t) ∧
    (s.fullg = false → s.jobFlips (s.job id) = false →
      (x.prep = false →
        (x.desc.reduces = false → ∃ t, exec (.chunkStepSend i p) s = .next t ∧ (t.party i p).prep = true ∧ keepsRegs s t [] [] [] ∧ keepsMemory s t) ∧
        (∀ v b, x.desc.reduces = true → x.desc.emode = 1 → s.collRead id x.desc.eva (2 * (x.desc.count / 64)) = .ok (v, b) →
          ∃ t, exec (.chunkStepSend i p) s = .next t ∧ (t.party i p).prep = true ∧ keepsRegs s t [] [] [] ∧
            ∀ c, c < x.desc.count / 64 → (t.party i p).exps.get (-149) c = (BitVec.ofNat 16 (fieldAt b (2 * c) 2)).toInt) ∧
        (∀ v b, x.desc.reduces = true → x.desc.emode ≠ 1 → s.collRead id x.desc.src (4 * x.desc.count) = .ok (v, b) →
          ∃ t, exec (.chunkStepSend i p) s = .next t ∧ (t.party i p).prep = true ∧ keepsRegs s t [] [] [] ∧
            ∀ c, c < x.desc.count / 64 → (t.party i p).exps.get (-149) c = chunkExp (((wordsIn b).drop (64 * c)).take 64))) ∧
      (∀ c, x.prep = true → (x.recv np)[x.rcur]? = some c → s.cellWaits id (x.desc.dst + 256 * c.chunk) 256 = false →
        (∀ v ws u, c.act = .own → s.srcWords id i p c.chunk = .ok (v, ws) → v.putDst id i p c.chunk ws = .ok u →
          ∃ t, exec (.chunkStepSend i p) s = .next t ∧ (t.party i p).rcur = x.rcur + 1 ∧ (∀ a, t.homeByte a = u.homeByte a) ∧ keepsRegs s t [] [] []) ∧
        (∀ u, c.act = .cvt → np < x.next c.chunk → s.putDst id i p c.chunk (fxWords (x.partials.get ⟨0, 0, [], 0⟩ c.chunk)) = .ok u →
          ∃ t, exec (.chunkStepSend i p) s = .next t ∧ (t.party i p).rcur = x.rcur + 1 ∧ (∀ a, t.homeByte a = u.homeByte a) ∧ keepsRegs s t [] [] [] ∧
            (t.party i p).vals.get [] c.chunk = fxWords (x.partials.get ⟨0, 0, [], 0⟩ c.chunk)) ∧
        (c.act = .cvt → x.next c.chunk ≤ np →
          ∃ t, exec (.chunkStepSend i p) s = .next t ∧ (t.party i p).rcur = x.rcur + 1 ∧ (c.step, c.chunk) ∈ (t.party i p).blocked ∧
            keepsRegs s t [] [] [] ∧ keepsMemory s t)) ∧
      (∀ c, x.prep = true → (∀ y, (x.recv np)[x.rcur]? = some y → y.act = .red ∨ y.act = .gat) → (x.send np)[x.scur]? = some c →
        s.isLocal i c.rcv = true ∨ s.linkUp ((s.inst i).home c.rcv).1 = true →
        let sent (v : State) (raw : Bool) (f : FxChunk) : Prop :=
          ∃ t, exec (.chunkStepSend i p) s = .next t ∧ (t.party i p).scur = x.scur + 1 ∧ keepsRegs s t [] [] [] ∧
            let d := chunkBytes (s.inst i).cid c.step c.chunk c.snd raw f
            (t.inst i).flying = (v.inst i).flying ++ [⟨c.step, c.chunk, c.snd, c.rcv, d, if s.isLocal i c.rcv then (v.cross i c d).2 else []⟩]
        (∀ v f, c.act = .red → x.expBad c.chunk = false → s.expsNever i p = false → s.hasExps i p = true → s.contribution id i p c.chunk = .ok (v, f) → sent v false f) ∧
        (∀ ws, c.act = .gat → x.desc.reduces = true → x.vals.find? (fun y => y.1 == c.chunk) = some (c.chunk, ws) → sent s true (rawChunk ws)) ∧
        (∀ v ws, c.act = .gat → x.desc.reduces = false → s.srcWords id i p c.chunk = .ok (v, ws) → sent v true (rawChunk ws)))) ∧
    (∀ c again, s.fullg = false → s.jobFlips (s.job id) = false → s.redoJob i p = none → s.lateStep i p = none → x.prep = true →
      (x.recv np)[x.rcur]? = some c → c.act = .red ∨ (c.act = .gat ∧ s.cellWaits id (x.desc.dst + 256 * c.chunk) 256 = false) →
      (∀ v, s.neverComes i c = true → s.keepPartial id i c = .ok v →
        ∃ t, exec (.chunkReceive i p [] again) s = .next t ∧ (t.party i p).rcur = x.rcur + 1 ∧ (c.step, c.chunk) ∈ (t.party i p).blocked ∧
          (t.party i p).partials = (v.party i p).partials ∧ keepsRegs s t [] [] [] ∧ (plainHome s → keepsMemory s t)) ∧
      (∀ f, s.neverComes i c = false → s.hasExps i p = true → s.isLocal i c.snd = true → c.rcv = p →
        (s.inst i).flying.find? (sameFly c) = some f →
        let raw := c.act == .gat
        let b := chunkOf raw f.got
        let good := headerOk (s.inst i).cid c.step c.chunk c.snd raw (if raw then 0 else s.expOf i p c.chunk) f.got && proofOf raw b.mask b.m == b.proof
        (good = true → x.retried.find? (fun r => r.1 == c.step && r.2.1 == c.chunk) = none →
          (∀ u, c.act = .gat → (s.unfly i c).putDst id i p c.chunk (rawWords b) = .ok u →
            ∃ t, exec (.chunkReceive i p [] again) s = .next t ∧ (t.party i p).rcur = x.rcur + 1 ∧ (∀ a, t.homeByte a = u.homeByte a) ∧ keepsRegs s t [] [] []) ∧
          (∀ a, c.act = .red → 1 ≤ c.step → c.step ≤ np → x.next c.chunk = c.step → x.failed.any (fun g => g.step == c.step && g.chunk == c.chunk) = false →
            x.incs.has (incKey (c.step + 1) c.chunk) = false → s.injFires x.desc.die 2 c.step = false → x.expBad c.chunk = false →
            let u := (s.unfly i c).updParty i p (fun y => { y with incs := y.incs.set (incKey c.step c.chunk) b })
            x.partials.find? (fun y => y.1 == c.chunk) = some (c.chunk, a) ∨ (x.partials.has c.chunk = false ∧ ∃ v, u.contribution id i p c.chunk = .ok (v, a)) →
            let m := addChunks a b
            proofOf false m.mask m.m = expectedProof a b m.mask →
            ∃ t, exec (.chunkReceive i p [] again) s = .next t ∧ (t.party i p).rcur = x.rcur + 1 ∧ (t.party i p).next c.chunk = c.step + 1 ∧
              (t.party i p).partials.get ⟨0, 0, [], 0⟩ c.chunk = { m with proof := proofOf false m.mask m.m } ∧ keepsRegs s t [] [] [])) ∧
        (good = false → (s.inst i).flags % 2 = 0 → x.desc.errN ≤ x.recs.length → c.act = .gat ∨ x.partials.has c.chunk = true →
          ∃ t, exec (.chunkReceive i p [] again) s = .next t ∧ (t.party i p).rcur = x.rcur + 1 ∧ (t.party i p).recs = x.recs ++ [1] ∧
            ⟨c.step, c.chunk, c.snd, false⟩ ∈ (t.party i p).failed ∧
            ((s.party i c.snd).released = false → ⟨c.step, c.chunk, c.snd, c.rcv, f.bytes, []⟩ ∈ (t.inst i).kept) ∧
            (t.party i p).partials = x.partials ∧ keepsRegs s t [] [] [] ∧ keepsMemory s t))) ∧
    (x.prep = true → (s.inst i).timeout ≠ 0 → s.expsNever i p = false → x.desc.errN ≤ x.recs.length →
      (∀ c v, s.hasExps i p = true → (x.recv np)[x.rcur]? = some c → c.act = .red ∨ c.act = .gat → s.neverComes i c = false → s.keepPartial id i c = .ok v →
        ∃ t, exec (.collTimeout i p) s = .next t ∧ (t.party i p).rcur = x.rcur + 1 ∧
          ⟨c.step, c.chunk, c.snd, false⟩ ∈ (t.party i p).failed ∧ (t.party i p).recs = x.recs ++ [1] ∧ keepsRegs s t [] [] []) ∧
      (s.hasExps i p = false →
        ∃ t, exec (.collTimeout i p) s = .next t ∧ (t.party i p).off = some (0x11, 7) ∧ keepsRegs s t [] [] [] ∧ keepsMemory s t ∧
          (t.party i p).recs = x.recs ++ ((List.range np).filter (fun q => q != p && !x.expFrom.contains q)).map (fun _ => 1)))

/-- R180, R183, R184: the receiver's check of a chunk. With its header right and the recomputed proof word equal to the one in the chunk, an all-gather chunk is stored and the chunk-step is over; with the proof word wrong and no retry to ask for, the step is kept as failed, counted in a record of kind 1, and over; under ARETRY the first failure asks for the chunk again and the step is not over. It rests on the model's own choices of log entry 72. -/
def Obligations.ChunksAreChecked : Prop :=
  ∀ (s : State) (id i : Nat) (t : CStep) (sent d : List Byte), t.act = .gat →
    let x := chunkOf true d
    let good := headerOk (s.inst i).cid t.step t.chunk t.snd true 0 d && proofOf true x.mask x.m == x.proof
    let tried := (s.party i t.rcv).retried.find? (fun r => r.1 == t.step && r.2.1 == t.chunk)
    (good = true → tried = none → s.checkChunk id i t sent d =
      (match (s.unfly i t).putDst id i t.rcv t.chunk (rawWords x) with | .ok u => .ok (u, true) | .error e => .error e)) ∧
    (good = false → (s.inst i).flags % 2 = 1 → tried = none →
      ∃ u, s.checkChunk id i t sent d = .ok (u, false) ∧ u.inst i = { (s.crossAgain i t sent).inst i with parties := (u.inst i).parties } ∧ (u.inst i).kept = (s.inst i).kept ∧
        (u.inst i).flying.map (fun f => { f with flits := [] }) = (s.inst i).flying.map (fun f => { f with flits := [] }) ∧
        (u.party i t.rcv).failed = (s.party i t.rcv).failed ∧
        (u.party i t.rcv).retried = (s.party i t.rcv).retried ++ [(t.step, t.chunk, x.proof, proofOf true x.mask x.m)]) ∧
    (good = false → (s.inst i).flags % 2 = 0 ∨ tried ≠ none → (s.party i t.rcv).desc.errN ≤ (s.party i t.rcv).recs.length →
      ∃ u, s.checkChunk id i t sent d = .ok (u, true) ∧ ⟨t.step, t.chunk, t.snd, false⟩ ∈ (u.party i t.rcv).failed ∧
        (u.party i t.rcv).recs = (s.party i t.rcv).recs ++ [1] ∧ ((s.party i t.snd).released = false → ⟨t.step, t.chunk, t.snd, t.rcv, sent, []⟩ ∈ (u.inst i).kept))

/-! ## Memory controllers -/

/-- R190 to R196: MC_REQUEST adds the parts of a group to the schedulers of its pseudo-channels, that of an access once, with what is left of its patience; PC_SCHEDULE serves the first of the groups that may be served, whose part leaves; PATIENCE_EXPIRY demotes and STARVATION_PROMOTE ages a group; REFRESH_DUE postpones a refresh behind activates, issues it otherwise, and enters CATCHUP at 8; ALERT_BACKOFF at 8 enters BACKOFF; CATCHUP_REFRESH leads from BACKOFF to CATCHUP and down to NORMAL; PATROL_SCRUB counts a corrected sector, corrects it, and marks an uncorrectable one; ROW_SPARE_DONE remaps the row to the lowest free spare row of its bank. No byte at home and no register changes. It rests on the model's own choices of log entries 82, 83 and 84. -/
def Obligations.MemoryControllersServe : Prop :=
  ∀ (s : State) (k pci bank : Nat),
    let quiet (t : State) : Prop := keepsRegs s t [] [] [] ∧ keepsRest s t
    let parts (who : Option (Nat × Nat × Nat)) (secs : List Nat) (left : Option Nat) (now : Nat) (wr : Bool) : List Group :=
      ((secs.map secPci).eraseDups).map (fun c =>
        ⟨s.seq, who, c, secs.filter (fun x => secPci x == c), left.map (fun n => now + n), left == some 0, false, wr, s.seq⟩)
    (∀ sectors fabric home now wr, k < 16 → (∃ x ∈ sectors, secStack x = k ∧ x < 2 ^ 34) →
      ∃ t, exec (.mcRequest k none sectors fabric home now wr) s = .next t ∧ quiet t ∧
        (t.stack k).groups = (s.stack k).groups ++ parts none ((sectors.filter (fun x => secStack x == k && decide (x < 2 ^ 34))).eraseDups) none now wr) ∧
    (∀ acc sectors fabric home now wr, k < 16 → s.accs.has acc = true →
      let x := s.acc acc
      s.requested x k ≠ [] → (∀ g ∈ (s.stack k).groups, g.who ≠ some x.who) →
      ∃ t, exec (.mcRequest k (some acc) sectors fabric home now wr) s = .next t ∧ quiet t ∧
        (t.stack k).groups = (s.stack k).groups ++ parts (some x.who) (s.requested x k)
          (if x.noLimit then none else x.limit.map (fun l => (if x.guessed then 0 else min ((l - x.age) * 1600 / s.coreMHz) 0xFFFFFFFE) - fabric - home)) now x.kind.writes) ∧
    (∀ g, s.arrayPaused = false →
      (s.stack k).soonest ((s.stack k).groups.filter (fun g => g.pci == pci && (s.stack k).servable g)) = some g →
      ∃ t, exec (.pcSchedule k pci [] []) s = .next t ∧ (t.stack k).groups = (s.stack k).groups.filter (fun x => !(x.id == g.id && x.pci == g.pci)) ∧ quiet t) ∧
    (∀ g, ∃ t, exec (.patienceExpiry k g) s = .next t ∧ quiet t ∧
      (t.stack k).groups = (s.stack k).groups.map (fun x => if x.id = g ∧ x.deadline.isSome then { x with demoted := true } else x)) ∧
    (∀ g, ∃ t, exec (.starvationPromote k g) s = .next t ∧ quiet t ∧
      (t.stack k).groups = (s.stack k).groups.map (fun x => if x.id = g then { x with aged := true } else x)) ∧
    (((s.stack k).bankRef pci bank).st = .normal →
      (∃ t, exec (.refreshDue k pci bank) s = .next t ∧ quiet t ∧ (t.stack k).bankRef pci bank =
        (if 8 ≤ ((s.stack k).bankRef pci bank).count then ⟨.catchup, ((s.stack k).bankRef pci bank).count⟩
         else if (s.stack k).activates pci bank then ⟨.normal, ((s.stack k).bankRef pci bank).count + 1⟩
         else ⟨.normal, ((s.stack k).bankRef pci bank).count - 1⟩)) ∧
      (8 ≤ ((s.stack k).bankRef pci bank).count → ∃ t, exec (.alertBackoff k pci bank) s = .next t ∧ quiet t ∧
        (t.stack k).bankRef pci bank = ⟨.backoff, ((s.stack k).bankRef pci bank).count⟩)) ∧
    (((s.stack k).bankRef pci bank).st ≠ .normal → ∃ t, exec (.catchupRefresh k pci bank) s = .next t ∧ quiet t ∧
      (t.stack k).bankRef pci bank = (if ((s.stack k).bankRef pci bank).st = .backoff then ⟨.catchup, ((s.stack k).bankRef pci bank).count⟩
        else ⟨if ((s.stack k).bankRef pci bank).count - 1 = 0 then .normal else .catchup, ((s.stack k).bankRef pci bank).count - 1⟩)) ∧
    (∀ x, k < 16 → secStack x = k → x < 2 ^ 34 → s.bad = [] → s.lost = [] → s.arrayPaused = false → (s.stack k).scrubWaits (secRow x) = false →
      (s.weak = [] → ∃ t, exec (.patrolScrub k (secRow x) [x] []) s = .next t ∧ quiet t ∧ t.bad = [] ∧ (t.stack k).cecnt = addSat (s.stack k).cecnt 1) ∧
      (s.weak = [] → ∃ t, exec (.patrolScrub k (secRow x) [] [x]) s = .next t ∧ quiet t ∧ t.bad = [(1, x)] ∧ (t.stack k).uecnt = addSat (s.stack k).uecnt 1) ∧
      (s.weak = [x] → ∃ t, exec (.patrolScrub k (secRow x) [] []) s = .next t ∧ quiet t ∧ t.weak = [] ∧ (t.stack k).cecnt = addSat (s.stack k).cecnt 1)) ∧
    (∀ r n, (s.stack k).sparing = some r → (s.stack k).freeSpare r.1 r.2.1 = some n →
      ∃ t, exec (.rowSpareDone k) s = .next t ∧ quiet t ∧ (r.1, r.2.1, r.2.2, n) ∈ (t.stack k).remap ∧ (t.stack k).spared = (s.stack k).spared + 1)

/-! ## Links, peers, the host port and bias -/

/-- R186, R204 to R207, R210, R314, R320: on an UP link FLIT_RECEIVE counts a bad CRC and answers it with a NAK, accepts the expected flit, whose buffer owes a credit, inverts the bit of a chunk's flit that COLLINJ arms for its port, and drops any other; NAK_RECEIVE replays from the flit named; the first LANE_LOSS leads to RETRAIN and a second to DOWN, which empties the queue; RETRAIN_END brings the ninth lane in and the link UP; LINK_TIMEOUT makes the link DOWN; PEER_REQUEST reads, writes, updates or reduces what the request of an accepted flit asks, or answers it with an error completion; PEER_ERROR_COMPLETION fails a load with a page fault, subcode 1, and drops the posted write at the head of a link with an error for its wave's next wait. It rests on the model's own choices of log entries 14, 87 and 88. -/
def Obligations.LinksCarryAndRecover : Prop :=
  ∀ (s : State) (n : Nat), n < 16 →
    let l := s.link n
    let quiet (t : State) : Prop := keepsRegs s t [] [] [] ∧ keepsRest s t
    (l.state = 2 → ∀ ty seq payload, ty ≤ 5 →
      (∃ t, exec (.flitReceive n ty seq none) s = .next t ∧ quiet t ∧
        t.link n = { l with stat := bumpField l.stat 8 24, nakSent := some l.rxSeq.toNat }) ∧
      (seq ≠ l.rxSeq.toNat → ∃ t, exec (.flitReceive n ty seq (some payload)) s = .next t ∧ quiet t ∧ t.link n = l) ∧
      (seq = l.rxSeq.toNat → ty = 4 → bitsOf (s.inj (n / 4)) 0 2 = 1 → bitsOf (s.inj (n / 4)) 8 5 = 16 + n → bitsOf (s.inj (n / 4)) 32 16 = 0 →
        let b := bitsOf (s.inj (n / 4)) 13 11
        ∃ t, exec (.flitReceive n ty seq (some payload)) s = .next t ∧ keepsRegs s t [] [] [] ∧ keepsMemory s t ∧ bitsOf (t.inj (n / 4)) 0 2 = 0 ∧
          (t.link n).rxSeq = l.rxSeq + 1 ∧
          (t.link n).chunkIn = l.chunkIn ++ [if 32 ≤ b ∧ b < 1984 then flipBit ((payload ++ List.replicate 244 0).take 244) (b - 32)
            else (payload ++ List.replicate 244 0).take 244]) ∧
      (seq = l.rxSeq.toNat → ty ≠ 4 ∨ bitsOf (s.inj (n / 4)) 0 2 ≠ 1 → ∃ t, exec (.flitReceive n ty seq (some payload)) s = .next t ∧ quiet t ∧
        t.link n = { l with
          rxSeq := l.rxSeq + 1, nakSent := none
          owed := if ty = 0 ∨ ty = 5 then l.owed else l.owed + 1
          reqs := if ty = 1 ∨ ty = 3 then l.reqs + 1 else l.reqs
          chunkIn := if ty = 4 then l.chunkIn ++ [(payload ++ List.replicate 244 0).take 244] else l.chunkIn })) ∧
    (l.state = 2 → ∀ seq, (∃ f ∈ l.replay, f.seq = seq) → ∃ t, exec (.nakReceive n seq) s = .next t ∧ quiet t ∧
      (t.link n).replay = l.replay.dropWhile (fun f => f.seq != seq) ∧
      ((t.link n).state = 3 ↔ l.nak = some seq ∧ 15 ≤ l.fails)) ∧
    (l.state = 2 → ∀ lane, lane < 8 → l.spare = false → l.lostLane = none →
      ∃ t, exec (.laneLoss n lane) s = .next t ∧ quiet t ∧ (t.link n).state = 3 ∧ (t.link n).lostLane = some lane ∧ (t.link n).queue = l.queue) ∧
    (l.state = 2 → l.spare = true →
      ∃ t, exec (.laneLoss n 8) s = .next t ∧ (t.link n).state = 0 ∧ (t.link n).queue = [] ∧ keepsRegs s t [] [] [] ∧ keepsMemory s t) ∧
    (l.state = 3 →
      (l.lostLane = none → ∃ t, exec (.retrainEnd n) s = .next t ∧ quiet t ∧ (t.link n).state = 2) ∧
      (∀ k, l.lostLane = some k → l.spare = false → ∃ t, exec (.retrainEnd n) s = .next t ∧ quiet t ∧ (t.link n).state = 2 ∧ (t.link n).spare = true ∧
        (t.link n).lostLane = none) ∧
      (∃ t, exec (.linkTimeout n) s = .next t ∧ (t.link n).state = 0 ∧ (t.link n).queue = [] ∧ keepsRegs s t [] [] [] ∧ keepsMemory s t)) ∧
    (∀ (dev : BitVec 14) asid va op data, linkOf dev.toNat = n → l.state = 2 → s.fullg = false → l.reqs ≠ 0 → peerFits op va data.length = true →
      let word : Word := BitVec.ofNat 32 (leNat data)
      let answered (t : State) (err : Bool) (d : List Byte) : Prop := (t.link n).reqs = l.reqs - 1 ∧ keepsRegs s t [] [] [] ∧
        ∃ f, (t.link n).replay.getLast? = some f ∧ f.ty = 2 ∧ f.err = err ∧ f.payload = d
      (s.peerCtx asid = none → ∃ t, exec (.peerRequest dev asid va op data) s = .next t ∧ quiet t ∧ answered t true []) ∧
      (∀ c, s.peerCtx asid = some c →
        (∀ e, s.placeHub c c va (peerRight op) = .error e → ∃ t, exec (.peerRequest dev asid va op data) s = .next t ∧ quiet t ∧ answered t true []) ∧
        (∀ p, s.placeHub c c va (peerRight op) = .ok p → p.tgt ≠ .device → ∃ t, exec (.peerRequest dev asid va op data) s = .next t ∧ quiet t ∧ answered t true []) ∧
        (∀ p, s.placeHub c c va (peerRight op) = .ok p → p.tgt = .device → plainHome s → s.badLevel p.pa data.length = none →
          (s.fetchSecs (partSecs p.pa data.length)).badSecs (partSecs p.pa data.length) = [] →
          s.peerHeld op ⟨0, p.pa, peerWrites op, data, none⟩ = false → (∀ e lv a, s.walk c va = .leaf e lv a → eBits e 7 2 ≠ 1) →
          (op = .read → s.mscDenies c p.pa .read = false → (∀ x, s.readerCounted x = false) →
            ∃ t, exec (.peerRequest dev asid va op data) s = .next t ∧ keepsMemory s t ∧ answered t false (s.homeBytes p.pa data.length)) ∧
          (op = .write → ∃ t, exec (.peerRequest dev asid va op data) s = .next t ∧ t.homeBytes p.pa data.length = data ∧
            keepsHomeBut s t p.pa data.length ∧ (t.link n).reqs = l.reqs - 1 ∧ keepsRegs s t [] [] []) ∧
          (∀ k sg cmp, op = .atomic k sg cmp →
            let old : Word := BitVec.ofNat 32 (s.homeNat p.pa 4)
            (∀ x, s.readerCounted x = false) → ∃ t, exec (.peerRequest dev asid va op data) s = .next t ∧
              t.homeNat p.pa 4 = (atomWord k sg old word cmp).toNat ∧ keepsHomeBut s t p.pa 4 ∧ answered t false (wordBytes old)) ∧
          (∀ k sg, op = .ared k sg → ∃ t, exec (.peerRequest dev asid va op data) s = .next t ∧
            t.homeNat p.pa 4 = (redWord k sg (BitVec.ofNat 32 (s.homeNat p.pa 4)) word).toNat ∧ keepsHomeBut s t p.pa 4 ∧
            (t.link n).reqs = l.reqs - 1 ∧ keepsRegs s t [] [] [])))) ∧
    (∀ q rest, l.state = 2 → l.queue = q :: rest → q.acc < 2 ^ 32 → (∀ y ∈ s.links, y.1 ≠ n → ∀ r ∈ y.2.queue, r.acc ≠ q.acc) →
      s.accs.has q.acc = true → (∀ p ∈ (s.acc q.acc).pieces, p.err = none) →
      ∃ t, exec (.peerErrorCompletion q.acc) s = .next t ∧ keepsRegs s t [] [] [] ∧ keepsMemory s t ∧ (t.link n).queue = rest ∧ (t.link n).txSeq = l.txSeq + 1 ∧
        (t.wave (s.acc q.acc).wave).pend = (s.wave (s.acc q.acc).wave).pend ++ [⟨0x06, 7, (s.acc q.acc).storeVa (fun p => p.peer.isSome)⟩]) ∧
    (∀ a p d c, a < 2 ^ 32 → s.accs.has a = true → (s.acc a).kind.isStore = false → (s.acc a).pieces = [p] → p.tgt = .peer d c → p.st = .sent →
      s.pieceNext a 0 = true → s.ownPending (s.acc a) p = false → s.linkUp d = true → (∀ y ∈ s.links, ∀ r ∈ y.2.queue, r.acc ≠ a) →
      ∃ t, exec (.peerErrorCompletion a) s = .next t ∧ quiet t ∧ (t.acc a).pieces.map (fun q => (q.st, q.err)) = [(.atHome, some (errAt 0x05 1 p.va))])

/-- R197 to R203, R210: HOST_PORT_TRAIN reports mode and width; HOST_ACCESS that reaches its bytes and is permitted and held by nothing writes them at home or returns them, and one that is denied changes nothing and returns a Completer Abort, or under CXL.mem an error response and zero data. BIAS_FLUSH_START leaves no line of the page in an L1; BIAS_FLUSH_COMPLETE makes the page host-biased; the last SNOOP_RESPONSE makes it device-biased. It rests on the model's own choices of log entries 85 and 86. -/
def Obligations.HostAccessesAndBiasFlips : Prop :=
  ∀ s : State,
    (∀ cxl (width : BitVec 5), width.toNat ∈ [1, 2, 4, 8, 16] → ∃ t, exec (.hostPortTrain cxl width) s = .next t ∧
      t = { s with mgmt := { s.mgmt with hostmode := BitVec.ofNat 32 (b2n cxl + 2 * width.toNat) } }) ∧
    (∀ (fn : BitVec 3) pa data, s.hostAccs = [] →
      let allowed (r : Right) : Prop := s.hostReaches pa data.length = true ∧ s.permits (dieOf pa) (hostMid fn.toNat) pa r = true
      (allowed .write → s.hostHeld ⟨fn.toNat, pa, true, data, none⟩ = false → plainHome s → (s.fetchSecs (partSecs pa data.length)).badSecs (partSecs pa data.length) = [] →
        ∃ t, exec (.hostAccess fn pa true data) s = .next t ∧ t.homeBytes pa data.length = data ∧ keepsHomeBut s t pa data.length ∧
          t.hostAccs = [⟨fn.toNat, pa, true, data, some (.data [])⟩] ∧ keepsRegs s t [] [] []) ∧
      (allowed .read → s.hostHeld ⟨fn.toNat, pa, false, data, none⟩ = false → plainHome s → s.badLevel pa data.length = none → s.mscDenies (hostMid fn.toNat) pa .read = false → (∀ l, s.readerCounted l = false) →
        ∃ t, exec (.hostAccess fn pa false data) s = .next t ∧ t.hostAccs = [⟨fn.toNat, pa, false, data, some (.data (s.homeBytes pa data.length))⟩] ∧
          keepsRegs s t [] [] [] ∧ keepsMemory s t) ∧
      (∀ wr, ¬ allowed (if wr then .write else .read) → ∃ t, exec (.hostAccess fn pa wr data) s = .next t ∧
        t.hostAccs = [⟨fn.toNat, pa, wr, data, some (if s.cxlMode then .memError (List.replicate data.length 0) else .abort)⟩] ∧ keepsRegs s t [] [] [] ∧ keepsRest s t)) ∧
    (∀ page, s.flipAt page = some .d2h → s.dataOutstanding page = false → (∀ c ∈ s.cells, c.addr / 4096 ≠ page) →
      ∃ t, exec (.biasFlushStart page) s = .next t ∧ t.flipAt page = some .d2hFl ∧ (∀ c, ∀ l ∈ (t.core c).l1, l.pline / 32 ≠ page) ∧
        keepsRegs s t [] [] []) ∧
    (∀ page k r, s.mgmt.flipWait = [] → s.biasRange page = some (k, r) →
      (s.flipAt page = some .d2hFl → ∃ t, exec (.biasFlushComplete page) s = .next t ∧ t.flipAt page = none ∧
        page ∈ (t.mgmt.ranges.get BRange.zero k).hostPages ∧ keepsRegs s t [] [] []) ∧
      (∀ line f, s.mgmt.flips.find? (fun f => f.page == page && f.st == .h2d && f.snoops.contains line) = some f →
        (f.snoops.filter (fun x => x != line) = [] → ∃ t, exec (.snoopResponse page line none) s = .next t ∧ t.flipAt page = none ∧
          page ∉ (t.mgmt.ranges.get BRange.zero k).hostPages ∧ keepsRegs s t [] [] []) ∧
        (f.snoops.filter (fun x => x != line) ≠ [] → ∃ t, exec (.snoopResponse page line none) s = .next t ∧ keepsRegs s t [] [] [] ∧ (s.hostLines = [] → keepsMemory s t) ∧
          ∀ g ∈ t.mgmt.flips, g.page = page → g.snoops = f.snoops.filter (fun x => x != line))))

/-! ## Power, health, checkpoints -/

/-- R211 to R216, R221, R222: a GOVERNOR_SAMPLE above 1.02 × the ceiling raises MXTHR, the first means, and one below it releases an issue throttle; P_TRANSITION_DONE and M_TRANSITION_DONE make the state current; DIE_PARK_DONE parks a die with its L1s empty, or sets REFUSED where a logical core that has come to it finds no other core; DIE_UNPARK_DONE of a die that fails sets REFUSED; HEALTH_UPDATE records the slowdown, with DAYS 0xFFFF below seven samples; CKPT_STEP_DONE goes from step to step: step 3 empties every L1, step 4 of a save copies the range to host memory, step 5 ends the checkpoint. It rests on the model's own choices of log entries 11, 12, 26, 90 and 106. -/
def Obligations.PowerAndCheckpointStepsEnd : Prop :=
  ∀ s : State,
    (∀ watts average,
      (510 * bitsOf s.mgmt.pwrceil.toNat 0 9 < 100 * average → s.mxthr < 15 →
        ∃ t, exec (.governorSample watts average) s = .next t ∧ t.mxthr = s.mxthr + 1 ∧ keepsRegs s t [] [] [] ∧ keepsMemory s t) ∧
      (average < 5 * bitsOf s.mgmt.pwrceil.toNat 0 9 → watts ≤ 5 * bitsOf s.mgmt.pwrceil.toNat 0 9 → s.fullg = false → s.isthr ≠ 0 →
        ∃ t, exec (.governorSample watts average) s = .next t ∧ t.isthr = s.isthr - 1 ∧ keepsRegs s t [] [] [] ∧ keepsMemory s t)) ∧
    (∀ n, n < 8 → s.mgmt.pGoal = some n → ∃ t, exec .pTransitionDone s = .next t ∧ t.pst = n) ∧
    (∀ n, n < 4 → s.mgmt.mGoal = some n → ∃ t, exec .mTransitionDone s = .next t ∧ t.mst = n ∧ keepsRegs s t [] [] [] ∧ keepsMemory s t) ∧
    (∀ die : BitVec 2, s.mgmt.dieWait = [] → s.parkBusy die.toNat = true →
      (s.parked die.toNat = false →
        (∀ ms, s.planMoves die.toNat (s.onDie die.toNat) [] = some ms → ∃ t, exec (.dieParkDone die) s = .next t ∧ t.parked die.toNat = true ∧
          t.parkBusy die.toNat = false ∧ (∀ c, coreDie c = die.toNat → (t.core c).l1 = []) ∧ (∀ r ∈ t.rdc, r.die ≠ die.toNat) ∧ keepsRegs s t [] [] []) ∧
        (s.planMoves die.toNat (s.onDie die.toNat) [] = none → ∃ t, exec (.dieParkDone die) s = .next t ∧ t.parked die.toNat = false ∧
          t.parkBusy die.toNat = false ∧ t.mgmt.diepark.getLsbD 12 = true ∧ keepsRegs s t [] [] [] ∧ keepsMemory s t)) ∧
      (s.parked die.toNat = true →
        (∃ t, exec (.dieUnparkDone die false) s = .next t ∧ t.parked die.toNat = true ∧ t.parkBusy die.toNat = false ∧
          t.mgmt.diepark.getLsbD 12 = true ∧ keepsRegs s t [] [] [] ∧ keepsMemory s t) ∧
        (s.mgmt.former = [] → ∃ t, exec (.dieUnparkDone die true) s = .next t ∧ t.parked die.toNat = false ∧ t.parkBusy die.toNat = false ∧
          keepsRegs s t [] [] [] ∧ keepsMemory s t))) ∧
    (∀ slow margin, ∃ t, exec (.healthUpdate slow margin) s = .next t ∧ keepsRegs s t [] [] [] ∧ keepsMemory s t ∧
      ∀ n, n < 4 → (t.mgmt.age.get 0 n).toNat % 65536 = slow.getD n 0 % 65536 ∧
        ((s.mgmt.samples.get [] n).length < 6 → (t.mgmt.age.get 0 n).toNat / 65536 = 65535)) ∧
    (s.ckptHolds = true →
      (s.ckptStep = 1 → ∃ t, exec (.ckptStepDone none) s = .next t ∧ t.ckptStep = 2 ∧ ∀ b ∈ t.blocks, (t.block b.1).st ≠ .resident) ∧
      (s.ckptStep = 2 → s.collBusy = false → ∃ t, exec (.ckptStepDone none) s = .next t ∧ t.ckptStep = 3 ∧ keepsRegs s t [] [] [] ∧ keepsMemory s t) ∧
      (s.ckptStep = 3 → ∃ t, exec (.ckptStepDone none) s = .next t ∧ t.ckptStep = 4 ∧ (∀ c, (t.core c).l1 = []) ∧ keepsRegs s t [] [] []) ∧
      (s.ckptStep = 4 → s.ckptDir = false → s.arrayPaused = false → s.memoriesWf → ∃ t, exec (.ckptStepDone none) s = .next t ∧ t.ckptStep = 5 ∧
        (∀ k, k < s.ckptLen → t.hostMem.byte (s.ckptHost + k) = s.homeByte (s.ckptBase + k)) ∧ (∀ a, t.homeByte a = s.homeByte a) ∧ keepsRegs s t [] [] []) ∧
      (s.ckptStep = 5 → ∃ t, exec (.ckptStepDone none) s = .next t ∧ t.ckptHolds = false))

/-! ## Reset, boot, the flash -/

/-- R21 to R25, R224: RESET and POWER_FAIL lose every register, cache and byte of device memory and keep the flash and what lies outside, and a power failure leaves the copy that an operation was writing invalid; RESET loads the valid copy, or with none enters the recovery state; SELF_TEST_END adds the failed cores and begins training; TRAINING_END of good stacks makes the device ready and every trained link UP. FLASH_ERASE, FLASH_PROGRAM and FLASH_READ act on the copy and block that FLADDR named at GO, a program of a block that is not clean sets ERR, and FLASH_OP_DONE clears GO. It rests on the model's own choices of log entries 2, 7, 9, 27 and 92. -/
def Obligations.ResetBootAndFlash : Prop :=
  ∀ s : State,
    let lost (t : State) : Prop := t.waves = [] ∧ t.blocks = [] ∧ t.launches = [] ∧ t.claims = [] ∧ t.cells = [] ∧ t.regions = [] ∧ t.registrant = [] ∧
      t.jobs = [] ∧ t.feet = [] ∧ t.accs = [] ∧ t.abufs = [] ∧ t.net = [] ∧ t.shapes = [] ∧ t.eqs = [] ∧ t.insts = [] ∧ t.hostAccs = [] ∧ t.hostLines = [] ∧
      t.mem = [] ∧ t.array = [] ∧ t.l2 = [] ∧ t.msc = [] ∧ t.rdc = [] ∧ t.tlb = [] ∧ t.bad = [] ∧ t.weak = [] ∧ t.lost = [] ∧ (∀ p, (t.core p).l1 = []) ∧
      (∀ k, (t.stack k).rows = [] ∧ (t.stack k).groups = [] ∧ (t.stack k).late = []) ∧
      t.hostMem = s.hostMem ∧ t.peerMem = s.peerMem ∧ t.mgmt.flashA = s.mgmt.flashA ∧ t.mgmt.flashB = s.mgmt.flashB
    (∃ t, exec .reset s = .next t ∧ lost t ∧
      (s.cold.copyOk false = false → s.cold.copyOk true = false → t.phase = 15 ∧ t.recovery = true) ∧
      (∀ c, s.cold.copyOk c = true → s.cold.copyOk (!c) = false → t.phase = 2 ∧ t.loadedCopy = some c ∧
        (s.cold.remapOver c = false → ∀ k, k < 256 → t.mgmt.remap.get 0 k = BitVec.ofNat 9 (s.cold.flashNat c (0x100 + 4 * k) 4)) ∧
        (s.cold.remapOver c = true → t.mgmt.hlth.getLsbD 22 = true ∧ ∀ k, k < 256 → t.placed k = false) ∧
        t.mgmt.devnum = BitVec.ofNat 32 (s.cold.flashNat c 0x20 4))) ∧
    (∃ t, exec .powerFail s = .next t ∧ lost t ∧ ∀ f, (s.flashOp 1 = some f ∨ (s.flashOp 1 = none ∧ s.flashOp 2 = some f)) → t.copyOk f.copyB = false) ∧
    (s.phase = 2 → ∀ f, ∃ t, exec (.selfTestEnd f) s = .next t ∧ t.phase = 3 ∧ t.mgmt.failed = s.mgmt.failed ||| f ∧ keepsRegs s t [] [] [] ∧ keepsMemory s t) ∧
    (s.phase = 3 → bitsOf s.mgmt.bootstat.toNat 4 4 = 0 → ∀ links : BitVec 16, ∃ t, exec (.trainingEnd 0xFFFF links) s = .next t ∧ t.phase = 4 ∧
      (∀ n, n < 16 → (t.link n).state = (if links.getLsbD n && !(s.link n).disabled then 2 else 0)) ∧ keepsRegs s t [] [] [] ∧ keepsMemory s t) ∧
    (∀ f, s.flashOp 1 = some f → ∃ t, exec .flashErase s = .next t ∧ (∀ i, t.flashByte f.copyB i = 0xFF) ∧ t.mgmt.flashRun = none ∧
      t.flashOf (!f.copyB) = s.flashOf (!f.copyB) ∧ keepsRegs s t [] [] [] ∧ keepsMemory s t) ∧
    (∀ f, s.flashOp 2 = some f → s.blockClean f.copyB f.blk = true → f.data.length = 64 → ∃ t, exec .flashProgram s = .next t ∧ t.mgmt.flashRun = none ∧
      (∀ k, k < 64 → (t.flashOf f.copyB).get 0xFF (64 * f.blk + k) = f.data.getD k 0) ∧
      (∀ i, i / 64 ≠ f.blk → (t.flashOf f.copyB).get 0xFF i = (s.flashOf f.copyB).get 0xFF i) ∧
      t.flashOf (!f.copyB) = s.flashOf (!f.copyB) ∧ keepsRegs s t [] [] [] ∧ keepsMemory s t) ∧
    (∀ f, s.flashOp 2 = some f → s.blockClean f.copyB f.blk = false → ∃ t, exec .flashProgram s = .next t ∧ t.mgmt.flcmd.getLsbD 3 = true ∧
      (∀ c, t.flashOf c = s.flashOf c) ∧ keepsRegs s t [] [] [] ∧ keepsMemory s t) ∧
    (∀ f, s.flashOp 3 = some f → ∃ t, exec .flashRead s = .next t ∧ t.mgmt.flashRun = none ∧
      (∀ i, i < 8 → t.mgmt.fldata.get 0 i = BitVec.ofNat 64 (s.flashNat f.copyB (64 * f.blk + 8 * i) 8)) ∧ keepsRegs s t [] [] [] ∧ keepsMemory s t) ∧
    (s.mgmt.flcmd.getLsbD 2 = true → s.mgmt.flashRun = none → ∃ t, exec .flashOpDone s = .next t ∧ t.mgmt.flcmd.getLsbD 2 = false ∧
      keepsRegs s t [] [] [] ∧ keepsMemory s t)

/-! ## Management space -/

/-- R55, R60, R99, R101, R171, R186, R195, R199, R201, R205, R206, R209: a permitted access of management space. A read returns its word or half; a refused access changes nothing and completes with an error. Writes: LQDOOR appends a record or sets OVF; LQCTL; REMAP moves the logical core or raises remap-exhausted; a context-table word; PFRESUME takes its granule from the ring; TLBINV with ALL leaves no translation of the ASID and TLBINV_DONE clears BUSY; a bias range; BIASCMD starts a flip; MCSPARE starts sparing; LNKCTL retrains or disables; ATCOMMIT takes the window, and ATCOMMIT_COMPLETE makes it govern; COLLINJ; an 8-byte entry pair of the domain table. It rests on the model's own choices of log entry 91. -/
def Obligations.ManagementRegistersAct : Prop :=
  ∀ (s : State) (m : MAcc),
    (s.mRefused false m = false → ∃ t, exec (.managementAccess false m) s = .next t ∧
      t = { s with mgmt := { s.mgmt with reply := some (s.mread m) } }) ∧
    (∀ wr, s.mRefused wr m = true → ∃ t, exec (.managementAccess wr m) s = .next t ∧ t = { s with mgmt := { s.mgmt with reply := none } }) ∧
    (∃ t, exec .tlbinvDone s = .next t ∧ t.mgmt.tlbinv.getLsbD 14 = false ∧ keepsRegs s t [] [] [] ∧ keepsMemory s t) ∧
    (∀ c, s.mgmt.atcommit = some c → ∃ t, exec .atcommitComplete s = .next t ∧ t.mgmt.atcommit = none ∧ t.mgmt.ats = s.mgmt.ats.set c.1 c.2 ∧
      keepsRegs s t [] [] [] ∧ keepsMemory s t) ∧
    (s.mRefused true m = false →
      let w := s.mwrite m
      (∀ q : BitVec 6, accReg m = .lqdoor q.toNat → m.size = 8 → ∃ t, exec (.lqdoor q m) s = .next t ∧ keepsRegs s t [] [] [] ∧ keepsMemory s t ∧
        (if (s.lqueue q.toNat).en ∧ (s.lqueue q.toNat).recs.length < 256 ∧ m.val.toNat % 128 = 0
         then (t.lqueue q.toNat).recs = (s.lqueue q.toNat).recs ++ [m.val]
         else (t.lqueue q.toNat).recs = (s.lqueue q.toNat).recs ∧ (t.lqueue q.toNat).ovf = true)) ∧
      (∀ q : BitVec 6, accReg m = .lqctl q.toNat → w.lo = true → (s.lqueue q.toNat).recs = [] → ∃ t, exec (.lqctlWrite q m) s = .next t ∧
        (t.lqueue q.toNat).ctx = bitsOf w.v.toNat 0 12 ∧ (t.lqueue q.toNat).en = w.v.getLsbD 12 ∧ keepsRegs s t [] [] [] ∧ keepsMemory s t) ∧
      (∀ l : BitVec 8, m.hub = 0 → m.size = 4 → m.off = 0x1000 + 4 * l.toNat →
        let p := bitsOf m.val.toNat 0 9
        (s.mayHost p = true → ∃ t, exec (.remapWrite l m) s = .next t ∧ t.remapOf l.toNat = p) ∧
        (s.mayHost p = false → ¬(s.placed l.toNat = true ∧ s.remapOf l.toNat = p ∧ s.coreFailed p = false ∧ (s.hosts p).length = 1 ∧ s.parked (coreDie p) = false) → ∃ t, exec (.remapWrite l m) s = .next t ∧
          t.mgmt.hlth.getLsbD 22 = true ∧ t.mgmt.remap = s.mgmt.remap ∧ keepsRegs s t [] [] [] ∧ keepsMemory s t)) ∧
      (∀ i, accReg m = .ctx i → i % 2 = 0 → bitsOf w.v.toNat 1 12 = 0 → bitsOf w.v.toNat 40 24 = 0 → s.ctxBusy (i / 2) = false →
        (w.v.getLsbD 0 = true → (s.ctx (i / 2)).asid ≠ 0 ∧ ∀ x ∈ s.mgmt.ctxs, x.1 ≠ i / 2 → x.2.v = true → x.2.asid ≠ (s.ctx (i / 2)).asid) →
        ∃ t, exec (.contextTableWrite m) s = .next t ∧ (t.ctx (i / 2)).v = w.v.getLsbD 0 ∧ (t.ctx (i / 2)).root = bitsOf w.v.toNat 13 27 * 2 ^ 13 ∧
          (t.ctx (i / 2)).asid = (s.ctx (i / 2)).asid ∧ keepsRegs s t [] [] [] ∧ keepsMemory s t) ∧
      (accReg m = .pfresume → m.size = 8 → ∃ t, exec (.pfresume m) s = .next t ∧ keepsRegs s t [] [] [] ∧
        ∀ f ∈ t.mgmt.faults, ¬(f.ctx = bitsOf m.val.toNat 0 12 ∧ f.va.toNat / 65536 % 2 ^ 33 = bitsOf m.val.toNat 16 33)) ∧
      (accReg m = .tlbinv → w.sets 13 = true → w.v.getLsbD 12 = true → s.mgmt.tlbinv.getLsbD 14 = false →
        ∃ t, exec (.tlbinv m) s = .next t ∧ t.mgmt.tlbinv.getLsbD 14 = true ∧ (∀ e ∈ t.tlb, e.asid ≠ (s.ctx (bitsOf w.v.toNat 0 12)).asid) ∧
          keepsRegs s t [] [] []) ∧
      (∀ i, accReg m = .bias i → i % 2 = 1 → (s.mgmt.ranges.get BRange.zero (i / 2)).w0.getLsbD 0 = false →
        (∃ t, exec (.biasRangeWrite m) s = .next t ∧ (t.mgmt.ranges.get BRange.zero (i / 2)).w1 = BitVec.ofNat 64 (bitsOf w.v.toNat 3 37 * 8) ∧
          keepsRegs s t [] [] [] ∧ keepsMemory s t)) ∧
      (accReg m = .biascmd → s.mgmt.biascmd.getLsbD 2 = false → w.sets 1 = true →
        let page := eBits w.v 12 28
        s.mgmt.flips.any (fun f => f.page == page) = false → (s.biasRange page).isSome = true → s.pageHost page ≠ w.v.getLsbD 0 →
        ∃ t, exec (.biascmd m) s = .next t ∧ t.mgmt.biascmd.getLsbD 2 = true ∧ t.flipAt page = some (if w.v.getLsbD 0 then .d2h else .h2d) ∧
          keepsRegs s t [] [] [] ∧ keepsMemory s t) ∧
      (∀ k : BitVec 4, accReg m = .mcspare k.toNat → w.lo = true → (s.stack k.toNat).spareGo = false → w.v.getLsbD 26 = true →
        (s.stack k.toNat).sparing = none → ∃ t, exec (.mcspare k m) s = .next t ∧ (t.stack k.toNat).spareGo = true ∧
          ((s.stack k.toNat).reaches (bitsOf w.v.toNat 0 6) (bitsOf w.v.toNat 6 6) (bitsOf w.v.toNat 12 14) = true →
            (t.stack k.toNat).sparing = some (bitsOf w.v.toNat 0 6, bitsOf w.v.toNat 6 6, bitsOf w.v.toNat 12 14)) ∧ keepsRegs s t [] [] [] ∧ keepsMemory s t) ∧
      (∀ n : BitVec 4, accReg m = .lnkctl n.toNat → w.lo = true →
        (w.v.getLsbD 16 = true → w.v.getLsbD 17 = false → ∃ t, exec (.lnkctlRetrain n m) s = .next t ∧ (t.link n.toNat).state = 3 ∧
          keepsRegs s t [] [] [] ∧ keepsMemory s t) ∧
        (w.v.getLsbD 17 = true → (s.link n.toNat).disabled = false → ∃ t, exec (.lnkctlDisable n m) s = .next t ∧ (t.link n.toNat).state = 0 ∧
          (t.link n.toNat).disabled = true ∧ keepsRegs s t [] [] [] ∧ keepsMemory s t)) ∧
      (accReg m = .atcommit → w.sets 0 = true → s.mgmt.atcommit = none → ∃ t, exec (.atcommit m) s = .next t ∧
        t.mgmt.atcommit = some (4096 * bitsOf s.mgmt.atsel.toNat 0 8 + bitsOf s.mgmt.atsel.toNat 8 12, s.mgmt.atwin) ∧ t.mgmt.ats = s.mgmt.ats ∧
        keepsRegs s t [] [] [] ∧ keepsMemory s t) ∧
      (accReg m = .collinj → bitsOf w.v.toNat 0 2 = 0 → ∃ t, exec (.collinjWrite m) s = .next t ∧
        t.mgmt.collinj.get 0 m.hub.toNat = BitVec.ofNat 64 (bitsOf w.v.toNat 8 17 * 2 ^ 8 + bitsOf w.v.toNat 32 16 * 2 ^ 32) ∧
        keepsRegs s t [] [] [] ∧ keepsMemory s t) ∧
      (∀ i, accReg m = .colldom i → m.size = 8 → 8 ≤ i % 1024 → i % 1024 < 520 → ∃ t, exec (.collDomainWrite m) s = .next t ∧
        t.mgmt.colldom.get 0 (2 * i) = BitVec.ofNat 32 (bitsOf w.v.toNat 0 16) ∧
        t.mgmt.colldom.get 0 (2 * i + 1) = BitVec.ofNat 32 (bitsOf w.v.toNat 32 16) ∧ keepsRegs s t [] [] [] ∧ keepsMemory s t))

/-- R211 to R217, R222, R320: writes of power and device registers. DEVNUM takes its number while no collective job runs; PWRCEIL a value of 60 to 360; PSTLIM the fastest states, which no request in force is faster than; DIEPARK its requests: a die to park is being parked where each of its logical cores finds another core, or the device is idle under HOLD, and otherwise nothing moves, REFUSED is set and the remap-exhausted condition rises, a die to unpark is being unparked, and HOLD; ENSAVE while no slot is bound; CKPT with GO starts a save or a restore at step 1. It rests on the model's own choices of log entries 90 and 91. -/
def Obligations.PowerRegistersAct : Prop :=
  ∀ (s : State) (m : MAcc), s.mRefused true m = false →
    let w := s.mwrite m
    w.lo = true →
    (accReg m = .devnum → s.collBusy = false → ∃ t, exec (.devnumWrite m) s = .next t ∧ t.mgmt.devnum = BitVec.ofNat 32 (bitsOf w.v.toNat 0 14) ∧
      keepsRegs s t [] [] [] ∧ keepsMemory s t) ∧
    (accReg m = .pwrceil → ∃ t, exec (.pwrceilWrite m) s = .next t ∧ keepsRegs s t [] [] [] ∧ keepsMemory s t ∧
      t.mgmt.pwrceil = (if 60 ≤ bitsOf w.v.toNat 0 9 ∧ bitsOf w.v.toNat 0 9 ≤ 360 then BitVec.ofNat 32 (bitsOf w.v.toNat 0 9) else s.mgmt.pwrceil)) ∧
    (accReg m = .pstlim → bitsOf w.v.toNat 0 3 < 6 → bitsOf w.v.toNat 3 2 < 3 → ∃ t, exec (.pstlimWrite m) s = .next t ∧
      t.pmin = bitsOf w.v.toNat 0 3 ∧ t.mmin = bitsOf w.v.toNat 3 2 ∧ keepsRegs s t [] [] [] ∧ keepsMemory s t ∧
      (s.mgmt.pNext = [] → bitsOf w.v.toNat 0 3 ≤ t.pAim) ∧ (s.mgmt.mNext = [] → bitsOf w.v.toNat 3 2 ≤ t.mAim)) ∧
    (∀ d, d < 4 → accReg m = .diepark → w.v.getLsbD 12 = false → w.v.getLsbD 13 = s.hold → s.harvested d = true → s.parkBusy d = false →
      (∀ e, e < 4 → e ≠ d → s.harvested e = true → s.parked e = w.v.getLsbD e ∧ s.parkBusy e = false) → s.mgmt.pGoal = none → s.ckptHolds = false →
      (s.parked d = false → w.v.getLsbD d = true →
        ((s.hold = true ∧ s.deviceIdle = true) ∨ (∃ ms, s.planMoves d (s.onDie d) [] = some ms) →
          ∃ t, exec (.diePark m) s = .next t ∧ t.parkBusy d = true ∧ t.parked d = false ∧ keepsRegs s t [] [] []) ∧
        (¬(s.hold = true ∧ s.deviceIdle = true) → s.planMoves d (s.onDie d) [] = none →
          ∃ t, exec (.diePark m) s = .next t ∧ t.parkBusy d = false ∧ t.parked d = false ∧ t.mgmt.diepark.getLsbD 12 = true ∧ t.mgmt.hlth.getLsbD 22 = true ∧
            t.mgmt.remap = s.mgmt.remap ∧ keepsRegs s t [] [] [] ∧ keepsMemory s t)) ∧
      (s.parked d = true → w.v.getLsbD d = false → ∃ t, exec (.dieUnpark m) s = .next t ∧ t.parkBusy d = true ∧ t.parked d = true ∧
        keepsRegs s t [] [] [] ∧ keepsMemory s t)) ∧
    (accReg m = .diepark → w.v.getLsbD 13 = true → s.hold = false → ∃ t, exec (.dieparkHold m) s = .next t ∧ t.hold = true) ∧
    (accReg m = .ensave → (∀ c ∈ s.cores, ∀ e ∈ c.2.eslots, e.2.pair = none) → ∃ t, exec (.ensaveWrite m) s = .next t ∧
      t.mgmt.ensave = BitVec.ofNat 64 (bitsOf w.v.toNat 12 28 * 4096) ∧ keepsRegs s t [] [] [] ∧ keepsMemory s t) ∧
    (accReg m = .ckpt2 → w.v.getLsbD 1 = true → s.ckptHolds = false →
      (w.v.getLsbD 0 = false → ∃ t, exec (.ckptSave m) s = .next t ∧ t.ckptHolds = true ∧ t.ckptDir = false ∧ t.ckptStep = 1 ∧
        keepsRegs s t [] [] [] ∧ keepsMemory s t) ∧
      (w.v.getLsbD 0 = true → ∃ t, exec (.ckptRestore m) s = .next t ∧ t.ckptHolds = true ∧ t.ckptDir = true ∧ t.ckptStep = 1 ∧
        keepsRegs s t [] [] [] ∧ keepsMemory s t))


/-! ## Decoding, the step and the invariants -/

/-- R33, R71: a turn of an issue slot whose pick is the state `x` runs what that slot issues there. A slot that holds a unit runs it; otherwise the unit at its PC is fetched, decoded and run with its translation in the TLB. A step of an empty agenda runs the default turn (log entry 5); an event of the agenda runs at once. It rests on the model's own choices of log entries 5 and 30. -/
def Obligations.StepRunsTheDecodedUnit : Prop :=
  ∀ (s x : State) (p k : Nat) (u : State),
    (s.agenda = .issue p k :: u.agenda ∧ u = { s with agenda := u.agenda } ∨ s.agenda = [] ∧ s.defaultTurn = .issue p k ∧ u = s) →
    (u.pick p k = none → step s = .next u) ∧
    (u.pick p k = some x →
      (∀ i, x.fs.held = some i → step s = exec i x) ∧
      (∀ w0 w1 w2 i n, x.fs.held = none → x.fetchWords x.pc = .ok (w0, w1, w2) → x.splitUnit w0 = none →
        decodeUnit w0 w1 w2 = .ok (i, n) → step s = exec i x.afterFetch) ∧
      (∀ pl w i n, x.fs.held = none → x.fs.branched = false → x.place (x.clusterOf x.fb.pcore) x.fl.ctx x.pc .fetch = .ok pl →
        pl.tgt = .device → x.mscDenies x.fl.ctx pl.pa .fetch = false → x.badLevel pl.pa 4 = none → isPfx w = false → decodeUnit w 0 0 = .ok (i, n) →
        (∀ j, j < 4 → x.homeByte (pl.pa + j) = w.extractLsb' (8 * j) 8) → step s = exec i x.afterFetch)) ∧
    ∀ e rest, s.agenda = .event e :: rest → isEvent e = true → step s = exec e { s with agenda := rest }

/-- R26 to R48: every well-formed instruction is what the decoder reads from the words of its encoding, with their number; and an instruction that the decoder reads from words is well formed and has no other words. -/
def Obligations.EncodingAndDecodingAgree : Prop :=
  (∀ i, WellFormed i → decodeWords (encode i) = .ok (i, i.words)) ∧
  ∀ w0 w1 w2 i n, decodeUnit w0 w1 w2 = .ok (i, n) → WellFormed i ∧ encode i = [w0, w1, w2].take n

/-- R26, R29, R38 to R45: words written out from the encoding tables. -/
def Obligations.WordsDecodeAsTheTablesSay : Prop :=
  decodeUnit 0x00000000 0 0 = .ok (.nop false, 1) ∧
  decodeUnit 0x81050647 0 0 = .ok (.ssub true 5 6 7, 1) ∧
  decodeUnit 0x7C123456 0x0205C378 0 = .ok (.smulhImm false 5 3 (.long 0x12345678), 2) ∧
  decodeUnit 0x7D010010 0x13090020 0 = .error ⟨1, 3, 0x13090020, 0⟩ ∧
  decodeUnit 0x7D000010 0x13090020 0 = .ok (.brv false true 1 0x20 0x10, 2) ∧
  decodeUnit 0x7D000001 0x20010203 0 = .ok (.vadd false 1 2 (.scal 3), 2) ∧
  decodeUnit 0x5B04020A 0 0 = .ok (.ldD false 4 2 1 2, 1) ∧
  decodeUnit 0x5B05020A 0 0 = .error ⟨1, 5, 0x5B05020A, 0⟩ ∧
  decodeUnit 0x7D09031A 0x6C010203 0 = .ok (.acas false 1 2 3 9 ⟨.g 3, .ar⟩, 2) ∧
  decodeUnit 0x758109C0 0 0 = .error ⟨1, 3, 0x758109C0, 0⟩ ∧
  decodeUnit 0x75810902 0 0 = .ok (.mmas false 1 1 2 2, 1) ∧
  decodeUnit 0x0D000000 0 0 = .error ⟨1, 1, 0x0D000000, 0⟩

/-- R33, R37, R47, R97, R102, R195: no step leaves a memory in another than its canonical form; where every unit that a PC slot holds is one that decodes, or a row of the table without words, so it is after a step; and from there no step leaves a MODE with a reserved value: of every path that is live, and of every path that may come back. It rests on the model's own choices of log entry 2. -/
def Obligations.StepKeepsMemoriesAndModes : Prop :=
  ∀ s t, step s = .next t → (s.memoriesWf → t.memoriesWf) ∧ (s.unitsDecoded → t.unitsDecoded ∧ (s.modesLegal → t.modesLegal))

/-- R22 to R25, R37, R55, R61, R101, R102, R132, R196, R199, R205, R211, R214, R217 to R222: what reset leaves, as registers read. The memories are in their canonical form, every held unit decodes and no MODE is illegal. It rests on the model's own choices of log entries 2 and 7. -/
def Obligations.ResetLeavesItsValues : Prop :=
  let s := State.reset
  s.memoriesWf ∧ s.unitsDecoded ∧ s.modesLegal ∧ (∀ p, (s.core p).carve = 0 ∧ (s.core p).history = []) ∧
  (∀ i, i < 16 → s.weight i = ([20, 60, 90, 80, 40, 150, 250, 400, 600, 1200, 120, 30, 200, 2600, 300, 0].getD i 0)) ∧
  (∀ i, i < 6 → (s.mgmt.stw.get 0 i).toNat = [1500, 1520, 1560, 1640, 1780, 2400].getD i 0) ∧
  (∀ k, s.readReg 0 (.mcerr k) = 0 ∧ s.readReg 0 (.mcspare k) = 0 ∧ s.readReg 0 (.mcthr k) = 16) ∧
  (∀ n, bitsOf (s.readReg 0 (.lnkstat n)).toNat 0 2 = 1 ∧ bitsOf (s.readReg 0 (.lnkstat n)).toNat 8 56 = 0 ∧ s.readReg 0 (.lnkctl n) = 0x100) ∧
  (∀ q, s.readReg 0 (.lqctl q) = 0 ∧ s.readReg 0 (.lqdoor q) = 0 ∧ s.readReg 0 (.lqstat q) = 0) ∧
  (∀ n, s.readReg 0 (.age n) = 0xFFFF0000 ∧ s.readReg 0 (.memh n) = 0xFFFF00000000 ∧ s.readReg 0 (.linkh n) = 0xFFFF0000) ∧
  (∀ h, s.readReg h .collinj = 0) ∧ (∀ i, s.readReg 0 (.bias i) = 0 ∧ s.readReg 0 (.fldata i) = 0) ∧
  s.readReg 0 .sliceq = 65536 ∧ s.readReg 0 .pwrceil = 360 ∧ s.readReg 0 .pstlim = 0 ∧ s.readReg 0 .pwrstat = 0 ∧ s.readReg 0 .ensave = 0 ∧
  s.readReg 0 .hlth = 0x3FFFFF ∧ s.readReg 0 .apbase = 0 ∧ s.readReg 0 .fladdr = 0 ∧ s.readReg 0 .flcmd = 0 ∧ s.readReg 0 .pfbase = 0 ∧
  s.readReg 0 .pfhead = 0 ∧ s.readReg 0 .pftail = 0 ∧ s.readReg 0 .pfresume = 0 ∧ bitsOf (s.readReg 0 .bootstat).toNat 0 4 = 1 ∧
  bitsOf (s.readReg 0 .partid).toNat 0 24 = 0xB14016 ∧ bitsOf (s.readReg 0 .diepark).toNat 0 4 = 0 ∧ bitsOf (s.readReg 0 .diepark).toNat 8 24 = 0

namespace Sys2Proof.Claims

/-- The issuing slot has entered the handler from below handler level, with nothing of the instruction done (R80). -/
def entered (s t : State) (c sub : BitVec 8) (lanes : Mask) (va : DWord) : Prop :=
  t.fw.handler = some s.focus.slotB ∧ t.fw.xpc = s.pc ∧ t.fw.xmode = s.mode ∧ t.fw.xcause = BitVec.ofNat 64 (c.toNat + 256 * sub.toNat) ∧
    t.fw.xlanes = lanes ∧ t.fw.xaddr = va ∧ t.fs.path = { s.fs.path with pc := s.fl.kdesc + s.fl.handler, mode := s.mode &&& 0x40000 } ∧
    keepsRegs s t [] [] [] ∧ keepsMemory s t ∧ keepsBlocks s t ∧ keepsDevice s t

end Sys2Proof.Claims

/-- R48, R80, R135, R277: a load that fails a check enters the handler with nothing done, below handler level and with closed check windows. In order: a guessed guard lane in strict mode that is Active and no pad lane, a guessed lane of the address in strict mode, a misaligned lane, a lane whose address is not canonical; XLANES names every lane that fails the check and XADDR the address of the lowest. A scalar load names the path's lanes. It rests on the model's own choices of log entries 33 and 34. -/
def Obligations.RefusedLoadsTrap : Prop :=
  ∀ (s : State) (i : Instr), s.windowsClosed → s.fw.handler = none → s.fl.handler ≠ 0 → s.fb.counter .ld < 4095 →
    (∀ f, loadForm i = some f → s.mayIssue f.ops →
      let va := s.vaOf f.n f.m
      let guard := if s.strict then s.guardGuess &&& s.touched else 0
      let addr := if s.strict then (s.vreg f.m.toNat).guess &&& s.touched else 0
      let mis := maskOf (fun l => s.touched.getLsbD l && (va l).toNat % f.wd.bytes != 0)
      let odd := maskOf (fun l => s.touched.getLsbD l && !canonical (va l))
      (guard ≠ 0 → ∃ t, exec i s = .next t ∧ entered s t 0x18 1 guard (va (lowLane guard))) ∧
      (guard = 0 → addr ≠ 0 → ∃ t, exec i s = .next t ∧ entered s t 0x18 2 addr (va (lowLane addr))) ∧
      (guard = 0 → addr = 0 → mis ≠ 0 → ∃ t, exec i s = .next t ∧ entered s t 0x07 1 mis (va (lowLane mis))) ∧
      (guard = 0 → addr = 0 → mis = 0 → odd ≠ 0 → ∃ t, exec i s = .next t ∧ entered s t 0x05 2 odd (va (lowLane odd)))) ∧
    ∀ wd d a o, scalarLoad i = some (wd, d, a, o) → s.mayIssue [.sd 1 d.toNat, .sr 2 a.toNat] →
      let va := s.scalarVa a o wd
      (va.toNat % wd.bytes ≠ 0 → ∃ t, exec i s = .next t ∧ entered s t 0x07 3 s.mask va) ∧
      (va.toNat % wd.bytes = 0 → canonical va = false → ∃ t, exec i s = .next t ∧ entered s t 0x05 2 s.mask va)
end

