-- ==== Sys2Proof/Laws/State.lean ====
section
/-! SUPPORT. What each update of the state leaves as it was, field by field, and what a read after an update gives. -/

namespace Sys2Proof.Machine

/-! ### setWave -/

@[simp] theorem State.setWave_blocks (s : State) (w : Nat) (x : Wave) : (s.setWave w x).blocks = s.blocks := rfl
@[simp] theorem State.setWave_launches (s : State) (w : Nat) (x : Wave) : (s.setWave w x).launches = s.launches := rfl
@[simp] theorem State.setWave_cores (s : State) (w : Nat) (x : Wave) : (s.setWave w x).cores = s.cores := rfl
@[simp] theorem State.setWave_mem (s : State) (w : Nat) (x : Wave) : (s.setWave w x).mem = s.mem := rfl
@[simp] theorem State.setWave_array (s : State) (w : Nat) (x : Wave) : (s.setWave w x).array = s.array := rfl
@[simp] theorem State.setWave_hostMem (s : State) (w : Nat) (x : Wave) : (s.setWave w x).hostMem = s.hostMem := rfl
@[simp] theorem State.setWave_peerMem (s : State) (w : Nat) (x : Wave) : (s.setWave w x).peerMem = s.peerMem := rfl
@[simp] theorem State.setWave_registrant (s : State) (w : Nat) (x : Wave) : (s.setWave w x).registrant = s.registrant := rfl
@[simp] theorem State.setWave_claims (s : State) (w : Nat) (x : Wave) : (s.setWave w x).claims = s.claims := rfl
@[simp] theorem State.setWave_cells (s : State) (w : Nat) (x : Wave) : (s.setWave w x).cells = s.cells := rfl
@[simp] theorem State.setWave_regions (s : State) (w : Nat) (x : Wave) : (s.setWave w x).regions = s.regions := rfl
@[simp] theorem State.setWave_rdc (s : State) (w : Nat) (x : Wave) : (s.setWave w x).rdc = s.rdc := rfl
@[simp] theorem State.setWave_l2 (s : State) (w : Nat) (x : Wave) : (s.setWave w x).l2 = s.l2 := rfl
@[simp] theorem State.setWave_msc (s : State) (w : Nat) (x : Wave) : (s.setWave w x).msc = s.msc := rfl
@[simp] theorem State.setWave_stacks (s : State) (w : Nat) (x : Wave) : (s.setWave w x).hbms = s.hbms := rfl
@[simp] theorem State.setWave_bad (s : State) (w : Nat) (x : Wave) : (s.setWave w x).bad = s.bad := rfl
@[simp] theorem State.setWave_weak (s : State) (w : Nat) (x : Wave) : (s.setWave w x).weak = s.weak := rfl
@[simp] theorem State.setWave_lost (s : State) (w : Nat) (x : Wave) : (s.setWave w x).lost = s.lost := rfl
@[simp] theorem State.setWave_hostLines (s : State) (w : Nat) (x : Wave) : (s.setWave w x).hostLines = s.hostLines := rfl
@[simp] theorem State.setWave_tlb (s : State) (w : Nat) (x : Wave) : (s.setWave w x).tlb = s.tlb := rfl
@[simp] theorem State.setWave_accs (s : State) (w : Nat) (x : Wave) : (s.setWave w x).accs = s.accs := rfl
@[simp] theorem State.setWave_net (s : State) (w : Nat) (x : Wave) : (s.setWave w x).net = s.net := rfl
@[simp] theorem State.setWave_abufs (s : State) (w : Nat) (x : Wave) : (s.setWave w x).abufs = s.abufs := rfl
@[simp] theorem State.setWave_jobs (s : State) (w : Nat) (x : Wave) : (s.setWave w x).jobs = s.jobs := rfl
@[simp] theorem State.setWave_feet (s : State) (w : Nat) (x : Wave) : (s.setWave w x).feet = s.feet := rfl
@[simp] theorem State.setWave_shapes (s : State) (w : Nat) (x : Wave) : (s.setWave w x).shapes = s.shapes := rfl
@[simp] theorem State.setWave_eqs (s : State) (w : Nat) (x : Wave) : (s.setWave w x).eqs = s.eqs := rfl
@[simp] theorem State.setWave_insts (s : State) (w : Nat) (x : Wave) : (s.setWave w x).insts = s.insts := rfl
@[simp] theorem State.setWave_links (s : State) (w : Nat) (x : Wave) : (s.setWave w x).links = s.links := rfl
@[simp] theorem State.setWave_hostAccs (s : State) (w : Nat) (x : Wave) : (s.setWave w x).hostAccs = s.hostAccs := rfl
@[simp] theorem State.setWave_mgmt (s : State) (w : Nat) (x : Wave) : (s.setWave w x).mgmt = s.mgmt := rfl
@[simp] theorem State.setWave_focus (s : State) (w : Nat) (x : Wave) : (s.setWave w x).focus = s.focus := rfl
@[simp] theorem State.setWave_agenda (s : State) (w : Nat) (x : Wave) : (s.setWave w x).agenda = s.agenda := rfl
@[simp] theorem State.setWave_seq (s : State) (w : Nat) (x : Wave) : (s.setWave w x).seq = s.seq := rfl

/-! ### updWave -/

@[simp] theorem State.updWave_blocks (s : State) (w : Nat) (f : Wave → Wave) : (s.updWave w f).blocks = s.blocks := rfl
@[simp] theorem State.updWave_launches (s : State) (w : Nat) (f : Wave → Wave) : (s.updWave w f).launches = s.launches := rfl
@[simp] theorem State.updWave_cores (s : State) (w : Nat) (f : Wave → Wave) : (s.updWave w f).cores = s.cores := rfl
@[simp] theorem State.updWave_mem (s : State) (w : Nat) (f : Wave → Wave) : (s.updWave w f).mem = s.mem := rfl
@[simp] theorem State.updWave_array (s : State) (w : Nat) (f : Wave → Wave) : (s.updWave w f).array = s.array := rfl
@[simp] theorem State.updWave_hostMem (s : State) (w : Nat) (f : Wave → Wave) : (s.updWave w f).hostMem = s.hostMem := rfl
@[simp] theorem State.updWave_peerMem (s : State) (w : Nat) (f : Wave → Wave) : (s.updWave w f).peerMem = s.peerMem := rfl
@[simp] theorem State.updWave_registrant (s : State) (w : Nat) (f : Wave → Wave) : (s.updWave w f).registrant = s.registrant := rfl
@[simp] theorem State.updWave_claims (s : State) (w : Nat) (f : Wave → Wave) : (s.updWave w f).claims = s.claims := rfl
@[simp] theorem State.updWave_cells (s : State) (w : Nat) (f : Wave → Wave) : (s.updWave w f).cells = s.cells := rfl
@[simp] theorem State.updWave_regions (s : State) (w : Nat) (f : Wave → Wave) : (s.updWave w f).regions = s.regions := rfl
@[simp] theorem State.updWave_rdc (s : State) (w : Nat) (f : Wave → Wave) : (s.updWave w f).rdc = s.rdc := rfl
@[simp] theorem State.updWave_l2 (s : State) (w : Nat) (f : Wave → Wave) : (s.updWave w f).l2 = s.l2 := rfl
@[simp] theorem State.updWave_msc (s : State) (w : Nat) (f : Wave → Wave) : (s.updWave w f).msc = s.msc := rfl
@[simp] theorem State.updWave_stacks (s : State) (w : Nat) (f : Wave → Wave) : (s.updWave w f).hbms = s.hbms := rfl
@[simp] theorem State.updWave_bad (s : State) (w : Nat) (f : Wave → Wave) : (s.updWave w f).bad = s.bad := rfl
@[simp] theorem State.updWave_weak (s : State) (w : Nat) (f : Wave → Wave) : (s.updWave w f).weak = s.weak := rfl
@[simp] theorem State.updWave_lost (s : State) (w : Nat) (f : Wave → Wave) : (s.updWave w f).lost = s.lost := rfl
@[simp] theorem State.updWave_hostLines (s : State) (w : Nat) (f : Wave → Wave) : (s.updWave w f).hostLines = s.hostLines := rfl
@[simp] theorem State.updWave_tlb (s : State) (w : Nat) (f : Wave → Wave) : (s.updWave w f).tlb = s.tlb := rfl
@[simp] theorem State.updWave_accs (s : State) (w : Nat) (f : Wave → Wave) : (s.updWave w f).accs = s.accs := rfl
@[simp] theorem State.updWave_net (s : State) (w : Nat) (f : Wave → Wave) : (s.updWave w f).net = s.net := rfl
@[simp] theorem State.updWave_abufs (s : State) (w : Nat) (f : Wave → Wave) : (s.updWave w f).abufs = s.abufs := rfl
@[simp] theorem State.updWave_jobs (s : State) (w : Nat) (f : Wave → Wave) : (s.updWave w f).jobs = s.jobs := rfl
@[simp] theorem State.updWave_feet (s : State) (w : Nat) (f : Wave → Wave) : (s.updWave w f).feet = s.feet := rfl
@[simp] theorem State.updWave_shapes (s : State) (w : Nat) (f : Wave → Wave) : (s.updWave w f).shapes = s.shapes := rfl
@[simp] theorem State.updWave_eqs (s : State) (w : Nat) (f : Wave → Wave) : (s.updWave w f).eqs = s.eqs := rfl
@[simp] theorem State.updWave_insts (s : State) (w : Nat) (f : Wave → Wave) : (s.updWave w f).insts = s.insts := rfl
@[simp] theorem State.updWave_links (s : State) (w : Nat) (f : Wave → Wave) : (s.updWave w f).links = s.links := rfl
@[simp] theorem State.updWave_hostAccs (s : State) (w : Nat) (f : Wave → Wave) : (s.updWave w f).hostAccs = s.hostAccs := rfl
@[simp] theorem State.updWave_mgmt (s : State) (w : Nat) (f : Wave → Wave) : (s.updWave w f).mgmt = s.mgmt := rfl
@[simp] theorem State.updWave_focus (s : State) (w : Nat) (f : Wave → Wave) : (s.updWave w f).focus = s.focus := rfl
@[simp] theorem State.updWave_agenda (s : State) (w : Nat) (f : Wave → Wave) : (s.updWave w f).agenda = s.agenda := rfl
@[simp] theorem State.updWave_seq (s : State) (w : Nat) (f : Wave → Wave) : (s.updWave w f).seq = s.seq := rfl

/-! ### setBlock -/

@[simp] theorem State.setBlock_waves (s : State) (b : Nat) (x : Block) : (s.setBlock b x).waves = s.waves := rfl
@[simp] theorem State.setBlock_launches (s : State) (b : Nat) (x : Block) : (s.setBlock b x).launches = s.launches := rfl
@[simp] theorem State.setBlock_cores (s : State) (b : Nat) (x : Block) : (s.setBlock b x).cores = s.cores := rfl
@[simp] theorem State.setBlock_mem (s : State) (b : Nat) (x : Block) : (s.setBlock b x).mem = s.mem := rfl
@[simp] theorem State.setBlock_array (s : State) (b : Nat) (x : Block) : (s.setBlock b x).array = s.array := rfl
@[simp] theorem State.setBlock_hostMem (s : State) (b : Nat) (x : Block) : (s.setBlock b x).hostMem = s.hostMem := rfl
@[simp] theorem State.setBlock_peerMem (s : State) (b : Nat) (x : Block) : (s.setBlock b x).peerMem = s.peerMem := rfl
@[simp] theorem State.setBlock_registrant (s : State) (b : Nat) (x : Block) : (s.setBlock b x).registrant = s.registrant := rfl
@[simp] theorem State.setBlock_claims (s : State) (b : Nat) (x : Block) : (s.setBlock b x).claims = s.claims := rfl
@[simp] theorem State.setBlock_cells (s : State) (b : Nat) (x : Block) : (s.setBlock b x).cells = s.cells := rfl
@[simp] theorem State.setBlock_regions (s : State) (b : Nat) (x : Block) : (s.setBlock b x).regions = s.regions := rfl
@[simp] theorem State.setBlock_rdc (s : State) (b : Nat) (x : Block) : (s.setBlock b x).rdc = s.rdc := rfl
@[simp] theorem State.setBlock_l2 (s : State) (b : Nat) (x : Block) : (s.setBlock b x).l2 = s.l2 := rfl
@[simp] theorem State.setBlock_msc (s : State) (b : Nat) (x : Block) : (s.setBlock b x).msc = s.msc := rfl
@[simp] theorem State.setBlock_stacks (s : State) (b : Nat) (x : Block) : (s.setBlock b x).hbms = s.hbms := rfl
@[simp] theorem State.setBlock_bad (s : State) (b : Nat) (x : Block) : (s.setBlock b x).bad = s.bad := rfl
@[simp] theorem State.setBlock_weak (s : State) (b : Nat) (x : Block) : (s.setBlock b x).weak = s.weak := rfl
@[simp] theorem State.setBlock_lost (s : State) (b : Nat) (x : Block) : (s.setBlock b x).lost = s.lost := rfl
@[simp] theorem State.setBlock_hostLines (s : State) (b : Nat) (x : Block) : (s.setBlock b x).hostLines = s.hostLines := rfl
@[simp] theorem State.setBlock_tlb (s : State) (b : Nat) (x : Block) : (s.setBlock b x).tlb = s.tlb := rfl
@[simp] theorem State.setBlock_accs (s : State) (b : Nat) (x : Block) : (s.setBlock b x).accs = s.accs := rfl
@[simp] theorem State.setBlock_net (s : State) (b : Nat) (x : Block) : (s.setBlock b x).net = s.net := rfl
@[simp] theorem State.setBlock_abufs (s : State) (b : Nat) (x : Block) : (s.setBlock b x).abufs = s.abufs := rfl
@[simp] theorem State.setBlock_jobs (s : State) (b : Nat) (x : Block) : (s.setBlock b x).jobs = s.jobs := rfl
@[simp] theorem State.setBlock_feet (s : State) (b : Nat) (x : Block) : (s.setBlock b x).feet = s.feet := rfl
@[simp] theorem State.setBlock_shapes (s : State) (b : Nat) (x : Block) : (s.setBlock b x).shapes = s.shapes := rfl
@[simp] theorem State.setBlock_eqs (s : State) (b : Nat) (x : Block) : (s.setBlock b x).eqs = s.eqs := rfl
@[simp] theorem State.setBlock_insts (s : State) (b : Nat) (x : Block) : (s.setBlock b x).insts = s.insts := rfl
@[simp] theorem State.setBlock_links (s : State) (b : Nat) (x : Block) : (s.setBlock b x).links = s.links := rfl
@[simp] theorem State.setBlock_hostAccs (s : State) (b : Nat) (x : Block) : (s.setBlock b x).hostAccs = s.hostAccs := rfl
@[simp] theorem State.setBlock_mgmt (s : State) (b : Nat) (x : Block) : (s.setBlock b x).mgmt = s.mgmt := rfl
@[simp] theorem State.setBlock_focus (s : State) (b : Nat) (x : Block) : (s.setBlock b x).focus = s.focus := rfl
@[simp] theorem State.setBlock_agenda (s : State) (b : Nat) (x : Block) : (s.setBlock b x).agenda = s.agenda := rfl
@[simp] theorem State.setBlock_seq (s : State) (b : Nat) (x : Block) : (s.setBlock b x).seq = s.seq := rfl

/-! ### updBlock -/

@[simp] theorem State.updBlock_waves (s : State) (b : Nat) (f : Block → Block) : (s.updBlock b f).waves = s.waves := rfl
@[simp] theorem State.updBlock_launches (s : State) (b : Nat) (f : Block → Block) : (s.updBlock b f).launches = s.launches := rfl
@[simp] theorem State.updBlock_cores (s : State) (b : Nat) (f : Block → Block) : (s.updBlock b f).cores = s.cores := rfl
@[simp] theorem State.updBlock_mem (s : State) (b : Nat) (f : Block → Block) : (s.updBlock b f).mem = s.mem := rfl
@[simp] theorem State.updBlock_array (s : State) (b : Nat) (f : Block → Block) : (s.updBlock b f).array = s.array := rfl
@[simp] theorem State.updBlock_hostMem (s : State) (b : Nat) (f : Block → Block) : (s.updBlock b f).hostMem = s.hostMem := rfl
@[simp] theorem State.updBlock_peerMem (s : State) (b : Nat) (f : Block → Block) : (s.updBlock b f).peerMem = s.peerMem := rfl
@[simp] theorem State.updBlock_registrant (s : State) (b : Nat) (f : Block → Block) : (s.updBlock b f).registrant = s.registrant := rfl
@[simp] theorem State.updBlock_claims (s : State) (b : Nat) (f : Block → Block) : (s.updBlock b f).claims = s.claims := rfl
@[simp] theorem State.updBlock_cells (s : State) (b : Nat) (f : Block → Block) : (s.updBlock b f).cells = s.cells := rfl
@[simp] theorem State.updBlock_regions (s : State) (b : Nat) (f : Block → Block) : (s.updBlock b f).regions = s.regions := rfl
@[simp] theorem State.updBlock_rdc (s : State) (b : Nat) (f : Block → Block) : (s.updBlock b f).rdc = s.rdc := rfl
@[simp] theorem State.updBlock_l2 (s : State) (b : Nat) (f : Block → Block) : (s.updBlock b f).l2 = s.l2 := rfl
@[simp] theorem State.updBlock_msc (s : State) (b : Nat) (f : Block → Block) : (s.updBlock b f).msc = s.msc := rfl
@[simp] theorem State.updBlock_stacks (s : State) (b : Nat) (f : Block → Block) : (s.updBlock b f).hbms = s.hbms := rfl
@[simp] theorem State.updBlock_bad (s : State) (b : Nat) (f : Block → Block) : (s.updBlock b f).bad = s.bad := rfl
@[simp] theorem State.updBlock_weak (s : State) (b : Nat) (f : Block → Block) : (s.updBlock b f).weak = s.weak := rfl
@[simp] theorem State.updBlock_lost (s : State) (b : Nat) (f : Block → Block) : (s.updBlock b f).lost = s.lost := rfl
@[simp] theorem State.updBlock_hostLines (s : State) (b : Nat) (f : Block → Block) : (s.updBlock b f).hostLines = s.hostLines := rfl
@[simp] theorem State.updBlock_tlb (s : State) (b : Nat) (f : Block → Block) : (s.updBlock b f).tlb = s.tlb := rfl
@[simp] theorem State.updBlock_accs (s : State) (b : Nat) (f : Block → Block) : (s.updBlock b f).accs = s.accs := rfl
@[simp] theorem State.updBlock_net (s : State) (b : Nat) (f : Block → Block) : (s.updBlock b f).net = s.net := rfl
@[simp] theorem State.updBlock_abufs (s : State) (b : Nat) (f : Block → Block) : (s.updBlock b f).abufs = s.abufs := rfl
@[simp] theorem State.updBlock_jobs (s : State) (b : Nat) (f : Block → Block) : (s.updBlock b f).jobs = s.jobs := rfl
@[simp] theorem State.updBlock_feet (s : State) (b : Nat) (f : Block → Block) : (s.updBlock b f).feet = s.feet := rfl
@[simp] theorem State.updBlock_shapes (s : State) (b : Nat) (f : Block → Block) : (s.updBlock b f).shapes = s.shapes := rfl
@[simp] theorem State.updBlock_eqs (s : State) (b : Nat) (f : Block → Block) : (s.updBlock b f).eqs = s.eqs := rfl
@[simp] theorem State.updBlock_insts (s : State) (b : Nat) (f : Block → Block) : (s.updBlock b f).insts = s.insts := rfl
@[simp] theorem State.updBlock_links (s : State) (b : Nat) (f : Block → Block) : (s.updBlock b f).links = s.links := rfl
@[simp] theorem State.updBlock_hostAccs (s : State) (b : Nat) (f : Block → Block) : (s.updBlock b f).hostAccs = s.hostAccs := rfl
@[simp] theorem State.updBlock_mgmt (s : State) (b : Nat) (f : Block → Block) : (s.updBlock b f).mgmt = s.mgmt := rfl
@[simp] theorem State.updBlock_focus (s : State) (b : Nat) (f : Block → Block) : (s.updBlock b f).focus = s.focus := rfl
@[simp] theorem State.updBlock_agenda (s : State) (b : Nat) (f : Block → Block) : (s.updBlock b f).agenda = s.agenda := rfl
@[simp] theorem State.updBlock_seq (s : State) (b : Nat) (f : Block → Block) : (s.updBlock b f).seq = s.seq := rfl

/-! ### setLaunch -/

@[simp] theorem State.setLaunch_waves (s : State) (l : Nat) (x : Launch) : (s.setLaunch l x).waves = s.waves := rfl
@[simp] theorem State.setLaunch_blocks (s : State) (l : Nat) (x : Launch) : (s.setLaunch l x).blocks = s.blocks := rfl
@[simp] theorem State.setLaunch_cores (s : State) (l : Nat) (x : Launch) : (s.setLaunch l x).cores = s.cores := rfl
@[simp] theorem State.setLaunch_mem (s : State) (l : Nat) (x : Launch) : (s.setLaunch l x).mem = s.mem := rfl
@[simp] theorem State.setLaunch_array (s : State) (l : Nat) (x : Launch) : (s.setLaunch l x).array = s.array := rfl
@[simp] theorem State.setLaunch_hostMem (s : State) (l : Nat) (x : Launch) : (s.setLaunch l x).hostMem = s.hostMem := rfl
@[simp] theorem State.setLaunch_peerMem (s : State) (l : Nat) (x : Launch) : (s.setLaunch l x).peerMem = s.peerMem := rfl
@[simp] theorem State.setLaunch_registrant (s : State) (l : Nat) (x : Launch) : (s.setLaunch l x).registrant = s.registrant := rfl
@[simp] theorem State.setLaunch_claims (s : State) (l : Nat) (x : Launch) : (s.setLaunch l x).claims = s.claims := rfl
@[simp] theorem State.setLaunch_cells (s : State) (l : Nat) (x : Launch) : (s.setLaunch l x).cells = s.cells := rfl
@[simp] theorem State.setLaunch_regions (s : State) (l : Nat) (x : Launch) : (s.setLaunch l x).regions = s.regions := rfl
@[simp] theorem State.setLaunch_rdc (s : State) (l : Nat) (x : Launch) : (s.setLaunch l x).rdc = s.rdc := rfl
@[simp] theorem State.setLaunch_l2 (s : State) (l : Nat) (x : Launch) : (s.setLaunch l x).l2 = s.l2 := rfl
@[simp] theorem State.setLaunch_msc (s : State) (l : Nat) (x : Launch) : (s.setLaunch l x).msc = s.msc := rfl
@[simp] theorem State.setLaunch_stacks (s : State) (l : Nat) (x : Launch) : (s.setLaunch l x).hbms = s.hbms := rfl
@[simp] theorem State.setLaunch_bad (s : State) (l : Nat) (x : Launch) : (s.setLaunch l x).bad = s.bad := rfl
@[simp] theorem State.setLaunch_weak (s : State) (l : Nat) (x : Launch) : (s.setLaunch l x).weak = s.weak := rfl
@[simp] theorem State.setLaunch_lost (s : State) (l : Nat) (x : Launch) : (s.setLaunch l x).lost = s.lost := rfl
@[simp] theorem State.setLaunch_hostLines (s : State) (l : Nat) (x : Launch) : (s.setLaunch l x).hostLines = s.hostLines := rfl
@[simp] theorem State.setLaunch_tlb (s : State) (l : Nat) (x : Launch) : (s.setLaunch l x).tlb = s.tlb := rfl
@[simp] theorem State.setLaunch_accs (s : State) (l : Nat) (x : Launch) : (s.setLaunch l x).accs = s.accs := rfl
@[simp] theorem State.setLaunch_net (s : State) (l : Nat) (x : Launch) : (s.setLaunch l x).net = s.net := rfl
@[simp] theorem State.setLaunch_abufs (s : State) (l : Nat) (x : Launch) : (s.setLaunch l x).abufs = s.abufs := rfl
@[simp] theorem State.setLaunch_jobs (s : State) (l : Nat) (x : Launch) : (s.setLaunch l x).jobs = s.jobs := rfl
@[simp] theorem State.setLaunch_feet (s : State) (l : Nat) (x : Launch) : (s.setLaunch l x).feet = s.feet := rfl
@[simp] theorem State.setLaunch_shapes (s : State) (l : Nat) (x : Launch) : (s.setLaunch l x).shapes = s.shapes := rfl
@[simp] theorem State.setLaunch_eqs (s : State) (l : Nat) (x : Launch) : (s.setLaunch l x).eqs = s.eqs := rfl
@[simp] theorem State.setLaunch_insts (s : State) (l : Nat) (x : Launch) : (s.setLaunch l x).insts = s.insts := rfl
@[simp] theorem State.setLaunch_links (s : State) (l : Nat) (x : Launch) : (s.setLaunch l x).links = s.links := rfl
@[simp] theorem State.setLaunch_hostAccs (s : State) (l : Nat) (x : Launch) : (s.setLaunch l x).hostAccs = s.hostAccs := rfl
@[simp] theorem State.setLaunch_mgmt (s : State) (l : Nat) (x : Launch) : (s.setLaunch l x).mgmt = s.mgmt := rfl
@[simp] theorem State.setLaunch_focus (s : State) (l : Nat) (x : Launch) : (s.setLaunch l x).focus = s.focus := rfl
@[simp] theorem State.setLaunch_agenda (s : State) (l : Nat) (x : Launch) : (s.setLaunch l x).agenda = s.agenda := rfl
@[simp] theorem State.setLaunch_seq (s : State) (l : Nat) (x : Launch) : (s.setLaunch l x).seq = s.seq := rfl

/-! ### updLaunch -/

@[simp] theorem State.updLaunch_waves (s : State) (l : Nat) (f : Launch → Launch) : (s.updLaunch l f).waves = s.waves := rfl
@[simp] theorem State.updLaunch_blocks (s : State) (l : Nat) (f : Launch → Launch) : (s.updLaunch l f).blocks = s.blocks := rfl
@[simp] theorem State.updLaunch_cores (s : State) (l : Nat) (f : Launch → Launch) : (s.updLaunch l f).cores = s.cores := rfl
@[simp] theorem State.updLaunch_mem (s : State) (l : Nat) (f : Launch → Launch) : (s.updLaunch l f).mem = s.mem := rfl
@[simp] theorem State.updLaunch_array (s : State) (l : Nat) (f : Launch → Launch) : (s.updLaunch l f).array = s.array := rfl
@[simp] theorem State.updLaunch_hostMem (s : State) (l : Nat) (f : Launch → Launch) : (s.updLaunch l f).hostMem = s.hostMem := rfl
@[simp] theorem State.updLaunch_peerMem (s : State) (l : Nat) (f : Launch → Launch) : (s.updLaunch l f).peerMem = s.peerMem := rfl
@[simp] theorem State.updLaunch_registrant (s : State) (l : Nat) (f : Launch → Launch) : (s.updLaunch l f).registrant = s.registrant := rfl
@[simp] theorem State.updLaunch_claims (s : State) (l : Nat) (f : Launch → Launch) : (s.updLaunch l f).claims = s.claims := rfl
@[simp] theorem State.updLaunch_cells (s : State) (l : Nat) (f : Launch → Launch) : (s.updLaunch l f).cells = s.cells := rfl
@[simp] theorem State.updLaunch_regions (s : State) (l : Nat) (f : Launch → Launch) : (s.updLaunch l f).regions = s.regions := rfl
@[simp] theorem State.updLaunch_rdc (s : State) (l : Nat) (f : Launch → Launch) : (s.updLaunch l f).rdc = s.rdc := rfl
@[simp] theorem State.updLaunch_l2 (s : State) (l : Nat) (f : Launch → Launch) : (s.updLaunch l f).l2 = s.l2 := rfl
@[simp] theorem State.updLaunch_msc (s : State) (l : Nat) (f : Launch → Launch) : (s.updLaunch l f).msc = s.msc := rfl
@[simp] theorem State.updLaunch_stacks (s : State) (l : Nat) (f : Launch → Launch) : (s.updLaunch l f).hbms = s.hbms := rfl
@[simp] theorem State.updLaunch_bad (s : State) (l : Nat) (f : Launch → Launch) : (s.updLaunch l f).bad = s.bad := rfl
@[simp] theorem State.updLaunch_weak (s : State) (l : Nat) (f : Launch → Launch) : (s.updLaunch l f).weak = s.weak := rfl
@[simp] theorem State.updLaunch_lost (s : State) (l : Nat) (f : Launch → Launch) : (s.updLaunch l f).lost = s.lost := rfl
@[simp] theorem State.updLaunch_hostLines (s : State) (l : Nat) (f : Launch → Launch) : (s.updLaunch l f).hostLines = s.hostLines := rfl
@[simp] theorem State.updLaunch_tlb (s : State) (l : Nat) (f : Launch → Launch) : (s.updLaunch l f).tlb = s.tlb := rfl
@[simp] theorem State.updLaunch_accs (s : State) (l : Nat) (f : Launch → Launch) : (s.updLaunch l f).accs = s.accs := rfl
@[simp] theorem State.updLaunch_net (s : State) (l : Nat) (f : Launch → Launch) : (s.updLaunch l f).net = s.net := rfl
@[simp] theorem State.updLaunch_abufs (s : State) (l : Nat) (f : Launch → Launch) : (s.updLaunch l f).abufs = s.abufs := rfl
@[simp] theorem State.updLaunch_jobs (s : State) (l : Nat) (f : Launch → Launch) : (s.updLaunch l f).jobs = s.jobs := rfl
@[simp] theorem State.updLaunch_feet (s : State) (l : Nat) (f : Launch → Launch) : (s.updLaunch l f).feet = s.feet := rfl
@[simp] theorem State.updLaunch_shapes (s : State) (l : Nat) (f : Launch → Launch) : (s.updLaunch l f).shapes = s.shapes := rfl
@[simp] theorem State.updLaunch_eqs (s : State) (l : Nat) (f : Launch → Launch) : (s.updLaunch l f).eqs = s.eqs := rfl
@[simp] theorem State.updLaunch_insts (s : State) (l : Nat) (f : Launch → Launch) : (s.updLaunch l f).insts = s.insts := rfl
@[simp] theorem State.updLaunch_links (s : State) (l : Nat) (f : Launch → Launch) : (s.updLaunch l f).links = s.links := rfl
@[simp] theorem State.updLaunch_hostAccs (s : State) (l : Nat) (f : Launch → Launch) : (s.updLaunch l f).hostAccs = s.hostAccs := rfl
@[simp] theorem State.updLaunch_mgmt (s : State) (l : Nat) (f : Launch → Launch) : (s.updLaunch l f).mgmt = s.mgmt := rfl
@[simp] theorem State.updLaunch_focus (s : State) (l : Nat) (f : Launch → Launch) : (s.updLaunch l f).focus = s.focus := rfl
@[simp] theorem State.updLaunch_agenda (s : State) (l : Nat) (f : Launch → Launch) : (s.updLaunch l f).agenda = s.agenda := rfl
@[simp] theorem State.updLaunch_seq (s : State) (l : Nat) (f : Launch → Launch) : (s.updLaunch l f).seq = s.seq := rfl

/-! ### setCore -/

@[simp] theorem State.setCore_waves (s : State) (p : Nat) (x : Core) : (s.setCore p x).waves = s.waves := rfl
@[simp] theorem State.setCore_blocks (s : State) (p : Nat) (x : Core) : (s.setCore p x).blocks = s.blocks := rfl
@[simp] theorem State.setCore_launches (s : State) (p : Nat) (x : Core) : (s.setCore p x).launches = s.launches := rfl
@[simp] theorem State.setCore_mem (s : State) (p : Nat) (x : Core) : (s.setCore p x).mem = s.mem := rfl
@[simp] theorem State.setCore_array (s : State) (p : Nat) (x : Core) : (s.setCore p x).array = s.array := rfl
@[simp] theorem State.setCore_hostMem (s : State) (p : Nat) (x : Core) : (s.setCore p x).hostMem = s.hostMem := rfl
@[simp] theorem State.setCore_peerMem (s : State) (p : Nat) (x : Core) : (s.setCore p x).peerMem = s.peerMem := rfl
@[simp] theorem State.setCore_registrant (s : State) (p : Nat) (x : Core) : (s.setCore p x).registrant = s.registrant := rfl
@[simp] theorem State.setCore_claims (s : State) (p : Nat) (x : Core) : (s.setCore p x).claims = s.claims := rfl
@[simp] theorem State.setCore_cells (s : State) (p : Nat) (x : Core) : (s.setCore p x).cells = s.cells := rfl
@[simp] theorem State.setCore_regions (s : State) (p : Nat) (x : Core) : (s.setCore p x).regions = s.regions := rfl
@[simp] theorem State.setCore_rdc (s : State) (p : Nat) (x : Core) : (s.setCore p x).rdc = s.rdc := rfl
@[simp] theorem State.setCore_l2 (s : State) (p : Nat) (x : Core) : (s.setCore p x).l2 = s.l2 := rfl
@[simp] theorem State.setCore_msc (s : State) (p : Nat) (x : Core) : (s.setCore p x).msc = s.msc := rfl
@[simp] theorem State.setCore_stacks (s : State) (p : Nat) (x : Core) : (s.setCore p x).hbms = s.hbms := rfl
@[simp] theorem State.setCore_bad (s : State) (p : Nat) (x : Core) : (s.setCore p x).bad = s.bad := rfl
@[simp] theorem State.setCore_weak (s : State) (p : Nat) (x : Core) : (s.setCore p x).weak = s.weak := rfl
@[simp] theorem State.setCore_lost (s : State) (p : Nat) (x : Core) : (s.setCore p x).lost = s.lost := rfl
@[simp] theorem State.setCore_hostLines (s : State) (p : Nat) (x : Core) : (s.setCore p x).hostLines = s.hostLines := rfl
@[simp] theorem State.setCore_tlb (s : State) (p : Nat) (x : Core) : (s.setCore p x).tlb = s.tlb := rfl
@[simp] theorem State.setCore_accs (s : State) (p : Nat) (x : Core) : (s.setCore p x).accs = s.accs := rfl
@[simp] theorem State.setCore_net (s : State) (p : Nat) (x : Core) : (s.setCore p x).net = s.net := rfl
@[simp] theorem State.setCore_abufs (s : State) (p : Nat) (x : Core) : (s.setCore p x).abufs = s.abufs := rfl
@[simp] theorem State.setCore_jobs (s : State) (p : Nat) (x : Core) : (s.setCore p x).jobs = s.jobs := rfl
@[simp] theorem State.setCore_feet (s : State) (p : Nat) (x : Core) : (s.setCore p x).feet = s.feet := rfl
@[simp] theorem State.setCore_shapes (s : State) (p : Nat) (x : Core) : (s.setCore p x).shapes = s.shapes := rfl
@[simp] theorem State.setCore_eqs (s : State) (p : Nat) (x : Core) : (s.setCore p x).eqs = s.eqs := rfl
@[simp] theorem State.setCore_insts (s : State) (p : Nat) (x : Core) : (s.setCore p x).insts = s.insts := rfl
@[simp] theorem State.setCore_links (s : State) (p : Nat) (x : Core) : (s.setCore p x).links = s.links := rfl
@[simp] theorem State.setCore_hostAccs (s : State) (p : Nat) (x : Core) : (s.setCore p x).hostAccs = s.hostAccs := rfl
@[simp] theorem State.setCore_mgmt (s : State) (p : Nat) (x : Core) : (s.setCore p x).mgmt = s.mgmt := rfl
@[simp] theorem State.setCore_focus (s : State) (p : Nat) (x : Core) : (s.setCore p x).focus = s.focus := rfl
@[simp] theorem State.setCore_agenda (s : State) (p : Nat) (x : Core) : (s.setCore p x).agenda = s.agenda := rfl
@[simp] theorem State.setCore_seq (s : State) (p : Nat) (x : Core) : (s.setCore p x).seq = s.seq := rfl

/-! ### updCore -/

@[simp] theorem State.updCore_waves (s : State) (p : Nat) (f : Core → Core) : (s.updCore p f).waves = s.waves := rfl
@[simp] theorem State.updCore_blocks (s : State) (p : Nat) (f : Core → Core) : (s.updCore p f).blocks = s.blocks := rfl
@[simp] theorem State.updCore_launches (s : State) (p : Nat) (f : Core → Core) : (s.updCore p f).launches = s.launches := rfl
@[simp] theorem State.updCore_mem (s : State) (p : Nat) (f : Core → Core) : (s.updCore p f).mem = s.mem := rfl
@[simp] theorem State.updCore_array (s : State) (p : Nat) (f : Core → Core) : (s.updCore p f).array = s.array := rfl
@[simp] theorem State.updCore_hostMem (s : State) (p : Nat) (f : Core → Core) : (s.updCore p f).hostMem = s.hostMem := rfl
@[simp] theorem State.updCore_peerMem (s : State) (p : Nat) (f : Core → Core) : (s.updCore p f).peerMem = s.peerMem := rfl
@[simp] theorem State.updCore_registrant (s : State) (p : Nat) (f : Core → Core) : (s.updCore p f).registrant = s.registrant := rfl
@[simp] theorem State.updCore_claims (s : State) (p : Nat) (f : Core → Core) : (s.updCore p f).claims = s.claims := rfl
@[simp] theorem State.updCore_cells (s : State) (p : Nat) (f : Core → Core) : (s.updCore p f).cells = s.cells := rfl
@[simp] theorem State.updCore_regions (s : State) (p : Nat) (f : Core → Core) : (s.updCore p f).regions = s.regions := rfl
@[simp] theorem State.updCore_rdc (s : State) (p : Nat) (f : Core → Core) : (s.updCore p f).rdc = s.rdc := rfl
@[simp] theorem State.updCore_l2 (s : State) (p : Nat) (f : Core → Core) : (s.updCore p f).l2 = s.l2 := rfl
@[simp] theorem State.updCore_msc (s : State) (p : Nat) (f : Core → Core) : (s.updCore p f).msc = s.msc := rfl
@[simp] theorem State.updCore_stacks (s : State) (p : Nat) (f : Core → Core) : (s.updCore p f).hbms = s.hbms := rfl
@[simp] theorem State.updCore_bad (s : State) (p : Nat) (f : Core → Core) : (s.updCore p f).bad = s.bad := rfl
@[simp] theorem State.updCore_weak (s : State) (p : Nat) (f : Core → Core) : (s.updCore p f).weak = s.weak := rfl
@[simp] theorem State.updCore_lost (s : State) (p : Nat) (f : Core → Core) : (s.updCore p f).lost = s.lost := rfl
@[simp] theorem State.updCore_hostLines (s : State) (p : Nat) (f : Core → Core) : (s.updCore p f).hostLines = s.hostLines := rfl
@[simp] theorem State.updCore_tlb (s : State) (p : Nat) (f : Core → Core) : (s.updCore p f).tlb = s.tlb := rfl
@[simp] theorem State.updCore_accs (s : State) (p : Nat) (f : Core → Core) : (s.updCore p f).accs = s.accs := rfl
@[simp] theorem State.updCore_net (s : State) (p : Nat) (f : Core → Core) : (s.updCore p f).net = s.net := rfl
@[simp] theorem State.updCore_abufs (s : State) (p : Nat) (f : Core → Core) : (s.updCore p f).abufs = s.abufs := rfl
@[simp] theorem State.updCore_jobs (s : State) (p : Nat) (f : Core → Core) : (s.updCore p f).jobs = s.jobs := rfl
@[simp] theorem State.updCore_feet (s : State) (p : Nat) (f : Core → Core) : (s.updCore p f).feet = s.feet := rfl
@[simp] theorem State.updCore_shapes (s : State) (p : Nat) (f : Core → Core) : (s.updCore p f).shapes = s.shapes := rfl
@[simp] theorem State.updCore_eqs (s : State) (p : Nat) (f : Core → Core) : (s.updCore p f).eqs = s.eqs := rfl
@[simp] theorem State.updCore_insts (s : State) (p : Nat) (f : Core → Core) : (s.updCore p f).insts = s.insts := rfl
@[simp] theorem State.updCore_links (s : State) (p : Nat) (f : Core → Core) : (s.updCore p f).links = s.links := rfl
@[simp] theorem State.updCore_hostAccs (s : State) (p : Nat) (f : Core → Core) : (s.updCore p f).hostAccs = s.hostAccs := rfl
@[simp] theorem State.updCore_mgmt (s : State) (p : Nat) (f : Core → Core) : (s.updCore p f).mgmt = s.mgmt := rfl
@[simp] theorem State.updCore_focus (s : State) (p : Nat) (f : Core → Core) : (s.updCore p f).focus = s.focus := rfl
@[simp] theorem State.updCore_agenda (s : State) (p : Nat) (f : Core → Core) : (s.updCore p f).agenda = s.agenda := rfl
@[simp] theorem State.updCore_seq (s : State) (p : Nat) (f : Core → Core) : (s.updCore p f).seq = s.seq := rfl

/-! ### setAcc -/

@[simp] theorem State.setAcc_waves (s : State) (a : Nat) (x : Acc) : (s.setAcc a x).waves = s.waves := rfl
@[simp] theorem State.setAcc_blocks (s : State) (a : Nat) (x : Acc) : (s.setAcc a x).blocks = s.blocks := rfl
@[simp] theorem State.setAcc_launches (s : State) (a : Nat) (x : Acc) : (s.setAcc a x).launches = s.launches := rfl
@[simp] theorem State.setAcc_cores (s : State) (a : Nat) (x : Acc) : (s.setAcc a x).cores = s.cores := rfl
@[simp] theorem State.setAcc_mem (s : State) (a : Nat) (x : Acc) : (s.setAcc a x).mem = s.mem := rfl
@[simp] theorem State.setAcc_array (s : State) (a : Nat) (x : Acc) : (s.setAcc a x).array = s.array := rfl
@[simp] theorem State.setAcc_hostMem (s : State) (a : Nat) (x : Acc) : (s.setAcc a x).hostMem = s.hostMem := rfl
@[simp] theorem State.setAcc_peerMem (s : State) (a : Nat) (x : Acc) : (s.setAcc a x).peerMem = s.peerMem := rfl
@[simp] theorem State.setAcc_registrant (s : State) (a : Nat) (x : Acc) : (s.setAcc a x).registrant = s.registrant := rfl
@[simp] theorem State.setAcc_claims (s : State) (a : Nat) (x : Acc) : (s.setAcc a x).claims = s.claims := rfl
@[simp] theorem State.setAcc_cells (s : State) (a : Nat) (x : Acc) : (s.setAcc a x).cells = s.cells := rfl
@[simp] theorem State.setAcc_regions (s : State) (a : Nat) (x : Acc) : (s.setAcc a x).regions = s.regions := rfl
@[simp] theorem State.setAcc_rdc (s : State) (a : Nat) (x : Acc) : (s.setAcc a x).rdc = s.rdc := rfl
@[simp] theorem State.setAcc_l2 (s : State) (a : Nat) (x : Acc) : (s.setAcc a x).l2 = s.l2 := rfl
@[simp] theorem State.setAcc_msc (s : State) (a : Nat) (x : Acc) : (s.setAcc a x).msc = s.msc := rfl
@[simp] theorem State.setAcc_stacks (s : State) (a : Nat) (x : Acc) : (s.setAcc a x).hbms = s.hbms := rfl
@[simp] theorem State.setAcc_bad (s : State) (a : Nat) (x : Acc) : (s.setAcc a x).bad = s.bad := rfl
@[simp] theorem State.setAcc_weak (s : State) (a : Nat) (x : Acc) : (s.setAcc a x).weak = s.weak := rfl
@[simp] theorem State.setAcc_lost (s : State) (a : Nat) (x : Acc) : (s.setAcc a x).lost = s.lost := rfl
@[simp] theorem State.setAcc_hostLines (s : State) (a : Nat) (x : Acc) : (s.setAcc a x).hostLines = s.hostLines := rfl
@[simp] theorem State.setAcc_tlb (s : State) (a : Nat) (x : Acc) : (s.setAcc a x).tlb = s.tlb := rfl
@[simp] theorem State.setAcc_net (s : State) (a : Nat) (x : Acc) : (s.setAcc a x).net = s.net := rfl
@[simp] theorem State.setAcc_abufs (s : State) (a : Nat) (x : Acc) : (s.setAcc a x).abufs = s.abufs := rfl
@[simp] theorem State.setAcc_jobs (s : State) (a : Nat) (x : Acc) : (s.setAcc a x).jobs = s.jobs := rfl
@[simp] theorem State.setAcc_feet (s : State) (a : Nat) (x : Acc) : (s.setAcc a x).feet = s.feet := rfl
@[simp] theorem State.setAcc_shapes (s : State) (a : Nat) (x : Acc) : (s.setAcc a x).shapes = s.shapes := rfl
@[simp] theorem State.setAcc_eqs (s : State) (a : Nat) (x : Acc) : (s.setAcc a x).eqs = s.eqs := rfl
@[simp] theorem State.setAcc_insts (s : State) (a : Nat) (x : Acc) : (s.setAcc a x).insts = s.insts := rfl
@[simp] theorem State.setAcc_links (s : State) (a : Nat) (x : Acc) : (s.setAcc a x).links = s.links := rfl
@[simp] theorem State.setAcc_hostAccs (s : State) (a : Nat) (x : Acc) : (s.setAcc a x).hostAccs = s.hostAccs := rfl
@[simp] theorem State.setAcc_mgmt (s : State) (a : Nat) (x : Acc) : (s.setAcc a x).mgmt = s.mgmt := rfl
@[simp] theorem State.setAcc_focus (s : State) (a : Nat) (x : Acc) : (s.setAcc a x).focus = s.focus := rfl
@[simp] theorem State.setAcc_agenda (s : State) (a : Nat) (x : Acc) : (s.setAcc a x).agenda = s.agenda := rfl
@[simp] theorem State.setAcc_seq (s : State) (a : Nat) (x : Acc) : (s.setAcc a x).seq = s.seq := rfl

/-! ### updAcc -/

@[simp] theorem State.updAcc_waves (s : State) (a : Nat) (f : Acc → Acc) : (s.updAcc a f).waves = s.waves := by unfold State.updAcc; split <;> rfl
@[simp] theorem State.updAcc_blocks (s : State) (a : Nat) (f : Acc → Acc) : (s.updAcc a f).blocks = s.blocks := by unfold State.updAcc; split <;> rfl
@[simp] theorem State.updAcc_launches (s : State) (a : Nat) (f : Acc → Acc) : (s.updAcc a f).launches = s.launches := by unfold State.updAcc; split <;> rfl
@[simp] theorem State.updAcc_cores (s : State) (a : Nat) (f : Acc → Acc) : (s.updAcc a f).cores = s.cores := by unfold State.updAcc; split <;> rfl
@[simp] theorem State.updAcc_mem (s : State) (a : Nat) (f : Acc → Acc) : (s.updAcc a f).mem = s.mem := by unfold State.updAcc; split <;> rfl
@[simp] theorem State.updAcc_array (s : State) (a : Nat) (f : Acc → Acc) : (s.updAcc a f).array = s.array := by unfold State.updAcc; split <;> rfl
@[simp] theorem State.updAcc_hostMem (s : State) (a : Nat) (f : Acc → Acc) : (s.updAcc a f).hostMem = s.hostMem := by unfold State.updAcc; split <;> rfl
@[simp] theorem State.updAcc_peerMem (s : State) (a : Nat) (f : Acc → Acc) : (s.updAcc a f).peerMem = s.peerMem := by unfold State.updAcc; split <;> rfl
@[simp] theorem State.updAcc_registrant (s : State) (a : Nat) (f : Acc → Acc) : (s.updAcc a f).registrant = s.registrant := by unfold State.updAcc; split <;> rfl
@[simp] theorem State.updAcc_claims (s : State) (a : Nat) (f : Acc → Acc) : (s.updAcc a f).claims = s.claims := by unfold State.updAcc; split <;> rfl
@[simp] theorem State.updAcc_cells (s : State) (a : Nat) (f : Acc → Acc) : (s.updAcc a f).cells = s.cells := by unfold State.updAcc; split <;> rfl
@[simp] theorem State.updAcc_regions (s : State) (a : Nat) (f : Acc → Acc) : (s.updAcc a f).regions = s.regions := by unfold State.updAcc; split <;> rfl
@[simp] theorem State.updAcc_rdc (s : State) (a : Nat) (f : Acc → Acc) : (s.updAcc a f).rdc = s.rdc := by unfold State.updAcc; split <;> rfl
@[simp] theorem State.updAcc_l2 (s : State) (a : Nat) (f : Acc → Acc) : (s.updAcc a f).l2 = s.l2 := by unfold State.updAcc; split <;> rfl
@[simp] theorem State.updAcc_msc (s : State) (a : Nat) (f : Acc → Acc) : (s.updAcc a f).msc = s.msc := by unfold State.updAcc; split <;> rfl
@[simp] theorem State.updAcc_stacks (s : State) (a : Nat) (f : Acc → Acc) : (s.updAcc a f).hbms = s.hbms := by unfold State.updAcc; split <;> rfl
@[simp] theorem State.updAcc_bad (s : State) (a : Nat) (f : Acc → Acc) : (s.updAcc a f).bad = s.bad := by unfold State.updAcc; split <;> rfl
@[simp] theorem State.updAcc_weak (s : State) (a : Nat) (f : Acc → Acc) : (s.updAcc a f).weak = s.weak := by unfold State.updAcc; split <;> rfl
@[simp] theorem State.updAcc_lost (s : State) (a : Nat) (f : Acc → Acc) : (s.updAcc a f).lost = s.lost := by unfold State.updAcc; split <;> rfl
@[simp] theorem State.updAcc_hostLines (s : State) (a : Nat) (f : Acc → Acc) : (s.updAcc a f).hostLines = s.hostLines := by unfold State.updAcc; split <;> rfl
@[simp] theorem State.updAcc_tlb (s : State) (a : Nat) (f : Acc → Acc) : (s.updAcc a f).tlb = s.tlb := by unfold State.updAcc; split <;> rfl
@[simp] theorem State.updAcc_net (s : State) (a : Nat) (f : Acc → Acc) : (s.updAcc a f).net = s.net := by unfold State.updAcc; split <;> rfl
@[simp] theorem State.updAcc_abufs (s : State) (a : Nat) (f : Acc → Acc) : (s.updAcc a f).abufs = s.abufs := by unfold State.updAcc; split <;> rfl
@[simp] theorem State.updAcc_jobs (s : State) (a : Nat) (f : Acc → Acc) : (s.updAcc a f).jobs = s.jobs := by unfold State.updAcc; split <;> rfl
@[simp] theorem State.updAcc_feet (s : State) (a : Nat) (f : Acc → Acc) : (s.updAcc a f).feet = s.feet := by unfold State.updAcc; split <;> rfl
@[simp] theorem State.updAcc_shapes (s : State) (a : Nat) (f : Acc → Acc) : (s.updAcc a f).shapes = s.shapes := by unfold State.updAcc; split <;> rfl
@[simp] theorem State.updAcc_eqs (s : State) (a : Nat) (f : Acc → Acc) : (s.updAcc a f).eqs = s.eqs := by unfold State.updAcc; split <;> rfl
@[simp] theorem State.updAcc_insts (s : State) (a : Nat) (f : Acc → Acc) : (s.updAcc a f).insts = s.insts := by unfold State.updAcc; split <;> rfl
@[simp] theorem State.updAcc_links (s : State) (a : Nat) (f : Acc → Acc) : (s.updAcc a f).links = s.links := by unfold State.updAcc; split <;> rfl
@[simp] theorem State.updAcc_hostAccs (s : State) (a : Nat) (f : Acc → Acc) : (s.updAcc a f).hostAccs = s.hostAccs := by unfold State.updAcc; split <;> rfl
@[simp] theorem State.updAcc_mgmt (s : State) (a : Nat) (f : Acc → Acc) : (s.updAcc a f).mgmt = s.mgmt := by unfold State.updAcc; split <;> rfl
@[simp] theorem State.updAcc_focus (s : State) (a : Nat) (f : Acc → Acc) : (s.updAcc a f).focus = s.focus := by unfold State.updAcc; split <;> rfl
@[simp] theorem State.updAcc_agenda (s : State) (a : Nat) (f : Acc → Acc) : (s.updAcc a f).agenda = s.agenda := by unfold State.updAcc; split <;> rfl
@[simp] theorem State.updAcc_seq (s : State) (a : Nat) (f : Acc → Acc) : (s.updAcc a f).seq = s.seq := by unfold State.updAcc; split <;> rfl

/-! ### delAcc -/

@[simp] theorem State.delAcc_waves (s : State) (a : Nat) : (s.delAcc a).waves = s.waves := rfl
@[simp] theorem State.delAcc_blocks (s : State) (a : Nat) : (s.delAcc a).blocks = s.blocks := rfl
@[simp] theorem State.delAcc_launches (s : State) (a : Nat) : (s.delAcc a).launches = s.launches := rfl
@[simp] theorem State.delAcc_cores (s : State) (a : Nat) : (s.delAcc a).cores = s.cores := rfl
@[simp] theorem State.delAcc_mem (s : State) (a : Nat) : (s.delAcc a).mem = s.mem := rfl
@[simp] theorem State.delAcc_array (s : State) (a : Nat) : (s.delAcc a).array = s.array := rfl
@[simp] theorem State.delAcc_hostMem (s : State) (a : Nat) : (s.delAcc a).hostMem = s.hostMem := rfl
@[simp] theorem State.delAcc_peerMem (s : State) (a : Nat) : (s.delAcc a).peerMem = s.peerMem := rfl
@[simp] theorem State.delAcc_registrant (s : State) (a : Nat) : (s.delAcc a).registrant = s.registrant := rfl
@[simp] theorem State.delAcc_claims (s : State) (a : Nat) : (s.delAcc a).claims = s.claims := rfl
@[simp] theorem State.delAcc_cells (s : State) (a : Nat) : (s.delAcc a).cells = s.cells := rfl
@[simp] theorem State.delAcc_regions (s : State) (a : Nat) : (s.delAcc a).regions = s.regions := rfl
@[simp] theorem State.delAcc_rdc (s : State) (a : Nat) : (s.delAcc a).rdc = s.rdc := rfl
@[simp] theorem State.delAcc_l2 (s : State) (a : Nat) : (s.delAcc a).l2 = s.l2 := rfl
@[simp] theorem State.delAcc_msc (s : State) (a : Nat) : (s.delAcc a).msc = s.msc := rfl
@[simp] theorem State.delAcc_stacks (s : State) (a : Nat) : (s.delAcc a).hbms = s.hbms := rfl
@[simp] theorem State.delAcc_bad (s : State) (a : Nat) : (s.delAcc a).bad = s.bad := rfl
@[simp] theorem State.delAcc_weak (s : State) (a : Nat) : (s.delAcc a).weak = s.weak := rfl
@[simp] theorem State.delAcc_lost (s : State) (a : Nat) : (s.delAcc a).lost = s.lost := rfl
@[simp] theorem State.delAcc_hostLines (s : State) (a : Nat) : (s.delAcc a).hostLines = s.hostLines := rfl
@[simp] theorem State.delAcc_tlb (s : State) (a : Nat) : (s.delAcc a).tlb = s.tlb := rfl
@[simp] theorem State.delAcc_net (s : State) (a : Nat) : (s.delAcc a).net = s.net := rfl
@[simp] theorem State.delAcc_abufs (s : State) (a : Nat) : (s.delAcc a).abufs = s.abufs := rfl
@[simp] theorem State.delAcc_jobs (s : State) (a : Nat) : (s.delAcc a).jobs = s.jobs := rfl
@[simp] theorem State.delAcc_feet (s : State) (a : Nat) : (s.delAcc a).feet = s.feet := rfl
@[simp] theorem State.delAcc_shapes (s : State) (a : Nat) : (s.delAcc a).shapes = s.shapes := rfl
@[simp] theorem State.delAcc_eqs (s : State) (a : Nat) : (s.delAcc a).eqs = s.eqs := rfl
@[simp] theorem State.delAcc_insts (s : State) (a : Nat) : (s.delAcc a).insts = s.insts := rfl
@[simp] theorem State.delAcc_links (s : State) (a : Nat) : (s.delAcc a).links = s.links := rfl
@[simp] theorem State.delAcc_hostAccs (s : State) (a : Nat) : (s.delAcc a).hostAccs = s.hostAccs := rfl
@[simp] theorem State.delAcc_mgmt (s : State) (a : Nat) : (s.delAcc a).mgmt = s.mgmt := rfl
@[simp] theorem State.delAcc_focus (s : State) (a : Nat) : (s.delAcc a).focus = s.focus := rfl
@[simp] theorem State.delAcc_agenda (s : State) (a : Nat) : (s.delAcc a).agenda = s.agenda := rfl
@[simp] theorem State.delAcc_seq (s : State) (a : Nat) : (s.delAcc a).seq = s.seq := rfl

/-! ### setJob -/

@[simp] theorem State.setJob_waves (s : State) (j : Nat) (x : Job) : (s.setJob j x).waves = s.waves := rfl
@[simp] theorem State.setJob_blocks (s : State) (j : Nat) (x : Job) : (s.setJob j x).blocks = s.blocks := rfl
@[simp] theorem State.setJob_launches (s : State) (j : Nat) (x : Job) : (s.setJob j x).launches = s.launches := rfl
@[simp] theorem State.setJob_cores (s : State) (j : Nat) (x : Job) : (s.setJob j x).cores = s.cores := rfl
@[simp] theorem State.setJob_mem (s : State) (j : Nat) (x : Job) : (s.setJob j x).mem = s.mem := rfl
@[simp] theorem State.setJob_array (s : State) (j : Nat) (x : Job) : (s.setJob j x).array = s.array := rfl
@[simp] theorem State.setJob_hostMem (s : State) (j : Nat) (x : Job) : (s.setJob j x).hostMem = s.hostMem := rfl
@[simp] theorem State.setJob_peerMem (s : State) (j : Nat) (x : Job) : (s.setJob j x).peerMem = s.peerMem := rfl
@[simp] theorem State.setJob_registrant (s : State) (j : Nat) (x : Job) : (s.setJob j x).registrant = s.registrant := rfl
@[simp] theorem State.setJob_claims (s : State) (j : Nat) (x : Job) : (s.setJob j x).claims = s.claims := rfl
@[simp] theorem State.setJob_cells (s : State) (j : Nat) (x : Job) : (s.setJob j x).cells = s.cells := rfl
@[simp] theorem State.setJob_regions (s : State) (j : Nat) (x : Job) : (s.setJob j x).regions = s.regions := rfl
@[simp] theorem State.setJob_rdc (s : State) (j : Nat) (x : Job) : (s.setJob j x).rdc = s.rdc := rfl
@[simp] theorem State.setJob_l2 (s : State) (j : Nat) (x : Job) : (s.setJob j x).l2 = s.l2 := rfl
@[simp] theorem State.setJob_msc (s : State) (j : Nat) (x : Job) : (s.setJob j x).msc = s.msc := rfl
@[simp] theorem State.setJob_stacks (s : State) (j : Nat) (x : Job) : (s.setJob j x).hbms = s.hbms := rfl
@[simp] theorem State.setJob_bad (s : State) (j : Nat) (x : Job) : (s.setJob j x).bad = s.bad := rfl
@[simp] theorem State.setJob_weak (s : State) (j : Nat) (x : Job) : (s.setJob j x).weak = s.weak := rfl
@[simp] theorem State.setJob_lost (s : State) (j : Nat) (x : Job) : (s.setJob j x).lost = s.lost := rfl
@[simp] theorem State.setJob_hostLines (s : State) (j : Nat) (x : Job) : (s.setJob j x).hostLines = s.hostLines := rfl
@[simp] theorem State.setJob_tlb (s : State) (j : Nat) (x : Job) : (s.setJob j x).tlb = s.tlb := rfl
@[simp] theorem State.setJob_accs (s : State) (j : Nat) (x : Job) : (s.setJob j x).accs = s.accs := rfl
@[simp] theorem State.setJob_net (s : State) (j : Nat) (x : Job) : (s.setJob j x).net = s.net := rfl
@[simp] theorem State.setJob_abufs (s : State) (j : Nat) (x : Job) : (s.setJob j x).abufs = s.abufs := rfl
@[simp] theorem State.setJob_feet (s : State) (j : Nat) (x : Job) : (s.setJob j x).feet = s.feet := rfl
@[simp] theorem State.setJob_shapes (s : State) (j : Nat) (x : Job) : (s.setJob j x).shapes = s.shapes := rfl
@[simp] theorem State.setJob_eqs (s : State) (j : Nat) (x : Job) : (s.setJob j x).eqs = s.eqs := rfl
@[simp] theorem State.setJob_insts (s : State) (j : Nat) (x : Job) : (s.setJob j x).insts = s.insts := rfl
@[simp] theorem State.setJob_links (s : State) (j : Nat) (x : Job) : (s.setJob j x).links = s.links := rfl
@[simp] theorem State.setJob_hostAccs (s : State) (j : Nat) (x : Job) : (s.setJob j x).hostAccs = s.hostAccs := rfl
@[simp] theorem State.setJob_mgmt (s : State) (j : Nat) (x : Job) : (s.setJob j x).mgmt = s.mgmt := rfl
@[simp] theorem State.setJob_focus (s : State) (j : Nat) (x : Job) : (s.setJob j x).focus = s.focus := rfl
@[simp] theorem State.setJob_agenda (s : State) (j : Nat) (x : Job) : (s.setJob j x).agenda = s.agenda := rfl
@[simp] theorem State.setJob_seq (s : State) (j : Nat) (x : Job) : (s.setJob j x).seq = s.seq := rfl

/-! ### updJob -/

@[simp] theorem State.updJob_waves (s : State) (j : Nat) (f : Job → Job) : (s.updJob j f).waves = s.waves := by unfold State.updJob; split <;> rfl
@[simp] theorem State.updJob_blocks (s : State) (j : Nat) (f : Job → Job) : (s.updJob j f).blocks = s.blocks := by unfold State.updJob; split <;> rfl
@[simp] theorem State.updJob_launches (s : State) (j : Nat) (f : Job → Job) : (s.updJob j f).launches = s.launches := by unfold State.updJob; split <;> rfl
@[simp] theorem State.updJob_cores (s : State) (j : Nat) (f : Job → Job) : (s.updJob j f).cores = s.cores := by unfold State.updJob; split <;> rfl
@[simp] theorem State.updJob_mem (s : State) (j : Nat) (f : Job → Job) : (s.updJob j f).mem = s.mem := by unfold State.updJob; split <;> rfl
@[simp] theorem State.updJob_array (s : State) (j : Nat) (f : Job → Job) : (s.updJob j f).array = s.array := by unfold State.updJob; split <;> rfl
@[simp] theorem State.updJob_hostMem (s : State) (j : Nat) (f : Job → Job) : (s.updJob j f).hostMem = s.hostMem := by unfold State.updJob; split <;> rfl
@[simp] theorem State.updJob_peerMem (s : State) (j : Nat) (f : Job → Job) : (s.updJob j f).peerMem = s.peerMem := by unfold State.updJob; split <;> rfl
@[simp] theorem State.updJob_registrant (s : State) (j : Nat) (f : Job → Job) : (s.updJob j f).registrant = s.registrant := by unfold State.updJob; split <;> rfl
@[simp] theorem State.updJob_claims (s : State) (j : Nat) (f : Job → Job) : (s.updJob j f).claims = s.claims := by unfold State.updJob; split <;> rfl
@[simp] theorem State.updJob_cells (s : State) (j : Nat) (f : Job → Job) : (s.updJob j f).cells = s.cells := by unfold State.updJob; split <;> rfl
@[simp] theorem State.updJob_regions (s : State) (j : Nat) (f : Job → Job) : (s.updJob j f).regions = s.regions := by unfold State.updJob; split <;> rfl
@[simp] theorem State.updJob_rdc (s : State) (j : Nat) (f : Job → Job) : (s.updJob j f).rdc = s.rdc := by unfold State.updJob; split <;> rfl
@[simp] theorem State.updJob_l2 (s : State) (j : Nat) (f : Job → Job) : (s.updJob j f).l2 = s.l2 := by unfold State.updJob; split <;> rfl
@[simp] theorem State.updJob_msc (s : State) (j : Nat) (f : Job → Job) : (s.updJob j f).msc = s.msc := by unfold State.updJob; split <;> rfl
@[simp] theorem State.updJob_stacks (s : State) (j : Nat) (f : Job → Job) : (s.updJob j f).hbms = s.hbms := by unfold State.updJob; split <;> rfl
@[simp] theorem State.updJob_bad (s : State) (j : Nat) (f : Job → Job) : (s.updJob j f).bad = s.bad := by unfold State.updJob; split <;> rfl
@[simp] theorem State.updJob_weak (s : State) (j : Nat) (f : Job → Job) : (s.updJob j f).weak = s.weak := by unfold State.updJob; split <;> rfl
@[simp] theorem State.updJob_lost (s : State) (j : Nat) (f : Job → Job) : (s.updJob j f).lost = s.lost := by unfold State.updJob; split <;> rfl
@[simp] theorem State.updJob_hostLines (s : State) (j : Nat) (f : Job → Job) : (s.updJob j f).hostLines = s.hostLines := by unfold State.updJob; split <;> rfl
@[simp] theorem State.updJob_tlb (s : State) (j : Nat) (f : Job → Job) : (s.updJob j f).tlb = s.tlb := by unfold State.updJob; split <;> rfl
@[simp] theorem State.updJob_accs (s : State) (j : Nat) (f : Job → Job) : (s.updJob j f).accs = s.accs := by unfold State.updJob; split <;> rfl
@[simp] theorem State.updJob_net (s : State) (j : Nat) (f : Job → Job) : (s.updJob j f).net = s.net := by unfold State.updJob; split <;> rfl
@[simp] theorem State.updJob_abufs (s : State) (j : Nat) (f : Job → Job) : (s.updJob j f).abufs = s.abufs := by unfold State.updJob; split <;> rfl
@[simp] theorem State.updJob_feet (s : State) (j : Nat) (f : Job → Job) : (s.updJob j f).feet = s.feet := by unfold State.updJob; split <;> rfl
@[simp] theorem State.updJob_shapes (s : State) (j : Nat) (f : Job → Job) : (s.updJob j f).shapes = s.shapes := by unfold State.updJob; split <;> rfl
@[simp] theorem State.updJob_eqs (s : State) (j : Nat) (f : Job → Job) : (s.updJob j f).eqs = s.eqs := by unfold State.updJob; split <;> rfl
@[simp] theorem State.updJob_insts (s : State) (j : Nat) (f : Job → Job) : (s.updJob j f).insts = s.insts := by unfold State.updJob; split <;> rfl
@[simp] theorem State.updJob_links (s : State) (j : Nat) (f : Job → Job) : (s.updJob j f).links = s.links := by unfold State.updJob; split <;> rfl
@[simp] theorem State.updJob_hostAccs (s : State) (j : Nat) (f : Job → Job) : (s.updJob j f).hostAccs = s.hostAccs := by unfold State.updJob; split <;> rfl
@[simp] theorem State.updJob_mgmt (s : State) (j : Nat) (f : Job → Job) : (s.updJob j f).mgmt = s.mgmt := by unfold State.updJob; split <;> rfl
@[simp] theorem State.updJob_focus (s : State) (j : Nat) (f : Job → Job) : (s.updJob j f).focus = s.focus := by unfold State.updJob; split <;> rfl
@[simp] theorem State.updJob_agenda (s : State) (j : Nat) (f : Job → Job) : (s.updJob j f).agenda = s.agenda := by unfold State.updJob; split <;> rfl
@[simp] theorem State.updJob_seq (s : State) (j : Nat) (f : Job → Job) : (s.updJob j f).seq = s.seq := by unfold State.updJob; split <;> rfl

/-! ### updStack -/

@[simp] theorem State.updStack_waves (s : State) (k : Nat) (f : Stack → Stack) : (s.updStack k f).waves = s.waves := rfl
@[simp] theorem State.updStack_blocks (s : State) (k : Nat) (f : Stack → Stack) : (s.updStack k f).blocks = s.blocks := rfl
@[simp] theorem State.updStack_launches (s : State) (k : Nat) (f : Stack → Stack) : (s.updStack k f).launches = s.launches := rfl
@[simp] theorem State.updStack_cores (s : State) (k : Nat) (f : Stack → Stack) : (s.updStack k f).cores = s.cores := rfl
@[simp] theorem State.updStack_mem (s : State) (k : Nat) (f : Stack → Stack) : (s.updStack k f).mem = s.mem := rfl
@[simp] theorem State.updStack_array (s : State) (k : Nat) (f : Stack → Stack) : (s.updStack k f).array = s.array := rfl
@[simp] theorem State.updStack_hostMem (s : State) (k : Nat) (f : Stack → Stack) : (s.updStack k f).hostMem = s.hostMem := rfl
@[simp] theorem State.updStack_peerMem (s : State) (k : Nat) (f : Stack → Stack) : (s.updStack k f).peerMem = s.peerMem := rfl
@[simp] theorem State.updStack_registrant (s : State) (k : Nat) (f : Stack → Stack) : (s.updStack k f).registrant = s.registrant := rfl
@[simp] theorem State.updStack_claims (s : State) (k : Nat) (f : Stack → Stack) : (s.updStack k f).claims = s.claims := rfl
@[simp] theorem State.updStack_cells (s : State) (k : Nat) (f : Stack → Stack) : (s.updStack k f).cells = s.cells := rfl
@[simp] theorem State.updStack_regions (s : State) (k : Nat) (f : Stack → Stack) : (s.updStack k f).regions = s.regions := rfl
@[simp] theorem State.updStack_rdc (s : State) (k : Nat) (f : Stack → Stack) : (s.updStack k f).rdc = s.rdc := rfl
@[simp] theorem State.updStack_l2 (s : State) (k : Nat) (f : Stack → Stack) : (s.updStack k f).l2 = s.l2 := rfl
@[simp] theorem State.updStack_msc (s : State) (k : Nat) (f : Stack → Stack) : (s.updStack k f).msc = s.msc := rfl
@[simp] theorem State.updStack_bad (s : State) (k : Nat) (f : Stack → Stack) : (s.updStack k f).bad = s.bad := rfl
@[simp] theorem State.updStack_weak (s : State) (k : Nat) (f : Stack → Stack) : (s.updStack k f).weak = s.weak := rfl
@[simp] theorem State.updStack_lost (s : State) (k : Nat) (f : Stack → Stack) : (s.updStack k f).lost = s.lost := rfl
@[simp] theorem State.updStack_hostLines (s : State) (k : Nat) (f : Stack → Stack) : (s.updStack k f).hostLines = s.hostLines := rfl
@[simp] theorem State.updStack_tlb (s : State) (k : Nat) (f : Stack → Stack) : (s.updStack k f).tlb = s.tlb := rfl
@[simp] theorem State.updStack_accs (s : State) (k : Nat) (f : Stack → Stack) : (s.updStack k f).accs = s.accs := rfl
@[simp] theorem State.updStack_net (s : State) (k : Nat) (f : Stack → Stack) : (s.updStack k f).net = s.net := rfl
@[simp] theorem State.updStack_abufs (s : State) (k : Nat) (f : Stack → Stack) : (s.updStack k f).abufs = s.abufs := rfl
@[simp] theorem State.updStack_jobs (s : State) (k : Nat) (f : Stack → Stack) : (s.updStack k f).jobs = s.jobs := rfl
@[simp] theorem State.updStack_feet (s : State) (k : Nat) (f : Stack → Stack) : (s.updStack k f).feet = s.feet := rfl
@[simp] theorem State.updStack_shapes (s : State) (k : Nat) (f : Stack → Stack) : (s.updStack k f).shapes = s.shapes := rfl
@[simp] theorem State.updStack_eqs (s : State) (k : Nat) (f : Stack → Stack) : (s.updStack k f).eqs = s.eqs := rfl
@[simp] theorem State.updStack_insts (s : State) (k : Nat) (f : Stack → Stack) : (s.updStack k f).insts = s.insts := rfl
@[simp] theorem State.updStack_links (s : State) (k : Nat) (f : Stack → Stack) : (s.updStack k f).links = s.links := rfl
@[simp] theorem State.updStack_hostAccs (s : State) (k : Nat) (f : Stack → Stack) : (s.updStack k f).hostAccs = s.hostAccs := rfl
@[simp] theorem State.updStack_mgmt (s : State) (k : Nat) (f : Stack → Stack) : (s.updStack k f).mgmt = s.mgmt := rfl
@[simp] theorem State.updStack_focus (s : State) (k : Nat) (f : Stack → Stack) : (s.updStack k f).focus = s.focus := rfl
@[simp] theorem State.updStack_agenda (s : State) (k : Nat) (f : Stack → Stack) : (s.updStack k f).agenda = s.agenda := rfl
@[simp] theorem State.updStack_seq (s : State) (k : Nat) (f : Stack → Stack) : (s.updStack k f).seq = s.seq := rfl

/-! ### updLink -/

@[simp] theorem State.updLink_waves (s : State) (k : Nat) (f : Link → Link) : (s.updLink k f).waves = s.waves := rfl
@[simp] theorem State.updLink_blocks (s : State) (k : Nat) (f : Link → Link) : (s.updLink k f).blocks = s.blocks := rfl
@[simp] theorem State.updLink_launches (s : State) (k : Nat) (f : Link → Link) : (s.updLink k f).launches = s.launches := rfl
@[simp] theorem State.updLink_cores (s : State) (k : Nat) (f : Link → Link) : (s.updLink k f).cores = s.cores := rfl
@[simp] theorem State.updLink_mem (s : State) (k : Nat) (f : Link → Link) : (s.updLink k f).mem = s.mem := rfl
@[simp] theorem State.updLink_array (s : State) (k : Nat) (f : Link → Link) : (s.updLink k f).array = s.array := rfl
@[simp] theorem State.updLink_hostMem (s : State) (k : Nat) (f : Link → Link) : (s.updLink k f).hostMem = s.hostMem := rfl
@[simp] theorem State.updLink_peerMem (s : State) (k : Nat) (f : Link → Link) : (s.updLink k f).peerMem = s.peerMem := rfl
@[simp] theorem State.updLink_registrant (s : State) (k : Nat) (f : Link → Link) : (s.updLink k f).registrant = s.registrant := rfl
@[simp] theorem State.updLink_claims (s : State) (k : Nat) (f : Link → Link) : (s.updLink k f).claims = s.claims := rfl
@[simp] theorem State.updLink_cells (s : State) (k : Nat) (f : Link → Link) : (s.updLink k f).cells = s.cells := rfl
@[simp] theorem State.updLink_regions (s : State) (k : Nat) (f : Link → Link) : (s.updLink k f).regions = s.regions := rfl
@[simp] theorem State.updLink_rdc (s : State) (k : Nat) (f : Link → Link) : (s.updLink k f).rdc = s.rdc := rfl
@[simp] theorem State.updLink_l2 (s : State) (k : Nat) (f : Link → Link) : (s.updLink k f).l2 = s.l2 := rfl
@[simp] theorem State.updLink_msc (s : State) (k : Nat) (f : Link → Link) : (s.updLink k f).msc = s.msc := rfl
@[simp] theorem State.updLink_stacks (s : State) (k : Nat) (f : Link → Link) : (s.updLink k f).hbms = s.hbms := rfl
@[simp] theorem State.updLink_bad (s : State) (k : Nat) (f : Link → Link) : (s.updLink k f).bad = s.bad := rfl
@[simp] theorem State.updLink_weak (s : State) (k : Nat) (f : Link → Link) : (s.updLink k f).weak = s.weak := rfl
@[simp] theorem State.updLink_lost (s : State) (k : Nat) (f : Link → Link) : (s.updLink k f).lost = s.lost := rfl
@[simp] theorem State.updLink_hostLines (s : State) (k : Nat) (f : Link → Link) : (s.updLink k f).hostLines = s.hostLines := rfl
@[simp] theorem State.updLink_tlb (s : State) (k : Nat) (f : Link → Link) : (s.updLink k f).tlb = s.tlb := rfl
@[simp] theorem State.updLink_accs (s : State) (k : Nat) (f : Link → Link) : (s.updLink k f).accs = s.accs := rfl
@[simp] theorem State.updLink_net (s : State) (k : Nat) (f : Link → Link) : (s.updLink k f).net = s.net := rfl
@[simp] theorem State.updLink_abufs (s : State) (k : Nat) (f : Link → Link) : (s.updLink k f).abufs = s.abufs := rfl
@[simp] theorem State.updLink_jobs (s : State) (k : Nat) (f : Link → Link) : (s.updLink k f).jobs = s.jobs := rfl
@[simp] theorem State.updLink_feet (s : State) (k : Nat) (f : Link → Link) : (s.updLink k f).feet = s.feet := rfl
@[simp] theorem State.updLink_shapes (s : State) (k : Nat) (f : Link → Link) : (s.updLink k f).shapes = s.shapes := rfl
@[simp] theorem State.updLink_eqs (s : State) (k : Nat) (f : Link → Link) : (s.updLink k f).eqs = s.eqs := rfl
@[simp] theorem State.updLink_insts (s : State) (k : Nat) (f : Link → Link) : (s.updLink k f).insts = s.insts := rfl
@[simp] theorem State.updLink_hostAccs (s : State) (k : Nat) (f : Link → Link) : (s.updLink k f).hostAccs = s.hostAccs := rfl
@[simp] theorem State.updLink_mgmt (s : State) (k : Nat) (f : Link → Link) : (s.updLink k f).mgmt = s.mgmt := rfl
@[simp] theorem State.updLink_focus (s : State) (k : Nat) (f : Link → Link) : (s.updLink k f).focus = s.focus := rfl
@[simp] theorem State.updLink_agenda (s : State) (k : Nat) (f : Link → Link) : (s.updLink k f).agenda = s.agenda := rfl
@[simp] theorem State.updLink_seq (s : State) (k : Nat) (f : Link → Link) : (s.updLink k f).seq = s.seq := rfl

/-! ### updEq -/

@[simp] theorem State.updEq_waves (s : State) (k : Nat) (f : EQueue → EQueue) : (s.updEq k f).waves = s.waves := rfl
@[simp] theorem State.updEq_blocks (s : State) (k : Nat) (f : EQueue → EQueue) : (s.updEq k f).blocks = s.blocks := rfl
@[simp] theorem State.updEq_launches (s : State) (k : Nat) (f : EQueue → EQueue) : (s.updEq k f).launches = s.launches := rfl
@[simp] theorem State.updEq_cores (s : State) (k : Nat) (f : EQueue → EQueue) : (s.updEq k f).cores = s.cores := rfl
@[simp] theorem State.updEq_mem (s : State) (k : Nat) (f : EQueue → EQueue) : (s.updEq k f).mem = s.mem := rfl
@[simp] theorem State.updEq_array (s : State) (k : Nat) (f : EQueue → EQueue) : (s.updEq k f).array = s.array := rfl
@[simp] theorem State.updEq_hostMem (s : State) (k : Nat) (f : EQueue → EQueue) : (s.updEq k f).hostMem = s.hostMem := rfl
@[simp] theorem State.updEq_peerMem (s : State) (k : Nat) (f : EQueue → EQueue) : (s.updEq k f).peerMem = s.peerMem := rfl
@[simp] theorem State.updEq_registrant (s : State) (k : Nat) (f : EQueue → EQueue) : (s.updEq k f).registrant = s.registrant := rfl
@[simp] theorem State.updEq_claims (s : State) (k : Nat) (f : EQueue → EQueue) : (s.updEq k f).claims = s.claims := rfl
@[simp] theorem State.updEq_cells (s : State) (k : Nat) (f : EQueue → EQueue) : (s.updEq k f).cells = s.cells := rfl
@[simp] theorem State.updEq_regions (s : State) (k : Nat) (f : EQueue → EQueue) : (s.updEq k f).regions = s.regions := rfl
@[simp] theorem State.updEq_rdc (s : State) (k : Nat) (f : EQueue → EQueue) : (s.updEq k f).rdc = s.rdc := rfl
@[simp] theorem State.updEq_l2 (s : State) (k : Nat) (f : EQueue → EQueue) : (s.updEq k f).l2 = s.l2 := rfl
@[simp] theorem State.updEq_msc (s : State) (k : Nat) (f : EQueue → EQueue) : (s.updEq k f).msc = s.msc := rfl
@[simp] theorem State.updEq_stacks (s : State) (k : Nat) (f : EQueue → EQueue) : (s.updEq k f).hbms = s.hbms := rfl
@[simp] theorem State.updEq_bad (s : State) (k : Nat) (f : EQueue → EQueue) : (s.updEq k f).bad = s.bad := rfl
@[simp] theorem State.updEq_weak (s : State) (k : Nat) (f : EQueue → EQueue) : (s.updEq k f).weak = s.weak := rfl
@[simp] theorem State.updEq_lost (s : State) (k : Nat) (f : EQueue → EQueue) : (s.updEq k f).lost = s.lost := rfl
@[simp] theorem State.updEq_hostLines (s : State) (k : Nat) (f : EQueue → EQueue) : (s.updEq k f).hostLines = s.hostLines := rfl
@[simp] theorem State.updEq_tlb (s : State) (k : Nat) (f : EQueue → EQueue) : (s.updEq k f).tlb = s.tlb := rfl
@[simp] theorem State.updEq_accs (s : State) (k : Nat) (f : EQueue → EQueue) : (s.updEq k f).accs = s.accs := rfl
@[simp] theorem State.updEq_net (s : State) (k : Nat) (f : EQueue → EQueue) : (s.updEq k f).net = s.net := rfl
@[simp] theorem State.updEq_abufs (s : State) (k : Nat) (f : EQueue → EQueue) : (s.updEq k f).abufs = s.abufs := rfl
@[simp] theorem State.updEq_jobs (s : State) (k : Nat) (f : EQueue → EQueue) : (s.updEq k f).jobs = s.jobs := rfl
@[simp] theorem State.updEq_feet (s : State) (k : Nat) (f : EQueue → EQueue) : (s.updEq k f).feet = s.feet := rfl
@[simp] theorem State.updEq_shapes (s : State) (k : Nat) (f : EQueue → EQueue) : (s.updEq k f).shapes = s.shapes := rfl
@[simp] theorem State.updEq_insts (s : State) (k : Nat) (f : EQueue → EQueue) : (s.updEq k f).insts = s.insts := rfl
@[simp] theorem State.updEq_links (s : State) (k : Nat) (f : EQueue → EQueue) : (s.updEq k f).links = s.links := rfl
@[simp] theorem State.updEq_hostAccs (s : State) (k : Nat) (f : EQueue → EQueue) : (s.updEq k f).hostAccs = s.hostAccs := rfl
@[simp] theorem State.updEq_mgmt (s : State) (k : Nat) (f : EQueue → EQueue) : (s.updEq k f).mgmt = s.mgmt := rfl
@[simp] theorem State.updEq_focus (s : State) (k : Nat) (f : EQueue → EQueue) : (s.updEq k f).focus = s.focus := rfl
@[simp] theorem State.updEq_agenda (s : State) (k : Nat) (f : EQueue → EQueue) : (s.updEq k f).agenda = s.agenda := rfl
@[simp] theorem State.updEq_seq (s : State) (k : Nat) (f : EQueue → EQueue) : (s.updEq k f).seq = s.seq := rfl

/-! ### updInst -/

@[simp] theorem State.updInst_waves (s : State) (k : Nat) (f : Inst → Inst) : (s.updInst k f).waves = s.waves := rfl
@[simp] theorem State.updInst_blocks (s : State) (k : Nat) (f : Inst → Inst) : (s.updInst k f).blocks = s.blocks := rfl
@[simp] theorem State.updInst_launches (s : State) (k : Nat) (f : Inst → Inst) : (s.updInst k f).launches = s.launches := rfl
@[simp] theorem State.updInst_cores (s : State) (k : Nat) (f : Inst → Inst) : (s.updInst k f).cores = s.cores := rfl
@[simp] theorem State.updInst_mem (s : State) (k : Nat) (f : Inst → Inst) : (s.updInst k f).mem = s.mem := rfl
@[simp] theorem State.updInst_array (s : State) (k : Nat) (f : Inst → Inst) : (s.updInst k f).array = s.array := rfl
@[simp] theorem State.updInst_hostMem (s : State) (k : Nat) (f : Inst → Inst) : (s.updInst k f).hostMem = s.hostMem := rfl
@[simp] theorem State.updInst_peerMem (s : State) (k : Nat) (f : Inst → Inst) : (s.updInst k f).peerMem = s.peerMem := rfl
@[simp] theorem State.updInst_registrant (s : State) (k : Nat) (f : Inst → Inst) : (s.updInst k f).registrant = s.registrant := rfl
@[simp] theorem State.updInst_claims (s : State) (k : Nat) (f : Inst → Inst) : (s.updInst k f).claims = s.claims := rfl
@[simp] theorem State.updInst_cells (s : State) (k : Nat) (f : Inst → Inst) : (s.updInst k f).cells = s.cells := rfl
@[simp] theorem State.updInst_regions (s : State) (k : Nat) (f : Inst → Inst) : (s.updInst k f).regions = s.regions := rfl
@[simp] theorem State.updInst_rdc (s : State) (k : Nat) (f : Inst → Inst) : (s.updInst k f).rdc = s.rdc := rfl
@[simp] theorem State.updInst_l2 (s : State) (k : Nat) (f : Inst → Inst) : (s.updInst k f).l2 = s.l2 := rfl
@[simp] theorem State.updInst_msc (s : State) (k : Nat) (f : Inst → Inst) : (s.updInst k f).msc = s.msc := rfl
@[simp] theorem State.updInst_stacks (s : State) (k : Nat) (f : Inst → Inst) : (s.updInst k f).hbms = s.hbms := rfl
@[simp] theorem State.updInst_bad (s : State) (k : Nat) (f : Inst → Inst) : (s.updInst k f).bad = s.bad := rfl
@[simp] theorem State.updInst_weak (s : State) (k : Nat) (f : Inst → Inst) : (s.updInst k f).weak = s.weak := rfl
@[simp] theorem State.updInst_lost (s : State) (k : Nat) (f : Inst → Inst) : (s.updInst k f).lost = s.lost := rfl
@[simp] theorem State.updInst_hostLines (s : State) (k : Nat) (f : Inst → Inst) : (s.updInst k f).hostLines = s.hostLines := rfl
@[simp] theorem State.updInst_tlb (s : State) (k : Nat) (f : Inst → Inst) : (s.updInst k f).tlb = s.tlb := rfl
@[simp] theorem State.updInst_accs (s : State) (k : Nat) (f : Inst → Inst) : (s.updInst k f).accs = s.accs := rfl
@[simp] theorem State.updInst_net (s : State) (k : Nat) (f : Inst → Inst) : (s.updInst k f).net = s.net := rfl
@[simp] theorem State.updInst_abufs (s : State) (k : Nat) (f : Inst → Inst) : (s.updInst k f).abufs = s.abufs := rfl
@[simp] theorem State.updInst_jobs (s : State) (k : Nat) (f : Inst → Inst) : (s.updInst k f).jobs = s.jobs := rfl
@[simp] theorem State.updInst_feet (s : State) (k : Nat) (f : Inst → Inst) : (s.updInst k f).feet = s.feet := rfl
@[simp] theorem State.updInst_shapes (s : State) (k : Nat) (f : Inst → Inst) : (s.updInst k f).shapes = s.shapes := rfl
@[simp] theorem State.updInst_eqs (s : State) (k : Nat) (f : Inst → Inst) : (s.updInst k f).eqs = s.eqs := rfl
@[simp] theorem State.updInst_links (s : State) (k : Nat) (f : Inst → Inst) : (s.updInst k f).links = s.links := rfl
@[simp] theorem State.updInst_hostAccs (s : State) (k : Nat) (f : Inst → Inst) : (s.updInst k f).hostAccs = s.hostAccs := rfl
@[simp] theorem State.updInst_mgmt (s : State) (k : Nat) (f : Inst → Inst) : (s.updInst k f).mgmt = s.mgmt := rfl
@[simp] theorem State.updInst_focus (s : State) (k : Nat) (f : Inst → Inst) : (s.updInst k f).focus = s.focus := rfl
@[simp] theorem State.updInst_agenda (s : State) (k : Nat) (f : Inst → Inst) : (s.updInst k f).agenda = s.agenda := rfl
@[simp] theorem State.updInst_seq (s : State) (k : Nat) (f : Inst → Inst) : (s.updInst k f).seq = s.seq := rfl

/-! ### updMgmt -/

@[simp] theorem State.updMgmt_waves (s : State) (f : Mgmt → Mgmt) : (s.updMgmt f).waves = s.waves := rfl
@[simp] theorem State.updMgmt_blocks (s : State) (f : Mgmt → Mgmt) : (s.updMgmt f).blocks = s.blocks := rfl
@[simp] theorem State.updMgmt_launches (s : State) (f : Mgmt → Mgmt) : (s.updMgmt f).launches = s.launches := rfl
@[simp] theorem State.updMgmt_cores (s : State) (f : Mgmt → Mgmt) : (s.updMgmt f).cores = s.cores := rfl
@[simp] theorem State.updMgmt_mem (s : State) (f : Mgmt → Mgmt) : (s.updMgmt f).mem = s.mem := rfl
@[simp] theorem State.updMgmt_array (s : State) (f : Mgmt → Mgmt) : (s.updMgmt f).array = s.array := rfl
@[simp] theorem State.updMgmt_hostMem (s : State) (f : Mgmt → Mgmt) : (s.updMgmt f).hostMem = s.hostMem := rfl
@[simp] theorem State.updMgmt_peerMem (s : State) (f : Mgmt → Mgmt) : (s.updMgmt f).peerMem = s.peerMem := rfl
@[simp] theorem State.updMgmt_registrant (s : State) (f : Mgmt → Mgmt) : (s.updMgmt f).registrant = s.registrant := rfl
@[simp] theorem State.updMgmt_claims (s : State) (f : Mgmt → Mgmt) : (s.updMgmt f).claims = s.claims := rfl
@[simp] theorem State.updMgmt_cells (s : State) (f : Mgmt → Mgmt) : (s.updMgmt f).cells = s.cells := rfl
@[simp] theorem State.updMgmt_regions (s : State) (f : Mgmt → Mgmt) : (s.updMgmt f).regions = s.regions := rfl
@[simp] theorem State.updMgmt_rdc (s : State) (f : Mgmt → Mgmt) : (s.updMgmt f).rdc = s.rdc := rfl
@[simp] theorem State.updMgmt_l2 (s : State) (f : Mgmt → Mgmt) : (s.updMgmt f).l2 = s.l2 := rfl
@[simp] theorem State.updMgmt_msc (s : State) (f : Mgmt → Mgmt) : (s.updMgmt f).msc = s.msc := rfl
@[simp] theorem State.updMgmt_stacks (s : State) (f : Mgmt → Mgmt) : (s.updMgmt f).hbms = s.hbms := rfl
@[simp] theorem State.updMgmt_bad (s : State) (f : Mgmt → Mgmt) : (s.updMgmt f).bad = s.bad := rfl
@[simp] theorem State.updMgmt_weak (s : State) (f : Mgmt → Mgmt) : (s.updMgmt f).weak = s.weak := rfl
@[simp] theorem State.updMgmt_lost (s : State) (f : Mgmt → Mgmt) : (s.updMgmt f).lost = s.lost := rfl
@[simp] theorem State.updMgmt_hostLines (s : State) (f : Mgmt → Mgmt) : (s.updMgmt f).hostLines = s.hostLines := rfl
@[simp] theorem State.updMgmt_tlb (s : State) (f : Mgmt → Mgmt) : (s.updMgmt f).tlb = s.tlb := rfl
@[simp] theorem State.updMgmt_accs (s : State) (f : Mgmt → Mgmt) : (s.updMgmt f).accs = s.accs := rfl
@[simp] theorem State.updMgmt_net (s : State) (f : Mgmt → Mgmt) : (s.updMgmt f).net = s.net := rfl
@[simp] theorem State.updMgmt_abufs (s : State) (f : Mgmt → Mgmt) : (s.updMgmt f).abufs = s.abufs := rfl
@[simp] theorem State.updMgmt_jobs (s : State) (f : Mgmt → Mgmt) : (s.updMgmt f).jobs = s.jobs := rfl
@[simp] theorem State.updMgmt_feet (s : State) (f : Mgmt → Mgmt) : (s.updMgmt f).feet = s.feet := rfl
@[simp] theorem State.updMgmt_shapes (s : State) (f : Mgmt → Mgmt) : (s.updMgmt f).shapes = s.shapes := rfl
@[simp] theorem State.updMgmt_eqs (s : State) (f : Mgmt → Mgmt) : (s.updMgmt f).eqs = s.eqs := rfl
@[simp] theorem State.updMgmt_insts (s : State) (f : Mgmt → Mgmt) : (s.updMgmt f).insts = s.insts := rfl
@[simp] theorem State.updMgmt_links (s : State) (f : Mgmt → Mgmt) : (s.updMgmt f).links = s.links := rfl
@[simp] theorem State.updMgmt_hostAccs (s : State) (f : Mgmt → Mgmt) : (s.updMgmt f).hostAccs = s.hostAccs := rfl
@[simp] theorem State.updMgmt_focus (s : State) (f : Mgmt → Mgmt) : (s.updMgmt f).focus = s.focus := rfl
@[simp] theorem State.updMgmt_agenda (s : State) (f : Mgmt → Mgmt) : (s.updMgmt f).agenda = s.agenda := rfl
@[simp] theorem State.updMgmt_seq (s : State) (f : Mgmt → Mgmt) : (s.updMgmt f).seq = s.seq := rfl

/-! ### tick -/

@[simp] theorem State.tick_waves (s : State)  : (s.tick).waves = s.waves := rfl
@[simp] theorem State.tick_blocks (s : State)  : (s.tick).blocks = s.blocks := rfl
@[simp] theorem State.tick_launches (s : State)  : (s.tick).launches = s.launches := rfl
@[simp] theorem State.tick_cores (s : State)  : (s.tick).cores = s.cores := rfl
@[simp] theorem State.tick_mem (s : State)  : (s.tick).mem = s.mem := rfl
@[simp] theorem State.tick_array (s : State)  : (s.tick).array = s.array := rfl
@[simp] theorem State.tick_hostMem (s : State)  : (s.tick).hostMem = s.hostMem := rfl
@[simp] theorem State.tick_peerMem (s : State)  : (s.tick).peerMem = s.peerMem := rfl
@[simp] theorem State.tick_registrant (s : State)  : (s.tick).registrant = s.registrant := rfl
@[simp] theorem State.tick_claims (s : State)  : (s.tick).claims = s.claims := rfl
@[simp] theorem State.tick_cells (s : State)  : (s.tick).cells = s.cells := rfl
@[simp] theorem State.tick_regions (s : State)  : (s.tick).regions = s.regions := rfl
@[simp] theorem State.tick_rdc (s : State)  : (s.tick).rdc = s.rdc := rfl
@[simp] theorem State.tick_l2 (s : State)  : (s.tick).l2 = s.l2 := rfl
@[simp] theorem State.tick_msc (s : State)  : (s.tick).msc = s.msc := rfl
@[simp] theorem State.tick_stacks (s : State)  : (s.tick).hbms = s.hbms := rfl
@[simp] theorem State.tick_bad (s : State)  : (s.tick).bad = s.bad := rfl
@[simp] theorem State.tick_weak (s : State)  : (s.tick).weak = s.weak := rfl
@[simp] theorem State.tick_lost (s : State)  : (s.tick).lost = s.lost := rfl
@[simp] theorem State.tick_hostLines (s : State)  : (s.tick).hostLines = s.hostLines := rfl
@[simp] theorem State.tick_tlb (s : State)  : (s.tick).tlb = s.tlb := rfl
@[simp] theorem State.tick_accs (s : State)  : (s.tick).accs = s.accs := rfl
@[simp] theorem State.tick_net (s : State)  : (s.tick).net = s.net := rfl
@[simp] theorem State.tick_abufs (s : State)  : (s.tick).abufs = s.abufs := rfl
@[simp] theorem State.tick_jobs (s : State)  : (s.tick).jobs = s.jobs := rfl
@[simp] theorem State.tick_feet (s : State)  : (s.tick).feet = s.feet := rfl
@[simp] theorem State.tick_shapes (s : State)  : (s.tick).shapes = s.shapes := rfl
@[simp] theorem State.tick_eqs (s : State)  : (s.tick).eqs = s.eqs := rfl
@[simp] theorem State.tick_insts (s : State)  : (s.tick).insts = s.insts := rfl
@[simp] theorem State.tick_links (s : State)  : (s.tick).links = s.links := rfl
@[simp] theorem State.tick_hostAccs (s : State)  : (s.tick).hostAccs = s.hostAccs := rfl
@[simp] theorem State.tick_mgmt (s : State)  : (s.tick).mgmt = s.mgmt := rfl
@[simp] theorem State.tick_focus (s : State)  : (s.tick).focus = s.focus := rfl
@[simp] theorem State.tick_agenda (s : State)  : (s.tick).agenda = s.agenda := rfl

/-! ### Records that an update leaves -/

@[simp] theorem State.setWave_block (s : State) (w : Nat) (x : Wave) (i : Nat) : (s.setWave w x).block i = s.block i := by simp [State.block]
@[simp] theorem State.setWave_launch (s : State) (w : Nat) (x : Wave) (i : Nat) : (s.setWave w x).launch i = s.launch i := by simp [State.launch]
@[simp] theorem State.setWave_core (s : State) (w : Nat) (x : Wave) (i : Nat) : (s.setWave w x).core i = s.core i := by simp [State.core]
@[simp] theorem State.setWave_acc (s : State) (w : Nat) (x : Wave) (i : Nat) : (s.setWave w x).acc i = s.acc i := by simp [State.acc]
@[simp] theorem State.setWave_job (s : State) (w : Nat) (x : Wave) (i : Nat) : (s.setWave w x).job i = s.job i := by simp [State.job]
@[simp] theorem State.setWave_stack (s : State) (w : Nat) (x : Wave) (i : Nat) : (s.setWave w x).stack i = s.stack i := by simp [State.stack]
@[simp] theorem State.setWave_link (s : State) (w : Nat) (x : Wave) (i : Nat) : (s.setWave w x).link i = s.link i := by simp [State.link]
@[simp] theorem State.setWave_eq (s : State) (w : Nat) (x : Wave) (i : Nat) : (s.setWave w x).eq i = s.eq i := by simp [State.eq]
@[simp] theorem State.setWave_inst (s : State) (w : Nat) (x : Wave) (i : Nat) : (s.setWave w x).inst i = s.inst i := by simp [State.inst]
@[simp] theorem State.setWave_ctx (s : State) (w : Nat) (x : Wave) (i : Nat) : (s.setWave w x).ctx i = s.ctx i := by simp [State.ctx]
@[simp] theorem State.updWave_block (s : State) (w : Nat) (f : Wave → Wave) (i : Nat) : (s.updWave w f).block i = s.block i := by simp [State.block]
@[simp] theorem State.updWave_launch (s : State) (w : Nat) (f : Wave → Wave) (i : Nat) : (s.updWave w f).launch i = s.launch i := by simp [State.launch]
@[simp] theorem State.updWave_core (s : State) (w : Nat) (f : Wave → Wave) (i : Nat) : (s.updWave w f).core i = s.core i := by simp [State.core]
@[simp] theorem State.updWave_acc (s : State) (w : Nat) (f : Wave → Wave) (i : Nat) : (s.updWave w f).acc i = s.acc i := by simp [State.acc]
@[simp] theorem State.updWave_job (s : State) (w : Nat) (f : Wave → Wave) (i : Nat) : (s.updWave w f).job i = s.job i := by simp [State.job]
@[simp] theorem State.updWave_stack (s : State) (w : Nat) (f : Wave → Wave) (i : Nat) : (s.updWave w f).stack i = s.stack i := by simp [State.stack]
@[simp] theorem State.updWave_link (s : State) (w : Nat) (f : Wave → Wave) (i : Nat) : (s.updWave w f).link i = s.link i := by simp [State.link]
@[simp] theorem State.updWave_eq (s : State) (w : Nat) (f : Wave → Wave) (i : Nat) : (s.updWave w f).eq i = s.eq i := by simp [State.eq]
@[simp] theorem State.updWave_inst (s : State) (w : Nat) (f : Wave → Wave) (i : Nat) : (s.updWave w f).inst i = s.inst i := by simp [State.inst]
@[simp] theorem State.updWave_ctx (s : State) (w : Nat) (f : Wave → Wave) (i : Nat) : (s.updWave w f).ctx i = s.ctx i := by simp [State.ctx]
@[simp] theorem State.setBlock_wave (s : State) (b : Nat) (x : Block) (i : Nat) : (s.setBlock b x).wave i = s.wave i := by simp [State.wave]
@[simp] theorem State.setBlock_launch (s : State) (b : Nat) (x : Block) (i : Nat) : (s.setBlock b x).launch i = s.launch i := by simp [State.launch]
@[simp] theorem State.setBlock_core (s : State) (b : Nat) (x : Block) (i : Nat) : (s.setBlock b x).core i = s.core i := by simp [State.core]
@[simp] theorem State.setBlock_acc (s : State) (b : Nat) (x : Block) (i : Nat) : (s.setBlock b x).acc i = s.acc i := by simp [State.acc]
@[simp] theorem State.setBlock_job (s : State) (b : Nat) (x : Block) (i : Nat) : (s.setBlock b x).job i = s.job i := by simp [State.job]
@[simp] theorem State.setBlock_stack (s : State) (b : Nat) (x : Block) (i : Nat) : (s.setBlock b x).stack i = s.stack i := by simp [State.stack]
@[simp] theorem State.setBlock_link (s : State) (b : Nat) (x : Block) (i : Nat) : (s.setBlock b x).link i = s.link i := by simp [State.link]
@[simp] theorem State.setBlock_eq (s : State) (b : Nat) (x : Block) (i : Nat) : (s.setBlock b x).eq i = s.eq i := by simp [State.eq]
@[simp] theorem State.setBlock_inst (s : State) (b : Nat) (x : Block) (i : Nat) : (s.setBlock b x).inst i = s.inst i := by simp [State.inst]
@[simp] theorem State.setBlock_ctx (s : State) (b : Nat) (x : Block) (i : Nat) : (s.setBlock b x).ctx i = s.ctx i := by simp [State.ctx]
@[simp] theorem State.updBlock_wave (s : State) (b : Nat) (f : Block → Block) (i : Nat) : (s.updBlock b f).wave i = s.wave i := by simp [State.wave]
@[simp] theorem State.updBlock_launch (s : State) (b : Nat) (f : Block → Block) (i : Nat) : (s.updBlock b f).launch i = s.launch i := by simp [State.launch]
@[simp] theorem State.updBlock_core (s : State) (b : Nat) (f : Block → Block) (i : Nat) : (s.updBlock b f).core i = s.core i := by simp [State.core]
@[simp] theorem State.updBlock_acc (s : State) (b : Nat) (f : Block → Block) (i : Nat) : (s.updBlock b f).acc i = s.acc i := by simp [State.acc]
@[simp] theorem State.updBlock_job (s : State) (b : Nat) (f : Block → Block) (i : Nat) : (s.updBlock b f).job i = s.job i := by simp [State.job]
@[simp] theorem State.updBlock_stack (s : State) (b : Nat) (f : Block → Block) (i : Nat) : (s.updBlock b f).stack i = s.stack i := by simp [State.stack]
@[simp] theorem State.updBlock_link (s : State) (b : Nat) (f : Block → Block) (i : Nat) : (s.updBlock b f).link i = s.link i := by simp [State.link]
@[simp] theorem State.updBlock_eq (s : State) (b : Nat) (f : Block → Block) (i : Nat) : (s.updBlock b f).eq i = s.eq i := by simp [State.eq]
@[simp] theorem State.updBlock_inst (s : State) (b : Nat) (f : Block → Block) (i : Nat) : (s.updBlock b f).inst i = s.inst i := by simp [State.inst]
@[simp] theorem State.updBlock_ctx (s : State) (b : Nat) (f : Block → Block) (i : Nat) : (s.updBlock b f).ctx i = s.ctx i := by simp [State.ctx]
@[simp] theorem State.setLaunch_wave (s : State) (l : Nat) (x : Launch) (i : Nat) : (s.setLaunch l x).wave i = s.wave i := by simp [State.wave]
@[simp] theorem State.setLaunch_block (s : State) (l : Nat) (x : Launch) (i : Nat) : (s.setLaunch l x).block i = s.block i := by simp [State.block]
@[simp] theorem State.setLaunch_core (s : State) (l : Nat) (x : Launch) (i : Nat) : (s.setLaunch l x).core i = s.core i := by simp [State.core]
@[simp] theorem State.setLaunch_acc (s : State) (l : Nat) (x : Launch) (i : Nat) : (s.setLaunch l x).acc i = s.acc i := by simp [State.acc]
@[simp] theorem State.setLaunch_job (s : State) (l : Nat) (x : Launch) (i : Nat) : (s.setLaunch l x).job i = s.job i := by simp [State.job]
@[simp] theorem State.setLaunch_stack (s : State) (l : Nat) (x : Launch) (i : Nat) : (s.setLaunch l x).stack i = s.stack i := by simp [State.stack]
@[simp] theorem State.setLaunch_link (s : State) (l : Nat) (x : Launch) (i : Nat) : (s.setLaunch l x).link i = s.link i := by simp [State.link]
@[simp] theorem State.setLaunch_eq (s : State) (l : Nat) (x : Launch) (i : Nat) : (s.setLaunch l x).eq i = s.eq i := by simp [State.eq]
@[simp] theorem State.setLaunch_inst (s : State) (l : Nat) (x : Launch) (i : Nat) : (s.setLaunch l x).inst i = s.inst i := by simp [State.inst]
@[simp] theorem State.setLaunch_ctx (s : State) (l : Nat) (x : Launch) (i : Nat) : (s.setLaunch l x).ctx i = s.ctx i := by simp [State.ctx]
@[simp] theorem State.updLaunch_wave (s : State) (l : Nat) (f : Launch → Launch) (i : Nat) : (s.updLaunch l f).wave i = s.wave i := by simp [State.wave]
@[simp] theorem State.updLaunch_block (s : State) (l : Nat) (f : Launch → Launch) (i : Nat) : (s.updLaunch l f).block i = s.block i := by simp [State.block]
@[simp] theorem State.updLaunch_core (s : State) (l : Nat) (f : Launch → Launch) (i : Nat) : (s.updLaunch l f).core i = s.core i := by simp [State.core]
@[simp] theorem State.updLaunch_acc (s : State) (l : Nat) (f : Launch → Launch) (i : Nat) : (s.updLaunch l f).acc i = s.acc i := by simp [State.acc]
@[simp] theorem State.updLaunch_job (s : State) (l : Nat) (f : Launch → Launch) (i : Nat) : (s.updLaunch l f).job i = s.job i := by simp [State.job]
@[simp] theorem State.updLaunch_stack (s : State) (l : Nat) (f : Launch → Launch) (i : Nat) : (s.updLaunch l f).stack i = s.stack i := by simp [State.stack]
@[simp] theorem State.updLaunch_link (s : State) (l : Nat) (f : Launch → Launch) (i : Nat) : (s.updLaunch l f).link i = s.link i := by simp [State.link]
@[simp] theorem State.updLaunch_eq (s : State) (l : Nat) (f : Launch → Launch) (i : Nat) : (s.updLaunch l f).eq i = s.eq i := by simp [State.eq]
@[simp] theorem State.updLaunch_inst (s : State) (l : Nat) (f : Launch → Launch) (i : Nat) : (s.updLaunch l f).inst i = s.inst i := by simp [State.inst]
@[simp] theorem State.updLaunch_ctx (s : State) (l : Nat) (f : Launch → Launch) (i : Nat) : (s.updLaunch l f).ctx i = s.ctx i := by simp [State.ctx]
@[simp] theorem State.setCore_wave (s : State) (p : Nat) (x : Core) (i : Nat) : (s.setCore p x).wave i = s.wave i := by simp [State.wave]
@[simp] theorem State.setCore_block (s : State) (p : Nat) (x : Core) (i : Nat) : (s.setCore p x).block i = s.block i := by simp [State.block]
@[simp] theorem State.setCore_launch (s : State) (p : Nat) (x : Core) (i : Nat) : (s.setCore p x).launch i = s.launch i := by simp [State.launch]
@[simp] theorem State.setCore_acc (s : State) (p : Nat) (x : Core) (i : Nat) : (s.setCore p x).acc i = s.acc i := by simp [State.acc]
@[simp] theorem State.setCore_job (s : State) (p : Nat) (x : Core) (i : Nat) : (s.setCore p x).job i = s.job i := by simp [State.job]
@[simp] theorem State.setCore_stack (s : State) (p : Nat) (x : Core) (i : Nat) : (s.setCore p x).stack i = s.stack i := by simp [State.stack]
@[simp] theorem State.setCore_link (s : State) (p : Nat) (x : Core) (i : Nat) : (s.setCore p x).link i = s.link i := by simp [State.link]
@[simp] theorem State.setCore_eq (s : State) (p : Nat) (x : Core) (i : Nat) : (s.setCore p x).eq i = s.eq i := by simp [State.eq]
@[simp] theorem State.setCore_inst (s : State) (p : Nat) (x : Core) (i : Nat) : (s.setCore p x).inst i = s.inst i := by simp [State.inst]
@[simp] theorem State.setCore_ctx (s : State) (p : Nat) (x : Core) (i : Nat) : (s.setCore p x).ctx i = s.ctx i := by simp [State.ctx]
@[simp] theorem State.updCore_wave (s : State) (p : Nat) (f : Core → Core) (i : Nat) : (s.updCore p f).wave i = s.wave i := by simp [State.wave]
@[simp] theorem State.updCore_block (s : State) (p : Nat) (f : Core → Core) (i : Nat) : (s.updCore p f).block i = s.block i := by simp [State.block]
@[simp] theorem State.updCore_launch (s : State) (p : Nat) (f : Core → Core) (i : Nat) : (s.updCore p f).launch i = s.launch i := by simp [State.launch]
@[simp] theorem State.updCore_acc (s : State) (p : Nat) (f : Core → Core) (i : Nat) : (s.updCore p f).acc i = s.acc i := by simp [State.acc]
@[simp] theorem State.updCore_job (s : State) (p : Nat) (f : Core → Core) (i : Nat) : (s.updCore p f).job i = s.job i := by simp [State.job]
@[simp] theorem State.updCore_stack (s : State) (p : Nat) (f : Core → Core) (i : Nat) : (s.updCore p f).stack i = s.stack i := by simp [State.stack]
@[simp] theorem State.updCore_link (s : State) (p : Nat) (f : Core → Core) (i : Nat) : (s.updCore p f).link i = s.link i := by simp [State.link]
@[simp] theorem State.updCore_eq (s : State) (p : Nat) (f : Core → Core) (i : Nat) : (s.updCore p f).eq i = s.eq i := by simp [State.eq]
@[simp] theorem State.updCore_inst (s : State) (p : Nat) (f : Core → Core) (i : Nat) : (s.updCore p f).inst i = s.inst i := by simp [State.inst]
@[simp] theorem State.updCore_ctx (s : State) (p : Nat) (f : Core → Core) (i : Nat) : (s.updCore p f).ctx i = s.ctx i := by simp [State.ctx]
@[simp] theorem State.setAcc_wave (s : State) (a : Nat) (x : Acc) (i : Nat) : (s.setAcc a x).wave i = s.wave i := by simp [State.wave]
@[simp] theorem State.setAcc_block (s : State) (a : Nat) (x : Acc) (i : Nat) : (s.setAcc a x).block i = s.block i := by simp [State.block]
@[simp] theorem State.setAcc_launch (s : State) (a : Nat) (x : Acc) (i : Nat) : (s.setAcc a x).launch i = s.launch i := by simp [State.launch]
@[simp] theorem State.setAcc_core (s : State) (a : Nat) (x : Acc) (i : Nat) : (s.setAcc a x).core i = s.core i := by simp [State.core]
@[simp] theorem State.setAcc_job (s : State) (a : Nat) (x : Acc) (i : Nat) : (s.setAcc a x).job i = s.job i := by simp [State.job]
@[simp] theorem State.setAcc_stack (s : State) (a : Nat) (x : Acc) (i : Nat) : (s.setAcc a x).stack i = s.stack i := by simp [State.stack]
@[simp] theorem State.setAcc_link (s : State) (a : Nat) (x : Acc) (i : Nat) : (s.setAcc a x).link i = s.link i := by simp [State.link]
@[simp] theorem State.setAcc_eq (s : State) (a : Nat) (x : Acc) (i : Nat) : (s.setAcc a x).eq i = s.eq i := by simp [State.eq]
@[simp] theorem State.setAcc_inst (s : State) (a : Nat) (x : Acc) (i : Nat) : (s.setAcc a x).inst i = s.inst i := by simp [State.inst]
@[simp] theorem State.setAcc_ctx (s : State) (a : Nat) (x : Acc) (i : Nat) : (s.setAcc a x).ctx i = s.ctx i := by simp [State.ctx]
@[simp] theorem State.updAcc_wave (s : State) (a : Nat) (f : Acc → Acc) (i : Nat) : (s.updAcc a f).wave i = s.wave i := by simp [State.wave]
@[simp] theorem State.updAcc_block (s : State) (a : Nat) (f : Acc → Acc) (i : Nat) : (s.updAcc a f).block i = s.block i := by simp [State.block]
@[simp] theorem State.updAcc_launch (s : State) (a : Nat) (f : Acc → Acc) (i : Nat) : (s.updAcc a f).launch i = s.launch i := by simp [State.launch]
@[simp] theorem State.updAcc_core (s : State) (a : Nat) (f : Acc → Acc) (i : Nat) : (s.updAcc a f).core i = s.core i := by simp [State.core]
@[simp] theorem State.updAcc_job (s : State) (a : Nat) (f : Acc → Acc) (i : Nat) : (s.updAcc a f).job i = s.job i := by simp [State.job]
@[simp] theorem State.updAcc_stack (s : State) (a : Nat) (f : Acc → Acc) (i : Nat) : (s.updAcc a f).stack i = s.stack i := by simp [State.stack]
@[simp] theorem State.updAcc_link (s : State) (a : Nat) (f : Acc → Acc) (i : Nat) : (s.updAcc a f).link i = s.link i := by simp [State.link]
@[simp] theorem State.updAcc_eq (s : State) (a : Nat) (f : Acc → Acc) (i : Nat) : (s.updAcc a f).eq i = s.eq i := by simp [State.eq]
@[simp] theorem State.updAcc_inst (s : State) (a : Nat) (f : Acc → Acc) (i : Nat) : (s.updAcc a f).inst i = s.inst i := by simp [State.inst]
@[simp] theorem State.updAcc_ctx (s : State) (a : Nat) (f : Acc → Acc) (i : Nat) : (s.updAcc a f).ctx i = s.ctx i := by simp [State.ctx]
@[simp] theorem State.delAcc_wave (s : State) (a : Nat) (i : Nat) : (s.delAcc a).wave i = s.wave i := by simp [State.wave]
@[simp] theorem State.delAcc_block (s : State) (a : Nat) (i : Nat) : (s.delAcc a).block i = s.block i := by simp [State.block]
@[simp] theorem State.delAcc_launch (s : State) (a : Nat) (i : Nat) : (s.delAcc a).launch i = s.launch i := by simp [State.launch]
@[simp] theorem State.delAcc_core (s : State) (a : Nat) (i : Nat) : (s.delAcc a).core i = s.core i := by simp [State.core]
@[simp] theorem State.delAcc_job (s : State) (a : Nat) (i : Nat) : (s.delAcc a).job i = s.job i := by simp [State.job]
@[simp] theorem State.delAcc_stack (s : State) (a : Nat) (i : Nat) : (s.delAcc a).stack i = s.stack i := by simp [State.stack]
@[simp] theorem State.delAcc_link (s : State) (a : Nat) (i : Nat) : (s.delAcc a).link i = s.link i := by simp [State.link]
@[simp] theorem State.delAcc_eq (s : State) (a : Nat) (i : Nat) : (s.delAcc a).eq i = s.eq i := by simp [State.eq]
@[simp] theorem State.delAcc_inst (s : State) (a : Nat) (i : Nat) : (s.delAcc a).inst i = s.inst i := by simp [State.inst]
@[simp] theorem State.delAcc_ctx (s : State) (a : Nat) (i : Nat) : (s.delAcc a).ctx i = s.ctx i := by simp [State.ctx]
@[simp] theorem State.setJob_wave (s : State) (j : Nat) (x : Job) (i : Nat) : (s.setJob j x).wave i = s.wave i := by simp [State.wave]
@[simp] theorem State.setJob_block (s : State) (j : Nat) (x : Job) (i : Nat) : (s.setJob j x).block i = s.block i := by simp [State.block]
@[simp] theorem State.setJob_launch (s : State) (j : Nat) (x : Job) (i : Nat) : (s.setJob j x).launch i = s.launch i := by simp [State.launch]
@[simp] theorem State.setJob_core (s : State) (j : Nat) (x : Job) (i : Nat) : (s.setJob j x).core i = s.core i := by simp [State.core]
@[simp] theorem State.setJob_acc (s : State) (j : Nat) (x : Job) (i : Nat) : (s.setJob j x).acc i = s.acc i := by simp [State.acc]
@[simp] theorem State.setJob_stack (s : State) (j : Nat) (x : Job) (i : Nat) : (s.setJob j x).stack i = s.stack i := by simp [State.stack]
@[simp] theorem State.setJob_link (s : State) (j : Nat) (x : Job) (i : Nat) : (s.setJob j x).link i = s.link i := by simp [State.link]
@[simp] theorem State.setJob_eq (s : State) (j : Nat) (x : Job) (i : Nat) : (s.setJob j x).eq i = s.eq i := by simp [State.eq]
@[simp] theorem State.setJob_inst (s : State) (j : Nat) (x : Job) (i : Nat) : (s.setJob j x).inst i = s.inst i := by simp [State.inst]
@[simp] theorem State.setJob_ctx (s : State) (j : Nat) (x : Job) (i : Nat) : (s.setJob j x).ctx i = s.ctx i := by simp [State.ctx]
@[simp] theorem State.updJob_wave (s : State) (j : Nat) (f : Job → Job) (i : Nat) : (s.updJob j f).wave i = s.wave i := by simp [State.wave]
@[simp] theorem State.updJob_block (s : State) (j : Nat) (f : Job → Job) (i : Nat) : (s.updJob j f).block i = s.block i := by simp [State.block]
@[simp] theorem State.updJob_launch (s : State) (j : Nat) (f : Job → Job) (i : Nat) : (s.updJob j f).launch i = s.launch i := by simp [State.launch]
@[simp] theorem State.updJob_core (s : State) (j : Nat) (f : Job → Job) (i : Nat) : (s.updJob j f).core i = s.core i := by simp [State.core]
@[simp] theorem State.updJob_acc (s : State) (j : Nat) (f : Job → Job) (i : Nat) : (s.updJob j f).acc i = s.acc i := by simp [State.acc]
@[simp] theorem State.updJob_stack (s : State) (j : Nat) (f : Job → Job) (i : Nat) : (s.updJob j f).stack i = s.stack i := by simp [State.stack]
@[simp] theorem State.updJob_link (s : State) (j : Nat) (f : Job → Job) (i : Nat) : (s.updJob j f).link i = s.link i := by simp [State.link]
@[simp] theorem State.updJob_eq (s : State) (j : Nat) (f : Job → Job) (i : Nat) : (s.updJob j f).eq i = s.eq i := by simp [State.eq]
@[simp] theorem State.updJob_inst (s : State) (j : Nat) (f : Job → Job) (i : Nat) : (s.updJob j f).inst i = s.inst i := by simp [State.inst]
@[simp] theorem State.updJob_ctx (s : State) (j : Nat) (f : Job → Job) (i : Nat) : (s.updJob j f).ctx i = s.ctx i := by simp [State.ctx]
@[simp] theorem State.updStack_wave (s : State) (k : Nat) (f : Stack → Stack) (i : Nat) : (s.updStack k f).wave i = s.wave i := by simp [State.wave]
@[simp] theorem State.updStack_block (s : State) (k : Nat) (f : Stack → Stack) (i : Nat) : (s.updStack k f).block i = s.block i := by simp [State.block]
@[simp] theorem State.updStack_launch (s : State) (k : Nat) (f : Stack → Stack) (i : Nat) : (s.updStack k f).launch i = s.launch i := by simp [State.launch]
@[simp] theorem State.updStack_core (s : State) (k : Nat) (f : Stack → Stack) (i : Nat) : (s.updStack k f).core i = s.core i := by simp [State.core]
@[simp] theorem State.updStack_acc (s : State) (k : Nat) (f : Stack → Stack) (i : Nat) : (s.updStack k f).acc i = s.acc i := by simp [State.acc]
@[simp] theorem State.updStack_job (s : State) (k : Nat) (f : Stack → Stack) (i : Nat) : (s.updStack k f).job i = s.job i := by simp [State.job]
@[simp] theorem State.updStack_link (s : State) (k : Nat) (f : Stack → Stack) (i : Nat) : (s.updStack k f).link i = s.link i := by simp [State.link]
@[simp] theorem State.updStack_eq (s : State) (k : Nat) (f : Stack → Stack) (i : Nat) : (s.updStack k f).eq i = s.eq i := by simp [State.eq]
@[simp] theorem State.updStack_inst (s : State) (k : Nat) (f : Stack → Stack) (i : Nat) : (s.updStack k f).inst i = s.inst i := by simp [State.inst]
@[simp] theorem State.updStack_ctx (s : State) (k : Nat) (f : Stack → Stack) (i : Nat) : (s.updStack k f).ctx i = s.ctx i := by simp [State.ctx]
@[simp] theorem State.updLink_wave (s : State) (k : Nat) (f : Link → Link) (i : Nat) : (s.updLink k f).wave i = s.wave i := by simp [State.wave]
@[simp] theorem State.updLink_block (s : State) (k : Nat) (f : Link → Link) (i : Nat) : (s.updLink k f).block i = s.block i := by simp [State.block]
@[simp] theorem State.updLink_launch (s : State) (k : Nat) (f : Link → Link) (i : Nat) : (s.updLink k f).launch i = s.launch i := by simp [State.launch]
@[simp] theorem State.updLink_core (s : State) (k : Nat) (f : Link → Link) (i : Nat) : (s.updLink k f).core i = s.core i := by simp [State.core]
@[simp] theorem State.updLink_acc (s : State) (k : Nat) (f : Link → Link) (i : Nat) : (s.updLink k f).acc i = s.acc i := by simp [State.acc]
@[simp] theorem State.updLink_job (s : State) (k : Nat) (f : Link → Link) (i : Nat) : (s.updLink k f).job i = s.job i := by simp [State.job]
@[simp] theorem State.updLink_stack (s : State) (k : Nat) (f : Link → Link) (i : Nat) : (s.updLink k f).stack i = s.stack i := by simp [State.stack]
@[simp] theorem State.updLink_eq (s : State) (k : Nat) (f : Link → Link) (i : Nat) : (s.updLink k f).eq i = s.eq i := by simp [State.eq]
@[simp] theorem State.updLink_inst (s : State) (k : Nat) (f : Link → Link) (i : Nat) : (s.updLink k f).inst i = s.inst i := by simp [State.inst]
@[simp] theorem State.updLink_ctx (s : State) (k : Nat) (f : Link → Link) (i : Nat) : (s.updLink k f).ctx i = s.ctx i := by simp [State.ctx]
@[simp] theorem State.updEq_wave (s : State) (k : Nat) (f : EQueue → EQueue) (i : Nat) : (s.updEq k f).wave i = s.wave i := by simp [State.wave]
@[simp] theorem State.updEq_block (s : State) (k : Nat) (f : EQueue → EQueue) (i : Nat) : (s.updEq k f).block i = s.block i := by simp [State.block]
@[simp] theorem State.updEq_launch (s : State) (k : Nat) (f : EQueue → EQueue) (i : Nat) : (s.updEq k f).launch i = s.launch i := by simp [State.launch]
@[simp] theorem State.updEq_core (s : State) (k : Nat) (f : EQueue → EQueue) (i : Nat) : (s.updEq k f).core i = s.core i := by simp [State.core]
@[simp] theorem State.updEq_acc (s : State) (k : Nat) (f : EQueue → EQueue) (i : Nat) : (s.updEq k f).acc i = s.acc i := by simp [State.acc]
@[simp] theorem State.updEq_job (s : State) (k : Nat) (f : EQueue → EQueue) (i : Nat) : (s.updEq k f).job i = s.job i := by simp [State.job]
@[simp] theorem State.updEq_stack (s : State) (k : Nat) (f : EQueue → EQueue) (i : Nat) : (s.updEq k f).stack i = s.stack i := by simp [State.stack]
@[simp] theorem State.updEq_link (s : State) (k : Nat) (f : EQueue → EQueue) (i : Nat) : (s.updEq k f).link i = s.link i := by simp [State.link]
@[simp] theorem State.updEq_inst (s : State) (k : Nat) (f : EQueue → EQueue) (i : Nat) : (s.updEq k f).inst i = s.inst i := by simp [State.inst]
@[simp] theorem State.updEq_ctx (s : State) (k : Nat) (f : EQueue → EQueue) (i : Nat) : (s.updEq k f).ctx i = s.ctx i := by simp [State.ctx]
@[simp] theorem State.updInst_wave (s : State) (k : Nat) (f : Inst → Inst) (i : Nat) : (s.updInst k f).wave i = s.wave i := by simp [State.wave]
@[simp] theorem State.updInst_block (s : State) (k : Nat) (f : Inst → Inst) (i : Nat) : (s.updInst k f).block i = s.block i := by simp [State.block]
@[simp] theorem State.updInst_launch (s : State) (k : Nat) (f : Inst → Inst) (i : Nat) : (s.updInst k f).launch i = s.launch i := by simp [State.launch]
@[simp] theorem State.updInst_core (s : State) (k : Nat) (f : Inst → Inst) (i : Nat) : (s.updInst k f).core i = s.core i := by simp [State.core]
@[simp] theorem State.updInst_acc (s : State) (k : Nat) (f : Inst → Inst) (i : Nat) : (s.updInst k f).acc i = s.acc i := by simp [State.acc]
@[simp] theorem State.updInst_job (s : State) (k : Nat) (f : Inst → Inst) (i : Nat) : (s.updInst k f).job i = s.job i := by simp [State.job]
@[simp] theorem State.updInst_stack (s : State) (k : Nat) (f : Inst → Inst) (i : Nat) : (s.updInst k f).stack i = s.stack i := by simp [State.stack]
@[simp] theorem State.updInst_link (s : State) (k : Nat) (f : Inst → Inst) (i : Nat) : (s.updInst k f).link i = s.link i := by simp [State.link]
@[simp] theorem State.updInst_eq (s : State) (k : Nat) (f : Inst → Inst) (i : Nat) : (s.updInst k f).eq i = s.eq i := by simp [State.eq]
@[simp] theorem State.updInst_ctx (s : State) (k : Nat) (f : Inst → Inst) (i : Nat) : (s.updInst k f).ctx i = s.ctx i := by simp [State.ctx]
@[simp] theorem State.updMgmt_wave (s : State) (f : Mgmt → Mgmt) (i : Nat) : (s.updMgmt f).wave i = s.wave i := by simp [State.wave]
@[simp] theorem State.updMgmt_block (s : State) (f : Mgmt → Mgmt) (i : Nat) : (s.updMgmt f).block i = s.block i := by simp [State.block]
@[simp] theorem State.updMgmt_launch (s : State) (f : Mgmt → Mgmt) (i : Nat) : (s.updMgmt f).launch i = s.launch i := by simp [State.launch]
@[simp] theorem State.updMgmt_core (s : State) (f : Mgmt → Mgmt) (i : Nat) : (s.updMgmt f).core i = s.core i := by simp [State.core]
@[simp] theorem State.updMgmt_acc (s : State) (f : Mgmt → Mgmt) (i : Nat) : (s.updMgmt f).acc i = s.acc i := by simp [State.acc]
@[simp] theorem State.updMgmt_job (s : State) (f : Mgmt → Mgmt) (i : Nat) : (s.updMgmt f).job i = s.job i := by simp [State.job]
@[simp] theorem State.updMgmt_stack (s : State) (f : Mgmt → Mgmt) (i : Nat) : (s.updMgmt f).stack i = s.stack i := by simp [State.stack]
@[simp] theorem State.updMgmt_link (s : State) (f : Mgmt → Mgmt) (i : Nat) : (s.updMgmt f).link i = s.link i := by simp [State.link]
@[simp] theorem State.updMgmt_eq (s : State) (f : Mgmt → Mgmt) (i : Nat) : (s.updMgmt f).eq i = s.eq i := by simp [State.eq]
@[simp] theorem State.updMgmt_inst (s : State) (f : Mgmt → Mgmt) (i : Nat) : (s.updMgmt f).inst i = s.inst i := by simp [State.inst]
@[simp] theorem State.tick_wave (s : State)  (i : Nat) : (s.tick).wave i = s.wave i := by simp [State.wave]
@[simp] theorem State.tick_block (s : State)  (i : Nat) : (s.tick).block i = s.block i := by simp [State.block]
@[simp] theorem State.tick_launch (s : State)  (i : Nat) : (s.tick).launch i = s.launch i := by simp [State.launch]
@[simp] theorem State.tick_core (s : State)  (i : Nat) : (s.tick).core i = s.core i := by simp [State.core]
@[simp] theorem State.tick_acc (s : State)  (i : Nat) : (s.tick).acc i = s.acc i := by simp [State.acc]
@[simp] theorem State.tick_job (s : State)  (i : Nat) : (s.tick).job i = s.job i := by simp [State.job]
@[simp] theorem State.tick_stack (s : State)  (i : Nat) : (s.tick).stack i = s.stack i := by simp [State.stack]
@[simp] theorem State.tick_link (s : State)  (i : Nat) : (s.tick).link i = s.link i := by simp [State.link]
@[simp] theorem State.tick_eq (s : State)  (i : Nat) : (s.tick).eq i = s.eq i := by simp [State.eq]
@[simp] theorem State.tick_inst (s : State)  (i : Nat) : (s.tick).inst i = s.inst i := by simp [State.inst]
@[simp] theorem State.tick_ctx (s : State)  (i : Nat) : (s.tick).ctx i = s.ctx i := by simp [State.ctx]

/-! ### Records after an update -/

@[simp] theorem State.updWave_same (s : State) (k : Nat) (f : Wave → Wave) : (s.updWave k f).wave k = f (s.wave k) := Tab.get_set_same _ _ _ _
theorem State.updWave_other (s : State) (k j : Nat) (f : Wave → Wave) (h : k ≠ j) : (s.updWave k f).wave j = s.wave j := Tab.get_set_other _ _ _ _ _ h
theorem State.updWave_at (s : State) (k j : Nat) (f : Wave → Wave) : (s.updWave k f).wave j = if k = j then f (s.wave j) else s.wave j := by
  by_cases h : k = j
  · subst h; simp
  · simp [h, State.updWave_other s k j f h]
@[simp] theorem State.updBlock_same (s : State) (k : Nat) (f : Block → Block) : (s.updBlock k f).block k = f (s.block k) := Tab.get_set_same _ _ _ _
theorem State.updBlock_other (s : State) (k j : Nat) (f : Block → Block) (h : k ≠ j) : (s.updBlock k f).block j = s.block j := Tab.get_set_other _ _ _ _ _ h
theorem State.updBlock_at (s : State) (k j : Nat) (f : Block → Block) : (s.updBlock k f).block j = if k = j then f (s.block j) else s.block j := by
  by_cases h : k = j
  · subst h; simp
  · simp [h, State.updBlock_other s k j f h]
@[simp] theorem State.updLaunch_same (s : State) (k : Nat) (f : Launch → Launch) : (s.updLaunch k f).launch k = f (s.launch k) := Tab.get_set_same _ _ _ _
theorem State.updLaunch_other (s : State) (k j : Nat) (f : Launch → Launch) (h : k ≠ j) : (s.updLaunch k f).launch j = s.launch j := Tab.get_set_other _ _ _ _ _ h
theorem State.updLaunch_at (s : State) (k j : Nat) (f : Launch → Launch) : (s.updLaunch k f).launch j = if k = j then f (s.launch j) else s.launch j := by
  by_cases h : k = j
  · subst h; simp
  · simp [h, State.updLaunch_other s k j f h]
@[simp] theorem State.updCore_same (s : State) (k : Nat) (f : Core → Core) : (s.updCore k f).core k = f (s.core k) := Tab.get_set_same _ _ _ _
theorem State.updCore_other (s : State) (k j : Nat) (f : Core → Core) (h : k ≠ j) : (s.updCore k f).core j = s.core j := Tab.get_set_other _ _ _ _ _ h
theorem State.updCore_at (s : State) (k j : Nat) (f : Core → Core) : (s.updCore k f).core j = if k = j then f (s.core j) else s.core j := by
  by_cases h : k = j
  · subst h; simp
  · simp [h, State.updCore_other s k j f h]
@[simp] theorem State.updStack_same (s : State) (k : Nat) (f : Stack → Stack) : (s.updStack k f).stack k = f (s.stack k) := Tab.get_set_same _ _ _ _
theorem State.updStack_other (s : State) (k j : Nat) (f : Stack → Stack) (h : k ≠ j) : (s.updStack k f).stack j = s.stack j := Tab.get_set_other _ _ _ _ _ h
theorem State.updStack_at (s : State) (k j : Nat) (f : Stack → Stack) : (s.updStack k f).stack j = if k = j then f (s.stack j) else s.stack j := by
  by_cases h : k = j
  · subst h; simp
  · simp [h, State.updStack_other s k j f h]
@[simp] theorem State.updLink_same (s : State) (k : Nat) (f : Link → Link) : (s.updLink k f).link k = f (s.link k) := Tab.get_set_same _ _ _ _
theorem State.updLink_other (s : State) (k j : Nat) (f : Link → Link) (h : k ≠ j) : (s.updLink k f).link j = s.link j := Tab.get_set_other _ _ _ _ _ h
theorem State.updLink_at (s : State) (k j : Nat) (f : Link → Link) : (s.updLink k f).link j = if k = j then f (s.link j) else s.link j := by
  by_cases h : k = j
  · subst h; simp
  · simp [h, State.updLink_other s k j f h]
@[simp] theorem State.updEq_same (s : State) (k : Nat) (f : EQueue → EQueue) : (s.updEq k f).eq k = f (s.eq k) := Tab.get_set_same _ _ _ _
theorem State.updEq_other (s : State) (k j : Nat) (f : EQueue → EQueue) (h : k ≠ j) : (s.updEq k f).eq j = s.eq j := Tab.get_set_other _ _ _ _ _ h
theorem State.updEq_at (s : State) (k j : Nat) (f : EQueue → EQueue) : (s.updEq k f).eq j = if k = j then f (s.eq j) else s.eq j := by
  by_cases h : k = j
  · subst h; simp
  · simp [h, State.updEq_other s k j f h]
@[simp] theorem State.updInst_same (s : State) (k : Nat) (f : Inst → Inst) : (s.updInst k f).inst k = f (s.inst k) := Tab.get_set_same _ _ _ _
theorem State.updInst_other (s : State) (k j : Nat) (f : Inst → Inst) (h : k ≠ j) : (s.updInst k f).inst j = s.inst j := Tab.get_set_other _ _ _ _ _ h
theorem State.updInst_at (s : State) (k j : Nat) (f : Inst → Inst) : (s.updInst k f).inst j = if k = j then f (s.inst j) else s.inst j := by
  by_cases h : k = j
  · subst h; simp
  · simp [h, State.updInst_other s k j f h]
@[simp] theorem State.setWave_same (s : State) (k : Nat) (x : Wave) : (s.setWave k x).wave k = x := Tab.get_set_same _ _ _ _
theorem State.setWave_other (s : State) (k j : Nat) (x : Wave) (h : k ≠ j) : (s.setWave k x).wave j = s.wave j := Tab.get_set_other _ _ _ _ _ h
@[simp] theorem State.setBlock_same (s : State) (k : Nat) (x : Block) : (s.setBlock k x).block k = x := Tab.get_set_same _ _ _ _
theorem State.setBlock_other (s : State) (k j : Nat) (x : Block) (h : k ≠ j) : (s.setBlock k x).block j = s.block j := Tab.get_set_other _ _ _ _ _ h
@[simp] theorem State.setLaunch_same (s : State) (k : Nat) (x : Launch) : (s.setLaunch k x).launch k = x := Tab.get_set_same _ _ _ _
theorem State.setLaunch_other (s : State) (k j : Nat) (x : Launch) (h : k ≠ j) : (s.setLaunch k x).launch j = s.launch j := Tab.get_set_other _ _ _ _ _ h
@[simp] theorem State.setCore_same (s : State) (k : Nat) (x : Core) : (s.setCore k x).core k = x := Tab.get_set_same _ _ _ _
theorem State.setCore_other (s : State) (k j : Nat) (x : Core) (h : k ≠ j) : (s.setCore k x).core j = s.core j := Tab.get_set_other _ _ _ _ _ h
@[simp] theorem State.setAcc_same (s : State) (k : Nat) (x : Acc) : (s.setAcc k x).acc k = x := Tab.get_set_same _ _ _ _
theorem State.setAcc_other (s : State) (k j : Nat) (x : Acc) (h : k ≠ j) : (s.setAcc k x).acc j = s.acc j := Tab.get_set_other _ _ _ _ _ h
@[simp] theorem State.setJob_same (s : State) (k : Nat) (x : Job) : (s.setJob k x).job k = x := Tab.get_set_same _ _ _ _
theorem State.setJob_other (s : State) (k j : Nat) (x : Job) (h : k ≠ j) : (s.setJob k x).job j = s.job j := Tab.get_set_other _ _ _ _ _ h
@[simp] theorem State.tick_seq (s : State) : s.tick.seq = s.seq + 1 := rfl
@[simp] theorem State.updMgmt_mgmt (s : State) (f : Mgmt → Mgmt) : (s.updMgmt f).mgmt = f s.mgmt := rfl

/-! ### Tables -/

theorem Tab.get_set {α : Type} (d : α) (t : Tab α) (k j : Nat) (v : α) :
    (t.set k v).get d j = if k = j then v else t.get d j := by
  by_cases h : k = j
  · subst h; simp [Tab.get_set_same]
  · simp [h, Tab.get_set_other d t k j v h]
@[simp] theorem Tab.get_nil {α : Type} (d : α) (k : Nat) : Tab.get d [] k = d := rfl
theorem Tab.has_set {α : Type} (t : Tab α) (k j : Nat) (v : α) : (t.set k v).has j = (k == j || t.has j) := by
  induction t with
  | nil => simp [Tab.set, Tab.has]
  | cons p t ih =>
    obtain ⟨k', v'⟩ := p
    by_cases h : k' = k
    · subst h; simp [Tab.set, Tab.has]
    · simp only [Tab.set, h, if_false, Tab.has, ih]
      cases (k' == j) <;> cases (k == j) <;> rfl
@[simp] theorem Tab.has_set_same {α : Type} (t : Tab α) (k : Nat) (v : α) : (t.set k v).has k = true := by
  simp [Tab.has_set]

/-! ### PC slots of a wave -/

@[simp] theorem Wave.slot_setSlot (w : Wave) (b c : Bool) (x : Slot) : (w.setSlot b x).slot c = if c = b then x else w.slot c := by
  cases b <;> cases c <;> rfl
@[simp] theorem Wave.slot_updSlot (w : Wave) (b c : Bool) (f : Slot → Slot) : (w.updSlot b f).slot c = if c = b then f (w.slot c) else w.slot c := by
  cases b <;> cases c <;> rfl

@[simp] theorem Wave.setSlot_block (w : Wave) (b : Bool) (x : Slot) : (w.setSlot b x).block = w.block := by cases b <;> rfl
@[simp] theorem Wave.updSlot_block (w : Wave) (b : Bool) (f : Slot → Slot) : (w.updSlot b f).block = w.block := by cases b <;> rfl
@[simp] theorem Wave.setSlot_idx (w : Wave) (b : Bool) (x : Slot) : (w.setSlot b x).idx = w.idx := by cases b <;> rfl
@[simp] theorem Wave.updSlot_idx (w : Wave) (b : Bool) (f : Slot → Slot) : (w.updSlot b f).idx = w.idx := by cases b <;> rfl
@[simp] theorem Wave.setSlot_exited (w : Wave) (b : Bool) (x : Slot) : (w.setSlot b x).exited = w.exited := by cases b <;> rfl
@[simp] theorem Wave.updSlot_exited (w : Wave) (b : Bool) (f : Slot → Slot) : (w.updSlot b f).exited = w.exited := by cases b <;> rfl
@[simp] theorem Wave.setSlot_launchMask (w : Wave) (b : Bool) (x : Slot) : (w.setSlot b x).launchMask = w.launchMask := by cases b <;> rfl
@[simp] theorem Wave.updSlot_launchMask (w : Wave) (b : Bool) (f : Slot → Slot) : (w.updSlot b f).launchMask = w.launchMask := by cases b <;> rfl
@[simp] theorem Wave.setSlot_pad (w : Wave) (b : Bool) (x : Slot) : (w.setSlot b x).pad = w.pad := by cases b <;> rfl
@[simp] theorem Wave.updSlot_pad (w : Wave) (b : Bool) (f : Slot → Slot) : (w.updSlot b f).pad = w.pad := by cases b <;> rfl
@[simp] theorem Wave.setSlot_sregs (w : Wave) (b : Bool) (x : Slot) : (w.setSlot b x).sregs = w.sregs := by cases b <;> rfl
@[simp] theorem Wave.updSlot_sregs (w : Wave) (b : Bool) (f : Slot → Slot) : (w.updSlot b f).sregs = w.sregs := by cases b <;> rfl
@[simp] theorem Wave.setSlot_vregs (w : Wave) (b : Bool) (x : Slot) : (w.setSlot b x).vregs = w.vregs := by cases b <;> rfl
@[simp] theorem Wave.updSlot_vregs (w : Wave) (b : Bool) (f : Slot → Slot) : (w.updSlot b f).vregs = w.vregs := by cases b <;> rfl
@[simp] theorem Wave.setSlot_pregs (w : Wave) (b : Bool) (x : Slot) : (w.setSlot b x).pregs = w.pregs := by cases b <;> rfl
@[simp] theorem Wave.updSlot_pregs (w : Wave) (b : Bool) (f : Slot → Slot) : (w.updSlot b f).pregs = w.pregs := by cases b <;> rfl
@[simp] theorem Wave.setSlot_lastB (w : Wave) (b : Bool) (x : Slot) : (w.setSlot b x).lastB = w.lastB := by cases b <;> rfl
@[simp] theorem Wave.updSlot_lastB (w : Wave) (b : Bool) (f : Slot → Slot) : (w.updSlot b f).lastB = w.lastB := by cases b <;> rfl
@[simp] theorem Wave.setSlot_spill (w : Wave) (b : Bool) (x : Slot) : (w.setSlot b x).spill = w.spill := by cases b <;> rfl
@[simp] theorem Wave.updSlot_spill (w : Wave) (b : Bool) (f : Slot → Slot) : (w.updSlot b f).spill = w.spill := by cases b <;> rfl
@[simp] theorem Wave.setSlot_handler (w : Wave) (b : Bool) (x : Slot) : (w.setSlot b x).handler = w.handler := by cases b <;> rfl
@[simp] theorem Wave.updSlot_handler (w : Wave) (b : Bool) (f : Slot → Slot) : (w.updSlot b f).handler = w.handler := by cases b <;> rfl
@[simp] theorem Wave.setSlot_xpc (w : Wave) (b : Bool) (x : Slot) : (w.setSlot b x).xpc = w.xpc := by cases b <;> rfl
@[simp] theorem Wave.updSlot_xpc (w : Wave) (b : Bool) (f : Slot → Slot) : (w.updSlot b f).xpc = w.xpc := by cases b <;> rfl
@[simp] theorem Wave.setSlot_xmode (w : Wave) (b : Bool) (x : Slot) : (w.setSlot b x).xmode = w.xmode := by cases b <;> rfl
@[simp] theorem Wave.updSlot_xmode (w : Wave) (b : Bool) (f : Slot → Slot) : (w.updSlot b f).xmode = w.xmode := by cases b <;> rfl
@[simp] theorem Wave.setSlot_xcause (w : Wave) (b : Bool) (x : Slot) : (w.setSlot b x).xcause = w.xcause := by cases b <;> rfl
@[simp] theorem Wave.updSlot_xcause (w : Wave) (b : Bool) (f : Slot → Slot) : (w.updSlot b f).xcause = w.xcause := by cases b <;> rfl
@[simp] theorem Wave.setSlot_xlanes (w : Wave) (b : Bool) (x : Slot) : (w.setSlot b x).xlanes = w.xlanes := by cases b <;> rfl
@[simp] theorem Wave.updSlot_xlanes (w : Wave) (b : Bool) (f : Slot → Slot) : (w.updSlot b f).xlanes = w.xlanes := by cases b <;> rfl
@[simp] theorem Wave.setSlot_xaddr (w : Wave) (b : Bool) (x : Slot) : (w.setSlot b x).xaddr = w.xaddr := by cases b <;> rfl
@[simp] theorem Wave.updSlot_xaddr (w : Wave) (b : Bool) (f : Slot → Slot) : (w.updSlot b f).xaddr = w.xaddr := by cases b <;> rfl
@[simp] theorem Wave.setSlot_gexposed (w : Wave) (b : Bool) (x : Slot) : (w.setSlot b x).gexposed = w.gexposed := by cases b <;> rfl
@[simp] theorem Wave.setSlot_jobs (w : Wave) (b : Bool) (x : Slot) : (w.setSlot b x).jobs = w.jobs := by cases b <;> rfl
@[simp] theorem Wave.setSlot_left (w : Wave) (b : Bool) (x : Slot) : (w.setSlot b x).left = w.left := by cases b <;> rfl
@[simp] theorem Wave.updSlot_gexposed (w : Wave) (b : Bool) (f : Slot → Slot) : (w.updSlot b f).gexposed = w.gexposed := by cases b <;> rfl
@[simp] theorem Wave.updSlot_jobs (w : Wave) (b : Bool) (f : Slot → Slot) : (w.updSlot b f).jobs = w.jobs := by cases b <;> rfl
@[simp] theorem Wave.updSlot_left (w : Wave) (b : Bool) (f : Slot → Slot) : (w.updSlot b f).left = w.left := by cases b <;> rfl
@[simp] theorem Wave.setSlot_mm (w : Wave) (b : Bool) (x : Slot) : (w.setSlot b x).mm = w.mm := by cases b <;> rfl
@[simp] theorem Wave.updSlot_mm (w : Wave) (b : Bool) (f : Slot → Slot) : (w.updSlot b f).mm = w.mm := by cases b <;> rfl
@[simp] theorem Wave.setSlot_epoch (w : Wave) (b : Bool) (x : Slot) : (w.setSlot b x).epoch = w.epoch := by cases b <;> rfl
@[simp] theorem Wave.updSlot_epoch (w : Wave) (b : Bool) (f : Slot → Slot) : (w.updSlot b f).epoch = w.epoch := by cases b <;> rfl
@[simp] theorem Wave.setSlot_tags (w : Wave) (b : Bool) (x : Slot) : (w.setSlot b x).tags = w.tags := by cases b <;> rfl
@[simp] theorem Wave.updSlot_tags (w : Wave) (b : Bool) (f : Slot → Slot) : (w.updSlot b f).tags = w.tags := by cases b <;> rfl
@[simp] theorem Wave.setSlot_sfr (w : Wave) (b : Bool) (x : Slot) : (w.setSlot b x).sfr = w.sfr := by cases b <;> rfl
@[simp] theorem Wave.updSlot_sfr (w : Wave) (b : Bool) (f : Slot → Slot) : (w.updSlot b f).sfr = w.sfr := by cases b <;> rfl
@[simp] theorem Wave.setSlot_arrived (w : Wave) (b : Bool) (x : Slot) : (w.setSlot b x).arrived = w.arrived := by cases b <;> rfl
@[simp] theorem Wave.updSlot_arrived (w : Wave) (b : Bool) (f : Slot → Slot) : (w.updSlot b f).arrived = w.arrived := by cases b <;> rfl
@[simp] theorem Wave.setSlot_region (w : Wave) (b : Bool) (x : Slot) : (w.setSlot b x).region = w.region := by cases b <;> rfl
@[simp] theorem Wave.updSlot_region (w : Wave) (b : Bool) (f : Slot → Slot) : (w.updSlot b f).region = w.region := by cases b <;> rfl
@[simp] theorem Wave.setSlot_pend (w : Wave) (b : Bool) (x : Slot) : (w.setSlot b x).pend = w.pend := by cases b <;> rfl
@[simp] theorem Wave.updSlot_pend (w : Wave) (b : Bool) (f : Slot → Slot) : (w.updSlot b f).pend = w.pend := by cases b <;> rfl
@[simp] theorem Wave.setSlot_lost (w : Wave) (b : Bool) (x : Slot) : (w.setSlot b x).lost = w.lost := by cases b <;> rfl
@[simp] theorem Wave.updSlot_lost (w : Wave) (b : Bool) (f : Slot → Slot) : (w.updSlot b f).lost = w.lost := by cases b <;> rfl
@[simp] theorem Wave.setSlot_since (w : Wave) (b : Bool) (x : Slot) : (w.setSlot b x).since = w.since := by cases b <;> rfl
@[simp] theorem Wave.updSlot_since (w : Wave) (b : Bool) (f : Slot → Slot) : (w.updSlot b f).since = w.since := by cases b <;> rfl

end Sys2Proof.Machine
end

