-- ==== Sys2Proof/Laws/Issue.lean ====
section
/-! SUPPORT. What the shared steps of an issue leave as it was: the charge, the log, register writes, joins, the completion of a unit and its waits. -/

namespace Sys2Proof.Machine

/-! ### charge -/

@[simp] theorem State.charge_waves (s : State) (p : Nat) (pair : Nat × Nat) (b n : Nat) : (s.charge p pair b n).waves = s.waves := by unfold State.charge; split <;> simp
@[simp] theorem State.charge_launches (s : State) (p : Nat) (pair : Nat × Nat) (b n : Nat) : (s.charge p pair b n).launches = s.launches := by unfold State.charge; split <;> simp
@[simp] theorem State.charge_mem (s : State) (p : Nat) (pair : Nat × Nat) (b n : Nat) : (s.charge p pair b n).mem = s.mem := by unfold State.charge; split <;> simp
@[simp] theorem State.charge_array (s : State) (p : Nat) (pair : Nat × Nat) (b n : Nat) : (s.charge p pair b n).array = s.array := by unfold State.charge; split <;> simp
@[simp] theorem State.charge_hostMem (s : State) (p : Nat) (pair : Nat × Nat) (b n : Nat) : (s.charge p pair b n).hostMem = s.hostMem := by unfold State.charge; split <;> simp
@[simp] theorem State.charge_peerMem (s : State) (p : Nat) (pair : Nat × Nat) (b n : Nat) : (s.charge p pair b n).peerMem = s.peerMem := by unfold State.charge; split <;> simp
@[simp] theorem State.charge_registrant (s : State) (p : Nat) (pair : Nat × Nat) (b n : Nat) : (s.charge p pair b n).registrant = s.registrant := by unfold State.charge; split <;> simp
@[simp] theorem State.charge_claims (s : State) (p : Nat) (pair : Nat × Nat) (b n : Nat) : (s.charge p pair b n).claims = s.claims := by unfold State.charge; split <;> simp
@[simp] theorem State.charge_cells (s : State) (p : Nat) (pair : Nat × Nat) (b n : Nat) : (s.charge p pair b n).cells = s.cells := by unfold State.charge; split <;> simp
@[simp] theorem State.charge_regions (s : State) (p : Nat) (pair : Nat × Nat) (b n : Nat) : (s.charge p pair b n).regions = s.regions := by unfold State.charge; split <;> simp
@[simp] theorem State.charge_rdc (s : State) (p : Nat) (pair : Nat × Nat) (b n : Nat) : (s.charge p pair b n).rdc = s.rdc := by unfold State.charge; split <;> simp
@[simp] theorem State.charge_l2 (s : State) (p : Nat) (pair : Nat × Nat) (b n : Nat) : (s.charge p pair b n).l2 = s.l2 := by unfold State.charge; split <;> simp
@[simp] theorem State.charge_msc (s : State) (p : Nat) (pair : Nat × Nat) (b n : Nat) : (s.charge p pair b n).msc = s.msc := by unfold State.charge; split <;> simp
@[simp] theorem State.charge_stacks (s : State) (p : Nat) (pair : Nat × Nat) (b n : Nat) : (s.charge p pair b n).hbms = s.hbms := by unfold State.charge; split <;> simp
@[simp] theorem State.charge_bad (s : State) (p : Nat) (pair : Nat × Nat) (b n : Nat) : (s.charge p pair b n).bad = s.bad := by unfold State.charge; split <;> simp
@[simp] theorem State.charge_weak (s : State) (p : Nat) (pair : Nat × Nat) (b n : Nat) : (s.charge p pair b n).weak = s.weak := by unfold State.charge; split <;> simp
@[simp] theorem State.charge_lost (s : State) (p : Nat) (pair : Nat × Nat) (b n : Nat) : (s.charge p pair b n).lost = s.lost := by unfold State.charge; split <;> simp
@[simp] theorem State.charge_hostLines (s : State) (p : Nat) (pair : Nat × Nat) (b n : Nat) : (s.charge p pair b n).hostLines = s.hostLines := by unfold State.charge; split <;> simp
@[simp] theorem State.charge_tlb (s : State) (p : Nat) (pair : Nat × Nat) (b n : Nat) : (s.charge p pair b n).tlb = s.tlb := by unfold State.charge; split <;> simp
@[simp] theorem State.charge_accs (s : State) (p : Nat) (pair : Nat × Nat) (b n : Nat) : (s.charge p pair b n).accs = s.accs := by unfold State.charge; split <;> simp
@[simp] theorem State.charge_net (s : State) (p : Nat) (pair : Nat × Nat) (b n : Nat) : (s.charge p pair b n).net = s.net := by unfold State.charge; split <;> simp
@[simp] theorem State.charge_abufs (s : State) (p : Nat) (pair : Nat × Nat) (b n : Nat) : (s.charge p pair b n).abufs = s.abufs := by unfold State.charge; split <;> simp
@[simp] theorem State.charge_jobs (s : State) (p : Nat) (pair : Nat × Nat) (b n : Nat) : (s.charge p pair b n).jobs = s.jobs := by unfold State.charge; split <;> simp
@[simp] theorem State.charge_feet (s : State) (p : Nat) (pair : Nat × Nat) (b n : Nat) : (s.charge p pair b n).feet = s.feet := by unfold State.charge; split <;> simp
@[simp] theorem State.charge_shapes (s : State) (p : Nat) (pair : Nat × Nat) (b n : Nat) : (s.charge p pair b n).shapes = s.shapes := by unfold State.charge; split <;> simp
@[simp] theorem State.charge_eqs (s : State) (p : Nat) (pair : Nat × Nat) (b n : Nat) : (s.charge p pair b n).eqs = s.eqs := by unfold State.charge; split <;> simp
@[simp] theorem State.charge_insts (s : State) (p : Nat) (pair : Nat × Nat) (b n : Nat) : (s.charge p pair b n).insts = s.insts := by unfold State.charge; split <;> simp
@[simp] theorem State.charge_links (s : State) (p : Nat) (pair : Nat × Nat) (b n : Nat) : (s.charge p pair b n).links = s.links := by unfold State.charge; split <;> simp
@[simp] theorem State.charge_hostAccs (s : State) (p : Nat) (pair : Nat × Nat) (b n : Nat) : (s.charge p pair b n).hostAccs = s.hostAccs := by unfold State.charge; split <;> simp
@[simp] theorem State.charge_mgmt (s : State) (p : Nat) (pair : Nat × Nat) (b n : Nat) : (s.charge p pair b n).mgmt = s.mgmt := by unfold State.charge; split <;> simp
@[simp] theorem State.charge_focus (s : State) (p : Nat) (pair : Nat × Nat) (b n : Nat) : (s.charge p pair b n).focus = s.focus := by unfold State.charge; split <;> simp
@[simp] theorem State.charge_agenda (s : State) (p : Nat) (pair : Nat × Nat) (b n : Nat) : (s.charge p pair b n).agenda = s.agenda := by unfold State.charge; split <;> simp
@[simp] theorem State.charge_seq (s : State) (p : Nat) (pair : Nat × Nat) (b n : Nat) : (s.charge p pair b n).seq = s.seq := by unfold State.charge; split <;> simp

@[simp] theorem State.charge_wave (s : State) (p : Nat) (pair : Nat × Nat) (b n w : Nat) : (s.charge p pair b n).wave w = s.wave w := by simp [State.wave]
@[simp] theorem State.charge_block_launch (s : State) (p : Nat) (pair : Nat × Nat) (b n k : Nat) : ((s.charge p pair b n).block k).launch = (s.block k).launch := by
  unfold State.charge; split
  · rw [State.updBlock_at]; split <;> simp [Block.addShare]
  · rfl
@[simp] theorem State.charge_block_idx (s : State) (p : Nat) (pair : Nat × Nat) (b n k : Nat) : ((s.charge p pair b n).block k).idx = (s.block k).idx := by
  unfold State.charge; split
  · rw [State.updBlock_at]; split <;> simp [Block.addShare]
  · rfl
@[simp] theorem State.charge_block_st (s : State) (p : Nat) (pair : Nat × Nat) (b n k : Nat) : ((s.charge p pair b n).block k).st = (s.block k).st := by
  unfold State.charge; split
  · rw [State.updBlock_at]; split <;> simp [Block.addShare]
  · rfl
@[simp] theorem State.charge_block_lcore (s : State) (p : Nat) (pair : Nat × Nat) (b n k : Nat) : ((s.charge p pair b n).block k).lcore = (s.block k).lcore := by
  unfold State.charge; split
  · rw [State.updBlock_at]; split <;> simp [Block.addShare]
  · rfl
@[simp] theorem State.charge_block_pcore (s : State) (p : Nat) (pair : Nat × Nat) (b n k : Nat) : ((s.charge p pair b n).block k).pcore = (s.block k).pcore := by
  unfold State.charge; split
  · rw [State.updBlock_at]; split <;> simp [Block.addShare]
  · rfl
@[simp] theorem State.charge_block_frame (s : State) (p : Nat) (pair : Nat × Nat) (b n k : Nat) : ((s.charge p pair b n).block k).frame = (s.block k).frame := by
  unfold State.charge; split
  · rw [State.updBlock_at]; split <;> simp [Block.addShare]
  · rfl
@[simp] theorem State.charge_block_waves (s : State) (p : Nat) (pair : Nat × Nat) (b n k : Nat) : ((s.charge p pair b n).block k).waves = (s.block k).waves := by
  unfold State.charge; split
  · rw [State.updBlock_at]; split <;> simp [Block.addShare]
  · rfl
@[simp] theorem State.charge_block_pageWait (s : State) (p : Nat) (pair : Nat × Nat) (b n k : Nat) : ((s.charge p pair b n).block k).pageWait = (s.block k).pageWait := by
  unfold State.charge; split
  · rw [State.updBlock_at]; split <;> simp [Block.addShare]
  · rfl
@[simp] theorem State.charge_block_scratch (s : State) (p : Nat) (pair : Nat × Nat) (b n k : Nat) : ((s.charge p pair b n).block k).scratch = (s.block k).scratch := by
  unfold State.charge; split
  · rw [State.updBlock_at]; split <;> simp [Block.addShare]
  · rfl
@[simp] theorem State.charge_block_sclaims (s : State) (p : Nat) (pair : Nat × Nat) (b n k : Nat) : ((s.charge p pair b n).block k).sclaims = (s.block k).sclaims := by
  unfold State.charge; split
  · rw [State.updBlock_at]; split <;> simp [Block.addShare]
  · rfl
@[simp] theorem State.charge_block_lim (s : State) (p : Nat) (pair : Nat × Nat) (b n k : Nat) : ((s.charge p pair b n).block k).lim = (s.block k).lim := by
  unfold State.charge; split
  · rw [State.updBlock_at]; split <;> simp [Block.addShare]
  · rfl
@[simp] theorem State.charge_block_flights (s : State) (p : Nat) (pair : Nat × Nat) (b n k : Nat) : ((s.charge p pair b n).block k).flights = (s.block k).flights := by
  unfold State.charge; split
  · rw [State.updBlock_at]; split <;> simp [Block.addShare]
  · rfl
@[simp] theorem State.charge_block_tabs (s : State) (p : Nat) (pair : Nat × Nat) (b n k : Nat) : ((s.charge p pair b n).block k).tabs = (s.block k).tabs := by
  unfold State.charge; split
  · rw [State.updBlock_at]; split <;> simp [Block.addShare]
  · rfl
@[simp] theorem State.charge_block_accs (s : State) (p : Nat) (pair : Nat × Nat) (b n k : Nat) : ((s.charge p pair b n).block k).accs = (s.block k).accs := by
  unfold State.charge; split
  · rw [State.updBlock_at]; split <;> simp [Block.addShare]
  · rfl
@[simp] theorem State.charge_block_feeds (s : State) (p : Nat) (pair : Nat × Nat) (b n k : Nat) : ((s.charge p pair b n).block k).feeds = (s.block k).feeds := by
  unfold State.charge; split
  · rw [State.updBlock_at]; split <;> simp [Block.addShare]
  · rfl
@[simp] theorem State.charge_block_preds (s : State) (p : Nat) (pair : Nat × Nat) (b n k : Nat) : ((s.charge p pair b n).block k).preds = (s.block k).preds := by
  unfold State.charge; split
  · rw [State.updBlock_at]; split <;> simp [Block.addShare]
  · rfl
@[simp] theorem State.charge_block_streams (s : State) (p : Nat) (pair : Nat × Nat) (b n k : Nat) : ((s.charge p pair b n).block k).streams = (s.block k).streams := by
  unfold State.charge; split
  · rw [State.updBlock_at]; split <;> simp [Block.addShare]
  · rfl
@[simp] theorem State.charge_block_sketch (s : State) (p : Nat) (pair : Nat × Nat) (b n k : Nat) : ((s.charge p pair b n).block k).sketch = (s.block k).sketch := by
  unfold State.charge; split
  · rw [State.updBlock_at]; split <;> simp [Block.addShare]
  · rfl
@[simp] theorem State.charge_block_seqq (s : State) (p : Nat) (pair : Nat × Nat) (b n k : Nat) : ((s.charge p pair b n).block k).seqq = (s.block k).seqq := by
  unfold State.charge; split
  · rw [State.updBlock_at]; split <;> simp [Block.addShare]
  · rfl
@[simp] theorem State.charge_block_bars (s : State) (p : Nat) (pair : Nat × Nat) (b n k : Nat) : ((s.charge p pair b n).block k).bars = (s.block k).bars := by
  unfold State.charge; split
  · rw [State.updBlock_at]; split <;> simp [Block.addShare]
  · rfl
@[simp] theorem State.charge_block_issued (s : State) (p : Nat) (pair : Nat × Nat) (b n k : Nat) : ((s.charge p pair b n).block k).issued = (s.block k).issued := by
  unfold State.charge; split
  · rw [State.updBlock_at]; split <;> simp [Block.addShare]
  · rfl
@[simp] theorem State.charge_block_since (s : State) (p : Nat) (pair : Nat × Nat) (b n k : Nat) : ((s.charge p pair b n).block k).since = (s.block k).since := by
  unfold State.charge; split
  · rw [State.updBlock_at]; split <;> simp [Block.addShare]
  · rfl
@[simp] theorem State.charge_block_discarded (s : State) (p : Nat) (pair : Nat × Nat) (b n k : Nat) : ((s.charge p pair b n).block k).discarded = (s.block k).discarded := by
  unfold State.charge; split
  · rw [State.updBlock_at]; split <;> simp [Block.addShare]
  · rfl
/-! ### bill -/

@[simp] theorem State.bill_waves (s : State) (t : Traits) : (s.bill t).waves = s.waves := by simp [State.bill]
@[simp] theorem State.bill_launches (s : State) (t : Traits) : (s.bill t).launches = s.launches := by simp [State.bill]
@[simp] theorem State.bill_mem (s : State) (t : Traits) : (s.bill t).mem = s.mem := by simp [State.bill]
@[simp] theorem State.bill_array (s : State) (t : Traits) : (s.bill t).array = s.array := by simp [State.bill]
@[simp] theorem State.bill_hostMem (s : State) (t : Traits) : (s.bill t).hostMem = s.hostMem := by simp [State.bill]
@[simp] theorem State.bill_peerMem (s : State) (t : Traits) : (s.bill t).peerMem = s.peerMem := by simp [State.bill]
@[simp] theorem State.bill_registrant (s : State) (t : Traits) : (s.bill t).registrant = s.registrant := by simp [State.bill]
@[simp] theorem State.bill_claims (s : State) (t : Traits) : (s.bill t).claims = s.claims := by simp [State.bill]
@[simp] theorem State.bill_cells (s : State) (t : Traits) : (s.bill t).cells = s.cells := by simp [State.bill]
@[simp] theorem State.bill_regions (s : State) (t : Traits) : (s.bill t).regions = s.regions := by simp [State.bill]
@[simp] theorem State.bill_rdc (s : State) (t : Traits) : (s.bill t).rdc = s.rdc := by simp [State.bill]
@[simp] theorem State.bill_l2 (s : State) (t : Traits) : (s.bill t).l2 = s.l2 := by simp [State.bill]
@[simp] theorem State.bill_msc (s : State) (t : Traits) : (s.bill t).msc = s.msc := by simp [State.bill]
@[simp] theorem State.bill_stacks (s : State) (t : Traits) : (s.bill t).hbms = s.hbms := by simp [State.bill]
@[simp] theorem State.bill_bad (s : State) (t : Traits) : (s.bill t).bad = s.bad := by simp [State.bill]
@[simp] theorem State.bill_weak (s : State) (t : Traits) : (s.bill t).weak = s.weak := by simp [State.bill]
@[simp] theorem State.bill_lost (s : State) (t : Traits) : (s.bill t).lost = s.lost := by simp [State.bill]
@[simp] theorem State.bill_hostLines (s : State) (t : Traits) : (s.bill t).hostLines = s.hostLines := by simp [State.bill]
@[simp] theorem State.bill_tlb (s : State) (t : Traits) : (s.bill t).tlb = s.tlb := by simp [State.bill]
@[simp] theorem State.bill_accs (s : State) (t : Traits) : (s.bill t).accs = s.accs := by simp [State.bill]
@[simp] theorem State.bill_net (s : State) (t : Traits) : (s.bill t).net = s.net := by simp [State.bill]
@[simp] theorem State.bill_abufs (s : State) (t : Traits) : (s.bill t).abufs = s.abufs := by simp [State.bill]
@[simp] theorem State.bill_jobs (s : State) (t : Traits) : (s.bill t).jobs = s.jobs := by simp [State.bill]
@[simp] theorem State.bill_feet (s : State) (t : Traits) : (s.bill t).feet = s.feet := by simp [State.bill]
@[simp] theorem State.bill_shapes (s : State) (t : Traits) : (s.bill t).shapes = s.shapes := by simp [State.bill]
@[simp] theorem State.bill_eqs (s : State) (t : Traits) : (s.bill t).eqs = s.eqs := by simp [State.bill]
@[simp] theorem State.bill_insts (s : State) (t : Traits) : (s.bill t).insts = s.insts := by simp [State.bill]
@[simp] theorem State.bill_links (s : State) (t : Traits) : (s.bill t).links = s.links := by simp [State.bill]
@[simp] theorem State.bill_hostAccs (s : State) (t : Traits) : (s.bill t).hostAccs = s.hostAccs := by simp [State.bill]
@[simp] theorem State.bill_mgmt (s : State) (t : Traits) : (s.bill t).mgmt = s.mgmt := by simp [State.bill]
@[simp] theorem State.bill_focus (s : State) (t : Traits) : (s.bill t).focus = s.focus := by simp [State.bill]
@[simp] theorem State.bill_agenda (s : State) (t : Traits) : (s.bill t).agenda = s.agenda := by simp [State.bill]
@[simp] theorem State.bill_seq (s : State) (t : Traits) : (s.bill t).seq = s.seq := by simp [State.bill]

@[simp] theorem State.bill_wave (s : State) (t : Traits) (w : Nat) : (s.bill t).wave w = s.wave w := by simp [State.wave]
@[simp] theorem State.bill_block_launch (s : State) (t : Traits) (k : Nat) : ((s.bill t).block k).launch = (s.block k).launch := by
  simp only [State.bill, State.updCore_block]; rw [State.updBlock_at]; split <;> simp
@[simp] theorem State.bill_block_idx (s : State) (t : Traits) (k : Nat) : ((s.bill t).block k).idx = (s.block k).idx := by
  simp only [State.bill, State.updCore_block]; rw [State.updBlock_at]; split <;> simp
@[simp] theorem State.bill_block_st (s : State) (t : Traits) (k : Nat) : ((s.bill t).block k).st = (s.block k).st := by
  simp only [State.bill, State.updCore_block]; rw [State.updBlock_at]; split <;> simp
@[simp] theorem State.bill_block_lcore (s : State) (t : Traits) (k : Nat) : ((s.bill t).block k).lcore = (s.block k).lcore := by
  simp only [State.bill, State.updCore_block]; rw [State.updBlock_at]; split <;> simp
@[simp] theorem State.bill_block_pcore (s : State) (t : Traits) (k : Nat) : ((s.bill t).block k).pcore = (s.block k).pcore := by
  simp only [State.bill, State.updCore_block]; rw [State.updBlock_at]; split <;> simp
@[simp] theorem State.bill_block_frame (s : State) (t : Traits) (k : Nat) : ((s.bill t).block k).frame = (s.block k).frame := by
  simp only [State.bill, State.updCore_block]; rw [State.updBlock_at]; split <;> simp
@[simp] theorem State.bill_block_waves (s : State) (t : Traits) (k : Nat) : ((s.bill t).block k).waves = (s.block k).waves := by
  simp only [State.bill, State.updCore_block]; rw [State.updBlock_at]; split <;> simp
@[simp] theorem State.bill_block_pageWait (s : State) (t : Traits) (k : Nat) : ((s.bill t).block k).pageWait = (s.block k).pageWait := by
  simp only [State.bill, State.updCore_block]; rw [State.updBlock_at]; split <;> simp
@[simp] theorem State.bill_block_scratch (s : State) (t : Traits) (k : Nat) : ((s.bill t).block k).scratch = (s.block k).scratch := by
  simp only [State.bill, State.updCore_block]; rw [State.updBlock_at]; split <;> simp
@[simp] theorem State.bill_block_sclaims (s : State) (t : Traits) (k : Nat) : ((s.bill t).block k).sclaims = (s.block k).sclaims := by
  simp only [State.bill, State.updCore_block]; rw [State.updBlock_at]; split <;> simp
@[simp] theorem State.bill_block_lim (s : State) (t : Traits) (k : Nat) : ((s.bill t).block k).lim = (s.block k).lim := by
  simp only [State.bill, State.updCore_block]; rw [State.updBlock_at]; split <;> simp
@[simp] theorem State.bill_block_flights (s : State) (t : Traits) (k : Nat) : ((s.bill t).block k).flights = (s.block k).flights := by
  simp only [State.bill, State.updCore_block]; rw [State.updBlock_at]; split <;> simp
@[simp] theorem State.bill_block_tabs (s : State) (t : Traits) (k : Nat) : ((s.bill t).block k).tabs = (s.block k).tabs := by
  simp only [State.bill, State.updCore_block]; rw [State.updBlock_at]; split <;> simp
@[simp] theorem State.bill_block_accs (s : State) (t : Traits) (k : Nat) : ((s.bill t).block k).accs = (s.block k).accs := by
  simp only [State.bill, State.updCore_block]; rw [State.updBlock_at]; split <;> simp
@[simp] theorem State.bill_block_feeds (s : State) (t : Traits) (k : Nat) : ((s.bill t).block k).feeds = (s.block k).feeds := by
  simp only [State.bill, State.updCore_block]; rw [State.updBlock_at]; split <;> simp
@[simp] theorem State.bill_block_preds (s : State) (t : Traits) (k : Nat) : ((s.bill t).block k).preds = (s.block k).preds := by
  simp only [State.bill, State.updCore_block]; rw [State.updBlock_at]; split <;> simp
@[simp] theorem State.bill_block_streams (s : State) (t : Traits) (k : Nat) : ((s.bill t).block k).streams = (s.block k).streams := by
  simp only [State.bill, State.updCore_block]; rw [State.updBlock_at]; split <;> simp
@[simp] theorem State.bill_block_sketch (s : State) (t : Traits) (k : Nat) : ((s.bill t).block k).sketch = (s.block k).sketch := by
  simp only [State.bill, State.updCore_block]; rw [State.updBlock_at]; split <;> simp
@[simp] theorem State.bill_block_seqq (s : State) (t : Traits) (k : Nat) : ((s.bill t).block k).seqq = (s.block k).seqq := by
  simp only [State.bill, State.updCore_block]; rw [State.updBlock_at]; split <;> simp
@[simp] theorem State.bill_block_bars (s : State) (t : Traits) (k : Nat) : ((s.bill t).block k).bars = (s.block k).bars := by
  simp only [State.bill, State.updCore_block]; rw [State.updBlock_at]; split <;> simp
@[simp] theorem State.bill_block_since (s : State) (t : Traits) (k : Nat) : ((s.bill t).block k).since = (s.block k).since := by
  simp only [State.bill, State.updCore_block]; rw [State.updBlock_at]; split <;> simp
@[simp] theorem State.bill_block_discarded (s : State) (t : Traits) (k : Nat) : ((s.bill t).block k).discarded = (s.block k).discarded := by
  simp only [State.bill, State.updCore_block]; rw [State.updBlock_at]; split <;> simp
@[simp] theorem Wave.log_block (w : Wave) (b : Bool) (q : Nat) (i : UndoItem) : (w.log b q i).block = w.block := by simp [Wave.log]
@[simp] theorem Wave.log_idx (w : Wave) (b : Bool) (q : Nat) (i : UndoItem) : (w.log b q i).idx = w.idx := by simp [Wave.log]
@[simp] theorem Wave.log_exited (w : Wave) (b : Bool) (q : Nat) (i : UndoItem) : (w.log b q i).exited = w.exited := by simp [Wave.log]
@[simp] theorem Wave.log_launchMask (w : Wave) (b : Bool) (q : Nat) (i : UndoItem) : (w.log b q i).launchMask = w.launchMask := by simp [Wave.log]
@[simp] theorem Wave.log_pad (w : Wave) (b : Bool) (q : Nat) (i : UndoItem) : (w.log b q i).pad = w.pad := by simp [Wave.log]
@[simp] theorem Wave.log_sregs (w : Wave) (b : Bool) (q : Nat) (i : UndoItem) : (w.log b q i).sregs = w.sregs := by simp [Wave.log]
@[simp] theorem Wave.log_vregs (w : Wave) (b : Bool) (q : Nat) (i : UndoItem) : (w.log b q i).vregs = w.vregs := by simp [Wave.log]
@[simp] theorem Wave.log_pregs (w : Wave) (b : Bool) (q : Nat) (i : UndoItem) : (w.log b q i).pregs = w.pregs := by simp [Wave.log]
@[simp] theorem Wave.log_lastB (w : Wave) (b : Bool) (q : Nat) (i : UndoItem) : (w.log b q i).lastB = w.lastB := by simp [Wave.log]
@[simp] theorem Wave.log_spill (w : Wave) (b : Bool) (q : Nat) (i : UndoItem) : (w.log b q i).spill = w.spill := by simp [Wave.log]
@[simp] theorem Wave.log_handler (w : Wave) (b : Bool) (q : Nat) (i : UndoItem) : (w.log b q i).handler = w.handler := by simp [Wave.log]
@[simp] theorem Wave.log_xpc (w : Wave) (b : Bool) (q : Nat) (i : UndoItem) : (w.log b q i).xpc = w.xpc := by simp [Wave.log]
@[simp] theorem Wave.log_xmode (w : Wave) (b : Bool) (q : Nat) (i : UndoItem) : (w.log b q i).xmode = w.xmode := by simp [Wave.log]
@[simp] theorem Wave.log_xcause (w : Wave) (b : Bool) (q : Nat) (i : UndoItem) : (w.log b q i).xcause = w.xcause := by simp [Wave.log]
@[simp] theorem Wave.log_xlanes (w : Wave) (b : Bool) (q : Nat) (i : UndoItem) : (w.log b q i).xlanes = w.xlanes := by simp [Wave.log]
@[simp] theorem Wave.log_xaddr (w : Wave) (b : Bool) (q : Nat) (i : UndoItem) : (w.log b q i).xaddr = w.xaddr := by simp [Wave.log]
@[simp] theorem Wave.log_gexposed (w : Wave) (b : Bool) (q : Nat) (i : UndoItem) : (w.log b q i).gexposed = w.gexposed := by simp [Wave.log]
@[simp] theorem Wave.log_jobs (w : Wave) (b : Bool) (q : Nat) (i : UndoItem) : (w.log b q i).jobs = w.jobs := by simp [Wave.log]
@[simp] theorem Wave.log_left (w : Wave) (b : Bool) (q : Nat) (i : UndoItem) : (w.log b q i).left = w.left := by simp [Wave.log]
@[simp] theorem Wave.log_mm (w : Wave) (b : Bool) (q : Nat) (i : UndoItem) : (w.log b q i).mm = w.mm := by simp [Wave.log]
@[simp] theorem Wave.log_epoch (w : Wave) (b : Bool) (q : Nat) (i : UndoItem) : (w.log b q i).epoch = w.epoch := by simp [Wave.log]
@[simp] theorem Wave.log_tags (w : Wave) (b : Bool) (q : Nat) (i : UndoItem) : (w.log b q i).tags = w.tags := by simp [Wave.log]
@[simp] theorem Wave.log_sfr (w : Wave) (b : Bool) (q : Nat) (i : UndoItem) : (w.log b q i).sfr = w.sfr := by simp [Wave.log]
@[simp] theorem Wave.log_arrived (w : Wave) (b : Bool) (q : Nat) (i : UndoItem) : (w.log b q i).arrived = w.arrived := by simp [Wave.log]
@[simp] theorem Wave.log_region (w : Wave) (b : Bool) (q : Nat) (i : UndoItem) : (w.log b q i).region = w.region := by simp [Wave.log]
@[simp] theorem Wave.log_pend (w : Wave) (b : Bool) (q : Nat) (i : UndoItem) : (w.log b q i).pend = w.pend := by simp [Wave.log]
@[simp] theorem Wave.log_lost (w : Wave) (b : Bool) (q : Nat) (i : UndoItem) : (w.log b q i).lost = w.lost := by simp [Wave.log]
@[simp] theorem Wave.log_since (w : Wave) (b : Bool) (q : Nat) (i : UndoItem) : (w.log b q i).since = w.since := by simp [Wave.log]
@[simp] theorem Wave.arrive_block (w : Wave) (sb : Bool) : (w.arrive sb).block = w.block := by
  unfold Wave.arrive; split
  · split
    · simp
    · rfl
  · rfl
@[simp] theorem Wave.arrive_idx (w : Wave) (sb : Bool) : (w.arrive sb).idx = w.idx := by
  unfold Wave.arrive; split
  · split
    · simp
    · rfl
  · rfl
@[simp] theorem Wave.arrive_exited (w : Wave) (sb : Bool) : (w.arrive sb).exited = w.exited := by
  unfold Wave.arrive; split
  · split
    · simp
    · rfl
  · rfl
@[simp] theorem Wave.arrive_launchMask (w : Wave) (sb : Bool) : (w.arrive sb).launchMask = w.launchMask := by
  unfold Wave.arrive; split
  · split
    · simp
    · rfl
  · rfl
@[simp] theorem Wave.arrive_pad (w : Wave) (sb : Bool) : (w.arrive sb).pad = w.pad := by
  unfold Wave.arrive; split
  · split
    · simp
    · rfl
  · rfl
@[simp] theorem Wave.arrive_sregs (w : Wave) (sb : Bool) : (w.arrive sb).sregs = w.sregs := by
  unfold Wave.arrive; split
  · split
    · simp
    · rfl
  · rfl
@[simp] theorem Wave.arrive_vregs (w : Wave) (sb : Bool) : (w.arrive sb).vregs = w.vregs := by
  unfold Wave.arrive; split
  · split
    · simp
    · rfl
  · rfl
@[simp] theorem Wave.arrive_pregs (w : Wave) (sb : Bool) : (w.arrive sb).pregs = w.pregs := by
  unfold Wave.arrive; split
  · split
    · simp
    · rfl
  · rfl
@[simp] theorem Wave.arrive_lastB (w : Wave) (sb : Bool) : (w.arrive sb).lastB = w.lastB := by
  unfold Wave.arrive; split
  · split
    · simp
    · rfl
  · rfl
@[simp] theorem Wave.arrive_handler (w : Wave) (sb : Bool) : (w.arrive sb).handler = w.handler := by
  unfold Wave.arrive; split
  · split
    · simp
    · rfl
  · rfl
@[simp] theorem Wave.arrive_xpc (w : Wave) (sb : Bool) : (w.arrive sb).xpc = w.xpc := by
  unfold Wave.arrive; split
  · split
    · simp
    · rfl
  · rfl
@[simp] theorem Wave.arrive_xmode (w : Wave) (sb : Bool) : (w.arrive sb).xmode = w.xmode := by
  unfold Wave.arrive; split
  · split
    · simp
    · rfl
  · rfl
@[simp] theorem Wave.arrive_xcause (w : Wave) (sb : Bool) : (w.arrive sb).xcause = w.xcause := by
  unfold Wave.arrive; split
  · split
    · simp
    · rfl
  · rfl
@[simp] theorem Wave.arrive_xlanes (w : Wave) (sb : Bool) : (w.arrive sb).xlanes = w.xlanes := by
  unfold Wave.arrive; split
  · split
    · simp
    · rfl
  · rfl
@[simp] theorem Wave.arrive_xaddr (w : Wave) (sb : Bool) : (w.arrive sb).xaddr = w.xaddr := by
  unfold Wave.arrive; split
  · split
    · simp
    · rfl
  · rfl
@[simp] theorem Wave.arrive_gexposed (w : Wave) (sb : Bool) : (w.arrive sb).gexposed = w.gexposed := by
  unfold Wave.arrive; split
  · split
    · simp
    · rfl
  · rfl
@[simp] theorem Wave.arrive_jobs (w : Wave) (sb : Bool) : (w.arrive sb).jobs = w.jobs := by
  unfold Wave.arrive; split
  · split
    · simp
    · rfl
  · rfl
@[simp] theorem Wave.arrive_left (w : Wave) (sb : Bool) : (w.arrive sb).left = w.left := by
  unfold Wave.arrive; split
  · split
    · simp
    · rfl
  · rfl
@[simp] theorem Wave.arrive_mm (w : Wave) (sb : Bool) : (w.arrive sb).mm = w.mm := by
  unfold Wave.arrive; split
  · split
    · simp
    · rfl
  · rfl
@[simp] theorem Wave.arrive_epoch (w : Wave) (sb : Bool) : (w.arrive sb).epoch = w.epoch := by
  unfold Wave.arrive; split
  · split
    · simp
    · rfl
  · rfl
@[simp] theorem Wave.arrive_tags (w : Wave) (sb : Bool) : (w.arrive sb).tags = w.tags := by
  unfold Wave.arrive; split
  · split
    · simp
    · rfl
  · rfl
@[simp] theorem Wave.arrive_sfr (w : Wave) (sb : Bool) : (w.arrive sb).sfr = w.sfr := by
  unfold Wave.arrive; split
  · split
    · simp
    · rfl
  · rfl
@[simp] theorem Wave.arrive_arrived (w : Wave) (sb : Bool) : (w.arrive sb).arrived = w.arrived := by
  unfold Wave.arrive; split
  · split
    · simp
    · rfl
  · rfl
@[simp] theorem Wave.arrive_region (w : Wave) (sb : Bool) : (w.arrive sb).region = w.region := by
  unfold Wave.arrive; split
  · split
    · simp
    · rfl
  · rfl
@[simp] theorem Wave.arrive_pend (w : Wave) (sb : Bool) : (w.arrive sb).pend = w.pend := by
  unfold Wave.arrive; split
  · split
    · simp
    · rfl
  · rfl
@[simp] theorem Wave.arrive_lost (w : Wave) (sb : Bool) : (w.arrive sb).lost = w.lost := by
  unfold Wave.arrive; split
  · split
    · simp
    · rfl
  · rfl
@[simp] theorem Wave.arrive_since (w : Wave) (sb : Bool) : (w.arrive sb).since = w.since := by
  unfold Wave.arrive; split
  · split
    · simp
    · rfl
  · rfl
@[simp] theorem Wave.refill_block (w : Wave) (sb : Bool) : (w.refill sb).block = w.block := by
  unfold Wave.refill; split
  · rfl
  · split
    · simp
    · split
      · simp
      · rfl
    · rfl
@[simp] theorem Wave.refill_idx (w : Wave) (sb : Bool) : (w.refill sb).idx = w.idx := by
  unfold Wave.refill; split
  · rfl
  · split
    · simp
    · split
      · simp
      · rfl
    · rfl
@[simp] theorem Wave.refill_exited (w : Wave) (sb : Bool) : (w.refill sb).exited = w.exited := by
  unfold Wave.refill; split
  · rfl
  · split
    · simp
    · split
      · simp
      · rfl
    · rfl
@[simp] theorem Wave.refill_launchMask (w : Wave) (sb : Bool) : (w.refill sb).launchMask = w.launchMask := by
  unfold Wave.refill; split
  · rfl
  · split
    · simp
    · split
      · simp
      · rfl
    · rfl
@[simp] theorem Wave.refill_pad (w : Wave) (sb : Bool) : (w.refill sb).pad = w.pad := by
  unfold Wave.refill; split
  · rfl
  · split
    · simp
    · split
      · simp
      · rfl
    · rfl
@[simp] theorem Wave.refill_sregs (w : Wave) (sb : Bool) : (w.refill sb).sregs = w.sregs := by
  unfold Wave.refill; split
  · rfl
  · split
    · simp
    · split
      · simp
      · rfl
    · rfl
@[simp] theorem Wave.refill_vregs (w : Wave) (sb : Bool) : (w.refill sb).vregs = w.vregs := by
  unfold Wave.refill; split
  · rfl
  · split
    · simp
    · split
      · simp
      · rfl
    · rfl
@[simp] theorem Wave.refill_pregs (w : Wave) (sb : Bool) : (w.refill sb).pregs = w.pregs := by
  unfold Wave.refill; split
  · rfl
  · split
    · simp
    · split
      · simp
      · rfl
    · rfl
@[simp] theorem Wave.refill_lastB (w : Wave) (sb : Bool) : (w.refill sb).lastB = w.lastB := by
  unfold Wave.refill; split
  · rfl
  · split
    · simp
    · split
      · simp
      · rfl
    · rfl
@[simp] theorem Wave.refill_handler (w : Wave) (sb : Bool) : (w.refill sb).handler = w.handler := by
  unfold Wave.refill; split
  · rfl
  · split
    · simp
    · split
      · simp
      · rfl
    · rfl
@[simp] theorem Wave.refill_xpc (w : Wave) (sb : Bool) : (w.refill sb).xpc = w.xpc := by
  unfold Wave.refill; split
  · rfl
  · split
    · simp
    · split
      · simp
      · rfl
    · rfl
@[simp] theorem Wave.refill_xmode (w : Wave) (sb : Bool) : (w.refill sb).xmode = w.xmode := by
  unfold Wave.refill; split
  · rfl
  · split
    · simp
    · split
      · simp
      · rfl
    · rfl
@[simp] theorem Wave.refill_xcause (w : Wave) (sb : Bool) : (w.refill sb).xcause = w.xcause := by
  unfold Wave.refill; split
  · rfl
  · split
    · simp
    · split
      · simp
      · rfl
    · rfl
@[simp] theorem Wave.refill_xlanes (w : Wave) (sb : Bool) : (w.refill sb).xlanes = w.xlanes := by
  unfold Wave.refill; split
  · rfl
  · split
    · simp
    · split
      · simp
      · rfl
    · rfl
@[simp] theorem Wave.refill_xaddr (w : Wave) (sb : Bool) : (w.refill sb).xaddr = w.xaddr := by
  unfold Wave.refill; split
  · rfl
  · split
    · simp
    · split
      · simp
      · rfl
    · rfl
@[simp] theorem Wave.refill_gexposed (w : Wave) (sb : Bool) : (w.refill sb).gexposed = w.gexposed := by
  unfold Wave.refill; split
  · rfl
  · split
    · simp
    · split
      · simp
      · rfl
    · rfl
@[simp] theorem Wave.refill_jobs (w : Wave) (sb : Bool) : (w.refill sb).jobs = w.jobs := by
  unfold Wave.refill; split
  · rfl
  · split
    · simp
    · split
      · simp
      · rfl
    · rfl
@[simp] theorem Wave.refill_left (w : Wave) (sb : Bool) : (w.refill sb).left = w.left := by
  unfold Wave.refill; split
  · rfl
  · split
    · simp
    · split
      · simp
      · rfl
    · rfl
@[simp] theorem Wave.refill_mm (w : Wave) (sb : Bool) : (w.refill sb).mm = w.mm := by
  unfold Wave.refill; split
  · rfl
  · split
    · simp
    · split
      · simp
      · rfl
    · rfl
@[simp] theorem Wave.refill_epoch (w : Wave) (sb : Bool) : (w.refill sb).epoch = w.epoch := by
  unfold Wave.refill; split
  · rfl
  · split
    · simp
    · split
      · simp
      · rfl
    · rfl
@[simp] theorem Wave.refill_tags (w : Wave) (sb : Bool) : (w.refill sb).tags = w.tags := by
  unfold Wave.refill; split
  · rfl
  · split
    · simp
    · split
      · simp
      · rfl
    · rfl
@[simp] theorem Wave.refill_sfr (w : Wave) (sb : Bool) : (w.refill sb).sfr = w.sfr := by
  unfold Wave.refill; split
  · rfl
  · split
    · simp
    · split
      · simp
      · rfl
    · rfl
@[simp] theorem Wave.refill_arrived (w : Wave) (sb : Bool) : (w.refill sb).arrived = w.arrived := by
  unfold Wave.refill; split
  · rfl
  · split
    · simp
    · split
      · simp
      · rfl
    · rfl
@[simp] theorem Wave.refill_region (w : Wave) (sb : Bool) : (w.refill sb).region = w.region := by
  unfold Wave.refill; split
  · rfl
  · split
    · simp
    · split
      · simp
      · rfl
    · rfl
@[simp] theorem Wave.refill_pend (w : Wave) (sb : Bool) : (w.refill sb).pend = w.pend := by
  unfold Wave.refill; split
  · rfl
  · split
    · simp
    · split
      · simp
      · rfl
    · rfl
@[simp] theorem Wave.refill_lost (w : Wave) (sb : Bool) : (w.refill sb).lost = w.lost := by
  unfold Wave.refill; split
  · rfl
  · split
    · simp
    · split
      · simp
      · rfl
    · rfl
@[simp] theorem Wave.refill_since (w : Wave) (sb : Bool) : (w.refill sb).since = w.since := by
  unfold Wave.refill; split
  · rfl
  · split
    · simp
    · split
      · simp
      · rfl
    · rfl
@[simp] theorem State.joinLoop_blocks (s : State) (w : Nat) (sb : Bool) (n : Nat) : (s.joinLoop w sb n).blocks = s.blocks := by
  induction n generalizing s with
  | zero => rfl
  | succ n ih => simp only [State.joinLoop, ih]; split <;> split <;> split <;> simp
@[simp] theorem State.joinWave_blocks (s : State) (w : Nat) (sb : Bool) : (s.joinWave w sb).blocks = s.blocks := by unfold State.joinWave; split <;> simp
@[simp] theorem State.joinLoop_launches (s : State) (w : Nat) (sb : Bool) (n : Nat) : (s.joinLoop w sb n).launches = s.launches := by
  induction n generalizing s with
  | zero => rfl
  | succ n ih => simp only [State.joinLoop, ih]; split <;> split <;> split <;> simp
@[simp] theorem State.joinWave_launches (s : State) (w : Nat) (sb : Bool) : (s.joinWave w sb).launches = s.launches := by unfold State.joinWave; split <;> simp
@[simp] theorem State.joinLoop_cores (s : State) (w : Nat) (sb : Bool) (n : Nat) : (s.joinLoop w sb n).cores = s.cores := by
  induction n generalizing s with
  | zero => rfl
  | succ n ih => simp only [State.joinLoop, ih]; split <;> split <;> split <;> simp
@[simp] theorem State.joinWave_cores (s : State) (w : Nat) (sb : Bool) : (s.joinWave w sb).cores = s.cores := by unfold State.joinWave; split <;> simp
@[simp] theorem State.joinLoop_mem (s : State) (w : Nat) (sb : Bool) (n : Nat) : (s.joinLoop w sb n).mem = s.mem := by
  induction n generalizing s with
  | zero => rfl
  | succ n ih => simp only [State.joinLoop, ih]; split <;> split <;> split <;> simp
@[simp] theorem State.joinWave_mem (s : State) (w : Nat) (sb : Bool) : (s.joinWave w sb).mem = s.mem := by unfold State.joinWave; split <;> simp
@[simp] theorem State.joinLoop_array (s : State) (w : Nat) (sb : Bool) (n : Nat) : (s.joinLoop w sb n).array = s.array := by
  induction n generalizing s with
  | zero => rfl
  | succ n ih => simp only [State.joinLoop, ih]; split <;> split <;> split <;> simp
@[simp] theorem State.joinWave_array (s : State) (w : Nat) (sb : Bool) : (s.joinWave w sb).array = s.array := by unfold State.joinWave; split <;> simp
@[simp] theorem State.joinLoop_hostMem (s : State) (w : Nat) (sb : Bool) (n : Nat) : (s.joinLoop w sb n).hostMem = s.hostMem := by
  induction n generalizing s with
  | zero => rfl
  | succ n ih => simp only [State.joinLoop, ih]; split <;> split <;> split <;> simp
@[simp] theorem State.joinWave_hostMem (s : State) (w : Nat) (sb : Bool) : (s.joinWave w sb).hostMem = s.hostMem := by unfold State.joinWave; split <;> simp
@[simp] theorem State.joinLoop_peerMem (s : State) (w : Nat) (sb : Bool) (n : Nat) : (s.joinLoop w sb n).peerMem = s.peerMem := by
  induction n generalizing s with
  | zero => rfl
  | succ n ih => simp only [State.joinLoop, ih]; split <;> split <;> split <;> simp
@[simp] theorem State.joinWave_peerMem (s : State) (w : Nat) (sb : Bool) : (s.joinWave w sb).peerMem = s.peerMem := by unfold State.joinWave; split <;> simp
@[simp] theorem State.joinLoop_registrant (s : State) (w : Nat) (sb : Bool) (n : Nat) : (s.joinLoop w sb n).registrant = s.registrant := by
  induction n generalizing s with
  | zero => rfl
  | succ n ih => simp only [State.joinLoop, ih]; split <;> split <;> split <;> simp
@[simp] theorem State.joinWave_registrant (s : State) (w : Nat) (sb : Bool) : (s.joinWave w sb).registrant = s.registrant := by unfold State.joinWave; split <;> simp
@[simp] theorem State.joinLoop_claims (s : State) (w : Nat) (sb : Bool) (n : Nat) : (s.joinLoop w sb n).claims = s.claims := by
  induction n generalizing s with
  | zero => rfl
  | succ n ih => simp only [State.joinLoop, ih]; split <;> split <;> split <;> simp
@[simp] theorem State.joinWave_claims (s : State) (w : Nat) (sb : Bool) : (s.joinWave w sb).claims = s.claims := by unfold State.joinWave; split <;> simp
@[simp] theorem State.joinLoop_cells (s : State) (w : Nat) (sb : Bool) (n : Nat) : (s.joinLoop w sb n).cells = s.cells := by
  induction n generalizing s with
  | zero => rfl
  | succ n ih => simp only [State.joinLoop, ih]; split <;> split <;> split <;> simp
@[simp] theorem State.joinWave_cells (s : State) (w : Nat) (sb : Bool) : (s.joinWave w sb).cells = s.cells := by unfold State.joinWave; split <;> simp
@[simp] theorem State.joinLoop_regions (s : State) (w : Nat) (sb : Bool) (n : Nat) : (s.joinLoop w sb n).regions = s.regions := by
  induction n generalizing s with
  | zero => rfl
  | succ n ih => simp only [State.joinLoop, ih]; split <;> split <;> split <;> simp
@[simp] theorem State.joinWave_regions (s : State) (w : Nat) (sb : Bool) : (s.joinWave w sb).regions = s.regions := by unfold State.joinWave; split <;> simp
@[simp] theorem State.joinLoop_rdc (s : State) (w : Nat) (sb : Bool) (n : Nat) : (s.joinLoop w sb n).rdc = s.rdc := by
  induction n generalizing s with
  | zero => rfl
  | succ n ih => simp only [State.joinLoop, ih]; split <;> split <;> split <;> simp
@[simp] theorem State.joinWave_rdc (s : State) (w : Nat) (sb : Bool) : (s.joinWave w sb).rdc = s.rdc := by unfold State.joinWave; split <;> simp
@[simp] theorem State.joinLoop_l2 (s : State) (w : Nat) (sb : Bool) (n : Nat) : (s.joinLoop w sb n).l2 = s.l2 := by
  induction n generalizing s with
  | zero => rfl
  | succ n ih => simp only [State.joinLoop, ih]; split <;> split <;> split <;> simp
@[simp] theorem State.joinWave_l2 (s : State) (w : Nat) (sb : Bool) : (s.joinWave w sb).l2 = s.l2 := by unfold State.joinWave; split <;> simp
@[simp] theorem State.joinLoop_msc (s : State) (w : Nat) (sb : Bool) (n : Nat) : (s.joinLoop w sb n).msc = s.msc := by
  induction n generalizing s with
  | zero => rfl
  | succ n ih => simp only [State.joinLoop, ih]; split <;> split <;> split <;> simp
@[simp] theorem State.joinWave_msc (s : State) (w : Nat) (sb : Bool) : (s.joinWave w sb).msc = s.msc := by unfold State.joinWave; split <;> simp
@[simp] theorem State.joinLoop_stacks (s : State) (w : Nat) (sb : Bool) (n : Nat) : (s.joinLoop w sb n).hbms = s.hbms := by
  induction n generalizing s with
  | zero => rfl
  | succ n ih => simp only [State.joinLoop, ih]; split <;> split <;> split <;> simp
@[simp] theorem State.joinWave_stacks (s : State) (w : Nat) (sb : Bool) : (s.joinWave w sb).hbms = s.hbms := by unfold State.joinWave; split <;> simp
@[simp] theorem State.joinLoop_bad (s : State) (w : Nat) (sb : Bool) (n : Nat) : (s.joinLoop w sb n).bad = s.bad := by
  induction n generalizing s with
  | zero => rfl
  | succ n ih => simp only [State.joinLoop, ih]; split <;> split <;> split <;> simp
@[simp] theorem State.joinLoop_weak (s : State) (w : Nat) (sb : Bool) (n : Nat) : (s.joinLoop w sb n).weak = s.weak := by
  induction n generalizing s with
  | zero => rfl
  | succ n ih => simp only [State.joinLoop, ih]; split <;> split <;> split <;> simp
@[simp] theorem State.joinLoop_lost (s : State) (w : Nat) (sb : Bool) (n : Nat) : (s.joinLoop w sb n).lost = s.lost := by
  induction n generalizing s with
  | zero => rfl
  | succ n ih => simp only [State.joinLoop, ih]; split <;> split <;> split <;> simp
@[simp] theorem State.joinLoop_hostLines (s : State) (w : Nat) (sb : Bool) (n : Nat) : (s.joinLoop w sb n).hostLines = s.hostLines := by
  induction n generalizing s with
  | zero => rfl
  | succ n ih => simp only [State.joinLoop, ih]; split <;> split <;> split <;> simp
@[simp] theorem State.joinWave_bad (s : State) (w : Nat) (sb : Bool) : (s.joinWave w sb).bad = s.bad := by unfold State.joinWave; split <;> simp
@[simp] theorem State.joinWave_weak (s : State) (w : Nat) (sb : Bool) : (s.joinWave w sb).weak = s.weak := by unfold State.joinWave; split <;> simp
@[simp] theorem State.joinWave_lost (s : State) (w : Nat) (sb : Bool) : (s.joinWave w sb).lost = s.lost := by unfold State.joinWave; split <;> simp
@[simp] theorem State.joinWave_hostLines (s : State) (w : Nat) (sb : Bool) : (s.joinWave w sb).hostLines = s.hostLines := by unfold State.joinWave; split <;> simp
@[simp] theorem State.joinLoop_tlb (s : State) (w : Nat) (sb : Bool) (n : Nat) : (s.joinLoop w sb n).tlb = s.tlb := by
  induction n generalizing s with
  | zero => rfl
  | succ n ih => simp only [State.joinLoop, ih]; split <;> split <;> split <;> simp
@[simp] theorem State.joinWave_tlb (s : State) (w : Nat) (sb : Bool) : (s.joinWave w sb).tlb = s.tlb := by unfold State.joinWave; split <;> simp
@[simp] theorem State.joinLoop_accs (s : State) (w : Nat) (sb : Bool) (n : Nat) : (s.joinLoop w sb n).accs = s.accs := by
  induction n generalizing s with
  | zero => rfl
  | succ n ih => simp only [State.joinLoop, ih]; split <;> split <;> split <;> simp
@[simp] theorem State.joinWave_accs (s : State) (w : Nat) (sb : Bool) : (s.joinWave w sb).accs = s.accs := by unfold State.joinWave; split <;> simp
@[simp] theorem State.joinLoop_net (s : State) (w : Nat) (sb : Bool) (n : Nat) : (s.joinLoop w sb n).net = s.net := by
  induction n generalizing s with
  | zero => rfl
  | succ n ih => simp only [State.joinLoop, ih]; split <;> split <;> split <;> simp
@[simp] theorem State.joinWave_net (s : State) (w : Nat) (sb : Bool) : (s.joinWave w sb).net = s.net := by unfold State.joinWave; split <;> simp
@[simp] theorem State.joinLoop_abufs (s : State) (w : Nat) (sb : Bool) (n : Nat) : (s.joinLoop w sb n).abufs = s.abufs := by
  induction n generalizing s with
  | zero => rfl
  | succ n ih => simp only [State.joinLoop, ih]; split <;> split <;> split <;> simp
@[simp] theorem State.joinWave_abufs (s : State) (w : Nat) (sb : Bool) : (s.joinWave w sb).abufs = s.abufs := by unfold State.joinWave; split <;> simp
@[simp] theorem State.joinLoop_jobs (s : State) (w : Nat) (sb : Bool) (n : Nat) : (s.joinLoop w sb n).jobs = s.jobs := by
  induction n generalizing s with
  | zero => rfl
  | succ n ih => simp only [State.joinLoop, ih]; split <;> split <;> split <;> simp
@[simp] theorem State.joinWave_jobs (s : State) (w : Nat) (sb : Bool) : (s.joinWave w sb).jobs = s.jobs := by unfold State.joinWave; split <;> simp
@[simp] theorem State.joinLoop_feet (s : State) (w : Nat) (sb : Bool) (n : Nat) : (s.joinLoop w sb n).feet = s.feet := by
  induction n generalizing s with
  | zero => rfl
  | succ n ih => simp only [State.joinLoop, ih]; split <;> split <;> split <;> simp
@[simp] theorem State.joinWave_feet (s : State) (w : Nat) (sb : Bool) : (s.joinWave w sb).feet = s.feet := by unfold State.joinWave; split <;> simp
@[simp] theorem State.joinLoop_shapes (s : State) (w : Nat) (sb : Bool) (n : Nat) : (s.joinLoop w sb n).shapes = s.shapes := by
  induction n generalizing s with
  | zero => rfl
  | succ n ih => simp only [State.joinLoop, ih]; split <;> split <;> split <;> simp
@[simp] theorem State.joinWave_shapes (s : State) (w : Nat) (sb : Bool) : (s.joinWave w sb).shapes = s.shapes := by unfold State.joinWave; split <;> simp
@[simp] theorem State.joinLoop_eqs (s : State) (w : Nat) (sb : Bool) (n : Nat) : (s.joinLoop w sb n).eqs = s.eqs := by
  induction n generalizing s with
  | zero => rfl
  | succ n ih => simp only [State.joinLoop, ih]; split <;> split <;> split <;> simp
@[simp] theorem State.joinWave_eqs (s : State) (w : Nat) (sb : Bool) : (s.joinWave w sb).eqs = s.eqs := by unfold State.joinWave; split <;> simp
@[simp] theorem State.joinLoop_insts (s : State) (w : Nat) (sb : Bool) (n : Nat) : (s.joinLoop w sb n).insts = s.insts := by
  induction n generalizing s with
  | zero => rfl
  | succ n ih => simp only [State.joinLoop, ih]; split <;> split <;> split <;> simp
@[simp] theorem State.joinWave_insts (s : State) (w : Nat) (sb : Bool) : (s.joinWave w sb).insts = s.insts := by unfold State.joinWave; split <;> simp
@[simp] theorem State.joinLoop_links (s : State) (w : Nat) (sb : Bool) (n : Nat) : (s.joinLoop w sb n).links = s.links := by
  induction n generalizing s with
  | zero => rfl
  | succ n ih => simp only [State.joinLoop, ih]; split <;> split <;> split <;> simp
@[simp] theorem State.joinWave_links (s : State) (w : Nat) (sb : Bool) : (s.joinWave w sb).links = s.links := by unfold State.joinWave; split <;> simp
@[simp] theorem State.joinLoop_hostAccs (s : State) (w : Nat) (sb : Bool) (n : Nat) : (s.joinLoop w sb n).hostAccs = s.hostAccs := by
  induction n generalizing s with
  | zero => rfl
  | succ n ih => simp only [State.joinLoop, ih]; split <;> split <;> split <;> simp
@[simp] theorem State.joinWave_hostAccs (s : State) (w : Nat) (sb : Bool) : (s.joinWave w sb).hostAccs = s.hostAccs := by unfold State.joinWave; split <;> simp
@[simp] theorem State.joinLoop_mgmt (s : State) (w : Nat) (sb : Bool) (n : Nat) : (s.joinLoop w sb n).mgmt = s.mgmt := by
  induction n generalizing s with
  | zero => rfl
  | succ n ih => simp only [State.joinLoop, ih]; split <;> split <;> split <;> simp
@[simp] theorem State.joinWave_mgmt (s : State) (w : Nat) (sb : Bool) : (s.joinWave w sb).mgmt = s.mgmt := by unfold State.joinWave; split <;> simp
@[simp] theorem State.joinLoop_focus (s : State) (w : Nat) (sb : Bool) (n : Nat) : (s.joinLoop w sb n).focus = s.focus := by
  induction n generalizing s with
  | zero => rfl
  | succ n ih => simp only [State.joinLoop, ih]; split <;> split <;> split <;> simp
@[simp] theorem State.joinWave_focus (s : State) (w : Nat) (sb : Bool) : (s.joinWave w sb).focus = s.focus := by unfold State.joinWave; split <;> simp
@[simp] theorem State.joinLoop_agenda (s : State) (w : Nat) (sb : Bool) (n : Nat) : (s.joinLoop w sb n).agenda = s.agenda := by
  induction n generalizing s with
  | zero => rfl
  | succ n ih => simp only [State.joinLoop, ih]; split <;> split <;> split <;> simp
@[simp] theorem State.joinWave_agenda (s : State) (w : Nat) (sb : Bool) : (s.joinWave w sb).agenda = s.agenda := by unfold State.joinWave; split <;> simp
@[simp] theorem State.joinLoop_seq (s : State) (w : Nat) (sb : Bool) (n : Nat) : (s.joinLoop w sb n).seq = s.seq := by
  induction n generalizing s with
  | zero => rfl
  | succ n ih => simp only [State.joinLoop, ih]; split <;> split <;> split <;> simp
@[simp] theorem State.joinWave_seq (s : State) (w : Nat) (sb : Bool) : (s.joinWave w sb).seq = s.seq := by unfold State.joinWave; split <;> simp
@[simp] theorem State.joinLoop_wave_block (s : State) (w : Nat) (sb : Bool) (n k : Nat) : ((s.joinLoop w sb n).wave k).block = (s.wave k).block := by
  induction n generalizing s with
  | zero => rfl
  | succ n ih =>
    simp only [State.joinLoop, ih]
    split <;> split <;> split <;> simp only [State.updWave_at] <;> (repeat' split) <;> simp
@[simp] theorem State.joinWave_wave_block (s : State) (w : Nat) (sb : Bool) (k : Nat) : ((s.joinWave w sb).wave k).block = (s.wave k).block := by unfold State.joinWave; split <;> simp
@[simp] theorem State.joinLoop_wave_idx (s : State) (w : Nat) (sb : Bool) (n k : Nat) : ((s.joinLoop w sb n).wave k).idx = (s.wave k).idx := by
  induction n generalizing s with
  | zero => rfl
  | succ n ih =>
    simp only [State.joinLoop, ih]
    split <;> split <;> split <;> simp only [State.updWave_at] <;> (repeat' split) <;> simp
@[simp] theorem State.joinWave_wave_idx (s : State) (w : Nat) (sb : Bool) (k : Nat) : ((s.joinWave w sb).wave k).idx = (s.wave k).idx := by unfold State.joinWave; split <;> simp
@[simp] theorem State.joinLoop_wave_exited (s : State) (w : Nat) (sb : Bool) (n k : Nat) : ((s.joinLoop w sb n).wave k).exited = (s.wave k).exited := by
  induction n generalizing s with
  | zero => rfl
  | succ n ih =>
    simp only [State.joinLoop, ih]
    split <;> split <;> split <;> simp only [State.updWave_at] <;> (repeat' split) <;> simp
@[simp] theorem State.joinWave_wave_exited (s : State) (w : Nat) (sb : Bool) (k : Nat) : ((s.joinWave w sb).wave k).exited = (s.wave k).exited := by unfold State.joinWave; split <;> simp
@[simp] theorem State.joinLoop_wave_launchMask (s : State) (w : Nat) (sb : Bool) (n k : Nat) : ((s.joinLoop w sb n).wave k).launchMask = (s.wave k).launchMask := by
  induction n generalizing s with
  | zero => rfl
  | succ n ih =>
    simp only [State.joinLoop, ih]
    split <;> split <;> split <;> simp only [State.updWave_at] <;> (repeat' split) <;> simp
@[simp] theorem State.joinWave_wave_launchMask (s : State) (w : Nat) (sb : Bool) (k : Nat) : ((s.joinWave w sb).wave k).launchMask = (s.wave k).launchMask := by unfold State.joinWave; split <;> simp
@[simp] theorem State.joinLoop_wave_pad (s : State) (w : Nat) (sb : Bool) (n k : Nat) : ((s.joinLoop w sb n).wave k).pad = (s.wave k).pad := by
  induction n generalizing s with
  | zero => rfl
  | succ n ih =>
    simp only [State.joinLoop, ih]
    split <;> split <;> split <;> simp only [State.updWave_at] <;> (repeat' split) <;> simp
@[simp] theorem State.joinWave_wave_pad (s : State) (w : Nat) (sb : Bool) (k : Nat) : ((s.joinWave w sb).wave k).pad = (s.wave k).pad := by unfold State.joinWave; split <;> simp
@[simp] theorem State.joinLoop_wave_sregs (s : State) (w : Nat) (sb : Bool) (n k : Nat) : ((s.joinLoop w sb n).wave k).sregs = (s.wave k).sregs := by
  induction n generalizing s with
  | zero => rfl
  | succ n ih =>
    simp only [State.joinLoop, ih]
    split <;> split <;> split <;> simp only [State.updWave_at] <;> (repeat' split) <;> simp
@[simp] theorem State.joinWave_wave_sregs (s : State) (w : Nat) (sb : Bool) (k : Nat) : ((s.joinWave w sb).wave k).sregs = (s.wave k).sregs := by unfold State.joinWave; split <;> simp
@[simp] theorem State.joinLoop_wave_vregs (s : State) (w : Nat) (sb : Bool) (n k : Nat) : ((s.joinLoop w sb n).wave k).vregs = (s.wave k).vregs := by
  induction n generalizing s with
  | zero => rfl
  | succ n ih =>
    simp only [State.joinLoop, ih]
    split <;> split <;> split <;> simp only [State.updWave_at] <;> (repeat' split) <;> simp
@[simp] theorem State.joinWave_wave_vregs (s : State) (w : Nat) (sb : Bool) (k : Nat) : ((s.joinWave w sb).wave k).vregs = (s.wave k).vregs := by unfold State.joinWave; split <;> simp
@[simp] theorem State.joinLoop_wave_pregs (s : State) (w : Nat) (sb : Bool) (n k : Nat) : ((s.joinLoop w sb n).wave k).pregs = (s.wave k).pregs := by
  induction n generalizing s with
  | zero => rfl
  | succ n ih =>
    simp only [State.joinLoop, ih]
    split <;> split <;> split <;> simp only [State.updWave_at] <;> (repeat' split) <;> simp
@[simp] theorem State.joinWave_wave_pregs (s : State) (w : Nat) (sb : Bool) (k : Nat) : ((s.joinWave w sb).wave k).pregs = (s.wave k).pregs := by unfold State.joinWave; split <;> simp
@[simp] theorem State.joinLoop_wave_lastB (s : State) (w : Nat) (sb : Bool) (n k : Nat) : ((s.joinLoop w sb n).wave k).lastB = (s.wave k).lastB := by
  induction n generalizing s with
  | zero => rfl
  | succ n ih =>
    simp only [State.joinLoop, ih]
    split <;> split <;> split <;> simp only [State.updWave_at] <;> (repeat' split) <;> simp
@[simp] theorem State.joinWave_wave_lastB (s : State) (w : Nat) (sb : Bool) (k : Nat) : ((s.joinWave w sb).wave k).lastB = (s.wave k).lastB := by unfold State.joinWave; split <;> simp
@[simp] theorem State.joinLoop_wave_handler (s : State) (w : Nat) (sb : Bool) (n k : Nat) : ((s.joinLoop w sb n).wave k).handler = (s.wave k).handler := by
  induction n generalizing s with
  | zero => rfl
  | succ n ih =>
    simp only [State.joinLoop, ih]
    split <;> split <;> split <;> simp only [State.updWave_at] <;> (repeat' split) <;> simp
@[simp] theorem State.joinWave_wave_handler (s : State) (w : Nat) (sb : Bool) (k : Nat) : ((s.joinWave w sb).wave k).handler = (s.wave k).handler := by unfold State.joinWave; split <;> simp
@[simp] theorem State.joinLoop_wave_xpc (s : State) (w : Nat) (sb : Bool) (n k : Nat) : ((s.joinLoop w sb n).wave k).xpc = (s.wave k).xpc := by
  induction n generalizing s with
  | zero => rfl
  | succ n ih =>
    simp only [State.joinLoop, ih]
    split <;> split <;> split <;> simp only [State.updWave_at] <;> (repeat' split) <;> simp
@[simp] theorem State.joinWave_wave_xpc (s : State) (w : Nat) (sb : Bool) (k : Nat) : ((s.joinWave w sb).wave k).xpc = (s.wave k).xpc := by unfold State.joinWave; split <;> simp
@[simp] theorem State.joinLoop_wave_xmode (s : State) (w : Nat) (sb : Bool) (n k : Nat) : ((s.joinLoop w sb n).wave k).xmode = (s.wave k).xmode := by
  induction n generalizing s with
  | zero => rfl
  | succ n ih =>
    simp only [State.joinLoop, ih]
    split <;> split <;> split <;> simp only [State.updWave_at] <;> (repeat' split) <;> simp
@[simp] theorem State.joinWave_wave_xmode (s : State) (w : Nat) (sb : Bool) (k : Nat) : ((s.joinWave w sb).wave k).xmode = (s.wave k).xmode := by unfold State.joinWave; split <;> simp
@[simp] theorem State.joinLoop_wave_xcause (s : State) (w : Nat) (sb : Bool) (n k : Nat) : ((s.joinLoop w sb n).wave k).xcause = (s.wave k).xcause := by
  induction n generalizing s with
  | zero => rfl
  | succ n ih =>
    simp only [State.joinLoop, ih]
    split <;> split <;> split <;> simp only [State.updWave_at] <;> (repeat' split) <;> simp
@[simp] theorem State.joinWave_wave_xcause (s : State) (w : Nat) (sb : Bool) (k : Nat) : ((s.joinWave w sb).wave k).xcause = (s.wave k).xcause := by unfold State.joinWave; split <;> simp
@[simp] theorem State.joinLoop_wave_xlanes (s : State) (w : Nat) (sb : Bool) (n k : Nat) : ((s.joinLoop w sb n).wave k).xlanes = (s.wave k).xlanes := by
  induction n generalizing s with
  | zero => rfl
  | succ n ih =>
    simp only [State.joinLoop, ih]
    split <;> split <;> split <;> simp only [State.updWave_at] <;> (repeat' split) <;> simp
@[simp] theorem State.joinWave_wave_xlanes (s : State) (w : Nat) (sb : Bool) (k : Nat) : ((s.joinWave w sb).wave k).xlanes = (s.wave k).xlanes := by unfold State.joinWave; split <;> simp
@[simp] theorem State.joinLoop_wave_xaddr (s : State) (w : Nat) (sb : Bool) (n k : Nat) : ((s.joinLoop w sb n).wave k).xaddr = (s.wave k).xaddr := by
  induction n generalizing s with
  | zero => rfl
  | succ n ih =>
    simp only [State.joinLoop, ih]
    split <;> split <;> split <;> simp only [State.updWave_at] <;> (repeat' split) <;> simp
@[simp] theorem State.joinWave_wave_xaddr (s : State) (w : Nat) (sb : Bool) (k : Nat) : ((s.joinWave w sb).wave k).xaddr = (s.wave k).xaddr := by unfold State.joinWave; split <;> simp
@[simp] theorem State.joinLoop_wave_gexposed (s : State) (w : Nat) (sb : Bool) (n k : Nat) : ((s.joinLoop w sb n).wave k).gexposed = (s.wave k).gexposed := by
  induction n generalizing s with
  | zero => rfl
  | succ n ih =>
    simp only [State.joinLoop, ih]
    split <;> split <;> split <;> simp only [State.updWave_at] <;> (repeat' split) <;> simp
@[simp] theorem State.joinLoop_wave_jobs (s : State) (w : Nat) (sb : Bool) (n k : Nat) : ((s.joinLoop w sb n).wave k).jobs = (s.wave k).jobs := by
  induction n generalizing s with
  | zero => rfl
  | succ n ih =>
    simp only [State.joinLoop, ih]
    split <;> split <;> split <;> simp only [State.updWave_at] <;> (repeat' split) <;> simp
@[simp] theorem State.joinLoop_wave_left (s : State) (w : Nat) (sb : Bool) (n k : Nat) : ((s.joinLoop w sb n).wave k).left = (s.wave k).left := by
  induction n generalizing s with
  | zero => rfl
  | succ n ih =>
    simp only [State.joinLoop, ih]
    split <;> split <;> split <;> simp only [State.updWave_at] <;> (repeat' split) <;> simp
@[simp] theorem State.joinWave_wave_gexposed (s : State) (w : Nat) (sb : Bool) (k : Nat) : ((s.joinWave w sb).wave k).gexposed = (s.wave k).gexposed := by unfold State.joinWave; split <;> simp
@[simp] theorem State.joinWave_wave_jobs (s : State) (w : Nat) (sb : Bool) (k : Nat) : ((s.joinWave w sb).wave k).jobs = (s.wave k).jobs := by unfold State.joinWave; split <;> simp
@[simp] theorem State.joinWave_wave_left (s : State) (w : Nat) (sb : Bool) (k : Nat) : ((s.joinWave w sb).wave k).left = (s.wave k).left := by unfold State.joinWave; split <;> simp
@[simp] theorem State.joinLoop_wave_mm (s : State) (w : Nat) (sb : Bool) (n k : Nat) : ((s.joinLoop w sb n).wave k).mm = (s.wave k).mm := by
  induction n generalizing s with
  | zero => rfl
  | succ n ih =>
    simp only [State.joinLoop, ih]
    split <;> split <;> split <;> simp only [State.updWave_at] <;> (repeat' split) <;> simp
@[simp] theorem State.joinWave_wave_mm (s : State) (w : Nat) (sb : Bool) (k : Nat) : ((s.joinWave w sb).wave k).mm = (s.wave k).mm := by unfold State.joinWave; split <;> simp
@[simp] theorem State.joinLoop_wave_epoch (s : State) (w : Nat) (sb : Bool) (n k : Nat) : ((s.joinLoop w sb n).wave k).epoch = (s.wave k).epoch := by
  induction n generalizing s with
  | zero => rfl
  | succ n ih =>
    simp only [State.joinLoop, ih]
    split <;> split <;> split <;> simp only [State.updWave_at] <;> (repeat' split) <;> simp
@[simp] theorem State.joinWave_wave_epoch (s : State) (w : Nat) (sb : Bool) (k : Nat) : ((s.joinWave w sb).wave k).epoch = (s.wave k).epoch := by unfold State.joinWave; split <;> simp
@[simp] theorem State.joinLoop_wave_tags (s : State) (w : Nat) (sb : Bool) (n k : Nat) : ((s.joinLoop w sb n).wave k).tags = (s.wave k).tags := by
  induction n generalizing s with
  | zero => rfl
  | succ n ih =>
    simp only [State.joinLoop, ih]
    split <;> split <;> split <;> simp only [State.updWave_at] <;> (repeat' split) <;> simp
@[simp] theorem State.joinWave_wave_tags (s : State) (w : Nat) (sb : Bool) (k : Nat) : ((s.joinWave w sb).wave k).tags = (s.wave k).tags := by unfold State.joinWave; split <;> simp
@[simp] theorem State.joinLoop_wave_sfr (s : State) (w : Nat) (sb : Bool) (n k : Nat) : ((s.joinLoop w sb n).wave k).sfr = (s.wave k).sfr := by
  induction n generalizing s with
  | zero => rfl
  | succ n ih =>
    simp only [State.joinLoop, ih]
    split <;> split <;> split <;> simp only [State.updWave_at] <;> (repeat' split) <;> simp
@[simp] theorem State.joinWave_wave_sfr (s : State) (w : Nat) (sb : Bool) (k : Nat) : ((s.joinWave w sb).wave k).sfr = (s.wave k).sfr := by unfold State.joinWave; split <;> simp
@[simp] theorem State.joinLoop_wave_arrived (s : State) (w : Nat) (sb : Bool) (n k : Nat) : ((s.joinLoop w sb n).wave k).arrived = (s.wave k).arrived := by
  induction n generalizing s with
  | zero => rfl
  | succ n ih =>
    simp only [State.joinLoop, ih]
    split <;> split <;> split <;> simp only [State.updWave_at] <;> (repeat' split) <;> simp
@[simp] theorem State.joinWave_wave_arrived (s : State) (w : Nat) (sb : Bool) (k : Nat) : ((s.joinWave w sb).wave k).arrived = (s.wave k).arrived := by unfold State.joinWave; split <;> simp
@[simp] theorem State.joinLoop_wave_region (s : State) (w : Nat) (sb : Bool) (n k : Nat) : ((s.joinLoop w sb n).wave k).region = (s.wave k).region := by
  induction n generalizing s with
  | zero => rfl
  | succ n ih =>
    simp only [State.joinLoop, ih]
    split <;> split <;> split <;> simp only [State.updWave_at] <;> (repeat' split) <;> simp
@[simp] theorem State.joinWave_wave_region (s : State) (w : Nat) (sb : Bool) (k : Nat) : ((s.joinWave w sb).wave k).region = (s.wave k).region := by unfold State.joinWave; split <;> simp
@[simp] theorem State.joinLoop_wave_pend (s : State) (w : Nat) (sb : Bool) (n k : Nat) : ((s.joinLoop w sb n).wave k).pend = (s.wave k).pend := by
  induction n generalizing s with
  | zero => rfl
  | succ n ih =>
    simp only [State.joinLoop, ih]
    split <;> split <;> split <;> simp only [State.updWave_at] <;> (repeat' split) <;> simp
@[simp] theorem State.joinWave_wave_pend (s : State) (w : Nat) (sb : Bool) (k : Nat) : ((s.joinWave w sb).wave k).pend = (s.wave k).pend := by unfold State.joinWave; split <;> simp
@[simp] theorem State.joinLoop_wave_lost (s : State) (w : Nat) (sb : Bool) (n k : Nat) : ((s.joinLoop w sb n).wave k).lost = (s.wave k).lost := by
  induction n generalizing s with
  | zero => rfl
  | succ n ih =>
    simp only [State.joinLoop, ih]
    split <;> split <;> split <;> simp only [State.updWave_at] <;> (repeat' split) <;> simp
@[simp] theorem State.joinWave_wave_lost (s : State) (w : Nat) (sb : Bool) (k : Nat) : ((s.joinWave w sb).wave k).lost = (s.wave k).lost := by unfold State.joinWave; split <;> simp
@[simp] theorem State.joinLoop_wave_since (s : State) (w : Nat) (sb : Bool) (n k : Nat) : ((s.joinLoop w sb n).wave k).since = (s.wave k).since := by
  induction n generalizing s with
  | zero => rfl
  | succ n ih =>
    simp only [State.joinLoop, ih]
    split <;> split <;> split <;> simp only [State.updWave_at] <;> (repeat' split) <;> simp
@[simp] theorem State.joinWave_wave_since (s : State) (w : Nat) (sb : Bool) (k : Nat) : ((s.joinWave w sb).wave k).since = (s.wave k).since := by unfold State.joinWave; split <;> simp
/-! ### complete -/

/-! ### charged -/

@[simp] theorem State.charged_waves (s : State) (t : Traits) : (s.charged t).waves = s.waves := by
  unfold State.charged; split <;> simp
@[simp] theorem State.charged_launches (s : State) (t : Traits) : (s.charged t).launches = s.launches := by
  unfold State.charged; split <;> simp
@[simp] theorem State.charged_mem (s : State) (t : Traits) : (s.charged t).mem = s.mem := by
  unfold State.charged; split <;> simp
@[simp] theorem State.charged_array (s : State) (t : Traits) : (s.charged t).array = s.array := by
  unfold State.charged; split <;> simp
@[simp] theorem State.charged_hostMem (s : State) (t : Traits) : (s.charged t).hostMem = s.hostMem := by
  unfold State.charged; split <;> simp
@[simp] theorem State.charged_peerMem (s : State) (t : Traits) : (s.charged t).peerMem = s.peerMem := by
  unfold State.charged; split <;> simp
@[simp] theorem State.charged_registrant (s : State) (t : Traits) : (s.charged t).registrant = s.registrant := by
  unfold State.charged; split <;> simp
@[simp] theorem State.charged_claims (s : State) (t : Traits) : (s.charged t).claims = s.claims := by
  unfold State.charged; split <;> simp
@[simp] theorem State.charged_cells (s : State) (t : Traits) : (s.charged t).cells = s.cells := by
  unfold State.charged; split <;> simp
@[simp] theorem State.charged_regions (s : State) (t : Traits) : (s.charged t).regions = s.regions := by
  unfold State.charged; split <;> simp
@[simp] theorem State.charged_rdc (s : State) (t : Traits) : (s.charged t).rdc = s.rdc := by
  unfold State.charged; split <;> simp
@[simp] theorem State.charged_l2 (s : State) (t : Traits) : (s.charged t).l2 = s.l2 := by
  unfold State.charged; split <;> simp
@[simp] theorem State.charged_msc (s : State) (t : Traits) : (s.charged t).msc = s.msc := by
  unfold State.charged; split <;> simp
@[simp] theorem State.charged_stacks (s : State) (t : Traits) : (s.charged t).hbms = s.hbms := by
  unfold State.charged; split <;> simp
@[simp] theorem State.charged_bad (s : State) (t : Traits) : (s.charged t).bad = s.bad := by
  unfold State.charged; split <;> simp
@[simp] theorem State.charged_weak (s : State) (t : Traits) : (s.charged t).weak = s.weak := by
  unfold State.charged; split <;> simp
@[simp] theorem State.charged_lost (s : State) (t : Traits) : (s.charged t).lost = s.lost := by
  unfold State.charged; split <;> simp
@[simp] theorem State.charged_hostLines (s : State) (t : Traits) : (s.charged t).hostLines = s.hostLines := by
  unfold State.charged; split <;> simp
@[simp] theorem State.charged_tlb (s : State) (t : Traits) : (s.charged t).tlb = s.tlb := by
  unfold State.charged; split <;> simp
@[simp] theorem State.charged_accs (s : State) (t : Traits) : (s.charged t).accs = s.accs := by
  unfold State.charged; split <;> simp
@[simp] theorem State.charged_net (s : State) (t : Traits) : (s.charged t).net = s.net := by
  unfold State.charged; split <;> simp
@[simp] theorem State.charged_abufs (s : State) (t : Traits) : (s.charged t).abufs = s.abufs := by
  unfold State.charged; split <;> simp
@[simp] theorem State.charged_jobs (s : State) (t : Traits) : (s.charged t).jobs = s.jobs := by
  unfold State.charged; split <;> simp
@[simp] theorem State.charged_feet (s : State) (t : Traits) : (s.charged t).feet = s.feet := by
  unfold State.charged; split <;> simp
@[simp] theorem State.charged_shapes (s : State) (t : Traits) : (s.charged t).shapes = s.shapes := by
  unfold State.charged; split <;> simp
@[simp] theorem State.charged_eqs (s : State) (t : Traits) : (s.charged t).eqs = s.eqs := by
  unfold State.charged; split <;> simp
@[simp] theorem State.charged_insts (s : State) (t : Traits) : (s.charged t).insts = s.insts := by
  unfold State.charged; split <;> simp
@[simp] theorem State.charged_links (s : State) (t : Traits) : (s.charged t).links = s.links := by
  unfold State.charged; split <;> simp
@[simp] theorem State.charged_hostAccs (s : State) (t : Traits) : (s.charged t).hostAccs = s.hostAccs := by
  unfold State.charged; split <;> simp
@[simp] theorem State.charged_mgmt (s : State) (t : Traits) : (s.charged t).mgmt = s.mgmt := by
  unfold State.charged; split <;> simp
@[simp] theorem State.charged_focus (s : State) (t : Traits) : (s.charged t).focus = s.focus := by
  unfold State.charged; split <;> simp
@[simp] theorem State.charged_agenda (s : State) (t : Traits) : (s.charged t).agenda = s.agenda := by
  unfold State.charged; split <;> simp
@[simp] theorem State.charged_seq (s : State) (t : Traits) : (s.charged t).seq = s.seq := by
  unfold State.charged; split <;> simp
@[simp] theorem State.charged_wave (s : State) (t : Traits) (w : Nat) : (s.charged t).wave w = s.wave w := by
  unfold State.charged; split <;> simp
@[simp] theorem State.charged_block_launch (s : State) (t : Traits) (k : Nat) : ((s.charged t).block k).launch = (s.block k).launch := by
  unfold State.charged; split <;> simp
@[simp] theorem State.charged_block_idx (s : State) (t : Traits) (k : Nat) : ((s.charged t).block k).idx = (s.block k).idx := by
  unfold State.charged; split <;> simp
@[simp] theorem State.charged_block_st (s : State) (t : Traits) (k : Nat) : ((s.charged t).block k).st = (s.block k).st := by
  unfold State.charged; split <;> simp
@[simp] theorem State.charged_block_lcore (s : State) (t : Traits) (k : Nat) : ((s.charged t).block k).lcore = (s.block k).lcore := by
  unfold State.charged; split <;> simp
@[simp] theorem State.charged_block_pcore (s : State) (t : Traits) (k : Nat) : ((s.charged t).block k).pcore = (s.block k).pcore := by
  unfold State.charged; split <;> simp
@[simp] theorem State.charged_block_frame (s : State) (t : Traits) (k : Nat) : ((s.charged t).block k).frame = (s.block k).frame := by
  unfold State.charged; split <;> simp
@[simp] theorem State.charged_block_waves (s : State) (t : Traits) (k : Nat) : ((s.charged t).block k).waves = (s.block k).waves := by
  unfold State.charged; split <;> simp
@[simp] theorem State.charged_block_pageWait (s : State) (t : Traits) (k : Nat) : ((s.charged t).block k).pageWait = (s.block k).pageWait := by
  unfold State.charged; split <;> simp
@[simp] theorem State.charged_block_scratch (s : State) (t : Traits) (k : Nat) : ((s.charged t).block k).scratch = (s.block k).scratch := by
  unfold State.charged; split <;> simp
@[simp] theorem State.charged_block_sclaims (s : State) (t : Traits) (k : Nat) : ((s.charged t).block k).sclaims = (s.block k).sclaims := by
  unfold State.charged; split <;> simp
@[simp] theorem State.charged_block_lim (s : State) (t : Traits) (k : Nat) : ((s.charged t).block k).lim = (s.block k).lim := by
  unfold State.charged; split <;> simp
@[simp] theorem State.charged_block_flights (s : State) (t : Traits) (k : Nat) : ((s.charged t).block k).flights = (s.block k).flights := by
  unfold State.charged; split <;> simp
@[simp] theorem State.charged_block_tabs (s : State) (t : Traits) (k : Nat) : ((s.charged t).block k).tabs = (s.block k).tabs := by
  unfold State.charged; split <;> simp
@[simp] theorem State.charged_block_accs (s : State) (t : Traits) (k : Nat) : ((s.charged t).block k).accs = (s.block k).accs := by
  unfold State.charged; split <;> simp
@[simp] theorem State.charged_block_feeds (s : State) (t : Traits) (k : Nat) : ((s.charged t).block k).feeds = (s.block k).feeds := by
  unfold State.charged; split <;> simp
@[simp] theorem State.charged_block_preds (s : State) (t : Traits) (k : Nat) : ((s.charged t).block k).preds = (s.block k).preds := by
  unfold State.charged; split <;> simp
@[simp] theorem State.charged_block_streams (s : State) (t : Traits) (k : Nat) : ((s.charged t).block k).streams = (s.block k).streams := by
  unfold State.charged; split <;> simp
@[simp] theorem State.charged_block_sketch (s : State) (t : Traits) (k : Nat) : ((s.charged t).block k).sketch = (s.block k).sketch := by
  unfold State.charged; split <;> simp
@[simp] theorem State.charged_block_seqq (s : State) (t : Traits) (k : Nat) : ((s.charged t).block k).seqq = (s.block k).seqq := by
  unfold State.charged; split <;> simp
@[simp] theorem State.charged_block_bars (s : State) (t : Traits) (k : Nat) : ((s.charged t).block k).bars = (s.block k).bars := by
  unfold State.charged; split <;> simp
@[simp] theorem State.charged_block_since (s : State) (t : Traits) (k : Nat) : ((s.charged t).block k).since = (s.block k).since := by
  unfold State.charged; split <;> simp
@[simp] theorem State.charged_block_discarded (s : State) (t : Traits) (k : Nat) : ((s.charged t).block k).discarded = (s.block k).discarded := by
  unfold State.charged; split <;> simp

@[simp] theorem State.complete_launches (s : State) (i : Instr) (t : Traits) (jump : Bool) : (s.complete i t jump).launches = s.launches := by simp [State.complete]
@[simp] theorem State.complete_mem (s : State) (i : Instr) (t : Traits) (jump : Bool) : (s.complete i t jump).mem = s.mem := by simp [State.complete]
@[simp] theorem State.complete_array (s : State) (i : Instr) (t : Traits) (jump : Bool) : (s.complete i t jump).array = s.array := by simp [State.complete]
@[simp] theorem State.complete_hostMem (s : State) (i : Instr) (t : Traits) (jump : Bool) : (s.complete i t jump).hostMem = s.hostMem := by simp [State.complete]
@[simp] theorem State.complete_peerMem (s : State) (i : Instr) (t : Traits) (jump : Bool) : (s.complete i t jump).peerMem = s.peerMem := by simp [State.complete]
@[simp] theorem State.complete_registrant (s : State) (i : Instr) (t : Traits) (jump : Bool) : (s.complete i t jump).registrant = s.registrant := by simp [State.complete]
@[simp] theorem State.complete_claims (s : State) (i : Instr) (t : Traits) (jump : Bool) : (s.complete i t jump).claims = s.claims := by simp [State.complete]
@[simp] theorem State.complete_cells (s : State) (i : Instr) (t : Traits) (jump : Bool) : (s.complete i t jump).cells = s.cells := by simp [State.complete]
@[simp] theorem State.complete_regions (s : State) (i : Instr) (t : Traits) (jump : Bool) : (s.complete i t jump).regions = s.regions := by simp [State.complete]
@[simp] theorem State.complete_rdc (s : State) (i : Instr) (t : Traits) (jump : Bool) : (s.complete i t jump).rdc = s.rdc := by simp [State.complete]
@[simp] theorem State.complete_l2 (s : State) (i : Instr) (t : Traits) (jump : Bool) : (s.complete i t jump).l2 = s.l2 := by simp [State.complete]
@[simp] theorem State.complete_msc (s : State) (i : Instr) (t : Traits) (jump : Bool) : (s.complete i t jump).msc = s.msc := by simp [State.complete]
@[simp] theorem State.complete_stacks (s : State) (i : Instr) (t : Traits) (jump : Bool) : (s.complete i t jump).hbms = s.hbms := by simp [State.complete]
@[simp] theorem State.complete_bad (s : State) (i : Instr) (t : Traits) (jump : Bool) : (s.complete i t jump).bad = s.bad := by simp [State.complete]
@[simp] theorem State.complete_weak (s : State) (i : Instr) (t : Traits) (jump : Bool) : (s.complete i t jump).weak = s.weak := by simp [State.complete]
@[simp] theorem State.complete_lost (s : State) (i : Instr) (t : Traits) (jump : Bool) : (s.complete i t jump).lost = s.lost := by simp [State.complete]
@[simp] theorem State.complete_hostLines (s : State) (i : Instr) (t : Traits) (jump : Bool) : (s.complete i t jump).hostLines = s.hostLines := by simp [State.complete]
@[simp] theorem State.complete_tlb (s : State) (i : Instr) (t : Traits) (jump : Bool) : (s.complete i t jump).tlb = s.tlb := by simp [State.complete]
@[simp] theorem State.complete_accs (s : State) (i : Instr) (t : Traits) (jump : Bool) : (s.complete i t jump).accs = s.accs := by simp [State.complete]
@[simp] theorem State.complete_net (s : State) (i : Instr) (t : Traits) (jump : Bool) : (s.complete i t jump).net = s.net := by simp [State.complete]
@[simp] theorem State.complete_abufs (s : State) (i : Instr) (t : Traits) (jump : Bool) : (s.complete i t jump).abufs = s.abufs := by simp [State.complete]
@[simp] theorem State.complete_jobs (s : State) (i : Instr) (t : Traits) (jump : Bool) : (s.complete i t jump).jobs = s.jobs := by simp [State.complete]
@[simp] theorem State.complete_feet (s : State) (i : Instr) (t : Traits) (jump : Bool) : (s.complete i t jump).feet = s.feet := by simp [State.complete]
@[simp] theorem State.complete_shapes (s : State) (i : Instr) (t : Traits) (jump : Bool) : (s.complete i t jump).shapes = s.shapes := by simp [State.complete]
@[simp] theorem State.complete_eqs (s : State) (i : Instr) (t : Traits) (jump : Bool) : (s.complete i t jump).eqs = s.eqs := by simp [State.complete]
@[simp] theorem State.complete_insts (s : State) (i : Instr) (t : Traits) (jump : Bool) : (s.complete i t jump).insts = s.insts := by simp [State.complete]
@[simp] theorem State.complete_links (s : State) (i : Instr) (t : Traits) (jump : Bool) : (s.complete i t jump).links = s.links := by simp [State.complete]
@[simp] theorem State.complete_hostAccs (s : State) (i : Instr) (t : Traits) (jump : Bool) : (s.complete i t jump).hostAccs = s.hostAccs := by simp [State.complete]
@[simp] theorem State.complete_mgmt (s : State) (i : Instr) (t : Traits) (jump : Bool) : (s.complete i t jump).mgmt = s.mgmt := by simp [State.complete]
@[simp] theorem State.complete_focus (s : State) (i : Instr) (t : Traits) (jump : Bool) : (s.complete i t jump).focus = s.focus := by simp [State.complete]
@[simp] theorem State.complete_agenda (s : State) (i : Instr) (t : Traits) (jump : Bool) : (s.complete i t jump).agenda = s.agenda := by simp [State.complete]

@[simp] theorem State.complete_wave_block (s : State) (i : Instr) (t : Traits) (jump : Bool) (k : Nat) : ((s.complete i t jump).wave k).block = (s.wave k).block := by
  simp only [State.complete, State.joinWave_wave_block, State.tick_wave]; rw [State.updWave_at]; split <;> simp
@[simp] theorem State.complete_wave_idx (s : State) (i : Instr) (t : Traits) (jump : Bool) (k : Nat) : ((s.complete i t jump).wave k).idx = (s.wave k).idx := by
  simp only [State.complete, State.joinWave_wave_idx, State.tick_wave]; rw [State.updWave_at]; split <;> simp
@[simp] theorem State.complete_wave_exited (s : State) (i : Instr) (t : Traits) (jump : Bool) (k : Nat) : ((s.complete i t jump).wave k).exited = (s.wave k).exited := by
  simp only [State.complete, State.joinWave_wave_exited, State.tick_wave]; rw [State.updWave_at]; split <;> simp
@[simp] theorem State.complete_wave_launchMask (s : State) (i : Instr) (t : Traits) (jump : Bool) (k : Nat) : ((s.complete i t jump).wave k).launchMask = (s.wave k).launchMask := by
  simp only [State.complete, State.joinWave_wave_launchMask, State.tick_wave]; rw [State.updWave_at]; split <;> simp
@[simp] theorem State.complete_wave_pad (s : State) (i : Instr) (t : Traits) (jump : Bool) (k : Nat) : ((s.complete i t jump).wave k).pad = (s.wave k).pad := by
  simp only [State.complete, State.joinWave_wave_pad, State.tick_wave]; rw [State.updWave_at]; split <;> simp
@[simp] theorem State.complete_wave_sregs (s : State) (i : Instr) (t : Traits) (jump : Bool) (k : Nat) : ((s.complete i t jump).wave k).sregs = (s.wave k).sregs := by
  simp only [State.complete, State.joinWave_wave_sregs, State.tick_wave]; rw [State.updWave_at]; split <;> simp
@[simp] theorem State.complete_wave_vregs (s : State) (i : Instr) (t : Traits) (jump : Bool) (k : Nat) : ((s.complete i t jump).wave k).vregs = (s.wave k).vregs := by
  simp only [State.complete, State.joinWave_wave_vregs, State.tick_wave]; rw [State.updWave_at]; split <;> simp
@[simp] theorem State.complete_wave_pregs (s : State) (i : Instr) (t : Traits) (jump : Bool) (k : Nat) : ((s.complete i t jump).wave k).pregs = (s.wave k).pregs := by
  simp only [State.complete, State.joinWave_wave_pregs, State.tick_wave]; rw [State.updWave_at]; split <;> simp
@[simp] theorem State.complete_wave_handler (s : State) (i : Instr) (t : Traits) (jump : Bool) (k : Nat) : ((s.complete i t jump).wave k).handler = (s.wave k).handler := by
  simp only [State.complete, State.joinWave_wave_handler, State.tick_wave]; rw [State.updWave_at]; split <;> simp
@[simp] theorem State.complete_wave_xpc (s : State) (i : Instr) (t : Traits) (jump : Bool) (k : Nat) : ((s.complete i t jump).wave k).xpc = (s.wave k).xpc := by
  simp only [State.complete, State.joinWave_wave_xpc, State.tick_wave]; rw [State.updWave_at]; split <;> simp
@[simp] theorem State.complete_wave_xmode (s : State) (i : Instr) (t : Traits) (jump : Bool) (k : Nat) : ((s.complete i t jump).wave k).xmode = (s.wave k).xmode := by
  simp only [State.complete, State.joinWave_wave_xmode, State.tick_wave]; rw [State.updWave_at]; split <;> simp
@[simp] theorem State.complete_wave_xcause (s : State) (i : Instr) (t : Traits) (jump : Bool) (k : Nat) : ((s.complete i t jump).wave k).xcause = (s.wave k).xcause := by
  simp only [State.complete, State.joinWave_wave_xcause, State.tick_wave]; rw [State.updWave_at]; split <;> simp
@[simp] theorem State.complete_wave_xlanes (s : State) (i : Instr) (t : Traits) (jump : Bool) (k : Nat) : ((s.complete i t jump).wave k).xlanes = (s.wave k).xlanes := by
  simp only [State.complete, State.joinWave_wave_xlanes, State.tick_wave]; rw [State.updWave_at]; split <;> simp
@[simp] theorem State.complete_wave_xaddr (s : State) (i : Instr) (t : Traits) (jump : Bool) (k : Nat) : ((s.complete i t jump).wave k).xaddr = (s.wave k).xaddr := by
  simp only [State.complete, State.joinWave_wave_xaddr, State.tick_wave]; rw [State.updWave_at]; split <;> simp
@[simp] theorem State.complete_wave_gexposed (s : State) (i : Instr) (t : Traits) (jump : Bool) (k : Nat) : ((s.complete i t jump).wave k).gexposed = (s.wave k).gexposed := by
  simp only [State.complete, State.joinWave_wave_gexposed, State.tick_wave]; rw [State.updWave_at]; split <;> simp
@[simp] theorem State.complete_wave_jobs (s : State) (i : Instr) (t : Traits) (jump : Bool) (k : Nat) : ((s.complete i t jump).wave k).jobs = (s.wave k).jobs := by
  simp only [State.complete, State.joinWave_wave_jobs, State.tick_wave]; rw [State.updWave_at]; split <;> simp
@[simp] theorem State.complete_wave_left (s : State) (i : Instr) (t : Traits) (jump : Bool) (k : Nat) : ((s.complete i t jump).wave k).left = (s.wave k).left := by
  simp only [State.complete, State.joinWave_wave_left, State.tick_wave]; rw [State.updWave_at]; split <;> simp
@[simp] theorem State.complete_wave_mm (s : State) (i : Instr) (t : Traits) (jump : Bool) (k : Nat) : ((s.complete i t jump).wave k).mm = (s.wave k).mm := by
  simp only [State.complete, State.joinWave_wave_mm, State.tick_wave]; rw [State.updWave_at]; split <;> simp
@[simp] theorem State.complete_wave_epoch (s : State) (i : Instr) (t : Traits) (jump : Bool) (k : Nat) : ((s.complete i t jump).wave k).epoch = (s.wave k).epoch := by
  simp only [State.complete, State.joinWave_wave_epoch, State.tick_wave]; rw [State.updWave_at]; split <;> simp
@[simp] theorem State.complete_wave_tags (s : State) (i : Instr) (t : Traits) (jump : Bool) (k : Nat) : ((s.complete i t jump).wave k).tags = (s.wave k).tags := by
  simp only [State.complete, State.joinWave_wave_tags, State.tick_wave]; rw [State.updWave_at]; split <;> simp
@[simp] theorem State.complete_wave_sfr (s : State) (i : Instr) (t : Traits) (jump : Bool) (k : Nat) : ((s.complete i t jump).wave k).sfr = (s.wave k).sfr := by
  simp only [State.complete, State.joinWave_wave_sfr, State.tick_wave]; rw [State.updWave_at]; split <;> simp
@[simp] theorem State.complete_wave_arrived (s : State) (i : Instr) (t : Traits) (jump : Bool) (k : Nat) : ((s.complete i t jump).wave k).arrived = (s.wave k).arrived := by
  simp only [State.complete, State.joinWave_wave_arrived, State.tick_wave]; rw [State.updWave_at]; split <;> simp
@[simp] theorem State.complete_wave_pend (s : State) (i : Instr) (t : Traits) (jump : Bool) (k : Nat) : ((s.complete i t jump).wave k).pend = (s.wave k).pend := by
  simp only [State.complete, State.joinWave_wave_pend, State.tick_wave]; rw [State.updWave_at]; split <;> simp
@[simp] theorem State.complete_wave_lost (s : State) (i : Instr) (t : Traits) (jump : Bool) (k : Nat) : ((s.complete i t jump).wave k).lost = (s.wave k).lost := by
  simp only [State.complete, State.joinWave_wave_lost, State.tick_wave]; rw [State.updWave_at]; split <;> simp
@[simp] theorem State.complete_wave_since (s : State) (i : Instr) (t : Traits) (jump : Bool) (k : Nat) : ((s.complete i t jump).wave k).since = (s.wave k).since := by
  simp only [State.complete, State.joinWave_wave_since, State.tick_wave]; rw [State.updWave_at]; split <;> simp
@[simp] theorem State.complete_block (s : State) (i : Instr) (t : Traits) (jump : Bool) (k : Nat) : (s.complete i t jump).block k = (s.charged t).block k := by simp [State.complete, State.block]
/-! ### holdAt -/

@[simp] theorem State.holdAt_blocks (s : State) (i : Instr) (ph : Nat) (wt : Wait) (ref : Nat) : (s.holdAt i ph wt ref).blocks = s.blocks := rfl
@[simp] theorem State.holdAt_launches (s : State) (i : Instr) (ph : Nat) (wt : Wait) (ref : Nat) : (s.holdAt i ph wt ref).launches = s.launches := rfl
@[simp] theorem State.holdAt_cores (s : State) (i : Instr) (ph : Nat) (wt : Wait) (ref : Nat) : (s.holdAt i ph wt ref).cores = s.cores := rfl
@[simp] theorem State.holdAt_mem (s : State) (i : Instr) (ph : Nat) (wt : Wait) (ref : Nat) : (s.holdAt i ph wt ref).mem = s.mem := rfl
@[simp] theorem State.holdAt_array (s : State) (i : Instr) (ph : Nat) (wt : Wait) (ref : Nat) : (s.holdAt i ph wt ref).array = s.array := rfl
@[simp] theorem State.holdAt_hostMem (s : State) (i : Instr) (ph : Nat) (wt : Wait) (ref : Nat) : (s.holdAt i ph wt ref).hostMem = s.hostMem := rfl
@[simp] theorem State.holdAt_peerMem (s : State) (i : Instr) (ph : Nat) (wt : Wait) (ref : Nat) : (s.holdAt i ph wt ref).peerMem = s.peerMem := rfl
@[simp] theorem State.holdAt_registrant (s : State) (i : Instr) (ph : Nat) (wt : Wait) (ref : Nat) : (s.holdAt i ph wt ref).registrant = s.registrant := rfl
@[simp] theorem State.holdAt_claims (s : State) (i : Instr) (ph : Nat) (wt : Wait) (ref : Nat) : (s.holdAt i ph wt ref).claims = s.claims := rfl
@[simp] theorem State.holdAt_cells (s : State) (i : Instr) (ph : Nat) (wt : Wait) (ref : Nat) : (s.holdAt i ph wt ref).cells = s.cells := rfl
@[simp] theorem State.holdAt_regions (s : State) (i : Instr) (ph : Nat) (wt : Wait) (ref : Nat) : (s.holdAt i ph wt ref).regions = s.regions := rfl
@[simp] theorem State.holdAt_rdc (s : State) (i : Instr) (ph : Nat) (wt : Wait) (ref : Nat) : (s.holdAt i ph wt ref).rdc = s.rdc := rfl
@[simp] theorem State.holdAt_l2 (s : State) (i : Instr) (ph : Nat) (wt : Wait) (ref : Nat) : (s.holdAt i ph wt ref).l2 = s.l2 := rfl
@[simp] theorem State.holdAt_msc (s : State) (i : Instr) (ph : Nat) (wt : Wait) (ref : Nat) : (s.holdAt i ph wt ref).msc = s.msc := rfl
@[simp] theorem State.holdAt_stacks (s : State) (i : Instr) (ph : Nat) (wt : Wait) (ref : Nat) : (s.holdAt i ph wt ref).hbms = s.hbms := rfl
@[simp] theorem State.holdAt_bad (s : State) (i : Instr) (ph : Nat) (wt : Wait) (ref : Nat) : (s.holdAt i ph wt ref).bad = s.bad := rfl
@[simp] theorem State.holdAt_weak (s : State) (i : Instr) (ph : Nat) (wt : Wait) (ref : Nat) : (s.holdAt i ph wt ref).weak = s.weak := rfl
@[simp] theorem State.holdAt_lost (s : State) (i : Instr) (ph : Nat) (wt : Wait) (ref : Nat) : (s.holdAt i ph wt ref).lost = s.lost := rfl
@[simp] theorem State.holdAt_hostLines (s : State) (i : Instr) (ph : Nat) (wt : Wait) (ref : Nat) : (s.holdAt i ph wt ref).hostLines = s.hostLines := rfl
@[simp] theorem State.holdAt_tlb (s : State) (i : Instr) (ph : Nat) (wt : Wait) (ref : Nat) : (s.holdAt i ph wt ref).tlb = s.tlb := rfl
@[simp] theorem State.holdAt_accs (s : State) (i : Instr) (ph : Nat) (wt : Wait) (ref : Nat) : (s.holdAt i ph wt ref).accs = s.accs := rfl
@[simp] theorem State.holdAt_net (s : State) (i : Instr) (ph : Nat) (wt : Wait) (ref : Nat) : (s.holdAt i ph wt ref).net = s.net := rfl
@[simp] theorem State.holdAt_abufs (s : State) (i : Instr) (ph : Nat) (wt : Wait) (ref : Nat) : (s.holdAt i ph wt ref).abufs = s.abufs := rfl
@[simp] theorem State.holdAt_jobs (s : State) (i : Instr) (ph : Nat) (wt : Wait) (ref : Nat) : (s.holdAt i ph wt ref).jobs = s.jobs := rfl
@[simp] theorem State.holdAt_feet (s : State) (i : Instr) (ph : Nat) (wt : Wait) (ref : Nat) : (s.holdAt i ph wt ref).feet = s.feet := rfl
@[simp] theorem State.holdAt_shapes (s : State) (i : Instr) (ph : Nat) (wt : Wait) (ref : Nat) : (s.holdAt i ph wt ref).shapes = s.shapes := rfl
@[simp] theorem State.holdAt_eqs (s : State) (i : Instr) (ph : Nat) (wt : Wait) (ref : Nat) : (s.holdAt i ph wt ref).eqs = s.eqs := rfl
@[simp] theorem State.holdAt_insts (s : State) (i : Instr) (ph : Nat) (wt : Wait) (ref : Nat) : (s.holdAt i ph wt ref).insts = s.insts := rfl
@[simp] theorem State.holdAt_links (s : State) (i : Instr) (ph : Nat) (wt : Wait) (ref : Nat) : (s.holdAt i ph wt ref).links = s.links := rfl
@[simp] theorem State.holdAt_hostAccs (s : State) (i : Instr) (ph : Nat) (wt : Wait) (ref : Nat) : (s.holdAt i ph wt ref).hostAccs = s.hostAccs := rfl
@[simp] theorem State.holdAt_mgmt (s : State) (i : Instr) (ph : Nat) (wt : Wait) (ref : Nat) : (s.holdAt i ph wt ref).mgmt = s.mgmt := rfl
@[simp] theorem State.holdAt_focus (s : State) (i : Instr) (ph : Nat) (wt : Wait) (ref : Nat) : (s.holdAt i ph wt ref).focus = s.focus := rfl
@[simp] theorem State.holdAt_agenda (s : State) (i : Instr) (ph : Nat) (wt : Wait) (ref : Nat) : (s.holdAt i ph wt ref).agenda = s.agenda := rfl
@[simp] theorem State.holdAt_seq (s : State) (i : Instr) (ph : Nat) (wt : Wait) (ref : Nat) : (s.holdAt i ph wt ref).seq = s.seq := rfl

end Sys2Proof.Machine
end

