-- ==== Sys2Proof/Laws/Regs.lean ====
section
/-! SUPPORT. What writing a register of the issuing wave gives and leaves, and what an SFR boundary and an acquire leave. -/

namespace Sys2Proof.Machine

open Sys2Proof

/-! ### Logs and younger writes -/
@[simp] theorem Wave.log_slot_live (w : Wave) (sb : Bool) (q : Nat) (i : UndoItem) (b : Bool) : ((w.log sb q i).slot b).live = (w.slot b).live := by
  simp only [Wave.log, Wave.slot_updSlot]; split <;> simp
@[simp] theorem State.logDead_slot_live (s : State) (w : Nat) (sb : Bool) (p : Acc → Bool) (k : Nat) (b : Bool) : (((s.logDead w sb p).wave k).slot b).live = ((s.wave k).slot b).live := by
  unfold State.logDead; generalize s.accs.filter _ = l
  induction l generalizing s with
  | nil => rfl
  | cons x l ih => simp only [List.foldl_cons, ih, State.updWave_at]; split <;> simp
@[simp] theorem Wave.log_slot_path (w : Wave) (sb : Bool) (q : Nat) (i : UndoItem) (b : Bool) : ((w.log sb q i).slot b).path = (w.slot b).path := by
  simp only [Wave.log, Wave.slot_updSlot]; split <;> simp
@[simp] theorem State.logDead_slot_path (s : State) (w : Nat) (sb : Bool) (p : Acc → Bool) (k : Nat) (b : Bool) : (((s.logDead w sb p).wave k).slot b).path = ((s.wave k).slot b).path := by
  unfold State.logDead; generalize s.accs.filter _ = l
  induction l generalizing s with
  | nil => rfl
  | cons x l ih => simp only [List.foldl_cons, ih, State.updWave_at]; split <;> simp
@[simp] theorem Wave.log_slot_parked (w : Wave) (sb : Bool) (q : Nat) (i : UndoItem) (b : Bool) : ((w.log sb q i).slot b).parked = (w.slot b).parked := by
  simp only [Wave.log, Wave.slot_updSlot]; split <;> simp
@[simp] theorem State.logDead_slot_parked (s : State) (w : Nat) (sb : Bool) (p : Acc → Bool) (k : Nat) (b : Bool) : (((s.logDead w sb p).wave k).slot b).parked = ((s.wave k).slot b).parked := by
  unfold State.logDead; generalize s.accs.filter _ = l
  induction l generalizing s with
  | nil => rfl
  | cons x l ih => simp only [List.foldl_cons, ih, State.updWave_at]; split <;> simp
@[simp] theorem Wave.log_slot_held (w : Wave) (sb : Bool) (q : Nat) (i : UndoItem) (b : Bool) : ((w.log sb q i).slot b).held = (w.slot b).held := by
  simp only [Wave.log, Wave.slot_updSlot]; split <;> simp
@[simp] theorem State.logDead_slot_held (s : State) (w : Nat) (sb : Bool) (p : Acc → Bool) (k : Nat) (b : Bool) : (((s.logDead w sb p).wave k).slot b).held = ((s.wave k).slot b).held := by
  unfold State.logDead; generalize s.accs.filter _ = l
  induction l generalizing s with
  | nil => rfl
  | cons x l ih => simp only [List.foldl_cons, ih, State.updWave_at]; split <;> simp
@[simp] theorem Wave.log_slot_phase (w : Wave) (sb : Bool) (q : Nat) (i : UndoItem) (b : Bool) : ((w.log sb q i).slot b).phase = (w.slot b).phase := by
  simp only [Wave.log, Wave.slot_updSlot]; split <;> simp
@[simp] theorem State.logDead_slot_phase (s : State) (w : Nat) (sb : Bool) (p : Acc → Bool) (k : Nat) (b : Bool) : (((s.logDead w sb p).wave k).slot b).phase = ((s.wave k).slot b).phase := by
  unfold State.logDead; generalize s.accs.filter _ = l
  induction l generalizing s with
  | nil => rfl
  | cons x l ih => simp only [List.foldl_cons, ih, State.updWave_at]; split <;> simp
@[simp] theorem Wave.log_slot_wait (w : Wave) (sb : Bool) (q : Nat) (i : UndoItem) (b : Bool) : ((w.log sb q i).slot b).wait = (w.slot b).wait := by
  simp only [Wave.log, Wave.slot_updSlot]; split <;> simp
@[simp] theorem State.logDead_slot_wait (s : State) (w : Nat) (sb : Bool) (p : Acc → Bool) (k : Nat) (b : Bool) : (((s.logDead w sb p).wave k).slot b).wait = ((s.wave k).slot b).wait := by
  unfold State.logDead; generalize s.accs.filter _ = l
  induction l generalizing s with
  | nil => rfl
  | cons x l ih => simp only [List.foldl_cons, ih, State.updWave_at]; split <;> simp
@[simp] theorem Wave.log_slot_ref (w : Wave) (sb : Bool) (q : Nat) (i : UndoItem) (b : Bool) : ((w.log sb q i).slot b).ref = (w.slot b).ref := by
  simp only [Wave.log, Wave.slot_updSlot]; split <;> simp
@[simp] theorem State.logDead_slot_ref (s : State) (w : Nat) (sb : Bool) (p : Acc → Bool) (k : Nat) (b : Bool) : (((s.logDead w sb p).wave k).slot b).ref = ((s.wave k).slot b).ref := by
  unfold State.logDead; generalize s.accs.filter _ = l
  induction l generalizing s with
  | nil => rfl
  | cons x l ih => simp only [List.foldl_cons, ih, State.updWave_at]; split <;> simp
@[simp] theorem Wave.log_slot_branched (w : Wave) (sb : Bool) (q : Nat) (i : UndoItem) (b : Bool) : ((w.log sb q i).slot b).branched = (w.slot b).branched := by
  simp only [Wave.log, Wave.slot_updSlot]; split <;> simp
@[simp] theorem State.logDead_slot_branched (s : State) (w : Nat) (sb : Bool) (p : Acc → Bool) (k : Nat) (b : Bool) : (((s.logDead w sb p).wave k).slot b).branched = ((s.wave k).slot b).branched := by
  unfold State.logDead; generalize s.accs.filter _ = l
  induction l generalizing s with
  | nil => rfl
  | cons x l ih => simp only [List.foldl_cons, ih, State.updWave_at]; split <;> simp
@[simp] theorem Wave.log_slot_yielded (w : Wave) (sb : Bool) (q : Nat) (i : UndoItem) (b : Bool) : ((w.log sb q i).slot b).yielded = (w.slot b).yielded := by
  simp only [Wave.log, Wave.slot_updSlot]; split <;> simp
@[simp] theorem State.logDead_slot_yielded (s : State) (w : Nat) (sb : Bool) (p : Acc → Bool) (k : Nat) (b : Bool) : (((s.logDead w sb p).wave k).slot b).yielded = ((s.wave k).slot b).yielded := by
  unfold State.logDead; generalize s.accs.filter _ = l
  induction l generalizing s with
  | nil => rfl
  | cons x l ih => simp only [List.foldl_cons, ih, State.updWave_at]; split <;> simp
@[simp] theorem Wave.log_slot_passed (w : Wave) (sb : Bool) (q : Nat) (i : UndoItem) (b : Bool) : ((w.log sb q i).slot b).passed = (w.slot b).passed := by
  simp only [Wave.log, Wave.slot_updSlot]; split <;> simp
@[simp] theorem State.logDead_slot_passed (s : State) (w : Nat) (sb : Bool) (p : Acc → Bool) (k : Nat) (b : Bool) : (((s.logDead w sb p).wave k).slot b).passed = ((s.wave k).slot b).passed := by
  unfold State.logDead; generalize s.accs.filter _ = l
  induction l generalizing s with
  | nil => rfl
  | cons x l ih => simp only [List.foldl_cons, ih, State.updWave_at]; split <;> simp
@[simp] theorem Wave.log_slot_windowCount (w : Wave) (sb : Bool) (q : Nat) (i : UndoItem) (b : Bool) : ((w.log sb q i).slot b).windowCount = (w.slot b).windowCount := by
  simp only [Wave.log, Wave.slot_updSlot]; split <;> simp
@[simp] theorem State.logDead_slot_windowCount (s : State) (w : Nat) (sb : Bool) (p : Acc → Bool) (k : Nat) (b : Bool) : (((s.logDead w sb p).wave k).slot b).windowCount = ((s.wave k).slot b).windowCount := by
  unfold State.logDead; generalize s.accs.filter _ = l
  induction l generalizing s with
  | nil => rfl
  | cons x l ih => simp only [List.foldl_cons, ih, State.updWave_at]; split <;> simp
@[simp] theorem Wave.log_slotA_live (w : Wave) (sb : Bool) (q : Nat) (i : UndoItem) : (w.log sb q i).slotA.live = w.slotA.live := Wave.log_slot_live w sb q i false
@[simp] theorem State.logDead_slotA_live (s : State) (w : Nat) (sb : Bool) (p : Acc → Bool) (k : Nat) : ((s.logDead w sb p).wave k).slotA.live = (s.wave k).slotA.live := State.logDead_slot_live s w sb p k false
@[simp] theorem Wave.log_slotB_live (w : Wave) (sb : Bool) (q : Nat) (i : UndoItem) : (w.log sb q i).slotB.live = w.slotB.live := Wave.log_slot_live w sb q i true
@[simp] theorem State.logDead_slotB_live (s : State) (w : Nat) (sb : Bool) (p : Acc → Bool) (k : Nat) : ((s.logDead w sb p).wave k).slotB.live = (s.wave k).slotB.live := State.logDead_slot_live s w sb p k true
@[simp] theorem Wave.log_slotA_path (w : Wave) (sb : Bool) (q : Nat) (i : UndoItem) : (w.log sb q i).slotA.path = w.slotA.path := Wave.log_slot_path w sb q i false
@[simp] theorem State.logDead_slotA_path (s : State) (w : Nat) (sb : Bool) (p : Acc → Bool) (k : Nat) : ((s.logDead w sb p).wave k).slotA.path = (s.wave k).slotA.path := State.logDead_slot_path s w sb p k false
@[simp] theorem Wave.log_slotB_path (w : Wave) (sb : Bool) (q : Nat) (i : UndoItem) : (w.log sb q i).slotB.path = w.slotB.path := Wave.log_slot_path w sb q i true
@[simp] theorem State.logDead_slotB_path (s : State) (w : Nat) (sb : Bool) (p : Acc → Bool) (k : Nat) : ((s.logDead w sb p).wave k).slotB.path = (s.wave k).slotB.path := State.logDead_slot_path s w sb p k true
@[simp] theorem Wave.log_slotA_parked (w : Wave) (sb : Bool) (q : Nat) (i : UndoItem) : (w.log sb q i).slotA.parked = w.slotA.parked := Wave.log_slot_parked w sb q i false
@[simp] theorem State.logDead_slotA_parked (s : State) (w : Nat) (sb : Bool) (p : Acc → Bool) (k : Nat) : ((s.logDead w sb p).wave k).slotA.parked = (s.wave k).slotA.parked := State.logDead_slot_parked s w sb p k false
@[simp] theorem Wave.log_slotB_parked (w : Wave) (sb : Bool) (q : Nat) (i : UndoItem) : (w.log sb q i).slotB.parked = w.slotB.parked := Wave.log_slot_parked w sb q i true
@[simp] theorem State.logDead_slotB_parked (s : State) (w : Nat) (sb : Bool) (p : Acc → Bool) (k : Nat) : ((s.logDead w sb p).wave k).slotB.parked = (s.wave k).slotB.parked := State.logDead_slot_parked s w sb p k true
@[simp] theorem Wave.log_slotA_held (w : Wave) (sb : Bool) (q : Nat) (i : UndoItem) : (w.log sb q i).slotA.held = w.slotA.held := Wave.log_slot_held w sb q i false
@[simp] theorem State.logDead_slotA_held (s : State) (w : Nat) (sb : Bool) (p : Acc → Bool) (k : Nat) : ((s.logDead w sb p).wave k).slotA.held = (s.wave k).slotA.held := State.logDead_slot_held s w sb p k false
@[simp] theorem Wave.log_slotB_held (w : Wave) (sb : Bool) (q : Nat) (i : UndoItem) : (w.log sb q i).slotB.held = w.slotB.held := Wave.log_slot_held w sb q i true
@[simp] theorem State.logDead_slotB_held (s : State) (w : Nat) (sb : Bool) (p : Acc → Bool) (k : Nat) : ((s.logDead w sb p).wave k).slotB.held = (s.wave k).slotB.held := State.logDead_slot_held s w sb p k true
@[simp] theorem Wave.log_slotA_phase (w : Wave) (sb : Bool) (q : Nat) (i : UndoItem) : (w.log sb q i).slotA.phase = w.slotA.phase := Wave.log_slot_phase w sb q i false
@[simp] theorem State.logDead_slotA_phase (s : State) (w : Nat) (sb : Bool) (p : Acc → Bool) (k : Nat) : ((s.logDead w sb p).wave k).slotA.phase = (s.wave k).slotA.phase := State.logDead_slot_phase s w sb p k false
@[simp] theorem Wave.log_slotB_phase (w : Wave) (sb : Bool) (q : Nat) (i : UndoItem) : (w.log sb q i).slotB.phase = w.slotB.phase := Wave.log_slot_phase w sb q i true
@[simp] theorem State.logDead_slotB_phase (s : State) (w : Nat) (sb : Bool) (p : Acc → Bool) (k : Nat) : ((s.logDead w sb p).wave k).slotB.phase = (s.wave k).slotB.phase := State.logDead_slot_phase s w sb p k true
@[simp] theorem Wave.log_slotA_wait (w : Wave) (sb : Bool) (q : Nat) (i : UndoItem) : (w.log sb q i).slotA.wait = w.slotA.wait := Wave.log_slot_wait w sb q i false
@[simp] theorem State.logDead_slotA_wait (s : State) (w : Nat) (sb : Bool) (p : Acc → Bool) (k : Nat) : ((s.logDead w sb p).wave k).slotA.wait = (s.wave k).slotA.wait := State.logDead_slot_wait s w sb p k false
@[simp] theorem Wave.log_slotB_wait (w : Wave) (sb : Bool) (q : Nat) (i : UndoItem) : (w.log sb q i).slotB.wait = w.slotB.wait := Wave.log_slot_wait w sb q i true
@[simp] theorem State.logDead_slotB_wait (s : State) (w : Nat) (sb : Bool) (p : Acc → Bool) (k : Nat) : ((s.logDead w sb p).wave k).slotB.wait = (s.wave k).slotB.wait := State.logDead_slot_wait s w sb p k true
@[simp] theorem Wave.log_slotA_ref (w : Wave) (sb : Bool) (q : Nat) (i : UndoItem) : (w.log sb q i).slotA.ref = w.slotA.ref := Wave.log_slot_ref w sb q i false
@[simp] theorem State.logDead_slotA_ref (s : State) (w : Nat) (sb : Bool) (p : Acc → Bool) (k : Nat) : ((s.logDead w sb p).wave k).slotA.ref = (s.wave k).slotA.ref := State.logDead_slot_ref s w sb p k false
@[simp] theorem Wave.log_slotB_ref (w : Wave) (sb : Bool) (q : Nat) (i : UndoItem) : (w.log sb q i).slotB.ref = w.slotB.ref := Wave.log_slot_ref w sb q i true
@[simp] theorem State.logDead_slotB_ref (s : State) (w : Nat) (sb : Bool) (p : Acc → Bool) (k : Nat) : ((s.logDead w sb p).wave k).slotB.ref = (s.wave k).slotB.ref := State.logDead_slot_ref s w sb p k true
@[simp] theorem Wave.log_slotA_branched (w : Wave) (sb : Bool) (q : Nat) (i : UndoItem) : (w.log sb q i).slotA.branched = w.slotA.branched := Wave.log_slot_branched w sb q i false
@[simp] theorem State.logDead_slotA_branched (s : State) (w : Nat) (sb : Bool) (p : Acc → Bool) (k : Nat) : ((s.logDead w sb p).wave k).slotA.branched = (s.wave k).slotA.branched := State.logDead_slot_branched s w sb p k false
@[simp] theorem Wave.log_slotB_branched (w : Wave) (sb : Bool) (q : Nat) (i : UndoItem) : (w.log sb q i).slotB.branched = w.slotB.branched := Wave.log_slot_branched w sb q i true
@[simp] theorem State.logDead_slotB_branched (s : State) (w : Nat) (sb : Bool) (p : Acc → Bool) (k : Nat) : ((s.logDead w sb p).wave k).slotB.branched = (s.wave k).slotB.branched := State.logDead_slot_branched s w sb p k true
@[simp] theorem Wave.log_slotA_yielded (w : Wave) (sb : Bool) (q : Nat) (i : UndoItem) : (w.log sb q i).slotA.yielded = w.slotA.yielded := Wave.log_slot_yielded w sb q i false
@[simp] theorem State.logDead_slotA_yielded (s : State) (w : Nat) (sb : Bool) (p : Acc → Bool) (k : Nat) : ((s.logDead w sb p).wave k).slotA.yielded = (s.wave k).slotA.yielded := State.logDead_slot_yielded s w sb p k false
@[simp] theorem Wave.log_slotB_yielded (w : Wave) (sb : Bool) (q : Nat) (i : UndoItem) : (w.log sb q i).slotB.yielded = w.slotB.yielded := Wave.log_slot_yielded w sb q i true
@[simp] theorem State.logDead_slotB_yielded (s : State) (w : Nat) (sb : Bool) (p : Acc → Bool) (k : Nat) : ((s.logDead w sb p).wave k).slotB.yielded = (s.wave k).slotB.yielded := State.logDead_slot_yielded s w sb p k true
@[simp] theorem Wave.log_slotA_passed (w : Wave) (sb : Bool) (q : Nat) (i : UndoItem) : (w.log sb q i).slotA.passed = w.slotA.passed := Wave.log_slot_passed w sb q i false
@[simp] theorem State.logDead_slotA_passed (s : State) (w : Nat) (sb : Bool) (p : Acc → Bool) (k : Nat) : ((s.logDead w sb p).wave k).slotA.passed = (s.wave k).slotA.passed := State.logDead_slot_passed s w sb p k false
@[simp] theorem Wave.log_slotB_passed (w : Wave) (sb : Bool) (q : Nat) (i : UndoItem) : (w.log sb q i).slotB.passed = w.slotB.passed := Wave.log_slot_passed w sb q i true
@[simp] theorem State.logDead_slotB_passed (s : State) (w : Nat) (sb : Bool) (p : Acc → Bool) (k : Nat) : ((s.logDead w sb p).wave k).slotB.passed = (s.wave k).slotB.passed := State.logDead_slot_passed s w sb p k true
@[simp] theorem Wave.log_slotA_windowCount (w : Wave) (sb : Bool) (q : Nat) (i : UndoItem) : (w.log sb q i).slotA.windowCount = w.slotA.windowCount := Wave.log_slot_windowCount w sb q i false
@[simp] theorem State.logDead_slotA_windowCount (s : State) (w : Nat) (sb : Bool) (p : Acc → Bool) (k : Nat) : ((s.logDead w sb p).wave k).slotA.windowCount = (s.wave k).slotA.windowCount := State.logDead_slot_windowCount s w sb p k false
@[simp] theorem Wave.log_slotB_windowCount (w : Wave) (sb : Bool) (q : Nat) (i : UndoItem) : (w.log sb q i).slotB.windowCount = w.slotB.windowCount := Wave.log_slot_windowCount w sb q i true
@[simp] theorem State.logDead_slotB_windowCount (s : State) (w : Nat) (sb : Bool) (p : Acc → Bool) (k : Nat) : ((s.logDead w sb p).wave k).slotB.windowCount = (s.wave k).slotB.windowCount := State.logDead_slot_windowCount s w sb p k true

@[simp] theorem State.killS_waves (s : State) (w r : Nat) : (s.killS w r).waves = s.waves := rfl
@[simp] theorem State.killS_blocks (s : State) (w r : Nat) : (s.killS w r).blocks = s.blocks := rfl
@[simp] theorem State.killS_launches (s : State) (w r : Nat) : (s.killS w r).launches = s.launches := rfl
@[simp] theorem State.killS_cores (s : State) (w r : Nat) : (s.killS w r).cores = s.cores := rfl
@[simp] theorem State.killS_mem (s : State) (w r : Nat) : (s.killS w r).mem = s.mem := rfl
@[simp] theorem State.killS_array (s : State) (w r : Nat) : (s.killS w r).array = s.array := rfl
@[simp] theorem State.killS_hostMem (s : State) (w r : Nat) : (s.killS w r).hostMem = s.hostMem := rfl
@[simp] theorem State.killS_peerMem (s : State) (w r : Nat) : (s.killS w r).peerMem = s.peerMem := rfl
@[simp] theorem State.killS_registrant (s : State) (w r : Nat) : (s.killS w r).registrant = s.registrant := rfl
@[simp] theorem State.killS_claims (s : State) (w r : Nat) : (s.killS w r).claims = s.claims := rfl
@[simp] theorem State.killS_cells (s : State) (w r : Nat) : (s.killS w r).cells = s.cells := rfl
@[simp] theorem State.killS_regions (s : State) (w r : Nat) : (s.killS w r).regions = s.regions := rfl
@[simp] theorem State.killS_rdc (s : State) (w r : Nat) : (s.killS w r).rdc = s.rdc := rfl
@[simp] theorem State.killS_l2 (s : State) (w r : Nat) : (s.killS w r).l2 = s.l2 := rfl
@[simp] theorem State.killS_msc (s : State) (w r : Nat) : (s.killS w r).msc = s.msc := rfl
@[simp] theorem State.killS_stacks (s : State) (w r : Nat) : (s.killS w r).hbms = s.hbms := rfl
@[simp] theorem State.killS_bad (s : State) (w r : Nat) : (s.killS w r).bad = s.bad := rfl
@[simp] theorem State.killS_weak (s : State) (w r : Nat) : (s.killS w r).weak = s.weak := rfl
@[simp] theorem State.killS_lost (s : State) (w r : Nat) : (s.killS w r).lost = s.lost := rfl
@[simp] theorem State.killS_hostLines (s : State) (w r : Nat) : (s.killS w r).hostLines = s.hostLines := rfl
@[simp] theorem State.killS_tlb (s : State) (w r : Nat) : (s.killS w r).tlb = s.tlb := rfl
@[simp] theorem State.killS_net (s : State) (w r : Nat) : (s.killS w r).net = s.net := rfl
@[simp] theorem State.killS_abufs (s : State) (w r : Nat) : (s.killS w r).abufs = s.abufs := rfl
@[simp] theorem State.killS_jobs (s : State) (w r : Nat) : (s.killS w r).jobs = s.jobs := rfl
@[simp] theorem State.killS_feet (s : State) (w r : Nat) : (s.killS w r).feet = s.feet := rfl
@[simp] theorem State.killS_shapes (s : State) (w r : Nat) : (s.killS w r).shapes = s.shapes := rfl
@[simp] theorem State.killS_eqs (s : State) (w r : Nat) : (s.killS w r).eqs = s.eqs := rfl
@[simp] theorem State.killS_insts (s : State) (w r : Nat) : (s.killS w r).insts = s.insts := rfl
@[simp] theorem State.killS_links (s : State) (w r : Nat) : (s.killS w r).links = s.links := rfl
@[simp] theorem State.killS_hostAccs (s : State) (w r : Nat) : (s.killS w r).hostAccs = s.hostAccs := rfl
@[simp] theorem State.killS_mgmt (s : State) (w r : Nat) : (s.killS w r).mgmt = s.mgmt := rfl
@[simp] theorem State.killS_focus (s : State) (w r : Nat) : (s.killS w r).focus = s.focus := rfl
@[simp] theorem State.killS_agenda (s : State) (w r : Nat) : (s.killS w r).agenda = s.agenda := rfl
@[simp] theorem State.killS_seq (s : State) (w r : Nat) : (s.killS w r).seq = s.seq := rfl
@[simp] theorem State.killS_wave (s : State) (w r : Nat) (k : Nat) : (s.killS w r).wave k = s.wave k := by simp [State.wave]
@[simp] theorem State.killS_block (s : State) (w r : Nat) (k : Nat) : (s.killS w r).block k = s.block k := by simp [State.block]
@[simp] theorem State.killS_launch (s : State) (w r : Nat) (k : Nat) : (s.killS w r).launch k = s.launch k := by simp [State.launch]
@[simp] theorem State.killS_core (s : State) (w r : Nat) (k : Nat) : (s.killS w r).core k = s.core k := by simp [State.core]
@[simp] theorem State.killS_job (s : State) (w r : Nat) (k : Nat) : (s.killS w r).job k = s.job k := by simp [State.job]
@[simp] theorem State.killV_waves (s : State) (w r : Nat) (lanes : Mask) : (s.killV w r lanes).waves = s.waves := rfl
@[simp] theorem State.killV_blocks (s : State) (w r : Nat) (lanes : Mask) : (s.killV w r lanes).blocks = s.blocks := rfl
@[simp] theorem State.killV_launches (s : State) (w r : Nat) (lanes : Mask) : (s.killV w r lanes).launches = s.launches := rfl
@[simp] theorem State.killV_cores (s : State) (w r : Nat) (lanes : Mask) : (s.killV w r lanes).cores = s.cores := rfl
@[simp] theorem State.killV_mem (s : State) (w r : Nat) (lanes : Mask) : (s.killV w r lanes).mem = s.mem := rfl
@[simp] theorem State.killV_array (s : State) (w r : Nat) (lanes : Mask) : (s.killV w r lanes).array = s.array := rfl
@[simp] theorem State.killV_hostMem (s : State) (w r : Nat) (lanes : Mask) : (s.killV w r lanes).hostMem = s.hostMem := rfl
@[simp] theorem State.killV_peerMem (s : State) (w r : Nat) (lanes : Mask) : (s.killV w r lanes).peerMem = s.peerMem := rfl
@[simp] theorem State.killV_registrant (s : State) (w r : Nat) (lanes : Mask) : (s.killV w r lanes).registrant = s.registrant := rfl
@[simp] theorem State.killV_claims (s : State) (w r : Nat) (lanes : Mask) : (s.killV w r lanes).claims = s.claims := rfl
@[simp] theorem State.killV_cells (s : State) (w r : Nat) (lanes : Mask) : (s.killV w r lanes).cells = s.cells := rfl
@[simp] theorem State.killV_regions (s : State) (w r : Nat) (lanes : Mask) : (s.killV w r lanes).regions = s.regions := rfl
@[simp] theorem State.killV_rdc (s : State) (w r : Nat) (lanes : Mask) : (s.killV w r lanes).rdc = s.rdc := rfl
@[simp] theorem State.killV_l2 (s : State) (w r : Nat) (lanes : Mask) : (s.killV w r lanes).l2 = s.l2 := rfl
@[simp] theorem State.killV_msc (s : State) (w r : Nat) (lanes : Mask) : (s.killV w r lanes).msc = s.msc := rfl
@[simp] theorem State.killV_stacks (s : State) (w r : Nat) (lanes : Mask) : (s.killV w r lanes).hbms = s.hbms := rfl
@[simp] theorem State.killV_bad (s : State) (w r : Nat) (lanes : Mask) : (s.killV w r lanes).bad = s.bad := rfl
@[simp] theorem State.killV_weak (s : State) (w r : Nat) (lanes : Mask) : (s.killV w r lanes).weak = s.weak := rfl
@[simp] theorem State.killV_lost (s : State) (w r : Nat) (lanes : Mask) : (s.killV w r lanes).lost = s.lost := rfl
@[simp] theorem State.killV_hostLines (s : State) (w r : Nat) (lanes : Mask) : (s.killV w r lanes).hostLines = s.hostLines := rfl
@[simp] theorem State.killV_tlb (s : State) (w r : Nat) (lanes : Mask) : (s.killV w r lanes).tlb = s.tlb := rfl
@[simp] theorem State.killV_net (s : State) (w r : Nat) (lanes : Mask) : (s.killV w r lanes).net = s.net := rfl
@[simp] theorem State.killV_abufs (s : State) (w r : Nat) (lanes : Mask) : (s.killV w r lanes).abufs = s.abufs := rfl
@[simp] theorem State.killV_jobs (s : State) (w r : Nat) (lanes : Mask) : (s.killV w r lanes).jobs = s.jobs := rfl
@[simp] theorem State.killV_feet (s : State) (w r : Nat) (lanes : Mask) : (s.killV w r lanes).feet = s.feet := rfl
@[simp] theorem State.killV_shapes (s : State) (w r : Nat) (lanes : Mask) : (s.killV w r lanes).shapes = s.shapes := rfl
@[simp] theorem State.killV_eqs (s : State) (w r : Nat) (lanes : Mask) : (s.killV w r lanes).eqs = s.eqs := rfl
@[simp] theorem State.killV_insts (s : State) (w r : Nat) (lanes : Mask) : (s.killV w r lanes).insts = s.insts := rfl
@[simp] theorem State.killV_links (s : State) (w r : Nat) (lanes : Mask) : (s.killV w r lanes).links = s.links := rfl
@[simp] theorem State.killV_hostAccs (s : State) (w r : Nat) (lanes : Mask) : (s.killV w r lanes).hostAccs = s.hostAccs := rfl
@[simp] theorem State.killV_mgmt (s : State) (w r : Nat) (lanes : Mask) : (s.killV w r lanes).mgmt = s.mgmt := rfl
@[simp] theorem State.killV_focus (s : State) (w r : Nat) (lanes : Mask) : (s.killV w r lanes).focus = s.focus := rfl
@[simp] theorem State.killV_agenda (s : State) (w r : Nat) (lanes : Mask) : (s.killV w r lanes).agenda = s.agenda := rfl
@[simp] theorem State.killV_seq (s : State) (w r : Nat) (lanes : Mask) : (s.killV w r lanes).seq = s.seq := rfl
@[simp] theorem State.killV_wave (s : State) (w r : Nat) (lanes : Mask) (k : Nat) : (s.killV w r lanes).wave k = s.wave k := by simp [State.wave]
@[simp] theorem State.killV_block (s : State) (w r : Nat) (lanes : Mask) (k : Nat) : (s.killV w r lanes).block k = s.block k := by simp [State.block]
@[simp] theorem State.killV_launch (s : State) (w r : Nat) (lanes : Mask) (k : Nat) : (s.killV w r lanes).launch k = s.launch k := by simp [State.launch]
@[simp] theorem State.killV_core (s : State) (w r : Nat) (lanes : Mask) (k : Nat) : (s.killV w r lanes).core k = s.core k := by simp [State.core]
@[simp] theorem State.killV_job (s : State) (w r : Nat) (lanes : Mask) (k : Nat) : (s.killV w r lanes).job k = s.job k := by simp [State.job]
@[simp] theorem State.logDead_blocks (s : State) (w : Nat) (sb : Bool) (p : Acc → Bool) : (s.logDead w sb p).blocks = s.blocks := by
  unfold State.logDead; generalize s.accs.filter _ = l
  induction l generalizing s with
  | nil => rfl
  | cons x l ih => simp only [List.foldl_cons, ih, State.updWave_blocks]
@[simp] theorem State.logDead_launches (s : State) (w : Nat) (sb : Bool) (p : Acc → Bool) : (s.logDead w sb p).launches = s.launches := by
  unfold State.logDead; generalize s.accs.filter _ = l
  induction l generalizing s with
  | nil => rfl
  | cons x l ih => simp only [List.foldl_cons, ih, State.updWave_launches]
@[simp] theorem State.logDead_cores (s : State) (w : Nat) (sb : Bool) (p : Acc → Bool) : (s.logDead w sb p).cores = s.cores := by
  unfold State.logDead; generalize s.accs.filter _ = l
  induction l generalizing s with
  | nil => rfl
  | cons x l ih => simp only [List.foldl_cons, ih, State.updWave_cores]
@[simp] theorem State.logDead_mem (s : State) (w : Nat) (sb : Bool) (p : Acc → Bool) : (s.logDead w sb p).mem = s.mem := by
  unfold State.logDead; generalize s.accs.filter _ = l
  induction l generalizing s with
  | nil => rfl
  | cons x l ih => simp only [List.foldl_cons, ih, State.updWave_mem]
@[simp] theorem State.logDead_array (s : State) (w : Nat) (sb : Bool) (p : Acc → Bool) : (s.logDead w sb p).array = s.array := by
  unfold State.logDead; generalize s.accs.filter _ = l
  induction l generalizing s with
  | nil => rfl
  | cons x l ih => simp only [List.foldl_cons, ih, State.updWave_array]
@[simp] theorem State.logDead_hostMem (s : State) (w : Nat) (sb : Bool) (p : Acc → Bool) : (s.logDead w sb p).hostMem = s.hostMem := by
  unfold State.logDead; generalize s.accs.filter _ = l
  induction l generalizing s with
  | nil => rfl
  | cons x l ih => simp only [List.foldl_cons, ih, State.updWave_hostMem]
@[simp] theorem State.logDead_peerMem (s : State) (w : Nat) (sb : Bool) (p : Acc → Bool) : (s.logDead w sb p).peerMem = s.peerMem := by
  unfold State.logDead; generalize s.accs.filter _ = l
  induction l generalizing s with
  | nil => rfl
  | cons x l ih => simp only [List.foldl_cons, ih, State.updWave_peerMem]
@[simp] theorem State.logDead_registrant (s : State) (w : Nat) (sb : Bool) (p : Acc → Bool) : (s.logDead w sb p).registrant = s.registrant := by
  unfold State.logDead; generalize s.accs.filter _ = l
  induction l generalizing s with
  | nil => rfl
  | cons x l ih => simp only [List.foldl_cons, ih, State.updWave_registrant]
@[simp] theorem State.logDead_claims (s : State) (w : Nat) (sb : Bool) (p : Acc → Bool) : (s.logDead w sb p).claims = s.claims := by
  unfold State.logDead; generalize s.accs.filter _ = l
  induction l generalizing s with
  | nil => rfl
  | cons x l ih => simp only [List.foldl_cons, ih, State.updWave_claims]
@[simp] theorem State.logDead_cells (s : State) (w : Nat) (sb : Bool) (p : Acc → Bool) : (s.logDead w sb p).cells = s.cells := by
  unfold State.logDead; generalize s.accs.filter _ = l
  induction l generalizing s with
  | nil => rfl
  | cons x l ih => simp only [List.foldl_cons, ih, State.updWave_cells]
@[simp] theorem State.logDead_regions (s : State) (w : Nat) (sb : Bool) (p : Acc → Bool) : (s.logDead w sb p).regions = s.regions := by
  unfold State.logDead; generalize s.accs.filter _ = l
  induction l generalizing s with
  | nil => rfl
  | cons x l ih => simp only [List.foldl_cons, ih, State.updWave_regions]
@[simp] theorem State.logDead_rdc (s : State) (w : Nat) (sb : Bool) (p : Acc → Bool) : (s.logDead w sb p).rdc = s.rdc := by
  unfold State.logDead; generalize s.accs.filter _ = l
  induction l generalizing s with
  | nil => rfl
  | cons x l ih => simp only [List.foldl_cons, ih, State.updWave_rdc]
@[simp] theorem State.logDead_l2 (s : State) (w : Nat) (sb : Bool) (p : Acc → Bool) : (s.logDead w sb p).l2 = s.l2 := by
  unfold State.logDead; generalize s.accs.filter _ = l
  induction l generalizing s with
  | nil => rfl
  | cons x l ih => simp only [List.foldl_cons, ih, State.updWave_l2]
@[simp] theorem State.logDead_msc (s : State) (w : Nat) (sb : Bool) (p : Acc → Bool) : (s.logDead w sb p).msc = s.msc := by
  unfold State.logDead; generalize s.accs.filter _ = l
  induction l generalizing s with
  | nil => rfl
  | cons x l ih => simp only [List.foldl_cons, ih, State.updWave_msc]
@[simp] theorem State.logDead_stacks (s : State) (w : Nat) (sb : Bool) (p : Acc → Bool) : (s.logDead w sb p).hbms = s.hbms := by
  unfold State.logDead; generalize s.accs.filter _ = l
  induction l generalizing s with
  | nil => rfl
  | cons x l ih => simp only [List.foldl_cons, ih, State.updWave_stacks]
@[simp] theorem State.logDead_bad (s : State) (w : Nat) (sb : Bool) (p : Acc → Bool) : (s.logDead w sb p).bad = s.bad := by
  unfold State.logDead; generalize s.accs.filter _ = l
  induction l generalizing s with
  | nil => rfl
  | cons x l ih => simp only [List.foldl_cons, ih, State.updWave_bad]
@[simp] theorem State.logDead_weak (s : State) (w : Nat) (sb : Bool) (p : Acc → Bool) : (s.logDead w sb p).weak = s.weak := by
  unfold State.logDead; generalize s.accs.filter _ = l
  induction l generalizing s with
  | nil => rfl
  | cons x l ih => simp only [List.foldl_cons, ih, State.updWave_weak]
@[simp] theorem State.logDead_lost (s : State) (w : Nat) (sb : Bool) (p : Acc → Bool) : (s.logDead w sb p).lost = s.lost := by
  unfold State.logDead; generalize s.accs.filter _ = l
  induction l generalizing s with
  | nil => rfl
  | cons x l ih => simp only [List.foldl_cons, ih, State.updWave_lost]
@[simp] theorem State.logDead_hostLines (s : State) (w : Nat) (sb : Bool) (p : Acc → Bool) : (s.logDead w sb p).hostLines = s.hostLines := by
  unfold State.logDead; generalize s.accs.filter _ = l
  induction l generalizing s with
  | nil => rfl
  | cons x l ih => simp only [List.foldl_cons, ih, State.updWave_hostLines]
@[simp] theorem State.logDead_tlb (s : State) (w : Nat) (sb : Bool) (p : Acc → Bool) : (s.logDead w sb p).tlb = s.tlb := by
  unfold State.logDead; generalize s.accs.filter _ = l
  induction l generalizing s with
  | nil => rfl
  | cons x l ih => simp only [List.foldl_cons, ih, State.updWave_tlb]
@[simp] theorem State.logDead_accs (s : State) (w : Nat) (sb : Bool) (p : Acc → Bool) : (s.logDead w sb p).accs = s.accs := by
  unfold State.logDead; generalize s.accs.filter _ = l
  induction l generalizing s with
  | nil => rfl
  | cons x l ih => simp only [List.foldl_cons, ih, State.updWave_accs]
@[simp] theorem State.logDead_net (s : State) (w : Nat) (sb : Bool) (p : Acc → Bool) : (s.logDead w sb p).net = s.net := by
  unfold State.logDead; generalize s.accs.filter _ = l
  induction l generalizing s with
  | nil => rfl
  | cons x l ih => simp only [List.foldl_cons, ih, State.updWave_net]
@[simp] theorem State.logDead_abufs (s : State) (w : Nat) (sb : Bool) (p : Acc → Bool) : (s.logDead w sb p).abufs = s.abufs := by
  unfold State.logDead; generalize s.accs.filter _ = l
  induction l generalizing s with
  | nil => rfl
  | cons x l ih => simp only [List.foldl_cons, ih, State.updWave_abufs]
@[simp] theorem State.logDead_jobs (s : State) (w : Nat) (sb : Bool) (p : Acc → Bool) : (s.logDead w sb p).jobs = s.jobs := by
  unfold State.logDead; generalize s.accs.filter _ = l
  induction l generalizing s with
  | nil => rfl
  | cons x l ih => simp only [List.foldl_cons, ih, State.updWave_jobs]
@[simp] theorem State.logDead_feet (s : State) (w : Nat) (sb : Bool) (p : Acc → Bool) : (s.logDead w sb p).feet = s.feet := by
  unfold State.logDead; generalize s.accs.filter _ = l
  induction l generalizing s with
  | nil => rfl
  | cons x l ih => simp only [List.foldl_cons, ih, State.updWave_feet]
@[simp] theorem State.logDead_shapes (s : State) (w : Nat) (sb : Bool) (p : Acc → Bool) : (s.logDead w sb p).shapes = s.shapes := by
  unfold State.logDead; generalize s.accs.filter _ = l
  induction l generalizing s with
  | nil => rfl
  | cons x l ih => simp only [List.foldl_cons, ih, State.updWave_shapes]
@[simp] theorem State.logDead_eqs (s : State) (w : Nat) (sb : Bool) (p : Acc → Bool) : (s.logDead w sb p).eqs = s.eqs := by
  unfold State.logDead; generalize s.accs.filter _ = l
  induction l generalizing s with
  | nil => rfl
  | cons x l ih => simp only [List.foldl_cons, ih, State.updWave_eqs]
@[simp] theorem State.logDead_insts (s : State) (w : Nat) (sb : Bool) (p : Acc → Bool) : (s.logDead w sb p).insts = s.insts := by
  unfold State.logDead; generalize s.accs.filter _ = l
  induction l generalizing s with
  | nil => rfl
  | cons x l ih => simp only [List.foldl_cons, ih, State.updWave_insts]
@[simp] theorem State.logDead_links (s : State) (w : Nat) (sb : Bool) (p : Acc → Bool) : (s.logDead w sb p).links = s.links := by
  unfold State.logDead; generalize s.accs.filter _ = l
  induction l generalizing s with
  | nil => rfl
  | cons x l ih => simp only [List.foldl_cons, ih, State.updWave_links]
@[simp] theorem State.logDead_hostAccs (s : State) (w : Nat) (sb : Bool) (p : Acc → Bool) : (s.logDead w sb p).hostAccs = s.hostAccs := by
  unfold State.logDead; generalize s.accs.filter _ = l
  induction l generalizing s with
  | nil => rfl
  | cons x l ih => simp only [List.foldl_cons, ih, State.updWave_hostAccs]
@[simp] theorem State.logDead_mgmt (s : State) (w : Nat) (sb : Bool) (p : Acc → Bool) : (s.logDead w sb p).mgmt = s.mgmt := by
  unfold State.logDead; generalize s.accs.filter _ = l
  induction l generalizing s with
  | nil => rfl
  | cons x l ih => simp only [List.foldl_cons, ih, State.updWave_mgmt]
@[simp] theorem State.logDead_focus (s : State) (w : Nat) (sb : Bool) (p : Acc → Bool) : (s.logDead w sb p).focus = s.focus := by
  unfold State.logDead; generalize s.accs.filter _ = l
  induction l generalizing s with
  | nil => rfl
  | cons x l ih => simp only [List.foldl_cons, ih, State.updWave_focus]
@[simp] theorem State.logDead_agenda (s : State) (w : Nat) (sb : Bool) (p : Acc → Bool) : (s.logDead w sb p).agenda = s.agenda := by
  unfold State.logDead; generalize s.accs.filter _ = l
  induction l generalizing s with
  | nil => rfl
  | cons x l ih => simp only [List.foldl_cons, ih, State.updWave_agenda]
@[simp] theorem State.logDead_seq (s : State) (w : Nat) (sb : Bool) (p : Acc → Bool) : (s.logDead w sb p).seq = s.seq := by
  unfold State.logDead; generalize s.accs.filter _ = l
  induction l generalizing s with
  | nil => rfl
  | cons x l ih => simp only [List.foldl_cons, ih, State.updWave_seq]
@[simp] theorem State.logDead_wave_block (s : State) (w : Nat) (sb : Bool) (p : Acc → Bool) (k : Nat) : ((s.logDead w sb p).wave k).block = (s.wave k).block := by
  unfold State.logDead; generalize s.accs.filter _ = l
  induction l generalizing s with
  | nil => rfl
  | cons x l ih => simp only [List.foldl_cons, ih, State.updWave_at]; split <;> simp
@[simp] theorem State.logDead_wave_idx (s : State) (w : Nat) (sb : Bool) (p : Acc → Bool) (k : Nat) : ((s.logDead w sb p).wave k).idx = (s.wave k).idx := by
  unfold State.logDead; generalize s.accs.filter _ = l
  induction l generalizing s with
  | nil => rfl
  | cons x l ih => simp only [List.foldl_cons, ih, State.updWave_at]; split <;> simp
@[simp] theorem State.logDead_wave_exited (s : State) (w : Nat) (sb : Bool) (p : Acc → Bool) (k : Nat) : ((s.logDead w sb p).wave k).exited = (s.wave k).exited := by
  unfold State.logDead; generalize s.accs.filter _ = l
  induction l generalizing s with
  | nil => rfl
  | cons x l ih => simp only [List.foldl_cons, ih, State.updWave_at]; split <;> simp
@[simp] theorem State.logDead_wave_launchMask (s : State) (w : Nat) (sb : Bool) (p : Acc → Bool) (k : Nat) : ((s.logDead w sb p).wave k).launchMask = (s.wave k).launchMask := by
  unfold State.logDead; generalize s.accs.filter _ = l
  induction l generalizing s with
  | nil => rfl
  | cons x l ih => simp only [List.foldl_cons, ih, State.updWave_at]; split <;> simp
@[simp] theorem State.logDead_wave_pad (s : State) (w : Nat) (sb : Bool) (p : Acc → Bool) (k : Nat) : ((s.logDead w sb p).wave k).pad = (s.wave k).pad := by
  unfold State.logDead; generalize s.accs.filter _ = l
  induction l generalizing s with
  | nil => rfl
  | cons x l ih => simp only [List.foldl_cons, ih, State.updWave_at]; split <;> simp
@[simp] theorem State.logDead_wave_sregs (s : State) (w : Nat) (sb : Bool) (p : Acc → Bool) (k : Nat) : ((s.logDead w sb p).wave k).sregs = (s.wave k).sregs := by
  unfold State.logDead; generalize s.accs.filter _ = l
  induction l generalizing s with
  | nil => rfl
  | cons x l ih => simp only [List.foldl_cons, ih, State.updWave_at]; split <;> simp
@[simp] theorem State.logDead_wave_vregs (s : State) (w : Nat) (sb : Bool) (p : Acc → Bool) (k : Nat) : ((s.logDead w sb p).wave k).vregs = (s.wave k).vregs := by
  unfold State.logDead; generalize s.accs.filter _ = l
  induction l generalizing s with
  | nil => rfl
  | cons x l ih => simp only [List.foldl_cons, ih, State.updWave_at]; split <;> simp
@[simp] theorem State.logDead_wave_pregs (s : State) (w : Nat) (sb : Bool) (p : Acc → Bool) (k : Nat) : ((s.logDead w sb p).wave k).pregs = (s.wave k).pregs := by
  unfold State.logDead; generalize s.accs.filter _ = l
  induction l generalizing s with
  | nil => rfl
  | cons x l ih => simp only [List.foldl_cons, ih, State.updWave_at]; split <;> simp
@[simp] theorem State.logDead_wave_lastB (s : State) (w : Nat) (sb : Bool) (p : Acc → Bool) (k : Nat) : ((s.logDead w sb p).wave k).lastB = (s.wave k).lastB := by
  unfold State.logDead; generalize s.accs.filter _ = l
  induction l generalizing s with
  | nil => rfl
  | cons x l ih => simp only [List.foldl_cons, ih, State.updWave_at]; split <;> simp
@[simp] theorem State.logDead_wave_spill (s : State) (w : Nat) (sb : Bool) (p : Acc → Bool) (k : Nat) : ((s.logDead w sb p).wave k).spill = (s.wave k).spill := by
  unfold State.logDead; generalize s.accs.filter _ = l
  induction l generalizing s with
  | nil => rfl
  | cons x l ih => simp only [List.foldl_cons, ih, State.updWave_at]; split <;> simp
@[simp] theorem State.logDead_wave_handler (s : State) (w : Nat) (sb : Bool) (p : Acc → Bool) (k : Nat) : ((s.logDead w sb p).wave k).handler = (s.wave k).handler := by
  unfold State.logDead; generalize s.accs.filter _ = l
  induction l generalizing s with
  | nil => rfl
  | cons x l ih => simp only [List.foldl_cons, ih, State.updWave_at]; split <;> simp
@[simp] theorem State.logDead_wave_xpc (s : State) (w : Nat) (sb : Bool) (p : Acc → Bool) (k : Nat) : ((s.logDead w sb p).wave k).xpc = (s.wave k).xpc := by
  unfold State.logDead; generalize s.accs.filter _ = l
  induction l generalizing s with
  | nil => rfl
  | cons x l ih => simp only [List.foldl_cons, ih, State.updWave_at]; split <;> simp
@[simp] theorem State.logDead_wave_xmode (s : State) (w : Nat) (sb : Bool) (p : Acc → Bool) (k : Nat) : ((s.logDead w sb p).wave k).xmode = (s.wave k).xmode := by
  unfold State.logDead; generalize s.accs.filter _ = l
  induction l generalizing s with
  | nil => rfl
  | cons x l ih => simp only [List.foldl_cons, ih, State.updWave_at]; split <;> simp
@[simp] theorem State.logDead_wave_xcause (s : State) (w : Nat) (sb : Bool) (p : Acc → Bool) (k : Nat) : ((s.logDead w sb p).wave k).xcause = (s.wave k).xcause := by
  unfold State.logDead; generalize s.accs.filter _ = l
  induction l generalizing s with
  | nil => rfl
  | cons x l ih => simp only [List.foldl_cons, ih, State.updWave_at]; split <;> simp
@[simp] theorem State.logDead_wave_xlanes (s : State) (w : Nat) (sb : Bool) (p : Acc → Bool) (k : Nat) : ((s.logDead w sb p).wave k).xlanes = (s.wave k).xlanes := by
  unfold State.logDead; generalize s.accs.filter _ = l
  induction l generalizing s with
  | nil => rfl
  | cons x l ih => simp only [List.foldl_cons, ih, State.updWave_at]; split <;> simp
@[simp] theorem State.logDead_wave_xaddr (s : State) (w : Nat) (sb : Bool) (p : Acc → Bool) (k : Nat) : ((s.logDead w sb p).wave k).xaddr = (s.wave k).xaddr := by
  unfold State.logDead; generalize s.accs.filter _ = l
  induction l generalizing s with
  | nil => rfl
  | cons x l ih => simp only [List.foldl_cons, ih, State.updWave_at]; split <;> simp
@[simp] theorem State.logDead_wave_gexposed (s : State) (w : Nat) (sb : Bool) (p : Acc → Bool) (k : Nat) : ((s.logDead w sb p).wave k).gexposed = (s.wave k).gexposed := by
  unfold State.logDead; generalize s.accs.filter _ = l
  induction l generalizing s with
  | nil => rfl
  | cons x l ih => simp only [List.foldl_cons, ih, State.updWave_at]; split <;> simp
@[simp] theorem State.logDead_wave_jobs (s : State) (w : Nat) (sb : Bool) (p : Acc → Bool) (k : Nat) : ((s.logDead w sb p).wave k).jobs = (s.wave k).jobs := by
  unfold State.logDead; generalize s.accs.filter _ = l
  induction l generalizing s with
  | nil => rfl
  | cons x l ih => simp only [List.foldl_cons, ih, State.updWave_at]; split <;> simp
@[simp] theorem State.logDead_wave_left (s : State) (w : Nat) (sb : Bool) (p : Acc → Bool) (k : Nat) : ((s.logDead w sb p).wave k).left = (s.wave k).left := by
  unfold State.logDead; generalize s.accs.filter _ = l
  induction l generalizing s with
  | nil => rfl
  | cons x l ih => simp only [List.foldl_cons, ih, State.updWave_at]; split <;> simp
@[simp] theorem State.logDead_wave_mm (s : State) (w : Nat) (sb : Bool) (p : Acc → Bool) (k : Nat) : ((s.logDead w sb p).wave k).mm = (s.wave k).mm := by
  unfold State.logDead; generalize s.accs.filter _ = l
  induction l generalizing s with
  | nil => rfl
  | cons x l ih => simp only [List.foldl_cons, ih, State.updWave_at]; split <;> simp
@[simp] theorem State.logDead_wave_epoch (s : State) (w : Nat) (sb : Bool) (p : Acc → Bool) (k : Nat) : ((s.logDead w sb p).wave k).epoch = (s.wave k).epoch := by
  unfold State.logDead; generalize s.accs.filter _ = l
  induction l generalizing s with
  | nil => rfl
  | cons x l ih => simp only [List.foldl_cons, ih, State.updWave_at]; split <;> simp
@[simp] theorem State.logDead_wave_tags (s : State) (w : Nat) (sb : Bool) (p : Acc → Bool) (k : Nat) : ((s.logDead w sb p).wave k).tags = (s.wave k).tags := by
  unfold State.logDead; generalize s.accs.filter _ = l
  induction l generalizing s with
  | nil => rfl
  | cons x l ih => simp only [List.foldl_cons, ih, State.updWave_at]; split <;> simp
@[simp] theorem State.logDead_wave_sfr (s : State) (w : Nat) (sb : Bool) (p : Acc → Bool) (k : Nat) : ((s.logDead w sb p).wave k).sfr = (s.wave k).sfr := by
  unfold State.logDead; generalize s.accs.filter _ = l
  induction l generalizing s with
  | nil => rfl
  | cons x l ih => simp only [List.foldl_cons, ih, State.updWave_at]; split <;> simp
@[simp] theorem State.logDead_wave_arrived (s : State) (w : Nat) (sb : Bool) (p : Acc → Bool) (k : Nat) : ((s.logDead w sb p).wave k).arrived = (s.wave k).arrived := by
  unfold State.logDead; generalize s.accs.filter _ = l
  induction l generalizing s with
  | nil => rfl
  | cons x l ih => simp only [List.foldl_cons, ih, State.updWave_at]; split <;> simp
@[simp] theorem State.logDead_wave_region (s : State) (w : Nat) (sb : Bool) (p : Acc → Bool) (k : Nat) : ((s.logDead w sb p).wave k).region = (s.wave k).region := by
  unfold State.logDead; generalize s.accs.filter _ = l
  induction l generalizing s with
  | nil => rfl
  | cons x l ih => simp only [List.foldl_cons, ih, State.updWave_at]; split <;> simp
@[simp] theorem State.logDead_wave_pend (s : State) (w : Nat) (sb : Bool) (p : Acc → Bool) (k : Nat) : ((s.logDead w sb p).wave k).pend = (s.wave k).pend := by
  unfold State.logDead; generalize s.accs.filter _ = l
  induction l generalizing s with
  | nil => rfl
  | cons x l ih => simp only [List.foldl_cons, ih, State.updWave_at]; split <;> simp
@[simp] theorem State.logDead_wave_lost (s : State) (w : Nat) (sb : Bool) (p : Acc → Bool) (k : Nat) : ((s.logDead w sb p).wave k).lost = (s.wave k).lost := by
  unfold State.logDead; generalize s.accs.filter _ = l
  induction l generalizing s with
  | nil => rfl
  | cons x l ih => simp only [List.foldl_cons, ih, State.updWave_at]; split <;> simp
@[simp] theorem State.logDead_wave_since (s : State) (w : Nat) (sb : Bool) (p : Acc → Bool) (k : Nat) : ((s.logDead w sb p).wave k).since = (s.wave k).since := by
  unfold State.logDead; generalize s.accs.filter _ = l
  induction l generalizing s with
  | nil => rfl
  | cons x l ih => simp only [List.foldl_cons, ih, State.updWave_at]; split <;> simp

/-! ### Scalar registers -/

@[simp] theorem State.writeSV_blocks (s : State) (r : Nat) (x : SRegVal) : (s.writeSV r x).blocks = s.blocks := by simp [State.writeSV]
@[simp] theorem State.writeSV_launches (s : State) (r : Nat) (x : SRegVal) : (s.writeSV r x).launches = s.launches := by simp [State.writeSV]
@[simp] theorem State.writeSV_cores (s : State) (r : Nat) (x : SRegVal) : (s.writeSV r x).cores = s.cores := by simp [State.writeSV]
@[simp] theorem State.writeSV_mem (s : State) (r : Nat) (x : SRegVal) : (s.writeSV r x).mem = s.mem := by simp [State.writeSV]
@[simp] theorem State.writeSV_array (s : State) (r : Nat) (x : SRegVal) : (s.writeSV r x).array = s.array := by simp [State.writeSV]
@[simp] theorem State.writeSV_hostMem (s : State) (r : Nat) (x : SRegVal) : (s.writeSV r x).hostMem = s.hostMem := by simp [State.writeSV]
@[simp] theorem State.writeSV_peerMem (s : State) (r : Nat) (x : SRegVal) : (s.writeSV r x).peerMem = s.peerMem := by simp [State.writeSV]
@[simp] theorem State.writeSV_registrant (s : State) (r : Nat) (x : SRegVal) : (s.writeSV r x).registrant = s.registrant := by simp [State.writeSV]
@[simp] theorem State.writeSV_claims (s : State) (r : Nat) (x : SRegVal) : (s.writeSV r x).claims = s.claims := by simp [State.writeSV]
@[simp] theorem State.writeSV_cells (s : State) (r : Nat) (x : SRegVal) : (s.writeSV r x).cells = s.cells := by simp [State.writeSV]
@[simp] theorem State.writeSV_regions (s : State) (r : Nat) (x : SRegVal) : (s.writeSV r x).regions = s.regions := by simp [State.writeSV]
@[simp] theorem State.writeSV_rdc (s : State) (r : Nat) (x : SRegVal) : (s.writeSV r x).rdc = s.rdc := by simp [State.writeSV]
@[simp] theorem State.writeSV_l2 (s : State) (r : Nat) (x : SRegVal) : (s.writeSV r x).l2 = s.l2 := by simp [State.writeSV]
@[simp] theorem State.writeSV_msc (s : State) (r : Nat) (x : SRegVal) : (s.writeSV r x).msc = s.msc := by simp [State.writeSV]
@[simp] theorem State.writeSV_stacks (s : State) (r : Nat) (x : SRegVal) : (s.writeSV r x).hbms = s.hbms := by simp [State.writeSV]
@[simp] theorem State.writeSV_bad (s : State) (r : Nat) (x : SRegVal) : (s.writeSV r x).bad = s.bad := by simp [State.writeSV]
@[simp] theorem State.writeSV_weak (s : State) (r : Nat) (x : SRegVal) : (s.writeSV r x).weak = s.weak := by simp [State.writeSV]
@[simp] theorem State.writeSV_lost (s : State) (r : Nat) (x : SRegVal) : (s.writeSV r x).lost = s.lost := by simp [State.writeSV]
@[simp] theorem State.writeSV_hostLines (s : State) (r : Nat) (x : SRegVal) : (s.writeSV r x).hostLines = s.hostLines := by simp [State.writeSV]
@[simp] theorem State.writeSV_tlb (s : State) (r : Nat) (x : SRegVal) : (s.writeSV r x).tlb = s.tlb := by simp [State.writeSV]
@[simp] theorem State.writeSV_net (s : State) (r : Nat) (x : SRegVal) : (s.writeSV r x).net = s.net := by simp [State.writeSV]
@[simp] theorem State.writeSV_abufs (s : State) (r : Nat) (x : SRegVal) : (s.writeSV r x).abufs = s.abufs := by simp [State.writeSV]
@[simp] theorem State.writeSV_jobs (s : State) (r : Nat) (x : SRegVal) : (s.writeSV r x).jobs = s.jobs := by simp [State.writeSV]
@[simp] theorem State.writeSV_feet (s : State) (r : Nat) (x : SRegVal) : (s.writeSV r x).feet = s.feet := by simp [State.writeSV]
@[simp] theorem State.writeSV_shapes (s : State) (r : Nat) (x : SRegVal) : (s.writeSV r x).shapes = s.shapes := by simp [State.writeSV]
@[simp] theorem State.writeSV_eqs (s : State) (r : Nat) (x : SRegVal) : (s.writeSV r x).eqs = s.eqs := by simp [State.writeSV]
@[simp] theorem State.writeSV_insts (s : State) (r : Nat) (x : SRegVal) : (s.writeSV r x).insts = s.insts := by simp [State.writeSV]
@[simp] theorem State.writeSV_links (s : State) (r : Nat) (x : SRegVal) : (s.writeSV r x).links = s.links := by simp [State.writeSV]
@[simp] theorem State.writeSV_hostAccs (s : State) (r : Nat) (x : SRegVal) : (s.writeSV r x).hostAccs = s.hostAccs := by simp [State.writeSV]
@[simp] theorem State.writeSV_mgmt (s : State) (r : Nat) (x : SRegVal) : (s.writeSV r x).mgmt = s.mgmt := by simp [State.writeSV]
@[simp] theorem State.writeSV_focus (s : State) (r : Nat) (x : SRegVal) : (s.writeSV r x).focus = s.focus := by simp [State.writeSV]
@[simp] theorem State.writeSV_agenda (s : State) (r : Nat) (x : SRegVal) : (s.writeSV r x).agenda = s.agenda := by simp [State.writeSV]
@[simp] theorem State.writeSV_seq (s : State) (r : Nat) (x : SRegVal) : (s.writeSV r x).seq = s.seq := by simp [State.writeSV]
@[simp] theorem State.writeSV_block (s : State) (r : Nat) (x : SRegVal) (k : Nat) : (s.writeSV r x).block k = s.block k := by simp [State.block]
@[simp] theorem State.writeSV_launch (s : State) (r : Nat) (x : SRegVal) (k : Nat) : (s.writeSV r x).launch k = s.launch k := by simp [State.launch]
@[simp] theorem State.writeSV_core (s : State) (r : Nat) (x : SRegVal) (k : Nat) : (s.writeSV r x).core k = s.core k := by simp [State.core]
@[simp] theorem State.writeSV_job (s : State) (r : Nat) (x : SRegVal) (k : Nat) : (s.writeSV r x).job k = s.job k := by simp [State.job]
@[simp] theorem State.writeSV_wave_block (s : State) (r : Nat) (x : SRegVal) (k : Nat) : ((s.writeSV r x).wave k).block = (s.wave k).block := by
  simp only [State.writeSV, State.updWave_at]; split <;> simp
@[simp] theorem State.writeSV_wave_idx (s : State) (r : Nat) (x : SRegVal) (k : Nat) : ((s.writeSV r x).wave k).idx = (s.wave k).idx := by
  simp only [State.writeSV, State.updWave_at]; split <;> simp
@[simp] theorem State.writeSV_wave_exited (s : State) (r : Nat) (x : SRegVal) (k : Nat) : ((s.writeSV r x).wave k).exited = (s.wave k).exited := by
  simp only [State.writeSV, State.updWave_at]; split <;> simp
@[simp] theorem State.writeSV_wave_launchMask (s : State) (r : Nat) (x : SRegVal) (k : Nat) : ((s.writeSV r x).wave k).launchMask = (s.wave k).launchMask := by
  simp only [State.writeSV, State.updWave_at]; split <;> simp
@[simp] theorem State.writeSV_wave_pad (s : State) (r : Nat) (x : SRegVal) (k : Nat) : ((s.writeSV r x).wave k).pad = (s.wave k).pad := by
  simp only [State.writeSV, State.updWave_at]; split <;> simp
@[simp] theorem State.writeSV_wave_vregs (s : State) (r : Nat) (x : SRegVal) (k : Nat) : ((s.writeSV r x).wave k).vregs = (s.wave k).vregs := by
  simp only [State.writeSV, State.updWave_at]; split <;> simp
@[simp] theorem State.writeSV_wave_pregs (s : State) (r : Nat) (x : SRegVal) (k : Nat) : ((s.writeSV r x).wave k).pregs = (s.wave k).pregs := by
  simp only [State.writeSV, State.updWave_at]; split <;> simp
@[simp] theorem State.writeSV_wave_lastB (s : State) (r : Nat) (x : SRegVal) (k : Nat) : ((s.writeSV r x).wave k).lastB = (s.wave k).lastB := by
  simp only [State.writeSV, State.updWave_at]; split <;> simp
@[simp] theorem State.writeSV_wave_spill (s : State) (r : Nat) (x : SRegVal) (k : Nat) : ((s.writeSV r x).wave k).spill = (s.wave k).spill := by
  simp only [State.writeSV, State.updWave_at]; split <;> simp
@[simp] theorem State.writeSV_wave_handler (s : State) (r : Nat) (x : SRegVal) (k : Nat) : ((s.writeSV r x).wave k).handler = (s.wave k).handler := by
  simp only [State.writeSV, State.updWave_at]; split <;> simp
@[simp] theorem State.writeSV_wave_xpc (s : State) (r : Nat) (x : SRegVal) (k : Nat) : ((s.writeSV r x).wave k).xpc = (s.wave k).xpc := by
  simp only [State.writeSV, State.updWave_at]; split <;> simp
@[simp] theorem State.writeSV_wave_xmode (s : State) (r : Nat) (x : SRegVal) (k : Nat) : ((s.writeSV r x).wave k).xmode = (s.wave k).xmode := by
  simp only [State.writeSV, State.updWave_at]; split <;> simp
@[simp] theorem State.writeSV_wave_xcause (s : State) (r : Nat) (x : SRegVal) (k : Nat) : ((s.writeSV r x).wave k).xcause = (s.wave k).xcause := by
  simp only [State.writeSV, State.updWave_at]; split <;> simp
@[simp] theorem State.writeSV_wave_xlanes (s : State) (r : Nat) (x : SRegVal) (k : Nat) : ((s.writeSV r x).wave k).xlanes = (s.wave k).xlanes := by
  simp only [State.writeSV, State.updWave_at]; split <;> simp
@[simp] theorem State.writeSV_wave_xaddr (s : State) (r : Nat) (x : SRegVal) (k : Nat) : ((s.writeSV r x).wave k).xaddr = (s.wave k).xaddr := by
  simp only [State.writeSV, State.updWave_at]; split <;> simp
@[simp] theorem State.writeSV_wave_gexposed (s : State) (r : Nat) (x : SRegVal) (k : Nat) : ((s.writeSV r x).wave k).gexposed = (s.wave k).gexposed := by
  simp only [State.writeSV, State.updWave_at]; split <;> simp
@[simp] theorem State.writeSV_wave_jobs (s : State) (r : Nat) (x : SRegVal) (k : Nat) : ((s.writeSV r x).wave k).jobs = (s.wave k).jobs := by
  simp only [State.writeSV, State.updWave_at]; split <;> simp
@[simp] theorem State.writeSV_wave_left (s : State) (r : Nat) (x : SRegVal) (k : Nat) : ((s.writeSV r x).wave k).left = (s.wave k).left := by
  simp only [State.writeSV, State.updWave_at]; split <;> simp
@[simp] theorem State.writeSV_wave_mm (s : State) (r : Nat) (x : SRegVal) (k : Nat) : ((s.writeSV r x).wave k).mm = (s.wave k).mm := by
  simp only [State.writeSV, State.updWave_at]; split <;> simp
@[simp] theorem State.writeSV_wave_epoch (s : State) (r : Nat) (x : SRegVal) (k : Nat) : ((s.writeSV r x).wave k).epoch = (s.wave k).epoch := by
  simp only [State.writeSV, State.updWave_at]; split <;> simp
@[simp] theorem State.writeSV_wave_tags (s : State) (r : Nat) (x : SRegVal) (k : Nat) : ((s.writeSV r x).wave k).tags = (s.wave k).tags := by
  simp only [State.writeSV, State.updWave_at]; split <;> simp
@[simp] theorem State.writeSV_wave_sfr (s : State) (r : Nat) (x : SRegVal) (k : Nat) : ((s.writeSV r x).wave k).sfr = (s.wave k).sfr := by
  simp only [State.writeSV, State.updWave_at]; split <;> simp
@[simp] theorem State.writeSV_wave_arrived (s : State) (r : Nat) (x : SRegVal) (k : Nat) : ((s.writeSV r x).wave k).arrived = (s.wave k).arrived := by
  simp only [State.writeSV, State.updWave_at]; split <;> simp
@[simp] theorem State.writeSV_wave_pend (s : State) (r : Nat) (x : SRegVal) (k : Nat) : ((s.writeSV r x).wave k).pend = (s.wave k).pend := by
  simp only [State.writeSV, State.updWave_at]; split <;> simp
@[simp] theorem State.writeSV_wave_lost (s : State) (r : Nat) (x : SRegVal) (k : Nat) : ((s.writeSV r x).wave k).lost = (s.wave k).lost := by
  simp only [State.writeSV, State.updWave_at]; split <;> simp
@[simp] theorem State.writeSV_wave_since (s : State) (r : Nat) (x : SRegVal) (k : Nat) : ((s.writeSV r x).wave k).since = (s.wave k).since := by
  simp only [State.writeSV, State.updWave_at]; split <;> simp
theorem State.writeSV_sregs (s : State) (r : Nat) (x : SRegVal) (k j : Nat) :
    ((s.writeSV r x).wave k).sregs.get SRegVal.zero j = if k = s.focus.wave ∧ j = r then x else (s.wave k).sregs.get SRegVal.zero j := by
  simp only [State.writeSV, State.updWave_at]
  by_cases hk : s.focus.wave = k
  · subst hk
    by_cases hj : r = j
    · subst hj; simp [Tab.get_set_same]
    · simp [Tab.get_set_other _ _ _ _ _ hj, Ne.symm hj]
  · simp [hk, Ne.symm hk]

@[simp] theorem State.writeSV_slot_live (s : State) (r : Nat) (x : SRegVal) (k : Nat) (b : Bool) : (((s.writeSV r x).wave k).slot b).live = ((s.wave k).slot b).live := by
  simp only [State.writeSV, State.updWave_at]; split <;> cases b <;> simp [Wave.slot]
@[simp] theorem State.writeSV_slot_path (s : State) (r : Nat) (x : SRegVal) (k : Nat) (b : Bool) : (((s.writeSV r x).wave k).slot b).path = ((s.wave k).slot b).path := by
  simp only [State.writeSV, State.updWave_at]; split <;> cases b <;> simp [Wave.slot]
@[simp] theorem State.writeSV_slot_parked (s : State) (r : Nat) (x : SRegVal) (k : Nat) (b : Bool) : (((s.writeSV r x).wave k).slot b).parked = ((s.wave k).slot b).parked := by
  simp only [State.writeSV, State.updWave_at]; split <;> cases b <;> simp [Wave.slot]
@[simp] theorem State.writeSV_slot_held (s : State) (r : Nat) (x : SRegVal) (k : Nat) (b : Bool) : (((s.writeSV r x).wave k).slot b).held = ((s.wave k).slot b).held := by
  simp only [State.writeSV, State.updWave_at]; split <;> cases b <;> simp [Wave.slot]
@[simp] theorem State.writeSV_slot_phase (s : State) (r : Nat) (x : SRegVal) (k : Nat) (b : Bool) : (((s.writeSV r x).wave k).slot b).phase = ((s.wave k).slot b).phase := by
  simp only [State.writeSV, State.updWave_at]; split <;> cases b <;> simp [Wave.slot]
@[simp] theorem State.writeSV_slot_wait (s : State) (r : Nat) (x : SRegVal) (k : Nat) (b : Bool) : (((s.writeSV r x).wave k).slot b).wait = ((s.wave k).slot b).wait := by
  simp only [State.writeSV, State.updWave_at]; split <;> cases b <;> simp [Wave.slot]
@[simp] theorem State.writeSV_slot_ref (s : State) (r : Nat) (x : SRegVal) (k : Nat) (b : Bool) : (((s.writeSV r x).wave k).slot b).ref = ((s.wave k).slot b).ref := by
  simp only [State.writeSV, State.updWave_at]; split <;> cases b <;> simp [Wave.slot]
@[simp] theorem State.writeSV_slot_branched (s : State) (r : Nat) (x : SRegVal) (k : Nat) (b : Bool) : (((s.writeSV r x).wave k).slot b).branched = ((s.wave k).slot b).branched := by
  simp only [State.writeSV, State.updWave_at]; split <;> cases b <;> simp [Wave.slot]
@[simp] theorem State.writeSV_slot_yielded (s : State) (r : Nat) (x : SRegVal) (k : Nat) (b : Bool) : (((s.writeSV r x).wave k).slot b).yielded = ((s.wave k).slot b).yielded := by
  simp only [State.writeSV, State.updWave_at]; split <;> cases b <;> simp [Wave.slot]
@[simp] theorem State.writeSV_slot_passed (s : State) (r : Nat) (x : SRegVal) (k : Nat) (b : Bool) : (((s.writeSV r x).wave k).slot b).passed = ((s.wave k).slot b).passed := by
  simp only [State.writeSV, State.updWave_at]; split <;> cases b <;> simp [Wave.slot]
@[simp] theorem State.writeSV_slot_windowCount (s : State) (r : Nat) (x : SRegVal) (k : Nat) (b : Bool) : (((s.writeSV r x).wave k).slot b).windowCount = ((s.wave k).slot b).windowCount := by
  simp only [State.writeSV, State.updWave_at]; split <;> cases b <;> simp [Wave.slot]

/-! ### Vector registers -/

@[simp] theorem Wave.dropTag_block (w : Wave) (r : Nat) : (w.dropTag r).block = w.block := by unfold Wave.dropTag; split <;> rfl
@[simp] theorem Wave.dropTag_idx (w : Wave) (r : Nat) : (w.dropTag r).idx = w.idx := by unfold Wave.dropTag; split <;> rfl
@[simp] theorem Wave.dropTag_exited (w : Wave) (r : Nat) : (w.dropTag r).exited = w.exited := by unfold Wave.dropTag; split <;> rfl
@[simp] theorem Wave.dropTag_launchMask (w : Wave) (r : Nat) : (w.dropTag r).launchMask = w.launchMask := by unfold Wave.dropTag; split <;> rfl
@[simp] theorem Wave.dropTag_pad (w : Wave) (r : Nat) : (w.dropTag r).pad = w.pad := by unfold Wave.dropTag; split <;> rfl
@[simp] theorem Wave.dropTag_sregs (w : Wave) (r : Nat) : (w.dropTag r).sregs = w.sregs := by unfold Wave.dropTag; split <;> rfl
@[simp] theorem Wave.dropTag_vregs (w : Wave) (r : Nat) : (w.dropTag r).vregs = w.vregs := by unfold Wave.dropTag; split <;> rfl
@[simp] theorem Wave.dropTag_pregs (w : Wave) (r : Nat) : (w.dropTag r).pregs = w.pregs := by unfold Wave.dropTag; split <;> rfl
@[simp] theorem Wave.dropTag_lastB (w : Wave) (r : Nat) : (w.dropTag r).lastB = w.lastB := by unfold Wave.dropTag; split <;> rfl
@[simp] theorem Wave.dropTag_spill (w : Wave) (r : Nat) : (w.dropTag r).spill = w.spill := by unfold Wave.dropTag; split <;> rfl
@[simp] theorem Wave.dropTag_handler (w : Wave) (r : Nat) : (w.dropTag r).handler = w.handler := by unfold Wave.dropTag; split <;> rfl
@[simp] theorem Wave.dropTag_xpc (w : Wave) (r : Nat) : (w.dropTag r).xpc = w.xpc := by unfold Wave.dropTag; split <;> rfl
@[simp] theorem Wave.dropTag_xmode (w : Wave) (r : Nat) : (w.dropTag r).xmode = w.xmode := by unfold Wave.dropTag; split <;> rfl
@[simp] theorem Wave.dropTag_xcause (w : Wave) (r : Nat) : (w.dropTag r).xcause = w.xcause := by unfold Wave.dropTag; split <;> rfl
@[simp] theorem Wave.dropTag_xlanes (w : Wave) (r : Nat) : (w.dropTag r).xlanes = w.xlanes := by unfold Wave.dropTag; split <;> rfl
@[simp] theorem Wave.dropTag_xaddr (w : Wave) (r : Nat) : (w.dropTag r).xaddr = w.xaddr := by unfold Wave.dropTag; split <;> rfl
@[simp] theorem Wave.dropTag_gexposed (w : Wave) (r : Nat) : (w.dropTag r).gexposed = w.gexposed := by unfold Wave.dropTag; split <;> rfl
@[simp] theorem Wave.dropTag_jobs (w : Wave) (r : Nat) : (w.dropTag r).jobs = w.jobs := by unfold Wave.dropTag; split <;> rfl
@[simp] theorem Wave.dropTag_left (w : Wave) (r : Nat) : (w.dropTag r).left = w.left := by unfold Wave.dropTag; split <;> rfl
@[simp] theorem Wave.dropTag_epoch (w : Wave) (r : Nat) : (w.dropTag r).epoch = w.epoch := by unfold Wave.dropTag; split <;> rfl
@[simp] theorem Wave.dropTag_sfr (w : Wave) (r : Nat) : (w.dropTag r).sfr = w.sfr := by unfold Wave.dropTag; split <;> rfl
@[simp] theorem Wave.dropTag_arrived (w : Wave) (r : Nat) : (w.dropTag r).arrived = w.arrived := by unfold Wave.dropTag; split <;> rfl
@[simp] theorem Wave.dropTag_region (w : Wave) (r : Nat) : (w.dropTag r).region = w.region := by unfold Wave.dropTag; split <;> rfl
@[simp] theorem Wave.dropTag_pend (w : Wave) (r : Nat) : (w.dropTag r).pend = w.pend := by unfold Wave.dropTag; split <;> rfl
@[simp] theorem Wave.dropTag_lost (w : Wave) (r : Nat) : (w.dropTag r).lost = w.lost := by unfold Wave.dropTag; split <;> rfl
@[simp] theorem Wave.dropTag_since (w : Wave) (r : Nat) : (w.dropTag r).since = w.since := by unfold Wave.dropTag; split <;> rfl
@[simp] theorem Wave.dropTag_slotA (w : Wave) (r : Nat) : (w.dropTag r).slotA = w.slotA := by unfold Wave.dropTag; split <;> rfl
@[simp] theorem Wave.dropTag_slotB (w : Wave) (r : Nat) : (w.dropTag r).slotB = w.slotB := by unfold Wave.dropTag; split <;> rfl
@[simp] theorem Wave.dropTag_slot (w : Wave) (r : Nat) (b : Bool) : (w.dropTag r).slot b = w.slot b := by unfold Wave.dropTag; split <;> rfl
@[simp] theorem Wave.dropTag_v (w : Wave) (r i : Nat) : (w.dropTag r).v i = w.v i := by simp [Wave.v]
@[simp] theorem State.writeV_blocks (s : State) (r : Nat) (lanes : Mask) (val : Nat → Word) (guess : Mask) : (s.writeV r lanes val guess).blocks = s.blocks := by unfold State.writeV; split <;> simp
@[simp] theorem State.writeV_launches (s : State) (r : Nat) (lanes : Mask) (val : Nat → Word) (guess : Mask) : (s.writeV r lanes val guess).launches = s.launches := by unfold State.writeV; split <;> simp
@[simp] theorem State.writeV_cores (s : State) (r : Nat) (lanes : Mask) (val : Nat → Word) (guess : Mask) : (s.writeV r lanes val guess).cores = s.cores := by unfold State.writeV; split <;> simp
@[simp] theorem State.writeV_mem (s : State) (r : Nat) (lanes : Mask) (val : Nat → Word) (guess : Mask) : (s.writeV r lanes val guess).mem = s.mem := by unfold State.writeV; split <;> simp
@[simp] theorem State.writeV_array (s : State) (r : Nat) (lanes : Mask) (val : Nat → Word) (guess : Mask) : (s.writeV r lanes val guess).array = s.array := by unfold State.writeV; split <;> simp
@[simp] theorem State.writeV_hostMem (s : State) (r : Nat) (lanes : Mask) (val : Nat → Word) (guess : Mask) : (s.writeV r lanes val guess).hostMem = s.hostMem := by unfold State.writeV; split <;> simp
@[simp] theorem State.writeV_peerMem (s : State) (r : Nat) (lanes : Mask) (val : Nat → Word) (guess : Mask) : (s.writeV r lanes val guess).peerMem = s.peerMem := by unfold State.writeV; split <;> simp
@[simp] theorem State.writeV_registrant (s : State) (r : Nat) (lanes : Mask) (val : Nat → Word) (guess : Mask) : (s.writeV r lanes val guess).registrant = s.registrant := by unfold State.writeV; split <;> simp
@[simp] theorem State.writeV_claims (s : State) (r : Nat) (lanes : Mask) (val : Nat → Word) (guess : Mask) : (s.writeV r lanes val guess).claims = s.claims := by unfold State.writeV; split <;> simp
@[simp] theorem State.writeV_cells (s : State) (r : Nat) (lanes : Mask) (val : Nat → Word) (guess : Mask) : (s.writeV r lanes val guess).cells = s.cells := by unfold State.writeV; split <;> simp
@[simp] theorem State.writeV_regions (s : State) (r : Nat) (lanes : Mask) (val : Nat → Word) (guess : Mask) : (s.writeV r lanes val guess).regions = s.regions := by unfold State.writeV; split <;> simp
@[simp] theorem State.writeV_rdc (s : State) (r : Nat) (lanes : Mask) (val : Nat → Word) (guess : Mask) : (s.writeV r lanes val guess).rdc = s.rdc := by unfold State.writeV; split <;> simp
@[simp] theorem State.writeV_l2 (s : State) (r : Nat) (lanes : Mask) (val : Nat → Word) (guess : Mask) : (s.writeV r lanes val guess).l2 = s.l2 := by unfold State.writeV; split <;> simp
@[simp] theorem State.writeV_msc (s : State) (r : Nat) (lanes : Mask) (val : Nat → Word) (guess : Mask) : (s.writeV r lanes val guess).msc = s.msc := by unfold State.writeV; split <;> simp
@[simp] theorem State.writeV_stacks (s : State) (r : Nat) (lanes : Mask) (val : Nat → Word) (guess : Mask) : (s.writeV r lanes val guess).hbms = s.hbms := by unfold State.writeV; split <;> simp
@[simp] theorem State.writeV_bad (s : State) (r : Nat) (lanes : Mask) (val : Nat → Word) (guess : Mask) : (s.writeV r lanes val guess).bad = s.bad := by unfold State.writeV; split <;> simp
@[simp] theorem State.writeV_weak (s : State) (r : Nat) (lanes : Mask) (val : Nat → Word) (guess : Mask) : (s.writeV r lanes val guess).weak = s.weak := by unfold State.writeV; split <;> simp
@[simp] theorem State.writeV_lost (s : State) (r : Nat) (lanes : Mask) (val : Nat → Word) (guess : Mask) : (s.writeV r lanes val guess).lost = s.lost := by unfold State.writeV; split <;> simp
@[simp] theorem State.writeV_hostLines (s : State) (r : Nat) (lanes : Mask) (val : Nat → Word) (guess : Mask) : (s.writeV r lanes val guess).hostLines = s.hostLines := by unfold State.writeV; split <;> simp
@[simp] theorem State.writeV_tlb (s : State) (r : Nat) (lanes : Mask) (val : Nat → Word) (guess : Mask) : (s.writeV r lanes val guess).tlb = s.tlb := by unfold State.writeV; split <;> simp
@[simp] theorem State.writeV_net (s : State) (r : Nat) (lanes : Mask) (val : Nat → Word) (guess : Mask) : (s.writeV r lanes val guess).net = s.net := by unfold State.writeV; split <;> simp
@[simp] theorem State.writeV_abufs (s : State) (r : Nat) (lanes : Mask) (val : Nat → Word) (guess : Mask) : (s.writeV r lanes val guess).abufs = s.abufs := by unfold State.writeV; split <;> simp
@[simp] theorem State.writeV_jobs (s : State) (r : Nat) (lanes : Mask) (val : Nat → Word) (guess : Mask) : (s.writeV r lanes val guess).jobs = s.jobs := by unfold State.writeV; split <;> simp
@[simp] theorem State.writeV_feet (s : State) (r : Nat) (lanes : Mask) (val : Nat → Word) (guess : Mask) : (s.writeV r lanes val guess).feet = s.feet := by unfold State.writeV; split <;> simp
@[simp] theorem State.writeV_shapes (s : State) (r : Nat) (lanes : Mask) (val : Nat → Word) (guess : Mask) : (s.writeV r lanes val guess).shapes = s.shapes := by unfold State.writeV; split <;> simp
@[simp] theorem State.writeV_eqs (s : State) (r : Nat) (lanes : Mask) (val : Nat → Word) (guess : Mask) : (s.writeV r lanes val guess).eqs = s.eqs := by unfold State.writeV; split <;> simp
@[simp] theorem State.writeV_insts (s : State) (r : Nat) (lanes : Mask) (val : Nat → Word) (guess : Mask) : (s.writeV r lanes val guess).insts = s.insts := by unfold State.writeV; split <;> simp
@[simp] theorem State.writeV_links (s : State) (r : Nat) (lanes : Mask) (val : Nat → Word) (guess : Mask) : (s.writeV r lanes val guess).links = s.links := by unfold State.writeV; split <;> simp
@[simp] theorem State.writeV_hostAccs (s : State) (r : Nat) (lanes : Mask) (val : Nat → Word) (guess : Mask) : (s.writeV r lanes val guess).hostAccs = s.hostAccs := by unfold State.writeV; split <;> simp
@[simp] theorem State.writeV_mgmt (s : State) (r : Nat) (lanes : Mask) (val : Nat → Word) (guess : Mask) : (s.writeV r lanes val guess).mgmt = s.mgmt := by unfold State.writeV; split <;> simp
@[simp] theorem State.writeV_focus (s : State) (r : Nat) (lanes : Mask) (val : Nat → Word) (guess : Mask) : (s.writeV r lanes val guess).focus = s.focus := by unfold State.writeV; split <;> simp
@[simp] theorem State.writeV_agenda (s : State) (r : Nat) (lanes : Mask) (val : Nat → Word) (guess : Mask) : (s.writeV r lanes val guess).agenda = s.agenda := by unfold State.writeV; split <;> simp
@[simp] theorem State.writeV_seq (s : State) (r : Nat) (lanes : Mask) (val : Nat → Word) (guess : Mask) : (s.writeV r lanes val guess).seq = s.seq := by unfold State.writeV; split <;> simp
@[simp] theorem State.writeV_block (s : State) (r : Nat) (lanes : Mask) (val : Nat → Word) (guess : Mask) (k : Nat) : (s.writeV r lanes val guess).block k = s.block k := by simp [State.block]
@[simp] theorem State.writeV_launch (s : State) (r : Nat) (lanes : Mask) (val : Nat → Word) (guess : Mask) (k : Nat) : (s.writeV r lanes val guess).launch k = s.launch k := by simp [State.launch]
@[simp] theorem State.writeV_core (s : State) (r : Nat) (lanes : Mask) (val : Nat → Word) (guess : Mask) (k : Nat) : (s.writeV r lanes val guess).core k = s.core k := by simp [State.core]
@[simp] theorem State.writeV_job (s : State) (r : Nat) (lanes : Mask) (val : Nat → Word) (guess : Mask) (k : Nat) : (s.writeV r lanes val guess).job k = s.job k := by simp [State.job]
@[simp] theorem State.writeV_wave_block (s : State) (r : Nat) (lanes : Mask) (val : Nat → Word) (guess : Mask) (k : Nat) : ((s.writeV r lanes val guess).wave k).block = (s.wave k).block := by
  unfold State.writeV; split
  · rfl
  · simp only [State.updWave_at]; split <;> simp
@[simp] theorem State.writeV_wave_idx (s : State) (r : Nat) (lanes : Mask) (val : Nat → Word) (guess : Mask) (k : Nat) : ((s.writeV r lanes val guess).wave k).idx = (s.wave k).idx := by
  unfold State.writeV; split
  · rfl
  · simp only [State.updWave_at]; split <;> simp
@[simp] theorem State.writeV_wave_exited (s : State) (r : Nat) (lanes : Mask) (val : Nat → Word) (guess : Mask) (k : Nat) : ((s.writeV r lanes val guess).wave k).exited = (s.wave k).exited := by
  unfold State.writeV; split
  · rfl
  · simp only [State.updWave_at]; split <;> simp
@[simp] theorem State.writeV_wave_launchMask (s : State) (r : Nat) (lanes : Mask) (val : Nat → Word) (guess : Mask) (k : Nat) : ((s.writeV r lanes val guess).wave k).launchMask = (s.wave k).launchMask := by
  unfold State.writeV; split
  · rfl
  · simp only [State.updWave_at]; split <;> simp
@[simp] theorem State.writeV_wave_pad (s : State) (r : Nat) (lanes : Mask) (val : Nat → Word) (guess : Mask) (k : Nat) : ((s.writeV r lanes val guess).wave k).pad = (s.wave k).pad := by
  unfold State.writeV; split
  · rfl
  · simp only [State.updWave_at]; split <;> simp
@[simp] theorem State.writeV_wave_sregs (s : State) (r : Nat) (lanes : Mask) (val : Nat → Word) (guess : Mask) (k : Nat) : ((s.writeV r lanes val guess).wave k).sregs = (s.wave k).sregs := by
  unfold State.writeV; split
  · rfl
  · simp only [State.updWave_at]; split <;> simp
@[simp] theorem State.writeV_wave_pregs (s : State) (r : Nat) (lanes : Mask) (val : Nat → Word) (guess : Mask) (k : Nat) : ((s.writeV r lanes val guess).wave k).pregs = (s.wave k).pregs := by
  unfold State.writeV; split
  · rfl
  · simp only [State.updWave_at]; split <;> simp
@[simp] theorem State.writeV_wave_lastB (s : State) (r : Nat) (lanes : Mask) (val : Nat → Word) (guess : Mask) (k : Nat) : ((s.writeV r lanes val guess).wave k).lastB = (s.wave k).lastB := by
  unfold State.writeV; split
  · rfl
  · simp only [State.updWave_at]; split <;> simp
@[simp] theorem State.writeV_wave_spill (s : State) (r : Nat) (lanes : Mask) (val : Nat → Word) (guess : Mask) (k : Nat) : ((s.writeV r lanes val guess).wave k).spill = (s.wave k).spill := by
  unfold State.writeV; split
  · rfl
  · simp only [State.updWave_at]; split <;> simp
@[simp] theorem State.writeV_wave_handler (s : State) (r : Nat) (lanes : Mask) (val : Nat → Word) (guess : Mask) (k : Nat) : ((s.writeV r lanes val guess).wave k).handler = (s.wave k).handler := by
  unfold State.writeV; split
  · rfl
  · simp only [State.updWave_at]; split <;> simp
@[simp] theorem State.writeV_wave_xpc (s : State) (r : Nat) (lanes : Mask) (val : Nat → Word) (guess : Mask) (k : Nat) : ((s.writeV r lanes val guess).wave k).xpc = (s.wave k).xpc := by
  unfold State.writeV; split
  · rfl
  · simp only [State.updWave_at]; split <;> simp
@[simp] theorem State.writeV_wave_xmode (s : State) (r : Nat) (lanes : Mask) (val : Nat → Word) (guess : Mask) (k : Nat) : ((s.writeV r lanes val guess).wave k).xmode = (s.wave k).xmode := by
  unfold State.writeV; split
  · rfl
  · simp only [State.updWave_at]; split <;> simp
@[simp] theorem State.writeV_wave_xcause (s : State) (r : Nat) (lanes : Mask) (val : Nat → Word) (guess : Mask) (k : Nat) : ((s.writeV r lanes val guess).wave k).xcause = (s.wave k).xcause := by
  unfold State.writeV; split
  · rfl
  · simp only [State.updWave_at]; split <;> simp
@[simp] theorem State.writeV_wave_xlanes (s : State) (r : Nat) (lanes : Mask) (val : Nat → Word) (guess : Mask) (k : Nat) : ((s.writeV r lanes val guess).wave k).xlanes = (s.wave k).xlanes := by
  unfold State.writeV; split
  · rfl
  · simp only [State.updWave_at]; split <;> simp
@[simp] theorem State.writeV_wave_xaddr (s : State) (r : Nat) (lanes : Mask) (val : Nat → Word) (guess : Mask) (k : Nat) : ((s.writeV r lanes val guess).wave k).xaddr = (s.wave k).xaddr := by
  unfold State.writeV; split
  · rfl
  · simp only [State.updWave_at]; split <;> simp
@[simp] theorem State.writeV_wave_gexposed (s : State) (r : Nat) (lanes : Mask) (val : Nat → Word) (guess : Mask) (k : Nat) : ((s.writeV r lanes val guess).wave k).gexposed = (s.wave k).gexposed := by
  unfold State.writeV; split
  · rfl
  · simp only [State.updWave_at]; split <;> simp
@[simp] theorem State.writeV_wave_jobs (s : State) (r : Nat) (lanes : Mask) (val : Nat → Word) (guess : Mask) (k : Nat) : ((s.writeV r lanes val guess).wave k).jobs = (s.wave k).jobs := by
  unfold State.writeV; split
  · rfl
  · simp only [State.updWave_at]; split <;> simp
@[simp] theorem State.writeV_wave_left (s : State) (r : Nat) (lanes : Mask) (val : Nat → Word) (guess : Mask) (k : Nat) : ((s.writeV r lanes val guess).wave k).left = (s.wave k).left := by
  unfold State.writeV; split
  · rfl
  · simp only [State.updWave_at]; split <;> simp
@[simp] theorem State.writeV_wave_epoch (s : State) (r : Nat) (lanes : Mask) (val : Nat → Word) (guess : Mask) (k : Nat) : ((s.writeV r lanes val guess).wave k).epoch = (s.wave k).epoch := by
  unfold State.writeV; split
  · rfl
  · simp only [State.updWave_at]; split <;> simp
@[simp] theorem State.writeV_wave_sfr (s : State) (r : Nat) (lanes : Mask) (val : Nat → Word) (guess : Mask) (k : Nat) : ((s.writeV r lanes val guess).wave k).sfr = (s.wave k).sfr := by
  unfold State.writeV; split
  · rfl
  · simp only [State.updWave_at]; split <;> simp
@[simp] theorem State.writeV_wave_arrived (s : State) (r : Nat) (lanes : Mask) (val : Nat → Word) (guess : Mask) (k : Nat) : ((s.writeV r lanes val guess).wave k).arrived = (s.wave k).arrived := by
  unfold State.writeV; split
  · rfl
  · simp only [State.updWave_at]; split <;> simp
@[simp] theorem State.writeV_wave_pend (s : State) (r : Nat) (lanes : Mask) (val : Nat → Word) (guess : Mask) (k : Nat) : ((s.writeV r lanes val guess).wave k).pend = (s.wave k).pend := by
  unfold State.writeV; split
  · rfl
  · simp only [State.updWave_at]; split <;> simp
@[simp] theorem State.writeV_wave_lost (s : State) (r : Nat) (lanes : Mask) (val : Nat → Word) (guess : Mask) (k : Nat) : ((s.writeV r lanes val guess).wave k).lost = (s.wave k).lost := by
  unfold State.writeV; split
  · rfl
  · simp only [State.updWave_at]; split <;> simp
@[simp] theorem State.writeV_wave_since (s : State) (r : Nat) (lanes : Mask) (val : Nat → Word) (guess : Mask) (k : Nat) : ((s.writeV r lanes val guess).wave k).since = (s.wave k).since := by
  unfold State.writeV; split
  · rfl
  · simp only [State.updWave_at]; split <;> simp
@[simp] theorem State.writeV_slot_live (s : State) (r : Nat) (lanes : Mask) (val : Nat → Word) (guess : Mask) (k : Nat) (b : Bool) : (((s.writeV r lanes val guess).wave k).slot b).live = ((s.wave k).slot b).live := by
  unfold State.writeV; split
  · rfl
  · simp only [State.updWave_at]; split <;> cases b <;> simp [Wave.slot]
@[simp] theorem State.writeV_slot_path (s : State) (r : Nat) (lanes : Mask) (val : Nat → Word) (guess : Mask) (k : Nat) (b : Bool) : (((s.writeV r lanes val guess).wave k).slot b).path = ((s.wave k).slot b).path := by
  unfold State.writeV; split
  · rfl
  · simp only [State.updWave_at]; split <;> cases b <;> simp [Wave.slot]
@[simp] theorem State.writeV_slot_parked (s : State) (r : Nat) (lanes : Mask) (val : Nat → Word) (guess : Mask) (k : Nat) (b : Bool) : (((s.writeV r lanes val guess).wave k).slot b).parked = ((s.wave k).slot b).parked := by
  unfold State.writeV; split
  · rfl
  · simp only [State.updWave_at]; split <;> cases b <;> simp [Wave.slot]
@[simp] theorem State.writeV_slot_held (s : State) (r : Nat) (lanes : Mask) (val : Nat → Word) (guess : Mask) (k : Nat) (b : Bool) : (((s.writeV r lanes val guess).wave k).slot b).held = ((s.wave k).slot b).held := by
  unfold State.writeV; split
  · rfl
  · simp only [State.updWave_at]; split <;> cases b <;> simp [Wave.slot]
@[simp] theorem State.writeV_slot_phase (s : State) (r : Nat) (lanes : Mask) (val : Nat → Word) (guess : Mask) (k : Nat) (b : Bool) : (((s.writeV r lanes val guess).wave k).slot b).phase = ((s.wave k).slot b).phase := by
  unfold State.writeV; split
  · rfl
  · simp only [State.updWave_at]; split <;> cases b <;> simp [Wave.slot]
@[simp] theorem State.writeV_slot_wait (s : State) (r : Nat) (lanes : Mask) (val : Nat → Word) (guess : Mask) (k : Nat) (b : Bool) : (((s.writeV r lanes val guess).wave k).slot b).wait = ((s.wave k).slot b).wait := by
  unfold State.writeV; split
  · rfl
  · simp only [State.updWave_at]; split <;> cases b <;> simp [Wave.slot]
@[simp] theorem State.writeV_slot_ref (s : State) (r : Nat) (lanes : Mask) (val : Nat → Word) (guess : Mask) (k : Nat) (b : Bool) : (((s.writeV r lanes val guess).wave k).slot b).ref = ((s.wave k).slot b).ref := by
  unfold State.writeV; split
  · rfl
  · simp only [State.updWave_at]; split <;> cases b <;> simp [Wave.slot]
@[simp] theorem State.writeV_slot_branched (s : State) (r : Nat) (lanes : Mask) (val : Nat → Word) (guess : Mask) (k : Nat) (b : Bool) : (((s.writeV r lanes val guess).wave k).slot b).branched = ((s.wave k).slot b).branched := by
  unfold State.writeV; split
  · rfl
  · simp only [State.updWave_at]; split <;> cases b <;> simp [Wave.slot]
@[simp] theorem State.writeV_slot_yielded (s : State) (r : Nat) (lanes : Mask) (val : Nat → Word) (guess : Mask) (k : Nat) (b : Bool) : (((s.writeV r lanes val guess).wave k).slot b).yielded = ((s.wave k).slot b).yielded := by
  unfold State.writeV; split
  · rfl
  · simp only [State.updWave_at]; split <;> cases b <;> simp [Wave.slot]
@[simp] theorem State.writeV_slot_passed (s : State) (r : Nat) (lanes : Mask) (val : Nat → Word) (guess : Mask) (k : Nat) (b : Bool) : (((s.writeV r lanes val guess).wave k).slot b).passed = ((s.wave k).slot b).passed := by
  unfold State.writeV; split
  · rfl
  · simp only [State.updWave_at]; split <;> cases b <;> simp [Wave.slot]
@[simp] theorem State.writeV_slot_windowCount (s : State) (r : Nat) (lanes : Mask) (val : Nat → Word) (guess : Mask) (k : Nat) (b : Bool) : (((s.writeV r lanes val guess).wave k).slot b).windowCount = ((s.wave k).slot b).windowCount := by
  unfold State.writeV; split
  · rfl
  · simp only [State.updWave_at]; split <;> cases b <;> simp [Wave.slot]
theorem VReg.merge_none (old : VReg) (val : Nat → Word) (guess : Mask) : old.merge 0 val guess = old := by
  obtain ⟨⟨a, b, c, d, e, f, g, h⟩, m⟩ := old
  have : m &&& 255#8 = m := BitVec.and_allOnes (x := m)
  simp [VReg.merge, L8.ofFn, L8.get, this]
theorem State.writeV_v (s : State) (r : Nat) (lanes : Mask) (val : Nat → Word) (guess : Mask) (k j : Nat) :
    ((s.writeV r lanes val guess).wave k).v j
      = if k = s.focus.wave ∧ j = r then ((s.wave k).v r).merge lanes val guess else (s.wave k).v j := by
  unfold State.writeV
  by_cases hl : lanes = 0
  · subst hl; simp only [if_true, VReg.merge_none]; split
    · rename_i h; rw [h.2]
    · rfl
  · simp only [hl, if_false, State.updWave_at, Wave.v]
    by_cases hk : s.focus.wave = k
    · subst hk
      by_cases hj : r = j
      · subst hj; simp [Tab.get_set_same]
      · simp [Tab.get_set_other _ _ _ _ _ hj, Ne.symm hj]
    · simp [hk, Ne.symm hk]


/-! ### Predicate registers -/

@[simp] theorem State.writeP_blocks (s : State) (r : BitVec 3) (lanes bits guess : Mask) : (s.writeP r lanes bits guess).blocks = s.blocks := rfl
@[simp] theorem State.writeP_launches (s : State) (r : BitVec 3) (lanes bits guess : Mask) : (s.writeP r lanes bits guess).launches = s.launches := rfl
@[simp] theorem State.writeP_cores (s : State) (r : BitVec 3) (lanes bits guess : Mask) : (s.writeP r lanes bits guess).cores = s.cores := rfl
@[simp] theorem State.writeP_mem (s : State) (r : BitVec 3) (lanes bits guess : Mask) : (s.writeP r lanes bits guess).mem = s.mem := rfl
@[simp] theorem State.writeP_array (s : State) (r : BitVec 3) (lanes bits guess : Mask) : (s.writeP r lanes bits guess).array = s.array := rfl
@[simp] theorem State.writeP_hostMem (s : State) (r : BitVec 3) (lanes bits guess : Mask) : (s.writeP r lanes bits guess).hostMem = s.hostMem := rfl
@[simp] theorem State.writeP_peerMem (s : State) (r : BitVec 3) (lanes bits guess : Mask) : (s.writeP r lanes bits guess).peerMem = s.peerMem := rfl
@[simp] theorem State.writeP_registrant (s : State) (r : BitVec 3) (lanes bits guess : Mask) : (s.writeP r lanes bits guess).registrant = s.registrant := rfl
@[simp] theorem State.writeP_claims (s : State) (r : BitVec 3) (lanes bits guess : Mask) : (s.writeP r lanes bits guess).claims = s.claims := rfl
@[simp] theorem State.writeP_cells (s : State) (r : BitVec 3) (lanes bits guess : Mask) : (s.writeP r lanes bits guess).cells = s.cells := rfl
@[simp] theorem State.writeP_regions (s : State) (r : BitVec 3) (lanes bits guess : Mask) : (s.writeP r lanes bits guess).regions = s.regions := rfl
@[simp] theorem State.writeP_rdc (s : State) (r : BitVec 3) (lanes bits guess : Mask) : (s.writeP r lanes bits guess).rdc = s.rdc := rfl
@[simp] theorem State.writeP_l2 (s : State) (r : BitVec 3) (lanes bits guess : Mask) : (s.writeP r lanes bits guess).l2 = s.l2 := rfl
@[simp] theorem State.writeP_msc (s : State) (r : BitVec 3) (lanes bits guess : Mask) : (s.writeP r lanes bits guess).msc = s.msc := rfl
@[simp] theorem State.writeP_stacks (s : State) (r : BitVec 3) (lanes bits guess : Mask) : (s.writeP r lanes bits guess).hbms = s.hbms := rfl
@[simp] theorem State.writeP_bad (s : State) (r : BitVec 3) (lanes bits guess : Mask) : (s.writeP r lanes bits guess).bad = s.bad := rfl
@[simp] theorem State.writeP_weak (s : State) (r : BitVec 3) (lanes bits guess : Mask) : (s.writeP r lanes bits guess).weak = s.weak := rfl
@[simp] theorem State.writeP_lost (s : State) (r : BitVec 3) (lanes bits guess : Mask) : (s.writeP r lanes bits guess).lost = s.lost := rfl
@[simp] theorem State.writeP_hostLines (s : State) (r : BitVec 3) (lanes bits guess : Mask) : (s.writeP r lanes bits guess).hostLines = s.hostLines := rfl
@[simp] theorem State.writeP_tlb (s : State) (r : BitVec 3) (lanes bits guess : Mask) : (s.writeP r lanes bits guess).tlb = s.tlb := rfl
@[simp] theorem State.writeP_accs (s : State) (r : BitVec 3) (lanes bits guess : Mask) : (s.writeP r lanes bits guess).accs = s.accs := rfl
@[simp] theorem State.writeP_net (s : State) (r : BitVec 3) (lanes bits guess : Mask) : (s.writeP r lanes bits guess).net = s.net := rfl
@[simp] theorem State.writeP_abufs (s : State) (r : BitVec 3) (lanes bits guess : Mask) : (s.writeP r lanes bits guess).abufs = s.abufs := rfl
@[simp] theorem State.writeP_jobs (s : State) (r : BitVec 3) (lanes bits guess : Mask) : (s.writeP r lanes bits guess).jobs = s.jobs := rfl
@[simp] theorem State.writeP_feet (s : State) (r : BitVec 3) (lanes bits guess : Mask) : (s.writeP r lanes bits guess).feet = s.feet := rfl
@[simp] theorem State.writeP_shapes (s : State) (r : BitVec 3) (lanes bits guess : Mask) : (s.writeP r lanes bits guess).shapes = s.shapes := rfl
@[simp] theorem State.writeP_eqs (s : State) (r : BitVec 3) (lanes bits guess : Mask) : (s.writeP r lanes bits guess).eqs = s.eqs := rfl
@[simp] theorem State.writeP_insts (s : State) (r : BitVec 3) (lanes bits guess : Mask) : (s.writeP r lanes bits guess).insts = s.insts := rfl
@[simp] theorem State.writeP_links (s : State) (r : BitVec 3) (lanes bits guess : Mask) : (s.writeP r lanes bits guess).links = s.links := rfl
@[simp] theorem State.writeP_hostAccs (s : State) (r : BitVec 3) (lanes bits guess : Mask) : (s.writeP r lanes bits guess).hostAccs = s.hostAccs := rfl
@[simp] theorem State.writeP_mgmt (s : State) (r : BitVec 3) (lanes bits guess : Mask) : (s.writeP r lanes bits guess).mgmt = s.mgmt := rfl
@[simp] theorem State.writeP_focus (s : State) (r : BitVec 3) (lanes bits guess : Mask) : (s.writeP r lanes bits guess).focus = s.focus := rfl
@[simp] theorem State.writeP_agenda (s : State) (r : BitVec 3) (lanes bits guess : Mask) : (s.writeP r lanes bits guess).agenda = s.agenda := rfl
@[simp] theorem State.writeP_seq (s : State) (r : BitVec 3) (lanes bits guess : Mask) : (s.writeP r lanes bits guess).seq = s.seq := rfl
@[simp] theorem State.writeP_block (s : State) (r : BitVec 3) (lanes bits guess : Mask) (k : Nat) : (s.writeP r lanes bits guess).block k = s.block k := by simp [State.block]
@[simp] theorem State.writeP_launch (s : State) (r : BitVec 3) (lanes bits guess : Mask) (k : Nat) : (s.writeP r lanes bits guess).launch k = s.launch k := by simp [State.launch]
@[simp] theorem State.writeP_core (s : State) (r : BitVec 3) (lanes bits guess : Mask) (k : Nat) : (s.writeP r lanes bits guess).core k = s.core k := by simp [State.core]
@[simp] theorem State.writeP_acc (s : State) (r : BitVec 3) (lanes bits guess : Mask) (k : Nat) : (s.writeP r lanes bits guess).acc k = s.acc k := by simp [State.acc]
@[simp] theorem State.writeP_job (s : State) (r : BitVec 3) (lanes bits guess : Mask) (k : Nat) : (s.writeP r lanes bits guess).job k = s.job k := by simp [State.job]
@[simp] theorem State.writeP_wave_block (s : State) (r : BitVec 3) (lanes bits guess : Mask) (k : Nat) : ((s.writeP r lanes bits guess).wave k).block = (s.wave k).block := by
  simp only [State.writeP, State.updWave_at]; split <;> simp
@[simp] theorem State.writeP_wave_idx (s : State) (r : BitVec 3) (lanes bits guess : Mask) (k : Nat) : ((s.writeP r lanes bits guess).wave k).idx = (s.wave k).idx := by
  simp only [State.writeP, State.updWave_at]; split <;> simp
@[simp] theorem State.writeP_wave_exited (s : State) (r : BitVec 3) (lanes bits guess : Mask) (k : Nat) : ((s.writeP r lanes bits guess).wave k).exited = (s.wave k).exited := by
  simp only [State.writeP, State.updWave_at]; split <;> simp
@[simp] theorem State.writeP_wave_launchMask (s : State) (r : BitVec 3) (lanes bits guess : Mask) (k : Nat) : ((s.writeP r lanes bits guess).wave k).launchMask = (s.wave k).launchMask := by
  simp only [State.writeP, State.updWave_at]; split <;> simp
@[simp] theorem State.writeP_wave_pad (s : State) (r : BitVec 3) (lanes bits guess : Mask) (k : Nat) : ((s.writeP r lanes bits guess).wave k).pad = (s.wave k).pad := by
  simp only [State.writeP, State.updWave_at]; split <;> simp
@[simp] theorem State.writeP_wave_sregs (s : State) (r : BitVec 3) (lanes bits guess : Mask) (k : Nat) : ((s.writeP r lanes bits guess).wave k).sregs = (s.wave k).sregs := by
  simp only [State.writeP, State.updWave_at]; split <;> simp
@[simp] theorem State.writeP_wave_vregs (s : State) (r : BitVec 3) (lanes bits guess : Mask) (k : Nat) : ((s.writeP r lanes bits guess).wave k).vregs = (s.wave k).vregs := by
  simp only [State.writeP, State.updWave_at]; split <;> simp
@[simp] theorem State.writeP_wave_lastB (s : State) (r : BitVec 3) (lanes bits guess : Mask) (k : Nat) : ((s.writeP r lanes bits guess).wave k).lastB = (s.wave k).lastB := by
  simp only [State.writeP, State.updWave_at]; split <;> simp
@[simp] theorem State.writeP_wave_spill (s : State) (r : BitVec 3) (lanes bits guess : Mask) (k : Nat) : ((s.writeP r lanes bits guess).wave k).spill = (s.wave k).spill := by
  simp only [State.writeP, State.updWave_at]; split <;> simp
@[simp] theorem State.writeP_wave_handler (s : State) (r : BitVec 3) (lanes bits guess : Mask) (k : Nat) : ((s.writeP r lanes bits guess).wave k).handler = (s.wave k).handler := by
  simp only [State.writeP, State.updWave_at]; split <;> simp
@[simp] theorem State.writeP_wave_xpc (s : State) (r : BitVec 3) (lanes bits guess : Mask) (k : Nat) : ((s.writeP r lanes bits guess).wave k).xpc = (s.wave k).xpc := by
  simp only [State.writeP, State.updWave_at]; split <;> simp
@[simp] theorem State.writeP_wave_xmode (s : State) (r : BitVec 3) (lanes bits guess : Mask) (k : Nat) : ((s.writeP r lanes bits guess).wave k).xmode = (s.wave k).xmode := by
  simp only [State.writeP, State.updWave_at]; split <;> simp
@[simp] theorem State.writeP_wave_xcause (s : State) (r : BitVec 3) (lanes bits guess : Mask) (k : Nat) : ((s.writeP r lanes bits guess).wave k).xcause = (s.wave k).xcause := by
  simp only [State.writeP, State.updWave_at]; split <;> simp
@[simp] theorem State.writeP_wave_xlanes (s : State) (r : BitVec 3) (lanes bits guess : Mask) (k : Nat) : ((s.writeP r lanes bits guess).wave k).xlanes = (s.wave k).xlanes := by
  simp only [State.writeP, State.updWave_at]; split <;> simp
@[simp] theorem State.writeP_wave_xaddr (s : State) (r : BitVec 3) (lanes bits guess : Mask) (k : Nat) : ((s.writeP r lanes bits guess).wave k).xaddr = (s.wave k).xaddr := by
  simp only [State.writeP, State.updWave_at]; split <;> simp
@[simp] theorem State.writeP_wave_gexposed (s : State) (r : BitVec 3) (lanes bits guess : Mask) (k : Nat) : ((s.writeP r lanes bits guess).wave k).gexposed = (s.wave k).gexposed := by
  simp only [State.writeP, State.updWave_at]; split <;> simp
@[simp] theorem State.writeP_wave_jobs (s : State) (r : BitVec 3) (lanes bits guess : Mask) (k : Nat) : ((s.writeP r lanes bits guess).wave k).jobs = (s.wave k).jobs := by
  simp only [State.writeP, State.updWave_at]; split <;> simp
@[simp] theorem State.writeP_wave_left (s : State) (r : BitVec 3) (lanes bits guess : Mask) (k : Nat) : ((s.writeP r lanes bits guess).wave k).left = (s.wave k).left := by
  simp only [State.writeP, State.updWave_at]; split <;> simp
@[simp] theorem State.writeP_wave_mm (s : State) (r : BitVec 3) (lanes bits guess : Mask) (k : Nat) : ((s.writeP r lanes bits guess).wave k).mm = (s.wave k).mm := by
  simp only [State.writeP, State.updWave_at]; split <;> simp
@[simp] theorem State.writeP_wave_epoch (s : State) (r : BitVec 3) (lanes bits guess : Mask) (k : Nat) : ((s.writeP r lanes bits guess).wave k).epoch = (s.wave k).epoch := by
  simp only [State.writeP, State.updWave_at]; split <;> simp
@[simp] theorem State.writeP_wave_tags (s : State) (r : BitVec 3) (lanes bits guess : Mask) (k : Nat) : ((s.writeP r lanes bits guess).wave k).tags = (s.wave k).tags := by
  simp only [State.writeP, State.updWave_at]; split <;> simp
@[simp] theorem State.writeP_wave_sfr (s : State) (r : BitVec 3) (lanes bits guess : Mask) (k : Nat) : ((s.writeP r lanes bits guess).wave k).sfr = (s.wave k).sfr := by
  simp only [State.writeP, State.updWave_at]; split <;> simp
@[simp] theorem State.writeP_wave_arrived (s : State) (r : BitVec 3) (lanes bits guess : Mask) (k : Nat) : ((s.writeP r lanes bits guess).wave k).arrived = (s.wave k).arrived := by
  simp only [State.writeP, State.updWave_at]; split <;> simp
@[simp] theorem State.writeP_wave_region (s : State) (r : BitVec 3) (lanes bits guess : Mask) (k : Nat) : ((s.writeP r lanes bits guess).wave k).region = (s.wave k).region := by
  simp only [State.writeP, State.updWave_at]; split <;> simp
@[simp] theorem State.writeP_wave_pend (s : State) (r : BitVec 3) (lanes bits guess : Mask) (k : Nat) : ((s.writeP r lanes bits guess).wave k).pend = (s.wave k).pend := by
  simp only [State.writeP, State.updWave_at]; split <;> simp
@[simp] theorem State.writeP_wave_lost (s : State) (r : BitVec 3) (lanes bits guess : Mask) (k : Nat) : ((s.writeP r lanes bits guess).wave k).lost = (s.wave k).lost := by
  simp only [State.writeP, State.updWave_at]; split <;> simp
@[simp] theorem State.writeP_wave_since (s : State) (r : BitVec 3) (lanes bits guess : Mask) (k : Nat) : ((s.writeP r lanes bits guess).wave k).since = (s.wave k).since := by
  simp only [State.writeP, State.updWave_at]; split <;> simp
@[simp] theorem State.writeP_slot_live (s : State) (r : BitVec 3) (lanes bits guess : Mask) (k : Nat) (b : Bool) : (((s.writeP r lanes bits guess).wave k).slot b).live = ((s.wave k).slot b).live := by
  simp only [State.writeP, State.updWave_at]; split <;> cases b <;> simp [Wave.slot]
@[simp] theorem State.writeP_slot_path (s : State) (r : BitVec 3) (lanes bits guess : Mask) (k : Nat) (b : Bool) : (((s.writeP r lanes bits guess).wave k).slot b).path = ((s.wave k).slot b).path := by
  simp only [State.writeP, State.updWave_at]; split <;> cases b <;> simp [Wave.slot]
@[simp] theorem State.writeP_slot_parked (s : State) (r : BitVec 3) (lanes bits guess : Mask) (k : Nat) (b : Bool) : (((s.writeP r lanes bits guess).wave k).slot b).parked = ((s.wave k).slot b).parked := by
  simp only [State.writeP, State.updWave_at]; split <;> cases b <;> simp [Wave.slot]
@[simp] theorem State.writeP_slot_held (s : State) (r : BitVec 3) (lanes bits guess : Mask) (k : Nat) (b : Bool) : (((s.writeP r lanes bits guess).wave k).slot b).held = ((s.wave k).slot b).held := by
  simp only [State.writeP, State.updWave_at]; split <;> cases b <;> simp [Wave.slot]
@[simp] theorem State.writeP_slot_phase (s : State) (r : BitVec 3) (lanes bits guess : Mask) (k : Nat) (b : Bool) : (((s.writeP r lanes bits guess).wave k).slot b).phase = ((s.wave k).slot b).phase := by
  simp only [State.writeP, State.updWave_at]; split <;> cases b <;> simp [Wave.slot]
@[simp] theorem State.writeP_slot_wait (s : State) (r : BitVec 3) (lanes bits guess : Mask) (k : Nat) (b : Bool) : (((s.writeP r lanes bits guess).wave k).slot b).wait = ((s.wave k).slot b).wait := by
  simp only [State.writeP, State.updWave_at]; split <;> cases b <;> simp [Wave.slot]
@[simp] theorem State.writeP_slot_ref (s : State) (r : BitVec 3) (lanes bits guess : Mask) (k : Nat) (b : Bool) : (((s.writeP r lanes bits guess).wave k).slot b).ref = ((s.wave k).slot b).ref := by
  simp only [State.writeP, State.updWave_at]; split <;> cases b <;> simp [Wave.slot]
@[simp] theorem State.writeP_slot_branched (s : State) (r : BitVec 3) (lanes bits guess : Mask) (k : Nat) (b : Bool) : (((s.writeP r lanes bits guess).wave k).slot b).branched = ((s.wave k).slot b).branched := by
  simp only [State.writeP, State.updWave_at]; split <;> cases b <;> simp [Wave.slot]
@[simp] theorem State.writeP_slot_yielded (s : State) (r : BitVec 3) (lanes bits guess : Mask) (k : Nat) (b : Bool) : (((s.writeP r lanes bits guess).wave k).slot b).yielded = ((s.wave k).slot b).yielded := by
  simp only [State.writeP, State.updWave_at]; split <;> cases b <;> simp [Wave.slot]
@[simp] theorem State.writeP_slot_passed (s : State) (r : BitVec 3) (lanes bits guess : Mask) (k : Nat) (b : Bool) : (((s.writeP r lanes bits guess).wave k).slot b).passed = ((s.wave k).slot b).passed := by
  simp only [State.writeP, State.updWave_at]; split <;> cases b <;> simp [Wave.slot]
@[simp] theorem State.writeP_slot_windowCount (s : State) (r : BitVec 3) (lanes bits guess : Mask) (k : Nat) (b : Bool) : (((s.writeP r lanes bits guess).wave k).slot b).windowCount = ((s.wave k).slot b).windowCount := by
  simp only [State.writeP, State.updWave_at]; split <;> cases b <;> simp [Wave.slot]
theorem State.writeP_p (s : State) (r : BitVec 3) (lanes bits guess : Mask) (k j : Nat) :
    ((s.writeP r lanes bits guess).wave k).p j
      = if k = s.focus.wave ∧ j = r.toNat then ((s.wave k).p r.toNat).merge lanes bits guess else (s.wave k).p j := by
  simp only [State.writeP, State.updWave_at, Wave.p]
  by_cases hk : s.focus.wave = k
  · subst hk
    by_cases hj : r.toNat = j
    · subst hj; simp [Tab.get_set_same]
    · simp [Tab.get_set_other _ _ _ _ _ hj, Ne.symm hj]
  · simp [hk, Ne.symm hk]

/-! ### The completion of a unit -/

/-- With no record on the spill stack no path stops at a join. -/
theorem State.joinWave_noSpill (s : State) (w : Nat) (sb : Bool) (h : (s.wave w).spill = []) : s.joinWave w sb = s := by
  simp [State.joinWave, h]

/-- The path of the issuing slot after a unit that does not jump, when no join record waits (R67). -/
theorem State.complete_path (s : State) (i : Instr) (t : Traits) (jump : Bool) (h : s.fw.spill = []) :
    (s.complete i t jump).fs.path
      = if jump then s.fs.path else { s.fs.path with pc := s.pc + BitVec.ofNat 64 (4 * i.words) } := by
  have h' : (s.wave s.focus.wave).spill = [] := h
  simp only [State.complete]
  rw [State.joinWave_noSpill]
  · simp only [State.fs, State.fw, State.pc, State.tick_focus, State.updWave_focus, State.charged_focus, State.tick_wave, State.updWave_same, State.charged_wave]
    cases jump <;> cases s.focus.slotB <;> rfl
  · simp [h']

/-! ### Futures -/

/-- The first scalar register of a list that holds a future of a pending job. -/
theorem State.futureWait_none (s : State) (ops : List Opd) (h : s.futuresDone ops) : s.futureWait (s.futuresOf ops) = none := by
  have : (s.futuresOf ops).find? (fun r => s.futurePending s.fw.block ((s.fw.s r).setWidth 32)) = none := by
    rw [List.find?_eq_none]
    intro r hr
    simp only [State.futuresOf, List.mem_filter, List.mem_filterMap] at hr
    obtain ⟨⟨o, ho, hor⟩, hf⟩ := hr
    simp [h o ho r hor hf]
  simp [State.futureWait, this]


@[simp] theorem State.selfInvalidate_waves (s : State) (p : Nat) : (s.selfInvalidate p).waves = s.waves := rfl
@[simp] theorem State.selfInvalidate_blocks (s : State) (p : Nat) : (s.selfInvalidate p).blocks = s.blocks := rfl
@[simp] theorem State.selfInvalidate_launches (s : State) (p : Nat) : (s.selfInvalidate p).launches = s.launches := rfl
@[simp] theorem State.selfInvalidate_mem (s : State) (p : Nat) : (s.selfInvalidate p).mem = s.mem := rfl
@[simp] theorem State.selfInvalidate_array (s : State) (p : Nat) : (s.selfInvalidate p).array = s.array := rfl
@[simp] theorem State.selfInvalidate_hostMem (s : State) (p : Nat) : (s.selfInvalidate p).hostMem = s.hostMem := rfl
@[simp] theorem State.selfInvalidate_peerMem (s : State) (p : Nat) : (s.selfInvalidate p).peerMem = s.peerMem := rfl
@[simp] theorem State.selfInvalidate_registrant (s : State) (p : Nat) : (s.selfInvalidate p).registrant = s.registrant := rfl
@[simp] theorem State.selfInvalidate_claims (s : State) (p : Nat) : (s.selfInvalidate p).claims = s.claims := rfl
@[simp] theorem State.selfInvalidate_cells (s : State) (p : Nat) : (s.selfInvalidate p).cells = s.cells := rfl
@[simp] theorem State.selfInvalidate_regions (s : State) (p : Nat) : (s.selfInvalidate p).regions = s.regions := rfl
@[simp] theorem State.selfInvalidate_rdc (s : State) (p : Nat) : (s.selfInvalidate p).rdc = s.rdc := rfl
@[simp] theorem State.selfInvalidate_l2 (s : State) (p : Nat) : (s.selfInvalidate p).l2 = s.l2 := rfl
@[simp] theorem State.selfInvalidate_msc (s : State) (p : Nat) : (s.selfInvalidate p).msc = s.msc := rfl
@[simp] theorem State.selfInvalidate_stacks (s : State) (p : Nat) : (s.selfInvalidate p).hbms = s.hbms := rfl
@[simp] theorem State.selfInvalidate_bad (s : State) (p : Nat) : (s.selfInvalidate p).bad = s.bad := rfl
@[simp] theorem State.selfInvalidate_weak (s : State) (p : Nat) : (s.selfInvalidate p).weak = s.weak := rfl
@[simp] theorem State.selfInvalidate_lost (s : State) (p : Nat) : (s.selfInvalidate p).lost = s.lost := rfl
@[simp] theorem State.selfInvalidate_hostLines (s : State) (p : Nat) : (s.selfInvalidate p).hostLines = s.hostLines := rfl
@[simp] theorem State.selfInvalidate_tlb (s : State) (p : Nat) : (s.selfInvalidate p).tlb = s.tlb := rfl
@[simp] theorem State.selfInvalidate_accs (s : State) (p : Nat) : (s.selfInvalidate p).accs = s.accs := rfl
@[simp] theorem State.selfInvalidate_net (s : State) (p : Nat) : (s.selfInvalidate p).net = s.net := rfl
@[simp] theorem State.selfInvalidate_abufs (s : State) (p : Nat) : (s.selfInvalidate p).abufs = s.abufs := rfl
@[simp] theorem State.selfInvalidate_jobs (s : State) (p : Nat) : (s.selfInvalidate p).jobs = s.jobs := rfl
@[simp] theorem State.selfInvalidate_feet (s : State) (p : Nat) : (s.selfInvalidate p).feet = s.feet := rfl
@[simp] theorem State.selfInvalidate_shapes (s : State) (p : Nat) : (s.selfInvalidate p).shapes = s.shapes := rfl
@[simp] theorem State.selfInvalidate_eqs (s : State) (p : Nat) : (s.selfInvalidate p).eqs = s.eqs := rfl
@[simp] theorem State.selfInvalidate_insts (s : State) (p : Nat) : (s.selfInvalidate p).insts = s.insts := rfl
@[simp] theorem State.selfInvalidate_links (s : State) (p : Nat) : (s.selfInvalidate p).links = s.links := rfl
@[simp] theorem State.selfInvalidate_hostAccs (s : State) (p : Nat) : (s.selfInvalidate p).hostAccs = s.hostAccs := rfl
@[simp] theorem State.selfInvalidate_mgmt (s : State) (p : Nat) : (s.selfInvalidate p).mgmt = s.mgmt := rfl
@[simp] theorem State.selfInvalidate_focus (s : State) (p : Nat) : (s.selfInvalidate p).focus = s.focus := rfl
@[simp] theorem State.selfInvalidate_agenda (s : State) (p : Nat) : (s.selfInvalidate p).agenda = s.agenda := rfl
@[simp] theorem State.selfInvalidate_seq (s : State) (p : Nat) : (s.selfInvalidate p).seq = s.seq := rfl
@[simp] theorem State.selfInvalidate_wave (s : State) (p : Nat) (k : Nat) : (s.selfInvalidate p).wave k = s.wave k := by simp [State.wave]
@[simp] theorem State.selfInvalidate_block (s : State) (p : Nat) (k : Nat) : (s.selfInvalidate p).block k = s.block k := by simp [State.block]
@[simp] theorem State.selfInvalidate_launch (s : State) (p : Nat) (k : Nat) : (s.selfInvalidate p).launch k = s.launch k := by simp [State.launch]
@[simp] theorem State.selfInvalidate_acc (s : State) (p : Nat) (k : Nat) : (s.selfInvalidate p).acc k = s.acc k := by simp [State.acc]
@[simp] theorem State.selfInvalidate_job (s : State) (p : Nat) (k : Nat) : (s.selfInvalidate p).job k = s.job k := by simp [State.job]
@[simp] theorem State.acquire_waves (s : State) (w level : Nat) : (s.acquire w level).waves = s.waves := by unfold State.acquire; split <;> simp
@[simp] theorem State.acquire_blocks (s : State) (w level : Nat) : (s.acquire w level).blocks = s.blocks := by unfold State.acquire; split <;> simp
@[simp] theorem State.acquire_launches (s : State) (w level : Nat) : (s.acquire w level).launches = s.launches := by unfold State.acquire; split <;> simp
@[simp] theorem State.acquire_mem (s : State) (w level : Nat) : (s.acquire w level).mem = s.mem := by unfold State.acquire; split <;> simp
@[simp] theorem State.acquire_array (s : State) (w level : Nat) : (s.acquire w level).array = s.array := by unfold State.acquire; split <;> simp
@[simp] theorem State.acquire_hostMem (s : State) (w level : Nat) : (s.acquire w level).hostMem = s.hostMem := by unfold State.acquire; split <;> simp
@[simp] theorem State.acquire_peerMem (s : State) (w level : Nat) : (s.acquire w level).peerMem = s.peerMem := by unfold State.acquire; split <;> simp
@[simp] theorem State.acquire_registrant (s : State) (w level : Nat) : (s.acquire w level).registrant = s.registrant := by unfold State.acquire; split <;> simp
@[simp] theorem State.acquire_claims (s : State) (w level : Nat) : (s.acquire w level).claims = s.claims := by unfold State.acquire; split <;> simp
@[simp] theorem State.acquire_cells (s : State) (w level : Nat) : (s.acquire w level).cells = s.cells := by unfold State.acquire; split <;> simp
@[simp] theorem State.acquire_regions (s : State) (w level : Nat) : (s.acquire w level).regions = s.regions := by unfold State.acquire; split <;> simp
@[simp] theorem State.acquire_rdc (s : State) (w level : Nat) : (s.acquire w level).rdc = s.rdc := by unfold State.acquire; split <;> simp
@[simp] theorem State.acquire_l2 (s : State) (w level : Nat) : (s.acquire w level).l2 = s.l2 := by unfold State.acquire; split <;> simp
@[simp] theorem State.acquire_msc (s : State) (w level : Nat) : (s.acquire w level).msc = s.msc := by unfold State.acquire; split <;> simp
@[simp] theorem State.acquire_stacks (s : State) (w level : Nat) : (s.acquire w level).hbms = s.hbms := by unfold State.acquire; split <;> simp
@[simp] theorem State.acquire_bad (s : State) (w level : Nat) : (s.acquire w level).bad = s.bad := by unfold State.acquire; split <;> simp
@[simp] theorem State.acquire_weak (s : State) (w level : Nat) : (s.acquire w level).weak = s.weak := by unfold State.acquire; split <;> simp
@[simp] theorem State.acquire_lost (s : State) (w level : Nat) : (s.acquire w level).lost = s.lost := by unfold State.acquire; split <;> simp
@[simp] theorem State.acquire_hostLines (s : State) (w level : Nat) : (s.acquire w level).hostLines = s.hostLines := by unfold State.acquire; split <;> simp
@[simp] theorem State.acquire_tlb (s : State) (w level : Nat) : (s.acquire w level).tlb = s.tlb := by unfold State.acquire; split <;> simp
@[simp] theorem State.acquire_accs (s : State) (w level : Nat) : (s.acquire w level).accs = s.accs := by unfold State.acquire; split <;> simp
@[simp] theorem State.acquire_net (s : State) (w level : Nat) : (s.acquire w level).net = s.net := by unfold State.acquire; split <;> simp
@[simp] theorem State.acquire_abufs (s : State) (w level : Nat) : (s.acquire w level).abufs = s.abufs := by unfold State.acquire; split <;> simp
@[simp] theorem State.acquire_jobs (s : State) (w level : Nat) : (s.acquire w level).jobs = s.jobs := by unfold State.acquire; split <;> simp
@[simp] theorem State.acquire_feet (s : State) (w level : Nat) : (s.acquire w level).feet = s.feet := by unfold State.acquire; split <;> simp
@[simp] theorem State.acquire_shapes (s : State) (w level : Nat) : (s.acquire w level).shapes = s.shapes := by unfold State.acquire; split <;> simp
@[simp] theorem State.acquire_eqs (s : State) (w level : Nat) : (s.acquire w level).eqs = s.eqs := by unfold State.acquire; split <;> simp
@[simp] theorem State.acquire_insts (s : State) (w level : Nat) : (s.acquire w level).insts = s.insts := by unfold State.acquire; split <;> simp
@[simp] theorem State.acquire_links (s : State) (w level : Nat) : (s.acquire w level).links = s.links := by unfold State.acquire; split <;> simp
@[simp] theorem State.acquire_hostAccs (s : State) (w level : Nat) : (s.acquire w level).hostAccs = s.hostAccs := by unfold State.acquire; split <;> simp
@[simp] theorem State.acquire_mgmt (s : State) (w level : Nat) : (s.acquire w level).mgmt = s.mgmt := by unfold State.acquire; split <;> simp
@[simp] theorem State.acquire_focus (s : State) (w level : Nat) : (s.acquire w level).focus = s.focus := by unfold State.acquire; split <;> simp
@[simp] theorem State.acquire_agenda (s : State) (w level : Nat) : (s.acquire w level).agenda = s.agenda := by unfold State.acquire; split <;> simp
@[simp] theorem State.acquire_seq (s : State) (w level : Nat) : (s.acquire w level).seq = s.seq := by unfold State.acquire; split <;> simp
@[simp] theorem State.acquire_wave (s : State) (w level : Nat) (k : Nat) : (s.acquire w level).wave k = s.wave k := by simp [State.wave]
@[simp] theorem State.acquire_block (s : State) (w level : Nat) (k : Nat) : (s.acquire w level).block k = s.block k := by simp [State.block]
@[simp] theorem State.acquire_launch (s : State) (w level : Nat) (k : Nat) : (s.acquire w level).launch k = s.launch k := by simp [State.launch]
@[simp] theorem State.acquire_acc (s : State) (w level : Nat) (k : Nat) : (s.acquire w level).acc k = s.acc k := by simp [State.acc]
@[simp] theorem State.acquire_job (s : State) (w level : Nat) (k : Nat) : (s.acquire w level).job k = s.job k := by simp [State.job]
@[simp] theorem State.acquire_wave' (s : State) (w level k : Nat) : (s.acquire w level).waves.get Wave.zero k = s.waves.get Wave.zero k := by simp
@[simp] theorem State.send_waves (s : State) (c h : Nat) (b : MBody) : (s.send c h b).waves = s.waves := rfl
@[simp] theorem State.sendAll_waves (s : State) (l : List Nat) (c : Nat) (b : MBody) : (l.foldl (fun s h => s.send c h b) s).waves = s.waves := by
  induction l generalizing s with
  | nil => rfl
  | cons x l ih => simp [List.foldl_cons, ih]
@[simp] theorem State.send_blocks (s : State) (c h : Nat) (b : MBody) : (s.send c h b).blocks = s.blocks := rfl
@[simp] theorem State.sendAll_blocks (s : State) (l : List Nat) (c : Nat) (b : MBody) : (l.foldl (fun s h => s.send c h b) s).blocks = s.blocks := by
  induction l generalizing s with
  | nil => rfl
  | cons x l ih => simp [List.foldl_cons, ih]
@[simp] theorem State.send_launches (s : State) (c h : Nat) (b : MBody) : (s.send c h b).launches = s.launches := rfl
@[simp] theorem State.sendAll_launches (s : State) (l : List Nat) (c : Nat) (b : MBody) : (l.foldl (fun s h => s.send c h b) s).launches = s.launches := by
  induction l generalizing s with
  | nil => rfl
  | cons x l ih => simp [List.foldl_cons, ih]
@[simp] theorem State.send_cores (s : State) (c h : Nat) (b : MBody) : (s.send c h b).cores = s.cores := rfl
@[simp] theorem State.sendAll_cores (s : State) (l : List Nat) (c : Nat) (b : MBody) : (l.foldl (fun s h => s.send c h b) s).cores = s.cores := by
  induction l generalizing s with
  | nil => rfl
  | cons x l ih => simp [List.foldl_cons, ih]
@[simp] theorem State.send_mem (s : State) (c h : Nat) (b : MBody) : (s.send c h b).mem = s.mem := rfl
@[simp] theorem State.sendAll_mem (s : State) (l : List Nat) (c : Nat) (b : MBody) : (l.foldl (fun s h => s.send c h b) s).mem = s.mem := by
  induction l generalizing s with
  | nil => rfl
  | cons x l ih => simp [List.foldl_cons, ih]
@[simp] theorem State.send_array (s : State) (c h : Nat) (b : MBody) : (s.send c h b).array = s.array := rfl
@[simp] theorem State.sendAll_array (s : State) (l : List Nat) (c : Nat) (b : MBody) : (l.foldl (fun s h => s.send c h b) s).array = s.array := by
  induction l generalizing s with
  | nil => rfl
  | cons x l ih => simp [List.foldl_cons, ih]
@[simp] theorem State.send_hostMem (s : State) (c h : Nat) (b : MBody) : (s.send c h b).hostMem = s.hostMem := rfl
@[simp] theorem State.sendAll_hostMem (s : State) (l : List Nat) (c : Nat) (b : MBody) : (l.foldl (fun s h => s.send c h b) s).hostMem = s.hostMem := by
  induction l generalizing s with
  | nil => rfl
  | cons x l ih => simp [List.foldl_cons, ih]
@[simp] theorem State.send_peerMem (s : State) (c h : Nat) (b : MBody) : (s.send c h b).peerMem = s.peerMem := rfl
@[simp] theorem State.sendAll_peerMem (s : State) (l : List Nat) (c : Nat) (b : MBody) : (l.foldl (fun s h => s.send c h b) s).peerMem = s.peerMem := by
  induction l generalizing s with
  | nil => rfl
  | cons x l ih => simp [List.foldl_cons, ih]
@[simp] theorem State.send_registrant (s : State) (c h : Nat) (b : MBody) : (s.send c h b).registrant = s.registrant := rfl
@[simp] theorem State.sendAll_registrant (s : State) (l : List Nat) (c : Nat) (b : MBody) : (l.foldl (fun s h => s.send c h b) s).registrant = s.registrant := by
  induction l generalizing s with
  | nil => rfl
  | cons x l ih => simp [List.foldl_cons, ih]
@[simp] theorem State.send_claims (s : State) (c h : Nat) (b : MBody) : (s.send c h b).claims = s.claims := rfl
@[simp] theorem State.sendAll_claims (s : State) (l : List Nat) (c : Nat) (b : MBody) : (l.foldl (fun s h => s.send c h b) s).claims = s.claims := by
  induction l generalizing s with
  | nil => rfl
  | cons x l ih => simp [List.foldl_cons, ih]
@[simp] theorem State.send_cells (s : State) (c h : Nat) (b : MBody) : (s.send c h b).cells = s.cells := rfl
@[simp] theorem State.sendAll_cells (s : State) (l : List Nat) (c : Nat) (b : MBody) : (l.foldl (fun s h => s.send c h b) s).cells = s.cells := by
  induction l generalizing s with
  | nil => rfl
  | cons x l ih => simp [List.foldl_cons, ih]
@[simp] theorem State.send_regions (s : State) (c h : Nat) (b : MBody) : (s.send c h b).regions = s.regions := rfl
@[simp] theorem State.sendAll_regions (s : State) (l : List Nat) (c : Nat) (b : MBody) : (l.foldl (fun s h => s.send c h b) s).regions = s.regions := by
  induction l generalizing s with
  | nil => rfl
  | cons x l ih => simp [List.foldl_cons, ih]
@[simp] theorem State.send_rdc (s : State) (c h : Nat) (b : MBody) : (s.send c h b).rdc = s.rdc := rfl
@[simp] theorem State.sendAll_rdc (s : State) (l : List Nat) (c : Nat) (b : MBody) : (l.foldl (fun s h => s.send c h b) s).rdc = s.rdc := by
  induction l generalizing s with
  | nil => rfl
  | cons x l ih => simp [List.foldl_cons, ih]
@[simp] theorem State.send_l2 (s : State) (c h : Nat) (b : MBody) : (s.send c h b).l2 = s.l2 := rfl
@[simp] theorem State.sendAll_l2 (s : State) (l : List Nat) (c : Nat) (b : MBody) : (l.foldl (fun s h => s.send c h b) s).l2 = s.l2 := by
  induction l generalizing s with
  | nil => rfl
  | cons x l ih => simp [List.foldl_cons, ih]
@[simp] theorem State.send_msc (s : State) (c h : Nat) (b : MBody) : (s.send c h b).msc = s.msc := rfl
@[simp] theorem State.sendAll_msc (s : State) (l : List Nat) (c : Nat) (b : MBody) : (l.foldl (fun s h => s.send c h b) s).msc = s.msc := by
  induction l generalizing s with
  | nil => rfl
  | cons x l ih => simp [List.foldl_cons, ih]
@[simp] theorem State.send_stacks (s : State) (c h : Nat) (b : MBody) : (s.send c h b).hbms = s.hbms := rfl
@[simp] theorem State.sendAll_stacks (s : State) (l : List Nat) (c : Nat) (b : MBody) : (l.foldl (fun s h => s.send c h b) s).hbms = s.hbms := by
  induction l generalizing s with
  | nil => rfl
  | cons x l ih => simp [List.foldl_cons, ih]
@[simp] theorem State.send_bad (s : State) (c h : Nat) (b : MBody) : (s.send c h b).bad = s.bad := rfl
@[simp] theorem State.send_weak (s : State) (c h : Nat) (b : MBody) : (s.send c h b).weak = s.weak := rfl
@[simp] theorem State.send_lost (s : State) (c h : Nat) (b : MBody) : (s.send c h b).lost = s.lost := rfl
@[simp] theorem State.send_hostLines (s : State) (c h : Nat) (b : MBody) : (s.send c h b).hostLines = s.hostLines := rfl
@[simp] theorem State.sendAll_bad (s : State) (l : List Nat) (c : Nat) (b : MBody) : (l.foldl (fun s h => s.send c h b) s).bad = s.bad := by
  induction l generalizing s with
  | nil => rfl
  | cons x l ih => simp [List.foldl_cons, ih]
@[simp] theorem State.sendAll_weak (s : State) (l : List Nat) (c : Nat) (b : MBody) : (l.foldl (fun s h => s.send c h b) s).weak = s.weak := by
  induction l generalizing s with
  | nil => rfl
  | cons x l ih => simp [List.foldl_cons, ih]
@[simp] theorem State.sendAll_lost (s : State) (l : List Nat) (c : Nat) (b : MBody) : (l.foldl (fun s h => s.send c h b) s).lost = s.lost := by
  induction l generalizing s with
  | nil => rfl
  | cons x l ih => simp [List.foldl_cons, ih]
@[simp] theorem State.sendAll_hostLines (s : State) (l : List Nat) (c : Nat) (b : MBody) : (l.foldl (fun s h => s.send c h b) s).hostLines = s.hostLines := by
  induction l generalizing s with
  | nil => rfl
  | cons x l ih => simp [List.foldl_cons, ih]
@[simp] theorem State.send_tlb (s : State) (c h : Nat) (b : MBody) : (s.send c h b).tlb = s.tlb := rfl
@[simp] theorem State.sendAll_tlb (s : State) (l : List Nat) (c : Nat) (b : MBody) : (l.foldl (fun s h => s.send c h b) s).tlb = s.tlb := by
  induction l generalizing s with
  | nil => rfl
  | cons x l ih => simp [List.foldl_cons, ih]
@[simp] theorem State.send_accs (s : State) (c h : Nat) (b : MBody) : (s.send c h b).accs = s.accs := rfl
@[simp] theorem State.sendAll_accs (s : State) (l : List Nat) (c : Nat) (b : MBody) : (l.foldl (fun s h => s.send c h b) s).accs = s.accs := by
  induction l generalizing s with
  | nil => rfl
  | cons x l ih => simp [List.foldl_cons, ih]
@[simp] theorem State.send_abufs (s : State) (c h : Nat) (b : MBody) : (s.send c h b).abufs = s.abufs := rfl
@[simp] theorem State.sendAll_abufs (s : State) (l : List Nat) (c : Nat) (b : MBody) : (l.foldl (fun s h => s.send c h b) s).abufs = s.abufs := by
  induction l generalizing s with
  | nil => rfl
  | cons x l ih => simp [List.foldl_cons, ih]
@[simp] theorem State.send_jobs (s : State) (c h : Nat) (b : MBody) : (s.send c h b).jobs = s.jobs := rfl
@[simp] theorem State.sendAll_jobs (s : State) (l : List Nat) (c : Nat) (b : MBody) : (l.foldl (fun s h => s.send c h b) s).jobs = s.jobs := by
  induction l generalizing s with
  | nil => rfl
  | cons x l ih => simp [List.foldl_cons, ih]
@[simp] theorem State.send_feet (s : State) (c h : Nat) (b : MBody) : (s.send c h b).feet = s.feet := rfl
@[simp] theorem State.sendAll_feet (s : State) (l : List Nat) (c : Nat) (b : MBody) : (l.foldl (fun s h => s.send c h b) s).feet = s.feet := by
  induction l generalizing s with
  | nil => rfl
  | cons x l ih => simp [List.foldl_cons, ih]
@[simp] theorem State.send_shapes (s : State) (c h : Nat) (b : MBody) : (s.send c h b).shapes = s.shapes := rfl
@[simp] theorem State.sendAll_shapes (s : State) (l : List Nat) (c : Nat) (b : MBody) : (l.foldl (fun s h => s.send c h b) s).shapes = s.shapes := by
  induction l generalizing s with
  | nil => rfl
  | cons x l ih => simp [List.foldl_cons, ih]
@[simp] theorem State.send_eqs (s : State) (c h : Nat) (b : MBody) : (s.send c h b).eqs = s.eqs := rfl
@[simp] theorem State.sendAll_eqs (s : State) (l : List Nat) (c : Nat) (b : MBody) : (l.foldl (fun s h => s.send c h b) s).eqs = s.eqs := by
  induction l generalizing s with
  | nil => rfl
  | cons x l ih => simp [List.foldl_cons, ih]
@[simp] theorem State.send_insts (s : State) (c h : Nat) (b : MBody) : (s.send c h b).insts = s.insts := rfl
@[simp] theorem State.sendAll_insts (s : State) (l : List Nat) (c : Nat) (b : MBody) : (l.foldl (fun s h => s.send c h b) s).insts = s.insts := by
  induction l generalizing s with
  | nil => rfl
  | cons x l ih => simp [List.foldl_cons, ih]
@[simp] theorem State.send_links (s : State) (c h : Nat) (b : MBody) : (s.send c h b).links = s.links := rfl
@[simp] theorem State.sendAll_links (s : State) (l : List Nat) (c : Nat) (b : MBody) : (l.foldl (fun s h => s.send c h b) s).links = s.links := by
  induction l generalizing s with
  | nil => rfl
  | cons x l ih => simp [List.foldl_cons, ih]
@[simp] theorem State.send_hostAccs (s : State) (c h : Nat) (b : MBody) : (s.send c h b).hostAccs = s.hostAccs := rfl
@[simp] theorem State.sendAll_hostAccs (s : State) (l : List Nat) (c : Nat) (b : MBody) : (l.foldl (fun s h => s.send c h b) s).hostAccs = s.hostAccs := by
  induction l generalizing s with
  | nil => rfl
  | cons x l ih => simp [List.foldl_cons, ih]
@[simp] theorem State.send_mgmt (s : State) (c h : Nat) (b : MBody) : (s.send c h b).mgmt = s.mgmt := rfl
@[simp] theorem State.sendAll_mgmt (s : State) (l : List Nat) (c : Nat) (b : MBody) : (l.foldl (fun s h => s.send c h b) s).mgmt = s.mgmt := by
  induction l generalizing s with
  | nil => rfl
  | cons x l ih => simp [List.foldl_cons, ih]
@[simp] theorem State.send_focus (s : State) (c h : Nat) (b : MBody) : (s.send c h b).focus = s.focus := rfl
@[simp] theorem State.sendAll_focus (s : State) (l : List Nat) (c : Nat) (b : MBody) : (l.foldl (fun s h => s.send c h b) s).focus = s.focus := by
  induction l generalizing s with
  | nil => rfl
  | cons x l ih => simp [List.foldl_cons, ih]
@[simp] theorem State.send_agenda (s : State) (c h : Nat) (b : MBody) : (s.send c h b).agenda = s.agenda := rfl
@[simp] theorem State.sendAll_agenda (s : State) (l : List Nat) (c : Nat) (b : MBody) : (l.foldl (fun s h => s.send c h b) s).agenda = s.agenda := by
  induction l generalizing s with
  | nil => rfl
  | cons x l ih => simp [List.foldl_cons, ih]
@[simp] theorem State.sendAll_wave (s : State) (l : List Nat) (c : Nat) (b : MBody) (k : Nat) : (l.foldl (fun s h => s.send c h b) s).wave k = s.wave k := by simp [State.wave]
@[simp] theorem State.sendAll_block (s : State) (l : List Nat) (c : Nat) (b : MBody) (k : Nat) : (l.foldl (fun s h => s.send c h b) s).block k = s.block k := by simp [State.block]
@[simp] theorem State.sendAll_launch (s : State) (l : List Nat) (c : Nat) (b : MBody) (k : Nat) : (l.foldl (fun s h => s.send c h b) s).launch k = s.launch k := by simp [State.launch]
@[simp] theorem State.sendAll_core (s : State) (l : List Nat) (c : Nat) (b : MBody) (k : Nat) : (l.foldl (fun s h => s.send c h b) s).core k = s.core k := by simp [State.core]
@[simp] theorem State.sendAll_acc (s : State) (l : List Nat) (c : Nat) (b : MBody) (k : Nat) : (l.foldl (fun s h => s.send c h b) s).acc k = s.acc k := by simp [State.acc]
@[simp] theorem State.sendAll_job (s : State) (l : List Nat) (c : Nat) (b : MBody) (k : Nat) : (l.foldl (fun s h => s.send c h b) s).job k = s.job k := by simp [State.job]
@[simp] theorem State.queueCloses_waves (s : State) (w k : Nat) : (s.queueCloses w k).waves = s.waves := rfl
@[simp] theorem State.queueCloses_blocks (s : State) (w k : Nat) : (s.queueCloses w k).blocks = s.blocks := rfl
@[simp] theorem State.queueCloses_launches (s : State) (w k : Nat) : (s.queueCloses w k).launches = s.launches := rfl
@[simp] theorem State.queueCloses_cores (s : State) (w k : Nat) : (s.queueCloses w k).cores = s.cores := rfl
@[simp] theorem State.queueCloses_mem (s : State) (w k : Nat) : (s.queueCloses w k).mem = s.mem := rfl
@[simp] theorem State.queueCloses_array (s : State) (w k : Nat) : (s.queueCloses w k).array = s.array := rfl
@[simp] theorem State.queueCloses_hostMem (s : State) (w k : Nat) : (s.queueCloses w k).hostMem = s.hostMem := rfl
@[simp] theorem State.queueCloses_peerMem (s : State) (w k : Nat) : (s.queueCloses w k).peerMem = s.peerMem := rfl
@[simp] theorem State.queueCloses_registrant (s : State) (w k : Nat) : (s.queueCloses w k).registrant = s.registrant := rfl
@[simp] theorem State.queueCloses_claims (s : State) (w k : Nat) : (s.queueCloses w k).claims = s.claims := rfl
@[simp] theorem State.queueCloses_cells (s : State) (w k : Nat) : (s.queueCloses w k).cells = s.cells := rfl
@[simp] theorem State.queueCloses_regions (s : State) (w k : Nat) : (s.queueCloses w k).regions = s.regions := rfl
@[simp] theorem State.queueCloses_rdc (s : State) (w k : Nat) : (s.queueCloses w k).rdc = s.rdc := rfl
@[simp] theorem State.queueCloses_l2 (s : State) (w k : Nat) : (s.queueCloses w k).l2 = s.l2 := rfl
@[simp] theorem State.queueCloses_msc (s : State) (w k : Nat) : (s.queueCloses w k).msc = s.msc := rfl
@[simp] theorem State.queueCloses_stacks (s : State) (w k : Nat) : (s.queueCloses w k).hbms = s.hbms := rfl
@[simp] theorem State.queueCloses_bad (s : State) (w k : Nat) : (s.queueCloses w k).bad = s.bad := rfl
@[simp] theorem State.queueCloses_weak (s : State) (w k : Nat) : (s.queueCloses w k).weak = s.weak := rfl
@[simp] theorem State.queueCloses_lost (s : State) (w k : Nat) : (s.queueCloses w k).lost = s.lost := rfl
@[simp] theorem State.queueCloses_hostLines (s : State) (w k : Nat) : (s.queueCloses w k).hostLines = s.hostLines := rfl
@[simp] theorem State.queueCloses_tlb (s : State) (w k : Nat) : (s.queueCloses w k).tlb = s.tlb := rfl
@[simp] theorem State.queueCloses_accs (s : State) (w k : Nat) : (s.queueCloses w k).accs = s.accs := rfl
@[simp] theorem State.queueCloses_abufs (s : State) (w k : Nat) : (s.queueCloses w k).abufs = s.abufs := rfl
@[simp] theorem State.queueCloses_jobs (s : State) (w k : Nat) : (s.queueCloses w k).jobs = s.jobs := rfl
@[simp] theorem State.queueCloses_feet (s : State) (w k : Nat) : (s.queueCloses w k).feet = s.feet := rfl
@[simp] theorem State.queueCloses_shapes (s : State) (w k : Nat) : (s.queueCloses w k).shapes = s.shapes := rfl
@[simp] theorem State.queueCloses_eqs (s : State) (w k : Nat) : (s.queueCloses w k).eqs = s.eqs := rfl
@[simp] theorem State.queueCloses_insts (s : State) (w k : Nat) : (s.queueCloses w k).insts = s.insts := rfl
@[simp] theorem State.queueCloses_links (s : State) (w k : Nat) : (s.queueCloses w k).links = s.links := rfl
@[simp] theorem State.queueCloses_hostAccs (s : State) (w k : Nat) : (s.queueCloses w k).hostAccs = s.hostAccs := rfl
@[simp] theorem State.queueCloses_mgmt (s : State) (w k : Nat) : (s.queueCloses w k).mgmt = s.mgmt := rfl
@[simp] theorem State.queueCloses_focus (s : State) (w k : Nat) : (s.queueCloses w k).focus = s.focus := rfl
@[simp] theorem State.queueCloses_agenda (s : State) (w k : Nat) : (s.queueCloses w k).agenda = s.agenda := rfl
@[simp] theorem State.queueCloses_wave (s : State) (w k n : Nat) : (s.queueCloses w k).wave n = s.wave n := rfl
@[simp] theorem State.queueCloses_block (s : State) (w k n : Nat) : (s.queueCloses w k).block n = s.block n := rfl
@[simp] theorem State.queueCloses_launch (s : State) (w k n : Nat) : (s.queueCloses w k).launch n = s.launch n := rfl
@[simp] theorem State.queueCloses_core (s : State) (w k n : Nat) : (s.queueCloses w k).core n = s.core n := rfl
@[simp] theorem State.queueCloses_acc (s : State) (w k n : Nat) : (s.queueCloses w k).acc n = s.acc n := rfl
@[simp] theorem State.queueCloses_job (s : State) (w k n : Nat) : (s.queueCloses w k).job n = s.job n := rfl
@[simp] theorem State.boundary_launches (s : State) (w : Nat) : (s.boundary w).launches = s.launches := by unfold State.boundary; simp only []; split <;> simp
@[simp] theorem State.boundary_cores (s : State) (w : Nat) : (s.boundary w).cores = s.cores := by unfold State.boundary; simp only []; split <;> simp
@[simp] theorem State.boundary_mem (s : State) (w : Nat) : (s.boundary w).mem = s.mem := by unfold State.boundary; simp only []; split <;> simp
@[simp] theorem State.boundary_array (s : State) (w : Nat) : (s.boundary w).array = s.array := by unfold State.boundary; simp only []; split <;> simp
@[simp] theorem State.boundary_hostMem (s : State) (w : Nat) : (s.boundary w).hostMem = s.hostMem := by unfold State.boundary; simp only []; split <;> simp
@[simp] theorem State.boundary_peerMem (s : State) (w : Nat) : (s.boundary w).peerMem = s.peerMem := by unfold State.boundary; simp only []; split <;> simp
@[simp] theorem State.boundary_registrant (s : State) (w : Nat) : (s.boundary w).registrant = s.registrant := by unfold State.boundary; simp only []; split <;> simp
@[simp] theorem State.boundary_claims (s : State) (w : Nat) : (s.boundary w).claims = s.claims := by unfold State.boundary; simp only []; split <;> simp
@[simp] theorem State.boundary_cells (s : State) (w : Nat) : (s.boundary w).cells = s.cells := by unfold State.boundary; simp only []; split <;> simp
@[simp] theorem State.boundary_regions (s : State) (w : Nat) : (s.boundary w).regions = s.regions := by unfold State.boundary; simp only []; split <;> simp
@[simp] theorem State.boundary_rdc (s : State) (w : Nat) : (s.boundary w).rdc = s.rdc := by unfold State.boundary; simp only []; split <;> simp
@[simp] theorem State.boundary_l2 (s : State) (w : Nat) : (s.boundary w).l2 = s.l2 := by unfold State.boundary; simp only []; split <;> simp
@[simp] theorem State.boundary_msc (s : State) (w : Nat) : (s.boundary w).msc = s.msc := by unfold State.boundary; simp only []; split <;> simp
@[simp] theorem State.boundary_stacks (s : State) (w : Nat) : (s.boundary w).hbms = s.hbms := by unfold State.boundary; simp only []; split <;> simp
@[simp] theorem State.boundary_bad (s : State) (w : Nat) : (s.boundary w).bad = s.bad := by unfold State.boundary; simp only []; split <;> simp
@[simp] theorem State.boundary_weak (s : State) (w : Nat) : (s.boundary w).weak = s.weak := by unfold State.boundary; simp only []; split <;> simp
@[simp] theorem State.boundary_lost (s : State) (w : Nat) : (s.boundary w).lost = s.lost := by unfold State.boundary; simp only []; split <;> simp
@[simp] theorem State.boundary_hostLines (s : State) (w : Nat) : (s.boundary w).hostLines = s.hostLines := by unfold State.boundary; simp only []; split <;> simp
@[simp] theorem State.boundary_tlb (s : State) (w : Nat) : (s.boundary w).tlb = s.tlb := by unfold State.boundary; simp only []; split <;> simp
@[simp] theorem State.boundary_accs (s : State) (w : Nat) : (s.boundary w).accs = s.accs := by unfold State.boundary; simp only []; split <;> simp
@[simp] theorem State.boundary_abufs (s : State) (w : Nat) : (s.boundary w).abufs = s.abufs := by unfold State.boundary; simp only []; split <;> simp
@[simp] theorem State.boundary_jobs (s : State) (w : Nat) : (s.boundary w).jobs = s.jobs := by unfold State.boundary; simp only []; split <;> simp
@[simp] theorem State.boundary_feet (s : State) (w : Nat) : (s.boundary w).feet = s.feet := by unfold State.boundary; simp only []; split <;> simp
@[simp] theorem State.boundary_shapes (s : State) (w : Nat) : (s.boundary w).shapes = s.shapes := by unfold State.boundary; simp only []; split <;> simp
@[simp] theorem State.boundary_eqs (s : State) (w : Nat) : (s.boundary w).eqs = s.eqs := by unfold State.boundary; simp only []; split <;> simp
@[simp] theorem State.boundary_insts (s : State) (w : Nat) : (s.boundary w).insts = s.insts := by unfold State.boundary; simp only []; split <;> simp
@[simp] theorem State.boundary_links (s : State) (w : Nat) : (s.boundary w).links = s.links := by unfold State.boundary; simp only []; split <;> simp
@[simp] theorem State.boundary_hostAccs (s : State) (w : Nat) : (s.boundary w).hostAccs = s.hostAccs := by unfold State.boundary; simp only []; split <;> simp
@[simp] theorem State.boundary_mgmt (s : State) (w : Nat) : (s.boundary w).mgmt = s.mgmt := by unfold State.boundary; simp only []; split <;> simp
@[simp] theorem State.boundary_focus (s : State) (w : Nat) : (s.boundary w).focus = s.focus := by unfold State.boundary; simp only []; split <;> simp
@[simp] theorem State.boundary_agenda (s : State) (w : Nat) : (s.boundary w).agenda = s.agenda := by unfold State.boundary; simp only []; split <;> simp
@[simp] theorem State.boundary_launch (s : State) (w : Nat) (k : Nat) : (s.boundary w).launch k = s.launch k := by simp [State.launch]
@[simp] theorem State.boundary_core (s : State) (w : Nat) (k : Nat) : (s.boundary w).core k = s.core k := by simp [State.core]
@[simp] theorem State.boundary_acc (s : State) (w : Nat) (k : Nat) : (s.boundary w).acc k = s.acc k := by simp [State.acc]
@[simp] theorem State.boundary_job (s : State) (w : Nat) (k : Nat) : (s.boundary w).job k = s.job k := by simp [State.job]
@[simp] theorem State.boundary_wave_block (s : State) (w k : Nat) : ((s.boundary w).wave k).block = (s.wave k).block := by
  unfold State.boundary; simp only [State.updWave_at]; split <;> split <;> simp
@[simp] theorem State.boundary_wave_idx (s : State) (w k : Nat) : ((s.boundary w).wave k).idx = (s.wave k).idx := by
  unfold State.boundary; simp only [State.updWave_at]; split <;> split <;> simp
@[simp] theorem State.boundary_wave_exited (s : State) (w k : Nat) : ((s.boundary w).wave k).exited = (s.wave k).exited := by
  unfold State.boundary; simp only [State.updWave_at]; split <;> split <;> simp
@[simp] theorem State.boundary_wave_launchMask (s : State) (w k : Nat) : ((s.boundary w).wave k).launchMask = (s.wave k).launchMask := by
  unfold State.boundary; simp only [State.updWave_at]; split <;> split <;> simp
@[simp] theorem State.boundary_wave_pad (s : State) (w k : Nat) : ((s.boundary w).wave k).pad = (s.wave k).pad := by
  unfold State.boundary; simp only [State.updWave_at]; split <;> split <;> simp
@[simp] theorem State.boundary_wave_sregs (s : State) (w k : Nat) : ((s.boundary w).wave k).sregs = (s.wave k).sregs := by
  unfold State.boundary; simp only [State.updWave_at]; split <;> split <;> simp
@[simp] theorem State.boundary_wave_vregs (s : State) (w k : Nat) : ((s.boundary w).wave k).vregs = (s.wave k).vregs := by
  unfold State.boundary; simp only [State.updWave_at]; split <;> split <;> simp
@[simp] theorem State.boundary_wave_pregs (s : State) (w k : Nat) : ((s.boundary w).wave k).pregs = (s.wave k).pregs := by
  unfold State.boundary; simp only [State.updWave_at]; split <;> split <;> simp
@[simp] theorem State.boundary_wave_lastB (s : State) (w k : Nat) : ((s.boundary w).wave k).lastB = (s.wave k).lastB := by
  unfold State.boundary; simp only [State.updWave_at]; split <;> split <;> simp
@[simp] theorem State.boundary_wave_spill (s : State) (w k : Nat) : ((s.boundary w).wave k).spill = (s.wave k).spill := by
  unfold State.boundary; simp only [State.updWave_at]; split <;> split <;> simp
@[simp] theorem State.boundary_wave_handler (s : State) (w k : Nat) : ((s.boundary w).wave k).handler = (s.wave k).handler := by
  unfold State.boundary; simp only [State.updWave_at]; split <;> split <;> simp
@[simp] theorem State.boundary_wave_xpc (s : State) (w k : Nat) : ((s.boundary w).wave k).xpc = (s.wave k).xpc := by
  unfold State.boundary; simp only [State.updWave_at]; split <;> split <;> simp
@[simp] theorem State.boundary_wave_xmode (s : State) (w k : Nat) : ((s.boundary w).wave k).xmode = (s.wave k).xmode := by
  unfold State.boundary; simp only [State.updWave_at]; split <;> split <;> simp
@[simp] theorem State.boundary_wave_xcause (s : State) (w k : Nat) : ((s.boundary w).wave k).xcause = (s.wave k).xcause := by
  unfold State.boundary; simp only [State.updWave_at]; split <;> split <;> simp
@[simp] theorem State.boundary_wave_xlanes (s : State) (w k : Nat) : ((s.boundary w).wave k).xlanes = (s.wave k).xlanes := by
  unfold State.boundary; simp only [State.updWave_at]; split <;> split <;> simp
@[simp] theorem State.boundary_wave_xaddr (s : State) (w k : Nat) : ((s.boundary w).wave k).xaddr = (s.wave k).xaddr := by
  unfold State.boundary; simp only [State.updWave_at]; split <;> split <;> simp
@[simp] theorem State.boundary_wave_gexposed (s : State) (w k : Nat) : ((s.boundary w).wave k).gexposed = (s.wave k).gexposed := by
  unfold State.boundary; simp only [State.updWave_at]; split <;> split <;> simp
@[simp] theorem State.boundary_wave_jobs (s : State) (w k : Nat) : ((s.boundary w).wave k).jobs = (s.wave k).jobs := by
  unfold State.boundary; simp only [State.updWave_at]; split <;> split <;> simp
@[simp] theorem State.boundary_wave_left (s : State) (w k : Nat) : ((s.boundary w).wave k).left = (s.wave k).left := by
  unfold State.boundary; simp only [State.updWave_at]; split <;> split <;> simp
@[simp] theorem State.boundary_wave_mm (s : State) (w k : Nat) : ((s.boundary w).wave k).mm = (s.wave k).mm := by
  unfold State.boundary; simp only [State.updWave_at]; split <;> split <;> simp
@[simp] theorem State.boundary_wave_epoch (s : State) (w k : Nat) : ((s.boundary w).wave k).epoch = (s.wave k).epoch := by
  unfold State.boundary; simp only [State.updWave_at]; split <;> split <;> simp
@[simp] theorem State.boundary_wave_tags (s : State) (w k : Nat) : ((s.boundary w).wave k).tags = (s.wave k).tags := by
  unfold State.boundary; simp only [State.updWave_at]; split <;> split <;> simp
@[simp] theorem State.boundary_wave_arrived (s : State) (w k : Nat) : ((s.boundary w).wave k).arrived = (s.wave k).arrived := by
  unfold State.boundary; simp only [State.updWave_at]; split <;> split <;> simp
@[simp] theorem State.boundary_wave_region (s : State) (w k : Nat) : ((s.boundary w).wave k).region = (s.wave k).region := by
  unfold State.boundary; simp only [State.updWave_at]; split <;> split <;> simp
@[simp] theorem State.boundary_wave_pend (s : State) (w k : Nat) : ((s.boundary w).wave k).pend = (s.wave k).pend := by
  unfold State.boundary; simp only [State.updWave_at]; split <;> split <;> simp
@[simp] theorem State.boundary_wave_lost (s : State) (w k : Nat) : ((s.boundary w).wave k).lost = (s.wave k).lost := by
  unfold State.boundary; simp only [State.updWave_at]; split <;> split <;> simp
@[simp] theorem State.boundary_wave_since (s : State) (w k : Nat) : ((s.boundary w).wave k).since = (s.wave k).since := by
  unfold State.boundary; simp only [State.updWave_at]; split <;> split <;> simp
@[simp] theorem State.boundary_wave_slotA (s : State) (w k : Nat) : ((s.boundary w).wave k).slotA = (s.wave k).slotA := by
  unfold State.boundary; simp only [State.updWave_at]; split <;> split <;> simp
@[simp] theorem State.boundary_wave_slotB (s : State) (w k : Nat) : ((s.boundary w).wave k).slotB = (s.wave k).slotB := by
  unfold State.boundary; simp only [State.updWave_at]; split <;> split <;> simp
@[simp] theorem State.boundary_slot (s : State) (w k : Nat) (b : Bool) : ((s.boundary w).wave k).slot b = (s.wave k).slot b := by simp [Wave.slot]
@[simp] theorem State.boundary_block_launch (s : State) (w k : Nat) : ((s.boundary w).block k).launch = (s.block k).launch := by
  unfold State.boundary; simp only [State.updWave_block]; split
  · simp
  · rw [State.updBlock_at]; split <;> simp
@[simp] theorem State.boundary_block_idx (s : State) (w k : Nat) : ((s.boundary w).block k).idx = (s.block k).idx := by
  unfold State.boundary; simp only [State.updWave_block]; split
  · simp
  · rw [State.updBlock_at]; split <;> simp
@[simp] theorem State.boundary_block_st (s : State) (w k : Nat) : ((s.boundary w).block k).st = (s.block k).st := by
  unfold State.boundary; simp only [State.updWave_block]; split
  · simp
  · rw [State.updBlock_at]; split <;> simp
@[simp] theorem State.boundary_block_lcore (s : State) (w k : Nat) : ((s.boundary w).block k).lcore = (s.block k).lcore := by
  unfold State.boundary; simp only [State.updWave_block]; split
  · simp
  · rw [State.updBlock_at]; split <;> simp
@[simp] theorem State.boundary_block_pcore (s : State) (w k : Nat) : ((s.boundary w).block k).pcore = (s.block k).pcore := by
  unfold State.boundary; simp only [State.updWave_block]; split
  · simp
  · rw [State.updBlock_at]; split <;> simp
@[simp] theorem State.boundary_block_frame (s : State) (w k : Nat) : ((s.boundary w).block k).frame = (s.block k).frame := by
  unfold State.boundary; simp only [State.updWave_block]; split
  · simp
  · rw [State.updBlock_at]; split <;> simp
@[simp] theorem State.boundary_block_waves (s : State) (w k : Nat) : ((s.boundary w).block k).waves = (s.block k).waves := by
  unfold State.boundary; simp only [State.updWave_block]; split
  · simp
  · rw [State.updBlock_at]; split <;> simp
@[simp] theorem State.boundary_block_pageWait (s : State) (w k : Nat) : ((s.boundary w).block k).pageWait = (s.block k).pageWait := by
  unfold State.boundary; simp only [State.updWave_block]; split
  · simp
  · rw [State.updBlock_at]; split <;> simp
@[simp] theorem State.boundary_block_scratch (s : State) (w k : Nat) : ((s.boundary w).block k).scratch = (s.block k).scratch := by
  unfold State.boundary; simp only [State.updWave_block]; split
  · simp
  · rw [State.updBlock_at]; split <;> simp
@[simp] theorem State.boundary_block_lim (s : State) (w k : Nat) : ((s.boundary w).block k).lim = (s.block k).lim := by
  unfold State.boundary; simp only [State.updWave_block]; split
  · simp
  · rw [State.updBlock_at]; split <;> simp
@[simp] theorem State.boundary_block_flights (s : State) (w k : Nat) : ((s.boundary w).block k).flights = (s.block k).flights := by
  unfold State.boundary; simp only [State.updWave_block]; split
  · simp
  · rw [State.updBlock_at]; split <;> simp
@[simp] theorem State.boundary_block_tabs (s : State) (w k : Nat) : ((s.boundary w).block k).tabs = (s.block k).tabs := by
  unfold State.boundary; simp only [State.updWave_block]; split
  · simp
  · rw [State.updBlock_at]; split <;> simp
@[simp] theorem State.boundary_block_accs (s : State) (w k : Nat) : ((s.boundary w).block k).accs = (s.block k).accs := by
  unfold State.boundary; simp only [State.updWave_block]; split
  · simp
  · rw [State.updBlock_at]; split <;> simp
@[simp] theorem State.boundary_block_feeds (s : State) (w k : Nat) : ((s.boundary w).block k).feeds = (s.block k).feeds := by
  unfold State.boundary; simp only [State.updWave_block]; split
  · simp
  · rw [State.updBlock_at]; split <;> simp
@[simp] theorem State.boundary_block_preds (s : State) (w k : Nat) : ((s.boundary w).block k).preds = (s.block k).preds := by
  unfold State.boundary; simp only [State.updWave_block]; split
  · simp
  · rw [State.updBlock_at]; split <;> simp
@[simp] theorem State.boundary_block_streams (s : State) (w k : Nat) : ((s.boundary w).block k).streams = (s.block k).streams := by
  unfold State.boundary; simp only [State.updWave_block]; split
  · simp
  · rw [State.updBlock_at]; split <;> simp
@[simp] theorem State.boundary_block_sketch (s : State) (w k : Nat) : ((s.boundary w).block k).sketch = (s.block k).sketch := by
  unfold State.boundary; simp only [State.updWave_block]; split
  · simp
  · rw [State.updBlock_at]; split <;> simp
@[simp] theorem State.boundary_block_seqq (s : State) (w k : Nat) : ((s.boundary w).block k).seqq = (s.block k).seqq := by
  unfold State.boundary; simp only [State.updWave_block]; split
  · simp
  · rw [State.updBlock_at]; split <;> simp
@[simp] theorem State.boundary_block_bars (s : State) (w k : Nat) : ((s.boundary w).block k).bars = (s.block k).bars := by
  unfold State.boundary; simp only [State.updWave_block]; split
  · simp
  · rw [State.updBlock_at]; split <;> simp
@[simp] theorem State.boundary_block_share (s : State) (w k : Nat) : ((s.boundary w).block k).share = (s.block k).share := by
  unfold State.boundary; simp only [State.updWave_block]; split
  · simp
  · rw [State.updBlock_at]; split <;> simp
@[simp] theorem State.boundary_block_issued (s : State) (w k : Nat) : ((s.boundary w).block k).issued = (s.block k).issued := by
  unfold State.boundary; simp only [State.updWave_block]; split
  · simp
  · rw [State.updBlock_at]; split <;> simp
@[simp] theorem State.boundary_block_since (s : State) (w k : Nat) : ((s.boundary w).block k).since = (s.block k).since := by
  unfold State.boundary; simp only [State.updWave_block]; split
  · simp
  · rw [State.updBlock_at]; split <;> simp
@[simp] theorem State.boundary_block_discarded (s : State) (w k : Nat) : ((s.boundary w).block k).discarded = (s.block k).discarded := by
  unfold State.boundary; simp only [State.updWave_block]; split
  · simp
  · rw [State.updBlock_at]; split <;> simp
@[simp] theorem State.observe_launches (s : State) : s.observe.launches = s.launches := by simp [State.observe]
@[simp] theorem State.observe_mem (s : State) : s.observe.mem = s.mem := by simp [State.observe]
@[simp] theorem State.observe_array (s : State) : s.observe.array = s.array := by simp [State.observe]
@[simp] theorem State.observe_hostMem (s : State) : s.observe.hostMem = s.hostMem := by simp [State.observe]
@[simp] theorem State.observe_peerMem (s : State) : s.observe.peerMem = s.peerMem := by simp [State.observe]
@[simp] theorem State.observe_registrant (s : State) : s.observe.registrant = s.registrant := by simp [State.observe]
@[simp] theorem State.observe_claims (s : State) : s.observe.claims = s.claims := by simp [State.observe]
@[simp] theorem State.observe_cells (s : State) : s.observe.cells = s.cells := by simp [State.observe]
@[simp] theorem State.observe_regions (s : State) : s.observe.regions = s.regions := by simp [State.observe]
@[simp] theorem State.observe_rdc (s : State) : s.observe.rdc = s.rdc := by simp [State.observe]
@[simp] theorem State.observe_l2 (s : State) : s.observe.l2 = s.l2 := by simp [State.observe]
@[simp] theorem State.observe_msc (s : State) : s.observe.msc = s.msc := by simp [State.observe]
@[simp] theorem State.observe_stacks (s : State) : s.observe.hbms = s.hbms := by simp [State.observe]
@[simp] theorem State.observe_bad (s : State) : s.observe.bad = s.bad := by simp [State.observe]
@[simp] theorem State.observe_weak (s : State) : s.observe.weak = s.weak := by simp [State.observe]
@[simp] theorem State.observe_lost (s : State) : s.observe.lost = s.lost := by simp [State.observe]
@[simp] theorem State.observe_hostLines (s : State) : s.observe.hostLines = s.hostLines := by simp [State.observe]
@[simp] theorem State.observe_tlb (s : State) : s.observe.tlb = s.tlb := by simp [State.observe]
@[simp] theorem State.observe_accs (s : State) : s.observe.accs = s.accs := by simp [State.observe]
@[simp] theorem State.observe_abufs (s : State) : s.observe.abufs = s.abufs := by simp [State.observe]
@[simp] theorem State.observe_jobs (s : State) : s.observe.jobs = s.jobs := by simp [State.observe]
@[simp] theorem State.observe_feet (s : State) : s.observe.feet = s.feet := by simp [State.observe]
@[simp] theorem State.observe_shapes (s : State) : s.observe.shapes = s.shapes := by simp [State.observe]
@[simp] theorem State.observe_eqs (s : State) : s.observe.eqs = s.eqs := by simp [State.observe]
@[simp] theorem State.observe_insts (s : State) : s.observe.insts = s.insts := by simp [State.observe]
@[simp] theorem State.observe_links (s : State) : s.observe.links = s.links := by simp [State.observe]
@[simp] theorem State.observe_hostAccs (s : State) : s.observe.hostAccs = s.hostAccs := by simp [State.observe]
@[simp] theorem State.observe_mgmt (s : State) : s.observe.mgmt = s.mgmt := by simp [State.observe]
@[simp] theorem State.observe_focus (s : State) : s.observe.focus = s.focus := by simp [State.observe]
@[simp] theorem State.observe_agenda (s : State) : s.observe.agenda = s.agenda := by simp [State.observe]
@[simp] theorem State.observe_wave_block (s : State) (k : Nat) : (s.observe.wave k).block = (s.wave k).block := by simp [State.observe]
@[simp] theorem State.observe_wave_idx (s : State) (k : Nat) : (s.observe.wave k).idx = (s.wave k).idx := by simp [State.observe]
@[simp] theorem State.observe_wave_exited (s : State) (k : Nat) : (s.observe.wave k).exited = (s.wave k).exited := by simp [State.observe]
@[simp] theorem State.observe_wave_launchMask (s : State) (k : Nat) : (s.observe.wave k).launchMask = (s.wave k).launchMask := by simp [State.observe]
@[simp] theorem State.observe_wave_pad (s : State) (k : Nat) : (s.observe.wave k).pad = (s.wave k).pad := by simp [State.observe]
@[simp] theorem State.observe_wave_sregs (s : State) (k : Nat) : (s.observe.wave k).sregs = (s.wave k).sregs := by simp [State.observe]
@[simp] theorem State.observe_wave_vregs (s : State) (k : Nat) : (s.observe.wave k).vregs = (s.wave k).vregs := by simp [State.observe]
@[simp] theorem State.observe_wave_pregs (s : State) (k : Nat) : (s.observe.wave k).pregs = (s.wave k).pregs := by simp [State.observe]
@[simp] theorem State.observe_wave_lastB (s : State) (k : Nat) : (s.observe.wave k).lastB = (s.wave k).lastB := by simp [State.observe]
@[simp] theorem State.observe_wave_spill (s : State) (k : Nat) : (s.observe.wave k).spill = (s.wave k).spill := by simp [State.observe]
@[simp] theorem State.observe_wave_handler (s : State) (k : Nat) : (s.observe.wave k).handler = (s.wave k).handler := by simp [State.observe]
@[simp] theorem State.observe_wave_xpc (s : State) (k : Nat) : (s.observe.wave k).xpc = (s.wave k).xpc := by simp [State.observe]
@[simp] theorem State.observe_wave_xmode (s : State) (k : Nat) : (s.observe.wave k).xmode = (s.wave k).xmode := by simp [State.observe]
@[simp] theorem State.observe_wave_xcause (s : State) (k : Nat) : (s.observe.wave k).xcause = (s.wave k).xcause := by simp [State.observe]
@[simp] theorem State.observe_wave_xlanes (s : State) (k : Nat) : (s.observe.wave k).xlanes = (s.wave k).xlanes := by simp [State.observe]
@[simp] theorem State.observe_wave_xaddr (s : State) (k : Nat) : (s.observe.wave k).xaddr = (s.wave k).xaddr := by simp [State.observe]
@[simp] theorem State.observe_wave_gexposed (s : State) (k : Nat) : (s.observe.wave k).gexposed = (s.wave k).gexposed := by simp [State.observe]
@[simp] theorem State.observe_wave_jobs (s : State) (k : Nat) : (s.observe.wave k).jobs = (s.wave k).jobs := by simp [State.observe]
@[simp] theorem State.observe_wave_left (s : State) (k : Nat) : (s.observe.wave k).left = (s.wave k).left := by simp [State.observe]
@[simp] theorem State.observe_wave_mm (s : State) (k : Nat) : (s.observe.wave k).mm = (s.wave k).mm := by simp [State.observe]
@[simp] theorem State.observe_wave_epoch (s : State) (k : Nat) : (s.observe.wave k).epoch = (s.wave k).epoch := by simp [State.observe]
@[simp] theorem State.observe_wave_tags (s : State) (k : Nat) : (s.observe.wave k).tags = (s.wave k).tags := by simp [State.observe]
@[simp] theorem State.observe_wave_arrived (s : State) (k : Nat) : (s.observe.wave k).arrived = (s.wave k).arrived := by simp [State.observe]
@[simp] theorem State.observe_wave_region (s : State) (k : Nat) : (s.observe.wave k).region = (s.wave k).region := by simp [State.observe]
@[simp] theorem State.observe_wave_pend (s : State) (k : Nat) : (s.observe.wave k).pend = (s.wave k).pend := by simp [State.observe]
@[simp] theorem State.observe_wave_lost (s : State) (k : Nat) : (s.observe.wave k).lost = (s.wave k).lost := by simp [State.observe]
@[simp] theorem State.observe_wave_since (s : State) (k : Nat) : (s.observe.wave k).since = (s.wave k).since := by simp [State.observe]
@[simp] theorem State.observe_wave_slotA (s : State) (k : Nat) : (s.observe.wave k).slotA = (s.wave k).slotA := by simp [State.observe]
@[simp] theorem State.observe_wave_slotB (s : State) (k : Nat) : (s.observe.wave k).slotB = (s.wave k).slotB := by simp [State.observe]
@[simp] theorem State.observe_block_launch (s : State) (k : Nat) : (s.observe.block k).launch = (s.block k).launch := by simp [State.observe]
@[simp] theorem State.observe_block_idx (s : State) (k : Nat) : (s.observe.block k).idx = (s.block k).idx := by simp [State.observe]
@[simp] theorem State.observe_block_st (s : State) (k : Nat) : (s.observe.block k).st = (s.block k).st := by simp [State.observe]
@[simp] theorem State.observe_block_lcore (s : State) (k : Nat) : (s.observe.block k).lcore = (s.block k).lcore := by simp [State.observe]
@[simp] theorem State.observe_block_pcore (s : State) (k : Nat) : (s.observe.block k).pcore = (s.block k).pcore := by simp [State.observe]
@[simp] theorem State.observe_block_frame (s : State) (k : Nat) : (s.observe.block k).frame = (s.block k).frame := by simp [State.observe]
@[simp] theorem State.observe_block_waves (s : State) (k : Nat) : (s.observe.block k).waves = (s.block k).waves := by simp [State.observe]
@[simp] theorem State.observe_block_pageWait (s : State) (k : Nat) : (s.observe.block k).pageWait = (s.block k).pageWait := by simp [State.observe]
@[simp] theorem State.observe_block_scratch (s : State) (k : Nat) : (s.observe.block k).scratch = (s.block k).scratch := by simp [State.observe]
@[simp] theorem State.observe_block_lim (s : State) (k : Nat) : (s.observe.block k).lim = (s.block k).lim := by simp [State.observe]
@[simp] theorem State.observe_block_flights (s : State) (k : Nat) : (s.observe.block k).flights = (s.block k).flights := by simp [State.observe]
@[simp] theorem State.observe_block_tabs (s : State) (k : Nat) : (s.observe.block k).tabs = (s.block k).tabs := by simp [State.observe]
@[simp] theorem State.observe_block_accs (s : State) (k : Nat) : (s.observe.block k).accs = (s.block k).accs := by simp [State.observe]
@[simp] theorem State.observe_block_feeds (s : State) (k : Nat) : (s.observe.block k).feeds = (s.block k).feeds := by simp [State.observe]
@[simp] theorem State.observe_block_preds (s : State) (k : Nat) : (s.observe.block k).preds = (s.block k).preds := by simp [State.observe]
@[simp] theorem State.observe_block_streams (s : State) (k : Nat) : (s.observe.block k).streams = (s.block k).streams := by simp [State.observe]
@[simp] theorem State.observe_block_sketch (s : State) (k : Nat) : (s.observe.block k).sketch = (s.block k).sketch := by simp [State.observe]
@[simp] theorem State.observe_block_seqq (s : State) (k : Nat) : (s.observe.block k).seqq = (s.block k).seqq := by simp [State.observe]
@[simp] theorem State.observe_block_bars (s : State) (k : Nat) : (s.observe.block k).bars = (s.block k).bars := by simp [State.observe]
@[simp] theorem State.observe_block_share (s : State) (k : Nat) : (s.observe.block k).share = (s.block k).share := by simp [State.observe]
@[simp] theorem State.observe_block_issued (s : State) (k : Nat) : (s.observe.block k).issued = (s.block k).issued := by simp [State.observe]
@[simp] theorem State.observe_block_since (s : State) (k : Nat) : (s.observe.block k).since = (s.block k).since := by simp [State.observe]
@[simp] theorem State.observe_block_discarded (s : State) (k : Nat) : (s.observe.block k).discarded = (s.block k).discarded := by simp [State.observe]
@[simp] theorem State.observe_launch' (s : State) (k : Nat) : s.observe.launch k = s.launch k := by simp [State.launch]
@[simp] theorem State.observe_acc' (s : State) (k : Nat) : s.observe.acc k = s.acc k := by simp [State.acc]
@[simp] theorem State.observe_job' (s : State) (k : Nat) : s.observe.job k = s.job k := by simp [State.job]

end Sys2Proof.Machine
end

