-- ==== Sys2Proof/Laws/Run.lean ====
section
/-! SUPPORT. How a unit runs that may issue: no fault of R48 applies, nothing holds it, and its body is executed. -/

namespace Sys2Proof.Machine

open Sys2Proof

/-- A row that accepts every ET (R36). -/
@[simp] theorem allEts (m : Word) : (0xFFFF#16).getLsbD (mET m) = true := by
  have h : ∀ k : Nat, k < 16 → (0xFFFF#16).getLsbD k = true := by decide
  exact h _ (by unfold mET; omega)

/-- With every register in range, no fault of R48 that depends on the state applies. -/
theorem State.precheck_none (s : State) (i : Instr) (t : Traits) (ops : List Opd) (h : s.inRange ops)
    (hh : t.handlerOnly = true → s.fw.handler.isSome = true) (he : t.ets.getLsbD (mET s.mode) = true) : s.precheck i t ops = none := by
  have h1 : ops.any Opd.odd = false := by
    rw [List.any_eq_false]; intro o ho; simp [(h o ho).1]
  have h2 : firstBeyond s.fl ops = none := by
    unfold firstBeyond
    rw [List.find?_eq_none]
    intro f _
    simp only [List.any_eq_true, Bool.and_eq_true, not_exists, not_and]
    intro o ho _
    simp [(h o ho).2]
  unfold State.precheck
  have h3 : (t.handlerOnly && s.fw.handler.isNone) = false := by
    cases hb : t.handlerOnly with
    | false => rfl
    | true => have := hh hb; cases hc : s.fw.handler <;> simp_all
  simp [h1, h2, h3, he]

/-- A unit that may issue runs its body at once. -/
theorem run_now (i : Instr) (t : Traits) (ops : List Opd) (body : Nat → State → Res) (s : State) (h : s.mayIssue ops)
    (hh : t.handlerOnly = true → s.fw.handler.isSome = true) (he : t.ets.getLsbD (mET s.mode) = true)
    (hw : t.held = true → s.windowsClosed) (hc : ∀ p, t.path = some p → s.fb.counter p < 4095) :
    run i t ops body s = s.settle i t (body 0 (s.seen ops)) := by
  obtain ⟨hp, hr, hf⟩ := h
  have h1 : (t.held && !s.waitOver s.focus.wave .window) = false := by
    cases hb : t.held with
    | false => rfl
    | true => obtain ⟨a, b⟩ := hw hb; simp [State.waitOver, a, b]
  unfold run State.seen
  rw [State.precheck_none s i t ops hr hh he]
  simp only [hp, h1, State.futureWait_none s ops hf]
  cases hb : t.path with
  | none => by_cases hE : (s.futuresOf ops).isEmpty <;> simp [hE, State.counterWait]
  | some p =>
    have : ¬ 4095 ≤ (s.block s.fw.block).counter p := Nat.not_le.mpr (hc p hb)
    by_cases hE : (s.futuresOf ops).isEmpty <;> simp [hE, this, State.counterWait]

/-- A unit of a plain row that may issue and completes. -/
theorem simple_done (i : Instr) (ops : List Opd) (body : State → Res) (f : State → State) (cls times : Nat) (s : State)
    (h : s.mayIssue ops) (hb : body (s.seen ops) = .done (f (s.seen ops))) :
    simple i { cls := cls, times := times } ops body s = .next ((f (s.seen ops)).complete i { cls := cls, times := times } false) := by
  unfold simple ok
  rw [run_now i _ ops _ s h (by simp) (by simp) (by simp) (by simp), hb]
  rfl

end Sys2Proof.Machine
end

