-- ==== Sys2Proof/Laws/Frame.lean ====
section
/-! SUPPORT. The frames of the shared steps: what a completed unit, a register write and an observed future leave as it was, in the terms of Safety.lean. -/

namespace Sys2Proof.Machine

open Sys2Proof

/-! ### Memory -/

/-- Equal memories and cells read alike. -/
theorem keepsMemory_of {s t : State} (h1 : t.mem = s.mem) (h2 : t.cells = s.cells) (h3 : t.hostMem = s.hostMem)
    (h4 : t.peerMem = s.peerMem) (h5 : ∀ b, (t.block b).scratch = (s.block b).scratch) : keepsMemory s t := by
  refine ⟨fun a => ?_, fun a => by rw [h3], fun d a => by rw [h4], fun b a => by rw [h5]⟩
  unfold State.homeByte; rw [h1, h2]
theorem keepsMemory_trans {s u t : State} (h : keepsMemory s u) (g : keepsMemory u t) : keepsMemory s t :=
  ⟨fun a => (g.1 a).trans (h.1 a), fun a => (g.2.1 a).trans (h.2.1 a), fun d a => (g.2.2.1 d a).trans (h.2.2.1 d a),
    fun b a => (g.2.2.2 b a).trans (h.2.2.2 b a)⟩

/-! ### The whole rest -/

theorem keepsTraps_trans {s u t : State} (h : keepsTraps s u) (g : keepsTraps u t) : keepsTraps s t := fun w => by
  have a := h w; have b := g w; simp_all
theorem keepsBlocks_trans {s u t : State} (h : keepsBlocks s u) (g : keepsBlocks u t) : keepsBlocks s t := fun w => by
  have a := h w; have b := g w; simp_all
theorem keepsDevice_trans {s u t : State} (h : keepsDevice s u) (g : keepsDevice u t) : keepsDevice s t := by
  unfold keepsDevice at *; simp_all
theorem keepsLaunches_trans {s u t : State} (h : keepsLaunches s u) (g : keepsLaunches u t) : keepsLaunches s t :=
  fun l => (g l).trans (h l)
theorem keepsRest_trans {s u t : State} (h : keepsRest s u) (g : keepsRest u t) : keepsRest s t :=
  ⟨keepsTraps_trans h.1 g.1, keepsMemory_trans h.2.1 g.2.1, keepsBlocks_trans h.2.2.1 g.2.2.1, keepsDevice_trans h.2.2.2.1 g.2.2.2.1,
    keepsLaunches_trans h.2.2.2.2 g.2.2.2.2⟩
theorem keepsRest_rfl (s : State) : keepsRest s s := by
  refine ⟨fun w => ?_, keepsMemory_of rfl rfl rfl rfl (fun _ => rfl), fun b => ?_, ?_, fun l => rfl⟩
  · simp
  · simp
  · simp [keepsDevice]
theorem keepsRest_complete (s : State) (i : Instr) (t : Traits) (j : Bool) : keepsRest s (s.complete i t j) := by
  refine ⟨fun w => ?_, keepsMemory_of ?_ ?_ ?_ ?_ ?_, fun b => ?_, ?_, fun l => ?_⟩
  all_goals simp [keepsDevice, State.launch]
theorem keepsRest_writeSV (s : State) (r : Nat) (x : SRegVal) : keepsRest s (s.writeSV r x) := by
  refine ⟨fun w => ?_, keepsMemory_of ?_ ?_ ?_ ?_ ?_, fun b => ?_, ?_, fun l => ?_⟩
  all_goals simp [keepsDevice]
theorem keepsRest_writeS (s : State) (r : BitVec 6) (x : DWord) : keepsRest s (s.writeS r x) := keepsRest_writeSV s _ _
theorem keepsRest_writeV (s : State) (r : Nat) (m : Mask) (f : Nat → Word) (g : Mask) : keepsRest s (s.writeV r m f g) := by
  refine ⟨fun w => ?_, keepsMemory_of ?_ ?_ ?_ ?_ ?_, fun b => ?_, ?_, fun l => ?_⟩
  all_goals simp [keepsDevice]
theorem keepsRest_writeP (s : State) (r : BitVec 3) (m b g : Mask) : keepsRest s (s.writeP r m b g) := by
  refine ⟨fun w => ?_, keepsMemory_of ?_ ?_ ?_ ?_ ?_, fun b => ?_, ?_, fun l => ?_⟩
  all_goals simp [keepsDevice]
theorem keepsRest_observe (s : State) : keepsRest s s.observe := by
  refine ⟨fun w => ?_, keepsMemory_of ?_ ?_ ?_ ?_ ?_, fun b => ?_, ?_, fun l => ?_⟩
  all_goals simp [keepsDevice]
theorem keepsRest_seen (s : State) (ops : List Opd) : keepsRest s (s.seen ops) := by
  unfold State.seen; split
  · exact keepsRest_rfl s
  · exact keepsRest_observe s

/-! ### Registers -/

theorem keepsRegs_rfl (s : State) (ks kv kp : List Nat) : keepsRegs s s ks kv kp := fun _ _ => ⟨fun _ => rfl, fun _ => rfl, fun _ => rfl⟩
theorem keepsRegs_trans {s u t : State} {ks kv kp : List Nat} (hf : u.focus = s.focus) (h : keepsRegs s u ks kv kp) (g : keepsRegs u t ks kv kp) :
    keepsRegs s t ks kv kp := fun w r => by
  have a := h w r; have b := g w r; rw [hf] at b
  exact ⟨fun x => (b.1 x).trans (a.1 x), fun x => (b.2.1 x).trans (a.2.1 x), fun x => (b.2.2 x).trans (a.2.2 x)⟩
theorem keepsRegs_of {s t : State} (ks kv kp : List Nat) (h : ∀ w, (t.wave w).sregs = (s.wave w).sregs ∧ (t.wave w).vregs = (s.wave w).vregs ∧ (t.wave w).pregs = (s.wave w).pregs) :
    keepsRegs s t ks kv kp := fun w r => by
  obtain ⟨a, b, c⟩ := h w
  simp [a, b, c, Wave.v, Wave.p]
theorem keepsRegs_complete (s : State) (i : Instr) (t : Traits) (j : Bool) (ks kv kp : List Nat) : keepsRegs s (s.complete i t j) ks kv kp :=
  keepsRegs_of ks kv kp (fun w => by simp)
theorem keepsRegs_seen (s : State) (ops : List Opd) (ks kv kp : List Nat) : keepsRegs s (s.seen ops) ks kv kp := by
  unfold State.seen; split
  · exact keepsRegs_rfl s ks kv kp
  · exact keepsRegs_of ks kv kp (fun w => by simp)
theorem keepsRegs_writeSV (s : State) (d : Nat) (x : SRegVal) (ks kv kp : List Nat) (h : d ∈ ks) : keepsRegs s (s.writeSV d x) ks kv kp := fun w r => by
  refine ⟨fun hn => ?_, fun _ => by simp [Wave.v], fun _ => by simp [Wave.p]⟩
  rw [State.writeSV_sregs]; split
  · rename_i hc; obtain ⟨a, b⟩ := hc; subst b; exact absurd ⟨a, h⟩ hn
  · rfl
theorem keepsRegs_writeV (s : State) (d : Nat) (m : Mask) (f : Nat → Word) (g : Mask) (ks kv kp : List Nat) (h : d ∈ kv) :
    keepsRegs s (s.writeV d m f g) ks kv kp := fun w r => by
  refine ⟨fun _ => by simp, fun hn => ?_, fun _ => by simp [Wave.p]⟩
  rw [State.writeV_v]; split
  · rename_i hc; obtain ⟨a, b⟩ := hc; subst b; exact absurd ⟨a, h⟩ hn
  · rfl
theorem keepsRegs_writeP (s : State) (d : BitVec 3) (m b g : Mask) (ks kv kp : List Nat) (h : d.toNat ∈ kp) :
    keepsRegs s (s.writeP d m b g) ks kv kp := fun w r => by
  refine ⟨fun _ => by simp, fun _ => by simp [Wave.v], fun hn => ?_⟩
  rw [State.writeP_p]; split
  · rename_i hc; obtain ⟨a, b⟩ := hc; subst b; exact absurd ⟨a, h⟩ hn
  · rfl

/-! ### What an observed future leaves of the path -/

@[simp] theorem seen_focus (s : State) (ops : List Opd) : (s.seen ops).focus = s.focus := by unfold State.seen; split <;> simp
@[simp] theorem seen_spill (s : State) (ops : List Opd) (w : Nat) : ((s.seen ops).wave w).spill = (s.wave w).spill := by unfold State.seen; split <;> simp
@[simp] theorem seen_sregs (s : State) (ops : List Opd) (w : Nat) : ((s.seen ops).wave w).sregs = (s.wave w).sregs := by unfold State.seen; split <;> simp
@[simp] theorem seen_vregs (s : State) (ops : List Opd) (w : Nat) : ((s.seen ops).wave w).vregs = (s.wave w).vregs := by unfold State.seen; split <;> simp
@[simp] theorem seen_pregs (s : State) (ops : List Opd) (w : Nat) : ((s.seen ops).wave w).pregs = (s.wave w).pregs := by unfold State.seen; split <;> simp
@[simp] theorem seen_pad (s : State) (ops : List Opd) (w : Nat) : ((s.seen ops).wave w).pad = (s.wave w).pad := by unfold State.seen; split <;> simp
@[simp] theorem seen_waveBlock (s : State) (ops : List Opd) (w : Nat) : ((s.seen ops).wave w).block = (s.wave w).block := by unfold State.seen; split <;> simp
@[simp] theorem seen_slot (s : State) (ops : List Opd) (w : Nat) (b : Bool) : ((s.seen ops).wave w).slot b = (s.wave w).slot b := by
  unfold State.seen; split <;> simp [Wave.slot]
@[simp] theorem seen_fs (s : State) (ops : List Opd) : (s.seen ops).fs = s.fs := by simp [State.fs, State.fw]
@[simp] theorem seen_mode (s : State) (ops : List Opd) : (s.seen ops).mode = s.mode := by simp [State.mode]
@[simp] theorem seen_mask (s : State) (ops : List Opd) : (s.seen ops).mask = s.mask := by simp [State.mask]
@[simp] theorem seen_pc (s : State) (ops : List Opd) : (s.seen ops).pc = s.pc := by simp [State.pc]
@[simp] theorem seen_sreg (s : State) (ops : List Opd) (r : BitVec 6) : (s.seen ops).sreg r = s.sreg r := by simp [State.sreg, State.fw, Wave.s]
@[simp] theorem seen_vreg (s : State) (ops : List Opd) (r : Nat) : (s.seen ops).vreg r = s.vreg r := by simp [State.vreg, State.fw, Wave.v]
@[simp] theorem seen_preg (s : State) (ops : List Opd) (r : BitVec 3) : (s.seen ops).preg r = s.preg r := by simp [State.preg, State.fw, Wave.p]
@[simp] theorem seen_p (s : State) (ops : List Opd) (r : Nat) : (s.seen ops).fw.p r = s.fw.p r := by simp [State.fw, Wave.p]
@[simp] theorem seen_fwpad (s : State) (ops : List Opd) : (s.seen ops).fw.pad = s.fw.pad := by simp [State.fw]
@[simp] theorem seen_fwspill (s : State) (ops : List Opd) : (s.seen ops).fw.spill = s.fw.spill := by simp [State.fw]
@[simp] theorem seen_fwblock (s : State) (ops : List Opd) : (s.seen ops).fw.block = s.fw.block := by simp [State.fw]

/-! ### The path of a completed unit -/

/-- A unit that does not jump goes on at the next one. -/
theorem goesOn_complete {s u : State} (i : Instr) (t : Traits) (hp : u.fs.path = s.fs.path) (hs : u.fw.spill = s.fw.spill) :
    goesOn s (u.complete i t false) i := by
  intro h
  rw [State.complete_path u i t false (hs.trans h)]
  simp [State.pc, hp]
/-- A unit that jumps goes on where its body has put the path. -/
theorem goesTo_complete {s u : State} (i : Instr) (t : Traits) (pc : DWord) (hp : u.fs.path = { s.fs.path with pc := pc })
    (hs : u.fw.spill = s.fw.spill) : goesTo s (u.complete i t true) pc := by
  intro h
  rw [State.complete_path u i t true (hs.trans h)]
  simpa using hp

@[simp] theorem writeSV_path (s : State) (r : Nat) (x : SRegVal) : (s.writeSV r x).fs.path = s.fs.path := by simp [State.fs, State.fw]
@[simp] theorem writeV_path (s : State) (r : Nat) (m : Mask) (f : Nat → Word) (g : Mask) : (s.writeV r m f g).fs.path = s.fs.path := by simp [State.fs, State.fw]
@[simp] theorem writeP_path (s : State) (r : BitVec 3) (m b g : Mask) : (s.writeP r m b g).fs.path = s.fs.path := by simp [State.fs, State.fw]

end Sys2Proof.Machine
end

