-- ==== Sys2Proof/Laws/Vector.lean ====
section
/-! SUPPORT. The vector forms: what an observed future leaves of the operands, what writing lanes of a group gives, and how a vector row executes. -/

namespace Sys2Proof.Machine

open Sys2Proof

/-! ### Operands in the state that a body sees -/

@[simp] theorem seen_guardLanes (s : State) (ops : List Opd) : (s.seen ops).guardLanes = s.guardLanes := by simp [State.guardLanes]
@[simp] theorem seen_active (s : State) (ops : List Opd) : (s.seen ops).active = s.active := by simp [State.active]
@[simp] theorem seen_touched (s : State) (ops : List Opd) : (s.seen ops).touched = s.touched := by simp [State.touched, State.padLanes]
@[simp] theorem seen_guardGuess (s : State) (ops : List Opd) : (s.seen ops).guardGuess = s.guardGuess := by simp [State.guardGuess]
@[simp] theorem seen_guardTrap (s : State) (ops : List Opd) : (s.seen ops).guardTrap = s.guardTrap := by simp [State.guardTrap, State.strict]
@[simp] theorem seen_lane (s : State) (ops : List Opd) (et r l : Nat) : (s.seen ops).lane et r l = s.lane et r l := by simp [State.lane]
@[simp] theorem seen_guessV (s : State) (ops : List Opd) (et r : Nat) : (s.seen ops).guessV et r = s.guessV et r := by simp [State.guessV]
@[simp] theorem seen_srcB (s : State) (ops : List Opd) (row : BRow) (et : Nat) (b : Opnd) (l : Nat) : (s.seen ops).srcB row et b l = s.srcB row et b l := by
  cases b <;> simp [State.srcB]
@[simp] theorem seen_guessB (s : State) (ops : List Opd) (et : Nat) (b : Opnd) : (s.seen ops).guessB et b = s.guessB et b := by
  cases b <;> simp [State.guessB]
@[simp] theorem seen_guessOf (s : State) (ops : List Opd) (l : List Mask) : (s.seen ops).guessOf l = s.guessOf l := by simp [State.guessOf]
@[simp] theorem seen_groupGuess (s : State) (ops : List Opd) (r n : Nat) : (s.seen ops).groupGuess r n = s.groupGuess r n := by simp [State.groupGuess]
@[simp] theorem seen_fmt (s : State) (ops : List Opd) : (s.seen ops).fmt = s.fmt := by simp [State.fmt]

/-! ### The path of a state that has written registers -/

@[simp] theorem writeSV_focus (s : State) (r : Nat) (x : SRegVal) : (s.writeSV r x).fw.spill = s.fw.spill := by simp [State.fw]
@[simp] theorem writeV_fwspill (s : State) (r : Nat) (m : Mask) (f : Nat → Word) (g : Mask) : (s.writeV r m f g).fw.spill = s.fw.spill := by simp [State.fw]
@[simp] theorem writeP_fwspill (s : State) (r : BitVec 3) (m b g : Mask) : (s.writeP r m b g).fw.spill = s.fw.spill := by simp [State.fw]

/-! ### Statistics -/

/-- Counting changes nothing but the statistics of the launch. -/
theorem State.count_eq (s : State) (f : Nat → Counts) :
    ∃ st : Tab Word → Tab Word, s.count f = s ∨ s.count f = s.updLaunch s.fb.launch (fun x => { x with stats := st x.stats }) := by
  unfold State.count State.addStats
  generalize List.foldl _ _ _ = c
  split
  · exact ⟨id, .inl rfl⟩
  · exact ⟨fun st => ((st.upd 0 (4 * mTID s.mode) (satAdd · c.sat)).upd 0 (4 * mTID s.mode + 1) (satAdd · c.fls)).upd 0 (4 * mTID s.mode + 2) (satAdd · c.nan),
      .inr rfl⟩
theorem keepsRest_stats (s : State) (l : Nat) (st : Tab Word → Tab Word) : keepsRest s (s.updLaunch l (fun x => { x with stats := st x.stats })) := by
  refine ⟨fun w => ?_, keepsMemory_of ?_ ?_ ?_ ?_ ?_, fun b => ?_, ?_, fun k => ?_⟩
  case refine_9 => rw [State.updLaunch_at]; split <;> rfl
  all_goals simp [keepsDevice]
theorem keepsRest_count (s : State) (f : Nat → Counts) : keepsRest s (s.count f) := by
  obtain ⟨st, h | h⟩ := s.count_eq f <;> rw [h]
  · exact keepsRest_rfl s
  · exact keepsRest_stats s _ st
@[simp] theorem count_waves (s : State) (f : Nat → Counts) : (s.count f).waves = s.waves := by
  obtain ⟨st, h | h⟩ := s.count_eq f <;> rw [h]; simp
@[simp] theorem count_focus (s : State) (f : Nat → Counts) : (s.count f).focus = s.focus := by
  obtain ⟨st, h | h⟩ := s.count_eq f <;> rw [h]; simp
@[simp] theorem count_wave (s : State) (f : Nat → Counts) (w : Nat) : (s.count f).wave w = s.wave w := by simp [State.wave]
@[simp] theorem count_fs (s : State) (f : Nat → Counts) : (s.count f).fs = s.fs := by simp [State.fs, State.fw]
@[simp] theorem count_fw (s : State) (f : Nat → Counts) : (s.count f).fw = s.fw := by simp [State.fw]

/-! ### Writing the registers of a group -/

/-- Writes the first `n` registers of a group. -/
def State.writeGroup (s : State) (d n : Nat) (m : Mask) (f : Nat → Nat → Word) (g : Mask) : State :=
  (List.range n).foldl (fun t k => t.writeV (d + k) m (f k) g) s

theorem State.writeGroup_succ (s : State) (d n : Nat) (m : Mask) (f : Nat → Nat → Word) (g : Mask) :
    s.writeGroup d (n + 1) m f g = (s.writeGroup d n m f g).writeV (d + n) m (f n) g := by
  simp [State.writeGroup, List.range_succ]
@[simp] theorem State.writeGroup_focus (s : State) (d n : Nat) (m : Mask) (f : Nat → Nat → Word) (g : Mask) : (s.writeGroup d n m f g).focus = s.focus := by
  induction n with
  | zero => rfl
  | succ n ih => rw [State.writeGroup_succ]; simp [ih]
@[simp] theorem State.writeGroup_path (s : State) (d n : Nat) (m : Mask) (f : Nat → Nat → Word) (g : Mask) : (s.writeGroup d n m f g).fs.path = s.fs.path := by
  induction n with
  | zero => rfl
  | succ n ih => rw [State.writeGroup_succ]; simp [ih]
@[simp] theorem State.writeGroup_spill (s : State) (d n : Nat) (m : Mask) (f : Nat → Nat → Word) (g : Mask) : (s.writeGroup d n m f g).fw.spill = s.fw.spill := by
  induction n with
  | zero => rfl
  | succ n ih => rw [State.writeGroup_succ]; simp [ih]
theorem keepsRest_writeGroup (s : State) (d n : Nat) (m : Mask) (f : Nat → Nat → Word) (g : Mask) : keepsRest s (s.writeGroup d n m f g) := by
  induction n with
  | zero => exact keepsRest_rfl s
  | succ n ih => rw [State.writeGroup_succ]; exact keepsRest_trans ih (keepsRest_writeV _ _ _ _ _)
theorem keepsRegs_writeGroup (s : State) (d n : Nat) (m : Mask) (f : Nat → Nat → Word) (g : Mask) (kv : List Nat) (h : ∀ k, k < n → d + k ∈ kv) :
    keepsRegs s (s.writeGroup d n m f g) [] kv [] := by
  induction n with
  | zero => exact keepsRegs_rfl s _ _ _
  | succ n ih =>
    rw [State.writeGroup_succ]
    exact keepsRegs_trans (by simp) (ih (fun k hk => h k (by omega))) (keepsRegs_writeV _ _ _ _ _ _ _ _ (h n (by omega)))
/-- Each register of the group takes its lanes; no other register does. -/
theorem State.writeGroup_v (s : State) (d n : Nat) (m : Mask) (f : Nat → Nat → Word) (g : Mask) (k : Nat) (hk : k < n) :
    ((s.writeGroup d n m f g).wave s.focus.wave).v (d + k) = ((s.wave s.focus.wave).v (d + k)).merge m (f k) g := by
  have above : ∀ n j, n ≤ j → ((s.writeGroup d n m f g).wave s.focus.wave).v (d + j) = (s.wave s.focus.wave).v (d + j) := by
    intro n
    induction n with
    | zero => intro j _; rfl
    | succ n ih =>
      intro j hj
      rw [State.writeGroup_succ, State.writeV_v, if_neg (by simp; omega), ih j (by omega)]
  induction n with
  | zero => omega
  | succ n ih =>
    rw [State.writeGroup_succ, State.writeV_v]
    by_cases hn : k = n
    · subst hn; simp [above k k (by omega)]
    · rw [if_neg (by simp; omega)]; exact ih (by omega)

/-- A lane write is a group write of one register, or of two under F64. -/
theorem State.writeLanes_eq (s : State) (et r : Nat) (m : Mask) (f : Nat → Nat) (g : Mask) :
    s.writeLanes et r m f g = s.writeGroup r (etRegs et) m (fun k l => BitVec.ofNat 32 (f l / 2 ^ (32 * k))) g := by
  unfold State.writeLanes etRegs State.writeGroup
  by_cases h : et = 12 <;> simp [h, List.range_succ]

/-! ### A vector row -/

/-- A vector row that may issue and meets no guessed guard lane runs its body. -/
theorem vectorOp_ok (i : Instr) (t : Traits) (ops : List Opd) (body : State → State) (s : State) (h : s.mayIssue ops)
    (he : t.ets.getLsbD (mET s.mode) = true) (hg : s.guardTrap = none) (hh : t.handlerOnly = false) (hw : t.held = false) (hp : t.path = none) :
    vectorOp i t ops body s = .next ((body (s.seen ops)).complete i t false) := by
  unfold vectorOp simple ok
  rw [run_now i t ops _ s h (by simp [hh]) he (by simp [hw]) (by simp [hp])]
  simp only [seen_guardTrap, hg]
  rfl

/-- A completed group write: the values, and all that stays. -/
theorem group_frame (s : State) (ops : List Opd) (u : State) (i : Instr) (tr : Traits) (d n : Nat) (m : Mask) (f : Nat → Nat → Word) (g : Mask)
    (hu : keepsRest (s.seen ops) u) (hw : u.waves = (s.seen ops).waves) (hf : u.focus = s.focus) :
    (∀ k, k < n → (((u.writeGroup d n m f g).complete i tr false).wave s.focus.wave).v (d + k) = ((s.wave s.focus.wave).v (d + k)).merge m (f k) g) ∧
    keepsRegs s ((u.writeGroup d n m f g).complete i tr false) [] ((List.range n).map (d + ·)) [] ∧
    keepsRest s ((u.writeGroup d n m f g).complete i tr false) ∧ goesOn s ((u.writeGroup d n m f g).complete i tr false) i := by
  have hwv : ∀ w, u.wave w = (s.seen ops).wave w := fun w => by simp [State.wave, hw]
  have hfw : u.fw = (s.seen ops).fw := by simp [State.fw, hwv, hf]
  refine ⟨fun k hk => ?_, ?_, ?_, goesOn_complete i _ ?_ ?_⟩
  · simp only [Wave.v, State.complete_wave_vregs]
    have h1 := State.writeGroup_v u d n m f g k hk
    rw [hf] at h1
    simp only [Wave.v] at h1
    rw [h1, hwv]; simp
  · refine keepsRegs_trans (u := u.writeGroup d n m f g) (by simp [hf]) (keepsRegs_trans (u := u) hf (keepsRegs_trans (u := s.seen ops) (by simp) (keepsRegs_seen s ops _ _ _) ?_) ?_) (keepsRegs_complete _ i tr false _ _ _)
    · exact keepsRegs_of _ _ _ (fun w => by simp [hwv])
    · exact keepsRegs_writeGroup u d n m f g _ (fun k hk => by simp; exact hk)
  · exact keepsRest_trans (keepsRest_trans (keepsRest_trans (keepsRest_seen s ops) hu) (keepsRest_writeGroup u d n m f g)) (keepsRest_complete _ i tr false)
  · rw [State.writeGroup_path]; simp [State.fs, hfw, hf]; simp [State.fw]
  · simp [hfw]

end Sys2Proof.Machine
end

