-- ==== Sys2Proof/Laws/KeepsBase.lean ====
section
/-! SUPPORT. Folds of steps that each leave a field of State alone leave it alone. One lemma per operation, over the fields of State; a field that is not named may change. -/

set_option linter.unusedSimpArgs false

namespace Sys2Proof.Machine
open Sys2Proof

@[simp] theorem foldl_waves {α : Type} (g : State → α → State) (l : List α) (s : State) (h : ∀ s x, (g s x).waves = s.waves) : (l.foldl g s).waves = s.waves := by
  induction l generalizing s with
  | nil => rfl
  | cons x l ih => simp only [List.foldl_cons]; rw [ih, h]
@[simp] theorem foldl_blocks {α : Type} (g : State → α → State) (l : List α) (s : State) (h : ∀ s x, (g s x).blocks = s.blocks) : (l.foldl g s).blocks = s.blocks := by
  induction l generalizing s with
  | nil => rfl
  | cons x l ih => simp only [List.foldl_cons]; rw [ih, h]
@[simp] theorem foldl_launches {α : Type} (g : State → α → State) (l : List α) (s : State) (h : ∀ s x, (g s x).launches = s.launches) : (l.foldl g s).launches = s.launches := by
  induction l generalizing s with
  | nil => rfl
  | cons x l ih => simp only [List.foldl_cons]; rw [ih, h]
@[simp] theorem foldl_cores {α : Type} (g : State → α → State) (l : List α) (s : State) (h : ∀ s x, (g s x).cores = s.cores) : (l.foldl g s).cores = s.cores := by
  induction l generalizing s with
  | nil => rfl
  | cons x l ih => simp only [List.foldl_cons]; rw [ih, h]
@[simp] theorem foldl_mem {α : Type} (g : State → α → State) (l : List α) (s : State) (h : ∀ s x, (g s x).mem = s.mem) : (l.foldl g s).mem = s.mem := by
  induction l generalizing s with
  | nil => rfl
  | cons x l ih => simp only [List.foldl_cons]; rw [ih, h]
@[simp] theorem foldl_array {α : Type} (g : State → α → State) (l : List α) (s : State) (h : ∀ s x, (g s x).array = s.array) : (l.foldl g s).array = s.array := by
  induction l generalizing s with
  | nil => rfl
  | cons x l ih => simp only [List.foldl_cons]; rw [ih, h]
@[simp] theorem foldl_hostMem {α : Type} (g : State → α → State) (l : List α) (s : State) (h : ∀ s x, (g s x).hostMem = s.hostMem) : (l.foldl g s).hostMem = s.hostMem := by
  induction l generalizing s with
  | nil => rfl
  | cons x l ih => simp only [List.foldl_cons]; rw [ih, h]
@[simp] theorem foldl_peerMem {α : Type} (g : State → α → State) (l : List α) (s : State) (h : ∀ s x, (g s x).peerMem = s.peerMem) : (l.foldl g s).peerMem = s.peerMem := by
  induction l generalizing s with
  | nil => rfl
  | cons x l ih => simp only [List.foldl_cons]; rw [ih, h]
@[simp] theorem foldl_registrant {α : Type} (g : State → α → State) (l : List α) (s : State) (h : ∀ s x, (g s x).registrant = s.registrant) : (l.foldl g s).registrant = s.registrant := by
  induction l generalizing s with
  | nil => rfl
  | cons x l ih => simp only [List.foldl_cons]; rw [ih, h]
@[simp] theorem foldl_claims {α : Type} (g : State → α → State) (l : List α) (s : State) (h : ∀ s x, (g s x).claims = s.claims) : (l.foldl g s).claims = s.claims := by
  induction l generalizing s with
  | nil => rfl
  | cons x l ih => simp only [List.foldl_cons]; rw [ih, h]
@[simp] theorem foldl_cells {α : Type} (g : State → α → State) (l : List α) (s : State) (h : ∀ s x, (g s x).cells = s.cells) : (l.foldl g s).cells = s.cells := by
  induction l generalizing s with
  | nil => rfl
  | cons x l ih => simp only [List.foldl_cons]; rw [ih, h]
@[simp] theorem foldl_regions {α : Type} (g : State → α → State) (l : List α) (s : State) (h : ∀ s x, (g s x).regions = s.regions) : (l.foldl g s).regions = s.regions := by
  induction l generalizing s with
  | nil => rfl
  | cons x l ih => simp only [List.foldl_cons]; rw [ih, h]
@[simp] theorem foldl_rdc {α : Type} (g : State → α → State) (l : List α) (s : State) (h : ∀ s x, (g s x).rdc = s.rdc) : (l.foldl g s).rdc = s.rdc := by
  induction l generalizing s with
  | nil => rfl
  | cons x l ih => simp only [List.foldl_cons]; rw [ih, h]
@[simp] theorem foldl_l2 {α : Type} (g : State → α → State) (l : List α) (s : State) (h : ∀ s x, (g s x).l2 = s.l2) : (l.foldl g s).l2 = s.l2 := by
  induction l generalizing s with
  | nil => rfl
  | cons x l ih => simp only [List.foldl_cons]; rw [ih, h]
@[simp] theorem foldl_msc {α : Type} (g : State → α → State) (l : List α) (s : State) (h : ∀ s x, (g s x).msc = s.msc) : (l.foldl g s).msc = s.msc := by
  induction l generalizing s with
  | nil => rfl
  | cons x l ih => simp only [List.foldl_cons]; rw [ih, h]
@[simp] theorem foldl_hbms {α : Type} (g : State → α → State) (l : List α) (s : State) (h : ∀ s x, (g s x).hbms = s.hbms) : (l.foldl g s).hbms = s.hbms := by
  induction l generalizing s with
  | nil => rfl
  | cons x l ih => simp only [List.foldl_cons]; rw [ih, h]
@[simp] theorem foldl_bad {α : Type} (g : State → α → State) (l : List α) (s : State) (h : ∀ s x, (g s x).bad = s.bad) : (l.foldl g s).bad = s.bad := by
  induction l generalizing s with
  | nil => rfl
  | cons x l ih => simp only [List.foldl_cons]; rw [ih, h]
@[simp] theorem foldl_weak {α : Type} (g : State → α → State) (l : List α) (s : State) (h : ∀ s x, (g s x).weak = s.weak) : (l.foldl g s).weak = s.weak := by
  induction l generalizing s with
  | nil => rfl
  | cons x l ih => simp only [List.foldl_cons]; rw [ih, h]
@[simp] theorem foldl_lost {α : Type} (g : State → α → State) (l : List α) (s : State) (h : ∀ s x, (g s x).lost = s.lost) : (l.foldl g s).lost = s.lost := by
  induction l generalizing s with
  | nil => rfl
  | cons x l ih => simp only [List.foldl_cons]; rw [ih, h]
@[simp] theorem foldl_tlb {α : Type} (g : State → α → State) (l : List α) (s : State) (h : ∀ s x, (g s x).tlb = s.tlb) : (l.foldl g s).tlb = s.tlb := by
  induction l generalizing s with
  | nil => rfl
  | cons x l ih => simp only [List.foldl_cons]; rw [ih, h]
@[simp] theorem foldl_accs {α : Type} (g : State → α → State) (l : List α) (s : State) (h : ∀ s x, (g s x).accs = s.accs) : (l.foldl g s).accs = s.accs := by
  induction l generalizing s with
  | nil => rfl
  | cons x l ih => simp only [List.foldl_cons]; rw [ih, h]
@[simp] theorem foldl_net {α : Type} (g : State → α → State) (l : List α) (s : State) (h : ∀ s x, (g s x).net = s.net) : (l.foldl g s).net = s.net := by
  induction l generalizing s with
  | nil => rfl
  | cons x l ih => simp only [List.foldl_cons]; rw [ih, h]
@[simp] theorem foldl_abufs {α : Type} (g : State → α → State) (l : List α) (s : State) (h : ∀ s x, (g s x).abufs = s.abufs) : (l.foldl g s).abufs = s.abufs := by
  induction l generalizing s with
  | nil => rfl
  | cons x l ih => simp only [List.foldl_cons]; rw [ih, h]
@[simp] theorem foldl_jobs {α : Type} (g : State → α → State) (l : List α) (s : State) (h : ∀ s x, (g s x).jobs = s.jobs) : (l.foldl g s).jobs = s.jobs := by
  induction l generalizing s with
  | nil => rfl
  | cons x l ih => simp only [List.foldl_cons]; rw [ih, h]
@[simp] theorem foldl_feet {α : Type} (g : State → α → State) (l : List α) (s : State) (h : ∀ s x, (g s x).feet = s.feet) : (l.foldl g s).feet = s.feet := by
  induction l generalizing s with
  | nil => rfl
  | cons x l ih => simp only [List.foldl_cons]; rw [ih, h]
@[simp] theorem foldl_shapes {α : Type} (g : State → α → State) (l : List α) (s : State) (h : ∀ s x, (g s x).shapes = s.shapes) : (l.foldl g s).shapes = s.shapes := by
  induction l generalizing s with
  | nil => rfl
  | cons x l ih => simp only [List.foldl_cons]; rw [ih, h]
@[simp] theorem foldl_eqs {α : Type} (g : State → α → State) (l : List α) (s : State) (h : ∀ s x, (g s x).eqs = s.eqs) : (l.foldl g s).eqs = s.eqs := by
  induction l generalizing s with
  | nil => rfl
  | cons x l ih => simp only [List.foldl_cons]; rw [ih, h]
@[simp] theorem foldl_insts {α : Type} (g : State → α → State) (l : List α) (s : State) (h : ∀ s x, (g s x).insts = s.insts) : (l.foldl g s).insts = s.insts := by
  induction l generalizing s with
  | nil => rfl
  | cons x l ih => simp only [List.foldl_cons]; rw [ih, h]
@[simp] theorem foldl_links {α : Type} (g : State → α → State) (l : List α) (s : State) (h : ∀ s x, (g s x).links = s.links) : (l.foldl g s).links = s.links := by
  induction l generalizing s with
  | nil => rfl
  | cons x l ih => simp only [List.foldl_cons]; rw [ih, h]
@[simp] theorem foldl_hostAccs {α : Type} (g : State → α → State) (l : List α) (s : State) (h : ∀ s x, (g s x).hostAccs = s.hostAccs) : (l.foldl g s).hostAccs = s.hostAccs := by
  induction l generalizing s with
  | nil => rfl
  | cons x l ih => simp only [List.foldl_cons]; rw [ih, h]
@[simp] theorem foldl_hostLines {α : Type} (g : State → α → State) (l : List α) (s : State) (h : ∀ s x, (g s x).hostLines = s.hostLines) : (l.foldl g s).hostLines = s.hostLines := by
  induction l generalizing s with
  | nil => rfl
  | cons x l ih => simp only [List.foldl_cons]; rw [ih, h]
@[simp] theorem foldl_mgmt {α : Type} (g : State → α → State) (l : List α) (s : State) (h : ∀ s x, (g s x).mgmt = s.mgmt) : (l.foldl g s).mgmt = s.mgmt := by
  induction l generalizing s with
  | nil => rfl
  | cons x l ih => simp only [List.foldl_cons]; rw [ih, h]
@[simp] theorem foldl_focus {α : Type} (g : State → α → State) (l : List α) (s : State) (h : ∀ s x, (g s x).focus = s.focus) : (l.foldl g s).focus = s.focus := by
  induction l generalizing s with
  | nil => rfl
  | cons x l ih => simp only [List.foldl_cons]; rw [ih, h]
@[simp] theorem foldl_agenda {α : Type} (g : State → α → State) (l : List α) (s : State) (h : ∀ s x, (g s x).agenda = s.agenda) : (l.foldl g s).agenda = s.agenda := by
  induction l generalizing s with
  | nil => rfl
  | cons x l ih => simp only [List.foldl_cons]; rw [ih, h]
@[simp] theorem foldl_seq {α : Type} (g : State → α → State) (l : List α) (s : State) (h : ∀ s x, (g s x).seq = s.seq) : (l.foldl g s).seq = s.seq := by
  induction l generalizing s with
  | nil => rfl
  | cons x l ih => simp only [List.foldl_cons]; rw [ih, h]
@[simp] theorem foldl_wave_block {α : Type} (g : State → α → State) (l : List α) (s : State) (k : Nat) (h : ∀ s x, ((g s x).wave k).block = (s.wave k).block) : ((l.foldl g s).wave k).block = (s.wave k).block := by
  induction l generalizing s with
  | nil => rfl
  | cons x l ih => simp only [List.foldl_cons]; rw [ih, h]
@[simp] theorem foldl_wave_idx {α : Type} (g : State → α → State) (l : List α) (s : State) (k : Nat) (h : ∀ s x, ((g s x).wave k).idx = (s.wave k).idx) : ((l.foldl g s).wave k).idx = (s.wave k).idx := by
  induction l generalizing s with
  | nil => rfl
  | cons x l ih => simp only [List.foldl_cons]; rw [ih, h]
@[simp] theorem foldl_wave_exited {α : Type} (g : State → α → State) (l : List α) (s : State) (k : Nat) (h : ∀ s x, ((g s x).wave k).exited = (s.wave k).exited) : ((l.foldl g s).wave k).exited = (s.wave k).exited := by
  induction l generalizing s with
  | nil => rfl
  | cons x l ih => simp only [List.foldl_cons]; rw [ih, h]
@[simp] theorem foldl_wave_launchMask {α : Type} (g : State → α → State) (l : List α) (s : State) (k : Nat) (h : ∀ s x, ((g s x).wave k).launchMask = (s.wave k).launchMask) : ((l.foldl g s).wave k).launchMask = (s.wave k).launchMask := by
  induction l generalizing s with
  | nil => rfl
  | cons x l ih => simp only [List.foldl_cons]; rw [ih, h]
@[simp] theorem foldl_wave_pad {α : Type} (g : State → α → State) (l : List α) (s : State) (k : Nat) (h : ∀ s x, ((g s x).wave k).pad = (s.wave k).pad) : ((l.foldl g s).wave k).pad = (s.wave k).pad := by
  induction l generalizing s with
  | nil => rfl
  | cons x l ih => simp only [List.foldl_cons]; rw [ih, h]
@[simp] theorem foldl_wave_sregs {α : Type} (g : State → α → State) (l : List α) (s : State) (k : Nat) (h : ∀ s x, ((g s x).wave k).sregs = (s.wave k).sregs) : ((l.foldl g s).wave k).sregs = (s.wave k).sregs := by
  induction l generalizing s with
  | nil => rfl
  | cons x l ih => simp only [List.foldl_cons]; rw [ih, h]
@[simp] theorem foldl_wave_vregs {α : Type} (g : State → α → State) (l : List α) (s : State) (k : Nat) (h : ∀ s x, ((g s x).wave k).vregs = (s.wave k).vregs) : ((l.foldl g s).wave k).vregs = (s.wave k).vregs := by
  induction l generalizing s with
  | nil => rfl
  | cons x l ih => simp only [List.foldl_cons]; rw [ih, h]
@[simp] theorem foldl_wave_pregs {α : Type} (g : State → α → State) (l : List α) (s : State) (k : Nat) (h : ∀ s x, ((g s x).wave k).pregs = (s.wave k).pregs) : ((l.foldl g s).wave k).pregs = (s.wave k).pregs := by
  induction l generalizing s with
  | nil => rfl
  | cons x l ih => simp only [List.foldl_cons]; rw [ih, h]
@[simp] theorem foldl_wave_slotA {α : Type} (g : State → α → State) (l : List α) (s : State) (k : Nat) (h : ∀ s x, ((g s x).wave k).slotA = (s.wave k).slotA) : ((l.foldl g s).wave k).slotA = (s.wave k).slotA := by
  induction l generalizing s with
  | nil => rfl
  | cons x l ih => simp only [List.foldl_cons]; rw [ih, h]
@[simp] theorem foldl_wave_slotB {α : Type} (g : State → α → State) (l : List α) (s : State) (k : Nat) (h : ∀ s x, ((g s x).wave k).slotB = (s.wave k).slotB) : ((l.foldl g s).wave k).slotB = (s.wave k).slotB := by
  induction l generalizing s with
  | nil => rfl
  | cons x l ih => simp only [List.foldl_cons]; rw [ih, h]
@[simp] theorem foldl_wave_lastB {α : Type} (g : State → α → State) (l : List α) (s : State) (k : Nat) (h : ∀ s x, ((g s x).wave k).lastB = (s.wave k).lastB) : ((l.foldl g s).wave k).lastB = (s.wave k).lastB := by
  induction l generalizing s with
  | nil => rfl
  | cons x l ih => simp only [List.foldl_cons]; rw [ih, h]
@[simp] theorem foldl_wave_spill {α : Type} (g : State → α → State) (l : List α) (s : State) (k : Nat) (h : ∀ s x, ((g s x).wave k).spill = (s.wave k).spill) : ((l.foldl g s).wave k).spill = (s.wave k).spill := by
  induction l generalizing s with
  | nil => rfl
  | cons x l ih => simp only [List.foldl_cons]; rw [ih, h]
@[simp] theorem foldl_wave_handler {α : Type} (g : State → α → State) (l : List α) (s : State) (k : Nat) (h : ∀ s x, ((g s x).wave k).handler = (s.wave k).handler) : ((l.foldl g s).wave k).handler = (s.wave k).handler := by
  induction l generalizing s with
  | nil => rfl
  | cons x l ih => simp only [List.foldl_cons]; rw [ih, h]
@[simp] theorem foldl_wave_xpc {α : Type} (g : State → α → State) (l : List α) (s : State) (k : Nat) (h : ∀ s x, ((g s x).wave k).xpc = (s.wave k).xpc) : ((l.foldl g s).wave k).xpc = (s.wave k).xpc := by
  induction l generalizing s with
  | nil => rfl
  | cons x l ih => simp only [List.foldl_cons]; rw [ih, h]
@[simp] theorem foldl_wave_xmode {α : Type} (g : State → α → State) (l : List α) (s : State) (k : Nat) (h : ∀ s x, ((g s x).wave k).xmode = (s.wave k).xmode) : ((l.foldl g s).wave k).xmode = (s.wave k).xmode := by
  induction l generalizing s with
  | nil => rfl
  | cons x l ih => simp only [List.foldl_cons]; rw [ih, h]
@[simp] theorem foldl_wave_xcause {α : Type} (g : State → α → State) (l : List α) (s : State) (k : Nat) (h : ∀ s x, ((g s x).wave k).xcause = (s.wave k).xcause) : ((l.foldl g s).wave k).xcause = (s.wave k).xcause := by
  induction l generalizing s with
  | nil => rfl
  | cons x l ih => simp only [List.foldl_cons]; rw [ih, h]
@[simp] theorem foldl_wave_xlanes {α : Type} (g : State → α → State) (l : List α) (s : State) (k : Nat) (h : ∀ s x, ((g s x).wave k).xlanes = (s.wave k).xlanes) : ((l.foldl g s).wave k).xlanes = (s.wave k).xlanes := by
  induction l generalizing s with
  | nil => rfl
  | cons x l ih => simp only [List.foldl_cons]; rw [ih, h]
@[simp] theorem foldl_wave_xaddr {α : Type} (g : State → α → State) (l : List α) (s : State) (k : Nat) (h : ∀ s x, ((g s x).wave k).xaddr = (s.wave k).xaddr) : ((l.foldl g s).wave k).xaddr = (s.wave k).xaddr := by
  induction l generalizing s with
  | nil => rfl
  | cons x l ih => simp only [List.foldl_cons]; rw [ih, h]
@[simp] theorem foldl_wave_gexposed {α : Type} (g : State → α → State) (l : List α) (s : State) (k : Nat) (h : ∀ s x, ((g s x).wave k).gexposed = (s.wave k).gexposed) : ((l.foldl g s).wave k).gexposed = (s.wave k).gexposed := by
  induction l generalizing s with
  | nil => rfl
  | cons x l ih => simp only [List.foldl_cons]; rw [ih, h]
@[simp] theorem foldl_wave_mm {α : Type} (g : State → α → State) (l : List α) (s : State) (k : Nat) (h : ∀ s x, ((g s x).wave k).mm = (s.wave k).mm) : ((l.foldl g s).wave k).mm = (s.wave k).mm := by
  induction l generalizing s with
  | nil => rfl
  | cons x l ih => simp only [List.foldl_cons]; rw [ih, h]
@[simp] theorem foldl_wave_epoch {α : Type} (g : State → α → State) (l : List α) (s : State) (k : Nat) (h : ∀ s x, ((g s x).wave k).epoch = (s.wave k).epoch) : ((l.foldl g s).wave k).epoch = (s.wave k).epoch := by
  induction l generalizing s with
  | nil => rfl
  | cons x l ih => simp only [List.foldl_cons]; rw [ih, h]
@[simp] theorem foldl_wave_tags {α : Type} (g : State → α → State) (l : List α) (s : State) (k : Nat) (h : ∀ s x, ((g s x).wave k).tags = (s.wave k).tags) : ((l.foldl g s).wave k).tags = (s.wave k).tags := by
  induction l generalizing s with
  | nil => rfl
  | cons x l ih => simp only [List.foldl_cons]; rw [ih, h]
@[simp] theorem foldl_wave_sfr {α : Type} (g : State → α → State) (l : List α) (s : State) (k : Nat) (h : ∀ s x, ((g s x).wave k).sfr = (s.wave k).sfr) : ((l.foldl g s).wave k).sfr = (s.wave k).sfr := by
  induction l generalizing s with
  | nil => rfl
  | cons x l ih => simp only [List.foldl_cons]; rw [ih, h]
@[simp] theorem foldl_wave_arrived {α : Type} (g : State → α → State) (l : List α) (s : State) (k : Nat) (h : ∀ s x, ((g s x).wave k).arrived = (s.wave k).arrived) : ((l.foldl g s).wave k).arrived = (s.wave k).arrived := by
  induction l generalizing s with
  | nil => rfl
  | cons x l ih => simp only [List.foldl_cons]; rw [ih, h]
@[simp] theorem foldl_wave_region {α : Type} (g : State → α → State) (l : List α) (s : State) (k : Nat) (h : ∀ s x, ((g s x).wave k).region = (s.wave k).region) : ((l.foldl g s).wave k).region = (s.wave k).region := by
  induction l generalizing s with
  | nil => rfl
  | cons x l ih => simp only [List.foldl_cons]; rw [ih, h]
@[simp] theorem foldl_wave_pend {α : Type} (g : State → α → State) (l : List α) (s : State) (k : Nat) (h : ∀ s x, ((g s x).wave k).pend = (s.wave k).pend) : ((l.foldl g s).wave k).pend = (s.wave k).pend := by
  induction l generalizing s with
  | nil => rfl
  | cons x l ih => simp only [List.foldl_cons]; rw [ih, h]
@[simp] theorem foldl_wave_lost {α : Type} (g : State → α → State) (l : List α) (s : State) (k : Nat) (h : ∀ s x, ((g s x).wave k).lost = (s.wave k).lost) : ((l.foldl g s).wave k).lost = (s.wave k).lost := by
  induction l generalizing s with
  | nil => rfl
  | cons x l ih => simp only [List.foldl_cons]; rw [ih, h]
@[simp] theorem foldl_wave_since {α : Type} (g : State → α → State) (l : List α) (s : State) (k : Nat) (h : ∀ s x, ((g s x).wave k).since = (s.wave k).since) : ((l.foldl g s).wave k).since = (s.wave k).since := by
  induction l generalizing s with
  | nil => rfl
  | cons x l ih => simp only [List.foldl_cons]; rw [ih, h]
@[simp] theorem foldl_wave_jobs {α : Type} (g : State → α → State) (l : List α) (s : State) (k : Nat) (h : ∀ s x, ((g s x).wave k).jobs = (s.wave k).jobs) : ((l.foldl g s).wave k).jobs = (s.wave k).jobs := by
  induction l generalizing s with
  | nil => rfl
  | cons x l ih => simp only [List.foldl_cons]; rw [ih, h]
@[simp] theorem foldl_wave_left {α : Type} (g : State → α → State) (l : List α) (s : State) (k : Nat) (h : ∀ s x, ((g s x).wave k).left = (s.wave k).left) : ((l.foldl g s).wave k).left = (s.wave k).left := by
  induction l generalizing s with
  | nil => rfl
  | cons x l ih => simp only [List.foldl_cons]; rw [ih, h]
@[simp] theorem foldl_block_launch {α : Type} (g : State → α → State) (l : List α) (s : State) (k : Nat) (h : ∀ s x, ((g s x).block k).launch = (s.block k).launch) : ((l.foldl g s).block k).launch = (s.block k).launch := by
  induction l generalizing s with
  | nil => rfl
  | cons x l ih => simp only [List.foldl_cons]; rw [ih, h]
@[simp] theorem foldl_block_idx {α : Type} (g : State → α → State) (l : List α) (s : State) (k : Nat) (h : ∀ s x, ((g s x).block k).idx = (s.block k).idx) : ((l.foldl g s).block k).idx = (s.block k).idx := by
  induction l generalizing s with
  | nil => rfl
  | cons x l ih => simp only [List.foldl_cons]; rw [ih, h]
@[simp] theorem foldl_block_st {α : Type} (g : State → α → State) (l : List α) (s : State) (k : Nat) (h : ∀ s x, ((g s x).block k).st = (s.block k).st) : ((l.foldl g s).block k).st = (s.block k).st := by
  induction l generalizing s with
  | nil => rfl
  | cons x l ih => simp only [List.foldl_cons]; rw [ih, h]
@[simp] theorem foldl_block_lcore {α : Type} (g : State → α → State) (l : List α) (s : State) (k : Nat) (h : ∀ s x, ((g s x).block k).lcore = (s.block k).lcore) : ((l.foldl g s).block k).lcore = (s.block k).lcore := by
  induction l generalizing s with
  | nil => rfl
  | cons x l ih => simp only [List.foldl_cons]; rw [ih, h]
@[simp] theorem foldl_block_pcore {α : Type} (g : State → α → State) (l : List α) (s : State) (k : Nat) (h : ∀ s x, ((g s x).block k).pcore = (s.block k).pcore) : ((l.foldl g s).block k).pcore = (s.block k).pcore := by
  induction l generalizing s with
  | nil => rfl
  | cons x l ih => simp only [List.foldl_cons]; rw [ih, h]
@[simp] theorem foldl_block_frame {α : Type} (g : State → α → State) (l : List α) (s : State) (k : Nat) (h : ∀ s x, ((g s x).block k).frame = (s.block k).frame) : ((l.foldl g s).block k).frame = (s.block k).frame := by
  induction l generalizing s with
  | nil => rfl
  | cons x l ih => simp only [List.foldl_cons]; rw [ih, h]
@[simp] theorem foldl_block_waves {α : Type} (g : State → α → State) (l : List α) (s : State) (k : Nat) (h : ∀ s x, ((g s x).block k).waves = (s.block k).waves) : ((l.foldl g s).block k).waves = (s.block k).waves := by
  induction l generalizing s with
  | nil => rfl
  | cons x l ih => simp only [List.foldl_cons]; rw [ih, h]
@[simp] theorem foldl_block_pageWait {α : Type} (g : State → α → State) (l : List α) (s : State) (k : Nat) (h : ∀ s x, ((g s x).block k).pageWait = (s.block k).pageWait) : ((l.foldl g s).block k).pageWait = (s.block k).pageWait := by
  induction l generalizing s with
  | nil => rfl
  | cons x l ih => simp only [List.foldl_cons]; rw [ih, h]
@[simp] theorem foldl_block_scratch {α : Type} (g : State → α → State) (l : List α) (s : State) (k : Nat) (h : ∀ s x, ((g s x).block k).scratch = (s.block k).scratch) : ((l.foldl g s).block k).scratch = (s.block k).scratch := by
  induction l generalizing s with
  | nil => rfl
  | cons x l ih => simp only [List.foldl_cons]; rw [ih, h]
@[simp] theorem foldl_block_sclaims {α : Type} (g : State → α → State) (l : List α) (s : State) (k : Nat) (h : ∀ s x, ((g s x).block k).sclaims = (s.block k).sclaims) : ((l.foldl g s).block k).sclaims = (s.block k).sclaims := by
  induction l generalizing s with
  | nil => rfl
  | cons x l ih => simp only [List.foldl_cons]; rw [ih, h]
@[simp] theorem foldl_block_lim {α : Type} (g : State → α → State) (l : List α) (s : State) (k : Nat) (h : ∀ s x, ((g s x).block k).lim = (s.block k).lim) : ((l.foldl g s).block k).lim = (s.block k).lim := by
  induction l generalizing s with
  | nil => rfl
  | cons x l ih => simp only [List.foldl_cons]; rw [ih, h]
@[simp] theorem foldl_block_flights {α : Type} (g : State → α → State) (l : List α) (s : State) (k : Nat) (h : ∀ s x, ((g s x).block k).flights = (s.block k).flights) : ((l.foldl g s).block k).flights = (s.block k).flights := by
  induction l generalizing s with
  | nil => rfl
  | cons x l ih => simp only [List.foldl_cons]; rw [ih, h]
@[simp] theorem foldl_block_tabs {α : Type} (g : State → α → State) (l : List α) (s : State) (k : Nat) (h : ∀ s x, ((g s x).block k).tabs = (s.block k).tabs) : ((l.foldl g s).block k).tabs = (s.block k).tabs := by
  induction l generalizing s with
  | nil => rfl
  | cons x l ih => simp only [List.foldl_cons]; rw [ih, h]
@[simp] theorem foldl_block_accs {α : Type} (g : State → α → State) (l : List α) (s : State) (k : Nat) (h : ∀ s x, ((g s x).block k).accs = (s.block k).accs) : ((l.foldl g s).block k).accs = (s.block k).accs := by
  induction l generalizing s with
  | nil => rfl
  | cons x l ih => simp only [List.foldl_cons]; rw [ih, h]
@[simp] theorem foldl_block_feeds {α : Type} (g : State → α → State) (l : List α) (s : State) (k : Nat) (h : ∀ s x, ((g s x).block k).feeds = (s.block k).feeds) : ((l.foldl g s).block k).feeds = (s.block k).feeds := by
  induction l generalizing s with
  | nil => rfl
  | cons x l ih => simp only [List.foldl_cons]; rw [ih, h]
@[simp] theorem foldl_block_preds {α : Type} (g : State → α → State) (l : List α) (s : State) (k : Nat) (h : ∀ s x, ((g s x).block k).preds = (s.block k).preds) : ((l.foldl g s).block k).preds = (s.block k).preds := by
  induction l generalizing s with
  | nil => rfl
  | cons x l ih => simp only [List.foldl_cons]; rw [ih, h]
@[simp] theorem foldl_block_streams {α : Type} (g : State → α → State) (l : List α) (s : State) (k : Nat) (h : ∀ s x, ((g s x).block k).streams = (s.block k).streams) : ((l.foldl g s).block k).streams = (s.block k).streams := by
  induction l generalizing s with
  | nil => rfl
  | cons x l ih => simp only [List.foldl_cons]; rw [ih, h]
@[simp] theorem foldl_block_sketch {α : Type} (g : State → α → State) (l : List α) (s : State) (k : Nat) (h : ∀ s x, ((g s x).block k).sketch = (s.block k).sketch) : ((l.foldl g s).block k).sketch = (s.block k).sketch := by
  induction l generalizing s with
  | nil => rfl
  | cons x l ih => simp only [List.foldl_cons]; rw [ih, h]
@[simp] theorem foldl_block_seqq {α : Type} (g : State → α → State) (l : List α) (s : State) (k : Nat) (h : ∀ s x, ((g s x).block k).seqq = (s.block k).seqq) : ((l.foldl g s).block k).seqq = (s.block k).seqq := by
  induction l generalizing s with
  | nil => rfl
  | cons x l ih => simp only [List.foldl_cons]; rw [ih, h]
@[simp] theorem foldl_block_bars {α : Type} (g : State → α → State) (l : List α) (s : State) (k : Nat) (h : ∀ s x, ((g s x).block k).bars = (s.block k).bars) : ((l.foldl g s).block k).bars = (s.block k).bars := by
  induction l generalizing s with
  | nil => rfl
  | cons x l ih => simp only [List.foldl_cons]; rw [ih, h]
@[simp] theorem foldl_block_share {α : Type} (g : State → α → State) (l : List α) (s : State) (k : Nat) (h : ∀ s x, ((g s x).block k).share = (s.block k).share) : ((l.foldl g s).block k).share = (s.block k).share := by
  induction l generalizing s with
  | nil => rfl
  | cons x l ih => simp only [List.foldl_cons]; rw [ih, h]
@[simp] theorem foldl_block_issued {α : Type} (g : State → α → State) (l : List α) (s : State) (k : Nat) (h : ∀ s x, ((g s x).block k).issued = (s.block k).issued) : ((l.foldl g s).block k).issued = (s.block k).issued := by
  induction l generalizing s with
  | nil => rfl
  | cons x l ih => simp only [List.foldl_cons]; rw [ih, h]
@[simp] theorem foldl_block_since {α : Type} (g : State → α → State) (l : List α) (s : State) (k : Nat) (h : ∀ s x, ((g s x).block k).since = (s.block k).since) : ((l.foldl g s).block k).since = (s.block k).since := by
  induction l generalizing s with
  | nil => rfl
  | cons x l ih => simp only [List.foldl_cons]; rw [ih, h]
@[simp] theorem foldl_block_discarded {α : Type} (g : State → α → State) (l : List α) (s : State) (k : Nat) (h : ∀ s x, ((g s x).block k).discarded = (s.block k).discarded) : ((l.foldl g s).block k).discarded = (s.block k).discarded := by
  induction l generalizing s with
  | nil => rfl
  | cons x l ih => simp only [List.foldl_cons]; rw [ih, h]
@[simp] theorem foldl_launch_st {α : Type} (g : State → α → State) (l : List α) (s : State) (k : Nat) (h : ∀ s x, ((g s x).launch k).st = (s.launch k).st) : ((l.foldl g s).launch k).st = (s.launch k).st := by
  induction l generalizing s with
  | nil => rfl
  | cons x l ih => simp only [List.foldl_cons]; rw [ih, h]
@[simp] theorem foldl_launch_src {α : Type} (g : State → α → State) (l : List α) (s : State) (k : Nat) (h : ∀ s x, ((g s x).launch k).src = (s.launch k).src) : ((l.foldl g s).launch k).src = (s.launch k).src := by
  induction l generalizing s with
  | nil => rfl
  | cons x l ih => simp only [List.foldl_cons]; rw [ih, h]
@[simp] theorem foldl_launch_va {α : Type} (g : State → α → State) (l : List α) (s : State) (k : Nat) (h : ∀ s x, ((g s x).launch k).va = (s.launch k).va) : ((l.foldl g s).launch k).va = (s.launch k).va := by
  induction l generalizing s with
  | nil => rfl
  | cons x l ih => simp only [List.foldl_cons]; rw [ih, h]
@[simp] theorem foldl_launch_kdesc {α : Type} (g : State → α → State) (l : List α) (s : State) (k : Nat) (h : ∀ s x, ((g s x).launch k).kdesc = (s.launch k).kdesc) : ((l.foldl g s).launch k).kdesc = (s.launch k).kdesc := by
  induction l generalizing s with
  | nil => rfl
  | cons x l ih => simp only [List.foldl_cons]; rw [ih, h]
@[simp] theorem foldl_launch_nblk {α : Type} (g : State → α → State) (l : List α) (s : State) (k : Nat) (h : ∀ s x, ((g s x).launch k).nblk = (s.launch k).nblk) : ((l.foldl g s).launch k).nblk = (s.launch k).nblk := by
  induction l generalizing s with
  | nil => rfl
  | cons x l ih => simp only [List.foldl_cons]; rw [ih, h]
@[simp] theorem foldl_launch_fom {α : Type} (g : State → α → State) (l : List α) (s : State) (k : Nat) (h : ∀ s x, ((g s x).launch k).fom = (s.launch k).fom) : ((l.foldl g s).launch k).fom = (s.launch k).fom := by
  induction l generalizing s with
  | nil => rfl
  | cons x l ih => simp only [List.foldl_cons]; rw [ih, h]
@[simp] theorem foldl_launch_sh {α : Type} (g : State → α → State) (l : List α) (s : State) (k : Nat) (h : ∀ s x, ((g s x).launch k).sh = (s.launch k).sh) : ((l.foldl g s).launch k).sh = (s.launch k).sh := by
  induction l generalizing s with
  | nil => rfl
  | cons x l ih => simp only [List.foldl_cons]; rw [ih, h]
@[simp] theorem foldl_launch_groups {α : Type} (g : State → α → State) (l : List α) (s : State) (k : Nat) (h : ∀ s x, ((g s x).launch k).groups = (s.launch k).groups) : ((l.foldl g s).launch k).groups = (s.launch k).groups := by
  induction l generalizing s with
  | nil => rfl
  | cons x l ih => simp only [List.foldl_cons]; rw [ih, h]
@[simp] theorem foldl_launch_ngrp {α : Type} (g : State → α → State) (l : List α) (s : State) (k : Nat) (h : ∀ s x, ((g s x).launch k).ngrp = (s.launch k).ngrp) : ((l.foldl g s).launch k).ngrp = (s.launch k).ngrp := by
  induction l generalizing s with
  | nil => rfl
  | cons x l ih => simp only [List.foldl_cons]; rw [ih, h]
@[simp] theorem foldl_launch_ctx {α : Type} (g : State → α → State) (l : List α) (s : State) (k : Nat) (h : ∀ s x, ((g s x).launch k).ctx = (s.launch k).ctx) : ((l.foldl g s).launch k).ctx = (s.launch k).ctx := by
  induction l generalizing s with
  | nil => rfl
  | cons x l ih => simp only [List.foldl_cons]; rw [ih, h]
@[simp] theorem foldl_launch_frameN {α : Type} (g : State → α → State) (l : List α) (s : State) (k : Nat) (h : ∀ s x, ((g s x).launch k).frameN = (s.launch k).frameN) : ((l.foldl g s).launch k).frameN = (s.launch k).frameN := by
  induction l generalizing s with
  | nil => rfl
  | cons x l ih => simp only [List.foldl_cons]; rw [ih, h]
@[simp] theorem foldl_launch_frameVa {α : Type} (g : State → α → State) (l : List α) (s : State) (k : Nat) (h : ∀ s x, ((g s x).launch k).frameVa = (s.launch k).frameVa) : ((l.foldl g s).launch k).frameVa = (s.launch k).frameVa := by
  induction l generalizing s with
  | nil => rfl
  | cons x l ih => simp only [List.foldl_cons]; rw [ih, h]
@[simp] theorem foldl_launch_statVa {α : Type} (g : State → α → State) (l : List α) (s : State) (k : Nat) (h : ∀ s x, ((g s x).launch k).statVa = (s.launch k).statVa) : ((l.foldl g s).launch k).statVa = (s.launch k).statVa := by
  induction l generalizing s with
  | nil => rfl
  | cons x l ih => simp only [List.foldl_cons]; rw [ih, h]
@[simp] theorem foldl_launch_doneVa {α : Type} (g : State → α → State) (l : List α) (s : State) (k : Nat) (h : ∀ s x, ((g s x).launch k).doneVa = (s.launch k).doneVa) : ((l.foldl g s).launch k).doneVa = (s.launch k).doneVa := by
  induction l generalizing s with
  | nil => rfl
  | cons x l ih => simp only [List.foldl_cons]; rw [ih, h]
@[simp] theorem foldl_launch_doneVal {α : Type} (g : State → α → State) (l : List α) (s : State) (k : Nat) (h : ∀ s x, ((g s x).launch k).doneVal = (s.launch k).doneVal) : ((l.foldl g s).launch k).doneVal = (s.launch k).doneVal := by
  induction l generalizing s with
  | nil => rfl
  | cons x l ih => simp only [List.foldl_cons]; rw [ih, h]
@[simp] theorem foldl_launch_waves {α : Type} (g : State → α → State) (l : List α) (s : State) (k : Nat) (h : ∀ s x, ((g s x).launch k).waves = (s.launch k).waves) : ((l.foldl g s).launch k).waves = (s.launch k).waves := by
  induction l generalizing s with
  | nil => rfl
  | cons x l ih => simp only [List.foldl_cons]; rw [ih, h]
@[simp] theorem foldl_launch_vregs {α : Type} (g : State → α → State) (l : List α) (s : State) (k : Nat) (h : ∀ s x, ((g s x).launch k).vregs = (s.launch k).vregs) : ((l.foldl g s).launch k).vregs = (s.launch k).vregs := by
  induction l generalizing s with
  | nil => rfl
  | cons x l ih => simp only [List.foldl_cons]; rw [ih, h]
@[simp] theorem foldl_launch_sregs {α : Type} (g : State → α → State) (l : List α) (s : State) (k : Nat) (h : ∀ s x, ((g s x).launch k).sregs = (s.launch k).sregs) : ((l.foldl g s).launch k).sregs = (s.launch k).sregs := by
  induction l generalizing s with
  | nil => rfl
  | cons x l ih => simp only [List.foldl_cons]; rw [ih, h]
@[simp] theorem foldl_launch_accs {α : Type} (g : State → α → State) (l : List α) (s : State) (k : Nat) (h : ∀ s x, ((g s x).launch k).accs = (s.launch k).accs) : ((l.foldl g s).launch k).accs = (s.launch k).accs := by
  induction l generalizing s with
  | nil => rfl
  | cons x l ih => simp only [List.foldl_cons]; rw [ih, h]
@[simp] theorem foldl_launch_scr {α : Type} (g : State → α → State) (l : List α) (s : State) (k : Nat) (h : ∀ s x, ((g s x).launch k).scr = (s.launch k).scr) : ((l.foldl g s).launch k).scr = (s.launch k).scr := by
  induction l generalizing s with
  | nil => rfl
  | cons x l ih => simp only [List.foldl_cons]; rw [ih, h]
@[simp] theorem foldl_launch_spillD {α : Type} (g : State → α → State) (l : List α) (s : State) (k : Nat) (h : ∀ s x, ((g s x).launch k).spillD = (s.launch k).spillD) : ((l.foldl g s).launch k).spillD = (s.launch k).spillD := by
  induction l generalizing s with
  | nil => rfl
  | cons x l ih => simp only [List.foldl_cons]; rw [ih, h]
@[simp] theorem foldl_launch_handler {α : Type} (g : State → α → State) (l : List α) (s : State) (k : Nat) (h : ∀ s x, ((g s x).launch k).handler = (s.launch k).handler) : ((l.foldl g s).launch k).handler = (s.launch k).handler := by
  induction l generalizing s with
  | nil => rfl
  | cons x l ih => simp only [List.foldl_cons]; rw [ih, h]
@[simp] theorem foldl_launch_lim {α : Type} (g : State → α → State) (l : List α) (s : State) (k : Nat) (h : ∀ s x, ((g s x).launch k).lim = (s.launch k).lim) : ((l.foldl g s).launch k).lim = (s.launch k).lim := by
  induction l generalizing s with
  | nil => rfl
  | cons x l ih => simp only [List.foldl_cons]; rw [ih, h]
@[simp] theorem foldl_launch_entry {α : Type} (g : State → α → State) (l : List α) (s : State) (k : Nat) (h : ∀ s x, ((g s x).launch k).entry = (s.launch k).entry) : ((l.foldl g s).launch k).entry = (s.launch k).entry := by
  induction l generalizing s with
  | nil => rfl
  | cons x l ih => simp only [List.foldl_cons]; rw [ih, h]
@[simp] theorem foldl_launch_next {α : Type} (g : State → α → State) (l : List α) (s : State) (k : Nat) (h : ∀ s x, ((g s x).launch k).next = (s.launch k).next) : ((l.foldl g s).launch k).next = (s.launch k).next := by
  induction l generalizing s with
  | nil => rfl
  | cons x l ih => simp only [List.foldl_cons]; rw [ih, h]
@[simp] theorem foldl_launch_live {α : Type} (g : State → α → State) (l : List α) (s : State) (k : Nat) (h : ∀ s x, ((g s x).launch k).live = (s.launch k).live) : ((l.foldl g s).launch k).live = (s.launch k).live := by
  induction l generalizing s with
  | nil => rfl
  | cons x l ih => simp only [List.foldl_cons]; rw [ih, h]
@[simp] theorem foldl_launch_frames {α : Type} (g : State → α → State) (l : List α) (s : State) (k : Nat) (h : ∀ s x, ((g s x).launch k).frames = (s.launch k).frames) : ((l.foldl g s).launch k).frames = (s.launch k).frames := by
  induction l generalizing s with
  | nil => rfl
  | cons x l ih => simp only [List.foldl_cons]; rw [ih, h]
@[simp] theorem foldl_launch_gbars {α : Type} (g : State → α → State) (l : List α) (s : State) (k : Nat) (h : ∀ s x, ((g s x).launch k).gbars = (s.launch k).gbars) : ((l.foldl g s).launch k).gbars = (s.launch k).gbars := by
  induction l generalizing s with
  | nil => rfl
  | cons x l ih => simp only [List.foldl_cons]; rw [ih, h]
@[simp] theorem foldl_launch_stats {α : Type} (g : State → α → State) (l : List α) (s : State) (k : Nat) (h : ∀ s x, ((g s x).launch k).stats = (s.launch k).stats) : ((l.foldl g s).launch k).stats = (s.launch k).stats := by
  induction l generalizing s with
  | nil => rfl
  | cons x l ih => simp only [List.foldl_cons]; rw [ih, h]
@[simp] theorem foldl_launch_buffer {α : Type} (g : State → α → State) (l : List α) (s : State) (k : Nat) (h : ∀ s x, ((g s x).launch k).buffer = (s.launch k).buffer) : ((l.foldl g s).launch k).buffer = (s.launch k).buffer := by
  induction l generalizing s with
  | nil => rfl
  | cons x l ih => simp only [List.foldl_cons]; rw [ih, h]
@[simp] theorem foldl_launch_flips {α : Type} (g : State → α → State) (l : List α) (s : State) (k : Nat) (h : ∀ s x, ((g s x).launch k).flips = (s.launch k).flips) : ((l.foldl g s).launch k).flips = (s.launch k).flips := by
  induction l generalizing s with
  | nil => rfl
  | cons x l ih => simp only [List.foldl_cons]; rw [ih, h]
@[simp] theorem foldl_launch_due {α : Type} (g : State → α → State) (l : List α) (s : State) (k : Nat) (h : ∀ s x, ((g s x).launch k).due = (s.launch k).due) : ((l.foldl g s).launch k).due = (s.launch k).due := by
  induction l generalizing s with
  | nil => rfl
  | cons x l ih => simp only [List.foldl_cons]; rw [ih, h]
@[simp] theorem foldl_core_cyc {α : Type} (g : State → α → State) (l : List α) (s : State) (k : Nat) (h : ∀ s x, ((g s x).core k).cyc = (s.core k).cyc) : ((l.foldl g s).core k).cyc = (s.core k).cyc := by
  induction l generalizing s with
  | nil => rfl
  | cons x l ih => simp only [List.foldl_cons]; rw [ih, h]
@[simp] theorem foldl_core_l1 {α : Type} (g : State → α → State) (l : List α) (s : State) (k : Nat) (h : ∀ s x, ((g s x).core k).l1 = (s.core k).l1) : ((l.foldl g s).core k).l1 = (s.core k).l1 := by
  induction l generalizing s with
  | nil => rfl
  | cons x l ih => simp only [List.foldl_cons]; rw [ih, h]
@[simp] theorem foldl_core_carve {α : Type} (g : State → α → State) (l : List α) (s : State) (k : Nat) (h : ∀ s x, ((g s x).core k).carve = (s.core k).carve) : ((l.foldl g s).core k).carve = (s.core k).carve := by
  induction l generalizing s with
  | nil => rfl
  | cons x l ih => simp only [List.foldl_cons]; rw [ih, h]
@[simp] theorem foldl_core_carveReq {α : Type} (g : State → α → State) (l : List α) (s : State) (k : Nat) (h : ∀ s x, ((g s x).core k).carveReq = (s.core k).carveReq) : ((l.foldl g s).core k).carveReq = (s.core k).carveReq := by
  induction l generalizing s with
  | nil => rfl
  | cons x l ih => simp only [List.foldl_cons]; rw [ih, h]
@[simp] theorem foldl_core_carveBy {α : Type} (g : State → α → State) (l : List α) (s : State) (k : Nat) (h : ∀ s x, ((g s x).core k).carveBy = (s.core k).carveBy) : ((l.foldl g s).core k).carveBy = (s.core k).carveBy := by
  induction l generalizing s with
  | nil => rfl
  | cons x l ih => simp only [List.foldl_cons]; rw [ih, h]
@[simp] theorem foldl_core_history {α : Type} (g : State → α → State) (l : List α) (s : State) (k : Nat) (h : ∀ s x, ((g s x).core k).history = (s.core k).history) : ((l.foldl g s).core k).history = (s.core k).history := by
  induction l generalizing s with
  | nil => rfl
  | cons x l ih => simp only [List.foldl_cons]; rw [ih, h]
@[simp] theorem foldl_core_prevCtx {α : Type} (g : State → α → State) (l : List α) (s : State) (k : Nat) (h : ∀ s x, ((g s x).core k).prevCtx = (s.core k).prevCtx) : ((l.foldl g s).core k).prevCtx = (s.core k).prevCtx := by
  induction l generalizing s with
  | nil => rfl
  | cons x l ih => simp only [List.foldl_cons]; rw [ih, h]
@[simp] theorem foldl_core_eslots {α : Type} (g : State → α → State) (l : List α) (s : State) (k : Nat) (h : ∀ s x, ((g s x).core k).eslots = (s.core k).eslots) : ((l.foldl g s).core k).eslots = (s.core k).eslots := by
  induction l generalizing s with
  | nil => rfl
  | cons x l ih => simp only [List.foldl_cons]; rw [ih, h]
@[simp] theorem foldl_core_active {α : Type} (g : State → α → State) (l : List α) (s : State) (k : Nat) (h : ∀ s x, ((g s x).core k).active = (s.core k).active) : ((l.foldl g s).core k).active = (s.core k).active := by
  induction l generalizing s with
  | nil => rfl
  | cons x l ih => simp only [List.foldl_cons]; rw [ih, h]
@[simp] theorem foldl_core_slice {α : Type} (g : State → α → State) (l : List α) (s : State) (k : Nat) (h : ∀ s x, ((g s x).core k).slice = (s.core k).slice) : ((l.foldl g s).core k).slice = (s.core k).slice := by
  induction l generalizing s with
  | nil => rfl
  | cons x l ih => simp only [List.foldl_cons]; rw [ih, h]
@[simp] theorem foldl_core_usedSlots {α : Type} (g : State → α → State) (l : List α) (s : State) (k : Nat) (h : ∀ s x, ((g s x).core k).usedSlots = (s.core k).usedSlots) : ((l.foldl g s).core k).usedSlots = (s.core k).usedSlots := by
  induction l generalizing s with
  | nil => rfl
  | cons x l ih => simp only [List.foldl_cons]; rw [ih, h]
@[simp] theorem foldl_core_lastSeq {α : Type} (g : State → α → State) (l : List α) (s : State) (k : Nat) (h : ∀ s x, ((g s x).core k).lastSeq = (s.core k).lastSeq) : ((l.foldl g s).core k).lastSeq = (s.core k).lastSeq := by
  induction l generalizing s with
  | nil => rfl
  | cons x l ih => simp only [List.foldl_cons]; rw [ih, h]
@[simp] theorem foldl_core_entering {α : Type} (g : State → α → State) (l : List α) (s : State) (k : Nat) (h : ∀ s x, ((g s x).core k).entering = (s.core k).entering) : ((l.foldl g s).core k).entering = (s.core k).entering := by
  induction l generalizing s with
  | nil => rfl
  | cons x l ih => simp only [List.foldl_cons]; rw [ih, h]
@[simp] theorem foldl_core_leaving {α : Type} (g : State → α → State) (l : List α) (s : State) (k : Nat) (h : ∀ s x, ((g s x).core k).leaving = (s.core k).leaving) : ((l.foldl g s).core k).leaving = (s.core k).leaving := by
  induction l generalizing s with
  | nil => rfl
  | cons x l ih => simp only [List.foldl_cons]; rw [ih, h]
@[simp] theorem foldl_mgmt_partid {α : Type} (g : State → α → State) (l : List α) (s : State) (h : ∀ s x, (g s x).mgmt.partid = s.mgmt.partid) : (l.foldl g s).mgmt.partid = s.mgmt.partid := by
  induction l generalizing s with
  | nil => rfl
  | cons x l ih => simp only [List.foldl_cons]; rw [ih, h]
@[simp] theorem foldl_mgmt_pciid {α : Type} (g : State → α → State) (l : List α) (s : State) (h : ∀ s x, (g s x).mgmt.pciid = s.mgmt.pciid) : (l.foldl g s).mgmt.pciid = s.mgmt.pciid := by
  induction l generalizing s with
  | nil => rfl
  | cons x l ih => simp only [List.foldl_cons]; rw [ih, h]
@[simp] theorem foldl_mgmt_cfgstat {α : Type} (g : State → α → State) (l : List α) (s : State) (h : ∀ s x, (g s x).mgmt.cfgstat = s.mgmt.cfgstat) : (l.foldl g s).mgmt.cfgstat = s.mgmt.cfgstat := by
  induction l generalizing s with
  | nil => rfl
  | cons x l ih => simp only [List.foldl_cons]; rw [ih, h]
@[simp] theorem foldl_mgmt_bootstat {α : Type} (g : State → α → State) (l : List α) (s : State) (h : ∀ s x, (g s x).mgmt.bootstat = s.mgmt.bootstat) : (l.foldl g s).mgmt.bootstat = s.mgmt.bootstat := by
  induction l generalizing s with
  | nil => rfl
  | cons x l ih => simp only [List.foldl_cons]; rw [ih, h]
@[simp] theorem foldl_mgmt_hostmode {α : Type} (g : State → α → State) (l : List α) (s : State) (h : ∀ s x, (g s x).mgmt.hostmode = s.mgmt.hostmode) : (l.foldl g s).mgmt.hostmode = s.mgmt.hostmode := by
  induction l generalizing s with
  | nil => rfl
  | cons x l ih => simp only [List.foldl_cons]; rw [ih, h]
@[simp] theorem foldl_mgmt_apbase {α : Type} (g : State → α → State) (l : List α) (s : State) (h : ∀ s x, (g s x).mgmt.apbase = s.mgmt.apbase) : (l.foldl g s).mgmt.apbase = s.mgmt.apbase := by
  induction l generalizing s with
  | nil => rfl
  | cons x l ih => simp only [List.foldl_cons]; rw [ih, h]
@[simp] theorem foldl_mgmt_devnum {α : Type} (g : State → α → State) (l : List α) (s : State) (h : ∀ s x, (g s x).mgmt.devnum = s.mgmt.devnum) : (l.foldl g s).mgmt.devnum = s.mgmt.devnum := by
  induction l generalizing s with
  | nil => rfl
  | cons x l ih => simp only [List.foldl_cons]; rw [ih, h]
@[simp] theorem foldl_mgmt_flashA {α : Type} (g : State → α → State) (l : List α) (s : State) (h : ∀ s x, (g s x).mgmt.flashA = s.mgmt.flashA) : (l.foldl g s).mgmt.flashA = s.mgmt.flashA := by
  induction l generalizing s with
  | nil => rfl
  | cons x l ih => simp only [List.foldl_cons]; rw [ih, h]
@[simp] theorem foldl_mgmt_flashB {α : Type} (g : State → α → State) (l : List α) (s : State) (h : ∀ s x, (g s x).mgmt.flashB = s.mgmt.flashB) : (l.foldl g s).mgmt.flashB = s.mgmt.flashB := by
  induction l generalizing s with
  | nil => rfl
  | cons x l ih => simp only [List.foldl_cons]; rw [ih, h]
@[simp] theorem foldl_mgmt_flashTorn {α : Type} (g : State → α → State) (l : List α) (s : State) (h : ∀ s x, (g s x).mgmt.flashTorn = s.mgmt.flashTorn) : (l.foldl g s).mgmt.flashTorn = s.mgmt.flashTorn := by
  induction l generalizing s with
  | nil => rfl
  | cons x l ih => simp only [List.foldl_cons]; rw [ih, h]
@[simp] theorem foldl_mgmt_flashRun {α : Type} (g : State → α → State) (l : List α) (s : State) (h : ∀ s x, (g s x).mgmt.flashRun = s.mgmt.flashRun) : (l.foldl g s).mgmt.flashRun = s.mgmt.flashRun := by
  induction l generalizing s with
  | nil => rfl
  | cons x l ih => simp only [List.foldl_cons]; rw [ih, h]
@[simp] theorem foldl_mgmt_fladdr {α : Type} (g : State → α → State) (l : List α) (s : State) (h : ∀ s x, (g s x).mgmt.fladdr = s.mgmt.fladdr) : (l.foldl g s).mgmt.fladdr = s.mgmt.fladdr := by
  induction l generalizing s with
  | nil => rfl
  | cons x l ih => simp only [List.foldl_cons]; rw [ih, h]
@[simp] theorem foldl_mgmt_flcmd {α : Type} (g : State → α → State) (l : List α) (s : State) (h : ∀ s x, (g s x).mgmt.flcmd = s.mgmt.flcmd) : (l.foldl g s).mgmt.flcmd = s.mgmt.flcmd := by
  induction l generalizing s with
  | nil => rfl
  | cons x l ih => simp only [List.foldl_cons]; rw [ih, h]
@[simp] theorem foldl_mgmt_fldata {α : Type} (g : State → α → State) (l : List α) (s : State) (h : ∀ s x, (g s x).mgmt.fldata = s.mgmt.fldata) : (l.foldl g s).mgmt.fldata = s.mgmt.fldata := by
  induction l generalizing s with
  | nil => rfl
  | cons x l ih => simp only [List.foldl_cons]; rw [ih, h]
@[simp] theorem foldl_mgmt_remap {α : Type} (g : State → α → State) (l : List α) (s : State) (h : ∀ s x, (g s x).mgmt.remap = s.mgmt.remap) : (l.foldl g s).mgmt.remap = s.mgmt.remap := by
  induction l generalizing s with
  | nil => rfl
  | cons x l ih => simp only [List.foldl_cons]; rw [ih, h]
@[simp] theorem foldl_mgmt_failed {α : Type} (g : State → α → State) (l : List α) (s : State) (h : ∀ s x, (g s x).mgmt.failed = s.mgmt.failed) : (l.foldl g s).mgmt.failed = s.mgmt.failed := by
  induction l generalizing s with
  | nil => rfl
  | cons x l ih => simp only [List.foldl_cons]; rw [ih, h]
@[simp] theorem foldl_mgmt_spareCluster {α : Type} (g : State → α → State) (l : List α) (s : State) (h : ∀ s x, (g s x).mgmt.spareCluster = s.mgmt.spareCluster) : (l.foldl g s).mgmt.spareCluster = s.mgmt.spareCluster := by
  induction l generalizing s with
  | nil => rfl
  | cons x l ih => simp only [List.foldl_cons]; rw [ih, h]
@[simp] theorem foldl_mgmt_unplaced {α : Type} (g : State → α → State) (l : List α) (s : State) (h : ∀ s x, (g s x).mgmt.unplaced = s.mgmt.unplaced) : (l.foldl g s).mgmt.unplaced = s.mgmt.unplaced := by
  induction l generalizing s with
  | nil => rfl
  | cons x l ih => simp only [List.foldl_cons]; rw [ih, h]
@[simp] theorem foldl_mgmt_former {α : Type} (g : State → α → State) (l : List α) (s : State) (h : ∀ s x, (g s x).mgmt.former = s.mgmt.former) : (l.foldl g s).mgmt.former = s.mgmt.former := by
  induction l generalizing s with
  | nil => rfl
  | cons x l ih => simp only [List.foldl_cons]; rw [ih, h]
@[simp] theorem foldl_mgmt_parkAtReset {α : Type} (g : State → α → State) (l : List α) (s : State) (h : ∀ s x, (g s x).mgmt.parkAtReset = s.mgmt.parkAtReset) : (l.foldl g s).mgmt.parkAtReset = s.mgmt.parkAtReset := by
  induction l generalizing s with
  | nil => rfl
  | cons x l ih => simp only [List.foldl_cons]; rw [ih, h]
@[simp] theorem foldl_mgmt_spareLanes {α : Type} (g : State → α → State) (l : List α) (s : State) (h : ∀ s x, (g s x).mgmt.spareLanes = s.mgmt.spareLanes) : (l.foldl g s).mgmt.spareLanes = s.mgmt.spareLanes := by
  induction l generalizing s with
  | nil => rfl
  | cons x l ih => simp only [List.foldl_cons]; rw [ih, h]
@[simp] theorem foldl_mgmt_sliceq {α : Type} (g : State → α → State) (l : List α) (s : State) (h : ∀ s x, (g s x).mgmt.sliceq = s.mgmt.sliceq) : (l.foldl g s).mgmt.sliceq = s.mgmt.sliceq := by
  induction l generalizing s with
  | nil => rfl
  | cons x l ih => simp only [List.foldl_cons]; rw [ih, h]
@[simp] theorem foldl_mgmt_lq {α : Type} (g : State → α → State) (l : List α) (s : State) (h : ∀ s x, (g s x).mgmt.lq = s.mgmt.lq) : (l.foldl g s).mgmt.lq = s.mgmt.lq := by
  induction l generalizing s with
  | nil => rfl
  | cons x l ih => simp only [List.foldl_cons]; rw [ih, h]
@[simp] theorem foldl_mgmt_lauq {α : Type} (g : State → α → State) (l : List α) (s : State) (h : ∀ s x, (g s x).mgmt.lauq = s.mgmt.lauq) : (l.foldl g s).mgmt.lauq = s.mgmt.lauq := by
  induction l generalizing s with
  | nil => rfl
  | cons x l ih => simp only [List.foldl_cons]; rw [ih, h]
@[simp] theorem foldl_mgmt_rr {α : Type} (g : State → α → State) (l : List α) (s : State) (h : ∀ s x, (g s x).mgmt.rr = s.mgmt.rr) : (l.foldl g s).mgmt.rr = s.mgmt.rr := by
  induction l generalizing s with
  | nil => rfl
  | cons x l ih => simp only [List.foldl_cons]; rw [ih, h]
@[simp] theorem foldl_mgmt_errlog {α : Type} (g : State → α → State) (l : List α) (s : State) (h : ∀ s x, (g s x).mgmt.errlog = s.mgmt.errlog) : (l.foldl g s).mgmt.errlog = s.mgmt.errlog := by
  induction l generalizing s with
  | nil => rfl
  | cons x l ih => simp only [List.foldl_cons]; rw [ih, h]
@[simp] theorem foldl_mgmt_lerrcnt {α : Type} (g : State → α → State) (l : List α) (s : State) (h : ∀ s x, (g s x).mgmt.lerrcnt = s.mgmt.lerrcnt) : (l.foldl g s).mgmt.lerrcnt = s.mgmt.lerrcnt := by
  induction l generalizing s with
  | nil => rfl
  | cons x l ih => simp only [List.foldl_cons]; rw [ih, h]
@[simp] theorem foldl_mgmt_pwrceil {α : Type} (g : State → α → State) (l : List α) (s : State) (h : ∀ s x, (g s x).mgmt.pwrceil = s.mgmt.pwrceil) : (l.foldl g s).mgmt.pwrceil = s.mgmt.pwrceil := by
  induction l generalizing s with
  | nil => rfl
  | cons x l ih => simp only [List.foldl_cons]; rw [ih, h]
@[simp] theorem foldl_mgmt_pstlim {α : Type} (g : State → α → State) (l : List α) (s : State) (h : ∀ s x, (g s x).mgmt.pstlim = s.mgmt.pstlim) : (l.foldl g s).mgmt.pstlim = s.mgmt.pstlim := by
  induction l generalizing s with
  | nil => rfl
  | cons x l ih => simp only [List.foldl_cons]; rw [ih, h]
@[simp] theorem foldl_mgmt_pwrstat {α : Type} (g : State → α → State) (l : List α) (s : State) (h : ∀ s x, (g s x).mgmt.pwrstat = s.mgmt.pwrstat) : (l.foldl g s).mgmt.pwrstat = s.mgmt.pwrstat := by
  induction l generalizing s with
  | nil => rfl
  | cons x l ih => simp only [List.foldl_cons]; rw [ih, h]
@[simp] theorem foldl_mgmt_pGoal {α : Type} (g : State → α → State) (l : List α) (s : State) (h : ∀ s x, (g s x).mgmt.pGoal = s.mgmt.pGoal) : (l.foldl g s).mgmt.pGoal = s.mgmt.pGoal := by
  induction l generalizing s with
  | nil => rfl
  | cons x l ih => simp only [List.foldl_cons]; rw [ih, h]
@[simp] theorem foldl_mgmt_mGoal {α : Type} (g : State → α → State) (l : List α) (s : State) (h : ∀ s x, (g s x).mgmt.mGoal = s.mgmt.mGoal) : (l.foldl g s).mgmt.mGoal = s.mgmt.mGoal := by
  induction l generalizing s with
  | nil => rfl
  | cons x l ih => simp only [List.foldl_cons]; rw [ih, h]
@[simp] theorem foldl_mgmt_pNext {α : Type} (g : State → α → State) (l : List α) (s : State) (h : ∀ s x, (g s x).mgmt.pNext = s.mgmt.pNext) : (l.foldl g s).mgmt.pNext = s.mgmt.pNext := by
  induction l generalizing s with
  | nil => rfl
  | cons x l ih => simp only [List.foldl_cons]; rw [ih, h]
@[simp] theorem foldl_mgmt_mNext {α : Type} (g : State → α → State) (l : List α) (s : State) (h : ∀ s x, (g s x).mgmt.mNext = s.mgmt.mNext) : (l.foldl g s).mgmt.mNext = s.mgmt.mNext := by
  induction l generalizing s with
  | nil => rfl
  | cons x l ih => simp only [List.foldl_cons]; rw [ih, h]
@[simp] theorem foldl_mgmt_diepark {α : Type} (g : State → α → State) (l : List α) (s : State) (h : ∀ s x, (g s x).mgmt.diepark = s.mgmt.diepark) : (l.foldl g s).mgmt.diepark = s.mgmt.diepark := by
  induction l generalizing s with
  | nil => rfl
  | cons x l ih => simp only [List.foldl_cons]; rw [ih, h]
@[simp] theorem foldl_mgmt_dieWait {α : Type} (g : State → α → State) (l : List α) (s : State) (h : ∀ s x, (g s x).mgmt.dieWait = s.mgmt.dieWait) : (l.foldl g s).mgmt.dieWait = s.mgmt.dieWait := by
  induction l generalizing s with
  | nil => rfl
  | cons x l ih => simp only [List.foldl_cons]; rw [ih, h]
@[simp] theorem foldl_mgmt_ensave {α : Type} (g : State → α → State) (l : List α) (s : State) (h : ∀ s x, (g s x).mgmt.ensave = s.mgmt.ensave) : (l.foldl g s).mgmt.ensave = s.mgmt.ensave := by
  induction l generalizing s with
  | nil => rfl
  | cons x l ih => simp only [List.foldl_cons]; rw [ih, h]
@[simp] theorem foldl_mgmt_ewt {α : Type} (g : State → α → State) (l : List α) (s : State) (h : ∀ s x, (g s x).mgmt.ewt = s.mgmt.ewt) : (l.foldl g s).mgmt.ewt = s.mgmt.ewt := by
  induction l generalizing s with
  | nil => rfl
  | cons x l ih => simp only [List.foldl_cons]; rw [ih, h]
@[simp] theorem foldl_mgmt_stw {α : Type} (g : State → α → State) (l : List α) (s : State) (h : ∀ s x, (g s x).mgmt.stw = s.mgmt.stw) : (l.foldl g s).mgmt.stw = s.mgmt.stw := by
  induction l generalizing s with
  | nil => rfl
  | cons x l ih => simp only [List.foldl_cons]; rw [ih, h]
@[simp] theorem foldl_mgmt_hlth {α : Type} (g : State → α → State) (l : List α) (s : State) (h : ∀ s x, (g s x).mgmt.hlth = s.mgmt.hlth) : (l.foldl g s).mgmt.hlth = s.mgmt.hlth := by
  induction l generalizing s with
  | nil => rfl
  | cons x l ih => simp only [List.foldl_cons]; rw [ih, h]
@[simp] theorem foldl_mgmt_age {α : Type} (g : State → α → State) (l : List α) (s : State) (h : ∀ s x, (g s x).mgmt.age = s.mgmt.age) : (l.foldl g s).mgmt.age = s.mgmt.age := by
  induction l generalizing s with
  | nil => rfl
  | cons x l ih => simp only [List.foldl_cons]; rw [ih, h]
@[simp] theorem foldl_mgmt_memh {α : Type} (g : State → α → State) (l : List α) (s : State) (h : ∀ s x, (g s x).mgmt.memh = s.mgmt.memh) : (l.foldl g s).mgmt.memh = s.mgmt.memh := by
  induction l generalizing s with
  | nil => rfl
  | cons x l ih => simp only [List.foldl_cons]; rw [ih, h]
@[simp] theorem foldl_mgmt_linkh {α : Type} (g : State → α → State) (l : List α) (s : State) (h : ∀ s x, (g s x).mgmt.linkh = s.mgmt.linkh) : (l.foldl g s).mgmt.linkh = s.mgmt.linkh := by
  induction l generalizing s with
  | nil => rfl
  | cons x l ih => simp only [List.foldl_cons]; rw [ih, h]
@[simp] theorem foldl_mgmt_samples {α : Type} (g : State → α → State) (l : List α) (s : State) (h : ∀ s x, (g s x).mgmt.samples = s.mgmt.samples) : (l.foldl g s).mgmt.samples = s.mgmt.samples := by
  induction l generalizing s with
  | nil => rfl
  | cons x l ih => simp only [List.foldl_cons]; rw [ih, h]
@[simp] theorem foldl_mgmt_ckpt0 {α : Type} (g : State → α → State) (l : List α) (s : State) (h : ∀ s x, (g s x).mgmt.ckpt0 = s.mgmt.ckpt0) : (l.foldl g s).mgmt.ckpt0 = s.mgmt.ckpt0 := by
  induction l generalizing s with
  | nil => rfl
  | cons x l ih => simp only [List.foldl_cons]; rw [ih, h]
@[simp] theorem foldl_mgmt_ckpt1 {α : Type} (g : State → α → State) (l : List α) (s : State) (h : ∀ s x, (g s x).mgmt.ckpt1 = s.mgmt.ckpt1) : (l.foldl g s).mgmt.ckpt1 = s.mgmt.ckpt1 := by
  induction l generalizing s with
  | nil => rfl
  | cons x l ih => simp only [List.foldl_cons]; rw [ih, h]
@[simp] theorem foldl_mgmt_ckpt2 {α : Type} (g : State → α → State) (l : List α) (s : State) (h : ∀ s x, (g s x).mgmt.ckpt2 = s.mgmt.ckpt2) : (l.foldl g s).mgmt.ckpt2 = s.mgmt.ckpt2 := by
  induction l generalizing s with
  | nil => rfl
  | cons x l ih => simp only [List.foldl_cons]; rw [ih, h]
@[simp] theorem foldl_mgmt_ckptGood {α : Type} (g : State → α → State) (l : List α) (s : State) (h : ∀ s x, (g s x).mgmt.ckptGood = s.mgmt.ckptGood) : (l.foldl g s).mgmt.ckptGood = s.mgmt.ckptGood := by
  induction l generalizing s with
  | nil => rfl
  | cons x l ih => simp only [List.foldl_cons]; rw [ih, h]
@[simp] theorem foldl_mgmt_ckptBlocks {α : Type} (g : State → α → State) (l : List α) (s : State) (h : ∀ s x, (g s x).mgmt.ckptBlocks = s.mgmt.ckptBlocks) : (l.foldl g s).mgmt.ckptBlocks = s.mgmt.ckptBlocks := by
  induction l generalizing s with
  | nil => rfl
  | cons x l ih => simp only [List.foldl_cons]; rw [ih, h]
@[simp] theorem foldl_mgmt_ctxs {α : Type} (g : State → α → State) (l : List α) (s : State) (h : ∀ s x, (g s x).mgmt.ctxs = s.mgmt.ctxs) : (l.foldl g s).mgmt.ctxs = s.mgmt.ctxs := by
  induction l generalizing s with
  | nil => rfl
  | cons x l ih => simp only [List.foldl_cons]; rw [ih, h]
@[simp] theorem foldl_mgmt_pfbase {α : Type} (g : State → α → State) (l : List α) (s : State) (h : ∀ s x, (g s x).mgmt.pfbase = s.mgmt.pfbase) : (l.foldl g s).mgmt.pfbase = s.mgmt.pfbase := by
  induction l generalizing s with
  | nil => rfl
  | cons x l ih => simp only [List.foldl_cons]; rw [ih, h]
@[simp] theorem foldl_mgmt_pfhead {α : Type} (g : State → α → State) (l : List α) (s : State) (h : ∀ s x, (g s x).mgmt.pfhead = s.mgmt.pfhead) : (l.foldl g s).mgmt.pfhead = s.mgmt.pfhead := by
  induction l generalizing s with
  | nil => rfl
  | cons x l ih => simp only [List.foldl_cons]; rw [ih, h]
@[simp] theorem foldl_mgmt_pftail {α : Type} (g : State → α → State) (l : List α) (s : State) (h : ∀ s x, (g s x).mgmt.pftail = s.mgmt.pftail) : (l.foldl g s).mgmt.pftail = s.mgmt.pftail := by
  induction l generalizing s with
  | nil => rfl
  | cons x l ih => simp only [List.foldl_cons]; rw [ih, h]
@[simp] theorem foldl_mgmt_faults {α : Type} (g : State → α → State) (l : List α) (s : State) (h : ∀ s x, (g s x).mgmt.faults = s.mgmt.faults) : (l.foldl g s).mgmt.faults = s.mgmt.faults := by
  induction l generalizing s with
  | nil => rfl
  | cons x l ih => simp only [List.foldl_cons]; rw [ih, h]
@[simp] theorem foldl_mgmt_tlbinv {α : Type} (g : State → α → State) (l : List α) (s : State) (h : ∀ s x, (g s x).mgmt.tlbinv = s.mgmt.tlbinv) : (l.foldl g s).mgmt.tlbinv = s.mgmt.tlbinv := by
  induction l generalizing s with
  | nil => rfl
  | cons x l ih => simp only [List.foldl_cons]; rw [ih, h]
@[simp] theorem foldl_mgmt_tlbinvn {α : Type} (g : State → α → State) (l : List α) (s : State) (h : ∀ s x, (g s x).mgmt.tlbinvn = s.mgmt.tlbinvn) : (l.foldl g s).mgmt.tlbinvn = s.mgmt.tlbinvn := by
  induction l generalizing s with
  | nil => rfl
  | cons x l ih => simp only [List.foldl_cons]; rw [ih, h]
@[simp] theorem foldl_mgmt_ranges {α : Type} (g : State → α → State) (l : List α) (s : State) (h : ∀ s x, (g s x).mgmt.ranges = s.mgmt.ranges) : (l.foldl g s).mgmt.ranges = s.mgmt.ranges := by
  induction l generalizing s with
  | nil => rfl
  | cons x l ih => simp only [List.foldl_cons]; rw [ih, h]
@[simp] theorem foldl_mgmt_biascmd {α : Type} (g : State → α → State) (l : List α) (s : State) (h : ∀ s x, (g s x).mgmt.biascmd = s.mgmt.biascmd) : (l.foldl g s).mgmt.biascmd = s.mgmt.biascmd := by
  induction l generalizing s with
  | nil => rfl
  | cons x l ih => simp only [List.foldl_cons]; rw [ih, h]
@[simp] theorem foldl_mgmt_flips {α : Type} (g : State → α → State) (l : List α) (s : State) (h : ∀ s x, (g s x).mgmt.flips = s.mgmt.flips) : (l.foldl g s).mgmt.flips = s.mgmt.flips := by
  induction l generalizing s with
  | nil => rfl
  | cons x l ih => simp only [List.foldl_cons]; rw [ih, h]
@[simp] theorem foldl_mgmt_flipWait {α : Type} (g : State → α → State) (l : List α) (s : State) (h : ∀ s x, (g s x).mgmt.flipWait = s.mgmt.flipWait) : (l.foldl g s).mgmt.flipWait = s.mgmt.flipWait := by
  induction l generalizing s with
  | nil => rfl
  | cons x l ih => simp only [List.foldl_cons]; rw [ih, h]
@[simp] theorem foldl_mgmt_peerasid {α : Type} (g : State → α → State) (l : List α) (s : State) (h : ∀ s x, (g s x).mgmt.peerasid = s.mgmt.peerasid) : (l.foldl g s).mgmt.peerasid = s.mgmt.peerasid := by
  induction l generalizing s with
  | nil => rfl
  | cons x l ih => simp only [List.foldl_cons]; rw [ih, h]
@[simp] theorem foldl_mgmt_atsel {α : Type} (g : State → α → State) (l : List α) (s : State) (h : ∀ s x, (g s x).mgmt.atsel = s.mgmt.atsel) : (l.foldl g s).mgmt.atsel = s.mgmt.atsel := by
  induction l generalizing s with
  | nil => rfl
  | cons x l ih => simp only [List.foldl_cons]; rw [ih, h]
@[simp] theorem foldl_mgmt_atwin {α : Type} (g : State → α → State) (l : List α) (s : State) (h : ∀ s x, (g s x).mgmt.atwin = s.mgmt.atwin) : (l.foldl g s).mgmt.atwin = s.mgmt.atwin := by
  induction l generalizing s with
  | nil => rfl
  | cons x l ih => simp only [List.foldl_cons]; rw [ih, h]
@[simp] theorem foldl_mgmt_atcommit {α : Type} (g : State → α → State) (l : List α) (s : State) (h : ∀ s x, (g s x).mgmt.atcommit = s.mgmt.atcommit) : (l.foldl g s).mgmt.atcommit = s.mgmt.atcommit := by
  induction l generalizing s with
  | nil => rfl
  | cons x l ih => simp only [List.foldl_cons]; rw [ih, h]
@[simp] theorem foldl_mgmt_ats {α : Type} (g : State → α → State) (l : List α) (s : State) (h : ∀ s x, (g s x).mgmt.ats = s.mgmt.ats) : (l.foldl g s).mgmt.ats = s.mgmt.ats := by
  induction l generalizing s with
  | nil => rfl
  | cons x l ih => simp only [List.foldl_cons]; rw [ih, h]
@[simp] theorem foldl_mgmt_colldom {α : Type} (g : State → α → State) (l : List α) (s : State) (h : ∀ s x, (g s x).mgmt.colldom = s.mgmt.colldom) : (l.foldl g s).mgmt.colldom = s.mgmt.colldom := by
  induction l generalizing s with
  | nil => rfl
  | cons x l ih => simp only [List.foldl_cons]; rw [ih, h]
@[simp] theorem foldl_mgmt_collinj {α : Type} (g : State → α → State) (l : List α) (s : State) (h : ∀ s x, (g s x).mgmt.collinj = s.mgmt.collinj) : (l.foldl g s).mgmt.collinj = s.mgmt.collinj := by
  induction l generalizing s with
  | nil => rfl
  | cons x l ih => simp only [List.foldl_cons]; rw [ih, h]
@[simp] theorem foldl_mgmt_reply {α : Type} (g : State → α → State) (l : List α) (s : State) (h : ∀ s x, (g s x).mgmt.reply = s.mgmt.reply) : (l.foldl g s).mgmt.reply = s.mgmt.reply := by
  induction l generalizing s with
  | nil => rfl
  | cons x l ih => simp only [List.foldl_cons]; rw [ih, h]

@[simp] theorem get_mapVals_cyc (g : Nat → Core → Core) (t : Tab Core) (k : Nat) (h : ∀ k x, (g k x).cyc = x.cyc) : ((Tab.mapVals g t).get Core.zero k).cyc = (t.get Core.zero k).cyc := by
  induction t with
  | nil => rfl
  | cons p t ih => unfold Tab.mapVals at ih ⊢; simp only [List.map_cons, Tab.get]; split <;> simp [h, ih]
@[simp] theorem get_mapVals_l1 (g : Nat → Core → Core) (t : Tab Core) (k : Nat) (h : ∀ k x, (g k x).l1 = x.l1) : ((Tab.mapVals g t).get Core.zero k).l1 = (t.get Core.zero k).l1 := by
  induction t with
  | nil => rfl
  | cons p t ih => unfold Tab.mapVals at ih ⊢; simp only [List.map_cons, Tab.get]; split <;> simp [h, ih]
@[simp] theorem get_mapVals_carve (g : Nat → Core → Core) (t : Tab Core) (k : Nat) (h : ∀ k x, (g k x).carve = x.carve) : ((Tab.mapVals g t).get Core.zero k).carve = (t.get Core.zero k).carve := by
  induction t with
  | nil => rfl
  | cons p t ih => unfold Tab.mapVals at ih ⊢; simp only [List.map_cons, Tab.get]; split <;> simp [h, ih]
@[simp] theorem get_mapVals_carveReq (g : Nat → Core → Core) (t : Tab Core) (k : Nat) (h : ∀ k x, (g k x).carveReq = x.carveReq) : ((Tab.mapVals g t).get Core.zero k).carveReq = (t.get Core.zero k).carveReq := by
  induction t with
  | nil => rfl
  | cons p t ih => unfold Tab.mapVals at ih ⊢; simp only [List.map_cons, Tab.get]; split <;> simp [h, ih]
@[simp] theorem get_mapVals_carveBy (g : Nat → Core → Core) (t : Tab Core) (k : Nat) (h : ∀ k x, (g k x).carveBy = x.carveBy) : ((Tab.mapVals g t).get Core.zero k).carveBy = (t.get Core.zero k).carveBy := by
  induction t with
  | nil => rfl
  | cons p t ih => unfold Tab.mapVals at ih ⊢; simp only [List.map_cons, Tab.get]; split <;> simp [h, ih]
@[simp] theorem get_mapVals_history (g : Nat → Core → Core) (t : Tab Core) (k : Nat) (h : ∀ k x, (g k x).history = x.history) : ((Tab.mapVals g t).get Core.zero k).history = (t.get Core.zero k).history := by
  induction t with
  | nil => rfl
  | cons p t ih => unfold Tab.mapVals at ih ⊢; simp only [List.map_cons, Tab.get]; split <;> simp [h, ih]
@[simp] theorem get_mapVals_prevCtx (g : Nat → Core → Core) (t : Tab Core) (k : Nat) (h : ∀ k x, (g k x).prevCtx = x.prevCtx) : ((Tab.mapVals g t).get Core.zero k).prevCtx = (t.get Core.zero k).prevCtx := by
  induction t with
  | nil => rfl
  | cons p t ih => unfold Tab.mapVals at ih ⊢; simp only [List.map_cons, Tab.get]; split <;> simp [h, ih]
@[simp] theorem get_mapVals_eslots (g : Nat → Core → Core) (t : Tab Core) (k : Nat) (h : ∀ k x, (g k x).eslots = x.eslots) : ((Tab.mapVals g t).get Core.zero k).eslots = (t.get Core.zero k).eslots := by
  induction t with
  | nil => rfl
  | cons p t ih => unfold Tab.mapVals at ih ⊢; simp only [List.map_cons, Tab.get]; split <;> simp [h, ih]
@[simp] theorem get_mapVals_active (g : Nat → Core → Core) (t : Tab Core) (k : Nat) (h : ∀ k x, (g k x).active = x.active) : ((Tab.mapVals g t).get Core.zero k).active = (t.get Core.zero k).active := by
  induction t with
  | nil => rfl
  | cons p t ih => unfold Tab.mapVals at ih ⊢; simp only [List.map_cons, Tab.get]; split <;> simp [h, ih]
@[simp] theorem get_mapVals_slice (g : Nat → Core → Core) (t : Tab Core) (k : Nat) (h : ∀ k x, (g k x).slice = x.slice) : ((Tab.mapVals g t).get Core.zero k).slice = (t.get Core.zero k).slice := by
  induction t with
  | nil => rfl
  | cons p t ih => unfold Tab.mapVals at ih ⊢; simp only [List.map_cons, Tab.get]; split <;> simp [h, ih]
@[simp] theorem get_mapVals_usedSlots (g : Nat → Core → Core) (t : Tab Core) (k : Nat) (h : ∀ k x, (g k x).usedSlots = x.usedSlots) : ((Tab.mapVals g t).get Core.zero k).usedSlots = (t.get Core.zero k).usedSlots := by
  induction t with
  | nil => rfl
  | cons p t ih => unfold Tab.mapVals at ih ⊢; simp only [List.map_cons, Tab.get]; split <;> simp [h, ih]
@[simp] theorem get_mapVals_lastSeq (g : Nat → Core → Core) (t : Tab Core) (k : Nat) (h : ∀ k x, (g k x).lastSeq = x.lastSeq) : ((Tab.mapVals g t).get Core.zero k).lastSeq = (t.get Core.zero k).lastSeq := by
  induction t with
  | nil => rfl
  | cons p t ih => unfold Tab.mapVals at ih ⊢; simp only [List.map_cons, Tab.get]; split <;> simp [h, ih]
@[simp] theorem get_mapVals_entering (g : Nat → Core → Core) (t : Tab Core) (k : Nat) (h : ∀ k x, (g k x).entering = x.entering) : ((Tab.mapVals g t).get Core.zero k).entering = (t.get Core.zero k).entering := by
  induction t with
  | nil => rfl
  | cons p t ih => unfold Tab.mapVals at ih ⊢; simp only [List.map_cons, Tab.get]; split <;> simp [h, ih]
@[simp] theorem get_mapVals_leaving (g : Nat → Core → Core) (t : Tab Core) (k : Nat) (h : ∀ k x, (g k x).leaving = x.leaving) : ((Tab.mapVals g t).get Core.zero k).leaving = (t.get Core.zero k).leaving := by
  induction t with
  | nil => rfl
  | cons p t ih => unfold Tab.mapVals at ih ⊢; simp only [List.map_cons, Tab.get]; split <;> simp [h, ih]
end Sys2Proof.Machine
end

