-- ==== Sys2Proof/Laws/KeepsMemSys.lean ====
section
/-! SUPPORT. What translation, the levels below a home point and the energy slots leave unchanged. One lemma per operation, over the fields of State; a field that is not named may change. -/

set_option linter.unusedSimpArgs false

namespace Sys2Proof.Machine
open Sys2Proof
@[simp] theorem State.fillTlb_keeps (s : State) (t : TlbEnt) :
    (State.fillTlb s t).waves = s.waves ∧
    (State.fillTlb s t).blocks = s.blocks ∧
    (State.fillTlb s t).launches = s.launches ∧
    (State.fillTlb s t).cores = s.cores ∧
    (State.fillTlb s t).mem = s.mem ∧
    (State.fillTlb s t).array = s.array ∧
    (State.fillTlb s t).hostMem = s.hostMem ∧
    (State.fillTlb s t).peerMem = s.peerMem ∧
    (State.fillTlb s t).registrant = s.registrant ∧
    (State.fillTlb s t).claims = s.claims ∧
    (State.fillTlb s t).cells = s.cells ∧
    (State.fillTlb s t).regions = s.regions ∧
    (State.fillTlb s t).rdc = s.rdc ∧
    (State.fillTlb s t).l2 = s.l2 ∧
    (State.fillTlb s t).msc = s.msc ∧
    (State.fillTlb s t).hbms = s.hbms ∧
    (State.fillTlb s t).bad = s.bad ∧
    (State.fillTlb s t).weak = s.weak ∧
    (State.fillTlb s t).lost = s.lost ∧
    (State.fillTlb s t).accs = s.accs ∧
    (State.fillTlb s t).net = s.net ∧
    (State.fillTlb s t).abufs = s.abufs ∧
    (State.fillTlb s t).jobs = s.jobs ∧
    (State.fillTlb s t).feet = s.feet ∧
    (State.fillTlb s t).shapes = s.shapes ∧
    (State.fillTlb s t).eqs = s.eqs ∧
    (State.fillTlb s t).insts = s.insts ∧
    (State.fillTlb s t).links = s.links ∧
    (State.fillTlb s t).hostAccs = s.hostAccs ∧
    (State.fillTlb s t).hostLines = s.hostLines ∧
    (State.fillTlb s t).mgmt = s.mgmt ∧
    (State.fillTlb s t).focus = s.focus ∧
    (State.fillTlb s t).agenda = s.agenda ∧
    (State.fillTlb s t).seq = s.seq ∧
    (∀ k, (State.fillTlb s t).wave k = s.wave k) ∧
    (∀ k, (State.fillTlb s t).block k = s.block k) ∧
    (∀ k, (State.fillTlb s t).launch k = s.launch k) ∧
    (∀ k, (State.fillTlb s t).core k = s.core k) := by
  (unfold State.fillTlb; (try dsimp only); (repeat' split) <;> simp -implicitDefEqProofs (disch := (intros; first | (simp -implicitDefEqProofs [*]; done) | ((try dsimp only); (repeat' split) <;> (simp -implicitDefEqProofs (disch := (intros; (try dsimp only); (repeat' split) <;> (try (simp -implicitDefEqProofs [*]; done)))) [*]; done)) | skip)) [State.wave, State.block, State.launch, State.core])
@[simp] theorem State.afterLookup_keeps (s : State) (cluster : Nat) (c : Nat) (va : DWord) :
    (State.afterLookup s cluster c va).waves = s.waves ∧
    (State.afterLookup s cluster c va).blocks = s.blocks ∧
    (State.afterLookup s cluster c va).launches = s.launches ∧
    (State.afterLookup s cluster c va).cores = s.cores ∧
    (State.afterLookup s cluster c va).mem = s.mem ∧
    (State.afterLookup s cluster c va).array = s.array ∧
    (State.afterLookup s cluster c va).hostMem = s.hostMem ∧
    (State.afterLookup s cluster c va).peerMem = s.peerMem ∧
    (State.afterLookup s cluster c va).registrant = s.registrant ∧
    (State.afterLookup s cluster c va).claims = s.claims ∧
    (State.afterLookup s cluster c va).cells = s.cells ∧
    (State.afterLookup s cluster c va).regions = s.regions ∧
    (State.afterLookup s cluster c va).rdc = s.rdc ∧
    (State.afterLookup s cluster c va).l2 = s.l2 ∧
    (State.afterLookup s cluster c va).msc = s.msc ∧
    (State.afterLookup s cluster c va).hbms = s.hbms ∧
    (State.afterLookup s cluster c va).bad = s.bad ∧
    (State.afterLookup s cluster c va).weak = s.weak ∧
    (State.afterLookup s cluster c va).lost = s.lost ∧
    (State.afterLookup s cluster c va).accs = s.accs ∧
    (State.afterLookup s cluster c va).net = s.net ∧
    (State.afterLookup s cluster c va).abufs = s.abufs ∧
    (State.afterLookup s cluster c va).jobs = s.jobs ∧
    (State.afterLookup s cluster c va).feet = s.feet ∧
    (State.afterLookup s cluster c va).shapes = s.shapes ∧
    (State.afterLookup s cluster c va).eqs = s.eqs ∧
    (State.afterLookup s cluster c va).insts = s.insts ∧
    (State.afterLookup s cluster c va).links = s.links ∧
    (State.afterLookup s cluster c va).hostAccs = s.hostAccs ∧
    (State.afterLookup s cluster c va).hostLines = s.hostLines ∧
    (State.afterLookup s cluster c va).mgmt = s.mgmt ∧
    (State.afterLookup s cluster c va).focus = s.focus ∧
    (State.afterLookup s cluster c va).agenda = s.agenda ∧
    (State.afterLookup s cluster c va).seq = s.seq ∧
    (∀ k, (State.afterLookup s cluster c va).wave k = s.wave k) ∧
    (∀ k, (State.afterLookup s cluster c va).block k = s.block k) ∧
    (∀ k, (State.afterLookup s cluster c va).launch k = s.launch k) ∧
    (∀ k, (State.afterLookup s cluster c va).core k = s.core k) := by
  (unfold State.afterLookup; (try dsimp only); (repeat' split) <;> simp -implicitDefEqProofs (disch := (intros; first | (simp -implicitDefEqProofs [*]; done) | ((try dsimp only); (repeat' split) <;> (simp -implicitDefEqProofs (disch := (intros; (try dsimp only); (repeat' split) <;> (try (simp -implicitDefEqProofs [*]; done)))) [*]; done)) | skip)) [State.wave, State.block, State.launch, State.core])

@[simp] theorem State.writeRow_keeps (s : State) (stack : Nat) (r : RowEnt) :
    (State.writeRow s stack r).waves = s.waves ∧
    (State.writeRow s stack r).blocks = s.blocks ∧
    (State.writeRow s stack r).launches = s.launches ∧
    (State.writeRow s stack r).cores = s.cores ∧
    (State.writeRow s stack r).mem = s.mem ∧
    (State.writeRow s stack r).hostMem = s.hostMem ∧
    (State.writeRow s stack r).peerMem = s.peerMem ∧
    (State.writeRow s stack r).registrant = s.registrant ∧
    (State.writeRow s stack r).claims = s.claims ∧
    (State.writeRow s stack r).cells = s.cells ∧
    (State.writeRow s stack r).regions = s.regions ∧
    (State.writeRow s stack r).rdc = s.rdc ∧
    (State.writeRow s stack r).l2 = s.l2 ∧
    (State.writeRow s stack r).msc = s.msc ∧
    (State.writeRow s stack r).hbms = s.hbms ∧
    (State.writeRow s stack r).bad = s.bad ∧
    (State.writeRow s stack r).tlb = s.tlb ∧
    (State.writeRow s stack r).accs = s.accs ∧
    (State.writeRow s stack r).net = s.net ∧
    (State.writeRow s stack r).abufs = s.abufs ∧
    (State.writeRow s stack r).jobs = s.jobs ∧
    (State.writeRow s stack r).feet = s.feet ∧
    (State.writeRow s stack r).shapes = s.shapes ∧
    (State.writeRow s stack r).eqs = s.eqs ∧
    (State.writeRow s stack r).insts = s.insts ∧
    (State.writeRow s stack r).links = s.links ∧
    (State.writeRow s stack r).hostAccs = s.hostAccs ∧
    (State.writeRow s stack r).hostLines = s.hostLines ∧
    (State.writeRow s stack r).mgmt = s.mgmt ∧
    (State.writeRow s stack r).focus = s.focus ∧
    (State.writeRow s stack r).agenda = s.agenda ∧
    (State.writeRow s stack r).seq = s.seq ∧
    (∀ k, (State.writeRow s stack r).wave k = s.wave k) ∧
    (∀ k, (State.writeRow s stack r).block k = s.block k) ∧
    (∀ k, (State.writeRow s stack r).launch k = s.launch k) ∧
    (∀ k, (State.writeRow s stack r).core k = s.core k) := by
  (unfold State.writeRow; (try dsimp only); (repeat' split) <;> simp -implicitDefEqProofs (disch := (intros; first | (simp -implicitDefEqProofs [*]; done) | ((try dsimp only); (repeat' split) <;> (simp -implicitDefEqProofs (disch := (intros; (try dsimp only); (repeat' split) <;> (try (simp -implicitDefEqProofs [*]; done)))) [*]; done)) | skip)) [State.wave, State.block, State.launch, State.core])
@[simp] theorem State.openRow_keeps (s : State) (stack : Nat) (pci : Nat) (bank : Nat) (row : Nat) (pin : List Nat) :
    (State.openRow s stack pci bank row pin).waves = s.waves ∧
    (State.openRow s stack pci bank row pin).blocks = s.blocks ∧
    (State.openRow s stack pci bank row pin).launches = s.launches ∧
    (State.openRow s stack pci bank row pin).cores = s.cores ∧
    (State.openRow s stack pci bank row pin).mem = s.mem ∧
    (State.openRow s stack pci bank row pin).hostMem = s.hostMem ∧
    (State.openRow s stack pci bank row pin).peerMem = s.peerMem ∧
    (State.openRow s stack pci bank row pin).registrant = s.registrant ∧
    (State.openRow s stack pci bank row pin).claims = s.claims ∧
    (State.openRow s stack pci bank row pin).cells = s.cells ∧
    (State.openRow s stack pci bank row pin).regions = s.regions ∧
    (State.openRow s stack pci bank row pin).rdc = s.rdc ∧
    (State.openRow s stack pci bank row pin).l2 = s.l2 ∧
    (State.openRow s stack pci bank row pin).msc = s.msc ∧
    (State.openRow s stack pci bank row pin).bad = s.bad ∧
    (State.openRow s stack pci bank row pin).tlb = s.tlb ∧
    (State.openRow s stack pci bank row pin).accs = s.accs ∧
    (State.openRow s stack pci bank row pin).net = s.net ∧
    (State.openRow s stack pci bank row pin).abufs = s.abufs ∧
    (State.openRow s stack pci bank row pin).jobs = s.jobs ∧
    (State.openRow s stack pci bank row pin).feet = s.feet ∧
    (State.openRow s stack pci bank row pin).shapes = s.shapes ∧
    (State.openRow s stack pci bank row pin).eqs = s.eqs ∧
    (State.openRow s stack pci bank row pin).insts = s.insts ∧
    (State.openRow s stack pci bank row pin).links = s.links ∧
    (State.openRow s stack pci bank row pin).hostAccs = s.hostAccs ∧
    (State.openRow s stack pci bank row pin).hostLines = s.hostLines ∧
    (State.openRow s stack pci bank row pin).mgmt = s.mgmt ∧
    (State.openRow s stack pci bank row pin).focus = s.focus ∧
    (State.openRow s stack pci bank row pin).agenda = s.agenda ∧
    (∀ k, (State.openRow s stack pci bank row pin).wave k = s.wave k) ∧
    (∀ k, (State.openRow s stack pci bank row pin).block k = s.block k) ∧
    (∀ k, (State.openRow s stack pci bank row pin).launch k = s.launch k) ∧
    (∀ k, (State.openRow s stack pci bank row pin).core k = s.core k) := by
  (unfold State.openRow; (try dsimp only); (repeat' split) <;> simp -implicitDefEqProofs (disch := (intros; first | (simp -implicitDefEqProofs [*]; done) | ((try dsimp only); (repeat' split) <;> (simp -implicitDefEqProofs (disch := (intros; (try dsimp only); (repeat' split) <;> (try (simp -implicitDefEqProofs [*]; done)))) [*]; done)) | skip)) [State.wave, State.block, State.launch, State.core])
@[simp] theorem State.writeSector_keeps (s : State) (sec : Nat) (d : List Byte) :
    (State.writeSector s sec d).waves = s.waves ∧
    (State.writeSector s sec d).blocks = s.blocks ∧
    (State.writeSector s sec d).launches = s.launches ∧
    (State.writeSector s sec d).cores = s.cores ∧
    (State.writeSector s sec d).mem = s.mem ∧
    (State.writeSector s sec d).hostMem = s.hostMem ∧
    (State.writeSector s sec d).peerMem = s.peerMem ∧
    (State.writeSector s sec d).registrant = s.registrant ∧
    (State.writeSector s sec d).claims = s.claims ∧
    (State.writeSector s sec d).cells = s.cells ∧
    (State.writeSector s sec d).regions = s.regions ∧
    (State.writeSector s sec d).rdc = s.rdc ∧
    (State.writeSector s sec d).l2 = s.l2 ∧
    (State.writeSector s sec d).msc = s.msc ∧
    (State.writeSector s sec d).bad = s.bad ∧
    (State.writeSector s sec d).tlb = s.tlb ∧
    (State.writeSector s sec d).accs = s.accs ∧
    (State.writeSector s sec d).net = s.net ∧
    (State.writeSector s sec d).abufs = s.abufs ∧
    (State.writeSector s sec d).jobs = s.jobs ∧
    (State.writeSector s sec d).feet = s.feet ∧
    (State.writeSector s sec d).shapes = s.shapes ∧
    (State.writeSector s sec d).eqs = s.eqs ∧
    (State.writeSector s sec d).insts = s.insts ∧
    (State.writeSector s sec d).links = s.links ∧
    (State.writeSector s sec d).hostAccs = s.hostAccs ∧
    (State.writeSector s sec d).hostLines = s.hostLines ∧
    (State.writeSector s sec d).mgmt = s.mgmt ∧
    (State.writeSector s sec d).focus = s.focus ∧
    (State.writeSector s sec d).agenda = s.agenda ∧
    (∀ k, (State.writeSector s sec d).wave k = s.wave k) ∧
    (∀ k, (State.writeSector s sec d).block k = s.block k) ∧
    (∀ k, (State.writeSector s sec d).launch k = s.launch k) ∧
    (∀ k, (State.writeSector s sec d).core k = s.core k) := by
  (unfold State.writeSector; (try dsimp only); (repeat' split) <;> simp -implicitDefEqProofs (disch := (intros; first | (simp -implicitDefEqProofs [*]; done) | ((try dsimp only); (repeat' split) <;> (simp -implicitDefEqProofs (disch := (intros; (try dsimp only); (repeat' split) <;> (try (simp -implicitDefEqProofs [*]; done)))) [*]; done)) | skip)) [State.wave, State.block, State.launch, State.core])
@[simp] theorem State.writeLower_keeps (s : State) (line : Nat) (d : List Byte) :
    (State.writeLower s line d).waves = s.waves ∧
    (State.writeLower s line d).blocks = s.blocks ∧
    (State.writeLower s line d).launches = s.launches ∧
    (State.writeLower s line d).cores = s.cores ∧
    (State.writeLower s line d).mem = s.mem ∧
    (State.writeLower s line d).hostMem = s.hostMem ∧
    (State.writeLower s line d).peerMem = s.peerMem ∧
    (State.writeLower s line d).registrant = s.registrant ∧
    (State.writeLower s line d).claims = s.claims ∧
    (State.writeLower s line d).cells = s.cells ∧
    (State.writeLower s line d).regions = s.regions ∧
    (State.writeLower s line d).rdc = s.rdc ∧
    (State.writeLower s line d).l2 = s.l2 ∧
    (State.writeLower s line d).msc = s.msc ∧
    (State.writeLower s line d).bad = s.bad ∧
    (State.writeLower s line d).tlb = s.tlb ∧
    (State.writeLower s line d).accs = s.accs ∧
    (State.writeLower s line d).net = s.net ∧
    (State.writeLower s line d).abufs = s.abufs ∧
    (State.writeLower s line d).jobs = s.jobs ∧
    (State.writeLower s line d).feet = s.feet ∧
    (State.writeLower s line d).shapes = s.shapes ∧
    (State.writeLower s line d).eqs = s.eqs ∧
    (State.writeLower s line d).insts = s.insts ∧
    (State.writeLower s line d).links = s.links ∧
    (State.writeLower s line d).hostAccs = s.hostAccs ∧
    (State.writeLower s line d).hostLines = s.hostLines ∧
    (State.writeLower s line d).mgmt = s.mgmt ∧
    (State.writeLower s line d).focus = s.focus ∧
    (State.writeLower s line d).agenda = s.agenda ∧
    (∀ k, (State.writeLower s line d).wave k = s.wave k) ∧
    (∀ k, (State.writeLower s line d).block k = s.block k) ∧
    (∀ k, (State.writeLower s line d).launch k = s.launch k) ∧
    (∀ k, (State.writeLower s line d).core k = s.core k) := by
  (unfold State.writeLower; (try dsimp only); (repeat' split) <;> simp -implicitDefEqProofs (disch := (intros; first | (simp -implicitDefEqProofs [*]; done) | ((try dsimp only); (repeat' split) <;> (simp -implicitDefEqProofs (disch := (intros; (try dsimp only); (repeat' split) <;> (try (simp -implicitDefEqProofs [*]; done)))) [*]; done)) | skip)) [State.wave, State.block, State.launch, State.core])
@[simp] theorem State.beginSpare_keeps_0 (s : State) (k : Nat) (r : RowName) :
    (State.beginSpare s k r).waves = s.waves := by
  (unfold State.beginSpare; (try dsimp only); (repeat' split) <;> simp -implicitDefEqProofs (disch := (intros; first | (simp -implicitDefEqProofs [*]; done) | ((try dsimp only); (repeat' split) <;> (simp -implicitDefEqProofs (disch := (intros; (try dsimp only); (repeat' split) <;> (try (simp -implicitDefEqProofs [*]; done)))) [*]; done)) | skip)) [State.wave, State.block, State.launch, State.core])
@[simp] theorem State.beginSpare_keeps_1 (s : State) (k : Nat) (r : RowName) :
    (State.beginSpare s k r).blocks = s.blocks := by
  (unfold State.beginSpare; (try dsimp only); (repeat' split) <;> simp -implicitDefEqProofs (disch := (intros; first | (simp -implicitDefEqProofs [*]; done) | ((try dsimp only); (repeat' split) <;> (simp -implicitDefEqProofs (disch := (intros; (try dsimp only); (repeat' split) <;> (try (simp -implicitDefEqProofs [*]; done)))) [*]; done)) | skip)) [State.wave, State.block, State.launch, State.core])
@[simp] theorem State.beginSpare_keeps_2 (s : State) (k : Nat) (r : RowName) :
    (State.beginSpare s k r).launches = s.launches := by
  (unfold State.beginSpare; (try dsimp only); (repeat' split) <;> simp -implicitDefEqProofs (disch := (intros; first | (simp -implicitDefEqProofs [*]; done) | ((try dsimp only); (repeat' split) <;> (simp -implicitDefEqProofs (disch := (intros; (try dsimp only); (repeat' split) <;> (try (simp -implicitDefEqProofs [*]; done)))) [*]; done)) | skip)) [State.wave, State.block, State.launch, State.core])
@[simp] theorem State.beginSpare_keeps_3 (s : State) (k : Nat) (r : RowName) :
    (State.beginSpare s k r).cores = s.cores := by
  (unfold State.beginSpare; (try dsimp only); (repeat' split) <;> simp -implicitDefEqProofs (disch := (intros; first | (simp -implicitDefEqProofs [*]; done) | ((try dsimp only); (repeat' split) <;> (simp -implicitDefEqProofs (disch := (intros; (try dsimp only); (repeat' split) <;> (try (simp -implicitDefEqProofs [*]; done)))) [*]; done)) | skip)) [State.wave, State.block, State.launch, State.core])
@[simp] theorem State.beginSpare_keeps_4 (s : State) (k : Nat) (r : RowName) :
    (State.beginSpare s k r).mem = s.mem := by
  (unfold State.beginSpare; (try dsimp only); (repeat' split) <;> simp -implicitDefEqProofs (disch := (intros; first | (simp -implicitDefEqProofs [*]; done) | ((try dsimp only); (repeat' split) <;> (simp -implicitDefEqProofs (disch := (intros; (try dsimp only); (repeat' split) <;> (try (simp -implicitDefEqProofs [*]; done)))) [*]; done)) | skip)) [State.wave, State.block, State.launch, State.core])
@[simp] theorem State.beginSpare_keeps_5 (s : State) (k : Nat) (r : RowName) :
    (State.beginSpare s k r).hostMem = s.hostMem := by
  (unfold State.beginSpare; (try dsimp only); (repeat' split) <;> simp -implicitDefEqProofs (disch := (intros; first | (simp -implicitDefEqProofs [*]; done) | ((try dsimp only); (repeat' split) <;> (simp -implicitDefEqProofs (disch := (intros; (try dsimp only); (repeat' split) <;> (try (simp -implicitDefEqProofs [*]; done)))) [*]; done)) | skip)) [State.wave, State.block, State.launch, State.core])
@[simp] theorem State.beginSpare_keeps_6 (s : State) (k : Nat) (r : RowName) :
    (State.beginSpare s k r).peerMem = s.peerMem := by
  (unfold State.beginSpare; (try dsimp only); (repeat' split) <;> simp -implicitDefEqProofs (disch := (intros; first | (simp -implicitDefEqProofs [*]; done) | ((try dsimp only); (repeat' split) <;> (simp -implicitDefEqProofs (disch := (intros; (try dsimp only); (repeat' split) <;> (try (simp -implicitDefEqProofs [*]; done)))) [*]; done)) | skip)) [State.wave, State.block, State.launch, State.core])
@[simp] theorem State.beginSpare_keeps_7 (s : State) (k : Nat) (r : RowName) :
    (State.beginSpare s k r).registrant = s.registrant := by
  (unfold State.beginSpare; (try dsimp only); (repeat' split) <;> simp -implicitDefEqProofs (disch := (intros; first | (simp -implicitDefEqProofs [*]; done) | ((try dsimp only); (repeat' split) <;> (simp -implicitDefEqProofs (disch := (intros; (try dsimp only); (repeat' split) <;> (try (simp -implicitDefEqProofs [*]; done)))) [*]; done)) | skip)) [State.wave, State.block, State.launch, State.core])
@[simp] theorem State.beginSpare_keeps_8 (s : State) (k : Nat) (r : RowName) :
    (State.beginSpare s k r).claims = s.claims := by
  (unfold State.beginSpare; (try dsimp only); (repeat' split) <;> simp -implicitDefEqProofs (disch := (intros; first | (simp -implicitDefEqProofs [*]; done) | ((try dsimp only); (repeat' split) <;> (simp -implicitDefEqProofs (disch := (intros; (try dsimp only); (repeat' split) <;> (try (simp -implicitDefEqProofs [*]; done)))) [*]; done)) | skip)) [State.wave, State.block, State.launch, State.core])
@[simp] theorem State.beginSpare_keeps_9 (s : State) (k : Nat) (r : RowName) :
    (State.beginSpare s k r).cells = s.cells := by
  (unfold State.beginSpare; (try dsimp only); (repeat' split) <;> simp -implicitDefEqProofs (disch := (intros; first | (simp -implicitDefEqProofs [*]; done) | ((try dsimp only); (repeat' split) <;> (simp -implicitDefEqProofs (disch := (intros; (try dsimp only); (repeat' split) <;> (try (simp -implicitDefEqProofs [*]; done)))) [*]; done)) | skip)) [State.wave, State.block, State.launch, State.core])
@[simp] theorem State.beginSpare_keeps_10 (s : State) (k : Nat) (r : RowName) :
    (State.beginSpare s k r).regions = s.regions := by
  (unfold State.beginSpare; (try dsimp only); (repeat' split) <;> simp -implicitDefEqProofs (disch := (intros; first | (simp -implicitDefEqProofs [*]; done) | ((try dsimp only); (repeat' split) <;> (simp -implicitDefEqProofs (disch := (intros; (try dsimp only); (repeat' split) <;> (try (simp -implicitDefEqProofs [*]; done)))) [*]; done)) | skip)) [State.wave, State.block, State.launch, State.core])
@[simp] theorem State.beginSpare_keeps_11 (s : State) (k : Nat) (r : RowName) :
    (State.beginSpare s k r).rdc = s.rdc := by
  (unfold State.beginSpare; (try dsimp only); (repeat' split) <;> simp -implicitDefEqProofs (disch := (intros; first | (simp -implicitDefEqProofs [*]; done) | ((try dsimp only); (repeat' split) <;> (simp -implicitDefEqProofs (disch := (intros; (try dsimp only); (repeat' split) <;> (try (simp -implicitDefEqProofs [*]; done)))) [*]; done)) | skip)) [State.wave, State.block, State.launch, State.core])
@[simp] theorem State.beginSpare_keeps_12 (s : State) (k : Nat) (r : RowName) :
    (State.beginSpare s k r).l2 = s.l2 := by
  (unfold State.beginSpare; (try dsimp only); (repeat' split) <;> simp -implicitDefEqProofs (disch := (intros; first | (simp -implicitDefEqProofs [*]; done) | ((try dsimp only); (repeat' split) <;> (simp -implicitDefEqProofs (disch := (intros; (try dsimp only); (repeat' split) <;> (try (simp -implicitDefEqProofs [*]; done)))) [*]; done)) | skip)) [State.wave, State.block, State.launch, State.core])
@[simp] theorem State.beginSpare_keeps_13 (s : State) (k : Nat) (r : RowName) :
    (State.beginSpare s k r).msc = s.msc := by
  (unfold State.beginSpare; (try dsimp only); (repeat' split) <;> simp -implicitDefEqProofs (disch := (intros; first | (simp -implicitDefEqProofs [*]; done) | ((try dsimp only); (repeat' split) <;> (simp -implicitDefEqProofs (disch := (intros; (try dsimp only); (repeat' split) <;> (try (simp -implicitDefEqProofs [*]; done)))) [*]; done)) | skip)) [State.wave, State.block, State.launch, State.core])
@[simp] theorem State.beginSpare_keeps_14 (s : State) (k : Nat) (r : RowName) :
    (State.beginSpare s k r).bad = s.bad := by
  (unfold State.beginSpare; (try dsimp only); (repeat' split) <;> simp -implicitDefEqProofs (disch := (intros; first | (simp -implicitDefEqProofs [*]; done) | ((try dsimp only); (repeat' split) <;> (simp -implicitDefEqProofs (disch := (intros; (try dsimp only); (repeat' split) <;> (try (simp -implicitDefEqProofs [*]; done)))) [*]; done)) | skip)) [State.wave, State.block, State.launch, State.core])
@[simp] theorem State.beginSpare_keeps_15 (s : State) (k : Nat) (r : RowName) :
    (State.beginSpare s k r).tlb = s.tlb := by
  (unfold State.beginSpare; (try dsimp only); (repeat' split) <;> simp -implicitDefEqProofs (disch := (intros; first | (simp -implicitDefEqProofs [*]; done) | ((try dsimp only); (repeat' split) <;> (simp -implicitDefEqProofs (disch := (intros; (try dsimp only); (repeat' split) <;> (try (simp -implicitDefEqProofs [*]; done)))) [*]; done)) | skip)) [State.wave, State.block, State.launch, State.core])
@[simp] theorem State.beginSpare_keeps_16 (s : State) (k : Nat) (r : RowName) :
    (State.beginSpare s k r).accs = s.accs := by
  (unfold State.beginSpare; (try dsimp only); (repeat' split) <;> simp -implicitDefEqProofs (disch := (intros; first | (simp -implicitDefEqProofs [*]; done) | ((try dsimp only); (repeat' split) <;> (simp -implicitDefEqProofs (disch := (intros; (try dsimp only); (repeat' split) <;> (try (simp -implicitDefEqProofs [*]; done)))) [*]; done)) | skip)) [State.wave, State.block, State.launch, State.core])
@[simp] theorem State.beginSpare_keeps_17 (s : State) (k : Nat) (r : RowName) :
    (State.beginSpare s k r).net = s.net := by
  (unfold State.beginSpare; (try dsimp only); (repeat' split) <;> simp -implicitDefEqProofs (disch := (intros; first | (simp -implicitDefEqProofs [*]; done) | ((try dsimp only); (repeat' split) <;> (simp -implicitDefEqProofs (disch := (intros; (try dsimp only); (repeat' split) <;> (try (simp -implicitDefEqProofs [*]; done)))) [*]; done)) | skip)) [State.wave, State.block, State.launch, State.core])
@[simp] theorem State.beginSpare_keeps_18 (s : State) (k : Nat) (r : RowName) :
    (State.beginSpare s k r).abufs = s.abufs := by
  (unfold State.beginSpare; (try dsimp only); (repeat' split) <;> simp -implicitDefEqProofs (disch := (intros; first | (simp -implicitDefEqProofs [*]; done) | ((try dsimp only); (repeat' split) <;> (simp -implicitDefEqProofs (disch := (intros; (try dsimp only); (repeat' split) <;> (try (simp -implicitDefEqProofs [*]; done)))) [*]; done)) | skip)) [State.wave, State.block, State.launch, State.core])
@[simp] theorem State.beginSpare_keeps_19 (s : State) (k : Nat) (r : RowName) :
    (State.beginSpare s k r).jobs = s.jobs := by
  (unfold State.beginSpare; (try dsimp only); (repeat' split) <;> simp -implicitDefEqProofs (disch := (intros; first | (simp -implicitDefEqProofs [*]; done) | ((try dsimp only); (repeat' split) <;> (simp -implicitDefEqProofs (disch := (intros; (try dsimp only); (repeat' split) <;> (try (simp -implicitDefEqProofs [*]; done)))) [*]; done)) | skip)) [State.wave, State.block, State.launch, State.core])
@[simp] theorem State.beginSpare_keeps_20 (s : State) (k : Nat) (r : RowName) :
    (State.beginSpare s k r).feet = s.feet := by
  (unfold State.beginSpare; (try dsimp only); (repeat' split) <;> simp -implicitDefEqProofs (disch := (intros; first | (simp -implicitDefEqProofs [*]; done) | ((try dsimp only); (repeat' split) <;> (simp -implicitDefEqProofs (disch := (intros; (try dsimp only); (repeat' split) <;> (try (simp -implicitDefEqProofs [*]; done)))) [*]; done)) | skip)) [State.wave, State.block, State.launch, State.core])
@[simp] theorem State.beginSpare_keeps_21 (s : State) (k : Nat) (r : RowName) :
    (State.beginSpare s k r).shapes = s.shapes := by
  (unfold State.beginSpare; (try dsimp only); (repeat' split) <;> simp -implicitDefEqProofs (disch := (intros; first | (simp -implicitDefEqProofs [*]; done) | ((try dsimp only); (repeat' split) <;> (simp -implicitDefEqProofs (disch := (intros; (try dsimp only); (repeat' split) <;> (try (simp -implicitDefEqProofs [*]; done)))) [*]; done)) | skip)) [State.wave, State.block, State.launch, State.core])
@[simp] theorem State.beginSpare_keeps_22 (s : State) (k : Nat) (r : RowName) :
    (State.beginSpare s k r).eqs = s.eqs := by
  (unfold State.beginSpare; (try dsimp only); (repeat' split) <;> simp -implicitDefEqProofs (disch := (intros; first | (simp -implicitDefEqProofs [*]; done) | ((try dsimp only); (repeat' split) <;> (simp -implicitDefEqProofs (disch := (intros; (try dsimp only); (repeat' split) <;> (try (simp -implicitDefEqProofs [*]; done)))) [*]; done)) | skip)) [State.wave, State.block, State.launch, State.core])
@[simp] theorem State.beginSpare_keeps_23 (s : State) (k : Nat) (r : RowName) :
    (State.beginSpare s k r).insts = s.insts := by
  (unfold State.beginSpare; (try dsimp only); (repeat' split) <;> simp -implicitDefEqProofs (disch := (intros; first | (simp -implicitDefEqProofs [*]; done) | ((try dsimp only); (repeat' split) <;> (simp -implicitDefEqProofs (disch := (intros; (try dsimp only); (repeat' split) <;> (try (simp -implicitDefEqProofs [*]; done)))) [*]; done)) | skip)) [State.wave, State.block, State.launch, State.core])
@[simp] theorem State.beginSpare_keeps_24 (s : State) (k : Nat) (r : RowName) :
    (State.beginSpare s k r).links = s.links := by
  (unfold State.beginSpare; (try dsimp only); (repeat' split) <;> simp -implicitDefEqProofs (disch := (intros; first | (simp -implicitDefEqProofs [*]; done) | ((try dsimp only); (repeat' split) <;> (simp -implicitDefEqProofs (disch := (intros; (try dsimp only); (repeat' split) <;> (try (simp -implicitDefEqProofs [*]; done)))) [*]; done)) | skip)) [State.wave, State.block, State.launch, State.core])
@[simp] theorem State.beginSpare_keeps_25 (s : State) (k : Nat) (r : RowName) :
    (State.beginSpare s k r).hostAccs = s.hostAccs := by
  (unfold State.beginSpare; (try dsimp only); (repeat' split) <;> simp -implicitDefEqProofs (disch := (intros; first | (simp -implicitDefEqProofs [*]; done) | ((try dsimp only); (repeat' split) <;> (simp -implicitDefEqProofs (disch := (intros; (try dsimp only); (repeat' split) <;> (try (simp -implicitDefEqProofs [*]; done)))) [*]; done)) | skip)) [State.wave, State.block, State.launch, State.core])
@[simp] theorem State.beginSpare_keeps_26 (s : State) (k : Nat) (r : RowName) :
    (State.beginSpare s k r).hostLines = s.hostLines := by
  (unfold State.beginSpare; (try dsimp only); (repeat' split) <;> simp -implicitDefEqProofs (disch := (intros; first | (simp -implicitDefEqProofs [*]; done) | ((try dsimp only); (repeat' split) <;> (simp -implicitDefEqProofs (disch := (intros; (try dsimp only); (repeat' split) <;> (try (simp -implicitDefEqProofs [*]; done)))) [*]; done)) | skip)) [State.wave, State.block, State.launch, State.core])
@[simp] theorem State.beginSpare_keeps_27 (s : State) (k : Nat) (r : RowName) :
    (State.beginSpare s k r).mgmt = s.mgmt := by
  (unfold State.beginSpare; (try dsimp only); (repeat' split) <;> simp -implicitDefEqProofs (disch := (intros; first | (simp -implicitDefEqProofs [*]; done) | ((try dsimp only); (repeat' split) <;> (simp -implicitDefEqProofs (disch := (intros; (try dsimp only); (repeat' split) <;> (try (simp -implicitDefEqProofs [*]; done)))) [*]; done)) | skip)) [State.wave, State.block, State.launch, State.core])
@[simp] theorem State.beginSpare_keeps_28 (s : State) (k : Nat) (r : RowName) :
    (State.beginSpare s k r).focus = s.focus := by
  (unfold State.beginSpare; (try dsimp only); (repeat' split) <;> simp -implicitDefEqProofs (disch := (intros; first | (simp -implicitDefEqProofs [*]; done) | ((try dsimp only); (repeat' split) <;> (simp -implicitDefEqProofs (disch := (intros; (try dsimp only); (repeat' split) <;> (try (simp -implicitDefEqProofs [*]; done)))) [*]; done)) | skip)) [State.wave, State.block, State.launch, State.core])
@[simp] theorem State.beginSpare_keeps_29 (s : State) (k : Nat) (r : RowName) :
    (State.beginSpare s k r).agenda = s.agenda := by
  (unfold State.beginSpare; (try dsimp only); (repeat' split) <;> simp -implicitDefEqProofs (disch := (intros; first | (simp -implicitDefEqProofs [*]; done) | ((try dsimp only); (repeat' split) <;> (simp -implicitDefEqProofs (disch := (intros; (try dsimp only); (repeat' split) <;> (try (simp -implicitDefEqProofs [*]; done)))) [*]; done)) | skip)) [State.wave, State.block, State.launch, State.core])
@[simp] theorem State.nextSpare_keeps_0 (s : State) (k : Nat) :
    (State.nextSpare s k).waves = s.waves := by
  (unfold State.nextSpare; (try dsimp only); (repeat' split) <;> simp -implicitDefEqProofs (disch := (intros; first | (simp -implicitDefEqProofs [*]; done) | ((try dsimp only); (repeat' split) <;> (simp -implicitDefEqProofs (disch := (intros; (try dsimp only); (repeat' split) <;> (try (simp -implicitDefEqProofs [*]; done)))) [*]; done)) | skip)) [State.wave, State.block, State.launch, State.core])
@[simp] theorem State.nextSpare_keeps_1 (s : State) (k : Nat) :
    (State.nextSpare s k).blocks = s.blocks := by
  (unfold State.nextSpare; (try dsimp only); (repeat' split) <;> simp -implicitDefEqProofs (disch := (intros; first | (simp -implicitDefEqProofs [*]; done) | ((try dsimp only); (repeat' split) <;> (simp -implicitDefEqProofs (disch := (intros; (try dsimp only); (repeat' split) <;> (try (simp -implicitDefEqProofs [*]; done)))) [*]; done)) | skip)) [State.wave, State.block, State.launch, State.core])
@[simp] theorem State.nextSpare_keeps_2 (s : State) (k : Nat) :
    (State.nextSpare s k).launches = s.launches := by
  (unfold State.nextSpare; (try dsimp only); (repeat' split) <;> simp -implicitDefEqProofs (disch := (intros; first | (simp -implicitDefEqProofs [*]; done) | ((try dsimp only); (repeat' split) <;> (simp -implicitDefEqProofs (disch := (intros; (try dsimp only); (repeat' split) <;> (try (simp -implicitDefEqProofs [*]; done)))) [*]; done)) | skip)) [State.wave, State.block, State.launch, State.core])
@[simp] theorem State.nextSpare_keeps_3 (s : State) (k : Nat) :
    (State.nextSpare s k).cores = s.cores := by
  (unfold State.nextSpare; (try dsimp only); (repeat' split) <;> simp -implicitDefEqProofs (disch := (intros; first | (simp -implicitDefEqProofs [*]; done) | ((try dsimp only); (repeat' split) <;> (simp -implicitDefEqProofs (disch := (intros; (try dsimp only); (repeat' split) <;> (try (simp -implicitDefEqProofs [*]; done)))) [*]; done)) | skip)) [State.wave, State.block, State.launch, State.core])
@[simp] theorem State.nextSpare_keeps_4 (s : State) (k : Nat) :
    (State.nextSpare s k).mem = s.mem := by
  (unfold State.nextSpare; (try dsimp only); (repeat' split) <;> simp -implicitDefEqProofs (disch := (intros; first | (simp -implicitDefEqProofs [*]; done) | ((try dsimp only); (repeat' split) <;> (simp -implicitDefEqProofs (disch := (intros; (try dsimp only); (repeat' split) <;> (try (simp -implicitDefEqProofs [*]; done)))) [*]; done)) | skip)) [State.wave, State.block, State.launch, State.core])
@[simp] theorem State.nextSpare_keeps_5 (s : State) (k : Nat) :
    (State.nextSpare s k).hostMem = s.hostMem := by
  (unfold State.nextSpare; (try dsimp only); (repeat' split) <;> simp -implicitDefEqProofs (disch := (intros; first | (simp -implicitDefEqProofs [*]; done) | ((try dsimp only); (repeat' split) <;> (simp -implicitDefEqProofs (disch := (intros; (try dsimp only); (repeat' split) <;> (try (simp -implicitDefEqProofs [*]; done)))) [*]; done)) | skip)) [State.wave, State.block, State.launch, State.core])
@[simp] theorem State.nextSpare_keeps_6 (s : State) (k : Nat) :
    (State.nextSpare s k).peerMem = s.peerMem := by
  (unfold State.nextSpare; (try dsimp only); (repeat' split) <;> simp -implicitDefEqProofs (disch := (intros; first | (simp -implicitDefEqProofs [*]; done) | ((try dsimp only); (repeat' split) <;> (simp -implicitDefEqProofs (disch := (intros; (try dsimp only); (repeat' split) <;> (try (simp -implicitDefEqProofs [*]; done)))) [*]; done)) | skip)) [State.wave, State.block, State.launch, State.core])
@[simp] theorem State.nextSpare_keeps_7 (s : State) (k : Nat) :
    (State.nextSpare s k).registrant = s.registrant := by
  (unfold State.nextSpare; (try dsimp only); (repeat' split) <;> simp -implicitDefEqProofs (disch := (intros; first | (simp -implicitDefEqProofs [*]; done) | ((try dsimp only); (repeat' split) <;> (simp -implicitDefEqProofs (disch := (intros; (try dsimp only); (repeat' split) <;> (try (simp -implicitDefEqProofs [*]; done)))) [*]; done)) | skip)) [State.wave, State.block, State.launch, State.core])
@[simp] theorem State.nextSpare_keeps_8 (s : State) (k : Nat) :
    (State.nextSpare s k).claims = s.claims := by
  (unfold State.nextSpare; (try dsimp only); (repeat' split) <;> simp -implicitDefEqProofs (disch := (intros; first | (simp -implicitDefEqProofs [*]; done) | ((try dsimp only); (repeat' split) <;> (simp -implicitDefEqProofs (disch := (intros; (try dsimp only); (repeat' split) <;> (try (simp -implicitDefEqProofs [*]; done)))) [*]; done)) | skip)) [State.wave, State.block, State.launch, State.core])
@[simp] theorem State.nextSpare_keeps_9 (s : State) (k : Nat) :
    (State.nextSpare s k).cells = s.cells := by
  (unfold State.nextSpare; (try dsimp only); (repeat' split) <;> simp -implicitDefEqProofs (disch := (intros; first | (simp -implicitDefEqProofs [*]; done) | ((try dsimp only); (repeat' split) <;> (simp -implicitDefEqProofs (disch := (intros; (try dsimp only); (repeat' split) <;> (try (simp -implicitDefEqProofs [*]; done)))) [*]; done)) | skip)) [State.wave, State.block, State.launch, State.core])
@[simp] theorem State.nextSpare_keeps_10 (s : State) (k : Nat) :
    (State.nextSpare s k).regions = s.regions := by
  (unfold State.nextSpare; (try dsimp only); (repeat' split) <;> simp -implicitDefEqProofs (disch := (intros; first | (simp -implicitDefEqProofs [*]; done) | ((try dsimp only); (repeat' split) <;> (simp -implicitDefEqProofs (disch := (intros; (try dsimp only); (repeat' split) <;> (try (simp -implicitDefEqProofs [*]; done)))) [*]; done)) | skip)) [State.wave, State.block, State.launch, State.core])
@[simp] theorem State.nextSpare_keeps_11 (s : State) (k : Nat) :
    (State.nextSpare s k).rdc = s.rdc := by
  (unfold State.nextSpare; (try dsimp only); (repeat' split) <;> simp -implicitDefEqProofs (disch := (intros; first | (simp -implicitDefEqProofs [*]; done) | ((try dsimp only); (repeat' split) <;> (simp -implicitDefEqProofs (disch := (intros; (try dsimp only); (repeat' split) <;> (try (simp -implicitDefEqProofs [*]; done)))) [*]; done)) | skip)) [State.wave, State.block, State.launch, State.core])
@[simp] theorem State.nextSpare_keeps_12 (s : State) (k : Nat) :
    (State.nextSpare s k).l2 = s.l2 := by
  (unfold State.nextSpare; (try dsimp only); (repeat' split) <;> simp -implicitDefEqProofs (disch := (intros; first | (simp -implicitDefEqProofs [*]; done) | ((try dsimp only); (repeat' split) <;> (simp -implicitDefEqProofs (disch := (intros; (try dsimp only); (repeat' split) <;> (try (simp -implicitDefEqProofs [*]; done)))) [*]; done)) | skip)) [State.wave, State.block, State.launch, State.core])
@[simp] theorem State.nextSpare_keeps_13 (s : State) (k : Nat) :
    (State.nextSpare s k).msc = s.msc := by
  (unfold State.nextSpare; (try dsimp only); (repeat' split) <;> simp -implicitDefEqProofs (disch := (intros; first | (simp -implicitDefEqProofs [*]; done) | ((try dsimp only); (repeat' split) <;> (simp -implicitDefEqProofs (disch := (intros; (try dsimp only); (repeat' split) <;> (try (simp -implicitDefEqProofs [*]; done)))) [*]; done)) | skip)) [State.wave, State.block, State.launch, State.core])
@[simp] theorem State.nextSpare_keeps_14 (s : State) (k : Nat) :
    (State.nextSpare s k).bad = s.bad := by
  (unfold State.nextSpare; (try dsimp only); (repeat' split) <;> simp -implicitDefEqProofs (disch := (intros; first | (simp -implicitDefEqProofs [*]; done) | ((try dsimp only); (repeat' split) <;> (simp -implicitDefEqProofs (disch := (intros; (try dsimp only); (repeat' split) <;> (try (simp -implicitDefEqProofs [*]; done)))) [*]; done)) | skip)) [State.wave, State.block, State.launch, State.core])
@[simp] theorem State.nextSpare_keeps_15 (s : State) (k : Nat) :
    (State.nextSpare s k).tlb = s.tlb := by
  (unfold State.nextSpare; (try dsimp only); (repeat' split) <;> simp -implicitDefEqProofs (disch := (intros; first | (simp -implicitDefEqProofs [*]; done) | ((try dsimp only); (repeat' split) <;> (simp -implicitDefEqProofs (disch := (intros; (try dsimp only); (repeat' split) <;> (try (simp -implicitDefEqProofs [*]; done)))) [*]; done)) | skip)) [State.wave, State.block, State.launch, State.core])
@[simp] theorem State.nextSpare_keeps_16 (s : State) (k : Nat) :
    (State.nextSpare s k).accs = s.accs := by
  (unfold State.nextSpare; (try dsimp only); (repeat' split) <;> simp -implicitDefEqProofs (disch := (intros; first | (simp -implicitDefEqProofs [*]; done) | ((try dsimp only); (repeat' split) <;> (simp -implicitDefEqProofs (disch := (intros; (try dsimp only); (repeat' split) <;> (try (simp -implicitDefEqProofs [*]; done)))) [*]; done)) | skip)) [State.wave, State.block, State.launch, State.core])
@[simp] theorem State.nextSpare_keeps_17 (s : State) (k : Nat) :
    (State.nextSpare s k).net = s.net := by
  (unfold State.nextSpare; (try dsimp only); (repeat' split) <;> simp -implicitDefEqProofs (disch := (intros; first | (simp -implicitDefEqProofs [*]; done) | ((try dsimp only); (repeat' split) <;> (simp -implicitDefEqProofs (disch := (intros; (try dsimp only); (repeat' split) <;> (try (simp -implicitDefEqProofs [*]; done)))) [*]; done)) | skip)) [State.wave, State.block, State.launch, State.core])
@[simp] theorem State.nextSpare_keeps_18 (s : State) (k : Nat) :
    (State.nextSpare s k).abufs = s.abufs := by
  (unfold State.nextSpare; (try dsimp only); (repeat' split) <;> simp -implicitDefEqProofs (disch := (intros; first | (simp -implicitDefEqProofs [*]; done) | ((try dsimp only); (repeat' split) <;> (simp -implicitDefEqProofs (disch := (intros; (try dsimp only); (repeat' split) <;> (try (simp -implicitDefEqProofs [*]; done)))) [*]; done)) | skip)) [State.wave, State.block, State.launch, State.core])
@[simp] theorem State.nextSpare_keeps_19 (s : State) (k : Nat) :
    (State.nextSpare s k).jobs = s.jobs := by
  (unfold State.nextSpare; (try dsimp only); (repeat' split) <;> simp -implicitDefEqProofs (disch := (intros; first | (simp -implicitDefEqProofs [*]; done) | ((try dsimp only); (repeat' split) <;> (simp -implicitDefEqProofs (disch := (intros; (try dsimp only); (repeat' split) <;> (try (simp -implicitDefEqProofs [*]; done)))) [*]; done)) | skip)) [State.wave, State.block, State.launch, State.core])
@[simp] theorem State.nextSpare_keeps_20 (s : State) (k : Nat) :
    (State.nextSpare s k).feet = s.feet := by
  (unfold State.nextSpare; (try dsimp only); (repeat' split) <;> simp -implicitDefEqProofs (disch := (intros; first | (simp -implicitDefEqProofs [*]; done) | ((try dsimp only); (repeat' split) <;> (simp -implicitDefEqProofs (disch := (intros; (try dsimp only); (repeat' split) <;> (try (simp -implicitDefEqProofs [*]; done)))) [*]; done)) | skip)) [State.wave, State.block, State.launch, State.core])
@[simp] theorem State.nextSpare_keeps_21 (s : State) (k : Nat) :
    (State.nextSpare s k).shapes = s.shapes := by
  (unfold State.nextSpare; (try dsimp only); (repeat' split) <;> simp -implicitDefEqProofs (disch := (intros; first | (simp -implicitDefEqProofs [*]; done) | ((try dsimp only); (repeat' split) <;> (simp -implicitDefEqProofs (disch := (intros; (try dsimp only); (repeat' split) <;> (try (simp -implicitDefEqProofs [*]; done)))) [*]; done)) | skip)) [State.wave, State.block, State.launch, State.core])
@[simp] theorem State.nextSpare_keeps_22 (s : State) (k : Nat) :
    (State.nextSpare s k).eqs = s.eqs := by
  (unfold State.nextSpare; (try dsimp only); (repeat' split) <;> simp -implicitDefEqProofs (disch := (intros; first | (simp -implicitDefEqProofs [*]; done) | ((try dsimp only); (repeat' split) <;> (simp -implicitDefEqProofs (disch := (intros; (try dsimp only); (repeat' split) <;> (try (simp -implicitDefEqProofs [*]; done)))) [*]; done)) | skip)) [State.wave, State.block, State.launch, State.core])
@[simp] theorem State.nextSpare_keeps_23 (s : State) (k : Nat) :
    (State.nextSpare s k).insts = s.insts := by
  (unfold State.nextSpare; (try dsimp only); (repeat' split) <;> simp -implicitDefEqProofs (disch := (intros; first | (simp -implicitDefEqProofs [*]; done) | ((try dsimp only); (repeat' split) <;> (simp -implicitDefEqProofs (disch := (intros; (try dsimp only); (repeat' split) <;> (try (simp -implicitDefEqProofs [*]; done)))) [*]; done)) | skip)) [State.wave, State.block, State.launch, State.core])
@[simp] theorem State.nextSpare_keeps_24 (s : State) (k : Nat) :
    (State.nextSpare s k).links = s.links := by
  (unfold State.nextSpare; (try dsimp only); (repeat' split) <;> simp -implicitDefEqProofs (disch := (intros; first | (simp -implicitDefEqProofs [*]; done) | ((try dsimp only); (repeat' split) <;> (simp -implicitDefEqProofs (disch := (intros; (try dsimp only); (repeat' split) <;> (try (simp -implicitDefEqProofs [*]; done)))) [*]; done)) | skip)) [State.wave, State.block, State.launch, State.core])
@[simp] theorem State.nextSpare_keeps_25 (s : State) (k : Nat) :
    (State.nextSpare s k).hostAccs = s.hostAccs := by
  (unfold State.nextSpare; (try dsimp only); (repeat' split) <;> simp -implicitDefEqProofs (disch := (intros; first | (simp -implicitDefEqProofs [*]; done) | ((try dsimp only); (repeat' split) <;> (simp -implicitDefEqProofs (disch := (intros; (try dsimp only); (repeat' split) <;> (try (simp -implicitDefEqProofs [*]; done)))) [*]; done)) | skip)) [State.wave, State.block, State.launch, State.core])
@[simp] theorem State.nextSpare_keeps_26 (s : State) (k : Nat) :
    (State.nextSpare s k).hostLines = s.hostLines := by
  (unfold State.nextSpare; (try dsimp only); (repeat' split) <;> simp -implicitDefEqProofs (disch := (intros; first | (simp -implicitDefEqProofs [*]; done) | ((try dsimp only); (repeat' split) <;> (simp -implicitDefEqProofs (disch := (intros; (try dsimp only); (repeat' split) <;> (try (simp -implicitDefEqProofs [*]; done)))) [*]; done)) | skip)) [State.wave, State.block, State.launch, State.core])
@[simp] theorem State.nextSpare_keeps_27 (s : State) (k : Nat) :
    (State.nextSpare s k).mgmt = s.mgmt := by
  (unfold State.nextSpare; (try dsimp only); (repeat' split) <;> simp -implicitDefEqProofs (disch := (intros; first | (simp -implicitDefEqProofs [*]; done) | ((try dsimp only); (repeat' split) <;> (simp -implicitDefEqProofs (disch := (intros; (try dsimp only); (repeat' split) <;> (try (simp -implicitDefEqProofs [*]; done)))) [*]; done)) | skip)) [State.wave, State.block, State.launch, State.core])
@[simp] theorem State.nextSpare_keeps_28 (s : State) (k : Nat) :
    (State.nextSpare s k).focus = s.focus := by
  (unfold State.nextSpare; (try dsimp only); (repeat' split) <;> simp -implicitDefEqProofs (disch := (intros; first | (simp -implicitDefEqProofs [*]; done) | ((try dsimp only); (repeat' split) <;> (simp -implicitDefEqProofs (disch := (intros; (try dsimp only); (repeat' split) <;> (try (simp -implicitDefEqProofs [*]; done)))) [*]; done)) | skip)) [State.wave, State.block, State.launch, State.core])
@[simp] theorem State.nextSpare_keeps_29 (s : State) (k : Nat) :
    (State.nextSpare s k).agenda = s.agenda := by
  (unfold State.nextSpare; (try dsimp only); (repeat' split) <;> simp -implicitDefEqProofs (disch := (intros; first | (simp -implicitDefEqProofs [*]; done) | ((try dsimp only); (repeat' split) <;> (simp -implicitDefEqProofs (disch := (intros; (try dsimp only); (repeat' split) <;> (try (simp -implicitDefEqProofs [*]; done)))) [*]; done)) | skip)) [State.wave, State.block, State.launch, State.core])
@[simp] theorem State.meetErrors_keeps (s : State) (k : Nat) (read : List Nat) (corrected : List Nat) (uncorrectable : List Nat) :
    (State.meetErrors s k read corrected uncorrectable).waves = s.waves ∧
    (State.meetErrors s k read corrected uncorrectable).blocks = s.blocks ∧
    (State.meetErrors s k read corrected uncorrectable).launches = s.launches ∧
    (State.meetErrors s k read corrected uncorrectable).cores = s.cores ∧
    (State.meetErrors s k read corrected uncorrectable).mem = s.mem ∧
    (State.meetErrors s k read corrected uncorrectable).hostMem = s.hostMem ∧
    (State.meetErrors s k read corrected uncorrectable).peerMem = s.peerMem ∧
    (State.meetErrors s k read corrected uncorrectable).registrant = s.registrant ∧
    (State.meetErrors s k read corrected uncorrectable).claims = s.claims ∧
    (State.meetErrors s k read corrected uncorrectable).cells = s.cells ∧
    (State.meetErrors s k read corrected uncorrectable).regions = s.regions ∧
    (State.meetErrors s k read corrected uncorrectable).rdc = s.rdc ∧
    (State.meetErrors s k read corrected uncorrectable).l2 = s.l2 ∧
    (State.meetErrors s k read corrected uncorrectable).msc = s.msc ∧
    (State.meetErrors s k read corrected uncorrectable).tlb = s.tlb ∧
    (State.meetErrors s k read corrected uncorrectable).accs = s.accs ∧
    (State.meetErrors s k read corrected uncorrectable).net = s.net ∧
    (State.meetErrors s k read corrected uncorrectable).abufs = s.abufs ∧
    (State.meetErrors s k read corrected uncorrectable).jobs = s.jobs ∧
    (State.meetErrors s k read corrected uncorrectable).feet = s.feet ∧
    (State.meetErrors s k read corrected uncorrectable).shapes = s.shapes ∧
    (State.meetErrors s k read corrected uncorrectable).eqs = s.eqs ∧
    (State.meetErrors s k read corrected uncorrectable).insts = s.insts ∧
    (State.meetErrors s k read corrected uncorrectable).links = s.links ∧
    (State.meetErrors s k read corrected uncorrectable).hostAccs = s.hostAccs ∧
    (State.meetErrors s k read corrected uncorrectable).hostLines = s.hostLines ∧
    (State.meetErrors s k read corrected uncorrectable).mgmt = s.mgmt ∧
    (State.meetErrors s k read corrected uncorrectable).focus = s.focus ∧
    (State.meetErrors s k read corrected uncorrectable).agenda = s.agenda ∧
    (∀ k, (State.meetErrors s k read corrected uncorrectable).wave k = s.wave k) ∧
    (∀ k, (State.meetErrors s k read corrected uncorrectable).block k = s.block k) ∧
    (∀ k, (State.meetErrors s k read corrected uncorrectable).launch k = s.launch k) ∧
    (∀ k, (State.meetErrors s k read corrected uncorrectable).core k = s.core k) := by
  (unfold State.meetErrors; (try dsimp only); (repeat' split) <;> simp -implicitDefEqProofs (disch := (intros; first | (simp -implicitDefEqProofs [*]; done) | ((try dsimp only); (repeat' split) <;> (simp -implicitDefEqProofs (disch := (intros; (try dsimp only); (repeat' split) <;> (try (simp -implicitDefEqProofs [*]; done)))) [*]; done)) | skip)) [State.wave, State.block, State.launch, State.core])
@[simp] theorem State.readSectors_keeps (s : State) (k : Nat) (secs : List Nat) (pin : List Nat) (corrected : List Nat) (uncorrectable : List Nat) :
    (State.readSectors s k secs pin corrected uncorrectable).waves = s.waves ∧
    (State.readSectors s k secs pin corrected uncorrectable).blocks = s.blocks ∧
    (State.readSectors s k secs pin corrected uncorrectable).launches = s.launches ∧
    (State.readSectors s k secs pin corrected uncorrectable).cores = s.cores ∧
    (State.readSectors s k secs pin corrected uncorrectable).mem = s.mem ∧
    (State.readSectors s k secs pin corrected uncorrectable).hostMem = s.hostMem ∧
    (State.readSectors s k secs pin corrected uncorrectable).peerMem = s.peerMem ∧
    (State.readSectors s k secs pin corrected uncorrectable).registrant = s.registrant ∧
    (State.readSectors s k secs pin corrected uncorrectable).claims = s.claims ∧
    (State.readSectors s k secs pin corrected uncorrectable).cells = s.cells ∧
    (State.readSectors s k secs pin corrected uncorrectable).regions = s.regions ∧
    (State.readSectors s k secs pin corrected uncorrectable).rdc = s.rdc ∧
    (State.readSectors s k secs pin corrected uncorrectable).l2 = s.l2 ∧
    (State.readSectors s k secs pin corrected uncorrectable).msc = s.msc ∧
    (State.readSectors s k secs pin corrected uncorrectable).tlb = s.tlb ∧
    (State.readSectors s k secs pin corrected uncorrectable).accs = s.accs ∧
    (State.readSectors s k secs pin corrected uncorrectable).net = s.net ∧
    (State.readSectors s k secs pin corrected uncorrectable).abufs = s.abufs ∧
    (State.readSectors s k secs pin corrected uncorrectable).jobs = s.jobs ∧
    (State.readSectors s k secs pin corrected uncorrectable).feet = s.feet ∧
    (State.readSectors s k secs pin corrected uncorrectable).shapes = s.shapes ∧
    (State.readSectors s k secs pin corrected uncorrectable).eqs = s.eqs ∧
    (State.readSectors s k secs pin corrected uncorrectable).insts = s.insts ∧
    (State.readSectors s k secs pin corrected uncorrectable).links = s.links ∧
    (State.readSectors s k secs pin corrected uncorrectable).hostAccs = s.hostAccs ∧
    (State.readSectors s k secs pin corrected uncorrectable).hostLines = s.hostLines ∧
    (State.readSectors s k secs pin corrected uncorrectable).mgmt = s.mgmt ∧
    (State.readSectors s k secs pin corrected uncorrectable).focus = s.focus ∧
    (State.readSectors s k secs pin corrected uncorrectable).agenda = s.agenda ∧
    (∀ k, (State.readSectors s k secs pin corrected uncorrectable).wave k = s.wave k) ∧
    (∀ k, (State.readSectors s k secs pin corrected uncorrectable).block k = s.block k) ∧
    (∀ k, (State.readSectors s k secs pin corrected uncorrectable).launch k = s.launch k) ∧
    (∀ k, (State.readSectors s k secs pin corrected uncorrectable).core k = s.core k) := by
  (unfold State.readSectors; (try dsimp only); (repeat' split) <;> simp -implicitDefEqProofs (disch := (intros; first | (simp -implicitDefEqProofs [*]; done) | ((try dsimp only); (repeat' split) <;> (simp -implicitDefEqProofs (disch := (intros; (try dsimp only); (repeat' split) <;> (try (simp -implicitDefEqProofs [*]; done)))) [*]; done)) | skip)) [State.wave, State.block, State.launch, State.core])
@[simp] theorem State.mendSectors_keeps (s : State) (f : Nat → Bool) :
    (State.mendSectors s f).waves = s.waves ∧
    (State.mendSectors s f).blocks = s.blocks ∧
    (State.mendSectors s f).launches = s.launches ∧
    (State.mendSectors s f).cores = s.cores ∧
    (State.mendSectors s f).mem = s.mem ∧
    (State.mendSectors s f).array = s.array ∧
    (State.mendSectors s f).hostMem = s.hostMem ∧
    (State.mendSectors s f).peerMem = s.peerMem ∧
    (State.mendSectors s f).registrant = s.registrant ∧
    (State.mendSectors s f).claims = s.claims ∧
    (State.mendSectors s f).cells = s.cells ∧
    (State.mendSectors s f).regions = s.regions ∧
    (State.mendSectors s f).rdc = s.rdc ∧
    (State.mendSectors s f).l2 = s.l2 ∧
    (State.mendSectors s f).msc = s.msc ∧
    (State.mendSectors s f).hbms = s.hbms ∧
    (State.mendSectors s f).weak = s.weak ∧
    (State.mendSectors s f).tlb = s.tlb ∧
    (State.mendSectors s f).accs = s.accs ∧
    (State.mendSectors s f).net = s.net ∧
    (State.mendSectors s f).abufs = s.abufs ∧
    (State.mendSectors s f).jobs = s.jobs ∧
    (State.mendSectors s f).feet = s.feet ∧
    (State.mendSectors s f).shapes = s.shapes ∧
    (State.mendSectors s f).eqs = s.eqs ∧
    (State.mendSectors s f).insts = s.insts ∧
    (State.mendSectors s f).links = s.links ∧
    (State.mendSectors s f).hostAccs = s.hostAccs ∧
    (State.mendSectors s f).hostLines = s.hostLines ∧
    (State.mendSectors s f).mgmt = s.mgmt ∧
    (State.mendSectors s f).focus = s.focus ∧
    (State.mendSectors s f).agenda = s.agenda ∧
    (State.mendSectors s f).seq = s.seq ∧
    (∀ k, (State.mendSectors s f).wave k = s.wave k) ∧
    (∀ k, (State.mendSectors s f).block k = s.block k) ∧
    (∀ k, (State.mendSectors s f).launch k = s.launch k) ∧
    (∀ k, (State.mendSectors s f).core k = s.core k) := by
  (unfold State.mendSectors; (try dsimp only); (repeat' split) <;> simp -implicitDefEqProofs (disch := (intros; first | (simp -implicitDefEqProofs [*]; done) | ((try dsimp only); (repeat' split) <;> (simp -implicitDefEqProofs (disch := (intros; (try dsimp only); (repeat' split) <;> (try (simp -implicitDefEqProofs [*]; done)))) [*]; done)) | skip)) [State.wave, State.block, State.launch, State.core])
@[simp] theorem State.passErrors_keeps (s : State) (line : Nat) (l : Nat) (down : Option Nat) :
    (State.passErrors s line l down).waves = s.waves ∧
    (State.passErrors s line l down).blocks = s.blocks ∧
    (State.passErrors s line l down).launches = s.launches ∧
    (State.passErrors s line l down).cores = s.cores ∧
    (State.passErrors s line l down).mem = s.mem ∧
    (State.passErrors s line l down).array = s.array ∧
    (State.passErrors s line l down).hostMem = s.hostMem ∧
    (State.passErrors s line l down).peerMem = s.peerMem ∧
    (State.passErrors s line l down).registrant = s.registrant ∧
    (State.passErrors s line l down).claims = s.claims ∧
    (State.passErrors s line l down).cells = s.cells ∧
    (State.passErrors s line l down).regions = s.regions ∧
    (State.passErrors s line l down).rdc = s.rdc ∧
    (State.passErrors s line l down).l2 = s.l2 ∧
    (State.passErrors s line l down).msc = s.msc ∧
    (State.passErrors s line l down).hbms = s.hbms ∧
    (State.passErrors s line l down).weak = s.weak ∧
    (State.passErrors s line l down).lost = s.lost ∧
    (State.passErrors s line l down).tlb = s.tlb ∧
    (State.passErrors s line l down).accs = s.accs ∧
    (State.passErrors s line l down).net = s.net ∧
    (State.passErrors s line l down).abufs = s.abufs ∧
    (State.passErrors s line l down).jobs = s.jobs ∧
    (State.passErrors s line l down).feet = s.feet ∧
    (State.passErrors s line l down).shapes = s.shapes ∧
    (State.passErrors s line l down).eqs = s.eqs ∧
    (State.passErrors s line l down).insts = s.insts ∧
    (State.passErrors s line l down).links = s.links ∧
    (State.passErrors s line l down).hostAccs = s.hostAccs ∧
    (State.passErrors s line l down).hostLines = s.hostLines ∧
    (State.passErrors s line l down).mgmt = s.mgmt ∧
    (State.passErrors s line l down).focus = s.focus ∧
    (State.passErrors s line l down).agenda = s.agenda ∧
    (State.passErrors s line l down).seq = s.seq ∧
    (∀ k, (State.passErrors s line l down).wave k = s.wave k) ∧
    (∀ k, (State.passErrors s line l down).block k = s.block k) ∧
    (∀ k, (State.passErrors s line l down).launch k = s.launch k) ∧
    (∀ k, (State.passErrors s line l down).core k = s.core k) := by
  (unfold State.passErrors; (try dsimp only); (repeat' split) <;> simp -implicitDefEqProofs (disch := (intros; first | (simp -implicitDefEqProofs [*]; done) | ((try dsimp only); (repeat' split) <;> (simp -implicitDefEqProofs (disch := (intros; (try dsimp only); (repeat' split) <;> (try (simp -implicitDefEqProofs [*]; done)))) [*]; done)) | skip)) [State.wave, State.block, State.launch, State.core])
@[simp] theorem State.mscEvict_keeps (s : State) (m : MscLine) :
    (State.mscEvict s m).waves = s.waves ∧
    (State.mscEvict s m).blocks = s.blocks ∧
    (State.mscEvict s m).launches = s.launches ∧
    (State.mscEvict s m).cores = s.cores ∧
    (State.mscEvict s m).mem = s.mem ∧
    (State.mscEvict s m).hostMem = s.hostMem ∧
    (State.mscEvict s m).peerMem = s.peerMem ∧
    (State.mscEvict s m).registrant = s.registrant ∧
    (State.mscEvict s m).claims = s.claims ∧
    (State.mscEvict s m).cells = s.cells ∧
    (State.mscEvict s m).regions = s.regions ∧
    (State.mscEvict s m).rdc = s.rdc ∧
    (State.mscEvict s m).l2 = s.l2 ∧
    (State.mscEvict s m).tlb = s.tlb ∧
    (State.mscEvict s m).accs = s.accs ∧
    (State.mscEvict s m).net = s.net ∧
    (State.mscEvict s m).abufs = s.abufs ∧
    (State.mscEvict s m).jobs = s.jobs ∧
    (State.mscEvict s m).feet = s.feet ∧
    (State.mscEvict s m).shapes = s.shapes ∧
    (State.mscEvict s m).eqs = s.eqs ∧
    (State.mscEvict s m).insts = s.insts ∧
    (State.mscEvict s m).links = s.links ∧
    (State.mscEvict s m).hostAccs = s.hostAccs ∧
    (State.mscEvict s m).hostLines = s.hostLines ∧
    (State.mscEvict s m).mgmt = s.mgmt ∧
    (State.mscEvict s m).focus = s.focus ∧
    (State.mscEvict s m).agenda = s.agenda ∧
    (∀ k, (State.mscEvict s m).wave k = s.wave k) ∧
    (∀ k, (State.mscEvict s m).block k = s.block k) ∧
    (∀ k, (State.mscEvict s m).launch k = s.launch k) ∧
    (∀ k, (State.mscEvict s m).core k = s.core k) := by
  (unfold State.mscEvict; (try dsimp only); (repeat' split) <;> simp -implicitDefEqProofs (disch := (intros; first | (simp -implicitDefEqProofs [*]; done) | ((try dsimp only); (repeat' split) <;> (simp -implicitDefEqProofs (disch := (intros; (try dsimp only); (repeat' split) <;> (try (simp -implicitDefEqProofs [*]; done)))) [*]; done)) | skip)) [State.wave, State.block, State.launch, State.core])
@[simp] theorem State.mscPut_keeps (s : State) (line : Nat) (d : List Byte) (dirty : Bool) (readers : Nat) :
    (State.mscPut s line d dirty readers).waves = s.waves ∧
    (State.mscPut s line d dirty readers).blocks = s.blocks ∧
    (State.mscPut s line d dirty readers).launches = s.launches ∧
    (State.mscPut s line d dirty readers).cores = s.cores ∧
    (State.mscPut s line d dirty readers).mem = s.mem ∧
    (State.mscPut s line d dirty readers).hostMem = s.hostMem ∧
    (State.mscPut s line d dirty readers).peerMem = s.peerMem ∧
    (State.mscPut s line d dirty readers).registrant = s.registrant ∧
    (State.mscPut s line d dirty readers).claims = s.claims ∧
    (State.mscPut s line d dirty readers).cells = s.cells ∧
    (State.mscPut s line d dirty readers).regions = s.regions ∧
    (State.mscPut s line d dirty readers).rdc = s.rdc ∧
    (State.mscPut s line d dirty readers).l2 = s.l2 ∧
    (State.mscPut s line d dirty readers).tlb = s.tlb ∧
    (State.mscPut s line d dirty readers).accs = s.accs ∧
    (State.mscPut s line d dirty readers).net = s.net ∧
    (State.mscPut s line d dirty readers).abufs = s.abufs ∧
    (State.mscPut s line d dirty readers).jobs = s.jobs ∧
    (State.mscPut s line d dirty readers).feet = s.feet ∧
    (State.mscPut s line d dirty readers).shapes = s.shapes ∧
    (State.mscPut s line d dirty readers).eqs = s.eqs ∧
    (State.mscPut s line d dirty readers).insts = s.insts ∧
    (State.mscPut s line d dirty readers).links = s.links ∧
    (State.mscPut s line d dirty readers).hostAccs = s.hostAccs ∧
    (State.mscPut s line d dirty readers).hostLines = s.hostLines ∧
    (State.mscPut s line d dirty readers).mgmt = s.mgmt ∧
    (State.mscPut s line d dirty readers).focus = s.focus ∧
    (State.mscPut s line d dirty readers).agenda = s.agenda ∧
    (∀ k, (State.mscPut s line d dirty readers).wave k = s.wave k) ∧
    (∀ k, (State.mscPut s line d dirty readers).block k = s.block k) ∧
    (∀ k, (State.mscPut s line d dirty readers).launch k = s.launch k) ∧
    (∀ k, (State.mscPut s line d dirty readers).core k = s.core k) := by
  (unfold State.mscPut; (try dsimp only); (repeat' split) <;> simp -implicitDefEqProofs (disch := (intros; first | (simp -implicitDefEqProofs [*]; done) | ((try dsimp only); (repeat' split) <;> (simp -implicitDefEqProofs (disch := (intros; (try dsimp only); (repeat' split) <;> (try (simp -implicitDefEqProofs [*]; done)))) [*]; done)) | skip)) [State.wave, State.block, State.launch, State.core])
@[simp] theorem State.mscFill_keeps (s : State) (line : Nat) :
    (State.mscFill s line).waves = s.waves ∧
    (State.mscFill s line).blocks = s.blocks ∧
    (State.mscFill s line).launches = s.launches ∧
    (State.mscFill s line).cores = s.cores ∧
    (State.mscFill s line).mem = s.mem ∧
    (State.mscFill s line).hostMem = s.hostMem ∧
    (State.mscFill s line).peerMem = s.peerMem ∧
    (State.mscFill s line).registrant = s.registrant ∧
    (State.mscFill s line).claims = s.claims ∧
    (State.mscFill s line).cells = s.cells ∧
    (State.mscFill s line).regions = s.regions ∧
    (State.mscFill s line).rdc = s.rdc ∧
    (State.mscFill s line).l2 = s.l2 ∧
    (State.mscFill s line).tlb = s.tlb ∧
    (State.mscFill s line).accs = s.accs ∧
    (State.mscFill s line).net = s.net ∧
    (State.mscFill s line).abufs = s.abufs ∧
    (State.mscFill s line).jobs = s.jobs ∧
    (State.mscFill s line).feet = s.feet ∧
    (State.mscFill s line).shapes = s.shapes ∧
    (State.mscFill s line).eqs = s.eqs ∧
    (State.mscFill s line).insts = s.insts ∧
    (State.mscFill s line).links = s.links ∧
    (State.mscFill s line).hostAccs = s.hostAccs ∧
    (State.mscFill s line).hostLines = s.hostLines ∧
    (State.mscFill s line).mgmt = s.mgmt ∧
    (State.mscFill s line).focus = s.focus ∧
    (State.mscFill s line).agenda = s.agenda ∧
    (∀ k, (State.mscFill s line).wave k = s.wave k) ∧
    (∀ k, (State.mscFill s line).block k = s.block k) ∧
    (∀ k, (State.mscFill s line).launch k = s.launch k) ∧
    (∀ k, (State.mscFill s line).core k = s.core k) := by
  (unfold State.mscFill; (try dsimp only); (repeat' split) <;> simp -implicitDefEqProofs (disch := (intros; first | (simp -implicitDefEqProofs [*]; done) | ((try dsimp only); (repeat' split) <;> (simp -implicitDefEqProofs (disch := (intros; (try dsimp only); (repeat' split) <;> (try (simp -implicitDefEqProofs [*]; done)))) [*]; done)) | skip)) [State.wave, State.block, State.launch, State.core])
@[simp] theorem State.mscRead_keeps (s : State) (line : Nat) :
    (State.mscRead s line).waves = s.waves ∧
    (State.mscRead s line).blocks = s.blocks ∧
    (State.mscRead s line).launches = s.launches ∧
    (State.mscRead s line).cores = s.cores ∧
    (State.mscRead s line).mem = s.mem ∧
    (State.mscRead s line).hostMem = s.hostMem ∧
    (State.mscRead s line).peerMem = s.peerMem ∧
    (State.mscRead s line).registrant = s.registrant ∧
    (State.mscRead s line).claims = s.claims ∧
    (State.mscRead s line).cells = s.cells ∧
    (State.mscRead s line).regions = s.regions ∧
    (State.mscRead s line).rdc = s.rdc ∧
    (State.mscRead s line).l2 = s.l2 ∧
    (State.mscRead s line).tlb = s.tlb ∧
    (State.mscRead s line).accs = s.accs ∧
    (State.mscRead s line).net = s.net ∧
    (State.mscRead s line).abufs = s.abufs ∧
    (State.mscRead s line).jobs = s.jobs ∧
    (State.mscRead s line).feet = s.feet ∧
    (State.mscRead s line).shapes = s.shapes ∧
    (State.mscRead s line).eqs = s.eqs ∧
    (State.mscRead s line).insts = s.insts ∧
    (State.mscRead s line).links = s.links ∧
    (State.mscRead s line).hostAccs = s.hostAccs ∧
    (State.mscRead s line).hostLines = s.hostLines ∧
    (State.mscRead s line).mgmt = s.mgmt ∧
    (State.mscRead s line).focus = s.focus ∧
    (State.mscRead s line).agenda = s.agenda ∧
    (∀ k, (State.mscRead s line).wave k = s.wave k) ∧
    (∀ k, (State.mscRead s line).block k = s.block k) ∧
    (∀ k, (State.mscRead s line).launch k = s.launch k) ∧
    (∀ k, (State.mscRead s line).core k = s.core k) := by
  (unfold State.mscRead; (try dsimp only); (repeat' split) <;> simp -implicitDefEqProofs (disch := (intros; first | (simp -implicitDefEqProofs [*]; done) | ((try dsimp only); (repeat' split) <;> (simp -implicitDefEqProofs (disch := (intros; (try dsimp only); (repeat' split) <;> (try (simp -implicitDefEqProofs [*]; done)))) [*]; done)) | skip)) [State.wave, State.block, State.launch, State.core])
@[simp] theorem State.fetchLine_keeps (s : State) (line : Nat) :
    (State.fetchLine s line).waves = s.waves ∧
    (State.fetchLine s line).blocks = s.blocks ∧
    (State.fetchLine s line).launches = s.launches ∧
    (State.fetchLine s line).cores = s.cores ∧
    (State.fetchLine s line).mem = s.mem ∧
    (State.fetchLine s line).hostMem = s.hostMem ∧
    (State.fetchLine s line).peerMem = s.peerMem ∧
    (State.fetchLine s line).registrant = s.registrant ∧
    (State.fetchLine s line).claims = s.claims ∧
    (State.fetchLine s line).cells = s.cells ∧
    (State.fetchLine s line).regions = s.regions ∧
    (State.fetchLine s line).rdc = s.rdc ∧
    (State.fetchLine s line).l2 = s.l2 ∧
    (State.fetchLine s line).tlb = s.tlb ∧
    (State.fetchLine s line).accs = s.accs ∧
    (State.fetchLine s line).net = s.net ∧
    (State.fetchLine s line).abufs = s.abufs ∧
    (State.fetchLine s line).jobs = s.jobs ∧
    (State.fetchLine s line).feet = s.feet ∧
    (State.fetchLine s line).shapes = s.shapes ∧
    (State.fetchLine s line).eqs = s.eqs ∧
    (State.fetchLine s line).insts = s.insts ∧
    (State.fetchLine s line).links = s.links ∧
    (State.fetchLine s line).hostAccs = s.hostAccs ∧
    (State.fetchLine s line).hostLines = s.hostLines ∧
    (State.fetchLine s line).mgmt = s.mgmt ∧
    (State.fetchLine s line).focus = s.focus ∧
    (State.fetchLine s line).agenda = s.agenda ∧
    (∀ k, (State.fetchLine s line).wave k = s.wave k) ∧
    (∀ k, (State.fetchLine s line).block k = s.block k) ∧
    (∀ k, (State.fetchLine s line).launch k = s.launch k) ∧
    (∀ k, (State.fetchLine s line).core k = s.core k) := by
  (unfold State.fetchLine; (try dsimp only); (repeat' split) <;> simp -implicitDefEqProofs (disch := (intros; first | (simp -implicitDefEqProofs [*]; done) | ((try dsimp only); (repeat' split) <;> (simp -implicitDefEqProofs (disch := (intros; (try dsimp only); (repeat' split) <;> (try (simp -implicitDefEqProofs [*]; done)))) [*]; done)) | skip)) [State.wave, State.block, State.launch, State.core])
@[simp] theorem State.fetchLines_keeps (s : State) (pa : Nat) (n : Nat) :
    (State.fetchLines s pa n).waves = s.waves ∧
    (State.fetchLines s pa n).blocks = s.blocks ∧
    (State.fetchLines s pa n).launches = s.launches ∧
    (State.fetchLines s pa n).cores = s.cores ∧
    (State.fetchLines s pa n).mem = s.mem ∧
    (State.fetchLines s pa n).hostMem = s.hostMem ∧
    (State.fetchLines s pa n).peerMem = s.peerMem ∧
    (State.fetchLines s pa n).registrant = s.registrant ∧
    (State.fetchLines s pa n).claims = s.claims ∧
    (State.fetchLines s pa n).cells = s.cells ∧
    (State.fetchLines s pa n).regions = s.regions ∧
    (State.fetchLines s pa n).rdc = s.rdc ∧
    (State.fetchLines s pa n).l2 = s.l2 ∧
    (State.fetchLines s pa n).tlb = s.tlb ∧
    (State.fetchLines s pa n).accs = s.accs ∧
    (State.fetchLines s pa n).net = s.net ∧
    (State.fetchLines s pa n).abufs = s.abufs ∧
    (State.fetchLines s pa n).jobs = s.jobs ∧
    (State.fetchLines s pa n).feet = s.feet ∧
    (State.fetchLines s pa n).shapes = s.shapes ∧
    (State.fetchLines s pa n).eqs = s.eqs ∧
    (State.fetchLines s pa n).insts = s.insts ∧
    (State.fetchLines s pa n).links = s.links ∧
    (State.fetchLines s pa n).hostAccs = s.hostAccs ∧
    (State.fetchLines s pa n).hostLines = s.hostLines ∧
    (State.fetchLines s pa n).mgmt = s.mgmt ∧
    (State.fetchLines s pa n).focus = s.focus ∧
    (State.fetchLines s pa n).agenda = s.agenda ∧
    (∀ k, (State.fetchLines s pa n).wave k = s.wave k) ∧
    (∀ k, (State.fetchLines s pa n).block k = s.block k) ∧
    (∀ k, (State.fetchLines s pa n).launch k = s.launch k) ∧
    (∀ k, (State.fetchLines s pa n).core k = s.core k) := by
  (unfold State.fetchLines; (try dsimp only); (repeat' split) <;> simp -implicitDefEqProofs (disch := (intros; first | (simp -implicitDefEqProofs [*]; done) | ((try dsimp only); (repeat' split) <;> (simp -implicitDefEqProofs (disch := (intros; (try dsimp only); (repeat' split) <;> (try (simp -implicitDefEqProofs [*]; done)))) [*]; done)) | skip)) [State.wave, State.block, State.launch, State.core])
@[simp] theorem State.fetchSecs_keeps (s : State) (l : List Nat) :
    (State.fetchSecs s l).waves = s.waves ∧
    (State.fetchSecs s l).blocks = s.blocks ∧
    (State.fetchSecs s l).launches = s.launches ∧
    (State.fetchSecs s l).cores = s.cores ∧
    (State.fetchSecs s l).mem = s.mem ∧
    (State.fetchSecs s l).hostMem = s.hostMem ∧
    (State.fetchSecs s l).peerMem = s.peerMem ∧
    (State.fetchSecs s l).registrant = s.registrant ∧
    (State.fetchSecs s l).claims = s.claims ∧
    (State.fetchSecs s l).cells = s.cells ∧
    (State.fetchSecs s l).regions = s.regions ∧
    (State.fetchSecs s l).rdc = s.rdc ∧
    (State.fetchSecs s l).l2 = s.l2 ∧
    (State.fetchSecs s l).tlb = s.tlb ∧
    (State.fetchSecs s l).accs = s.accs ∧
    (State.fetchSecs s l).net = s.net ∧
    (State.fetchSecs s l).abufs = s.abufs ∧
    (State.fetchSecs s l).jobs = s.jobs ∧
    (State.fetchSecs s l).feet = s.feet ∧
    (State.fetchSecs s l).shapes = s.shapes ∧
    (State.fetchSecs s l).eqs = s.eqs ∧
    (State.fetchSecs s l).insts = s.insts ∧
    (State.fetchSecs s l).links = s.links ∧
    (State.fetchSecs s l).hostAccs = s.hostAccs ∧
    (State.fetchSecs s l).hostLines = s.hostLines ∧
    (State.fetchSecs s l).mgmt = s.mgmt ∧
    (State.fetchSecs s l).focus = s.focus ∧
    (State.fetchSecs s l).agenda = s.agenda ∧
    (∀ k, (State.fetchSecs s l).wave k = s.wave k) ∧
    (∀ k, (State.fetchSecs s l).block k = s.block k) ∧
    (∀ k, (State.fetchSecs s l).launch k = s.launch k) ∧
    (∀ k, (State.fetchSecs s l).core k = s.core k) := by
  (unfold State.fetchSecs; (try dsimp only); (repeat' split) <;> simp -implicitDefEqProofs (disch := (intros; first | (simp -implicitDefEqProofs [*]; done) | ((try dsimp only); (repeat' split) <;> (simp -implicitDefEqProofs (disch := (intros; (try dsimp only); (repeat' split) <;> (try (simp -implicitDefEqProofs [*]; done)))) [*]; done)) | skip)) [State.wave, State.block, State.launch, State.core])
@[simp] theorem State.l2Drop_keeps (s : State) (line : Nat) :
    (State.l2Drop s line).waves = s.waves ∧
    (State.l2Drop s line).blocks = s.blocks ∧
    (State.l2Drop s line).launches = s.launches ∧
    (State.l2Drop s line).cores = s.cores ∧
    (State.l2Drop s line).mem = s.mem ∧
    (State.l2Drop s line).hostMem = s.hostMem ∧
    (State.l2Drop s line).peerMem = s.peerMem ∧
    (State.l2Drop s line).registrant = s.registrant ∧
    (State.l2Drop s line).claims = s.claims ∧
    (State.l2Drop s line).cells = s.cells ∧
    (State.l2Drop s line).regions = s.regions ∧
    (State.l2Drop s line).rdc = s.rdc ∧
    (State.l2Drop s line).tlb = s.tlb ∧
    (State.l2Drop s line).accs = s.accs ∧
    (State.l2Drop s line).net = s.net ∧
    (State.l2Drop s line).abufs = s.abufs ∧
    (State.l2Drop s line).jobs = s.jobs ∧
    (State.l2Drop s line).feet = s.feet ∧
    (State.l2Drop s line).shapes = s.shapes ∧
    (State.l2Drop s line).eqs = s.eqs ∧
    (State.l2Drop s line).insts = s.insts ∧
    (State.l2Drop s line).links = s.links ∧
    (State.l2Drop s line).hostAccs = s.hostAccs ∧
    (State.l2Drop s line).hostLines = s.hostLines ∧
    (State.l2Drop s line).mgmt = s.mgmt ∧
    (State.l2Drop s line).focus = s.focus ∧
    (State.l2Drop s line).agenda = s.agenda ∧
    (∀ k, (State.l2Drop s line).wave k = s.wave k) ∧
    (∀ k, (State.l2Drop s line).block k = s.block k) ∧
    (∀ k, (State.l2Drop s line).launch k = s.launch k) ∧
    (∀ k, (State.l2Drop s line).core k = s.core k) := by
  (unfold State.l2Drop; (try dsimp only); (repeat' split) <;> simp -implicitDefEqProofs (disch := (intros; first | (simp -implicitDefEqProofs [*]; done) | ((try dsimp only); (repeat' split) <;> (simp -implicitDefEqProofs (disch := (intros; (try dsimp only); (repeat' split) <;> (try (simp -implicitDefEqProofs [*]; done)))) [*]; done)) | skip)) [State.wave, State.block, State.launch, State.core])
@[simp] theorem State.l2Touch_keeps (s : State) (line : Nat) (dirty : Bool) :
    (State.l2Touch s line dirty).waves = s.waves ∧
    (State.l2Touch s line dirty).blocks = s.blocks ∧
    (State.l2Touch s line dirty).launches = s.launches ∧
    (State.l2Touch s line dirty).cores = s.cores ∧
    (State.l2Touch s line dirty).mem = s.mem ∧
    (State.l2Touch s line dirty).hostMem = s.hostMem ∧
    (State.l2Touch s line dirty).peerMem = s.peerMem ∧
    (State.l2Touch s line dirty).registrant = s.registrant ∧
    (State.l2Touch s line dirty).claims = s.claims ∧
    (State.l2Touch s line dirty).cells = s.cells ∧
    (State.l2Touch s line dirty).regions = s.regions ∧
    (State.l2Touch s line dirty).rdc = s.rdc ∧
    (State.l2Touch s line dirty).tlb = s.tlb ∧
    (State.l2Touch s line dirty).accs = s.accs ∧
    (State.l2Touch s line dirty).net = s.net ∧
    (State.l2Touch s line dirty).abufs = s.abufs ∧
    (State.l2Touch s line dirty).jobs = s.jobs ∧
    (State.l2Touch s line dirty).feet = s.feet ∧
    (State.l2Touch s line dirty).shapes = s.shapes ∧
    (State.l2Touch s line dirty).eqs = s.eqs ∧
    (State.l2Touch s line dirty).insts = s.insts ∧
    (State.l2Touch s line dirty).links = s.links ∧
    (State.l2Touch s line dirty).hostAccs = s.hostAccs ∧
    (State.l2Touch s line dirty).hostLines = s.hostLines ∧
    (State.l2Touch s line dirty).mgmt = s.mgmt ∧
    (State.l2Touch s line dirty).focus = s.focus ∧
    (State.l2Touch s line dirty).agenda = s.agenda ∧
    (∀ k, (State.l2Touch s line dirty).wave k = s.wave k) ∧
    (∀ k, (State.l2Touch s line dirty).block k = s.block k) ∧
    (∀ k, (State.l2Touch s line dirty).launch k = s.launch k) ∧
    (∀ k, (State.l2Touch s line dirty).core k = s.core k) := by
  (unfold State.l2Touch; (try dsimp only); (repeat' split) <;> simp -implicitDefEqProofs (disch := (intros; first | (simp -implicitDefEqProofs [*]; done) | ((try dsimp only); (repeat' split) <;> (simp -implicitDefEqProofs (disch := (intros; (try dsimp only); (repeat' split) <;> (try (simp -implicitDefEqProofs [*]; done)))) [*]; done)) | skip)) [State.wave, State.block, State.launch, State.core])
@[simp] theorem State.afterServe_keeps (s : State) (line : Nat) :
    (State.afterServe s line).waves = s.waves ∧
    (State.afterServe s line).blocks = s.blocks ∧
    (State.afterServe s line).launches = s.launches ∧
    (State.afterServe s line).cores = s.cores ∧
    (State.afterServe s line).mem = s.mem ∧
    (State.afterServe s line).hostMem = s.hostMem ∧
    (State.afterServe s line).peerMem = s.peerMem ∧
    (State.afterServe s line).registrant = s.registrant ∧
    (State.afterServe s line).claims = s.claims ∧
    (State.afterServe s line).cells = s.cells ∧
    (State.afterServe s line).regions = s.regions ∧
    (State.afterServe s line).rdc = s.rdc ∧
    (State.afterServe s line).tlb = s.tlb ∧
    (State.afterServe s line).accs = s.accs ∧
    (State.afterServe s line).net = s.net ∧
    (State.afterServe s line).abufs = s.abufs ∧
    (State.afterServe s line).jobs = s.jobs ∧
    (State.afterServe s line).feet = s.feet ∧
    (State.afterServe s line).shapes = s.shapes ∧
    (State.afterServe s line).eqs = s.eqs ∧
    (State.afterServe s line).insts = s.insts ∧
    (State.afterServe s line).links = s.links ∧
    (State.afterServe s line).hostAccs = s.hostAccs ∧
    (State.afterServe s line).hostLines = s.hostLines ∧
    (State.afterServe s line).mgmt = s.mgmt ∧
    (State.afterServe s line).focus = s.focus ∧
    (State.afterServe s line).agenda = s.agenda ∧
    (∀ k, (State.afterServe s line).wave k = s.wave k) ∧
    (∀ k, (State.afterServe s line).block k = s.block k) ∧
    (∀ k, (State.afterServe s line).launch k = s.launch k) ∧
    (∀ k, (State.afterServe s line).core k = s.core k) := by
  (unfold State.afterServe; (try dsimp only); (repeat' split) <;> simp -implicitDefEqProofs (disch := (intros; first | (simp -implicitDefEqProofs [*]; done) | ((try dsimp only); (repeat' split) <;> (simp -implicitDefEqProofs (disch := (intros; (try dsimp only); (repeat' split) <;> (try (simp -implicitDefEqProofs [*]; done)))) [*]; done)) | skip)) [State.wave, State.block, State.launch, State.core])
@[simp] theorem State.upsetSector_keeps (s : State) (level : Nat) (unit : Nat) (sec : Nat) :
    (State.upsetSector s level unit sec).waves = s.waves ∧
    (State.upsetSector s level unit sec).blocks = s.blocks ∧
    (State.upsetSector s level unit sec).launches = s.launches ∧
    (State.upsetSector s level unit sec).mem = s.mem ∧
    (State.upsetSector s level unit sec).hostMem = s.hostMem ∧
    (State.upsetSector s level unit sec).peerMem = s.peerMem ∧
    (State.upsetSector s level unit sec).registrant = s.registrant ∧
    (State.upsetSector s level unit sec).claims = s.claims ∧
    (State.upsetSector s level unit sec).cells = s.cells ∧
    (State.upsetSector s level unit sec).regions = s.regions ∧
    (State.upsetSector s level unit sec).l2 = s.l2 ∧
    (State.upsetSector s level unit sec).tlb = s.tlb ∧
    (State.upsetSector s level unit sec).accs = s.accs ∧
    (State.upsetSector s level unit sec).net = s.net ∧
    (State.upsetSector s level unit sec).abufs = s.abufs ∧
    (State.upsetSector s level unit sec).jobs = s.jobs ∧
    (State.upsetSector s level unit sec).feet = s.feet ∧
    (State.upsetSector s level unit sec).shapes = s.shapes ∧
    (State.upsetSector s level unit sec).eqs = s.eqs ∧
    (State.upsetSector s level unit sec).insts = s.insts ∧
    (State.upsetSector s level unit sec).links = s.links ∧
    (State.upsetSector s level unit sec).hostAccs = s.hostAccs ∧
    (State.upsetSector s level unit sec).hostLines = s.hostLines ∧
    (State.upsetSector s level unit sec).mgmt = s.mgmt ∧
    (State.upsetSector s level unit sec).focus = s.focus ∧
    (State.upsetSector s level unit sec).agenda = s.agenda ∧
    (∀ k, (State.upsetSector s level unit sec).wave k = s.wave k) ∧
    (∀ k, (State.upsetSector s level unit sec).block k = s.block k) ∧
    (∀ k, (State.upsetSector s level unit sec).launch k = s.launch k) := by
  (unfold State.upsetSector; (try dsimp only); (repeat' split) <;> simp -implicitDefEqProofs (disch := (intros; first | (simp -implicitDefEqProofs [*]; done) | ((try dsimp only); (repeat' split) <;> (simp -implicitDefEqProofs (disch := (intros; (try dsimp only); (repeat' split) <;> (try (simp -implicitDefEqProofs [*]; done)))) [*]; done)) | skip)) [State.wave, State.block, State.launch, State.core])
@[simp] theorem State.countRead_keeps (s : State) (line : Nat) :
    (State.countRead s line).waves = s.waves ∧
    (State.countRead s line).blocks = s.blocks ∧
    (State.countRead s line).launches = s.launches ∧
    (State.countRead s line).cores = s.cores ∧
    (State.countRead s line).array = s.array ∧
    (State.countRead s line).hostMem = s.hostMem ∧
    (State.countRead s line).peerMem = s.peerMem ∧
    (State.countRead s line).registrant = s.registrant ∧
    (State.countRead s line).claims = s.claims ∧
    (State.countRead s line).cells = s.cells ∧
    (State.countRead s line).regions = s.regions ∧
    (State.countRead s line).rdc = s.rdc ∧
    (State.countRead s line).l2 = s.l2 ∧
    (State.countRead s line).hbms = s.hbms ∧
    (State.countRead s line).weak = s.weak ∧
    (State.countRead s line).lost = s.lost ∧
    (State.countRead s line).tlb = s.tlb ∧
    (State.countRead s line).accs = s.accs ∧
    (State.countRead s line).net = s.net ∧
    (State.countRead s line).abufs = s.abufs ∧
    (State.countRead s line).jobs = s.jobs ∧
    (State.countRead s line).feet = s.feet ∧
    (State.countRead s line).shapes = s.shapes ∧
    (State.countRead s line).eqs = s.eqs ∧
    (State.countRead s line).insts = s.insts ∧
    (State.countRead s line).links = s.links ∧
    (State.countRead s line).hostAccs = s.hostAccs ∧
    (State.countRead s line).hostLines = s.hostLines ∧
    (State.countRead s line).mgmt = s.mgmt ∧
    (State.countRead s line).focus = s.focus ∧
    (State.countRead s line).agenda = s.agenda ∧
    (State.countRead s line).seq = s.seq ∧
    (∀ k, (State.countRead s line).wave k = s.wave k) ∧
    (∀ k, (State.countRead s line).block k = s.block k) ∧
    (∀ k, (State.countRead s line).launch k = s.launch k) ∧
    (∀ k, (State.countRead s line).core k = s.core k) := by
  (unfold State.countRead; (try dsimp only); (repeat' split) <;> simp -implicitDefEqProofs (disch := (intros; first | (simp -implicitDefEqProofs [*]; done) | ((try dsimp only); (repeat' split) <;> (simp -implicitDefEqProofs (disch := (intros; (try dsimp only); (repeat' split) <;> (try (simp -implicitDefEqProofs [*]; done)))) [*]; done)) | skip)) [State.wave, State.block, State.launch, State.core])

@[simp] theorem State.bindPair_keeps (s : State) (p : Nat) (pair : Nat × Nat) :
    (State.bindPair s p pair).waves = s.waves ∧
    (State.bindPair s p pair).blocks = s.blocks ∧
    (State.bindPair s p pair).launches = s.launches ∧
    (State.bindPair s p pair).mem = s.mem ∧
    (State.bindPair s p pair).array = s.array ∧
    (State.bindPair s p pair).hostMem = s.hostMem ∧
    (State.bindPair s p pair).peerMem = s.peerMem ∧
    (State.bindPair s p pair).registrant = s.registrant ∧
    (State.bindPair s p pair).claims = s.claims ∧
    (State.bindPair s p pair).cells = s.cells ∧
    (State.bindPair s p pair).regions = s.regions ∧
    (State.bindPair s p pair).rdc = s.rdc ∧
    (State.bindPair s p pair).l2 = s.l2 ∧
    (State.bindPair s p pair).msc = s.msc ∧
    (State.bindPair s p pair).hbms = s.hbms ∧
    (State.bindPair s p pair).bad = s.bad ∧
    (State.bindPair s p pair).weak = s.weak ∧
    (State.bindPair s p pair).lost = s.lost ∧
    (State.bindPair s p pair).tlb = s.tlb ∧
    (State.bindPair s p pair).accs = s.accs ∧
    (State.bindPair s p pair).net = s.net ∧
    (State.bindPair s p pair).abufs = s.abufs ∧
    (State.bindPair s p pair).jobs = s.jobs ∧
    (State.bindPair s p pair).feet = s.feet ∧
    (State.bindPair s p pair).shapes = s.shapes ∧
    (State.bindPair s p pair).eqs = s.eqs ∧
    (State.bindPair s p pair).insts = s.insts ∧
    (State.bindPair s p pair).links = s.links ∧
    (State.bindPair s p pair).hostAccs = s.hostAccs ∧
    (State.bindPair s p pair).hostLines = s.hostLines ∧
    (State.bindPair s p pair).mgmt = s.mgmt ∧
    (State.bindPair s p pair).focus = s.focus ∧
    (State.bindPair s p pair).agenda = s.agenda ∧
    (State.bindPair s p pair).seq = s.seq ∧
    (∀ k, (State.bindPair s p pair).wave k = s.wave k) ∧
    (∀ k, (State.bindPair s p pair).block k = s.block k) ∧
    (∀ k, (State.bindPair s p pair).launch k = s.launch k) := by
  (unfold State.bindPair; (try dsimp only); (repeat' split) <;> simp -implicitDefEqProofs (disch := (intros; first | (simp -implicitDefEqProofs [*]; done) | ((try dsimp only); (repeat' split) <;> (simp -implicitDefEqProofs (disch := (intros; (try dsimp only); (repeat' split) <;> (try (simp -implicitDefEqProofs [*]; done)))) [*]; done)) | skip)) [State.wave, State.block, State.launch, State.core])
@[simp] theorem State.releasePair_keeps (s : State) (p : Nat) (pair : Nat × Nat) :
    (State.releasePair s p pair).waves = s.waves ∧
    (State.releasePair s p pair).blocks = s.blocks ∧
    (State.releasePair s p pair).launches = s.launches ∧
    (State.releasePair s p pair).array = s.array ∧
    (State.releasePair s p pair).hostMem = s.hostMem ∧
    (State.releasePair s p pair).peerMem = s.peerMem ∧
    (State.releasePair s p pair).registrant = s.registrant ∧
    (State.releasePair s p pair).claims = s.claims ∧
    (State.releasePair s p pair).cells = s.cells ∧
    (State.releasePair s p pair).regions = s.regions ∧
    (State.releasePair s p pair).rdc = s.rdc ∧
    (State.releasePair s p pair).l2 = s.l2 ∧
    (State.releasePair s p pair).msc = s.msc ∧
    (State.releasePair s p pair).hbms = s.hbms ∧
    (State.releasePair s p pair).bad = s.bad ∧
    (State.releasePair s p pair).weak = s.weak ∧
    (State.releasePair s p pair).lost = s.lost ∧
    (State.releasePair s p pair).tlb = s.tlb ∧
    (State.releasePair s p pair).accs = s.accs ∧
    (State.releasePair s p pair).net = s.net ∧
    (State.releasePair s p pair).abufs = s.abufs ∧
    (State.releasePair s p pair).jobs = s.jobs ∧
    (State.releasePair s p pair).feet = s.feet ∧
    (State.releasePair s p pair).shapes = s.shapes ∧
    (State.releasePair s p pair).eqs = s.eqs ∧
    (State.releasePair s p pair).insts = s.insts ∧
    (State.releasePair s p pair).links = s.links ∧
    (State.releasePair s p pair).hostAccs = s.hostAccs ∧
    (State.releasePair s p pair).hostLines = s.hostLines ∧
    (State.releasePair s p pair).mgmt = s.mgmt ∧
    (State.releasePair s p pair).focus = s.focus ∧
    (State.releasePair s p pair).agenda = s.agenda ∧
    (State.releasePair s p pair).seq = s.seq ∧
    (∀ k, (State.releasePair s p pair).wave k = s.wave k) ∧
    (∀ k, (State.releasePair s p pair).block k = s.block k) ∧
    (∀ k, (State.releasePair s p pair).launch k = s.launch k) := by
  (unfold State.releasePair; (try dsimp only); (repeat' split) <;> simp -implicitDefEqProofs (disch := (intros; first | (simp -implicitDefEqProofs [*]; done) | ((try dsimp only); (repeat' split) <;> (simp -implicitDefEqProofs (disch := (intros; (try dsimp only); (repeat' split) <;> (try (simp -implicitDefEqProofs [*]; done)))) [*]; done)) | skip)) [State.wave, State.block, State.launch, State.core])
end Sys2Proof.Machine
end

