-- ==== Sys2Proof/Laws/KeepsOrder.lean ====
section
/-! SUPPORT. What the ordering machine's shared operations leave unchanged. One lemma per operation, over the fields of State; a field that is not named may change. -/

set_option linter.unusedSimpArgs false

namespace Sys2Proof.Machine
open Sys2Proof
@[simp] theorem State.pullHost_keeps (s : State) (pa : Nat) (n : Nat) :
    (State.pullHost s pa n).waves = s.waves ∧
    (State.pullHost s pa n).blocks = s.blocks ∧
    (State.pullHost s pa n).launches = s.launches ∧
    (State.pullHost s pa n).cores = s.cores ∧
    (State.pullHost s pa n).hostMem = s.hostMem ∧
    (State.pullHost s pa n).peerMem = s.peerMem ∧
    (State.pullHost s pa n).registrant = s.registrant ∧
    (State.pullHost s pa n).claims = s.claims ∧
    (State.pullHost s pa n).cells = s.cells ∧
    (State.pullHost s pa n).regions = s.regions ∧
    (State.pullHost s pa n).rdc = s.rdc ∧
    (State.pullHost s pa n).tlb = s.tlb ∧
    (State.pullHost s pa n).accs = s.accs ∧
    (State.pullHost s pa n).net = s.net ∧
    (State.pullHost s pa n).abufs = s.abufs ∧
    (State.pullHost s pa n).jobs = s.jobs ∧
    (State.pullHost s pa n).feet = s.feet ∧
    (State.pullHost s pa n).shapes = s.shapes ∧
    (State.pullHost s pa n).eqs = s.eqs ∧
    (State.pullHost s pa n).insts = s.insts ∧
    (State.pullHost s pa n).links = s.links ∧
    (State.pullHost s pa n).hostAccs = s.hostAccs ∧
    (State.pullHost s pa n).mgmt = s.mgmt ∧
    (State.pullHost s pa n).focus = s.focus ∧
    (State.pullHost s pa n).agenda = s.agenda ∧
    (∀ k, (State.pullHost s pa n).wave k = s.wave k) ∧
    (∀ k, (State.pullHost s pa n).block k = s.block k) ∧
    (∀ k, (State.pullHost s pa n).launch k = s.launch k) ∧
    (∀ k, (State.pullHost s pa n).core k = s.core k) := by
  (unfold State.pullHost; (try dsimp only); (repeat' split) <;> simp -implicitDefEqProofs (disch := (intros; first | (simp -implicitDefEqProofs [*]; done) | ((try dsimp only); (repeat' split) <;> (simp -implicitDefEqProofs (disch := (intros; (try dsimp only); (repeat' split) <;> (try (simp -implicitDefEqProofs [*]; done)))) [*]; done)) | skip)) [State.wave, State.block, State.launch, State.core])
@[simp] theorem State.homePut_keeps (s : State) (pa : Nat) (d : List (Option Byte)) :
    (State.homePut s pa d).waves = s.waves ∧
    (State.homePut s pa d).blocks = s.blocks ∧
    (State.homePut s pa d).launches = s.launches ∧
    (State.homePut s pa d).cores = s.cores ∧
    (State.homePut s pa d).hostMem = s.hostMem ∧
    (State.homePut s pa d).peerMem = s.peerMem ∧
    (State.homePut s pa d).registrant = s.registrant ∧
    (State.homePut s pa d).claims = s.claims ∧
    (State.homePut s pa d).cells = s.cells ∧
    (State.homePut s pa d).regions = s.regions ∧
    (State.homePut s pa d).rdc = s.rdc ∧
    (State.homePut s pa d).tlb = s.tlb ∧
    (State.homePut s pa d).accs = s.accs ∧
    (State.homePut s pa d).net = s.net ∧
    (State.homePut s pa d).abufs = s.abufs ∧
    (State.homePut s pa d).jobs = s.jobs ∧
    (State.homePut s pa d).feet = s.feet ∧
    (State.homePut s pa d).shapes = s.shapes ∧
    (State.homePut s pa d).eqs = s.eqs ∧
    (State.homePut s pa d).insts = s.insts ∧
    (State.homePut s pa d).links = s.links ∧
    (State.homePut s pa d).hostAccs = s.hostAccs ∧
    (State.homePut s pa d).mgmt = s.mgmt ∧
    (State.homePut s pa d).focus = s.focus ∧
    (State.homePut s pa d).agenda = s.agenda ∧
    (∀ k, (State.homePut s pa d).wave k = s.wave k) ∧
    (∀ k, (State.homePut s pa d).block k = s.block k) ∧
    (∀ k, (State.homePut s pa d).launch k = s.launch k) ∧
    (∀ k, (State.homePut s pa d).core k = s.core k) := by
  (unfold State.homePut; (try dsimp only); (repeat' split) <;> simp -implicitDefEqProofs (disch := (intros; first | (simp -implicitDefEqProofs [*]; done) | ((try dsimp only); (repeat' split) <;> (simp -implicitDefEqProofs (disch := (intros; (try dsimp only); (repeat' split) <;> (try (simp -implicitDefEqProofs [*]; done)))) [*]; done)) | skip)) [State.wave, State.block, State.launch, State.core])
@[simp] theorem State.updCell_keeps (s : State) (addr : Nat) (f : Cell → Cell) :
    (State.updCell s addr f).waves = s.waves ∧
    (State.updCell s addr f).blocks = s.blocks ∧
    (State.updCell s addr f).launches = s.launches ∧
    (State.updCell s addr f).cores = s.cores ∧
    (State.updCell s addr f).mem = s.mem ∧
    (State.updCell s addr f).array = s.array ∧
    (State.updCell s addr f).hostMem = s.hostMem ∧
    (State.updCell s addr f).peerMem = s.peerMem ∧
    (State.updCell s addr f).registrant = s.registrant ∧
    (State.updCell s addr f).claims = s.claims ∧
    (State.updCell s addr f).regions = s.regions ∧
    (State.updCell s addr f).rdc = s.rdc ∧
    (State.updCell s addr f).l2 = s.l2 ∧
    (State.updCell s addr f).msc = s.msc ∧
    (State.updCell s addr f).hbms = s.hbms ∧
    (State.updCell s addr f).bad = s.bad ∧
    (State.updCell s addr f).weak = s.weak ∧
    (State.updCell s addr f).lost = s.lost ∧
    (State.updCell s addr f).tlb = s.tlb ∧
    (State.updCell s addr f).accs = s.accs ∧
    (State.updCell s addr f).net = s.net ∧
    (State.updCell s addr f).abufs = s.abufs ∧
    (State.updCell s addr f).jobs = s.jobs ∧
    (State.updCell s addr f).feet = s.feet ∧
    (State.updCell s addr f).shapes = s.shapes ∧
    (State.updCell s addr f).eqs = s.eqs ∧
    (State.updCell s addr f).insts = s.insts ∧
    (State.updCell s addr f).links = s.links ∧
    (State.updCell s addr f).hostAccs = s.hostAccs ∧
    (State.updCell s addr f).hostLines = s.hostLines ∧
    (State.updCell s addr f).mgmt = s.mgmt ∧
    (State.updCell s addr f).focus = s.focus ∧
    (State.updCell s addr f).agenda = s.agenda ∧
    (State.updCell s addr f).seq = s.seq ∧
    (∀ k, (State.updCell s addr f).wave k = s.wave k) ∧
    (∀ k, (State.updCell s addr f).block k = s.block k) ∧
    (∀ k, (State.updCell s addr f).launch k = s.launch k) ∧
    (∀ k, (State.updCell s addr f).core k = s.core k) := by
  (unfold State.updCell; (try dsimp only); (repeat' split) <;> simp -implicitDefEqProofs (disch := (intros; first | (simp -implicitDefEqProofs [*]; done) | ((try dsimp only); (repeat' split) <;> (simp -implicitDefEqProofs (disch := (intros; (try dsimp only); (repeat' split) <;> (try (simp -implicitDefEqProofs [*]; done)))) [*]; done)) | skip)) [State.wave, State.block, State.launch, State.core])
@[simp] theorem State.combineAt_keeps (s : State) (pa : Nat) (op : AredOp) (sg : Bool) (d : Word) :
    (State.combineAt s pa op sg d).waves = s.waves ∧
    (State.combineAt s pa op sg d).blocks = s.blocks ∧
    (State.combineAt s pa op sg d).launches = s.launches ∧
    (State.combineAt s pa op sg d).cores = s.cores ∧
    (State.combineAt s pa op sg d).hostMem = s.hostMem ∧
    (State.combineAt s pa op sg d).peerMem = s.peerMem ∧
    (State.combineAt s pa op sg d).registrant = s.registrant ∧
    (State.combineAt s pa op sg d).claims = s.claims ∧
    (State.combineAt s pa op sg d).regions = s.regions ∧
    (State.combineAt s pa op sg d).rdc = s.rdc ∧
    (State.combineAt s pa op sg d).tlb = s.tlb ∧
    (State.combineAt s pa op sg d).accs = s.accs ∧
    (State.combineAt s pa op sg d).net = s.net ∧
    (State.combineAt s pa op sg d).abufs = s.abufs ∧
    (State.combineAt s pa op sg d).jobs = s.jobs ∧
    (State.combineAt s pa op sg d).feet = s.feet ∧
    (State.combineAt s pa op sg d).shapes = s.shapes ∧
    (State.combineAt s pa op sg d).eqs = s.eqs ∧
    (State.combineAt s pa op sg d).insts = s.insts ∧
    (State.combineAt s pa op sg d).links = s.links ∧
    (State.combineAt s pa op sg d).hostAccs = s.hostAccs ∧
    (State.combineAt s pa op sg d).mgmt = s.mgmt ∧
    (State.combineAt s pa op sg d).focus = s.focus ∧
    (State.combineAt s pa op sg d).agenda = s.agenda ∧
    (∀ k, (State.combineAt s pa op sg d).wave k = s.wave k) ∧
    (∀ k, (State.combineAt s pa op sg d).block k = s.block k) ∧
    (∀ k, (State.combineAt s pa op sg d).launch k = s.launch k) ∧
    (∀ k, (State.combineAt s pa op sg d).core k = s.core k) := by
  (unfold State.combineAt; (try dsimp only); (repeat' split) <;> simp -implicitDefEqProofs (disch := (intros; first | (simp -implicitDefEqProofs [*]; done) | ((try dsimp only); (repeat' split) <;> (simp -implicitDefEqProofs (disch := (intros; (try dsimp only); (repeat' split) <;> (try (simp -implicitDefEqProofs [*]; done)))) [*]; done)) | skip)) [State.wave, State.block, State.launch, State.core])
@[simp] theorem State.mapWord_keeps (s : State) (word : Nat) (f : Nat → L1Word → L1Word) :
    (State.mapWord s word f).waves = s.waves ∧
    (State.mapWord s word f).blocks = s.blocks ∧
    (State.mapWord s word f).launches = s.launches ∧
    (State.mapWord s word f).mem = s.mem ∧
    (State.mapWord s word f).array = s.array ∧
    (State.mapWord s word f).hostMem = s.hostMem ∧
    (State.mapWord s word f).peerMem = s.peerMem ∧
    (State.mapWord s word f).registrant = s.registrant ∧
    (State.mapWord s word f).claims = s.claims ∧
    (State.mapWord s word f).cells = s.cells ∧
    (State.mapWord s word f).regions = s.regions ∧
    (State.mapWord s word f).rdc = s.rdc ∧
    (State.mapWord s word f).l2 = s.l2 ∧
    (State.mapWord s word f).msc = s.msc ∧
    (State.mapWord s word f).hbms = s.hbms ∧
    (State.mapWord s word f).bad = s.bad ∧
    (State.mapWord s word f).weak = s.weak ∧
    (State.mapWord s word f).lost = s.lost ∧
    (State.mapWord s word f).tlb = s.tlb ∧
    (State.mapWord s word f).accs = s.accs ∧
    (State.mapWord s word f).net = s.net ∧
    (State.mapWord s word f).abufs = s.abufs ∧
    (State.mapWord s word f).jobs = s.jobs ∧
    (State.mapWord s word f).feet = s.feet ∧
    (State.mapWord s word f).shapes = s.shapes ∧
    (State.mapWord s word f).eqs = s.eqs ∧
    (State.mapWord s word f).insts = s.insts ∧
    (State.mapWord s word f).links = s.links ∧
    (State.mapWord s word f).hostAccs = s.hostAccs ∧
    (State.mapWord s word f).hostLines = s.hostLines ∧
    (State.mapWord s word f).mgmt = s.mgmt ∧
    (State.mapWord s word f).focus = s.focus ∧
    (State.mapWord s word f).agenda = s.agenda ∧
    (State.mapWord s word f).seq = s.seq ∧
    (∀ k, (State.mapWord s word f).wave k = s.wave k) ∧
    (∀ k, (State.mapWord s word f).block k = s.block k) ∧
    (∀ k, (State.mapWord s word f).launch k = s.launch k) := by
  (unfold State.mapWord; (try dsimp only); (repeat' split) <;> simp -implicitDefEqProofs (disch := (intros; first | (simp -implicitDefEqProofs [*]; done) | ((try dsimp only); (repeat' split) <;> (simp -implicitDefEqProofs (disch := (intros; (try dsimp only); (repeat' split) <;> (try (simp -implicitDefEqProofs [*]; done)))) [*]; done)) | skip)) [State.wave, State.block, State.launch, State.core])
@[simp] theorem State.recallU_keeps (s : State) (word : Nat) :
    (State.recallU s word).waves = s.waves ∧
    (State.recallU s word).blocks = s.blocks ∧
    (State.recallU s word).launches = s.launches ∧
    (State.recallU s word).hostMem = s.hostMem ∧
    (State.recallU s word).peerMem = s.peerMem ∧
    (State.recallU s word).registrant = s.registrant ∧
    (State.recallU s word).claims = s.claims ∧
    (State.recallU s word).regions = s.regions ∧
    (State.recallU s word).rdc = s.rdc ∧
    (State.recallU s word).tlb = s.tlb ∧
    (State.recallU s word).accs = s.accs ∧
    (State.recallU s word).net = s.net ∧
    (State.recallU s word).abufs = s.abufs ∧
    (State.recallU s word).jobs = s.jobs ∧
    (State.recallU s word).feet = s.feet ∧
    (State.recallU s word).shapes = s.shapes ∧
    (State.recallU s word).eqs = s.eqs ∧
    (State.recallU s word).insts = s.insts ∧
    (State.recallU s word).links = s.links ∧
    (State.recallU s word).hostAccs = s.hostAccs ∧
    (State.recallU s word).mgmt = s.mgmt ∧
    (State.recallU s word).focus = s.focus ∧
    (State.recallU s word).agenda = s.agenda ∧
    (∀ k, (State.recallU s word).wave k = s.wave k) ∧
    (∀ k, (State.recallU s word).block k = s.block k) ∧
    (∀ k, (State.recallU s word).launch k = s.launch k) := by
  (unfold State.recallU; (try dsimp only); (repeat' split) <;> simp -implicitDefEqProofs (disch := (intros; first | (simp -implicitDefEqProofs [*]; done) | ((try dsimp only); (repeat' split) <;> (simp -implicitDefEqProofs (disch := (intros; (try dsimp only); (repeat' split) <;> (try (simp -implicitDefEqProofs [*]; done)))) [*]; done)) | skip)) [State.wave, State.block, State.launch, State.core])
@[simp] theorem State.recallRange_keeps (s : State) (pa : Nat) (n : Nat) :
    (State.recallRange s pa n).waves = s.waves ∧
    (State.recallRange s pa n).blocks = s.blocks ∧
    (State.recallRange s pa n).launches = s.launches ∧
    (State.recallRange s pa n).hostMem = s.hostMem ∧
    (State.recallRange s pa n).peerMem = s.peerMem ∧
    (State.recallRange s pa n).registrant = s.registrant ∧
    (State.recallRange s pa n).claims = s.claims ∧
    (State.recallRange s pa n).regions = s.regions ∧
    (State.recallRange s pa n).rdc = s.rdc ∧
    (State.recallRange s pa n).tlb = s.tlb ∧
    (State.recallRange s pa n).accs = s.accs ∧
    (State.recallRange s pa n).net = s.net ∧
    (State.recallRange s pa n).abufs = s.abufs ∧
    (State.recallRange s pa n).jobs = s.jobs ∧
    (State.recallRange s pa n).feet = s.feet ∧
    (State.recallRange s pa n).shapes = s.shapes ∧
    (State.recallRange s pa n).eqs = s.eqs ∧
    (State.recallRange s pa n).insts = s.insts ∧
    (State.recallRange s pa n).links = s.links ∧
    (State.recallRange s pa n).hostAccs = s.hostAccs ∧
    (State.recallRange s pa n).mgmt = s.mgmt ∧
    (State.recallRange s pa n).focus = s.focus ∧
    (State.recallRange s pa n).agenda = s.agenda ∧
    (∀ k, (State.recallRange s pa n).wave k = s.wave k) ∧
    (∀ k, (State.recallRange s pa n).block k = s.block k) ∧
    (∀ k, (State.recallRange s pa n).launch k = s.launch k) := by
  (unfold State.recallRange; (try dsimp only); (repeat' split) <;> simp -implicitDefEqProofs (disch := (intros; first | (simp -implicitDefEqProofs [*]; done) | ((try dsimp only); (repeat' split) <;> (simp -implicitDefEqProofs (disch := (intros; (try dsimp only); (repeat' split) <;> (try (simp -implicitDefEqProofs [*]; done)))) [*]; done)) | skip)) [State.wave, State.block, State.launch, State.core])
@[simp] theorem State.dropG_keeps (s : State) (word : Nat) (keep : Option Nat) :
    (State.dropG s word keep).waves = s.waves ∧
    (State.dropG s word keep).blocks = s.blocks ∧
    (State.dropG s word keep).launches = s.launches ∧
    (State.dropG s word keep).mem = s.mem ∧
    (State.dropG s word keep).array = s.array ∧
    (State.dropG s word keep).hostMem = s.hostMem ∧
    (State.dropG s word keep).peerMem = s.peerMem ∧
    (State.dropG s word keep).claims = s.claims ∧
    (State.dropG s word keep).cells = s.cells ∧
    (State.dropG s word keep).regions = s.regions ∧
    (State.dropG s word keep).rdc = s.rdc ∧
    (State.dropG s word keep).l2 = s.l2 ∧
    (State.dropG s word keep).msc = s.msc ∧
    (State.dropG s word keep).hbms = s.hbms ∧
    (State.dropG s word keep).bad = s.bad ∧
    (State.dropG s word keep).weak = s.weak ∧
    (State.dropG s word keep).lost = s.lost ∧
    (State.dropG s word keep).tlb = s.tlb ∧
    (State.dropG s word keep).accs = s.accs ∧
    (State.dropG s word keep).net = s.net ∧
    (State.dropG s word keep).abufs = s.abufs ∧
    (State.dropG s word keep).jobs = s.jobs ∧
    (State.dropG s word keep).feet = s.feet ∧
    (State.dropG s word keep).shapes = s.shapes ∧
    (State.dropG s word keep).eqs = s.eqs ∧
    (State.dropG s word keep).insts = s.insts ∧
    (State.dropG s word keep).links = s.links ∧
    (State.dropG s word keep).hostAccs = s.hostAccs ∧
    (State.dropG s word keep).hostLines = s.hostLines ∧
    (State.dropG s word keep).mgmt = s.mgmt ∧
    (State.dropG s word keep).focus = s.focus ∧
    (State.dropG s word keep).agenda = s.agenda ∧
    (State.dropG s word keep).seq = s.seq ∧
    (∀ k, (State.dropG s word keep).wave k = s.wave k) ∧
    (∀ k, (State.dropG s word keep).block k = s.block k) ∧
    (∀ k, (State.dropG s word keep).launch k = s.launch k) := by
  (unfold State.dropG; (try dsimp only); (repeat' split) <;> simp -implicitDefEqProofs (disch := (intros; first | (simp -implicitDefEqProofs [*]; done) | ((try dsimp only); (repeat' split) <;> (simp -implicitDefEqProofs (disch := (intros; (try dsimp only); (repeat' split) <;> (try (simp -implicitDefEqProofs [*]; done)))) [*]; done)) | skip)) [State.wave, State.block, State.launch, State.core])
@[simp] theorem State.dropRdc_keeps (s : State) (line : Nat) (keep : Option Nat) :
    (State.dropRdc s line keep).waves = s.waves ∧
    (State.dropRdc s line keep).blocks = s.blocks ∧
    (State.dropRdc s line keep).launches = s.launches ∧
    (State.dropRdc s line keep).cores = s.cores ∧
    (State.dropRdc s line keep).mem = s.mem ∧
    (State.dropRdc s line keep).array = s.array ∧
    (State.dropRdc s line keep).hostMem = s.hostMem ∧
    (State.dropRdc s line keep).peerMem = s.peerMem ∧
    (State.dropRdc s line keep).registrant = s.registrant ∧
    (State.dropRdc s line keep).claims = s.claims ∧
    (State.dropRdc s line keep).cells = s.cells ∧
    (State.dropRdc s line keep).regions = s.regions ∧
    (State.dropRdc s line keep).l2 = s.l2 ∧
    (State.dropRdc s line keep).msc = s.msc ∧
    (State.dropRdc s line keep).hbms = s.hbms ∧
    (State.dropRdc s line keep).bad = s.bad ∧
    (State.dropRdc s line keep).weak = s.weak ∧
    (State.dropRdc s line keep).lost = s.lost ∧
    (State.dropRdc s line keep).tlb = s.tlb ∧
    (State.dropRdc s line keep).accs = s.accs ∧
    (State.dropRdc s line keep).net = s.net ∧
    (State.dropRdc s line keep).abufs = s.abufs ∧
    (State.dropRdc s line keep).jobs = s.jobs ∧
    (State.dropRdc s line keep).feet = s.feet ∧
    (State.dropRdc s line keep).shapes = s.shapes ∧
    (State.dropRdc s line keep).eqs = s.eqs ∧
    (State.dropRdc s line keep).insts = s.insts ∧
    (State.dropRdc s line keep).links = s.links ∧
    (State.dropRdc s line keep).hostAccs = s.hostAccs ∧
    (State.dropRdc s line keep).hostLines = s.hostLines ∧
    (State.dropRdc s line keep).mgmt = s.mgmt ∧
    (State.dropRdc s line keep).focus = s.focus ∧
    (State.dropRdc s line keep).agenda = s.agenda ∧
    (State.dropRdc s line keep).seq = s.seq ∧
    (∀ k, (State.dropRdc s line keep).wave k = s.wave k) ∧
    (∀ k, (State.dropRdc s line keep).block k = s.block k) ∧
    (∀ k, (State.dropRdc s line keep).launch k = s.launch k) ∧
    (∀ k, (State.dropRdc s line keep).core k = s.core k) := by
  (unfold State.dropRdc; (try dsimp only); (repeat' split) <;> simp -implicitDefEqProofs (disch := (intros; first | (simp -implicitDefEqProofs [*]; done) | ((try dsimp only); (repeat' split) <;> (simp -implicitDefEqProofs (disch := (intros; (try dsimp only); (repeat' split) <;> (try (simp -implicitDefEqProofs [*]; done)))) [*]; done)) | skip)) [State.wave, State.block, State.launch, State.core])
@[simp] theorem State.agentWrite_keeps (s : State) (pa : Nat) (d : List (Option Byte)) :
    (State.agentWrite s pa d).waves = s.waves ∧
    (State.agentWrite s pa d).blocks = s.blocks ∧
    (State.agentWrite s pa d).launches = s.launches ∧
    (State.agentWrite s pa d).hostMem = s.hostMem ∧
    (State.agentWrite s pa d).peerMem = s.peerMem ∧
    (State.agentWrite s pa d).claims = s.claims ∧
    (State.agentWrite s pa d).regions = s.regions ∧
    (State.agentWrite s pa d).tlb = s.tlb ∧
    (State.agentWrite s pa d).accs = s.accs ∧
    (State.agentWrite s pa d).net = s.net ∧
    (State.agentWrite s pa d).abufs = s.abufs ∧
    (State.agentWrite s pa d).jobs = s.jobs ∧
    (State.agentWrite s pa d).feet = s.feet ∧
    (State.agentWrite s pa d).shapes = s.shapes ∧
    (State.agentWrite s pa d).eqs = s.eqs ∧
    (State.agentWrite s pa d).insts = s.insts ∧
    (State.agentWrite s pa d).links = s.links ∧
    (State.agentWrite s pa d).hostAccs = s.hostAccs ∧
    (State.agentWrite s pa d).mgmt = s.mgmt ∧
    (State.agentWrite s pa d).focus = s.focus ∧
    (State.agentWrite s pa d).agenda = s.agenda ∧
    (∀ k, (State.agentWrite s pa d).wave k = s.wave k) ∧
    (∀ k, (State.agentWrite s pa d).block k = s.block k) ∧
    (∀ k, (State.agentWrite s pa d).launch k = s.launch k) := by
  (unfold State.agentWrite; (try dsimp only); (repeat' split) <;> simp -implicitDefEqProofs (disch := (intros; first | (simp -implicitDefEqProofs [*]; done) | ((try dsimp only); (repeat' split) <;> (simp -implicitDefEqProofs (disch := (intros; (try dsimp only); (repeat' split) <;> (try (simp -implicitDefEqProofs [*]; done)))) [*]; done)) | skip)) [State.wave, State.block, State.launch, State.core])
@[simp] theorem State.evictL1_keeps (s : State) (p : Nat) (pline : Nat) (pred : L1Line → Bool) :
    (State.evictL1 s p pline pred).waves = s.waves ∧
    (State.evictL1 s p pline pred).blocks = s.blocks ∧
    (State.evictL1 s p pline pred).launches = s.launches ∧
    (State.evictL1 s p pline pred).hostMem = s.hostMem ∧
    (State.evictL1 s p pline pred).peerMem = s.peerMem ∧
    (State.evictL1 s p pline pred).claims = s.claims ∧
    (State.evictL1 s p pline pred).regions = s.regions ∧
    (State.evictL1 s p pline pred).rdc = s.rdc ∧
    (State.evictL1 s p pline pred).tlb = s.tlb ∧
    (State.evictL1 s p pline pred).accs = s.accs ∧
    (State.evictL1 s p pline pred).net = s.net ∧
    (State.evictL1 s p pline pred).abufs = s.abufs ∧
    (State.evictL1 s p pline pred).jobs = s.jobs ∧
    (State.evictL1 s p pline pred).feet = s.feet ∧
    (State.evictL1 s p pline pred).shapes = s.shapes ∧
    (State.evictL1 s p pline pred).eqs = s.eqs ∧
    (State.evictL1 s p pline pred).insts = s.insts ∧
    (State.evictL1 s p pline pred).links = s.links ∧
    (State.evictL1 s p pline pred).hostAccs = s.hostAccs ∧
    (State.evictL1 s p pline pred).mgmt = s.mgmt ∧
    (State.evictL1 s p pline pred).focus = s.focus ∧
    (State.evictL1 s p pline pred).agenda = s.agenda ∧
    (∀ k, (State.evictL1 s p pline pred).wave k = s.wave k) ∧
    (∀ k, (State.evictL1 s p pline pred).block k = s.block k) ∧
    (∀ k, (State.evictL1 s p pline pred).launch k = s.launch k) := by
  (unfold State.evictL1; (try dsimp only); (repeat' split) <;> simp -implicitDefEqProofs (disch := (intros; first | (simp -implicitDefEqProofs [*]; done) | ((try dsimp only); (repeat' split) <;> (simp -implicitDefEqProofs (disch := (intros; (try dsimp only); (repeat' split) <;> (try (simp -implicitDefEqProofs [*]; done)))) [*]; done)) | skip)) [State.wave, State.block, State.launch, State.core])
@[simp] theorem State.evictAll_keeps (s : State) (pred : Nat → L1Line → Bool) :
    (State.evictAll s pred).waves = s.waves ∧
    (State.evictAll s pred).blocks = s.blocks ∧
    (State.evictAll s pred).launches = s.launches ∧
    (State.evictAll s pred).hostMem = s.hostMem ∧
    (State.evictAll s pred).peerMem = s.peerMem ∧
    (State.evictAll s pred).claims = s.claims ∧
    (State.evictAll s pred).regions = s.regions ∧
    (State.evictAll s pred).rdc = s.rdc ∧
    (State.evictAll s pred).tlb = s.tlb ∧
    (State.evictAll s pred).accs = s.accs ∧
    (State.evictAll s pred).net = s.net ∧
    (State.evictAll s pred).abufs = s.abufs ∧
    (State.evictAll s pred).jobs = s.jobs ∧
    (State.evictAll s pred).feet = s.feet ∧
    (State.evictAll s pred).shapes = s.shapes ∧
    (State.evictAll s pred).eqs = s.eqs ∧
    (State.evictAll s pred).insts = s.insts ∧
    (State.evictAll s pred).links = s.links ∧
    (State.evictAll s pred).hostAccs = s.hostAccs ∧
    (State.evictAll s pred).mgmt = s.mgmt ∧
    (State.evictAll s pred).focus = s.focus ∧
    (State.evictAll s pred).agenda = s.agenda ∧
    (∀ k, (State.evictAll s pred).wave k = s.wave k) ∧
    (∀ k, (State.evictAll s pred).block k = s.block k) ∧
    (∀ k, (State.evictAll s pred).launch k = s.launch k) := by
  (unfold State.evictAll; (try dsimp only); (repeat' split) <;> simp -implicitDefEqProofs (disch := (intros; first | (simp -implicitDefEqProofs [*]; done) | ((try dsimp only); (repeat' split) <;> (simp -implicitDefEqProofs (disch := (intros; (try dsimp only); (repeat' split) <;> (try (simp -implicitDefEqProofs [*]; done)))) [*]; done)) | skip)) [State.wave, State.block, State.launch, State.core])
@[simp] theorem State.delMsg_keeps (s : State) (id : Nat) :
    (State.delMsg s id).waves = s.waves ∧
    (State.delMsg s id).blocks = s.blocks ∧
    (State.delMsg s id).launches = s.launches ∧
    (State.delMsg s id).cores = s.cores ∧
    (State.delMsg s id).mem = s.mem ∧
    (State.delMsg s id).array = s.array ∧
    (State.delMsg s id).hostMem = s.hostMem ∧
    (State.delMsg s id).peerMem = s.peerMem ∧
    (State.delMsg s id).registrant = s.registrant ∧
    (State.delMsg s id).claims = s.claims ∧
    (State.delMsg s id).cells = s.cells ∧
    (State.delMsg s id).regions = s.regions ∧
    (State.delMsg s id).rdc = s.rdc ∧
    (State.delMsg s id).l2 = s.l2 ∧
    (State.delMsg s id).msc = s.msc ∧
    (State.delMsg s id).hbms = s.hbms ∧
    (State.delMsg s id).bad = s.bad ∧
    (State.delMsg s id).weak = s.weak ∧
    (State.delMsg s id).lost = s.lost ∧
    (State.delMsg s id).tlb = s.tlb ∧
    (State.delMsg s id).accs = s.accs ∧
    (State.delMsg s id).abufs = s.abufs ∧
    (State.delMsg s id).jobs = s.jobs ∧
    (State.delMsg s id).feet = s.feet ∧
    (State.delMsg s id).shapes = s.shapes ∧
    (State.delMsg s id).eqs = s.eqs ∧
    (State.delMsg s id).insts = s.insts ∧
    (State.delMsg s id).links = s.links ∧
    (State.delMsg s id).hostAccs = s.hostAccs ∧
    (State.delMsg s id).hostLines = s.hostLines ∧
    (State.delMsg s id).mgmt = s.mgmt ∧
    (State.delMsg s id).focus = s.focus ∧
    (State.delMsg s id).agenda = s.agenda ∧
    (State.delMsg s id).seq = s.seq ∧
    (∀ k, (State.delMsg s id).wave k = s.wave k) ∧
    (∀ k, (State.delMsg s id).block k = s.block k) ∧
    (∀ k, (State.delMsg s id).launch k = s.launch k) ∧
    (∀ k, (State.delMsg s id).core k = s.core k) := by
  (unfold State.delMsg; (try dsimp only); (repeat' split) <;> simp -implicitDefEqProofs (disch := (intros; first | (simp -implicitDefEqProofs [*]; done) | ((try dsimp only); (repeat' split) <;> (simp -implicitDefEqProofs (disch := (intros; (try dsimp only); (repeat' split) <;> (try (simp -implicitDefEqProofs [*]; done)))) [*]; done)) | skip)) [State.wave, State.block, State.launch, State.core])
@[simp] theorem State.park_keeps (s : State) (id : Nat) :
    (State.park s id).waves = s.waves ∧
    (State.park s id).blocks = s.blocks ∧
    (State.park s id).launches = s.launches ∧
    (State.park s id).cores = s.cores ∧
    (State.park s id).mem = s.mem ∧
    (State.park s id).array = s.array ∧
    (State.park s id).hostMem = s.hostMem ∧
    (State.park s id).peerMem = s.peerMem ∧
    (State.park s id).registrant = s.registrant ∧
    (State.park s id).claims = s.claims ∧
    (State.park s id).cells = s.cells ∧
    (State.park s id).regions = s.regions ∧
    (State.park s id).rdc = s.rdc ∧
    (State.park s id).l2 = s.l2 ∧
    (State.park s id).msc = s.msc ∧
    (State.park s id).hbms = s.hbms ∧
    (State.park s id).bad = s.bad ∧
    (State.park s id).weak = s.weak ∧
    (State.park s id).lost = s.lost ∧
    (State.park s id).tlb = s.tlb ∧
    (State.park s id).accs = s.accs ∧
    (State.park s id).abufs = s.abufs ∧
    (State.park s id).jobs = s.jobs ∧
    (State.park s id).feet = s.feet ∧
    (State.park s id).shapes = s.shapes ∧
    (State.park s id).eqs = s.eqs ∧
    (State.park s id).insts = s.insts ∧
    (State.park s id).links = s.links ∧
    (State.park s id).hostAccs = s.hostAccs ∧
    (State.park s id).hostLines = s.hostLines ∧
    (State.park s id).mgmt = s.mgmt ∧
    (State.park s id).focus = s.focus ∧
    (State.park s id).agenda = s.agenda ∧
    (State.park s id).seq = s.seq ∧
    (∀ k, (State.park s id).wave k = s.wave k) ∧
    (∀ k, (State.park s id).block k = s.block k) ∧
    (∀ k, (State.park s id).launch k = s.launch k) ∧
    (∀ k, (State.park s id).core k = s.core k) := by
  (unfold State.park; (try dsimp only); (repeat' split) <;> simp -implicitDefEqProofs (disch := (intros; first | (simp -implicitDefEqProofs [*]; done) | ((try dsimp only); (repeat' split) <;> (simp -implicitDefEqProofs (disch := (intros; (try dsimp only); (repeat' split) <;> (try (simp -implicitDefEqProofs [*]; done)))) [*]; done)) | skip)) [State.wave, State.block, State.launch, State.core])
@[simp] theorem State.sendFlit_keeps (s : State) (k : Nat) (ty : Nat) (req : Option (DWord × Nat × Nat)) (err : Bool) (payload : List Byte) :
    (State.sendFlit s k ty req err payload).waves = s.waves ∧
    (State.sendFlit s k ty req err payload).blocks = s.blocks ∧
    (State.sendFlit s k ty req err payload).launches = s.launches ∧
    (State.sendFlit s k ty req err payload).cores = s.cores ∧
    (State.sendFlit s k ty req err payload).mem = s.mem ∧
    (State.sendFlit s k ty req err payload).array = s.array ∧
    (State.sendFlit s k ty req err payload).hostMem = s.hostMem ∧
    (State.sendFlit s k ty req err payload).peerMem = s.peerMem ∧
    (State.sendFlit s k ty req err payload).registrant = s.registrant ∧
    (State.sendFlit s k ty req err payload).claims = s.claims ∧
    (State.sendFlit s k ty req err payload).cells = s.cells ∧
    (State.sendFlit s k ty req err payload).regions = s.regions ∧
    (State.sendFlit s k ty req err payload).rdc = s.rdc ∧
    (State.sendFlit s k ty req err payload).l2 = s.l2 ∧
    (State.sendFlit s k ty req err payload).msc = s.msc ∧
    (State.sendFlit s k ty req err payload).hbms = s.hbms ∧
    (State.sendFlit s k ty req err payload).bad = s.bad ∧
    (State.sendFlit s k ty req err payload).weak = s.weak ∧
    (State.sendFlit s k ty req err payload).lost = s.lost ∧
    (State.sendFlit s k ty req err payload).tlb = s.tlb ∧
    (State.sendFlit s k ty req err payload).accs = s.accs ∧
    (State.sendFlit s k ty req err payload).net = s.net ∧
    (State.sendFlit s k ty req err payload).abufs = s.abufs ∧
    (State.sendFlit s k ty req err payload).jobs = s.jobs ∧
    (State.sendFlit s k ty req err payload).feet = s.feet ∧
    (State.sendFlit s k ty req err payload).shapes = s.shapes ∧
    (State.sendFlit s k ty req err payload).eqs = s.eqs ∧
    (State.sendFlit s k ty req err payload).insts = s.insts ∧
    (State.sendFlit s k ty req err payload).hostAccs = s.hostAccs ∧
    (State.sendFlit s k ty req err payload).hostLines = s.hostLines ∧
    (State.sendFlit s k ty req err payload).mgmt = s.mgmt ∧
    (State.sendFlit s k ty req err payload).focus = s.focus ∧
    (State.sendFlit s k ty req err payload).agenda = s.agenda ∧
    (State.sendFlit s k ty req err payload).seq = s.seq ∧
    (∀ k, (State.sendFlit s k ty req err payload).wave k = s.wave k) ∧
    (∀ k, (State.sendFlit s k ty req err payload).block k = s.block k) ∧
    (∀ k, (State.sendFlit s k ty req err payload).launch k = s.launch k) ∧
    (∀ k, (State.sendFlit s k ty req err payload).core k = s.core k) := by
  (unfold State.sendFlit; (try dsimp only); (repeat' split) <;> simp -implicitDefEqProofs (disch := (intros; first | (simp -implicitDefEqProofs [*]; done) | ((try dsimp only); (repeat' split) <;> (simp -implicitDefEqProofs (disch := (intros; (try dsimp only); (repeat' split) <;> (try (simp -implicitDefEqProofs [*]; done)))) [*]; done)) | skip)) [State.wave, State.block, State.launch, State.core])
@[simp] theorem State.sendRequest_keeps (s : State) (dev : Nat) (asid : Nat) (va : DWord) :
    (State.sendRequest s dev asid va).waves = s.waves ∧
    (State.sendRequest s dev asid va).blocks = s.blocks ∧
    (State.sendRequest s dev asid va).launches = s.launches ∧
    (State.sendRequest s dev asid va).cores = s.cores ∧
    (State.sendRequest s dev asid va).mem = s.mem ∧
    (State.sendRequest s dev asid va).array = s.array ∧
    (State.sendRequest s dev asid va).hostMem = s.hostMem ∧
    (State.sendRequest s dev asid va).peerMem = s.peerMem ∧
    (State.sendRequest s dev asid va).registrant = s.registrant ∧
    (State.sendRequest s dev asid va).claims = s.claims ∧
    (State.sendRequest s dev asid va).cells = s.cells ∧
    (State.sendRequest s dev asid va).regions = s.regions ∧
    (State.sendRequest s dev asid va).rdc = s.rdc ∧
    (State.sendRequest s dev asid va).l2 = s.l2 ∧
    (State.sendRequest s dev asid va).msc = s.msc ∧
    (State.sendRequest s dev asid va).hbms = s.hbms ∧
    (State.sendRequest s dev asid va).bad = s.bad ∧
    (State.sendRequest s dev asid va).weak = s.weak ∧
    (State.sendRequest s dev asid va).lost = s.lost ∧
    (State.sendRequest s dev asid va).tlb = s.tlb ∧
    (State.sendRequest s dev asid va).accs = s.accs ∧
    (State.sendRequest s dev asid va).net = s.net ∧
    (State.sendRequest s dev asid va).abufs = s.abufs ∧
    (State.sendRequest s dev asid va).jobs = s.jobs ∧
    (State.sendRequest s dev asid va).feet = s.feet ∧
    (State.sendRequest s dev asid va).shapes = s.shapes ∧
    (State.sendRequest s dev asid va).eqs = s.eqs ∧
    (State.sendRequest s dev asid va).insts = s.insts ∧
    (State.sendRequest s dev asid va).hostAccs = s.hostAccs ∧
    (State.sendRequest s dev asid va).hostLines = s.hostLines ∧
    (State.sendRequest s dev asid va).mgmt = s.mgmt ∧
    (State.sendRequest s dev asid va).focus = s.focus ∧
    (State.sendRequest s dev asid va).agenda = s.agenda ∧
    (State.sendRequest s dev asid va).seq = s.seq ∧
    (∀ k, (State.sendRequest s dev asid va).wave k = s.wave k) ∧
    (∀ k, (State.sendRequest s dev asid va).block k = s.block k) ∧
    (∀ k, (State.sendRequest s dev asid va).launch k = s.launch k) ∧
    (∀ k, (State.sendRequest s dev asid va).core k = s.core k) := by
  (unfold State.sendRequest; (try dsimp only); (repeat' split) <;> simp -implicitDefEqProofs (disch := (intros; first | (simp -implicitDefEqProofs [*]; done) | ((try dsimp only); (repeat' split) <;> (simp -implicitDefEqProofs (disch := (intros; (try dsimp only); (repeat' split) <;> (try (simp -implicitDefEqProofs [*]; done)))) [*]; done)) | skip)) [State.wave, State.block, State.launch, State.core])
@[simp] theorem State.flight_keeps (s : State) (b : Nat) (p : Path) (id : Nat) (done : Bool) :
    (State.flight s b p id done).waves = s.waves ∧
    (State.flight s b p id done).launches = s.launches ∧
    (State.flight s b p id done).cores = s.cores ∧
    (State.flight s b p id done).mem = s.mem ∧
    (State.flight s b p id done).array = s.array ∧
    (State.flight s b p id done).hostMem = s.hostMem ∧
    (State.flight s b p id done).peerMem = s.peerMem ∧
    (State.flight s b p id done).registrant = s.registrant ∧
    (State.flight s b p id done).claims = s.claims ∧
    (State.flight s b p id done).cells = s.cells ∧
    (State.flight s b p id done).regions = s.regions ∧
    (State.flight s b p id done).rdc = s.rdc ∧
    (State.flight s b p id done).l2 = s.l2 ∧
    (State.flight s b p id done).msc = s.msc ∧
    (State.flight s b p id done).hbms = s.hbms ∧
    (State.flight s b p id done).bad = s.bad ∧
    (State.flight s b p id done).weak = s.weak ∧
    (State.flight s b p id done).lost = s.lost ∧
    (State.flight s b p id done).tlb = s.tlb ∧
    (State.flight s b p id done).accs = s.accs ∧
    (State.flight s b p id done).net = s.net ∧
    (State.flight s b p id done).abufs = s.abufs ∧
    (State.flight s b p id done).jobs = s.jobs ∧
    (State.flight s b p id done).feet = s.feet ∧
    (State.flight s b p id done).shapes = s.shapes ∧
    (State.flight s b p id done).eqs = s.eqs ∧
    (State.flight s b p id done).insts = s.insts ∧
    (State.flight s b p id done).links = s.links ∧
    (State.flight s b p id done).hostAccs = s.hostAccs ∧
    (State.flight s b p id done).hostLines = s.hostLines ∧
    (State.flight s b p id done).mgmt = s.mgmt ∧
    (State.flight s b p id done).focus = s.focus ∧
    (State.flight s b p id done).agenda = s.agenda ∧
    (State.flight s b p id done).seq = s.seq ∧
    (∀ k, (State.flight s b p id done).wave k = s.wave k) ∧
    (∀ k, (State.flight s b p id done).launch k = s.launch k) ∧
    (∀ k, (State.flight s b p id done).core k = s.core k) := by
  (unfold State.flight; (try dsimp only); (repeat' split) <;> simp -implicitDefEqProofs (disch := (intros; first | (simp -implicitDefEqProofs [*]; done) | ((try dsimp only); (repeat' split) <;> (simp -implicitDefEqProofs (disch := (intros; (try dsimp only); (repeat' split) <;> (try (simp -implicitDefEqProofs [*]; done)))) [*]; done)) | skip)) [State.wave, State.block, State.launch, State.core])
@[simp] theorem State.flight_keepsB (s : State) (b : Nat) (p : Path) (id : Nat) (done : Bool) (k : Nat) :
    ((State.flight s b p id done).block k).launch = (s.block k).launch ∧
    ((State.flight s b p id done).block k).idx = (s.block k).idx ∧
    ((State.flight s b p id done).block k).st = (s.block k).st ∧
    ((State.flight s b p id done).block k).lcore = (s.block k).lcore ∧
    ((State.flight s b p id done).block k).pcore = (s.block k).pcore ∧
    ((State.flight s b p id done).block k).frame = (s.block k).frame ∧
    ((State.flight s b p id done).block k).waves = (s.block k).waves ∧
    ((State.flight s b p id done).block k).pageWait = (s.block k).pageWait ∧
    ((State.flight s b p id done).block k).scratch = (s.block k).scratch ∧
    ((State.flight s b p id done).block k).sclaims = (s.block k).sclaims ∧
    ((State.flight s b p id done).block k).lim = (s.block k).lim ∧
    ((State.flight s b p id done).block k).tabs = (s.block k).tabs ∧
    ((State.flight s b p id done).block k).accs = (s.block k).accs ∧
    ((State.flight s b p id done).block k).feeds = (s.block k).feeds ∧
    ((State.flight s b p id done).block k).preds = (s.block k).preds ∧
    ((State.flight s b p id done).block k).streams = (s.block k).streams ∧
    ((State.flight s b p id done).block k).sketch = (s.block k).sketch ∧
    ((State.flight s b p id done).block k).seqq = (s.block k).seqq ∧
    ((State.flight s b p id done).block k).bars = (s.block k).bars ∧
    ((State.flight s b p id done).block k).share = (s.block k).share ∧
    ((State.flight s b p id done).block k).issued = (s.block k).issued ∧
    ((State.flight s b p id done).block k).since = (s.block k).since ∧
    ((State.flight s b p id done).block k).discarded = (s.block k).discarded := by
  first
  | (unfold State.flight; (try dsimp only); (repeat' split) <;> simp -implicitDefEqProofs (disch := (intros; first | (simp -implicitDefEqProofs [*]; done) | ((try dsimp only); (repeat' split) <;> (simp -implicitDefEqProofs (disch := (intros; (try dsimp only); (repeat' split) <;> (try (simp -implicitDefEqProofs [*]; done)))) [*]; done)) | skip)) [State.updBlock_at, apply_ite Block.launch, apply_ite Block.idx, apply_ite Block.st, apply_ite Block.lcore, apply_ite Block.pcore, apply_ite Block.frame, apply_ite Block.waves, apply_ite Block.pageWait, apply_ite Block.scratch, apply_ite Block.sclaims, apply_ite Block.lim, apply_ite Block.flights, apply_ite Block.tabs, apply_ite Block.accs, apply_ite Block.feeds, apply_ite Block.preds, apply_ite Block.streams, apply_ite Block.sketch, apply_ite Block.seqq, apply_ite Block.bars, apply_ite Block.share, apply_ite Block.issued, apply_ite Block.since, apply_ite Block.discarded])
  | (unfold State.flight; (try dsimp only); (repeat' split) <;> simp -implicitDefEqProofs (disch := (intros; first | (simp -implicitDefEqProofs [*]; done) | ((try dsimp only); (repeat' split) <;> (simp -implicitDefEqProofs (disch := (intros; (try dsimp only); (repeat' split) <;> (try (simp -implicitDefEqProofs [*]; done)))) [*]; done)) | skip)) [State.block])
@[simp] theorem State.landed_keeps (s : State) (b : Nat) (p : Path) (id : Nat) :
    (State.landed s b p id).waves = s.waves ∧
    (State.landed s b p id).launches = s.launches ∧
    (State.landed s b p id).cores = s.cores ∧
    (State.landed s b p id).mem = s.mem ∧
    (State.landed s b p id).array = s.array ∧
    (State.landed s b p id).hostMem = s.hostMem ∧
    (State.landed s b p id).peerMem = s.peerMem ∧
    (State.landed s b p id).registrant = s.registrant ∧
    (State.landed s b p id).claims = s.claims ∧
    (State.landed s b p id).cells = s.cells ∧
    (State.landed s b p id).regions = s.regions ∧
    (State.landed s b p id).rdc = s.rdc ∧
    (State.landed s b p id).l2 = s.l2 ∧
    (State.landed s b p id).msc = s.msc ∧
    (State.landed s b p id).hbms = s.hbms ∧
    (State.landed s b p id).bad = s.bad ∧
    (State.landed s b p id).weak = s.weak ∧
    (State.landed s b p id).lost = s.lost ∧
    (State.landed s b p id).tlb = s.tlb ∧
    (State.landed s b p id).accs = s.accs ∧
    (State.landed s b p id).net = s.net ∧
    (State.landed s b p id).abufs = s.abufs ∧
    (State.landed s b p id).jobs = s.jobs ∧
    (State.landed s b p id).feet = s.feet ∧
    (State.landed s b p id).shapes = s.shapes ∧
    (State.landed s b p id).eqs = s.eqs ∧
    (State.landed s b p id).insts = s.insts ∧
    (State.landed s b p id).links = s.links ∧
    (State.landed s b p id).hostAccs = s.hostAccs ∧
    (State.landed s b p id).hostLines = s.hostLines ∧
    (State.landed s b p id).mgmt = s.mgmt ∧
    (State.landed s b p id).focus = s.focus ∧
    (State.landed s b p id).agenda = s.agenda ∧
    (State.landed s b p id).seq = s.seq ∧
    (∀ k, (State.landed s b p id).wave k = s.wave k) ∧
    (∀ k, (State.landed s b p id).launch k = s.launch k) ∧
    (∀ k, (State.landed s b p id).core k = s.core k) := by
  (unfold State.landed; (try dsimp only); (repeat' split) <;> simp -implicitDefEqProofs (disch := (intros; first | (simp -implicitDefEqProofs [*]; done) | ((try dsimp only); (repeat' split) <;> (simp -implicitDefEqProofs (disch := (intros; (try dsimp only); (repeat' split) <;> (try (simp -implicitDefEqProofs [*]; done)))) [*]; done)) | skip)) [State.wave, State.block, State.launch, State.core])
@[simp] theorem State.landed_keepsB (s : State) (b : Nat) (p : Path) (id : Nat) (k : Nat) :
    ((State.landed s b p id).block k).launch = (s.block k).launch ∧
    ((State.landed s b p id).block k).idx = (s.block k).idx ∧
    ((State.landed s b p id).block k).st = (s.block k).st ∧
    ((State.landed s b p id).block k).lcore = (s.block k).lcore ∧
    ((State.landed s b p id).block k).pcore = (s.block k).pcore ∧
    ((State.landed s b p id).block k).frame = (s.block k).frame ∧
    ((State.landed s b p id).block k).waves = (s.block k).waves ∧
    ((State.landed s b p id).block k).pageWait = (s.block k).pageWait ∧
    ((State.landed s b p id).block k).scratch = (s.block k).scratch ∧
    ((State.landed s b p id).block k).sclaims = (s.block k).sclaims ∧
    ((State.landed s b p id).block k).lim = (s.block k).lim ∧
    ((State.landed s b p id).block k).tabs = (s.block k).tabs ∧
    ((State.landed s b p id).block k).accs = (s.block k).accs ∧
    ((State.landed s b p id).block k).feeds = (s.block k).feeds ∧
    ((State.landed s b p id).block k).preds = (s.block k).preds ∧
    ((State.landed s b p id).block k).streams = (s.block k).streams ∧
    ((State.landed s b p id).block k).sketch = (s.block k).sketch ∧
    ((State.landed s b p id).block k).seqq = (s.block k).seqq ∧
    ((State.landed s b p id).block k).bars = (s.block k).bars ∧
    ((State.landed s b p id).block k).share = (s.block k).share ∧
    ((State.landed s b p id).block k).issued = (s.block k).issued ∧
    ((State.landed s b p id).block k).since = (s.block k).since ∧
    ((State.landed s b p id).block k).discarded = (s.block k).discarded := by
  first
  | (unfold State.landed; (try dsimp only); (repeat' split) <;> simp -implicitDefEqProofs (disch := (intros; first | (simp -implicitDefEqProofs [*]; done) | ((try dsimp only); (repeat' split) <;> (simp -implicitDefEqProofs (disch := (intros; (try dsimp only); (repeat' split) <;> (try (simp -implicitDefEqProofs [*]; done)))) [*]; done)) | skip)) [State.updBlock_at, apply_ite Block.launch, apply_ite Block.idx, apply_ite Block.st, apply_ite Block.lcore, apply_ite Block.pcore, apply_ite Block.frame, apply_ite Block.waves, apply_ite Block.pageWait, apply_ite Block.scratch, apply_ite Block.sclaims, apply_ite Block.lim, apply_ite Block.flights, apply_ite Block.tabs, apply_ite Block.accs, apply_ite Block.feeds, apply_ite Block.preds, apply_ite Block.streams, apply_ite Block.sketch, apply_ite Block.seqq, apply_ite Block.bars, apply_ite Block.share, apply_ite Block.issued, apply_ite Block.since, apply_ite Block.discarded])
  | (unfold State.landed; (try dsimp only); (repeat' split) <;> simp -implicitDefEqProofs (disch := (intros; first | (simp -implicitDefEqProofs [*]; done) | ((try dsimp only); (repeat' split) <;> (simp -implicitDefEqProofs (disch := (intros; (try dsimp only); (repeat' split) <;> (try (simp -implicitDefEqProofs [*]; done)))) [*]; done)) | skip)) [State.block])
@[simp] theorem State.backStream_keeps (s : State) (x : Acc) :
    (State.backStream s x).waves = s.waves ∧
    (State.backStream s x).launches = s.launches ∧
    (State.backStream s x).cores = s.cores ∧
    (State.backStream s x).mem = s.mem ∧
    (State.backStream s x).array = s.array ∧
    (State.backStream s x).hostMem = s.hostMem ∧
    (State.backStream s x).peerMem = s.peerMem ∧
    (State.backStream s x).registrant = s.registrant ∧
    (State.backStream s x).claims = s.claims ∧
    (State.backStream s x).cells = s.cells ∧
    (State.backStream s x).regions = s.regions ∧
    (State.backStream s x).rdc = s.rdc ∧
    (State.backStream s x).l2 = s.l2 ∧
    (State.backStream s x).msc = s.msc ∧
    (State.backStream s x).hbms = s.hbms ∧
    (State.backStream s x).bad = s.bad ∧
    (State.backStream s x).weak = s.weak ∧
    (State.backStream s x).lost = s.lost ∧
    (State.backStream s x).tlb = s.tlb ∧
    (State.backStream s x).accs = s.accs ∧
    (State.backStream s x).net = s.net ∧
    (State.backStream s x).abufs = s.abufs ∧
    (State.backStream s x).jobs = s.jobs ∧
    (State.backStream s x).feet = s.feet ∧
    (State.backStream s x).shapes = s.shapes ∧
    (State.backStream s x).eqs = s.eqs ∧
    (State.backStream s x).insts = s.insts ∧
    (State.backStream s x).links = s.links ∧
    (State.backStream s x).hostAccs = s.hostAccs ∧
    (State.backStream s x).hostLines = s.hostLines ∧
    (State.backStream s x).mgmt = s.mgmt ∧
    (State.backStream s x).focus = s.focus ∧
    (State.backStream s x).agenda = s.agenda ∧
    (State.backStream s x).seq = s.seq ∧
    (∀ k, (State.backStream s x).wave k = s.wave k) ∧
    (∀ k, (State.backStream s x).launch k = s.launch k) ∧
    (∀ k, (State.backStream s x).core k = s.core k) := by
  (unfold State.backStream; (try dsimp only); (repeat' split) <;> simp -implicitDefEqProofs (disch := (intros; first | (simp -implicitDefEqProofs [*]; done) | ((try dsimp only); (repeat' split) <;> (simp -implicitDefEqProofs (disch := (intros; (try dsimp only); (repeat' split) <;> (try (simp -implicitDefEqProofs [*]; done)))) [*]; done)) | skip)) [State.wave, State.block, State.launch, State.core])
@[simp] theorem State.backStream_keepsB (s : State) (x : Acc) (k : Nat) :
    ((State.backStream s x).block k).launch = (s.block k).launch ∧
    ((State.backStream s x).block k).idx = (s.block k).idx ∧
    ((State.backStream s x).block k).st = (s.block k).st ∧
    ((State.backStream s x).block k).lcore = (s.block k).lcore ∧
    ((State.backStream s x).block k).pcore = (s.block k).pcore ∧
    ((State.backStream s x).block k).frame = (s.block k).frame ∧
    ((State.backStream s x).block k).waves = (s.block k).waves ∧
    ((State.backStream s x).block k).pageWait = (s.block k).pageWait ∧
    ((State.backStream s x).block k).scratch = (s.block k).scratch ∧
    ((State.backStream s x).block k).sclaims = (s.block k).sclaims ∧
    ((State.backStream s x).block k).lim = (s.block k).lim ∧
    ((State.backStream s x).block k).flights = (s.block k).flights ∧
    ((State.backStream s x).block k).tabs = (s.block k).tabs ∧
    ((State.backStream s x).block k).accs = (s.block k).accs ∧
    ((State.backStream s x).block k).feeds = (s.block k).feeds ∧
    ((State.backStream s x).block k).preds = (s.block k).preds ∧
    ((State.backStream s x).block k).sketch = (s.block k).sketch ∧
    ((State.backStream s x).block k).seqq = (s.block k).seqq ∧
    ((State.backStream s x).block k).bars = (s.block k).bars ∧
    ((State.backStream s x).block k).share = (s.block k).share ∧
    ((State.backStream s x).block k).issued = (s.block k).issued ∧
    ((State.backStream s x).block k).since = (s.block k).since ∧
    ((State.backStream s x).block k).discarded = (s.block k).discarded := by
  first
  | (unfold State.backStream; (try dsimp only); (repeat' split) <;> simp -implicitDefEqProofs (disch := (intros; first | (simp -implicitDefEqProofs [*]; done) | ((try dsimp only); (repeat' split) <;> (simp -implicitDefEqProofs (disch := (intros; (try dsimp only); (repeat' split) <;> (try (simp -implicitDefEqProofs [*]; done)))) [*]; done)) | skip)) [State.updBlock_at, apply_ite Block.launch, apply_ite Block.idx, apply_ite Block.st, apply_ite Block.lcore, apply_ite Block.pcore, apply_ite Block.frame, apply_ite Block.waves, apply_ite Block.pageWait, apply_ite Block.scratch, apply_ite Block.sclaims, apply_ite Block.lim, apply_ite Block.flights, apply_ite Block.tabs, apply_ite Block.accs, apply_ite Block.feeds, apply_ite Block.preds, apply_ite Block.streams, apply_ite Block.sketch, apply_ite Block.seqq, apply_ite Block.bars, apply_ite Block.share, apply_ite Block.issued, apply_ite Block.since, apply_ite Block.discarded])
  | (unfold State.backStream; (try dsimp only); (repeat' split) <;> simp -implicitDefEqProofs (disch := (intros; first | (simp -implicitDefEqProofs [*]; done) | ((try dsimp only); (repeat' split) <;> (simp -implicitDefEqProofs (disch := (intros; (try dsimp only); (repeat' split) <;> (try (simp -implicitDefEqProofs [*]; done)))) [*]; done)) | skip)) [State.block])
@[simp] theorem State.withdraw_keeps (s : State) (a : Nat) :
    (State.withdraw s a).waves = s.waves ∧
    (State.withdraw s a).launches = s.launches ∧
    (State.withdraw s a).cores = s.cores ∧
    (State.withdraw s a).mem = s.mem ∧
    (State.withdraw s a).array = s.array ∧
    (State.withdraw s a).hostMem = s.hostMem ∧
    (State.withdraw s a).peerMem = s.peerMem ∧
    (State.withdraw s a).registrant = s.registrant ∧
    (State.withdraw s a).cells = s.cells ∧
    (State.withdraw s a).regions = s.regions ∧
    (State.withdraw s a).rdc = s.rdc ∧
    (State.withdraw s a).l2 = s.l2 ∧
    (State.withdraw s a).msc = s.msc ∧
    (State.withdraw s a).hbms = s.hbms ∧
    (State.withdraw s a).bad = s.bad ∧
    (State.withdraw s a).weak = s.weak ∧
    (State.withdraw s a).lost = s.lost ∧
    (State.withdraw s a).tlb = s.tlb ∧
    (State.withdraw s a).abufs = s.abufs ∧
    (State.withdraw s a).jobs = s.jobs ∧
    (State.withdraw s a).feet = s.feet ∧
    (State.withdraw s a).shapes = s.shapes ∧
    (State.withdraw s a).eqs = s.eqs ∧
    (State.withdraw s a).insts = s.insts ∧
    (State.withdraw s a).links = s.links ∧
    (State.withdraw s a).hostAccs = s.hostAccs ∧
    (State.withdraw s a).hostLines = s.hostLines ∧
    (State.withdraw s a).mgmt = s.mgmt ∧
    (State.withdraw s a).focus = s.focus ∧
    (State.withdraw s a).agenda = s.agenda ∧
    (State.withdraw s a).seq = s.seq ∧
    (∀ k, (State.withdraw s a).wave k = s.wave k) ∧
    (∀ k, (State.withdraw s a).launch k = s.launch k) ∧
    (∀ k, (State.withdraw s a).core k = s.core k) := by
  (unfold State.withdraw; (try dsimp only); (repeat' split) <;> simp -implicitDefEqProofs (disch := (intros; first | (simp -implicitDefEqProofs [*]; done) | ((try dsimp only); (repeat' split) <;> (simp -implicitDefEqProofs (disch := (intros; (try dsimp only); (repeat' split) <;> (try (simp -implicitDefEqProofs [*]; done)))) [*]; done)) | skip)) [State.wave, State.block, State.launch, State.core])
@[simp] theorem State.undoItem_keeps (s : State) (w : Nat) (x1 : UndoItem) :
    (State.undoItem s w x1).launches = s.launches ∧
    (State.undoItem s w x1).cores = s.cores ∧
    (State.undoItem s w x1).mem = s.mem ∧
    (State.undoItem s w x1).array = s.array ∧
    (State.undoItem s w x1).hostMem = s.hostMem ∧
    (State.undoItem s w x1).peerMem = s.peerMem ∧
    (State.undoItem s w x1).registrant = s.registrant ∧
    (State.undoItem s w x1).claims = s.claims ∧
    (State.undoItem s w x1).cells = s.cells ∧
    (State.undoItem s w x1).regions = s.regions ∧
    (State.undoItem s w x1).rdc = s.rdc ∧
    (State.undoItem s w x1).l2 = s.l2 ∧
    (State.undoItem s w x1).msc = s.msc ∧
    (State.undoItem s w x1).hbms = s.hbms ∧
    (State.undoItem s w x1).bad = s.bad ∧
    (State.undoItem s w x1).weak = s.weak ∧
    (State.undoItem s w x1).lost = s.lost ∧
    (State.undoItem s w x1).tlb = s.tlb ∧
    (State.undoItem s w x1).net = s.net ∧
    (State.undoItem s w x1).abufs = s.abufs ∧
    (State.undoItem s w x1).jobs = s.jobs ∧
    (State.undoItem s w x1).feet = s.feet ∧
    (State.undoItem s w x1).shapes = s.shapes ∧
    (State.undoItem s w x1).eqs = s.eqs ∧
    (State.undoItem s w x1).insts = s.insts ∧
    (State.undoItem s w x1).links = s.links ∧
    (State.undoItem s w x1).hostAccs = s.hostAccs ∧
    (State.undoItem s w x1).hostLines = s.hostLines ∧
    (State.undoItem s w x1).mgmt = s.mgmt ∧
    (State.undoItem s w x1).focus = s.focus ∧
    (State.undoItem s w x1).agenda = s.agenda ∧
    (State.undoItem s w x1).seq = s.seq ∧
    (∀ k, (State.undoItem s w x1).launch k = s.launch k) ∧
    (∀ k, (State.undoItem s w x1).core k = s.core k) := by
  (unfold State.undoItem; (try dsimp only); (repeat' split) <;> simp -implicitDefEqProofs (disch := (intros; first | (simp -implicitDefEqProofs [*]; done) | ((try dsimp only); (repeat' split) <;> (simp -implicitDefEqProofs (disch := (intros; (try dsimp only); (repeat' split) <;> (try (simp -implicitDefEqProofs [*]; done)))) [*]; done)) | skip)) [State.wave, State.block, State.launch, State.core])
@[simp] theorem State.undoItem_keepsW (s : State) (w : Nat) (x1 : UndoItem) (k : Nat) :
    ((State.undoItem s w x1).wave k).block = (s.wave k).block ∧
    ((State.undoItem s w x1).wave k).idx = (s.wave k).idx ∧
    ((State.undoItem s w x1).wave k).exited = (s.wave k).exited ∧
    ((State.undoItem s w x1).wave k).launchMask = (s.wave k).launchMask ∧
    ((State.undoItem s w x1).wave k).pad = (s.wave k).pad ∧
    ((State.undoItem s w x1).wave k).slotA = (s.wave k).slotA ∧
    ((State.undoItem s w x1).wave k).slotB = (s.wave k).slotB ∧
    ((State.undoItem s w x1).wave k).lastB = (s.wave k).lastB ∧
    ((State.undoItem s w x1).wave k).spill = (s.wave k).spill ∧
    ((State.undoItem s w x1).wave k).handler = (s.wave k).handler ∧
    ((State.undoItem s w x1).wave k).xpc = (s.wave k).xpc ∧
    ((State.undoItem s w x1).wave k).xmode = (s.wave k).xmode ∧
    ((State.undoItem s w x1).wave k).xcause = (s.wave k).xcause ∧
    ((State.undoItem s w x1).wave k).xlanes = (s.wave k).xlanes ∧
    ((State.undoItem s w x1).wave k).xaddr = (s.wave k).xaddr ∧
    ((State.undoItem s w x1).wave k).gexposed = (s.wave k).gexposed ∧
    ((State.undoItem s w x1).wave k).mm = (s.wave k).mm ∧
    ((State.undoItem s w x1).wave k).epoch = (s.wave k).epoch ∧
    ((State.undoItem s w x1).wave k).tags = (s.wave k).tags ∧
    ((State.undoItem s w x1).wave k).sfr = (s.wave k).sfr ∧
    ((State.undoItem s w x1).wave k).arrived = (s.wave k).arrived ∧
    ((State.undoItem s w x1).wave k).region = (s.wave k).region ∧
    ((State.undoItem s w x1).wave k).pend = (s.wave k).pend ∧
    ((State.undoItem s w x1).wave k).lost = (s.wave k).lost ∧
    ((State.undoItem s w x1).wave k).since = (s.wave k).since ∧
    ((State.undoItem s w x1).wave k).jobs = (s.wave k).jobs ∧
    ((State.undoItem s w x1).wave k).left = (s.wave k).left := by
  first
  | (unfold State.undoItem; (try dsimp only); (repeat' split) <;> simp -implicitDefEqProofs (disch := (intros; first | (simp -implicitDefEqProofs [*]; done) | ((try dsimp only); (repeat' split) <;> (simp -implicitDefEqProofs (disch := (intros; (try dsimp only); (repeat' split) <;> (try (simp -implicitDefEqProofs [*]; done)))) [*]; done)) | skip)) [State.updWave_at, apply_ite Wave.block, apply_ite Wave.idx, apply_ite Wave.exited, apply_ite Wave.launchMask, apply_ite Wave.pad, apply_ite Wave.sregs, apply_ite Wave.vregs, apply_ite Wave.pregs, apply_ite Wave.slotA, apply_ite Wave.slotB, apply_ite Wave.lastB, apply_ite Wave.spill, apply_ite Wave.handler, apply_ite Wave.xpc, apply_ite Wave.xmode, apply_ite Wave.xcause, apply_ite Wave.xlanes, apply_ite Wave.xaddr, apply_ite Wave.gexposed, apply_ite Wave.mm, apply_ite Wave.epoch, apply_ite Wave.tags, apply_ite Wave.sfr, apply_ite Wave.arrived, apply_ite Wave.region, apply_ite Wave.pend, apply_ite Wave.lost, apply_ite Wave.since, apply_ite Wave.jobs, apply_ite Wave.left])
  | (unfold State.undoItem; (try dsimp only); (repeat' split) <;> simp -implicitDefEqProofs (disch := (intros; first | (simp -implicitDefEqProofs [*]; done) | ((try dsimp only); (repeat' split) <;> (simp -implicitDefEqProofs (disch := (intros; (try dsimp only); (repeat' split) <;> (try (simp -implicitDefEqProofs [*]; done)))) [*]; done)) | skip)) [State.wave])
@[simp] theorem State.undoItem_keepsB (s : State) (w : Nat) (x1 : UndoItem) (k : Nat) :
    ((State.undoItem s w x1).block k).launch = (s.block k).launch ∧
    ((State.undoItem s w x1).block k).idx = (s.block k).idx ∧
    ((State.undoItem s w x1).block k).st = (s.block k).st ∧
    ((State.undoItem s w x1).block k).lcore = (s.block k).lcore ∧
    ((State.undoItem s w x1).block k).pcore = (s.block k).pcore ∧
    ((State.undoItem s w x1).block k).frame = (s.block k).frame ∧
    ((State.undoItem s w x1).block k).waves = (s.block k).waves ∧
    ((State.undoItem s w x1).block k).pageWait = (s.block k).pageWait ∧
    ((State.undoItem s w x1).block k).scratch = (s.block k).scratch ∧
    ((State.undoItem s w x1).block k).sclaims = (s.block k).sclaims ∧
    ((State.undoItem s w x1).block k).flights = (s.block k).flights ∧
    ((State.undoItem s w x1).block k).tabs = (s.block k).tabs ∧
    ((State.undoItem s w x1).block k).accs = (s.block k).accs ∧
    ((State.undoItem s w x1).block k).feeds = (s.block k).feeds ∧
    ((State.undoItem s w x1).block k).preds = (s.block k).preds ∧
    ((State.undoItem s w x1).block k).streams = (s.block k).streams ∧
    ((State.undoItem s w x1).block k).sketch = (s.block k).sketch ∧
    ((State.undoItem s w x1).block k).seqq = (s.block k).seqq ∧
    ((State.undoItem s w x1).block k).bars = (s.block k).bars ∧
    ((State.undoItem s w x1).block k).share = (s.block k).share ∧
    ((State.undoItem s w x1).block k).issued = (s.block k).issued ∧
    ((State.undoItem s w x1).block k).since = (s.block k).since ∧
    ((State.undoItem s w x1).block k).discarded = (s.block k).discarded := by
  first
  | (unfold State.undoItem; (try dsimp only); (repeat' split) <;> simp -implicitDefEqProofs (disch := (intros; first | (simp -implicitDefEqProofs [*]; done) | ((try dsimp only); (repeat' split) <;> (simp -implicitDefEqProofs (disch := (intros; (try dsimp only); (repeat' split) <;> (try (simp -implicitDefEqProofs [*]; done)))) [*]; done)) | skip)) [State.updBlock_at, apply_ite Block.launch, apply_ite Block.idx, apply_ite Block.st, apply_ite Block.lcore, apply_ite Block.pcore, apply_ite Block.frame, apply_ite Block.waves, apply_ite Block.pageWait, apply_ite Block.scratch, apply_ite Block.sclaims, apply_ite Block.lim, apply_ite Block.flights, apply_ite Block.tabs, apply_ite Block.accs, apply_ite Block.feeds, apply_ite Block.preds, apply_ite Block.streams, apply_ite Block.sketch, apply_ite Block.seqq, apply_ite Block.bars, apply_ite Block.share, apply_ite Block.issued, apply_ite Block.since, apply_ite Block.discarded])
  | (unfold State.undoItem; (try dsimp only); (repeat' split) <;> simp -implicitDefEqProofs (disch := (intros; first | (simp -implicitDefEqProofs [*]; done) | ((try dsimp only); (repeat' split) <;> (simp -implicitDefEqProofs (disch := (intros; (try dsimp only); (repeat' split) <;> (try (simp -implicitDefEqProofs [*]; done)))) [*]; done)) | skip)) [State.block])
@[simp] theorem State.undoFrom_keeps (s : State) (w : Nat) (sb : Bool) (q n : Nat) :
    (State.undoFrom s w sb q n).launches = s.launches ∧
    (State.undoFrom s w sb q n).cores = s.cores ∧
    (State.undoFrom s w sb q n).mem = s.mem ∧
    (State.undoFrom s w sb q n).array = s.array ∧
    (State.undoFrom s w sb q n).hostMem = s.hostMem ∧
    (State.undoFrom s w sb q n).peerMem = s.peerMem ∧
    (State.undoFrom s w sb q n).registrant = s.registrant ∧
    (State.undoFrom s w sb q n).cells = s.cells ∧
    (State.undoFrom s w sb q n).regions = s.regions ∧
    (State.undoFrom s w sb q n).rdc = s.rdc ∧
    (State.undoFrom s w sb q n).l2 = s.l2 ∧
    (State.undoFrom s w sb q n).msc = s.msc ∧
    (State.undoFrom s w sb q n).hbms = s.hbms ∧
    (State.undoFrom s w sb q n).bad = s.bad ∧
    (State.undoFrom s w sb q n).weak = s.weak ∧
    (State.undoFrom s w sb q n).lost = s.lost ∧
    (State.undoFrom s w sb q n).tlb = s.tlb ∧
    (State.undoFrom s w sb q n).abufs = s.abufs ∧
    (State.undoFrom s w sb q n).jobs = s.jobs ∧
    (State.undoFrom s w sb q n).feet = s.feet ∧
    (State.undoFrom s w sb q n).shapes = s.shapes ∧
    (State.undoFrom s w sb q n).eqs = s.eqs ∧
    (State.undoFrom s w sb q n).insts = s.insts ∧
    (State.undoFrom s w sb q n).links = s.links ∧
    (State.undoFrom s w sb q n).hostAccs = s.hostAccs ∧
    (State.undoFrom s w sb q n).hostLines = s.hostLines ∧
    (State.undoFrom s w sb q n).mgmt = s.mgmt ∧
    (State.undoFrom s w sb q n).focus = s.focus ∧
    (State.undoFrom s w sb q n).agenda = s.agenda ∧
    (State.undoFrom s w sb q n).seq = s.seq ∧
    (∀ k, (State.undoFrom s w sb q n).launch k = s.launch k) ∧
    (∀ k, (State.undoFrom s w sb q n).core k = s.core k) := by
  (unfold State.undoFrom; (try dsimp only); (repeat' split) <;> simp -implicitDefEqProofs (disch := (intros; first | (simp -implicitDefEqProofs [*]; done) | ((try dsimp only); (repeat' split) <;> (simp -implicitDefEqProofs (disch := (intros; (try dsimp only); (repeat' split) <;> (try (simp -implicitDefEqProofs [*]; done)))) [*]; done)) | skip)) [State.wave, State.block, State.launch, State.core])
@[simp] theorem State.undoFrom_keepsW (s : State) (w : Nat) (sb : Bool) (q n : Nat) (k : Nat) :
    ((State.undoFrom s w sb q n).wave k).block = (s.wave k).block ∧
    ((State.undoFrom s w sb q n).wave k).idx = (s.wave k).idx ∧
    ((State.undoFrom s w sb q n).wave k).exited = (s.wave k).exited ∧
    ((State.undoFrom s w sb q n).wave k).launchMask = (s.wave k).launchMask ∧
    ((State.undoFrom s w sb q n).wave k).pad = (s.wave k).pad ∧
    ((State.undoFrom s w sb q n).wave k).lastB = (s.wave k).lastB ∧
    ((State.undoFrom s w sb q n).wave k).spill = (s.wave k).spill ∧
    ((State.undoFrom s w sb q n).wave k).handler = (s.wave k).handler ∧
    ((State.undoFrom s w sb q n).wave k).xpc = (s.wave k).xpc ∧
    ((State.undoFrom s w sb q n).wave k).xmode = (s.wave k).xmode ∧
    ((State.undoFrom s w sb q n).wave k).xcause = (s.wave k).xcause ∧
    ((State.undoFrom s w sb q n).wave k).xlanes = (s.wave k).xlanes ∧
    ((State.undoFrom s w sb q n).wave k).xaddr = (s.wave k).xaddr ∧
    ((State.undoFrom s w sb q n).wave k).gexposed = (s.wave k).gexposed ∧
    ((State.undoFrom s w sb q n).wave k).mm = (s.wave k).mm ∧
    ((State.undoFrom s w sb q n).wave k).epoch = (s.wave k).epoch ∧
    ((State.undoFrom s w sb q n).wave k).sfr = (s.wave k).sfr ∧
    ((State.undoFrom s w sb q n).wave k).arrived = (s.wave k).arrived ∧
    ((State.undoFrom s w sb q n).wave k).region = (s.wave k).region ∧
    ((State.undoFrom s w sb q n).wave k).pend = (s.wave k).pend ∧
    ((State.undoFrom s w sb q n).wave k).lost = (s.wave k).lost ∧
    ((State.undoFrom s w sb q n).wave k).since = (s.wave k).since ∧
    ((State.undoFrom s w sb q n).wave k).jobs = (s.wave k).jobs ∧
    ((State.undoFrom s w sb q n).wave k).left = (s.wave k).left := by
  first
  | (unfold State.undoFrom; (try dsimp only); (repeat' split) <;> simp -implicitDefEqProofs (disch := (intros; first | (simp -implicitDefEqProofs [*]; done) | ((try dsimp only); (repeat' split) <;> (simp -implicitDefEqProofs (disch := (intros; (try dsimp only); (repeat' split) <;> (try (simp -implicitDefEqProofs [*]; done)))) [*]; done)) | skip)) [State.updWave_at, apply_ite Wave.block, apply_ite Wave.idx, apply_ite Wave.exited, apply_ite Wave.launchMask, apply_ite Wave.pad, apply_ite Wave.sregs, apply_ite Wave.vregs, apply_ite Wave.pregs, apply_ite Wave.slotA, apply_ite Wave.slotB, apply_ite Wave.lastB, apply_ite Wave.spill, apply_ite Wave.handler, apply_ite Wave.xpc, apply_ite Wave.xmode, apply_ite Wave.xcause, apply_ite Wave.xlanes, apply_ite Wave.xaddr, apply_ite Wave.gexposed, apply_ite Wave.mm, apply_ite Wave.epoch, apply_ite Wave.tags, apply_ite Wave.sfr, apply_ite Wave.arrived, apply_ite Wave.region, apply_ite Wave.pend, apply_ite Wave.lost, apply_ite Wave.since, apply_ite Wave.jobs, apply_ite Wave.left])
  | (unfold State.undoFrom; (try dsimp only); (repeat' split) <;> simp -implicitDefEqProofs (disch := (intros; first | (simp -implicitDefEqProofs [*]; done) | ((try dsimp only); (repeat' split) <;> (simp -implicitDefEqProofs (disch := (intros; (try dsimp only); (repeat' split) <;> (try (simp -implicitDefEqProofs [*]; done)))) [*]; done)) | skip)) [State.wave])
end Sys2Proof.Machine
end

