-- ==== Sys2Proof/Laws/KeepsBlock.lean ====
section
/-! SUPPORT. What saving, restoring and ending blocks and launches leaves unchanged. One lemma per operation, over the fields of State; a field that is not named may change. -/

set_option linter.unusedSimpArgs false

namespace Sys2Proof.Machine
open Sys2Proof
@[simp] theorem State.deviceWrite_keeps (s : State) (pa : Nat) (d : List Byte) :
    (State.deviceWrite s pa d).waves = s.waves ∧
    (State.deviceWrite s pa d).blocks = s.blocks ∧
    (State.deviceWrite s pa d).launches = s.launches ∧
    (State.deviceWrite s pa d).hostMem = s.hostMem ∧
    (State.deviceWrite s pa d).peerMem = s.peerMem ∧
    (State.deviceWrite s pa d).claims = s.claims ∧
    (State.deviceWrite s pa d).regions = s.regions ∧
    (State.deviceWrite s pa d).tlb = s.tlb ∧
    (State.deviceWrite s pa d).accs = s.accs ∧
    (State.deviceWrite s pa d).net = s.net ∧
    (State.deviceWrite s pa d).abufs = s.abufs ∧
    (State.deviceWrite s pa d).jobs = s.jobs ∧
    (State.deviceWrite s pa d).feet = s.feet ∧
    (State.deviceWrite s pa d).shapes = s.shapes ∧
    (State.deviceWrite s pa d).eqs = s.eqs ∧
    (State.deviceWrite s pa d).insts = s.insts ∧
    (State.deviceWrite s pa d).links = s.links ∧
    (State.deviceWrite s pa d).hostAccs = s.hostAccs ∧
    (State.deviceWrite s pa d).mgmt = s.mgmt ∧
    (State.deviceWrite s pa d).focus = s.focus ∧
    (State.deviceWrite s pa d).agenda = s.agenda ∧
    (∀ k, (State.deviceWrite s pa d).wave k = s.wave k) ∧
    (∀ k, (State.deviceWrite s pa d).block k = s.block k) ∧
    (∀ k, (State.deviceWrite s pa d).launch k = s.launch k) := by
  (unfold State.deviceWrite; (try dsimp only); (repeat' split) <;> simp -implicitDefEqProofs (disch := (intros; first | (simp -implicitDefEqProofs [*]; done) | ((try dsimp only); (repeat' split) <;> (simp -implicitDefEqProofs (disch := (intros; (try dsimp only); (repeat' split) <;> (try (simp -implicitDefEqProofs [*]; done)))) [*]; done)) | skip)) [State.wave, State.block, State.launch, State.core])
@[simp] theorem State.logLaunch_keeps (s : State) (va : DWord) (ctx : Nat) (code : Nat) (src : Source) (xc : Nat) :
    (State.logLaunch s va ctx code src xc).waves = s.waves ∧
    (State.logLaunch s va ctx code src xc).blocks = s.blocks ∧
    (State.logLaunch s va ctx code src xc).launches = s.launches ∧
    (State.logLaunch s va ctx code src xc).cores = s.cores ∧
    (State.logLaunch s va ctx code src xc).mem = s.mem ∧
    (State.logLaunch s va ctx code src xc).array = s.array ∧
    (State.logLaunch s va ctx code src xc).hostMem = s.hostMem ∧
    (State.logLaunch s va ctx code src xc).peerMem = s.peerMem ∧
    (State.logLaunch s va ctx code src xc).registrant = s.registrant ∧
    (State.logLaunch s va ctx code src xc).claims = s.claims ∧
    (State.logLaunch s va ctx code src xc).cells = s.cells ∧
    (State.logLaunch s va ctx code src xc).regions = s.regions ∧
    (State.logLaunch s va ctx code src xc).rdc = s.rdc ∧
    (State.logLaunch s va ctx code src xc).l2 = s.l2 ∧
    (State.logLaunch s va ctx code src xc).msc = s.msc ∧
    (State.logLaunch s va ctx code src xc).hbms = s.hbms ∧
    (State.logLaunch s va ctx code src xc).bad = s.bad ∧
    (State.logLaunch s va ctx code src xc).weak = s.weak ∧
    (State.logLaunch s va ctx code src xc).lost = s.lost ∧
    (State.logLaunch s va ctx code src xc).tlb = s.tlb ∧
    (State.logLaunch s va ctx code src xc).accs = s.accs ∧
    (State.logLaunch s va ctx code src xc).net = s.net ∧
    (State.logLaunch s va ctx code src xc).abufs = s.abufs ∧
    (State.logLaunch s va ctx code src xc).jobs = s.jobs ∧
    (State.logLaunch s va ctx code src xc).feet = s.feet ∧
    (State.logLaunch s va ctx code src xc).shapes = s.shapes ∧
    (State.logLaunch s va ctx code src xc).eqs = s.eqs ∧
    (State.logLaunch s va ctx code src xc).insts = s.insts ∧
    (State.logLaunch s va ctx code src xc).links = s.links ∧
    (State.logLaunch s va ctx code src xc).hostAccs = s.hostAccs ∧
    (State.logLaunch s va ctx code src xc).hostLines = s.hostLines ∧
    (State.logLaunch s va ctx code src xc).focus = s.focus ∧
    (State.logLaunch s va ctx code src xc).agenda = s.agenda ∧
    (State.logLaunch s va ctx code src xc).seq = s.seq ∧
    (∀ k, (State.logLaunch s va ctx code src xc).wave k = s.wave k) ∧
    (∀ k, (State.logLaunch s va ctx code src xc).block k = s.block k) ∧
    (∀ k, (State.logLaunch s va ctx code src xc).launch k = s.launch k) ∧
    (∀ k, (State.logLaunch s va ctx code src xc).core k = s.core k) := by
  (unfold State.logLaunch; (try dsimp only); (repeat' split) <;> simp -implicitDefEqProofs (disch := (intros; first | (simp -implicitDefEqProofs [*]; done) | ((try dsimp only); (repeat' split) <;> (simp -implicitDefEqProofs (disch := (intros; (try dsimp only); (repeat' split) <;> (try (simp -implicitDefEqProofs [*]; done)))) [*]; done)) | skip)) [State.wave, State.block, State.launch, State.core])
@[simp] theorem State.logLaunch_keepsM (s : State) (va : DWord) (ctx : Nat) (code : Nat) (src : Source) (xc : Nat) :
    (State.logLaunch s va ctx code src xc).mgmt.partid = s.mgmt.partid ∧
    (State.logLaunch s va ctx code src xc).mgmt.pciid = s.mgmt.pciid ∧
    (State.logLaunch s va ctx code src xc).mgmt.cfgstat = s.mgmt.cfgstat ∧
    (State.logLaunch s va ctx code src xc).mgmt.bootstat = s.mgmt.bootstat ∧
    (State.logLaunch s va ctx code src xc).mgmt.hostmode = s.mgmt.hostmode ∧
    (State.logLaunch s va ctx code src xc).mgmt.apbase = s.mgmt.apbase ∧
    (State.logLaunch s va ctx code src xc).mgmt.devnum = s.mgmt.devnum ∧
    (State.logLaunch s va ctx code src xc).mgmt.flashA = s.mgmt.flashA ∧
    (State.logLaunch s va ctx code src xc).mgmt.flashB = s.mgmt.flashB ∧
    (State.logLaunch s va ctx code src xc).mgmt.flashTorn = s.mgmt.flashTorn ∧
    (State.logLaunch s va ctx code src xc).mgmt.flashRun = s.mgmt.flashRun ∧
    (State.logLaunch s va ctx code src xc).mgmt.fladdr = s.mgmt.fladdr ∧
    (State.logLaunch s va ctx code src xc).mgmt.flcmd = s.mgmt.flcmd ∧
    (State.logLaunch s va ctx code src xc).mgmt.fldata = s.mgmt.fldata ∧
    (State.logLaunch s va ctx code src xc).mgmt.remap = s.mgmt.remap ∧
    (State.logLaunch s va ctx code src xc).mgmt.failed = s.mgmt.failed ∧
    (State.logLaunch s va ctx code src xc).mgmt.spareCluster = s.mgmt.spareCluster ∧
    (State.logLaunch s va ctx code src xc).mgmt.unplaced = s.mgmt.unplaced ∧
    (State.logLaunch s va ctx code src xc).mgmt.former = s.mgmt.former ∧
    (State.logLaunch s va ctx code src xc).mgmt.parkAtReset = s.mgmt.parkAtReset ∧
    (State.logLaunch s va ctx code src xc).mgmt.spareLanes = s.mgmt.spareLanes ∧
    (State.logLaunch s va ctx code src xc).mgmt.sliceq = s.mgmt.sliceq ∧
    (State.logLaunch s va ctx code src xc).mgmt.lq = s.mgmt.lq ∧
    (State.logLaunch s va ctx code src xc).mgmt.lauq = s.mgmt.lauq ∧
    (State.logLaunch s va ctx code src xc).mgmt.rr = s.mgmt.rr ∧
    (State.logLaunch s va ctx code src xc).mgmt.pwrceil = s.mgmt.pwrceil ∧
    (State.logLaunch s va ctx code src xc).mgmt.pstlim = s.mgmt.pstlim ∧
    (State.logLaunch s va ctx code src xc).mgmt.pwrstat = s.mgmt.pwrstat ∧
    (State.logLaunch s va ctx code src xc).mgmt.pGoal = s.mgmt.pGoal ∧
    (State.logLaunch s va ctx code src xc).mgmt.mGoal = s.mgmt.mGoal ∧
    (State.logLaunch s va ctx code src xc).mgmt.pNext = s.mgmt.pNext ∧
    (State.logLaunch s va ctx code src xc).mgmt.mNext = s.mgmt.mNext ∧
    (State.logLaunch s va ctx code src xc).mgmt.diepark = s.mgmt.diepark ∧
    (State.logLaunch s va ctx code src xc).mgmt.dieWait = s.mgmt.dieWait ∧
    (State.logLaunch s va ctx code src xc).mgmt.ensave = s.mgmt.ensave ∧
    (State.logLaunch s va ctx code src xc).mgmt.ewt = s.mgmt.ewt ∧
    (State.logLaunch s va ctx code src xc).mgmt.stw = s.mgmt.stw ∧
    (State.logLaunch s va ctx code src xc).mgmt.hlth = s.mgmt.hlth ∧
    (State.logLaunch s va ctx code src xc).mgmt.age = s.mgmt.age ∧
    (State.logLaunch s va ctx code src xc).mgmt.memh = s.mgmt.memh ∧
    (State.logLaunch s va ctx code src xc).mgmt.linkh = s.mgmt.linkh ∧
    (State.logLaunch s va ctx code src xc).mgmt.samples = s.mgmt.samples ∧
    (State.logLaunch s va ctx code src xc).mgmt.ckpt0 = s.mgmt.ckpt0 ∧
    (State.logLaunch s va ctx code src xc).mgmt.ckpt1 = s.mgmt.ckpt1 ∧
    (State.logLaunch s va ctx code src xc).mgmt.ckpt2 = s.mgmt.ckpt2 ∧
    (State.logLaunch s va ctx code src xc).mgmt.ckptGood = s.mgmt.ckptGood ∧
    (State.logLaunch s va ctx code src xc).mgmt.ckptBlocks = s.mgmt.ckptBlocks ∧
    (State.logLaunch s va ctx code src xc).mgmt.ctxs = s.mgmt.ctxs ∧
    (State.logLaunch s va ctx code src xc).mgmt.pfbase = s.mgmt.pfbase ∧
    (State.logLaunch s va ctx code src xc).mgmt.pfhead = s.mgmt.pfhead ∧
    (State.logLaunch s va ctx code src xc).mgmt.pftail = s.mgmt.pftail ∧
    (State.logLaunch s va ctx code src xc).mgmt.faults = s.mgmt.faults ∧
    (State.logLaunch s va ctx code src xc).mgmt.tlbinv = s.mgmt.tlbinv ∧
    (State.logLaunch s va ctx code src xc).mgmt.tlbinvn = s.mgmt.tlbinvn ∧
    (State.logLaunch s va ctx code src xc).mgmt.ranges = s.mgmt.ranges ∧
    (State.logLaunch s va ctx code src xc).mgmt.biascmd = s.mgmt.biascmd ∧
    (State.logLaunch s va ctx code src xc).mgmt.flips = s.mgmt.flips ∧
    (State.logLaunch s va ctx code src xc).mgmt.flipWait = s.mgmt.flipWait ∧
    (State.logLaunch s va ctx code src xc).mgmt.peerasid = s.mgmt.peerasid ∧
    (State.logLaunch s va ctx code src xc).mgmt.atsel = s.mgmt.atsel ∧
    (State.logLaunch s va ctx code src xc).mgmt.atwin = s.mgmt.atwin ∧
    (State.logLaunch s va ctx code src xc).mgmt.atcommit = s.mgmt.atcommit ∧
    (State.logLaunch s va ctx code src xc).mgmt.ats = s.mgmt.ats ∧
    (State.logLaunch s va ctx code src xc).mgmt.colldom = s.mgmt.colldom ∧
    (State.logLaunch s va ctx code src xc).mgmt.collinj = s.mgmt.collinj ∧
    (State.logLaunch s va ctx code src xc).mgmt.reply = s.mgmt.reply := by
  (unfold State.logLaunch; (try dsimp only); (repeat' split) <;> simp -implicitDefEqProofs (disch := (intros; first | (simp -implicitDefEqProofs [*]; done) | ((try dsimp only); (repeat' split) <;> (simp -implicitDefEqProofs (disch := (intros; (try dsimp only); (repeat' split) <;> (try (simp -implicitDefEqProofs [*]; done)))) [*]; done)) | skip)) [State.updMgmt])
theorem sysWrite_keeps (s : State) (bw : Option Nat) (c : Nat) (va : DWord) (d : List Byte) (t : State) (h : s.sysWrite bw c va d = some t) :
    t.waves = s.waves ∧
    t.blocks = s.blocks ∧
    t.launches = s.launches ∧
    t.peerMem = s.peerMem ∧
    t.claims = s.claims ∧
    t.regions = s.regions ∧
    t.tlb = s.tlb ∧
    t.accs = s.accs ∧
    t.net = s.net ∧
    t.abufs = s.abufs ∧
    t.jobs = s.jobs ∧
    t.feet = s.feet ∧
    t.shapes = s.shapes ∧
    t.eqs = s.eqs ∧
    t.insts = s.insts ∧
    t.hostAccs = s.hostAccs ∧
    t.mgmt = s.mgmt ∧
    t.focus = s.focus ∧
    t.agenda = s.agenda ∧
    (∀ k, t.wave k = s.wave k) ∧
    (∀ k, t.block k = s.block k) ∧
    (∀ k, t.launch k = s.launch k) := by
  unfold State.sysWrite at h
  repeat' split at h
  all_goals first | (simp at h; done) | (simp only [Option.some.injEq] at h; subst h; simp [State.wave, State.block, State.launch, State.core])
@[simp] theorem putStats_keeps (s : State) (id : Nat) (l : Launch) (n j : Nat) :
    (s.putStats id l n j).1.waves = s.waves ∧
    (s.putStats id l n j).1.blocks = s.blocks ∧
    (s.putStats id l n j).1.launches = s.launches ∧
    (s.putStats id l n j).1.peerMem = s.peerMem ∧
    (s.putStats id l n j).1.claims = s.claims ∧
    (s.putStats id l n j).1.regions = s.regions ∧
    (s.putStats id l n j).1.tlb = s.tlb ∧
    (s.putStats id l n j).1.accs = s.accs ∧
    (s.putStats id l n j).1.net = s.net ∧
    (s.putStats id l n j).1.abufs = s.abufs ∧
    (s.putStats id l n j).1.jobs = s.jobs ∧
    (s.putStats id l n j).1.feet = s.feet ∧
    (s.putStats id l n j).1.shapes = s.shapes ∧
    (s.putStats id l n j).1.eqs = s.eqs ∧
    (s.putStats id l n j).1.insts = s.insts ∧
    (s.putStats id l n j).1.hostAccs = s.hostAccs ∧
    (s.putStats id l n j).1.mgmt = s.mgmt ∧
    (s.putStats id l n j).1.focus = s.focus ∧
    (s.putStats id l n j).1.agenda = s.agenda ∧
    (∀ k, (s.putStats id l n j).1.wave k = s.wave k) ∧
    (∀ k, (s.putStats id l n j).1.block k = s.block k) ∧
    (∀ k, (s.putStats id l n j).1.launch k = s.launch k) := by
  induction n generalizing s j with
  | zero => simp [State.putStats]
  | succ n ih =>
    simp only [State.putStats]
    split
    · rename_i t h; have h := sysWrite_keeps _ _ _ _ _ t h; simp [ih, h]
    · simp
@[simp] theorem State.report_keeps (s : State) (by' : Option Nat) (doneVa : DWord) (va : DWord) (ctx : Nat) (code : Nat) (src : Source) (xc : Nat) :
    (State.report s by' doneVa va ctx code src xc).waves = s.waves ∧
    (State.report s by' doneVa va ctx code src xc).blocks = s.blocks ∧
    (State.report s by' doneVa va ctx code src xc).launches = s.launches ∧
    (State.report s by' doneVa va ctx code src xc).peerMem = s.peerMem ∧
    (State.report s by' doneVa va ctx code src xc).claims = s.claims ∧
    (State.report s by' doneVa va ctx code src xc).regions = s.regions ∧
    (State.report s by' doneVa va ctx code src xc).tlb = s.tlb ∧
    (State.report s by' doneVa va ctx code src xc).accs = s.accs ∧
    (State.report s by' doneVa va ctx code src xc).net = s.net ∧
    (State.report s by' doneVa va ctx code src xc).abufs = s.abufs ∧
    (State.report s by' doneVa va ctx code src xc).jobs = s.jobs ∧
    (State.report s by' doneVa va ctx code src xc).feet = s.feet ∧
    (State.report s by' doneVa va ctx code src xc).shapes = s.shapes ∧
    (State.report s by' doneVa va ctx code src xc).eqs = s.eqs ∧
    (State.report s by' doneVa va ctx code src xc).insts = s.insts ∧
    (State.report s by' doneVa va ctx code src xc).hostAccs = s.hostAccs ∧
    (State.report s by' doneVa va ctx code src xc).focus = s.focus ∧
    (State.report s by' doneVa va ctx code src xc).agenda = s.agenda ∧
    (∀ k, (State.report s by' doneVa va ctx code src xc).wave k = s.wave k) ∧
    (∀ k, (State.report s by' doneVa va ctx code src xc).block k = s.block k) ∧
    (∀ k, (State.report s by' doneVa va ctx code src xc).launch k = s.launch k) := by
  unfold State.report; dsimp only; split
  · simp [State.wave, State.block, State.launch, State.core]
  · split
    · rename_i t h; have h := sysWrite_keeps _ _ _ _ _ t h; simp [h]
    · simp [State.wave, State.block, State.launch, State.core]
@[simp] theorem State.report_keepsM (s : State) (by' : Option Nat) (doneVa : DWord) (va : DWord) (ctx : Nat) (code : Nat) (src : Source) (xc : Nat) :
    (State.report s by' doneVa va ctx code src xc).mgmt.partid = s.mgmt.partid ∧
    (State.report s by' doneVa va ctx code src xc).mgmt.pciid = s.mgmt.pciid ∧
    (State.report s by' doneVa va ctx code src xc).mgmt.cfgstat = s.mgmt.cfgstat ∧
    (State.report s by' doneVa va ctx code src xc).mgmt.bootstat = s.mgmt.bootstat ∧
    (State.report s by' doneVa va ctx code src xc).mgmt.hostmode = s.mgmt.hostmode ∧
    (State.report s by' doneVa va ctx code src xc).mgmt.apbase = s.mgmt.apbase ∧
    (State.report s by' doneVa va ctx code src xc).mgmt.devnum = s.mgmt.devnum ∧
    (State.report s by' doneVa va ctx code src xc).mgmt.flashA = s.mgmt.flashA ∧
    (State.report s by' doneVa va ctx code src xc).mgmt.flashB = s.mgmt.flashB ∧
    (State.report s by' doneVa va ctx code src xc).mgmt.flashTorn = s.mgmt.flashTorn ∧
    (State.report s by' doneVa va ctx code src xc).mgmt.flashRun = s.mgmt.flashRun ∧
    (State.report s by' doneVa va ctx code src xc).mgmt.fladdr = s.mgmt.fladdr ∧
    (State.report s by' doneVa va ctx code src xc).mgmt.flcmd = s.mgmt.flcmd ∧
    (State.report s by' doneVa va ctx code src xc).mgmt.fldata = s.mgmt.fldata ∧
    (State.report s by' doneVa va ctx code src xc).mgmt.remap = s.mgmt.remap ∧
    (State.report s by' doneVa va ctx code src xc).mgmt.failed = s.mgmt.failed ∧
    (State.report s by' doneVa va ctx code src xc).mgmt.spareCluster = s.mgmt.spareCluster ∧
    (State.report s by' doneVa va ctx code src xc).mgmt.unplaced = s.mgmt.unplaced ∧
    (State.report s by' doneVa va ctx code src xc).mgmt.former = s.mgmt.former ∧
    (State.report s by' doneVa va ctx code src xc).mgmt.parkAtReset = s.mgmt.parkAtReset ∧
    (State.report s by' doneVa va ctx code src xc).mgmt.spareLanes = s.mgmt.spareLanes ∧
    (State.report s by' doneVa va ctx code src xc).mgmt.sliceq = s.mgmt.sliceq ∧
    (State.report s by' doneVa va ctx code src xc).mgmt.lq = s.mgmt.lq ∧
    (State.report s by' doneVa va ctx code src xc).mgmt.lauq = s.mgmt.lauq ∧
    (State.report s by' doneVa va ctx code src xc).mgmt.rr = s.mgmt.rr ∧
    (State.report s by' doneVa va ctx code src xc).mgmt.pwrceil = s.mgmt.pwrceil ∧
    (State.report s by' doneVa va ctx code src xc).mgmt.pstlim = s.mgmt.pstlim ∧
    (State.report s by' doneVa va ctx code src xc).mgmt.pwrstat = s.mgmt.pwrstat ∧
    (State.report s by' doneVa va ctx code src xc).mgmt.pGoal = s.mgmt.pGoal ∧
    (State.report s by' doneVa va ctx code src xc).mgmt.mGoal = s.mgmt.mGoal ∧
    (State.report s by' doneVa va ctx code src xc).mgmt.pNext = s.mgmt.pNext ∧
    (State.report s by' doneVa va ctx code src xc).mgmt.mNext = s.mgmt.mNext ∧
    (State.report s by' doneVa va ctx code src xc).mgmt.diepark = s.mgmt.diepark ∧
    (State.report s by' doneVa va ctx code src xc).mgmt.dieWait = s.mgmt.dieWait ∧
    (State.report s by' doneVa va ctx code src xc).mgmt.ensave = s.mgmt.ensave ∧
    (State.report s by' doneVa va ctx code src xc).mgmt.ewt = s.mgmt.ewt ∧
    (State.report s by' doneVa va ctx code src xc).mgmt.stw = s.mgmt.stw ∧
    (State.report s by' doneVa va ctx code src xc).mgmt.hlth = s.mgmt.hlth ∧
    (State.report s by' doneVa va ctx code src xc).mgmt.age = s.mgmt.age ∧
    (State.report s by' doneVa va ctx code src xc).mgmt.memh = s.mgmt.memh ∧
    (State.report s by' doneVa va ctx code src xc).mgmt.linkh = s.mgmt.linkh ∧
    (State.report s by' doneVa va ctx code src xc).mgmt.samples = s.mgmt.samples ∧
    (State.report s by' doneVa va ctx code src xc).mgmt.ckpt0 = s.mgmt.ckpt0 ∧
    (State.report s by' doneVa va ctx code src xc).mgmt.ckpt1 = s.mgmt.ckpt1 ∧
    (State.report s by' doneVa va ctx code src xc).mgmt.ckpt2 = s.mgmt.ckpt2 ∧
    (State.report s by' doneVa va ctx code src xc).mgmt.ckptGood = s.mgmt.ckptGood ∧
    (State.report s by' doneVa va ctx code src xc).mgmt.ckptBlocks = s.mgmt.ckptBlocks ∧
    (State.report s by' doneVa va ctx code src xc).mgmt.ctxs = s.mgmt.ctxs ∧
    (State.report s by' doneVa va ctx code src xc).mgmt.pfbase = s.mgmt.pfbase ∧
    (State.report s by' doneVa va ctx code src xc).mgmt.pfhead = s.mgmt.pfhead ∧
    (State.report s by' doneVa va ctx code src xc).mgmt.pftail = s.mgmt.pftail ∧
    (State.report s by' doneVa va ctx code src xc).mgmt.faults = s.mgmt.faults ∧
    (State.report s by' doneVa va ctx code src xc).mgmt.tlbinv = s.mgmt.tlbinv ∧
    (State.report s by' doneVa va ctx code src xc).mgmt.tlbinvn = s.mgmt.tlbinvn ∧
    (State.report s by' doneVa va ctx code src xc).mgmt.ranges = s.mgmt.ranges ∧
    (State.report s by' doneVa va ctx code src xc).mgmt.biascmd = s.mgmt.biascmd ∧
    (State.report s by' doneVa va ctx code src xc).mgmt.flips = s.mgmt.flips ∧
    (State.report s by' doneVa va ctx code src xc).mgmt.flipWait = s.mgmt.flipWait ∧
    (State.report s by' doneVa va ctx code src xc).mgmt.peerasid = s.mgmt.peerasid ∧
    (State.report s by' doneVa va ctx code src xc).mgmt.atsel = s.mgmt.atsel ∧
    (State.report s by' doneVa va ctx code src xc).mgmt.atwin = s.mgmt.atwin ∧
    (State.report s by' doneVa va ctx code src xc).mgmt.atcommit = s.mgmt.atcommit ∧
    (State.report s by' doneVa va ctx code src xc).mgmt.ats = s.mgmt.ats ∧
    (State.report s by' doneVa va ctx code src xc).mgmt.colldom = s.mgmt.colldom ∧
    (State.report s by' doneVa va ctx code src xc).mgmt.collinj = s.mgmt.collinj ∧
    (State.report s by' doneVa va ctx code src xc).mgmt.reply = s.mgmt.reply := by
  unfold State.report; dsimp only; split
  · simp [State.updMgmt]
  · split
    · rename_i t h; have h := sysWrite_keeps _ _ _ _ _ t h; simp [h]
    · simp [State.updMgmt]
@[simp] theorem State.applyBuf_keeps (s : State) (e : ABuf) :
    (s.applyBuf e).blocks = s.blocks ∧
    (s.applyBuf e).launches = s.launches ∧
    (s.applyBuf e).peerMem = s.peerMem ∧
    (s.applyBuf e).claims = s.claims ∧
    (s.applyBuf e).regions = s.regions ∧
    (s.applyBuf e).rdc = s.rdc ∧
    (s.applyBuf e).tlb = s.tlb ∧
    (s.applyBuf e).accs = s.accs ∧
    (s.applyBuf e).net = s.net ∧
    (s.applyBuf e).abufs = s.abufs ∧
    (s.applyBuf e).jobs = s.jobs ∧
    (s.applyBuf e).feet = s.feet ∧
    (s.applyBuf e).shapes = s.shapes ∧
    (s.applyBuf e).eqs = s.eqs ∧
    (s.applyBuf e).insts = s.insts ∧
    (s.applyBuf e).hostAccs = s.hostAccs ∧
    (s.applyBuf e).mgmt = s.mgmt ∧
    (s.applyBuf e).focus = s.focus ∧
    (s.applyBuf e).agenda = s.agenda ∧
    (∀ k, (s.applyBuf e).block k = s.block k) ∧
    (∀ k, (s.applyBuf e).launch k = s.launch k) := by
  (unfold State.applyBuf; (try dsimp only); (repeat' split) <;> simp -implicitDefEqProofs (disch := (intros; first | (simp -implicitDefEqProofs [*]; done) | ((try dsimp only); (repeat' split) <;> (simp -implicitDefEqProofs (disch := (intros; (try dsimp only); (repeat' split) <;> (try (simp -implicitDefEqProofs [*]; done)))) [*]; done)) | skip)) [State.wave, State.block, State.launch, State.core])
@[simp] theorem State.applyBuf_keepsW (s : State) (e : ABuf) (k : Nat) :
    ((s.applyBuf e).wave k).block = (s.wave k).block ∧
    ((s.applyBuf e).wave k).idx = (s.wave k).idx ∧
    ((s.applyBuf e).wave k).exited = (s.wave k).exited ∧
    ((s.applyBuf e).wave k).launchMask = (s.wave k).launchMask ∧
    ((s.applyBuf e).wave k).pad = (s.wave k).pad ∧
    ((s.applyBuf e).wave k).sregs = (s.wave k).sregs ∧
    ((s.applyBuf e).wave k).vregs = (s.wave k).vregs ∧
    ((s.applyBuf e).wave k).pregs = (s.wave k).pregs ∧
    ((s.applyBuf e).wave k).slotA = (s.wave k).slotA ∧
    ((s.applyBuf e).wave k).slotB = (s.wave k).slotB ∧
    ((s.applyBuf e).wave k).lastB = (s.wave k).lastB ∧
    ((s.applyBuf e).wave k).spill = (s.wave k).spill ∧
    ((s.applyBuf e).wave k).handler = (s.wave k).handler ∧
    ((s.applyBuf e).wave k).xpc = (s.wave k).xpc ∧
    ((s.applyBuf e).wave k).xmode = (s.wave k).xmode ∧
    ((s.applyBuf e).wave k).xcause = (s.wave k).xcause ∧
    ((s.applyBuf e).wave k).xlanes = (s.wave k).xlanes ∧
    ((s.applyBuf e).wave k).xaddr = (s.wave k).xaddr ∧
    ((s.applyBuf e).wave k).gexposed = (s.wave k).gexposed ∧
    ((s.applyBuf e).wave k).mm = (s.wave k).mm ∧
    ((s.applyBuf e).wave k).epoch = (s.wave k).epoch ∧
    ((s.applyBuf e).wave k).tags = (s.wave k).tags ∧
    ((s.applyBuf e).wave k).sfr = (s.wave k).sfr ∧
    ((s.applyBuf e).wave k).arrived = (s.wave k).arrived ∧
    ((s.applyBuf e).wave k).region = (s.wave k).region ∧
    ((s.applyBuf e).wave k).lost = (s.wave k).lost ∧
    ((s.applyBuf e).wave k).since = (s.wave k).since ∧
    ((s.applyBuf e).wave k).jobs = (s.wave k).jobs ∧
    ((s.applyBuf e).wave k).left = (s.wave k).left := by
  unfold State.applyBuf; split
  · split
    · simp only [State.updWave_at]; split
      · rename_i h; subst h; simp
      · simp
    · simp
  · split <;> simp [State.wave]
/-- The waves of a state do not depend on its buffered reductions. -/
@[simp] theorem State.wave_abufs (s : State) (l : List ABuf) (k : Nat) : ({ s with abufs := l } : State).wave k = s.wave k := rfl
@[simp] theorem State.applyBufs_keeps (l : List ABuf) (s : State) :
    ((s.applyBufs l).1).blocks = s.blocks ∧
    ((s.applyBufs l).1).launches = s.launches ∧
    ((s.applyBufs l).1).peerMem = s.peerMem ∧
    ((s.applyBufs l).1).claims = s.claims ∧
    ((s.applyBufs l).1).regions = s.regions ∧
    ((s.applyBufs l).1).rdc = s.rdc ∧
    ((s.applyBufs l).1).tlb = s.tlb ∧
    ((s.applyBufs l).1).accs = s.accs ∧
    ((s.applyBufs l).1).net = s.net ∧
    ((s.applyBufs l).1).abufs = s.abufs ∧
    ((s.applyBufs l).1).jobs = s.jobs ∧
    ((s.applyBufs l).1).feet = s.feet ∧
    ((s.applyBufs l).1).shapes = s.shapes ∧
    ((s.applyBufs l).1).eqs = s.eqs ∧
    ((s.applyBufs l).1).insts = s.insts ∧
    ((s.applyBufs l).1).hostAccs = s.hostAccs ∧
    ((s.applyBufs l).1).mgmt = s.mgmt ∧
    ((s.applyBufs l).1).focus = s.focus ∧
    ((s.applyBufs l).1).agenda = s.agenda ∧
    (∀ k, ((s.applyBufs l).1).block k = s.block k) ∧
    (∀ k, ((s.applyBufs l).1).launch k = s.launch k) := by
  induction l generalizing s with
  | nil => simp [State.applyBufs]
  | cons e t ih => unfold State.applyBufs; split <;> simp [ih]
@[simp] theorem State.applyBufs_keepsW (l : List ABuf) (s : State) (k : Nat) :
    (((s.applyBufs l).1).wave k).block = (s.wave k).block ∧
    (((s.applyBufs l).1).wave k).idx = (s.wave k).idx ∧
    (((s.applyBufs l).1).wave k).exited = (s.wave k).exited ∧
    (((s.applyBufs l).1).wave k).launchMask = (s.wave k).launchMask ∧
    (((s.applyBufs l).1).wave k).pad = (s.wave k).pad ∧
    (((s.applyBufs l).1).wave k).sregs = (s.wave k).sregs ∧
    (((s.applyBufs l).1).wave k).vregs = (s.wave k).vregs ∧
    (((s.applyBufs l).1).wave k).pregs = (s.wave k).pregs ∧
    (((s.applyBufs l).1).wave k).slotA = (s.wave k).slotA ∧
    (((s.applyBufs l).1).wave k).slotB = (s.wave k).slotB ∧
    (((s.applyBufs l).1).wave k).lastB = (s.wave k).lastB ∧
    (((s.applyBufs l).1).wave k).spill = (s.wave k).spill ∧
    (((s.applyBufs l).1).wave k).handler = (s.wave k).handler ∧
    (((s.applyBufs l).1).wave k).xpc = (s.wave k).xpc ∧
    (((s.applyBufs l).1).wave k).xmode = (s.wave k).xmode ∧
    (((s.applyBufs l).1).wave k).xcause = (s.wave k).xcause ∧
    (((s.applyBufs l).1).wave k).xlanes = (s.wave k).xlanes ∧
    (((s.applyBufs l).1).wave k).xaddr = (s.wave k).xaddr ∧
    (((s.applyBufs l).1).wave k).gexposed = (s.wave k).gexposed ∧
    (((s.applyBufs l).1).wave k).mm = (s.wave k).mm ∧
    (((s.applyBufs l).1).wave k).epoch = (s.wave k).epoch ∧
    (((s.applyBufs l).1).wave k).tags = (s.wave k).tags ∧
    (((s.applyBufs l).1).wave k).sfr = (s.wave k).sfr ∧
    (((s.applyBufs l).1).wave k).arrived = (s.wave k).arrived ∧
    (((s.applyBufs l).1).wave k).region = (s.wave k).region ∧
    (((s.applyBufs l).1).wave k).lost = (s.wave k).lost ∧
    (((s.applyBufs l).1).wave k).since = (s.wave k).since ∧
    (((s.applyBufs l).1).wave k).jobs = (s.wave k).jobs ∧
    (((s.applyBufs l).1).wave k).left = (s.wave k).left := by
  induction l generalizing s with
  | nil => simp [State.applyBufs]
  | cons e t ih => unfold State.applyBufs; split <;> simp [ih]
@[simp] theorem State.drainBufs_keeps (s : State) :
    (s.drainBufs).blocks = s.blocks ∧
    (s.drainBufs).launches = s.launches ∧
    (s.drainBufs).peerMem = s.peerMem ∧
    (s.drainBufs).claims = s.claims ∧
    (s.drainBufs).regions = s.regions ∧
    (s.drainBufs).rdc = s.rdc ∧
    (s.drainBufs).tlb = s.tlb ∧
    (s.drainBufs).accs = s.accs ∧
    (s.drainBufs).net = s.net ∧
    (s.drainBufs).jobs = s.jobs ∧
    (s.drainBufs).feet = s.feet ∧
    (s.drainBufs).shapes = s.shapes ∧
    (s.drainBufs).eqs = s.eqs ∧
    (s.drainBufs).insts = s.insts ∧
    (s.drainBufs).hostAccs = s.hostAccs ∧
    (s.drainBufs).mgmt = s.mgmt ∧
    (s.drainBufs).focus = s.focus ∧
    (s.drainBufs).agenda = s.agenda ∧
    (∀ k, (s.drainBufs).block k = s.block k) ∧
    (∀ k, (s.drainBufs).launch k = s.launch k) := by
  simp [State.drainBufs, State.block, State.launch]
@[simp] theorem State.drainBufs_keepsW (s : State) (k : Nat) :
    ((s.drainBufs).wave k).block = (s.wave k).block ∧
    ((s.drainBufs).wave k).idx = (s.wave k).idx ∧
    ((s.drainBufs).wave k).exited = (s.wave k).exited ∧
    ((s.drainBufs).wave k).launchMask = (s.wave k).launchMask ∧
    ((s.drainBufs).wave k).pad = (s.wave k).pad ∧
    ((s.drainBufs).wave k).sregs = (s.wave k).sregs ∧
    ((s.drainBufs).wave k).vregs = (s.wave k).vregs ∧
    ((s.drainBufs).wave k).pregs = (s.wave k).pregs ∧
    ((s.drainBufs).wave k).slotA = (s.wave k).slotA ∧
    ((s.drainBufs).wave k).slotB = (s.wave k).slotB ∧
    ((s.drainBufs).wave k).lastB = (s.wave k).lastB ∧
    ((s.drainBufs).wave k).spill = (s.wave k).spill ∧
    ((s.drainBufs).wave k).handler = (s.wave k).handler ∧
    ((s.drainBufs).wave k).xpc = (s.wave k).xpc ∧
    ((s.drainBufs).wave k).xmode = (s.wave k).xmode ∧
    ((s.drainBufs).wave k).xcause = (s.wave k).xcause ∧
    ((s.drainBufs).wave k).xlanes = (s.wave k).xlanes ∧
    ((s.drainBufs).wave k).xaddr = (s.wave k).xaddr ∧
    ((s.drainBufs).wave k).gexposed = (s.wave k).gexposed ∧
    ((s.drainBufs).wave k).mm = (s.wave k).mm ∧
    ((s.drainBufs).wave k).epoch = (s.wave k).epoch ∧
    ((s.drainBufs).wave k).tags = (s.wave k).tags ∧
    ((s.drainBufs).wave k).sfr = (s.wave k).sfr ∧
    ((s.drainBufs).wave k).arrived = (s.wave k).arrived ∧
    ((s.drainBufs).wave k).region = (s.wave k).region ∧
    ((s.drainBufs).wave k).lost = (s.wave k).lost ∧
    ((s.drainBufs).wave k).since = (s.wave k).since ∧
    ((s.drainBufs).wave k).jobs = (s.wave k).jobs ∧
    ((s.drainBufs).wave k).left = (s.wave k).left := by
  unfold State.drainBufs; simp only [State.wave_abufs, State.applyBufs_keepsW, and_self]
@[simp] theorem State.flushBufs_keeps (s : State) (f : ABuf → Bool) :
    (s.flushBufs f).blocks = s.blocks ∧
    (s.flushBufs f).launches = s.launches ∧
    (s.flushBufs f).peerMem = s.peerMem ∧
    (s.flushBufs f).claims = s.claims ∧
    (s.flushBufs f).regions = s.regions ∧
    (s.flushBufs f).rdc = s.rdc ∧
    (s.flushBufs f).tlb = s.tlb ∧
    (s.flushBufs f).accs = s.accs ∧
    (s.flushBufs f).net = s.net ∧
    (s.flushBufs f).jobs = s.jobs ∧
    (s.flushBufs f).feet = s.feet ∧
    (s.flushBufs f).shapes = s.shapes ∧
    (s.flushBufs f).eqs = s.eqs ∧
    (s.flushBufs f).insts = s.insts ∧
    (s.flushBufs f).hostAccs = s.hostAccs ∧
    (s.flushBufs f).mgmt = s.mgmt ∧
    (s.flushBufs f).focus = s.focus ∧
    (s.flushBufs f).agenda = s.agenda ∧
    (∀ k, (s.flushBufs f).block k = s.block k) ∧
    (∀ k, (s.flushBufs f).launch k = s.launch k) := by
  unfold State.flushBufs; simp [State.block, State.launch]
@[simp] theorem State.flushBufs_keepsW (s : State) (f : ABuf → Bool) (k : Nat) :
    ((s.flushBufs f).wave k).block = (s.wave k).block ∧
    ((s.flushBufs f).wave k).idx = (s.wave k).idx ∧
    ((s.flushBufs f).wave k).exited = (s.wave k).exited ∧
    ((s.flushBufs f).wave k).launchMask = (s.wave k).launchMask ∧
    ((s.flushBufs f).wave k).pad = (s.wave k).pad ∧
    ((s.flushBufs f).wave k).sregs = (s.wave k).sregs ∧
    ((s.flushBufs f).wave k).vregs = (s.wave k).vregs ∧
    ((s.flushBufs f).wave k).pregs = (s.wave k).pregs ∧
    ((s.flushBufs f).wave k).slotA = (s.wave k).slotA ∧
    ((s.flushBufs f).wave k).slotB = (s.wave k).slotB ∧
    ((s.flushBufs f).wave k).lastB = (s.wave k).lastB ∧
    ((s.flushBufs f).wave k).spill = (s.wave k).spill ∧
    ((s.flushBufs f).wave k).handler = (s.wave k).handler ∧
    ((s.flushBufs f).wave k).xpc = (s.wave k).xpc ∧
    ((s.flushBufs f).wave k).xmode = (s.wave k).xmode ∧
    ((s.flushBufs f).wave k).xcause = (s.wave k).xcause ∧
    ((s.flushBufs f).wave k).xlanes = (s.wave k).xlanes ∧
    ((s.flushBufs f).wave k).xaddr = (s.wave k).xaddr ∧
    ((s.flushBufs f).wave k).gexposed = (s.wave k).gexposed ∧
    ((s.flushBufs f).wave k).mm = (s.wave k).mm ∧
    ((s.flushBufs f).wave k).epoch = (s.wave k).epoch ∧
    ((s.flushBufs f).wave k).tags = (s.wave k).tags ∧
    ((s.flushBufs f).wave k).sfr = (s.wave k).sfr ∧
    ((s.flushBufs f).wave k).arrived = (s.wave k).arrived ∧
    ((s.flushBufs f).wave k).region = (s.wave k).region ∧
    ((s.flushBufs f).wave k).lost = (s.wave k).lost ∧
    ((s.flushBufs f).wave k).since = (s.wave k).since ∧
    ((s.flushBufs f).wave k).jobs = (s.wave k).jobs ∧
    ((s.flushBufs f).wave k).left = (s.wave k).left := by
  unfold State.flushBufs; simp only [State.drainBufs_keepsW, State.wave_abufs, and_self]
@[simp] theorem State.freeCell_keeps (s : State) (c : Cell) (v : BitVec 64) :
    (State.freeCell s c v).waves = s.waves ∧
    (State.freeCell s c v).blocks = s.blocks ∧
    (State.freeCell s c v).launches = s.launches ∧
    (State.freeCell s c v).cores = s.cores ∧
    (State.freeCell s c v).hostMem = s.hostMem ∧
    (State.freeCell s c v).peerMem = s.peerMem ∧
    (State.freeCell s c v).registrant = s.registrant ∧
    (State.freeCell s c v).claims = s.claims ∧
    (State.freeCell s c v).regions = s.regions ∧
    (State.freeCell s c v).rdc = s.rdc ∧
    (State.freeCell s c v).tlb = s.tlb ∧
    (State.freeCell s c v).accs = s.accs ∧
    (State.freeCell s c v).net = s.net ∧
    (State.freeCell s c v).abufs = s.abufs ∧
    (State.freeCell s c v).jobs = s.jobs ∧
    (State.freeCell s c v).feet = s.feet ∧
    (State.freeCell s c v).shapes = s.shapes ∧
    (State.freeCell s c v).eqs = s.eqs ∧
    (State.freeCell s c v).insts = s.insts ∧
    (State.freeCell s c v).links = s.links ∧
    (State.freeCell s c v).hostAccs = s.hostAccs ∧
    (State.freeCell s c v).mgmt = s.mgmt ∧
    (State.freeCell s c v).focus = s.focus ∧
    (State.freeCell s c v).agenda = s.agenda ∧
    (∀ k, (State.freeCell s c v).wave k = s.wave k) ∧
    (∀ k, (State.freeCell s c v).block k = s.block k) ∧
    (∀ k, (State.freeCell s c v).launch k = s.launch k) ∧
    (∀ k, (State.freeCell s c v).core k = s.core k) := by
  (unfold State.freeCell; (try dsimp only); (repeat' split) <;> simp -implicitDefEqProofs (disch := (intros; first | (simp -implicitDefEqProofs [*]; done) | ((try dsimp only); (repeat' split) <;> (simp -implicitDefEqProofs (disch := (intros; (try dsimp only); (repeat' split) <;> (try (simp -implicitDefEqProofs [*]; done)))) [*]; done)) | skip)) [State.wave, State.block, State.launch, State.core])
@[simp] theorem State.inkCell_keeps (s : State) (c : Cell) :
    (State.inkCell s c).waves = s.waves ∧
    (State.inkCell s c).blocks = s.blocks ∧
    (State.inkCell s c).launches = s.launches ∧
    (State.inkCell s c).cores = s.cores ∧
    (State.inkCell s c).hostMem = s.hostMem ∧
    (State.inkCell s c).peerMem = s.peerMem ∧
    (State.inkCell s c).registrant = s.registrant ∧
    (State.inkCell s c).claims = s.claims ∧
    (State.inkCell s c).regions = s.regions ∧
    (State.inkCell s c).rdc = s.rdc ∧
    (State.inkCell s c).tlb = s.tlb ∧
    (State.inkCell s c).accs = s.accs ∧
    (State.inkCell s c).net = s.net ∧
    (State.inkCell s c).abufs = s.abufs ∧
    (State.inkCell s c).jobs = s.jobs ∧
    (State.inkCell s c).feet = s.feet ∧
    (State.inkCell s c).shapes = s.shapes ∧
    (State.inkCell s c).eqs = s.eqs ∧
    (State.inkCell s c).insts = s.insts ∧
    (State.inkCell s c).links = s.links ∧
    (State.inkCell s c).hostAccs = s.hostAccs ∧
    (State.inkCell s c).mgmt = s.mgmt ∧
    (State.inkCell s c).focus = s.focus ∧
    (State.inkCell s c).agenda = s.agenda ∧
    (∀ k, (State.inkCell s c).wave k = s.wave k) ∧
    (∀ k, (State.inkCell s c).block k = s.block k) ∧
    (∀ k, (State.inkCell s c).launch k = s.launch k) ∧
    (∀ k, (State.inkCell s c).core k = s.core k) := by
  (unfold State.inkCell; (try dsimp only); (repeat' split) <;> simp -implicitDefEqProofs (disch := (intros; first | (simp -implicitDefEqProofs [*]; done) | ((try dsimp only); (repeat' split) <;> (simp -implicitDefEqProofs (disch := (intros; (try dsimp only); (repeat' split) <;> (try (simp -implicitDefEqProofs [*]; done)))) [*]; done)) | skip)) [State.wave, State.block, State.launch, State.core])
@[simp] theorem State.eraseCell_keeps (s : State) (c : Cell) :
    (State.eraseCell s c).waves = s.waves ∧
    (State.eraseCell s c).blocks = s.blocks ∧
    (State.eraseCell s c).launches = s.launches ∧
    (State.eraseCell s c).cores = s.cores ∧
    (State.eraseCell s c).hostMem = s.hostMem ∧
    (State.eraseCell s c).peerMem = s.peerMem ∧
    (State.eraseCell s c).registrant = s.registrant ∧
    (State.eraseCell s c).claims = s.claims ∧
    (State.eraseCell s c).regions = s.regions ∧
    (State.eraseCell s c).rdc = s.rdc ∧
    (State.eraseCell s c).tlb = s.tlb ∧
    (State.eraseCell s c).accs = s.accs ∧
    (State.eraseCell s c).net = s.net ∧
    (State.eraseCell s c).abufs = s.abufs ∧
    (State.eraseCell s c).jobs = s.jobs ∧
    (State.eraseCell s c).feet = s.feet ∧
    (State.eraseCell s c).shapes = s.shapes ∧
    (State.eraseCell s c).eqs = s.eqs ∧
    (State.eraseCell s c).insts = s.insts ∧
    (State.eraseCell s c).links = s.links ∧
    (State.eraseCell s c).hostAccs = s.hostAccs ∧
    (State.eraseCell s c).mgmt = s.mgmt ∧
    (State.eraseCell s c).focus = s.focus ∧
    (State.eraseCell s c).agenda = s.agenda ∧
    (∀ k, (State.eraseCell s c).wave k = s.wave k) ∧
    (∀ k, (State.eraseCell s c).block k = s.block k) ∧
    (∀ k, (State.eraseCell s c).launch k = s.launch k) ∧
    (∀ k, (State.eraseCell s c).core k = s.core k) := by
  (unfold State.eraseCell; (try dsimp only); (repeat' split) <;> simp -implicitDefEqProofs (disch := (intros; first | (simp -implicitDefEqProofs [*]; done) | ((try dsimp only); (repeat' split) <;> (simp -implicitDefEqProofs (disch := (intros; (try dsimp only); (repeat' split) <;> (try (simp -implicitDefEqProofs [*]; done)))) [*]; done)) | skip)) [State.wave, State.block, State.launch, State.core])
@[simp] theorem State.observeCells_keeps (s : State) (w : Nat) (pa : Nat) (n : Nat) :
    (State.observeCells s w pa n).waves = s.waves ∧
    (State.observeCells s w pa n).blocks = s.blocks ∧
    (State.observeCells s w pa n).launches = s.launches ∧
    (State.observeCells s w pa n).cores = s.cores ∧
    (State.observeCells s w pa n).mem = s.mem ∧
    (State.observeCells s w pa n).array = s.array ∧
    (State.observeCells s w pa n).hostMem = s.hostMem ∧
    (State.observeCells s w pa n).peerMem = s.peerMem ∧
    (State.observeCells s w pa n).registrant = s.registrant ∧
    (State.observeCells s w pa n).claims = s.claims ∧
    (State.observeCells s w pa n).regions = s.regions ∧
    (State.observeCells s w pa n).rdc = s.rdc ∧
    (State.observeCells s w pa n).l2 = s.l2 ∧
    (State.observeCells s w pa n).msc = s.msc ∧
    (State.observeCells s w pa n).hbms = s.hbms ∧
    (State.observeCells s w pa n).bad = s.bad ∧
    (State.observeCells s w pa n).weak = s.weak ∧
    (State.observeCells s w pa n).lost = s.lost ∧
    (State.observeCells s w pa n).tlb = s.tlb ∧
    (State.observeCells s w pa n).accs = s.accs ∧
    (State.observeCells s w pa n).net = s.net ∧
    (State.observeCells s w pa n).abufs = s.abufs ∧
    (State.observeCells s w pa n).jobs = s.jobs ∧
    (State.observeCells s w pa n).feet = s.feet ∧
    (State.observeCells s w pa n).shapes = s.shapes ∧
    (State.observeCells s w pa n).eqs = s.eqs ∧
    (State.observeCells s w pa n).insts = s.insts ∧
    (State.observeCells s w pa n).links = s.links ∧
    (State.observeCells s w pa n).hostAccs = s.hostAccs ∧
    (State.observeCells s w pa n).hostLines = s.hostLines ∧
    (State.observeCells s w pa n).mgmt = s.mgmt ∧
    (State.observeCells s w pa n).focus = s.focus ∧
    (State.observeCells s w pa n).agenda = s.agenda ∧
    (State.observeCells s w pa n).seq = s.seq ∧
    (∀ k, (State.observeCells s w pa n).wave k = s.wave k) ∧
    (∀ k, (State.observeCells s w pa n).block k = s.block k) ∧
    (∀ k, (State.observeCells s w pa n).launch k = s.launch k) ∧
    (∀ k, (State.observeCells s w pa n).core k = s.core k) := by
  (unfold State.observeCells; (try dsimp only); (repeat' split) <;> simp -implicitDefEqProofs (disch := (intros; first | (simp -implicitDefEqProofs [*]; done) | ((try dsimp only); (repeat' split) <;> (simp -implicitDefEqProofs (disch := (intros; (try dsimp only); (repeat' split) <;> (try (simp -implicitDefEqProofs [*]; done)))) [*]; done)) | skip)) [State.wave, State.block, State.launch, State.core])
@[simp] theorem State.dropEdges_keeps (s : State) (id : Nat) :
    (State.dropEdges s id).waves = s.waves ∧
    (State.dropEdges s id).blocks = s.blocks ∧
    (State.dropEdges s id).launches = s.launches ∧
    (State.dropEdges s id).cores = s.cores ∧
    (State.dropEdges s id).mem = s.mem ∧
    (State.dropEdges s id).array = s.array ∧
    (State.dropEdges s id).hostMem = s.hostMem ∧
    (State.dropEdges s id).peerMem = s.peerMem ∧
    (State.dropEdges s id).registrant = s.registrant ∧
    (State.dropEdges s id).claims = s.claims ∧
    (State.dropEdges s id).cells = s.cells ∧
    (State.dropEdges s id).regions = s.regions ∧
    (State.dropEdges s id).rdc = s.rdc ∧
    (State.dropEdges s id).l2 = s.l2 ∧
    (State.dropEdges s id).msc = s.msc ∧
    (State.dropEdges s id).hbms = s.hbms ∧
    (State.dropEdges s id).bad = s.bad ∧
    (State.dropEdges s id).weak = s.weak ∧
    (State.dropEdges s id).lost = s.lost ∧
    (State.dropEdges s id).tlb = s.tlb ∧
    (State.dropEdges s id).accs = s.accs ∧
    (State.dropEdges s id).net = s.net ∧
    (State.dropEdges s id).abufs = s.abufs ∧
    (State.dropEdges s id).jobs = s.jobs ∧
    (State.dropEdges s id).shapes = s.shapes ∧
    (State.dropEdges s id).eqs = s.eqs ∧
    (State.dropEdges s id).insts = s.insts ∧
    (State.dropEdges s id).links = s.links ∧
    (State.dropEdges s id).hostAccs = s.hostAccs ∧
    (State.dropEdges s id).hostLines = s.hostLines ∧
    (State.dropEdges s id).mgmt = s.mgmt ∧
    (State.dropEdges s id).focus = s.focus ∧
    (State.dropEdges s id).agenda = s.agenda ∧
    (State.dropEdges s id).seq = s.seq ∧
    (∀ k, (State.dropEdges s id).wave k = s.wave k) ∧
    (∀ k, (State.dropEdges s id).block k = s.block k) ∧
    (∀ k, (State.dropEdges s id).launch k = s.launch k) ∧
    (∀ k, (State.dropEdges s id).core k = s.core k) := by
  (unfold State.dropEdges; (try dsimp only); (repeat' split) <;> simp -implicitDefEqProofs (disch := (intros; first | (simp -implicitDefEqProofs [*]; done) | ((try dsimp only); (repeat' split) <;> (simp -implicitDefEqProofs (disch := (intros; (try dsimp only); (repeat' split) <;> (try (simp -implicitDefEqProofs [*]; done)))) [*]; done)) | skip)) [State.wave, State.block, State.launch, State.core])
@[simp] theorem State.retireFoot_keeps (s : State) (f : FootEnt → Bool) :
    (State.retireFoot s f).waves = s.waves ∧
    (State.retireFoot s f).blocks = s.blocks ∧
    (State.retireFoot s f).launches = s.launches ∧
    (State.retireFoot s f).cores = s.cores ∧
    (State.retireFoot s f).mem = s.mem ∧
    (State.retireFoot s f).array = s.array ∧
    (State.retireFoot s f).hostMem = s.hostMem ∧
    (State.retireFoot s f).peerMem = s.peerMem ∧
    (State.retireFoot s f).registrant = s.registrant ∧
    (State.retireFoot s f).claims = s.claims ∧
    (State.retireFoot s f).cells = s.cells ∧
    (State.retireFoot s f).regions = s.regions ∧
    (State.retireFoot s f).rdc = s.rdc ∧
    (State.retireFoot s f).l2 = s.l2 ∧
    (State.retireFoot s f).msc = s.msc ∧
    (State.retireFoot s f).hbms = s.hbms ∧
    (State.retireFoot s f).bad = s.bad ∧
    (State.retireFoot s f).weak = s.weak ∧
    (State.retireFoot s f).lost = s.lost ∧
    (State.retireFoot s f).tlb = s.tlb ∧
    (State.retireFoot s f).accs = s.accs ∧
    (State.retireFoot s f).net = s.net ∧
    (State.retireFoot s f).abufs = s.abufs ∧
    (State.retireFoot s f).jobs = s.jobs ∧
    (State.retireFoot s f).shapes = s.shapes ∧
    (State.retireFoot s f).eqs = s.eqs ∧
    (State.retireFoot s f).insts = s.insts ∧
    (State.retireFoot s f).links = s.links ∧
    (State.retireFoot s f).hostAccs = s.hostAccs ∧
    (State.retireFoot s f).hostLines = s.hostLines ∧
    (State.retireFoot s f).mgmt = s.mgmt ∧
    (State.retireFoot s f).focus = s.focus ∧
    (State.retireFoot s f).agenda = s.agenda ∧
    (State.retireFoot s f).seq = s.seq ∧
    (∀ k, (State.retireFoot s f).wave k = s.wave k) ∧
    (∀ k, (State.retireFoot s f).block k = s.block k) ∧
    (∀ k, (State.retireFoot s f).launch k = s.launch k) ∧
    (∀ k, (State.retireFoot s f).core k = s.core k) := by
  (unfold State.retireFoot; (try dsimp only); (repeat' split) <;> simp -implicitDefEqProofs (disch := (intros; first | (simp -implicitDefEqProofs [*]; done) | ((try dsimp only); (repeat' split) <;> (simp -implicitDefEqProofs (disch := (intros; (try dsimp only); (repeat' split) <;> (try (simp -implicitDefEqProofs [*]; done)))) [*]; done)) | skip)) [State.wave, State.block, State.launch, State.core])
@[simp] theorem State.killJob_keeps (s : State) (j : Nat) :
    (State.killJob s j).waves = s.waves ∧
    (State.killJob s j).blocks = s.blocks ∧
    (State.killJob s j).launches = s.launches ∧
    (State.killJob s j).cores = s.cores ∧
    (State.killJob s j).mem = s.mem ∧
    (State.killJob s j).array = s.array ∧
    (State.killJob s j).hostMem = s.hostMem ∧
    (State.killJob s j).peerMem = s.peerMem ∧
    (State.killJob s j).registrant = s.registrant ∧
    (State.killJob s j).claims = s.claims ∧
    (State.killJob s j).cells = s.cells ∧
    (State.killJob s j).regions = s.regions ∧
    (State.killJob s j).rdc = s.rdc ∧
    (State.killJob s j).l2 = s.l2 ∧
    (State.killJob s j).msc = s.msc ∧
    (State.killJob s j).hbms = s.hbms ∧
    (State.killJob s j).bad = s.bad ∧
    (State.killJob s j).weak = s.weak ∧
    (State.killJob s j).lost = s.lost ∧
    (State.killJob s j).tlb = s.tlb ∧
    (State.killJob s j).accs = s.accs ∧
    (State.killJob s j).net = s.net ∧
    (State.killJob s j).abufs = s.abufs ∧
    (State.killJob s j).shapes = s.shapes ∧
    (State.killJob s j).eqs = s.eqs ∧
    (State.killJob s j).insts = s.insts ∧
    (State.killJob s j).links = s.links ∧
    (State.killJob s j).hostAccs = s.hostAccs ∧
    (State.killJob s j).hostLines = s.hostLines ∧
    (State.killJob s j).mgmt = s.mgmt ∧
    (State.killJob s j).focus = s.focus ∧
    (State.killJob s j).agenda = s.agenda ∧
    (State.killJob s j).seq = s.seq ∧
    (∀ k, (State.killJob s j).wave k = s.wave k) ∧
    (∀ k, (State.killJob s j).block k = s.block k) ∧
    (∀ k, (State.killJob s j).launch k = s.launch k) ∧
    (∀ k, (State.killJob s j).core k = s.core k) := by
  (unfold State.killJob; (try dsimp only); (repeat' split) <;> simp -implicitDefEqProofs (disch := (intros; first | (simp -implicitDefEqProofs [*]; done) | ((try dsimp only); (repeat' split) <;> (simp -implicitDefEqProofs (disch := (intros; (try dsimp only); (repeat' split) <;> (try (simp -implicitDefEqProofs [*]; done)))) [*]; done)) | skip)) [State.wave, State.block, State.launch, State.core])
@[simp] theorem State.abandonWave_keeps (s : State) (w : Nat) :
    (State.abandonWave s w).launches = s.launches ∧
    (State.abandonWave s w).cores = s.cores ∧
    (State.abandonWave s w).mem = s.mem ∧
    (State.abandonWave s w).array = s.array ∧
    (State.abandonWave s w).hostMem = s.hostMem ∧
    (State.abandonWave s w).peerMem = s.peerMem ∧
    (State.abandonWave s w).registrant = s.registrant ∧
    (State.abandonWave s w).cells = s.cells ∧
    (State.abandonWave s w).regions = s.regions ∧
    (State.abandonWave s w).rdc = s.rdc ∧
    (State.abandonWave s w).l2 = s.l2 ∧
    (State.abandonWave s w).msc = s.msc ∧
    (State.abandonWave s w).hbms = s.hbms ∧
    (State.abandonWave s w).bad = s.bad ∧
    (State.abandonWave s w).weak = s.weak ∧
    (State.abandonWave s w).lost = s.lost ∧
    (State.abandonWave s w).tlb = s.tlb ∧
    (State.abandonWave s w).abufs = s.abufs ∧
    (State.abandonWave s w).jobs = s.jobs ∧
    (State.abandonWave s w).feet = s.feet ∧
    (State.abandonWave s w).shapes = s.shapes ∧
    (State.abandonWave s w).eqs = s.eqs ∧
    (State.abandonWave s w).insts = s.insts ∧
    (State.abandonWave s w).links = s.links ∧
    (State.abandonWave s w).hostAccs = s.hostAccs ∧
    (State.abandonWave s w).hostLines = s.hostLines ∧
    (State.abandonWave s w).mgmt = s.mgmt ∧
    (State.abandonWave s w).focus = s.focus ∧
    (State.abandonWave s w).agenda = s.agenda ∧
    (∀ k, (State.abandonWave s w).launch k = s.launch k) ∧
    (∀ k, (State.abandonWave s w).core k = s.core k) := by
  (unfold State.abandonWave; (try dsimp only); (repeat' split) <;> simp -implicitDefEqProofs (disch := (intros; first | (simp -implicitDefEqProofs [*]; done) | ((try dsimp only); (repeat' split) <;> (simp -implicitDefEqProofs (disch := (intros; (try dsimp only); (repeat' split) <;> (try (simp -implicitDefEqProofs [*]; done)))) [*]; done)) | skip)) [State.wave, State.block, State.launch, State.core])
@[simp] theorem State.releaseColl_keeps (s : State) (b : Nat) :
    (State.releaseColl s b).waves = s.waves ∧
    (State.releaseColl s b).blocks = s.blocks ∧
    (State.releaseColl s b).launches = s.launches ∧
    (State.releaseColl s b).cores = s.cores ∧
    (State.releaseColl s b).mem = s.mem ∧
    (State.releaseColl s b).array = s.array ∧
    (State.releaseColl s b).hostMem = s.hostMem ∧
    (State.releaseColl s b).peerMem = s.peerMem ∧
    (State.releaseColl s b).registrant = s.registrant ∧
    (State.releaseColl s b).claims = s.claims ∧
    (State.releaseColl s b).cells = s.cells ∧
    (State.releaseColl s b).regions = s.regions ∧
    (State.releaseColl s b).rdc = s.rdc ∧
    (State.releaseColl s b).l2 = s.l2 ∧
    (State.releaseColl s b).msc = s.msc ∧
    (State.releaseColl s b).hbms = s.hbms ∧
    (State.releaseColl s b).bad = s.bad ∧
    (State.releaseColl s b).weak = s.weak ∧
    (State.releaseColl s b).lost = s.lost ∧
    (State.releaseColl s b).tlb = s.tlb ∧
    (State.releaseColl s b).accs = s.accs ∧
    (State.releaseColl s b).net = s.net ∧
    (State.releaseColl s b).abufs = s.abufs ∧
    (State.releaseColl s b).jobs = s.jobs ∧
    (State.releaseColl s b).feet = s.feet ∧
    (State.releaseColl s b).shapes = s.shapes ∧
    (State.releaseColl s b).eqs = s.eqs ∧
    (State.releaseColl s b).links = s.links ∧
    (State.releaseColl s b).hostAccs = s.hostAccs ∧
    (State.releaseColl s b).hostLines = s.hostLines ∧
    (State.releaseColl s b).mgmt = s.mgmt ∧
    (State.releaseColl s b).focus = s.focus ∧
    (State.releaseColl s b).agenda = s.agenda ∧
    (State.releaseColl s b).seq = s.seq ∧
    (∀ k, (State.releaseColl s b).wave k = s.wave k) ∧
    (∀ k, (State.releaseColl s b).block k = s.block k) ∧
    (∀ k, (State.releaseColl s b).launch k = s.launch k) ∧
    (∀ k, (State.releaseColl s b).core k = s.core k) := by
  (unfold State.releaseColl; (try dsimp only); (repeat' split) <;> simp -implicitDefEqProofs (disch := (intros; first | (simp -implicitDefEqProofs [*]; done) | ((try dsimp only); (repeat' split) <;> (simp -implicitDefEqProofs (disch := (intros; (try dsimp only); (repeat' split) <;> (try (simp -implicitDefEqProofs [*]; done)))) [*]; done)) | skip)) [State.wave, State.block, State.launch, State.core])
@[simp] theorem State.leaveCore_keeps (s : State) (b : Nat) :
    (State.leaveCore s b).waves = s.waves ∧
    (State.leaveCore s b).blocks = s.blocks ∧
    (State.leaveCore s b).launches = s.launches ∧
    (State.leaveCore s b).mem = s.mem ∧
    (State.leaveCore s b).array = s.array ∧
    (State.leaveCore s b).hostMem = s.hostMem ∧
    (State.leaveCore s b).peerMem = s.peerMem ∧
    (State.leaveCore s b).registrant = s.registrant ∧
    (State.leaveCore s b).claims = s.claims ∧
    (State.leaveCore s b).cells = s.cells ∧
    (State.leaveCore s b).regions = s.regions ∧
    (State.leaveCore s b).rdc = s.rdc ∧
    (State.leaveCore s b).l2 = s.l2 ∧
    (State.leaveCore s b).msc = s.msc ∧
    (State.leaveCore s b).hbms = s.hbms ∧
    (State.leaveCore s b).bad = s.bad ∧
    (State.leaveCore s b).weak = s.weak ∧
    (State.leaveCore s b).lost = s.lost ∧
    (State.leaveCore s b).tlb = s.tlb ∧
    (State.leaveCore s b).accs = s.accs ∧
    (State.leaveCore s b).net = s.net ∧
    (State.leaveCore s b).abufs = s.abufs ∧
    (State.leaveCore s b).jobs = s.jobs ∧
    (State.leaveCore s b).feet = s.feet ∧
    (State.leaveCore s b).shapes = s.shapes ∧
    (State.leaveCore s b).eqs = s.eqs ∧
    (State.leaveCore s b).insts = s.insts ∧
    (State.leaveCore s b).links = s.links ∧
    (State.leaveCore s b).hostAccs = s.hostAccs ∧
    (State.leaveCore s b).hostLines = s.hostLines ∧
    (State.leaveCore s b).mgmt = s.mgmt ∧
    (State.leaveCore s b).focus = s.focus ∧
    (State.leaveCore s b).agenda = s.agenda ∧
    (State.leaveCore s b).seq = s.seq ∧
    (∀ k, (State.leaveCore s b).wave k = s.wave k) ∧
    (∀ k, (State.leaveCore s b).block k = s.block k) ∧
    (∀ k, (State.leaveCore s b).launch k = s.launch k) := by
  (unfold State.leaveCore; (try dsimp only); (repeat' split) <;> simp -implicitDefEqProofs (disch := (intros; first | (simp -implicitDefEqProofs [*]; done) | ((try dsimp only); (repeat' split) <;> (simp -implicitDefEqProofs (disch := (intros; (try dsimp only); (repeat' split) <;> (try (simp -implicitDefEqProofs [*]; done)))) [*]; done)) | skip)) [State.wave, State.block, State.launch, State.core])
@[simp] theorem State.enterCore_keeps (s : State) (b : Nat) :
    (State.enterCore s b).waves = s.waves ∧
    (State.enterCore s b).blocks = s.blocks ∧
    (State.enterCore s b).launches = s.launches ∧
    (State.enterCore s b).mem = s.mem ∧
    (State.enterCore s b).array = s.array ∧
    (State.enterCore s b).hostMem = s.hostMem ∧
    (State.enterCore s b).peerMem = s.peerMem ∧
    (State.enterCore s b).registrant = s.registrant ∧
    (State.enterCore s b).claims = s.claims ∧
    (State.enterCore s b).cells = s.cells ∧
    (State.enterCore s b).regions = s.regions ∧
    (State.enterCore s b).rdc = s.rdc ∧
    (State.enterCore s b).l2 = s.l2 ∧
    (State.enterCore s b).msc = s.msc ∧
    (State.enterCore s b).hbms = s.hbms ∧
    (State.enterCore s b).bad = s.bad ∧
    (State.enterCore s b).weak = s.weak ∧
    (State.enterCore s b).lost = s.lost ∧
    (State.enterCore s b).tlb = s.tlb ∧
    (State.enterCore s b).accs = s.accs ∧
    (State.enterCore s b).net = s.net ∧
    (State.enterCore s b).abufs = s.abufs ∧
    (State.enterCore s b).jobs = s.jobs ∧
    (State.enterCore s b).feet = s.feet ∧
    (State.enterCore s b).shapes = s.shapes ∧
    (State.enterCore s b).eqs = s.eqs ∧
    (State.enterCore s b).insts = s.insts ∧
    (State.enterCore s b).links = s.links ∧
    (State.enterCore s b).hostAccs = s.hostAccs ∧
    (State.enterCore s b).hostLines = s.hostLines ∧
    (State.enterCore s b).mgmt = s.mgmt ∧
    (State.enterCore s b).focus = s.focus ∧
    (State.enterCore s b).agenda = s.agenda ∧
    (State.enterCore s b).seq = s.seq ∧
    (∀ k, (State.enterCore s b).wave k = s.wave k) ∧
    (∀ k, (State.enterCore s b).block k = s.block k) ∧
    (∀ k, (State.enterCore s b).launch k = s.launch k) := by
  (unfold State.enterCore; (try dsimp only); (repeat' split) <;> simp -implicitDefEqProofs (disch := (intros; first | (simp -implicitDefEqProofs [*]; done) | ((try dsimp only); (repeat' split) <;> (simp -implicitDefEqProofs (disch := (intros; (try dsimp only); (repeat' split) <;> (try (simp -implicitDefEqProofs [*]; done)))) [*]; done)) | skip)) [State.wave, State.block, State.launch, State.core])
@[simp] theorem State.finishBlock_keeps (s : State) (b : Nat) :
    (State.finishBlock s b).waves = s.waves ∧
    (State.finishBlock s b).mem = s.mem ∧
    (State.finishBlock s b).array = s.array ∧
    (State.finishBlock s b).hostMem = s.hostMem ∧
    (State.finishBlock s b).peerMem = s.peerMem ∧
    (State.finishBlock s b).registrant = s.registrant ∧
    (State.finishBlock s b).claims = s.claims ∧
    (State.finishBlock s b).cells = s.cells ∧
    (State.finishBlock s b).regions = s.regions ∧
    (State.finishBlock s b).rdc = s.rdc ∧
    (State.finishBlock s b).l2 = s.l2 ∧
    (State.finishBlock s b).msc = s.msc ∧
    (State.finishBlock s b).hbms = s.hbms ∧
    (State.finishBlock s b).bad = s.bad ∧
    (State.finishBlock s b).weak = s.weak ∧
    (State.finishBlock s b).lost = s.lost ∧
    (State.finishBlock s b).tlb = s.tlb ∧
    (State.finishBlock s b).accs = s.accs ∧
    (State.finishBlock s b).net = s.net ∧
    (State.finishBlock s b).abufs = s.abufs ∧
    (State.finishBlock s b).shapes = s.shapes ∧
    (State.finishBlock s b).eqs = s.eqs ∧
    (State.finishBlock s b).links = s.links ∧
    (State.finishBlock s b).hostAccs = s.hostAccs ∧
    (State.finishBlock s b).hostLines = s.hostLines ∧
    (State.finishBlock s b).mgmt = s.mgmt ∧
    (State.finishBlock s b).focus = s.focus ∧
    (State.finishBlock s b).agenda = s.agenda ∧
    (State.finishBlock s b).seq = s.seq ∧
    (∀ k, (State.finishBlock s b).wave k = s.wave k) := by
  (unfold State.finishBlock; (try dsimp only); (repeat' split) <;> simp -implicitDefEqProofs (disch := (intros; first | (simp -implicitDefEqProofs [*]; done) | ((try dsimp only); (repeat' split) <;> (simp -implicitDefEqProofs (disch := (intros; (try dsimp only); (repeat' split) <;> (try (simp -implicitDefEqProofs [*]; done)))) [*]; done)) | skip)) [State.wave, State.block, State.launch, State.core])
@[simp] theorem State.finishBlock_keepsL (s : State) (b : Nat) (k : Nat) :
    ((State.finishBlock s b).launch k).st = (s.launch k).st ∧
    ((State.finishBlock s b).launch k).src = (s.launch k).src ∧
    ((State.finishBlock s b).launch k).va = (s.launch k).va ∧
    ((State.finishBlock s b).launch k).kdesc = (s.launch k).kdesc ∧
    ((State.finishBlock s b).launch k).nblk = (s.launch k).nblk ∧
    ((State.finishBlock s b).launch k).fom = (s.launch k).fom ∧
    ((State.finishBlock s b).launch k).sh = (s.launch k).sh ∧
    ((State.finishBlock s b).launch k).groups = (s.launch k).groups ∧
    ((State.finishBlock s b).launch k).ngrp = (s.launch k).ngrp ∧
    ((State.finishBlock s b).launch k).ctx = (s.launch k).ctx ∧
    ((State.finishBlock s b).launch k).frameN = (s.launch k).frameN ∧
    ((State.finishBlock s b).launch k).frameVa = (s.launch k).frameVa ∧
    ((State.finishBlock s b).launch k).statVa = (s.launch k).statVa ∧
    ((State.finishBlock s b).launch k).doneVa = (s.launch k).doneVa ∧
    ((State.finishBlock s b).launch k).doneVal = (s.launch k).doneVal ∧
    ((State.finishBlock s b).launch k).waves = (s.launch k).waves ∧
    ((State.finishBlock s b).launch k).vregs = (s.launch k).vregs ∧
    ((State.finishBlock s b).launch k).sregs = (s.launch k).sregs ∧
    ((State.finishBlock s b).launch k).accs = (s.launch k).accs ∧
    ((State.finishBlock s b).launch k).scr = (s.launch k).scr ∧
    ((State.finishBlock s b).launch k).spillD = (s.launch k).spillD ∧
    ((State.finishBlock s b).launch k).handler = (s.launch k).handler ∧
    ((State.finishBlock s b).launch k).lim = (s.launch k).lim ∧
    ((State.finishBlock s b).launch k).entry = (s.launch k).entry ∧
    ((State.finishBlock s b).launch k).next = (s.launch k).next ∧
    ((State.finishBlock s b).launch k).gbars = (s.launch k).gbars ∧
    ((State.finishBlock s b).launch k).stats = (s.launch k).stats ∧
    ((State.finishBlock s b).launch k).buffer = (s.launch k).buffer ∧
    ((State.finishBlock s b).launch k).flips = (s.launch k).flips ∧
    ((State.finishBlock s b).launch k).due = (s.launch k).due := by
  first
  | (unfold State.finishBlock; (try dsimp only); (repeat' split) <;> simp -implicitDefEqProofs (disch := (intros; first | (simp -implicitDefEqProofs [*]; done) | ((try dsimp only); (repeat' split) <;> (simp -implicitDefEqProofs (disch := (intros; (try dsimp only); (repeat' split) <;> (try (simp -implicitDefEqProofs [*]; done)))) [*]; done)) | skip)) [State.updLaunch_at, apply_ite Launch.st, apply_ite Launch.src, apply_ite Launch.va, apply_ite Launch.kdesc, apply_ite Launch.nblk, apply_ite Launch.fom, apply_ite Launch.sh, apply_ite Launch.groups, apply_ite Launch.ngrp, apply_ite Launch.ctx, apply_ite Launch.frameN, apply_ite Launch.frameVa, apply_ite Launch.statVa, apply_ite Launch.doneVa, apply_ite Launch.doneVal, apply_ite Launch.waves, apply_ite Launch.vregs, apply_ite Launch.sregs, apply_ite Launch.accs, apply_ite Launch.scr, apply_ite Launch.spillD, apply_ite Launch.handler, apply_ite Launch.lim, apply_ite Launch.entry, apply_ite Launch.next, apply_ite Launch.live, apply_ite Launch.frames, apply_ite Launch.gbars, apply_ite Launch.stats, apply_ite Launch.buffer, apply_ite Launch.flips, apply_ite Launch.due])
  | (unfold State.finishBlock; (try dsimp only); (repeat' split) <;> simp -implicitDefEqProofs (disch := (intros; first | (simp -implicitDefEqProofs [*]; done) | ((try dsimp only); (repeat' split) <;> (simp -implicitDefEqProofs (disch := (intros; (try dsimp only); (repeat' split) <;> (try (simp -implicitDefEqProofs [*]; done)))) [*]; done)) | skip)) [State.launch])
@[simp] theorem State.giveReport_keeps (s : State) (r : Launch) (x1 : Report) :
    (State.giveReport s r x1).waves = s.waves ∧
    (State.giveReport s r x1).blocks = s.blocks ∧
    (State.giveReport s r x1).launches = s.launches ∧
    (State.giveReport s r x1).peerMem = s.peerMem ∧
    (State.giveReport s r x1).claims = s.claims ∧
    (State.giveReport s r x1).regions = s.regions ∧
    (State.giveReport s r x1).tlb = s.tlb ∧
    (State.giveReport s r x1).accs = s.accs ∧
    (State.giveReport s r x1).net = s.net ∧
    (State.giveReport s r x1).abufs = s.abufs ∧
    (State.giveReport s r x1).jobs = s.jobs ∧
    (State.giveReport s r x1).feet = s.feet ∧
    (State.giveReport s r x1).shapes = s.shapes ∧
    (State.giveReport s r x1).eqs = s.eqs ∧
    (State.giveReport s r x1).insts = s.insts ∧
    (State.giveReport s r x1).hostAccs = s.hostAccs ∧
    (State.giveReport s r x1).focus = s.focus ∧
    (State.giveReport s r x1).agenda = s.agenda ∧
    (∀ k, (State.giveReport s r x1).wave k = s.wave k) ∧
    (∀ k, (State.giveReport s r x1).block k = s.block k) ∧
    (∀ k, (State.giveReport s r x1).launch k = s.launch k) := by
  cases x1 with
  | error code xc => simp [State.giveReport]
  | normal =>
    unfold State.giveReport; dsimp only
    split
    · simp
    · split
      · rename_i t hsw; have h := sysWrite_keeps _ _ _ _ _ t hsw; simp [h]
      · simp
@[simp] theorem State.giveReport_keepsM (s : State) (r : Launch) (x1 : Report) :
    (State.giveReport s r x1).mgmt.partid = s.mgmt.partid ∧
    (State.giveReport s r x1).mgmt.pciid = s.mgmt.pciid ∧
    (State.giveReport s r x1).mgmt.cfgstat = s.mgmt.cfgstat ∧
    (State.giveReport s r x1).mgmt.bootstat = s.mgmt.bootstat ∧
    (State.giveReport s r x1).mgmt.hostmode = s.mgmt.hostmode ∧
    (State.giveReport s r x1).mgmt.apbase = s.mgmt.apbase ∧
    (State.giveReport s r x1).mgmt.devnum = s.mgmt.devnum ∧
    (State.giveReport s r x1).mgmt.flashA = s.mgmt.flashA ∧
    (State.giveReport s r x1).mgmt.flashB = s.mgmt.flashB ∧
    (State.giveReport s r x1).mgmt.flashTorn = s.mgmt.flashTorn ∧
    (State.giveReport s r x1).mgmt.flashRun = s.mgmt.flashRun ∧
    (State.giveReport s r x1).mgmt.fladdr = s.mgmt.fladdr ∧
    (State.giveReport s r x1).mgmt.flcmd = s.mgmt.flcmd ∧
    (State.giveReport s r x1).mgmt.fldata = s.mgmt.fldata ∧
    (State.giveReport s r x1).mgmt.remap = s.mgmt.remap ∧
    (State.giveReport s r x1).mgmt.failed = s.mgmt.failed ∧
    (State.giveReport s r x1).mgmt.spareCluster = s.mgmt.spareCluster ∧
    (State.giveReport s r x1).mgmt.unplaced = s.mgmt.unplaced ∧
    (State.giveReport s r x1).mgmt.former = s.mgmt.former ∧
    (State.giveReport s r x1).mgmt.parkAtReset = s.mgmt.parkAtReset ∧
    (State.giveReport s r x1).mgmt.spareLanes = s.mgmt.spareLanes ∧
    (State.giveReport s r x1).mgmt.sliceq = s.mgmt.sliceq ∧
    (State.giveReport s r x1).mgmt.lq = s.mgmt.lq ∧
    (State.giveReport s r x1).mgmt.lauq = s.mgmt.lauq ∧
    (State.giveReport s r x1).mgmt.rr = s.mgmt.rr ∧
    (State.giveReport s r x1).mgmt.pwrceil = s.mgmt.pwrceil ∧
    (State.giveReport s r x1).mgmt.pstlim = s.mgmt.pstlim ∧
    (State.giveReport s r x1).mgmt.pwrstat = s.mgmt.pwrstat ∧
    (State.giveReport s r x1).mgmt.pGoal = s.mgmt.pGoal ∧
    (State.giveReport s r x1).mgmt.mGoal = s.mgmt.mGoal ∧
    (State.giveReport s r x1).mgmt.pNext = s.mgmt.pNext ∧
    (State.giveReport s r x1).mgmt.mNext = s.mgmt.mNext ∧
    (State.giveReport s r x1).mgmt.diepark = s.mgmt.diepark ∧
    (State.giveReport s r x1).mgmt.dieWait = s.mgmt.dieWait ∧
    (State.giveReport s r x1).mgmt.ensave = s.mgmt.ensave ∧
    (State.giveReport s r x1).mgmt.ewt = s.mgmt.ewt ∧
    (State.giveReport s r x1).mgmt.stw = s.mgmt.stw ∧
    (State.giveReport s r x1).mgmt.hlth = s.mgmt.hlth ∧
    (State.giveReport s r x1).mgmt.age = s.mgmt.age ∧
    (State.giveReport s r x1).mgmt.memh = s.mgmt.memh ∧
    (State.giveReport s r x1).mgmt.linkh = s.mgmt.linkh ∧
    (State.giveReport s r x1).mgmt.samples = s.mgmt.samples ∧
    (State.giveReport s r x1).mgmt.ckpt0 = s.mgmt.ckpt0 ∧
    (State.giveReport s r x1).mgmt.ckpt1 = s.mgmt.ckpt1 ∧
    (State.giveReport s r x1).mgmt.ckpt2 = s.mgmt.ckpt2 ∧
    (State.giveReport s r x1).mgmt.ckptGood = s.mgmt.ckptGood ∧
    (State.giveReport s r x1).mgmt.ckptBlocks = s.mgmt.ckptBlocks ∧
    (State.giveReport s r x1).mgmt.ctxs = s.mgmt.ctxs ∧
    (State.giveReport s r x1).mgmt.pfbase = s.mgmt.pfbase ∧
    (State.giveReport s r x1).mgmt.pfhead = s.mgmt.pfhead ∧
    (State.giveReport s r x1).mgmt.pftail = s.mgmt.pftail ∧
    (State.giveReport s r x1).mgmt.faults = s.mgmt.faults ∧
    (State.giveReport s r x1).mgmt.tlbinv = s.mgmt.tlbinv ∧
    (State.giveReport s r x1).mgmt.tlbinvn = s.mgmt.tlbinvn ∧
    (State.giveReport s r x1).mgmt.ranges = s.mgmt.ranges ∧
    (State.giveReport s r x1).mgmt.biascmd = s.mgmt.biascmd ∧
    (State.giveReport s r x1).mgmt.flips = s.mgmt.flips ∧
    (State.giveReport s r x1).mgmt.flipWait = s.mgmt.flipWait ∧
    (State.giveReport s r x1).mgmt.peerasid = s.mgmt.peerasid ∧
    (State.giveReport s r x1).mgmt.atsel = s.mgmt.atsel ∧
    (State.giveReport s r x1).mgmt.atwin = s.mgmt.atwin ∧
    (State.giveReport s r x1).mgmt.atcommit = s.mgmt.atcommit ∧
    (State.giveReport s r x1).mgmt.ats = s.mgmt.ats ∧
    (State.giveReport s r x1).mgmt.colldom = s.mgmt.colldom ∧
    (State.giveReport s r x1).mgmt.collinj = s.mgmt.collinj ∧
    (State.giveReport s r x1).mgmt.reply = s.mgmt.reply := by
  cases x1 with
  | error code xc => simp [State.giveReport]
  | normal =>
    unfold State.giveReport; dsimp only
    split
    · simp
    · split
      · rename_i t hsw; have h := sysWrite_keeps _ _ _ _ _ t hsw; simp [h]
      · simp
@[simp] theorem State.giveBuffer_keeps (s : State) (x0 : Option (Nat × Nat)) :
    (State.giveBuffer s x0).waves = s.waves ∧
    (State.giveBuffer s x0).blocks = s.blocks ∧
    (State.giveBuffer s x0).launches = s.launches ∧
    (State.giveBuffer s x0).cores = s.cores ∧
    (State.giveBuffer s x0).mem = s.mem ∧
    (State.giveBuffer s x0).array = s.array ∧
    (State.giveBuffer s x0).hostMem = s.hostMem ∧
    (State.giveBuffer s x0).peerMem = s.peerMem ∧
    (State.giveBuffer s x0).registrant = s.registrant ∧
    (State.giveBuffer s x0).claims = s.claims ∧
    (State.giveBuffer s x0).cells = s.cells ∧
    (State.giveBuffer s x0).regions = s.regions ∧
    (State.giveBuffer s x0).rdc = s.rdc ∧
    (State.giveBuffer s x0).l2 = s.l2 ∧
    (State.giveBuffer s x0).msc = s.msc ∧
    (State.giveBuffer s x0).hbms = s.hbms ∧
    (State.giveBuffer s x0).bad = s.bad ∧
    (State.giveBuffer s x0).weak = s.weak ∧
    (State.giveBuffer s x0).lost = s.lost ∧
    (State.giveBuffer s x0).tlb = s.tlb ∧
    (State.giveBuffer s x0).accs = s.accs ∧
    (State.giveBuffer s x0).net = s.net ∧
    (State.giveBuffer s x0).abufs = s.abufs ∧
    (State.giveBuffer s x0).jobs = s.jobs ∧
    (State.giveBuffer s x0).feet = s.feet ∧
    (State.giveBuffer s x0).shapes = s.shapes ∧
    (State.giveBuffer s x0).insts = s.insts ∧
    (State.giveBuffer s x0).links = s.links ∧
    (State.giveBuffer s x0).hostAccs = s.hostAccs ∧
    (State.giveBuffer s x0).hostLines = s.hostLines ∧
    (State.giveBuffer s x0).mgmt = s.mgmt ∧
    (State.giveBuffer s x0).focus = s.focus ∧
    (State.giveBuffer s x0).agenda = s.agenda ∧
    (State.giveBuffer s x0).seq = s.seq ∧
    (∀ k, (State.giveBuffer s x0).wave k = s.wave k) ∧
    (∀ k, (State.giveBuffer s x0).block k = s.block k) ∧
    (∀ k, (State.giveBuffer s x0).launch k = s.launch k) ∧
    (∀ k, (State.giveBuffer s x0).core k = s.core k) := by
  (unfold State.giveBuffer; (try dsimp only); (repeat' split) <;> simp -implicitDefEqProofs (disch := (intros; first | (simp -implicitDefEqProofs [*]; done) | ((try dsimp only); (repeat' split) <;> (simp -implicitDefEqProofs (disch := (intros; (try dsimp only); (repeat' split) <;> (try (simp -implicitDefEqProofs [*]; done)))) [*]; done)) | skip)) [State.wave, State.block, State.launch, State.core])
@[simp] theorem State.reportEnd_keeps (s : State) (l : Nat) :
    (State.reportEnd s l).waves = s.waves ∧
    (State.reportEnd s l).blocks = s.blocks ∧
    (State.reportEnd s l).peerMem = s.peerMem ∧
    (State.reportEnd s l).claims = s.claims ∧
    (State.reportEnd s l).regions = s.regions ∧
    (State.reportEnd s l).tlb = s.tlb ∧
    (State.reportEnd s l).accs = s.accs ∧
    (State.reportEnd s l).net = s.net ∧
    (State.reportEnd s l).abufs = s.abufs ∧
    (State.reportEnd s l).jobs = s.jobs ∧
    (State.reportEnd s l).feet = s.feet ∧
    (State.reportEnd s l).shapes = s.shapes ∧
    (State.reportEnd s l).insts = s.insts ∧
    (State.reportEnd s l).hostAccs = s.hostAccs ∧
    (State.reportEnd s l).focus = s.focus ∧
    (State.reportEnd s l).agenda = s.agenda ∧
    (∀ k, (State.reportEnd s l).wave k = s.wave k) ∧
    (∀ k, (State.reportEnd s l).block k = s.block k) := by
  (unfold State.reportEnd; (try dsimp only); (repeat' split) <;> simp -implicitDefEqProofs (disch := (intros; first | (simp -implicitDefEqProofs [*]; done) | ((try dsimp only); (repeat' split) <;> (simp -implicitDefEqProofs (disch := (intros; (try dsimp only); (repeat' split) <;> (try (simp -implicitDefEqProofs [*]; done)))) [*]; done)) | skip)) [State.wave, State.block, State.launch, State.core])
@[simp] theorem State.reportEnd_keepsL (s : State) (l : Nat) (k : Nat) :
    ((State.reportEnd s l).launch k).st = (s.launch k).st ∧
    ((State.reportEnd s l).launch k).src = (s.launch k).src ∧
    ((State.reportEnd s l).launch k).va = (s.launch k).va ∧
    ((State.reportEnd s l).launch k).kdesc = (s.launch k).kdesc ∧
    ((State.reportEnd s l).launch k).nblk = (s.launch k).nblk ∧
    ((State.reportEnd s l).launch k).fom = (s.launch k).fom ∧
    ((State.reportEnd s l).launch k).sh = (s.launch k).sh ∧
    ((State.reportEnd s l).launch k).groups = (s.launch k).groups ∧
    ((State.reportEnd s l).launch k).ngrp = (s.launch k).ngrp ∧
    ((State.reportEnd s l).launch k).ctx = (s.launch k).ctx ∧
    ((State.reportEnd s l).launch k).frameN = (s.launch k).frameN ∧
    ((State.reportEnd s l).launch k).frameVa = (s.launch k).frameVa ∧
    ((State.reportEnd s l).launch k).statVa = (s.launch k).statVa ∧
    ((State.reportEnd s l).launch k).doneVa = (s.launch k).doneVa ∧
    ((State.reportEnd s l).launch k).doneVal = (s.launch k).doneVal ∧
    ((State.reportEnd s l).launch k).waves = (s.launch k).waves ∧
    ((State.reportEnd s l).launch k).vregs = (s.launch k).vregs ∧
    ((State.reportEnd s l).launch k).sregs = (s.launch k).sregs ∧
    ((State.reportEnd s l).launch k).accs = (s.launch k).accs ∧
    ((State.reportEnd s l).launch k).scr = (s.launch k).scr ∧
    ((State.reportEnd s l).launch k).spillD = (s.launch k).spillD ∧
    ((State.reportEnd s l).launch k).handler = (s.launch k).handler ∧
    ((State.reportEnd s l).launch k).lim = (s.launch k).lim ∧
    ((State.reportEnd s l).launch k).entry = (s.launch k).entry ∧
    ((State.reportEnd s l).launch k).next = (s.launch k).next ∧
    ((State.reportEnd s l).launch k).live = (s.launch k).live ∧
    ((State.reportEnd s l).launch k).frames = (s.launch k).frames ∧
    ((State.reportEnd s l).launch k).gbars = (s.launch k).gbars ∧
    ((State.reportEnd s l).launch k).stats = (s.launch k).stats ∧
    ((State.reportEnd s l).launch k).buffer = (s.launch k).buffer ∧
    ((State.reportEnd s l).launch k).flips = (s.launch k).flips := by
  first
  | (unfold State.reportEnd; (try dsimp only); (repeat' split) <;> simp -implicitDefEqProofs (disch := (intros; first | (simp -implicitDefEqProofs [*]; done) | ((try dsimp only); (repeat' split) <;> (simp -implicitDefEqProofs (disch := (intros; (try dsimp only); (repeat' split) <;> (try (simp -implicitDefEqProofs [*]; done)))) [*]; done)) | skip)) [State.updLaunch_at, apply_ite Launch.st, apply_ite Launch.src, apply_ite Launch.va, apply_ite Launch.kdesc, apply_ite Launch.nblk, apply_ite Launch.fom, apply_ite Launch.sh, apply_ite Launch.groups, apply_ite Launch.ngrp, apply_ite Launch.ctx, apply_ite Launch.frameN, apply_ite Launch.frameVa, apply_ite Launch.statVa, apply_ite Launch.doneVa, apply_ite Launch.doneVal, apply_ite Launch.waves, apply_ite Launch.vregs, apply_ite Launch.sregs, apply_ite Launch.accs, apply_ite Launch.scr, apply_ite Launch.spillD, apply_ite Launch.handler, apply_ite Launch.lim, apply_ite Launch.entry, apply_ite Launch.next, apply_ite Launch.live, apply_ite Launch.frames, apply_ite Launch.gbars, apply_ite Launch.stats, apply_ite Launch.buffer, apply_ite Launch.flips, apply_ite Launch.due])
  | (unfold State.reportEnd; (try dsimp only); (repeat' split) <;> simp -implicitDefEqProofs (disch := (intros; first | (simp -implicitDefEqProofs [*]; done) | ((try dsimp only); (repeat' split) <;> (simp -implicitDefEqProofs (disch := (intros; (try dsimp only); (repeat' split) <;> (try (simp -implicitDefEqProofs [*]; done)))) [*]; done)) | skip)) [State.launch])
@[simp] theorem State.reportEnd_keepsM (s : State) (l : Nat) :
    (State.reportEnd s l).mgmt.partid = s.mgmt.partid ∧
    (State.reportEnd s l).mgmt.pciid = s.mgmt.pciid ∧
    (State.reportEnd s l).mgmt.cfgstat = s.mgmt.cfgstat ∧
    (State.reportEnd s l).mgmt.bootstat = s.mgmt.bootstat ∧
    (State.reportEnd s l).mgmt.hostmode = s.mgmt.hostmode ∧
    (State.reportEnd s l).mgmt.apbase = s.mgmt.apbase ∧
    (State.reportEnd s l).mgmt.devnum = s.mgmt.devnum ∧
    (State.reportEnd s l).mgmt.flashA = s.mgmt.flashA ∧
    (State.reportEnd s l).mgmt.flashB = s.mgmt.flashB ∧
    (State.reportEnd s l).mgmt.flashTorn = s.mgmt.flashTorn ∧
    (State.reportEnd s l).mgmt.flashRun = s.mgmt.flashRun ∧
    (State.reportEnd s l).mgmt.fladdr = s.mgmt.fladdr ∧
    (State.reportEnd s l).mgmt.flcmd = s.mgmt.flcmd ∧
    (State.reportEnd s l).mgmt.fldata = s.mgmt.fldata ∧
    (State.reportEnd s l).mgmt.remap = s.mgmt.remap ∧
    (State.reportEnd s l).mgmt.failed = s.mgmt.failed ∧
    (State.reportEnd s l).mgmt.spareCluster = s.mgmt.spareCluster ∧
    (State.reportEnd s l).mgmt.unplaced = s.mgmt.unplaced ∧
    (State.reportEnd s l).mgmt.former = s.mgmt.former ∧
    (State.reportEnd s l).mgmt.parkAtReset = s.mgmt.parkAtReset ∧
    (State.reportEnd s l).mgmt.spareLanes = s.mgmt.spareLanes ∧
    (State.reportEnd s l).mgmt.sliceq = s.mgmt.sliceq ∧
    (State.reportEnd s l).mgmt.lq = s.mgmt.lq ∧
    (State.reportEnd s l).mgmt.lauq = s.mgmt.lauq ∧
    (State.reportEnd s l).mgmt.rr = s.mgmt.rr ∧
    (State.reportEnd s l).mgmt.pwrceil = s.mgmt.pwrceil ∧
    (State.reportEnd s l).mgmt.pstlim = s.mgmt.pstlim ∧
    (State.reportEnd s l).mgmt.pwrstat = s.mgmt.pwrstat ∧
    (State.reportEnd s l).mgmt.pGoal = s.mgmt.pGoal ∧
    (State.reportEnd s l).mgmt.mGoal = s.mgmt.mGoal ∧
    (State.reportEnd s l).mgmt.pNext = s.mgmt.pNext ∧
    (State.reportEnd s l).mgmt.mNext = s.mgmt.mNext ∧
    (State.reportEnd s l).mgmt.diepark = s.mgmt.diepark ∧
    (State.reportEnd s l).mgmt.dieWait = s.mgmt.dieWait ∧
    (State.reportEnd s l).mgmt.ensave = s.mgmt.ensave ∧
    (State.reportEnd s l).mgmt.ewt = s.mgmt.ewt ∧
    (State.reportEnd s l).mgmt.stw = s.mgmt.stw ∧
    (State.reportEnd s l).mgmt.hlth = s.mgmt.hlth ∧
    (State.reportEnd s l).mgmt.age = s.mgmt.age ∧
    (State.reportEnd s l).mgmt.memh = s.mgmt.memh ∧
    (State.reportEnd s l).mgmt.linkh = s.mgmt.linkh ∧
    (State.reportEnd s l).mgmt.samples = s.mgmt.samples ∧
    (State.reportEnd s l).mgmt.ckpt0 = s.mgmt.ckpt0 ∧
    (State.reportEnd s l).mgmt.ckpt1 = s.mgmt.ckpt1 ∧
    (State.reportEnd s l).mgmt.ckpt2 = s.mgmt.ckpt2 ∧
    (State.reportEnd s l).mgmt.ckptGood = s.mgmt.ckptGood ∧
    (State.reportEnd s l).mgmt.ckptBlocks = s.mgmt.ckptBlocks ∧
    (State.reportEnd s l).mgmt.ctxs = s.mgmt.ctxs ∧
    (State.reportEnd s l).mgmt.pfbase = s.mgmt.pfbase ∧
    (State.reportEnd s l).mgmt.pfhead = s.mgmt.pfhead ∧
    (State.reportEnd s l).mgmt.pftail = s.mgmt.pftail ∧
    (State.reportEnd s l).mgmt.faults = s.mgmt.faults ∧
    (State.reportEnd s l).mgmt.tlbinv = s.mgmt.tlbinv ∧
    (State.reportEnd s l).mgmt.tlbinvn = s.mgmt.tlbinvn ∧
    (State.reportEnd s l).mgmt.ranges = s.mgmt.ranges ∧
    (State.reportEnd s l).mgmt.biascmd = s.mgmt.biascmd ∧
    (State.reportEnd s l).mgmt.flips = s.mgmt.flips ∧
    (State.reportEnd s l).mgmt.flipWait = s.mgmt.flipWait ∧
    (State.reportEnd s l).mgmt.peerasid = s.mgmt.peerasid ∧
    (State.reportEnd s l).mgmt.atsel = s.mgmt.atsel ∧
    (State.reportEnd s l).mgmt.atwin = s.mgmt.atwin ∧
    (State.reportEnd s l).mgmt.atcommit = s.mgmt.atcommit ∧
    (State.reportEnd s l).mgmt.ats = s.mgmt.ats ∧
    (State.reportEnd s l).mgmt.colldom = s.mgmt.colldom ∧
    (State.reportEnd s l).mgmt.collinj = s.mgmt.collinj ∧
    (State.reportEnd s l).mgmt.reply = s.mgmt.reply := by
  (unfold State.reportEnd; (try dsimp only); (repeat' split) <;> simp -implicitDefEqProofs (disch := (intros; first | (simp -implicitDefEqProofs [*]; done) | ((try dsimp only); (repeat' split) <;> (simp -implicitDefEqProofs (disch := (intros; (try dsimp only); (repeat' split) <;> (try (simp -implicitDefEqProofs [*]; done)))) [*]; done)) | skip)) [State.updMgmt])
@[simp] theorem State.reportAll_keeps (s : State) :
    (State.reportAll s).waves = s.waves ∧
    (State.reportAll s).blocks = s.blocks ∧
    (State.reportAll s).peerMem = s.peerMem ∧
    (State.reportAll s).claims = s.claims ∧
    (State.reportAll s).regions = s.regions ∧
    (State.reportAll s).tlb = s.tlb ∧
    (State.reportAll s).accs = s.accs ∧
    (State.reportAll s).net = s.net ∧
    (State.reportAll s).abufs = s.abufs ∧
    (State.reportAll s).jobs = s.jobs ∧
    (State.reportAll s).feet = s.feet ∧
    (State.reportAll s).shapes = s.shapes ∧
    (State.reportAll s).insts = s.insts ∧
    (State.reportAll s).hostAccs = s.hostAccs ∧
    (State.reportAll s).focus = s.focus ∧
    (State.reportAll s).agenda = s.agenda ∧
    (∀ k, (State.reportAll s).wave k = s.wave k) ∧
    (∀ k, (State.reportAll s).block k = s.block k) := by
  (unfold State.reportAll; (try dsimp only); (repeat' split) <;> simp -implicitDefEqProofs (disch := (intros; first | (simp -implicitDefEqProofs [*]; done) | ((try dsimp only); (repeat' split) <;> (simp -implicitDefEqProofs (disch := (intros; (try dsimp only); (repeat' split) <;> (try (simp -implicitDefEqProofs [*]; done)))) [*]; done)) | skip)) [State.wave, State.block, State.launch, State.core])
@[simp] theorem State.reportAll_keepsL (s : State) (k : Nat) :
    ((State.reportAll s).launch k).st = (s.launch k).st ∧
    ((State.reportAll s).launch k).src = (s.launch k).src ∧
    ((State.reportAll s).launch k).va = (s.launch k).va ∧
    ((State.reportAll s).launch k).kdesc = (s.launch k).kdesc ∧
    ((State.reportAll s).launch k).nblk = (s.launch k).nblk ∧
    ((State.reportAll s).launch k).fom = (s.launch k).fom ∧
    ((State.reportAll s).launch k).sh = (s.launch k).sh ∧
    ((State.reportAll s).launch k).groups = (s.launch k).groups ∧
    ((State.reportAll s).launch k).ngrp = (s.launch k).ngrp ∧
    ((State.reportAll s).launch k).ctx = (s.launch k).ctx ∧
    ((State.reportAll s).launch k).frameN = (s.launch k).frameN ∧
    ((State.reportAll s).launch k).frameVa = (s.launch k).frameVa ∧
    ((State.reportAll s).launch k).statVa = (s.launch k).statVa ∧
    ((State.reportAll s).launch k).doneVa = (s.launch k).doneVa ∧
    ((State.reportAll s).launch k).doneVal = (s.launch k).doneVal ∧
    ((State.reportAll s).launch k).waves = (s.launch k).waves ∧
    ((State.reportAll s).launch k).vregs = (s.launch k).vregs ∧
    ((State.reportAll s).launch k).sregs = (s.launch k).sregs ∧
    ((State.reportAll s).launch k).accs = (s.launch k).accs ∧
    ((State.reportAll s).launch k).scr = (s.launch k).scr ∧
    ((State.reportAll s).launch k).spillD = (s.launch k).spillD ∧
    ((State.reportAll s).launch k).handler = (s.launch k).handler ∧
    ((State.reportAll s).launch k).lim = (s.launch k).lim ∧
    ((State.reportAll s).launch k).entry = (s.launch k).entry ∧
    ((State.reportAll s).launch k).next = (s.launch k).next ∧
    ((State.reportAll s).launch k).live = (s.launch k).live ∧
    ((State.reportAll s).launch k).frames = (s.launch k).frames ∧
    ((State.reportAll s).launch k).gbars = (s.launch k).gbars ∧
    ((State.reportAll s).launch k).stats = (s.launch k).stats ∧
    ((State.reportAll s).launch k).buffer = (s.launch k).buffer ∧
    ((State.reportAll s).launch k).flips = (s.launch k).flips := by
  first
  | (unfold State.reportAll; (try dsimp only); (repeat' split) <;> simp -implicitDefEqProofs (disch := (intros; first | (simp -implicitDefEqProofs [*]; done) | ((try dsimp only); (repeat' split) <;> (simp -implicitDefEqProofs (disch := (intros; (try dsimp only); (repeat' split) <;> (try (simp -implicitDefEqProofs [*]; done)))) [*]; done)) | skip)) [State.updLaunch_at, apply_ite Launch.st, apply_ite Launch.src, apply_ite Launch.va, apply_ite Launch.kdesc, apply_ite Launch.nblk, apply_ite Launch.fom, apply_ite Launch.sh, apply_ite Launch.groups, apply_ite Launch.ngrp, apply_ite Launch.ctx, apply_ite Launch.frameN, apply_ite Launch.frameVa, apply_ite Launch.statVa, apply_ite Launch.doneVa, apply_ite Launch.doneVal, apply_ite Launch.waves, apply_ite Launch.vregs, apply_ite Launch.sregs, apply_ite Launch.accs, apply_ite Launch.scr, apply_ite Launch.spillD, apply_ite Launch.handler, apply_ite Launch.lim, apply_ite Launch.entry, apply_ite Launch.next, apply_ite Launch.live, apply_ite Launch.frames, apply_ite Launch.gbars, apply_ite Launch.stats, apply_ite Launch.buffer, apply_ite Launch.flips, apply_ite Launch.due])
  | (unfold State.reportAll; (try dsimp only); (repeat' split) <;> simp -implicitDefEqProofs (disch := (intros; first | (simp -implicitDefEqProofs [*]; done) | ((try dsimp only); (repeat' split) <;> (simp -implicitDefEqProofs (disch := (intros; (try dsimp only); (repeat' split) <;> (try (simp -implicitDefEqProofs [*]; done)))) [*]; done)) | skip)) [State.launch])
@[simp] theorem State.reportAll_keepsM (s : State) :
    (State.reportAll s).mgmt.partid = s.mgmt.partid ∧
    (State.reportAll s).mgmt.pciid = s.mgmt.pciid ∧
    (State.reportAll s).mgmt.cfgstat = s.mgmt.cfgstat ∧
    (State.reportAll s).mgmt.bootstat = s.mgmt.bootstat ∧
    (State.reportAll s).mgmt.hostmode = s.mgmt.hostmode ∧
    (State.reportAll s).mgmt.apbase = s.mgmt.apbase ∧
    (State.reportAll s).mgmt.devnum = s.mgmt.devnum ∧
    (State.reportAll s).mgmt.flashA = s.mgmt.flashA ∧
    (State.reportAll s).mgmt.flashB = s.mgmt.flashB ∧
    (State.reportAll s).mgmt.flashTorn = s.mgmt.flashTorn ∧
    (State.reportAll s).mgmt.flashRun = s.mgmt.flashRun ∧
    (State.reportAll s).mgmt.fladdr = s.mgmt.fladdr ∧
    (State.reportAll s).mgmt.flcmd = s.mgmt.flcmd ∧
    (State.reportAll s).mgmt.fldata = s.mgmt.fldata ∧
    (State.reportAll s).mgmt.remap = s.mgmt.remap ∧
    (State.reportAll s).mgmt.failed = s.mgmt.failed ∧
    (State.reportAll s).mgmt.spareCluster = s.mgmt.spareCluster ∧
    (State.reportAll s).mgmt.unplaced = s.mgmt.unplaced ∧
    (State.reportAll s).mgmt.former = s.mgmt.former ∧
    (State.reportAll s).mgmt.parkAtReset = s.mgmt.parkAtReset ∧
    (State.reportAll s).mgmt.spareLanes = s.mgmt.spareLanes ∧
    (State.reportAll s).mgmt.sliceq = s.mgmt.sliceq ∧
    (State.reportAll s).mgmt.lq = s.mgmt.lq ∧
    (State.reportAll s).mgmt.lauq = s.mgmt.lauq ∧
    (State.reportAll s).mgmt.rr = s.mgmt.rr ∧
    (State.reportAll s).mgmt.pwrceil = s.mgmt.pwrceil ∧
    (State.reportAll s).mgmt.pstlim = s.mgmt.pstlim ∧
    (State.reportAll s).mgmt.pwrstat = s.mgmt.pwrstat ∧
    (State.reportAll s).mgmt.pGoal = s.mgmt.pGoal ∧
    (State.reportAll s).mgmt.mGoal = s.mgmt.mGoal ∧
    (State.reportAll s).mgmt.pNext = s.mgmt.pNext ∧
    (State.reportAll s).mgmt.mNext = s.mgmt.mNext ∧
    (State.reportAll s).mgmt.diepark = s.mgmt.diepark ∧
    (State.reportAll s).mgmt.dieWait = s.mgmt.dieWait ∧
    (State.reportAll s).mgmt.ensave = s.mgmt.ensave ∧
    (State.reportAll s).mgmt.ewt = s.mgmt.ewt ∧
    (State.reportAll s).mgmt.stw = s.mgmt.stw ∧
    (State.reportAll s).mgmt.hlth = s.mgmt.hlth ∧
    (State.reportAll s).mgmt.age = s.mgmt.age ∧
    (State.reportAll s).mgmt.memh = s.mgmt.memh ∧
    (State.reportAll s).mgmt.linkh = s.mgmt.linkh ∧
    (State.reportAll s).mgmt.samples = s.mgmt.samples ∧
    (State.reportAll s).mgmt.ckpt0 = s.mgmt.ckpt0 ∧
    (State.reportAll s).mgmt.ckpt1 = s.mgmt.ckpt1 ∧
    (State.reportAll s).mgmt.ckpt2 = s.mgmt.ckpt2 ∧
    (State.reportAll s).mgmt.ckptGood = s.mgmt.ckptGood ∧
    (State.reportAll s).mgmt.ckptBlocks = s.mgmt.ckptBlocks ∧
    (State.reportAll s).mgmt.ctxs = s.mgmt.ctxs ∧
    (State.reportAll s).mgmt.pfbase = s.mgmt.pfbase ∧
    (State.reportAll s).mgmt.pfhead = s.mgmt.pfhead ∧
    (State.reportAll s).mgmt.pftail = s.mgmt.pftail ∧
    (State.reportAll s).mgmt.faults = s.mgmt.faults ∧
    (State.reportAll s).mgmt.tlbinv = s.mgmt.tlbinv ∧
    (State.reportAll s).mgmt.tlbinvn = s.mgmt.tlbinvn ∧
    (State.reportAll s).mgmt.ranges = s.mgmt.ranges ∧
    (State.reportAll s).mgmt.biascmd = s.mgmt.biascmd ∧
    (State.reportAll s).mgmt.flips = s.mgmt.flips ∧
    (State.reportAll s).mgmt.flipWait = s.mgmt.flipWait ∧
    (State.reportAll s).mgmt.peerasid = s.mgmt.peerasid ∧
    (State.reportAll s).mgmt.atsel = s.mgmt.atsel ∧
    (State.reportAll s).mgmt.atwin = s.mgmt.atwin ∧
    (State.reportAll s).mgmt.atcommit = s.mgmt.atcommit ∧
    (State.reportAll s).mgmt.ats = s.mgmt.ats ∧
    (State.reportAll s).mgmt.colldom = s.mgmt.colldom ∧
    (State.reportAll s).mgmt.collinj = s.mgmt.collinj ∧
    (State.reportAll s).mgmt.reply = s.mgmt.reply := by
  (unfold State.reportAll; (try dsimp only); (repeat' split) <;> simp -implicitDefEqProofs (disch := (intros; first | (simp -implicitDefEqProofs [*]; done) | ((try dsimp only); (repeat' split) <;> (simp -implicitDefEqProofs (disch := (intros; (try dsimp only); (repeat' split) <;> (try (simp -implicitDefEqProofs [*]; done)))) [*]; done)) | skip)) [State.updMgmt])
@[simp] theorem State.endLaunch_keeps (s : State) (l : Nat) (code : Nat) (xc : Nat) :
    (State.endLaunch s l code xc).peerMem = s.peerMem ∧
    (State.endLaunch s l code xc).regions = s.regions ∧
    (State.endLaunch s l code xc).tlb = s.tlb ∧
    (State.endLaunch s l code xc).shapes = s.shapes ∧
    (State.endLaunch s l code xc).hostAccs = s.hostAccs ∧
    (State.endLaunch s l code xc).focus = s.focus ∧
    (State.endLaunch s l code xc).agenda = s.agenda := by
  (unfold State.endLaunch; (try dsimp only); (repeat' split) <;> simp -implicitDefEqProofs (disch := (intros; first | (simp -implicitDefEqProofs [*]; done) | ((try dsimp only); (repeat' split) <;> (simp -implicitDefEqProofs (disch := (intros; (try dsimp only); (repeat' split) <;> (try (simp -implicitDefEqProofs [*]; done)))) [*]; done)) | skip)) [State.wave, State.block, State.launch, State.core])
@[simp] theorem State.endLaunch_keepsL (s : State) (l : Nat) (code : Nat) (xc : Nat) (k : Nat) :
    ((State.endLaunch s l code xc).launch k).src = (s.launch k).src ∧
    ((State.endLaunch s l code xc).launch k).va = (s.launch k).va ∧
    ((State.endLaunch s l code xc).launch k).kdesc = (s.launch k).kdesc ∧
    ((State.endLaunch s l code xc).launch k).nblk = (s.launch k).nblk ∧
    ((State.endLaunch s l code xc).launch k).fom = (s.launch k).fom ∧
    ((State.endLaunch s l code xc).launch k).sh = (s.launch k).sh ∧
    ((State.endLaunch s l code xc).launch k).groups = (s.launch k).groups ∧
    ((State.endLaunch s l code xc).launch k).ngrp = (s.launch k).ngrp ∧
    ((State.endLaunch s l code xc).launch k).ctx = (s.launch k).ctx ∧
    ((State.endLaunch s l code xc).launch k).frameN = (s.launch k).frameN ∧
    ((State.endLaunch s l code xc).launch k).frameVa = (s.launch k).frameVa ∧
    ((State.endLaunch s l code xc).launch k).statVa = (s.launch k).statVa ∧
    ((State.endLaunch s l code xc).launch k).doneVa = (s.launch k).doneVa ∧
    ((State.endLaunch s l code xc).launch k).doneVal = (s.launch k).doneVal ∧
    ((State.endLaunch s l code xc).launch k).waves = (s.launch k).waves ∧
    ((State.endLaunch s l code xc).launch k).vregs = (s.launch k).vregs ∧
    ((State.endLaunch s l code xc).launch k).sregs = (s.launch k).sregs ∧
    ((State.endLaunch s l code xc).launch k).accs = (s.launch k).accs ∧
    ((State.endLaunch s l code xc).launch k).scr = (s.launch k).scr ∧
    ((State.endLaunch s l code xc).launch k).spillD = (s.launch k).spillD ∧
    ((State.endLaunch s l code xc).launch k).handler = (s.launch k).handler ∧
    ((State.endLaunch s l code xc).launch k).lim = (s.launch k).lim ∧
    ((State.endLaunch s l code xc).launch k).entry = (s.launch k).entry ∧
    ((State.endLaunch s l code xc).launch k).next = (s.launch k).next ∧
    ((State.endLaunch s l code xc).launch k).gbars = (s.launch k).gbars ∧
    ((State.endLaunch s l code xc).launch k).stats = (s.launch k).stats ∧
    ((State.endLaunch s l code xc).launch k).buffer = (s.launch k).buffer ∧
    ((State.endLaunch s l code xc).launch k).flips = (s.launch k).flips := by
  first
  | (unfold State.endLaunch; (try dsimp only); (repeat' split) <;> simp -implicitDefEqProofs (disch := (intros; first | (simp -implicitDefEqProofs [*]; done) | ((try dsimp only); (repeat' split) <;> (simp -implicitDefEqProofs (disch := (intros; (try dsimp only); (repeat' split) <;> (try (simp -implicitDefEqProofs [*]; done)))) [*]; done)) | skip)) [State.updLaunch_at, apply_ite Launch.st, apply_ite Launch.src, apply_ite Launch.va, apply_ite Launch.kdesc, apply_ite Launch.nblk, apply_ite Launch.fom, apply_ite Launch.sh, apply_ite Launch.groups, apply_ite Launch.ngrp, apply_ite Launch.ctx, apply_ite Launch.frameN, apply_ite Launch.frameVa, apply_ite Launch.statVa, apply_ite Launch.doneVa, apply_ite Launch.doneVal, apply_ite Launch.waves, apply_ite Launch.vregs, apply_ite Launch.sregs, apply_ite Launch.accs, apply_ite Launch.scr, apply_ite Launch.spillD, apply_ite Launch.handler, apply_ite Launch.lim, apply_ite Launch.entry, apply_ite Launch.next, apply_ite Launch.live, apply_ite Launch.frames, apply_ite Launch.gbars, apply_ite Launch.stats, apply_ite Launch.buffer, apply_ite Launch.flips, apply_ite Launch.due])
  | (unfold State.endLaunch; (try dsimp only); (repeat' split) <;> simp -implicitDefEqProofs (disch := (intros; first | (simp -implicitDefEqProofs [*]; done) | ((try dsimp only); (repeat' split) <;> (simp -implicitDefEqProofs (disch := (intros; (try dsimp only); (repeat' split) <;> (try (simp -implicitDefEqProofs [*]; done)))) [*]; done)) | skip)) [State.launch])
@[simp] theorem State.endLaunch_keepsM (s : State) (l : Nat) (code : Nat) (xc : Nat) :
    (State.endLaunch s l code xc).mgmt.partid = s.mgmt.partid ∧
    (State.endLaunch s l code xc).mgmt.pciid = s.mgmt.pciid ∧
    (State.endLaunch s l code xc).mgmt.cfgstat = s.mgmt.cfgstat ∧
    (State.endLaunch s l code xc).mgmt.bootstat = s.mgmt.bootstat ∧
    (State.endLaunch s l code xc).mgmt.hostmode = s.mgmt.hostmode ∧
    (State.endLaunch s l code xc).mgmt.apbase = s.mgmt.apbase ∧
    (State.endLaunch s l code xc).mgmt.devnum = s.mgmt.devnum ∧
    (State.endLaunch s l code xc).mgmt.flashA = s.mgmt.flashA ∧
    (State.endLaunch s l code xc).mgmt.flashB = s.mgmt.flashB ∧
    (State.endLaunch s l code xc).mgmt.flashTorn = s.mgmt.flashTorn ∧
    (State.endLaunch s l code xc).mgmt.flashRun = s.mgmt.flashRun ∧
    (State.endLaunch s l code xc).mgmt.fladdr = s.mgmt.fladdr ∧
    (State.endLaunch s l code xc).mgmt.flcmd = s.mgmt.flcmd ∧
    (State.endLaunch s l code xc).mgmt.fldata = s.mgmt.fldata ∧
    (State.endLaunch s l code xc).mgmt.remap = s.mgmt.remap ∧
    (State.endLaunch s l code xc).mgmt.failed = s.mgmt.failed ∧
    (State.endLaunch s l code xc).mgmt.spareCluster = s.mgmt.spareCluster ∧
    (State.endLaunch s l code xc).mgmt.unplaced = s.mgmt.unplaced ∧
    (State.endLaunch s l code xc).mgmt.former = s.mgmt.former ∧
    (State.endLaunch s l code xc).mgmt.parkAtReset = s.mgmt.parkAtReset ∧
    (State.endLaunch s l code xc).mgmt.spareLanes = s.mgmt.spareLanes ∧
    (State.endLaunch s l code xc).mgmt.sliceq = s.mgmt.sliceq ∧
    (State.endLaunch s l code xc).mgmt.lq = s.mgmt.lq ∧
    (State.endLaunch s l code xc).mgmt.lauq = s.mgmt.lauq ∧
    (State.endLaunch s l code xc).mgmt.rr = s.mgmt.rr ∧
    (State.endLaunch s l code xc).mgmt.pwrceil = s.mgmt.pwrceil ∧
    (State.endLaunch s l code xc).mgmt.pstlim = s.mgmt.pstlim ∧
    (State.endLaunch s l code xc).mgmt.pwrstat = s.mgmt.pwrstat ∧
    (State.endLaunch s l code xc).mgmt.pGoal = s.mgmt.pGoal ∧
    (State.endLaunch s l code xc).mgmt.mGoal = s.mgmt.mGoal ∧
    (State.endLaunch s l code xc).mgmt.pNext = s.mgmt.pNext ∧
    (State.endLaunch s l code xc).mgmt.mNext = s.mgmt.mNext ∧
    (State.endLaunch s l code xc).mgmt.diepark = s.mgmt.diepark ∧
    (State.endLaunch s l code xc).mgmt.dieWait = s.mgmt.dieWait ∧
    (State.endLaunch s l code xc).mgmt.ensave = s.mgmt.ensave ∧
    (State.endLaunch s l code xc).mgmt.ewt = s.mgmt.ewt ∧
    (State.endLaunch s l code xc).mgmt.stw = s.mgmt.stw ∧
    (State.endLaunch s l code xc).mgmt.hlth = s.mgmt.hlth ∧
    (State.endLaunch s l code xc).mgmt.age = s.mgmt.age ∧
    (State.endLaunch s l code xc).mgmt.memh = s.mgmt.memh ∧
    (State.endLaunch s l code xc).mgmt.linkh = s.mgmt.linkh ∧
    (State.endLaunch s l code xc).mgmt.samples = s.mgmt.samples ∧
    (State.endLaunch s l code xc).mgmt.ckpt0 = s.mgmt.ckpt0 ∧
    (State.endLaunch s l code xc).mgmt.ckpt1 = s.mgmt.ckpt1 ∧
    (State.endLaunch s l code xc).mgmt.ckpt2 = s.mgmt.ckpt2 ∧
    (State.endLaunch s l code xc).mgmt.ckptGood = s.mgmt.ckptGood ∧
    (State.endLaunch s l code xc).mgmt.ckptBlocks = s.mgmt.ckptBlocks ∧
    (State.endLaunch s l code xc).mgmt.ctxs = s.mgmt.ctxs ∧
    (State.endLaunch s l code xc).mgmt.pfbase = s.mgmt.pfbase ∧
    (State.endLaunch s l code xc).mgmt.pfhead = s.mgmt.pfhead ∧
    (State.endLaunch s l code xc).mgmt.pftail = s.mgmt.pftail ∧
    (State.endLaunch s l code xc).mgmt.faults = s.mgmt.faults ∧
    (State.endLaunch s l code xc).mgmt.tlbinv = s.mgmt.tlbinv ∧
    (State.endLaunch s l code xc).mgmt.tlbinvn = s.mgmt.tlbinvn ∧
    (State.endLaunch s l code xc).mgmt.ranges = s.mgmt.ranges ∧
    (State.endLaunch s l code xc).mgmt.biascmd = s.mgmt.biascmd ∧
    (State.endLaunch s l code xc).mgmt.flips = s.mgmt.flips ∧
    (State.endLaunch s l code xc).mgmt.flipWait = s.mgmt.flipWait ∧
    (State.endLaunch s l code xc).mgmt.peerasid = s.mgmt.peerasid ∧
    (State.endLaunch s l code xc).mgmt.atsel = s.mgmt.atsel ∧
    (State.endLaunch s l code xc).mgmt.atwin = s.mgmt.atwin ∧
    (State.endLaunch s l code xc).mgmt.atcommit = s.mgmt.atcommit ∧
    (State.endLaunch s l code xc).mgmt.ats = s.mgmt.ats ∧
    (State.endLaunch s l code xc).mgmt.colldom = s.mgmt.colldom ∧
    (State.endLaunch s l code xc).mgmt.collinj = s.mgmt.collinj ∧
    (State.endLaunch s l code xc).mgmt.reply = s.mgmt.reply := by
  (unfold State.endLaunch; (try dsimp only); (repeat' split) <;> simp -implicitDefEqProofs (disch := (intros; first | (simp -implicitDefEqProofs [*]; done) | ((try dsimp only); (repeat' split) <;> (simp -implicitDefEqProofs (disch := (intros; (try dsimp only); (repeat' split) <;> (try (simp -implicitDefEqProofs [*]; done)))) [*]; done)) | skip)) [State.updMgmt])
@[simp] theorem State.completeLaunch_keeps (s : State) (l : Nat) :
    (State.completeLaunch s l).blocks = s.blocks ∧
    (State.completeLaunch s l).peerMem = s.peerMem ∧
    (State.completeLaunch s l).claims = s.claims ∧
    (State.completeLaunch s l).regions = s.regions ∧
    (State.completeLaunch s l).tlb = s.tlb ∧
    (State.completeLaunch s l).accs = s.accs ∧
    (State.completeLaunch s l).net = s.net ∧
    (State.completeLaunch s l).jobs = s.jobs ∧
    (State.completeLaunch s l).shapes = s.shapes ∧
    (State.completeLaunch s l).insts = s.insts ∧
    (State.completeLaunch s l).hostAccs = s.hostAccs ∧
    (State.completeLaunch s l).focus = s.focus ∧
    (State.completeLaunch s l).agenda = s.agenda ∧
    (∀ k, (State.completeLaunch s l).block k = s.block k) := by
  (unfold State.completeLaunch; (try dsimp only); (repeat' split) <;> simp -implicitDefEqProofs (disch := (intros; first | (simp -implicitDefEqProofs [*]; done) | ((try dsimp only); (repeat' split) <;> (simp -implicitDefEqProofs (disch := (intros; (try dsimp only); (repeat' split) <;> (try (simp -implicitDefEqProofs [*]; done)))) [*]; done)) | skip)) [State.wave, State.block, State.launch, State.core])
@[simp] theorem State.completeLaunch_keepsW (s : State) (l k : Nat) :
    ((s.completeLaunch l).wave k).block = (s.wave k).block ∧
    ((s.completeLaunch l).wave k).idx = (s.wave k).idx ∧
    ((s.completeLaunch l).wave k).exited = (s.wave k).exited ∧
    ((s.completeLaunch l).wave k).launchMask = (s.wave k).launchMask ∧
    ((s.completeLaunch l).wave k).pad = (s.wave k).pad ∧
    ((s.completeLaunch l).wave k).sregs = (s.wave k).sregs ∧
    ((s.completeLaunch l).wave k).vregs = (s.wave k).vregs ∧
    ((s.completeLaunch l).wave k).pregs = (s.wave k).pregs ∧
    ((s.completeLaunch l).wave k).slotA = (s.wave k).slotA ∧
    ((s.completeLaunch l).wave k).slotB = (s.wave k).slotB ∧
    ((s.completeLaunch l).wave k).lastB = (s.wave k).lastB ∧
    ((s.completeLaunch l).wave k).spill = (s.wave k).spill ∧
    ((s.completeLaunch l).wave k).handler = (s.wave k).handler ∧
    ((s.completeLaunch l).wave k).xpc = (s.wave k).xpc ∧
    ((s.completeLaunch l).wave k).xmode = (s.wave k).xmode ∧
    ((s.completeLaunch l).wave k).xcause = (s.wave k).xcause ∧
    ((s.completeLaunch l).wave k).xlanes = (s.wave k).xlanes ∧
    ((s.completeLaunch l).wave k).xaddr = (s.wave k).xaddr ∧
    ((s.completeLaunch l).wave k).gexposed = (s.wave k).gexposed ∧
    ((s.completeLaunch l).wave k).mm = (s.wave k).mm ∧
    ((s.completeLaunch l).wave k).epoch = (s.wave k).epoch ∧
    ((s.completeLaunch l).wave k).tags = (s.wave k).tags ∧
    ((s.completeLaunch l).wave k).sfr = (s.wave k).sfr ∧
    ((s.completeLaunch l).wave k).arrived = (s.wave k).arrived ∧
    ((s.completeLaunch l).wave k).region = (s.wave k).region ∧
    ((s.completeLaunch l).wave k).lost = (s.wave k).lost ∧
    ((s.completeLaunch l).wave k).since = (s.wave k).since ∧
    ((s.completeLaunch l).wave k).jobs = (s.wave k).jobs ∧
    ((s.completeLaunch l).wave k).left = (s.wave k).left := by
  unfold State.completeLaunch; dsimp only; split <;> simp
@[simp] theorem State.completeLaunch_keepsL (s : State) (l : Nat) (k : Nat) :
    ((State.completeLaunch s l).launch k).src = (s.launch k).src ∧
    ((State.completeLaunch s l).launch k).va = (s.launch k).va ∧
    ((State.completeLaunch s l).launch k).kdesc = (s.launch k).kdesc ∧
    ((State.completeLaunch s l).launch k).nblk = (s.launch k).nblk ∧
    ((State.completeLaunch s l).launch k).fom = (s.launch k).fom ∧
    ((State.completeLaunch s l).launch k).sh = (s.launch k).sh ∧
    ((State.completeLaunch s l).launch k).groups = (s.launch k).groups ∧
    ((State.completeLaunch s l).launch k).ngrp = (s.launch k).ngrp ∧
    ((State.completeLaunch s l).launch k).ctx = (s.launch k).ctx ∧
    ((State.completeLaunch s l).launch k).frameN = (s.launch k).frameN ∧
    ((State.completeLaunch s l).launch k).frameVa = (s.launch k).frameVa ∧
    ((State.completeLaunch s l).launch k).statVa = (s.launch k).statVa ∧
    ((State.completeLaunch s l).launch k).doneVa = (s.launch k).doneVa ∧
    ((State.completeLaunch s l).launch k).doneVal = (s.launch k).doneVal ∧
    ((State.completeLaunch s l).launch k).waves = (s.launch k).waves ∧
    ((State.completeLaunch s l).launch k).vregs = (s.launch k).vregs ∧
    ((State.completeLaunch s l).launch k).sregs = (s.launch k).sregs ∧
    ((State.completeLaunch s l).launch k).accs = (s.launch k).accs ∧
    ((State.completeLaunch s l).launch k).scr = (s.launch k).scr ∧
    ((State.completeLaunch s l).launch k).spillD = (s.launch k).spillD ∧
    ((State.completeLaunch s l).launch k).handler = (s.launch k).handler ∧
    ((State.completeLaunch s l).launch k).lim = (s.launch k).lim ∧
    ((State.completeLaunch s l).launch k).entry = (s.launch k).entry ∧
    ((State.completeLaunch s l).launch k).next = (s.launch k).next ∧
    ((State.completeLaunch s l).launch k).gbars = (s.launch k).gbars ∧
    ((State.completeLaunch s l).launch k).stats = (s.launch k).stats ∧
    ((State.completeLaunch s l).launch k).buffer = (s.launch k).buffer ∧
    ((State.completeLaunch s l).launch k).flips = (s.launch k).flips := by
  first
  | (unfold State.completeLaunch; (try dsimp only); (repeat' split) <;> simp -implicitDefEqProofs (disch := (intros; first | (simp -implicitDefEqProofs [*]; done) | ((try dsimp only); (repeat' split) <;> (simp -implicitDefEqProofs (disch := (intros; (try dsimp only); (repeat' split) <;> (try (simp -implicitDefEqProofs [*]; done)))) [*]; done)) | skip)) [State.updLaunch_at, apply_ite Launch.st, apply_ite Launch.src, apply_ite Launch.va, apply_ite Launch.kdesc, apply_ite Launch.nblk, apply_ite Launch.fom, apply_ite Launch.sh, apply_ite Launch.groups, apply_ite Launch.ngrp, apply_ite Launch.ctx, apply_ite Launch.frameN, apply_ite Launch.frameVa, apply_ite Launch.statVa, apply_ite Launch.doneVa, apply_ite Launch.doneVal, apply_ite Launch.waves, apply_ite Launch.vregs, apply_ite Launch.sregs, apply_ite Launch.accs, apply_ite Launch.scr, apply_ite Launch.spillD, apply_ite Launch.handler, apply_ite Launch.lim, apply_ite Launch.entry, apply_ite Launch.next, apply_ite Launch.live, apply_ite Launch.frames, apply_ite Launch.gbars, apply_ite Launch.stats, apply_ite Launch.buffer, apply_ite Launch.flips, apply_ite Launch.due])
  | (unfold State.completeLaunch; (try dsimp only); (repeat' split) <;> simp -implicitDefEqProofs (disch := (intros; first | (simp -implicitDefEqProofs [*]; done) | ((try dsimp only); (repeat' split) <;> (simp -implicitDefEqProofs (disch := (intros; (try dsimp only); (repeat' split) <;> (try (simp -implicitDefEqProofs [*]; done)))) [*]; done)) | skip)) [State.launch])
@[simp] theorem State.completeLaunch_keepsM (s : State) (l : Nat) :
    (State.completeLaunch s l).mgmt.partid = s.mgmt.partid ∧
    (State.completeLaunch s l).mgmt.pciid = s.mgmt.pciid ∧
    (State.completeLaunch s l).mgmt.cfgstat = s.mgmt.cfgstat ∧
    (State.completeLaunch s l).mgmt.bootstat = s.mgmt.bootstat ∧
    (State.completeLaunch s l).mgmt.hostmode = s.mgmt.hostmode ∧
    (State.completeLaunch s l).mgmt.apbase = s.mgmt.apbase ∧
    (State.completeLaunch s l).mgmt.devnum = s.mgmt.devnum ∧
    (State.completeLaunch s l).mgmt.flashA = s.mgmt.flashA ∧
    (State.completeLaunch s l).mgmt.flashB = s.mgmt.flashB ∧
    (State.completeLaunch s l).mgmt.flashTorn = s.mgmt.flashTorn ∧
    (State.completeLaunch s l).mgmt.flashRun = s.mgmt.flashRun ∧
    (State.completeLaunch s l).mgmt.fladdr = s.mgmt.fladdr ∧
    (State.completeLaunch s l).mgmt.flcmd = s.mgmt.flcmd ∧
    (State.completeLaunch s l).mgmt.fldata = s.mgmt.fldata ∧
    (State.completeLaunch s l).mgmt.remap = s.mgmt.remap ∧
    (State.completeLaunch s l).mgmt.failed = s.mgmt.failed ∧
    (State.completeLaunch s l).mgmt.spareCluster = s.mgmt.spareCluster ∧
    (State.completeLaunch s l).mgmt.unplaced = s.mgmt.unplaced ∧
    (State.completeLaunch s l).mgmt.former = s.mgmt.former ∧
    (State.completeLaunch s l).mgmt.parkAtReset = s.mgmt.parkAtReset ∧
    (State.completeLaunch s l).mgmt.spareLanes = s.mgmt.spareLanes ∧
    (State.completeLaunch s l).mgmt.sliceq = s.mgmt.sliceq ∧
    (State.completeLaunch s l).mgmt.lq = s.mgmt.lq ∧
    (State.completeLaunch s l).mgmt.lauq = s.mgmt.lauq ∧
    (State.completeLaunch s l).mgmt.rr = s.mgmt.rr ∧
    (State.completeLaunch s l).mgmt.pwrceil = s.mgmt.pwrceil ∧
    (State.completeLaunch s l).mgmt.pstlim = s.mgmt.pstlim ∧
    (State.completeLaunch s l).mgmt.pwrstat = s.mgmt.pwrstat ∧
    (State.completeLaunch s l).mgmt.pGoal = s.mgmt.pGoal ∧
    (State.completeLaunch s l).mgmt.mGoal = s.mgmt.mGoal ∧
    (State.completeLaunch s l).mgmt.pNext = s.mgmt.pNext ∧
    (State.completeLaunch s l).mgmt.mNext = s.mgmt.mNext ∧
    (State.completeLaunch s l).mgmt.diepark = s.mgmt.diepark ∧
    (State.completeLaunch s l).mgmt.dieWait = s.mgmt.dieWait ∧
    (State.completeLaunch s l).mgmt.ensave = s.mgmt.ensave ∧
    (State.completeLaunch s l).mgmt.ewt = s.mgmt.ewt ∧
    (State.completeLaunch s l).mgmt.stw = s.mgmt.stw ∧
    (State.completeLaunch s l).mgmt.hlth = s.mgmt.hlth ∧
    (State.completeLaunch s l).mgmt.age = s.mgmt.age ∧
    (State.completeLaunch s l).mgmt.memh = s.mgmt.memh ∧
    (State.completeLaunch s l).mgmt.linkh = s.mgmt.linkh ∧
    (State.completeLaunch s l).mgmt.samples = s.mgmt.samples ∧
    (State.completeLaunch s l).mgmt.ckpt0 = s.mgmt.ckpt0 ∧
    (State.completeLaunch s l).mgmt.ckpt1 = s.mgmt.ckpt1 ∧
    (State.completeLaunch s l).mgmt.ckpt2 = s.mgmt.ckpt2 ∧
    (State.completeLaunch s l).mgmt.ckptGood = s.mgmt.ckptGood ∧
    (State.completeLaunch s l).mgmt.ckptBlocks = s.mgmt.ckptBlocks ∧
    (State.completeLaunch s l).mgmt.ctxs = s.mgmt.ctxs ∧
    (State.completeLaunch s l).mgmt.pfbase = s.mgmt.pfbase ∧
    (State.completeLaunch s l).mgmt.pfhead = s.mgmt.pfhead ∧
    (State.completeLaunch s l).mgmt.pftail = s.mgmt.pftail ∧
    (State.completeLaunch s l).mgmt.faults = s.mgmt.faults ∧
    (State.completeLaunch s l).mgmt.tlbinv = s.mgmt.tlbinv ∧
    (State.completeLaunch s l).mgmt.tlbinvn = s.mgmt.tlbinvn ∧
    (State.completeLaunch s l).mgmt.ranges = s.mgmt.ranges ∧
    (State.completeLaunch s l).mgmt.biascmd = s.mgmt.biascmd ∧
    (State.completeLaunch s l).mgmt.flips = s.mgmt.flips ∧
    (State.completeLaunch s l).mgmt.flipWait = s.mgmt.flipWait ∧
    (State.completeLaunch s l).mgmt.peerasid = s.mgmt.peerasid ∧
    (State.completeLaunch s l).mgmt.atsel = s.mgmt.atsel ∧
    (State.completeLaunch s l).mgmt.atwin = s.mgmt.atwin ∧
    (State.completeLaunch s l).mgmt.atcommit = s.mgmt.atcommit ∧
    (State.completeLaunch s l).mgmt.ats = s.mgmt.ats ∧
    (State.completeLaunch s l).mgmt.colldom = s.mgmt.colldom ∧
    (State.completeLaunch s l).mgmt.collinj = s.mgmt.collinj ∧
    (State.completeLaunch s l).mgmt.reply = s.mgmt.reply := by
  (unfold State.completeLaunch; (try dsimp only); (repeat' split) <;> simp -implicitDefEqProofs (disch := (intros; first | (simp -implicitDefEqProofs [*]; done) | ((try dsimp only); (repeat' split) <;> (simp -implicitDefEqProofs (disch := (intros; (try dsimp only); (repeat' split) <;> (try (simp -implicitDefEqProofs [*]; done)))) [*]; done)) | skip)) [State.updMgmt])
@[simp] theorem State.fillGranule_keeps (s : State) (c : Nat) (va : DWord) :
    (State.fillGranule s c va).waves = s.waves ∧
    (State.fillGranule s c va).blocks = s.blocks ∧
    (State.fillGranule s c va).launches = s.launches ∧
    (State.fillGranule s c va).cores = s.cores ∧
    (State.fillGranule s c va).array = s.array ∧
    (State.fillGranule s c va).registrant = s.registrant ∧
    (State.fillGranule s c va).claims = s.claims ∧
    (State.fillGranule s c va).cells = s.cells ∧
    (State.fillGranule s c va).regions = s.regions ∧
    (State.fillGranule s c va).rdc = s.rdc ∧
    (State.fillGranule s c va).l2 = s.l2 ∧
    (State.fillGranule s c va).msc = s.msc ∧
    (State.fillGranule s c va).hbms = s.hbms ∧
    (State.fillGranule s c va).bad = s.bad ∧
    (State.fillGranule s c va).weak = s.weak ∧
    (State.fillGranule s c va).lost = s.lost ∧
    (State.fillGranule s c va).tlb = s.tlb ∧
    (State.fillGranule s c va).accs = s.accs ∧
    (State.fillGranule s c va).net = s.net ∧
    (State.fillGranule s c va).abufs = s.abufs ∧
    (State.fillGranule s c va).jobs = s.jobs ∧
    (State.fillGranule s c va).feet = s.feet ∧
    (State.fillGranule s c va).shapes = s.shapes ∧
    (State.fillGranule s c va).eqs = s.eqs ∧
    (State.fillGranule s c va).insts = s.insts ∧
    (State.fillGranule s c va).hostAccs = s.hostAccs ∧
    (State.fillGranule s c va).hostLines = s.hostLines ∧
    (State.fillGranule s c va).mgmt = s.mgmt ∧
    (State.fillGranule s c va).focus = s.focus ∧
    (State.fillGranule s c va).agenda = s.agenda ∧
    (∀ k, (State.fillGranule s c va).wave k = s.wave k) ∧
    (∀ k, (State.fillGranule s c va).block k = s.block k) ∧
    (∀ k, (State.fillGranule s c va).launch k = s.launch k) ∧
    (∀ k, (State.fillGranule s c va).core k = s.core k) := by
  (unfold State.fillGranule; (try dsimp only); (repeat' split) <;> simp -implicitDefEqProofs (disch := (intros; first | (simp -implicitDefEqProofs [*]; done) | ((try dsimp only); (repeat' split) <;> (simp -implicitDefEqProofs (disch := (intros; (try dsimp only); (repeat' split) <;> (try (simp -implicitDefEqProofs [*]; done)))) [*]; done)) | skip)) [State.wave, State.block, State.launch, State.core])
/-- What the granules of a frame slot leave unchanged, whatever their addresses. -/
@[simp] theorem State.fillGranules_keeps (s : State) (c : Nat) (va : DWord) (ks : List Nat) :
    (s.fillGranules c va ks).waves = s.waves ∧
    (s.fillGranules c va ks).blocks = s.blocks ∧
    (s.fillGranules c va ks).launches = s.launches ∧
    (s.fillGranules c va ks).cores = s.cores ∧
    (s.fillGranules c va ks).array = s.array ∧
    (s.fillGranules c va ks).registrant = s.registrant ∧
    (s.fillGranules c va ks).claims = s.claims ∧
    (s.fillGranules c va ks).cells = s.cells ∧
    (s.fillGranules c va ks).regions = s.regions ∧
    (s.fillGranules c va ks).rdc = s.rdc ∧
    (s.fillGranules c va ks).l2 = s.l2 ∧
    (s.fillGranules c va ks).msc = s.msc ∧
    (s.fillGranules c va ks).hbms = s.hbms ∧
    (s.fillGranules c va ks).bad = s.bad ∧
    (s.fillGranules c va ks).weak = s.weak ∧
    (s.fillGranules c va ks).lost = s.lost ∧
    (s.fillGranules c va ks).tlb = s.tlb ∧
    (s.fillGranules c va ks).accs = s.accs ∧
    (s.fillGranules c va ks).net = s.net ∧
    (s.fillGranules c va ks).abufs = s.abufs ∧
    (s.fillGranules c va ks).jobs = s.jobs ∧
    (s.fillGranules c va ks).feet = s.feet ∧
    (s.fillGranules c va ks).shapes = s.shapes ∧
    (s.fillGranules c va ks).eqs = s.eqs ∧
    (s.fillGranules c va ks).insts = s.insts ∧
    (s.fillGranules c va ks).hostAccs = s.hostAccs ∧
    (s.fillGranules c va ks).hostLines = s.hostLines ∧
    (s.fillGranules c va ks).mgmt = s.mgmt ∧
    (s.fillGranules c va ks).focus = s.focus ∧
    (s.fillGranules c va ks).agenda = s.agenda ∧
    (∀ k, (s.fillGranules c va ks).wave k = s.wave k) ∧
    (∀ k, (s.fillGranules c va ks).block k = s.block k) ∧
    (∀ k, (s.fillGranules c va ks).launch k = s.launch k) ∧
    (∀ k, (s.fillGranules c va ks).core k = s.core k) := by
  (unfold State.fillGranules; simp -implicitDefEqProofs (disch := (intros; first | (simp -implicitDefEqProofs [*]; done) | ((try dsimp only); (repeat' split) <;> (simp -implicitDefEqProofs (disch := (intros; (try dsimp only); (repeat' split) <;> (try (simp -implicitDefEqProofs [*]; done)))) [*]; done)) | skip)) [State.wave, State.block, State.launch, State.core])
@[simp] theorem State.writeFrame_keeps (s : State) (b : Nat) :
    (State.writeFrame s b).waves = s.waves ∧
    (State.writeFrame s b).blocks = s.blocks ∧
    (State.writeFrame s b).launches = s.launches ∧
    (State.writeFrame s b).cores = s.cores ∧
    (State.writeFrame s b).array = s.array ∧
    (State.writeFrame s b).registrant = s.registrant ∧
    (State.writeFrame s b).claims = s.claims ∧
    (State.writeFrame s b).cells = s.cells ∧
    (State.writeFrame s b).regions = s.regions ∧
    (State.writeFrame s b).rdc = s.rdc ∧
    (State.writeFrame s b).l2 = s.l2 ∧
    (State.writeFrame s b).msc = s.msc ∧
    (State.writeFrame s b).hbms = s.hbms ∧
    (State.writeFrame s b).bad = s.bad ∧
    (State.writeFrame s b).weak = s.weak ∧
    (State.writeFrame s b).lost = s.lost ∧
    (State.writeFrame s b).tlb = s.tlb ∧
    (State.writeFrame s b).accs = s.accs ∧
    (State.writeFrame s b).net = s.net ∧
    (State.writeFrame s b).abufs = s.abufs ∧
    (State.writeFrame s b).jobs = s.jobs ∧
    (State.writeFrame s b).feet = s.feet ∧
    (State.writeFrame s b).shapes = s.shapes ∧
    (State.writeFrame s b).eqs = s.eqs ∧
    (State.writeFrame s b).insts = s.insts ∧
    (State.writeFrame s b).hostAccs = s.hostAccs ∧
    (State.writeFrame s b).hostLines = s.hostLines ∧
    (State.writeFrame s b).mgmt = s.mgmt ∧
    (State.writeFrame s b).focus = s.focus ∧
    (State.writeFrame s b).agenda = s.agenda ∧
    (∀ k, (State.writeFrame s b).wave k = s.wave k) ∧
    (∀ k, (State.writeFrame s b).block k = s.block k) ∧
    (∀ k, (State.writeFrame s b).launch k = s.launch k) ∧
    (∀ k, (State.writeFrame s b).core k = s.core k) :=
  State.fillGranules_keeps s _ _ _

@[simp] theorem State.sendPieces_keeps (s : State) (a : Nat) :
    (State.sendPieces s a).waves = s.waves ∧
    (State.sendPieces s a).blocks = s.blocks ∧
    (State.sendPieces s a).launches = s.launches ∧
    (State.sendPieces s a).cores = s.cores ∧
    (State.sendPieces s a).mem = s.mem ∧
    (State.sendPieces s a).array = s.array ∧
    (State.sendPieces s a).hostMem = s.hostMem ∧
    (State.sendPieces s a).peerMem = s.peerMem ∧
    (State.sendPieces s a).registrant = s.registrant ∧
    (State.sendPieces s a).claims = s.claims ∧
    (State.sendPieces s a).cells = s.cells ∧
    (State.sendPieces s a).regions = s.regions ∧
    (State.sendPieces s a).rdc = s.rdc ∧
    (State.sendPieces s a).l2 = s.l2 ∧
    (State.sendPieces s a).msc = s.msc ∧
    (State.sendPieces s a).hbms = s.hbms ∧
    (State.sendPieces s a).bad = s.bad ∧
    (State.sendPieces s a).weak = s.weak ∧
    (State.sendPieces s a).lost = s.lost ∧
    (State.sendPieces s a).tlb = s.tlb ∧
    (State.sendPieces s a).abufs = s.abufs ∧
    (State.sendPieces s a).jobs = s.jobs ∧
    (State.sendPieces s a).feet = s.feet ∧
    (State.sendPieces s a).shapes = s.shapes ∧
    (State.sendPieces s a).eqs = s.eqs ∧
    (State.sendPieces s a).insts = s.insts ∧
    (State.sendPieces s a).links = s.links ∧
    (State.sendPieces s a).hostAccs = s.hostAccs ∧
    (State.sendPieces s a).hostLines = s.hostLines ∧
    (State.sendPieces s a).mgmt = s.mgmt ∧
    (State.sendPieces s a).focus = s.focus ∧
    (State.sendPieces s a).agenda = s.agenda ∧
    (∀ k, (State.sendPieces s a).wave k = s.wave k) ∧
    (∀ k, (State.sendPieces s a).block k = s.block k) ∧
    (∀ k, (State.sendPieces s a).launch k = s.launch k) ∧
    (∀ k, (State.sendPieces s a).core k = s.core k) := by
  (unfold State.sendPieces; (try dsimp only); (repeat' split) <;> simp -implicitDefEqProofs (disch := (intros; first | (simp -implicitDefEqProofs [*]; done) | ((try dsimp only); (repeat' split) <;> (simp -implicitDefEqProofs (disch := (intros; (try dsimp only); (repeat' split) <;> (try (simp -implicitDefEqProofs [*]; done)))) [*]; done)) | skip)) [State.wave, State.block, State.launch, State.core])
@[simp] theorem State.unsend_keeps (s : State) (a : Nat) :
    (State.unsend s a).waves = s.waves ∧
    (State.unsend s a).blocks = s.blocks ∧
    (State.unsend s a).launches = s.launches ∧
    (State.unsend s a).cores = s.cores ∧
    (State.unsend s a).mem = s.mem ∧
    (State.unsend s a).array = s.array ∧
    (State.unsend s a).hostMem = s.hostMem ∧
    (State.unsend s a).peerMem = s.peerMem ∧
    (State.unsend s a).registrant = s.registrant ∧
    (State.unsend s a).cells = s.cells ∧
    (State.unsend s a).regions = s.regions ∧
    (State.unsend s a).rdc = s.rdc ∧
    (State.unsend s a).l2 = s.l2 ∧
    (State.unsend s a).msc = s.msc ∧
    (State.unsend s a).hbms = s.hbms ∧
    (State.unsend s a).bad = s.bad ∧
    (State.unsend s a).weak = s.weak ∧
    (State.unsend s a).lost = s.lost ∧
    (State.unsend s a).tlb = s.tlb ∧
    (State.unsend s a).accs = s.accs ∧
    (State.unsend s a).abufs = s.abufs ∧
    (State.unsend s a).jobs = s.jobs ∧
    (State.unsend s a).feet = s.feet ∧
    (State.unsend s a).shapes = s.shapes ∧
    (State.unsend s a).eqs = s.eqs ∧
    (State.unsend s a).insts = s.insts ∧
    (State.unsend s a).links = s.links ∧
    (State.unsend s a).hostAccs = s.hostAccs ∧
    (State.unsend s a).hostLines = s.hostLines ∧
    (State.unsend s a).mgmt = s.mgmt ∧
    (State.unsend s a).focus = s.focus ∧
    (State.unsend s a).agenda = s.agenda ∧
    (State.unsend s a).seq = s.seq ∧
    (∀ k, (State.unsend s a).wave k = s.wave k) ∧
    (∀ k, (State.unsend s a).block k = s.block k) ∧
    (∀ k, (State.unsend s a).launch k = s.launch k) ∧
    (∀ k, (State.unsend s a).core k = s.core k) := by
  (unfold State.unsend; (try dsimp only); (repeat' split) <;> simp -implicitDefEqProofs (disch := (intros; first | (simp -implicitDefEqProofs [*]; done) | ((try dsimp only); (repeat' split) <;> (simp -implicitDefEqProofs (disch := (intros; (try dsimp only); (repeat' split) <;> (try (simp -implicitDefEqProofs [*]; done)))) [*]; done)) | skip)) [State.wave, State.block, State.launch, State.core])
@[simp] theorem State.rewindAcc_keeps (s : State) (a : Nat) :
    (State.rewindAcc s a).waves = s.waves ∧
    (State.rewindAcc s a).blocks = s.blocks ∧
    (State.rewindAcc s a).launches = s.launches ∧
    (State.rewindAcc s a).cores = s.cores ∧
    (State.rewindAcc s a).mem = s.mem ∧
    (State.rewindAcc s a).array = s.array ∧
    (State.rewindAcc s a).hostMem = s.hostMem ∧
    (State.rewindAcc s a).peerMem = s.peerMem ∧
    (State.rewindAcc s a).registrant = s.registrant ∧
    (State.rewindAcc s a).cells = s.cells ∧
    (State.rewindAcc s a).regions = s.regions ∧
    (State.rewindAcc s a).rdc = s.rdc ∧
    (State.rewindAcc s a).l2 = s.l2 ∧
    (State.rewindAcc s a).msc = s.msc ∧
    (State.rewindAcc s a).hbms = s.hbms ∧
    (State.rewindAcc s a).bad = s.bad ∧
    (State.rewindAcc s a).weak = s.weak ∧
    (State.rewindAcc s a).lost = s.lost ∧
    (State.rewindAcc s a).tlb = s.tlb ∧
    (State.rewindAcc s a).abufs = s.abufs ∧
    (State.rewindAcc s a).jobs = s.jobs ∧
    (State.rewindAcc s a).feet = s.feet ∧
    (State.rewindAcc s a).shapes = s.shapes ∧
    (State.rewindAcc s a).eqs = s.eqs ∧
    (State.rewindAcc s a).insts = s.insts ∧
    (State.rewindAcc s a).links = s.links ∧
    (State.rewindAcc s a).hostAccs = s.hostAccs ∧
    (State.rewindAcc s a).hostLines = s.hostLines ∧
    (State.rewindAcc s a).mgmt = s.mgmt ∧
    (State.rewindAcc s a).focus = s.focus ∧
    (State.rewindAcc s a).agenda = s.agenda ∧
    (State.rewindAcc s a).seq = s.seq ∧
    (∀ k, (State.rewindAcc s a).wave k = s.wave k) ∧
    (∀ k, (State.rewindAcc s a).block k = s.block k) ∧
    (∀ k, (State.rewindAcc s a).launch k = s.launch k) ∧
    (∀ k, (State.rewindAcc s a).core k = s.core k) := by
  (unfold State.rewindAcc; (try dsimp only); (repeat' split) <;> simp -implicitDefEqProofs (disch := (intros; first | (simp -implicitDefEqProofs [*]; done) | ((try dsimp only); (repeat' split) <;> (simp -implicitDefEqProofs (disch := (intros; (try dsimp only); (repeat' split) <;> (try (simp -implicitDefEqProofs [*]; done)))) [*]; done)) | skip)) [State.wave, State.block, State.launch, State.core])
@[simp] theorem State.rewindTruth_keeps (s : State) (a : Nat) :
    (State.rewindTruth s a).waves = s.waves ∧
    (State.rewindTruth s a).blocks = s.blocks ∧
    (State.rewindTruth s a).launches = s.launches ∧
    (State.rewindTruth s a).cores = s.cores ∧
    (State.rewindTruth s a).mem = s.mem ∧
    (State.rewindTruth s a).array = s.array ∧
    (State.rewindTruth s a).hostMem = s.hostMem ∧
    (State.rewindTruth s a).peerMem = s.peerMem ∧
    (State.rewindTruth s a).registrant = s.registrant ∧
    (State.rewindTruth s a).claims = s.claims ∧
    (State.rewindTruth s a).cells = s.cells ∧
    (State.rewindTruth s a).regions = s.regions ∧
    (State.rewindTruth s a).rdc = s.rdc ∧
    (State.rewindTruth s a).l2 = s.l2 ∧
    (State.rewindTruth s a).msc = s.msc ∧
    (State.rewindTruth s a).hbms = s.hbms ∧
    (State.rewindTruth s a).bad = s.bad ∧
    (State.rewindTruth s a).weak = s.weak ∧
    (State.rewindTruth s a).lost = s.lost ∧
    (State.rewindTruth s a).tlb = s.tlb ∧
    (State.rewindTruth s a).abufs = s.abufs ∧
    (State.rewindTruth s a).jobs = s.jobs ∧
    (State.rewindTruth s a).feet = s.feet ∧
    (State.rewindTruth s a).shapes = s.shapes ∧
    (State.rewindTruth s a).eqs = s.eqs ∧
    (State.rewindTruth s a).insts = s.insts ∧
    (State.rewindTruth s a).links = s.links ∧
    (State.rewindTruth s a).hostAccs = s.hostAccs ∧
    (State.rewindTruth s a).hostLines = s.hostLines ∧
    (State.rewindTruth s a).mgmt = s.mgmt ∧
    (State.rewindTruth s a).focus = s.focus ∧
    (State.rewindTruth s a).agenda = s.agenda ∧
    (State.rewindTruth s a).seq = s.seq ∧
    (∀ k, (State.rewindTruth s a).wave k = s.wave k) ∧
    (∀ k, (State.rewindTruth s a).block k = s.block k) ∧
    (∀ k, (State.rewindTruth s a).launch k = s.launch k) ∧
    (∀ k, (State.rewindTruth s a).core k = s.core k) := by
  (unfold State.rewindTruth; (try dsimp only); (repeat' split) <;> simp -implicitDefEqProofs (disch := (intros; first | (simp -implicitDefEqProofs [*]; done) | ((try dsimp only); (repeat' split) <;> (simp -implicitDefEqProofs (disch := (intros; (try dsimp only); (repeat' split) <;> (try (simp -implicitDefEqProofs [*]; done)))) [*]; done)) | skip)) [State.wave, State.block, State.launch, State.core])
@[simp] theorem State.dropReads_keeps (s : State) (b : Nat) :
    (State.dropReads s b).waves = s.waves ∧
    (State.dropReads s b).launches = s.launches ∧
    (State.dropReads s b).cores = s.cores ∧
    (State.dropReads s b).mem = s.mem ∧
    (State.dropReads s b).array = s.array ∧
    (State.dropReads s b).hostMem = s.hostMem ∧
    (State.dropReads s b).peerMem = s.peerMem ∧
    (State.dropReads s b).registrant = s.registrant ∧
    (State.dropReads s b).cells = s.cells ∧
    (State.dropReads s b).regions = s.regions ∧
    (State.dropReads s b).rdc = s.rdc ∧
    (State.dropReads s b).l2 = s.l2 ∧
    (State.dropReads s b).msc = s.msc ∧
    (State.dropReads s b).hbms = s.hbms ∧
    (State.dropReads s b).bad = s.bad ∧
    (State.dropReads s b).weak = s.weak ∧
    (State.dropReads s b).lost = s.lost ∧
    (State.dropReads s b).tlb = s.tlb ∧
    (State.dropReads s b).abufs = s.abufs ∧
    (State.dropReads s b).jobs = s.jobs ∧
    (State.dropReads s b).feet = s.feet ∧
    (State.dropReads s b).shapes = s.shapes ∧
    (State.dropReads s b).eqs = s.eqs ∧
    (State.dropReads s b).insts = s.insts ∧
    (State.dropReads s b).links = s.links ∧
    (State.dropReads s b).hostAccs = s.hostAccs ∧
    (State.dropReads s b).hostLines = s.hostLines ∧
    (State.dropReads s b).mgmt = s.mgmt ∧
    (State.dropReads s b).focus = s.focus ∧
    (State.dropReads s b).agenda = s.agenda ∧
    (State.dropReads s b).seq = s.seq ∧
    (∀ k, (State.dropReads s b).wave k = s.wave k) ∧
    (∀ k, (State.dropReads s b).launch k = s.launch k) ∧
    (∀ k, (State.dropReads s b).core k = s.core k) := by
  (unfold State.dropReads; (try dsimp only); (repeat' split) <;> simp -implicitDefEqProofs (disch := (intros; first | (simp -implicitDefEqProofs [*]; done) | ((try dsimp only); (repeat' split) <;> (simp -implicitDefEqProofs (disch := (intros; (try dsimp only); (repeat' split) <;> (try (simp -implicitDefEqProofs [*]; done)))) [*]; done)) | skip)) [State.wave, State.block, State.launch, State.core])
@[simp] theorem State.saveBlock_keeps (s : State) (b : Nat) (mayDrop : Bool) (page : Option (Nat × DWord × Nat)) :
    (State.saveBlock s b mayDrop page).launches = s.launches ∧
    (State.saveBlock s b mayDrop page).array = s.array ∧
    (State.saveBlock s b mayDrop page).registrant = s.registrant ∧
    (State.saveBlock s b mayDrop page).cells = s.cells ∧
    (State.saveBlock s b mayDrop page).regions = s.regions ∧
    (State.saveBlock s b mayDrop page).rdc = s.rdc ∧
    (State.saveBlock s b mayDrop page).l2 = s.l2 ∧
    (State.saveBlock s b mayDrop page).msc = s.msc ∧
    (State.saveBlock s b mayDrop page).hbms = s.hbms ∧
    (State.saveBlock s b mayDrop page).bad = s.bad ∧
    (State.saveBlock s b mayDrop page).weak = s.weak ∧
    (State.saveBlock s b mayDrop page).lost = s.lost ∧
    (State.saveBlock s b mayDrop page).tlb = s.tlb ∧
    (State.saveBlock s b mayDrop page).abufs = s.abufs ∧
    (State.saveBlock s b mayDrop page).feet = s.feet ∧
    (State.saveBlock s b mayDrop page).shapes = s.shapes ∧
    (State.saveBlock s b mayDrop page).eqs = s.eqs ∧
    (State.saveBlock s b mayDrop page).insts = s.insts ∧
    (State.saveBlock s b mayDrop page).hostAccs = s.hostAccs ∧
    (State.saveBlock s b mayDrop page).hostLines = s.hostLines ∧
    (State.saveBlock s b mayDrop page).mgmt = s.mgmt ∧
    (State.saveBlock s b mayDrop page).focus = s.focus ∧
    (State.saveBlock s b mayDrop page).agenda = s.agenda ∧
    (∀ k, (State.saveBlock s b mayDrop page).launch k = s.launch k) := by
  (unfold State.saveBlock; (try dsimp only); (repeat' split) <;> simp -implicitDefEqProofs (disch := (intros; first | (simp -implicitDefEqProofs [*]; done) | ((try dsimp only); (repeat' split) <;> (simp -implicitDefEqProofs (disch := (intros; (try dsimp only); (repeat' split) <;> (try (simp -implicitDefEqProofs [*]; done)))) [*]; done)) | skip)) [State.wave, State.block, State.launch, State.core])
@[simp] theorem State.replace_keeps (s : State) (a : Nat) :
    (State.replace s a).waves = s.waves ∧
    (State.replace s a).blocks = s.blocks ∧
    (State.replace s a).launches = s.launches ∧
    (State.replace s a).cores = s.cores ∧
    (State.replace s a).mem = s.mem ∧
    (State.replace s a).array = s.array ∧
    (State.replace s a).hostMem = s.hostMem ∧
    (State.replace s a).peerMem = s.peerMem ∧
    (State.replace s a).registrant = s.registrant ∧
    (State.replace s a).claims = s.claims ∧
    (State.replace s a).cells = s.cells ∧
    (State.replace s a).regions = s.regions ∧
    (State.replace s a).rdc = s.rdc ∧
    (State.replace s a).l2 = s.l2 ∧
    (State.replace s a).msc = s.msc ∧
    (State.replace s a).hbms = s.hbms ∧
    (State.replace s a).bad = s.bad ∧
    (State.replace s a).weak = s.weak ∧
    (State.replace s a).lost = s.lost ∧
    (State.replace s a).tlb = s.tlb ∧
    (State.replace s a).net = s.net ∧
    (State.replace s a).abufs = s.abufs ∧
    (State.replace s a).jobs = s.jobs ∧
    (State.replace s a).feet = s.feet ∧
    (State.replace s a).shapes = s.shapes ∧
    (State.replace s a).eqs = s.eqs ∧
    (State.replace s a).insts = s.insts ∧
    (State.replace s a).links = s.links ∧
    (State.replace s a).hostAccs = s.hostAccs ∧
    (State.replace s a).hostLines = s.hostLines ∧
    (State.replace s a).mgmt = s.mgmt ∧
    (State.replace s a).focus = s.focus ∧
    (State.replace s a).agenda = s.agenda ∧
    (State.replace s a).seq = s.seq ∧
    (∀ k, (State.replace s a).wave k = s.wave k) ∧
    (∀ k, (State.replace s a).block k = s.block k) ∧
    (∀ k, (State.replace s a).launch k = s.launch k) ∧
    (∀ k, (State.replace s a).core k = s.core k) := by
  (unfold State.replace; (try dsimp only); (repeat' split) <;> simp -implicitDefEqProofs (disch := (intros; first | (simp -implicitDefEqProofs [*]; done) | ((try dsimp only); (repeat' split) <;> (simp -implicitDefEqProofs (disch := (intros; (try dsimp only); (repeat' split) <;> (try (simp -implicitDefEqProofs [*]; done)))) [*]; done)) | skip)) [State.wave, State.block, State.launch, State.core])
@[simp] theorem State.resumeJob_keeps (s : State) (j : Nat) :
    (State.resumeJob s j).waves = s.waves ∧
    (State.resumeJob s j).blocks = s.blocks ∧
    (State.resumeJob s j).launches = s.launches ∧
    (State.resumeJob s j).cores = s.cores ∧
    (State.resumeJob s j).mem = s.mem ∧
    (State.resumeJob s j).array = s.array ∧
    (State.resumeJob s j).hostMem = s.hostMem ∧
    (State.resumeJob s j).peerMem = s.peerMem ∧
    (State.resumeJob s j).registrant = s.registrant ∧
    (State.resumeJob s j).claims = s.claims ∧
    (State.resumeJob s j).cells = s.cells ∧
    (State.resumeJob s j).regions = s.regions ∧
    (State.resumeJob s j).rdc = s.rdc ∧
    (State.resumeJob s j).l2 = s.l2 ∧
    (State.resumeJob s j).msc = s.msc ∧
    (State.resumeJob s j).hbms = s.hbms ∧
    (State.resumeJob s j).bad = s.bad ∧
    (State.resumeJob s j).weak = s.weak ∧
    (State.resumeJob s j).lost = s.lost ∧
    (State.resumeJob s j).tlb = s.tlb ∧
    (State.resumeJob s j).accs = s.accs ∧
    (State.resumeJob s j).net = s.net ∧
    (State.resumeJob s j).abufs = s.abufs ∧
    (State.resumeJob s j).feet = s.feet ∧
    (State.resumeJob s j).shapes = s.shapes ∧
    (State.resumeJob s j).eqs = s.eqs ∧
    (State.resumeJob s j).insts = s.insts ∧
    (State.resumeJob s j).links = s.links ∧
    (State.resumeJob s j).hostAccs = s.hostAccs ∧
    (State.resumeJob s j).hostLines = s.hostLines ∧
    (State.resumeJob s j).mgmt = s.mgmt ∧
    (State.resumeJob s j).focus = s.focus ∧
    (State.resumeJob s j).agenda = s.agenda ∧
    (State.resumeJob s j).seq = s.seq ∧
    (∀ k, (State.resumeJob s j).wave k = s.wave k) ∧
    (∀ k, (State.resumeJob s j).block k = s.block k) ∧
    (∀ k, (State.resumeJob s j).launch k = s.launch k) ∧
    (∀ k, (State.resumeJob s j).core k = s.core k) := by
  (unfold State.resumeJob; (try dsimp only); (repeat' split) <;> simp -implicitDefEqProofs (disch := (intros; first | (simp -implicitDefEqProofs [*]; done) | ((try dsimp only); (repeat' split) <;> (simp -implicitDefEqProofs (disch := (intros; (try dsimp only); (repeat' split) <;> (try (simp -implicitDefEqProofs [*]; done)))) [*]; done)) | skip)) [State.wave, State.block, State.launch, State.core])
@[simp] theorem State.restoreBlock_keeps (s : State) (b : Nat) (lcore : Nat) :
    (State.restoreBlock s b lcore).launches = s.launches ∧
    (State.restoreBlock s b lcore).mem = s.mem ∧
    (State.restoreBlock s b lcore).array = s.array ∧
    (State.restoreBlock s b lcore).hostMem = s.hostMem ∧
    (State.restoreBlock s b lcore).peerMem = s.peerMem ∧
    (State.restoreBlock s b lcore).registrant = s.registrant ∧
    (State.restoreBlock s b lcore).claims = s.claims ∧
    (State.restoreBlock s b lcore).cells = s.cells ∧
    (State.restoreBlock s b lcore).regions = s.regions ∧
    (State.restoreBlock s b lcore).rdc = s.rdc ∧
    (State.restoreBlock s b lcore).l2 = s.l2 ∧
    (State.restoreBlock s b lcore).msc = s.msc ∧
    (State.restoreBlock s b lcore).hbms = s.hbms ∧
    (State.restoreBlock s b lcore).bad = s.bad ∧
    (State.restoreBlock s b lcore).weak = s.weak ∧
    (State.restoreBlock s b lcore).lost = s.lost ∧
    (State.restoreBlock s b lcore).tlb = s.tlb ∧
    (State.restoreBlock s b lcore).abufs = s.abufs ∧
    (State.restoreBlock s b lcore).feet = s.feet ∧
    (State.restoreBlock s b lcore).shapes = s.shapes ∧
    (State.restoreBlock s b lcore).eqs = s.eqs ∧
    (State.restoreBlock s b lcore).insts = s.insts ∧
    (State.restoreBlock s b lcore).links = s.links ∧
    (State.restoreBlock s b lcore).hostAccs = s.hostAccs ∧
    (State.restoreBlock s b lcore).hostLines = s.hostLines ∧
    (State.restoreBlock s b lcore).mgmt = s.mgmt ∧
    (State.restoreBlock s b lcore).focus = s.focus ∧
    (State.restoreBlock s b lcore).agenda = s.agenda ∧
    (∀ k, (State.restoreBlock s b lcore).launch k = s.launch k) := by
  (unfold State.restoreBlock; (try dsimp only); (repeat' split) <;> simp -implicitDefEqProofs (disch := (intros; first | (simp -implicitDefEqProofs [*]; done) | ((try dsimp only); (repeat' split) <;> (simp -implicitDefEqProofs (disch := (intros; (try dsimp only); (repeat' split) <;> (try (simp -implicitDefEqProofs [*]; done)))) [*]; done)) | skip)) [State.wave, State.block, State.launch, State.core])
@[simp] theorem State.restoreBlock_keepsB (s : State) (b : Nat) (lcore : Nat) (k : Nat) :
    ((State.restoreBlock s b lcore).block k).launch = (s.block k).launch ∧
    ((State.restoreBlock s b lcore).block k).idx = (s.block k).idx ∧
    ((State.restoreBlock s b lcore).block k).frame = (s.block k).frame ∧
    ((State.restoreBlock s b lcore).block k).waves = (s.block k).waves ∧
    ((State.restoreBlock s b lcore).block k).scratch = (s.block k).scratch ∧
    ((State.restoreBlock s b lcore).block k).lim = (s.block k).lim ∧
    ((State.restoreBlock s b lcore).block k).flights = (s.block k).flights ∧
    ((State.restoreBlock s b lcore).block k).tabs = (s.block k).tabs ∧
    ((State.restoreBlock s b lcore).block k).accs = (s.block k).accs ∧
    ((State.restoreBlock s b lcore).block k).feeds = (s.block k).feeds ∧
    ((State.restoreBlock s b lcore).block k).preds = (s.block k).preds ∧
    ((State.restoreBlock s b lcore).block k).streams = (s.block k).streams ∧
    ((State.restoreBlock s b lcore).block k).sketch = (s.block k).sketch ∧
    ((State.restoreBlock s b lcore).block k).seqq = (s.block k).seqq ∧
    ((State.restoreBlock s b lcore).block k).bars = (s.block k).bars ∧
    ((State.restoreBlock s b lcore).block k).share = (s.block k).share := by
  first
  | (unfold State.restoreBlock; (try dsimp only); (repeat' split) <;> simp -implicitDefEqProofs (disch := (intros; first | (simp -implicitDefEqProofs [*]; done) | ((try dsimp only); (repeat' split) <;> (simp -implicitDefEqProofs (disch := (intros; (try dsimp only); (repeat' split) <;> (try (simp -implicitDefEqProofs [*]; done)))) [*]; done)) | skip)) [State.updBlock_at, apply_ite Block.launch, apply_ite Block.idx, apply_ite Block.st, apply_ite Block.lcore, apply_ite Block.pcore, apply_ite Block.frame, apply_ite Block.waves, apply_ite Block.pageWait, apply_ite Block.scratch, apply_ite Block.sclaims, apply_ite Block.lim, apply_ite Block.flights, apply_ite Block.tabs, apply_ite Block.accs, apply_ite Block.feeds, apply_ite Block.preds, apply_ite Block.streams, apply_ite Block.sketch, apply_ite Block.seqq, apply_ite Block.bars, apply_ite Block.share, apply_ite Block.issued, apply_ite Block.since, apply_ite Block.discarded])
  | (unfold State.restoreBlock; (try dsimp only); (repeat' split) <;> simp -implicitDefEqProofs (disch := (intros; first | (simp -implicitDefEqProofs [*]; done) | ((try dsimp only); (repeat' split) <;> (simp -implicitDefEqProofs (disch := (intros; (try dsimp only); (repeat' split) <;> (try (simp -implicitDefEqProofs [*]; done)))) [*]; done)) | skip)) [State.block])
end Sys2Proof.Machine
end

