-- ==== Sys2Proof/Laws/KeepsOps.lean ====
section
/-! SUPPORT. What the named operations on registers, the operand forms and the flag computations leave unchanged. One lemma per operation, over the fields of State; a field that is not named may change. -/

set_option linter.unusedSimpArgs false

namespace Sys2Proof.Machine
open Sys2Proof
@[simp] theorem State.writeS_keeps (s : State) (r : BitVec 6) (x : DWord) :
    (State.writeS s r x).blocks = s.blocks ∧
    (State.writeS s r x).launches = s.launches ∧
    (State.writeS s r x).cores = s.cores ∧
    (State.writeS s r x).mem = s.mem ∧
    (State.writeS s r x).array = s.array ∧
    (State.writeS s r x).hostMem = s.hostMem ∧
    (State.writeS s r x).peerMem = s.peerMem ∧
    (State.writeS s r x).registrant = s.registrant ∧
    (State.writeS s r x).claims = s.claims ∧
    (State.writeS s r x).cells = s.cells ∧
    (State.writeS s r x).regions = s.regions ∧
    (State.writeS s r x).rdc = s.rdc ∧
    (State.writeS s r x).l2 = s.l2 ∧
    (State.writeS s r x).msc = s.msc ∧
    (State.writeS s r x).hbms = s.hbms ∧
    (State.writeS s r x).bad = s.bad ∧
    (State.writeS s r x).weak = s.weak ∧
    (State.writeS s r x).lost = s.lost ∧
    (State.writeS s r x).tlb = s.tlb ∧
    (State.writeS s r x).net = s.net ∧
    (State.writeS s r x).abufs = s.abufs ∧
    (State.writeS s r x).jobs = s.jobs ∧
    (State.writeS s r x).feet = s.feet ∧
    (State.writeS s r x).shapes = s.shapes ∧
    (State.writeS s r x).eqs = s.eqs ∧
    (State.writeS s r x).insts = s.insts ∧
    (State.writeS s r x).links = s.links ∧
    (State.writeS s r x).hostAccs = s.hostAccs ∧
    (State.writeS s r x).hostLines = s.hostLines ∧
    (State.writeS s r x).mgmt = s.mgmt ∧
    (State.writeS s r x).focus = s.focus ∧
    (State.writeS s r x).agenda = s.agenda ∧
    (State.writeS s r x).seq = s.seq ∧
    (∀ k, (State.writeS s r x).block k = s.block k) ∧
    (∀ k, (State.writeS s r x).launch k = s.launch k) ∧
    (∀ k, (State.writeS s r x).core k = s.core k) := by
  (unfold State.writeS; (try dsimp only); (repeat' split) <;> simp -implicitDefEqProofs (disch := (intros; first | (simp -implicitDefEqProofs [*]; done) | ((try dsimp only); (repeat' split) <;> (simp -implicitDefEqProofs (disch := (intros; (try dsimp only); (repeat' split) <;> (try (simp -implicitDefEqProofs [*]; done)))) [*]; done)) | skip)) [State.wave, State.block, State.launch, State.core])
@[simp] theorem State.writeS_keepsW (s : State) (r : BitVec 6) (x : DWord) (k : Nat) :
    ((State.writeS s r x).wave k).block = (s.wave k).block ∧
    ((State.writeS s r x).wave k).idx = (s.wave k).idx ∧
    ((State.writeS s r x).wave k).exited = (s.wave k).exited ∧
    ((State.writeS s r x).wave k).launchMask = (s.wave k).launchMask ∧
    ((State.writeS s r x).wave k).pad = (s.wave k).pad ∧
    ((State.writeS s r x).wave k).vregs = (s.wave k).vregs ∧
    ((State.writeS s r x).wave k).pregs = (s.wave k).pregs ∧
    ((State.writeS s r x).wave k).lastB = (s.wave k).lastB ∧
    ((State.writeS s r x).wave k).spill = (s.wave k).spill ∧
    ((State.writeS s r x).wave k).handler = (s.wave k).handler ∧
    ((State.writeS s r x).wave k).xpc = (s.wave k).xpc ∧
    ((State.writeS s r x).wave k).xmode = (s.wave k).xmode ∧
    ((State.writeS s r x).wave k).xcause = (s.wave k).xcause ∧
    ((State.writeS s r x).wave k).xlanes = (s.wave k).xlanes ∧
    ((State.writeS s r x).wave k).xaddr = (s.wave k).xaddr ∧
    ((State.writeS s r x).wave k).gexposed = (s.wave k).gexposed ∧
    ((State.writeS s r x).wave k).mm = (s.wave k).mm ∧
    ((State.writeS s r x).wave k).epoch = (s.wave k).epoch ∧
    ((State.writeS s r x).wave k).tags = (s.wave k).tags ∧
    ((State.writeS s r x).wave k).sfr = (s.wave k).sfr ∧
    ((State.writeS s r x).wave k).arrived = (s.wave k).arrived ∧
    ((State.writeS s r x).wave k).pend = (s.wave k).pend ∧
    ((State.writeS s r x).wave k).lost = (s.wave k).lost ∧
    ((State.writeS s r x).wave k).since = (s.wave k).since ∧
    ((State.writeS s r x).wave k).jobs = (s.wave k).jobs ∧
    ((State.writeS s r x).wave k).left = (s.wave k).left := by
  first
  | (unfold State.writeS; (try dsimp only); (repeat' split) <;> simp -implicitDefEqProofs (disch := (intros; first | (simp -implicitDefEqProofs [*]; done) | ((try dsimp only); (repeat' split) <;> (simp -implicitDefEqProofs (disch := (intros; (try dsimp only); (repeat' split) <;> (try (simp -implicitDefEqProofs [*]; done)))) [*]; done)) | skip)) [State.updWave_at, apply_ite Wave.block, apply_ite Wave.idx, apply_ite Wave.exited, apply_ite Wave.launchMask, apply_ite Wave.pad, apply_ite Wave.sregs, apply_ite Wave.vregs, apply_ite Wave.pregs, apply_ite Wave.slotA, apply_ite Wave.slotB, apply_ite Wave.lastB, apply_ite Wave.spill, apply_ite Wave.handler, apply_ite Wave.xpc, apply_ite Wave.xmode, apply_ite Wave.xcause, apply_ite Wave.xlanes, apply_ite Wave.xaddr, apply_ite Wave.gexposed, apply_ite Wave.mm, apply_ite Wave.epoch, apply_ite Wave.tags, apply_ite Wave.sfr, apply_ite Wave.arrived, apply_ite Wave.region, apply_ite Wave.pend, apply_ite Wave.lost, apply_ite Wave.since, apply_ite Wave.jobs, apply_ite Wave.left])
  | (unfold State.writeS; (try dsimp only); (repeat' split) <;> simp -implicitDefEqProofs (disch := (intros; first | (simp -implicitDefEqProofs [*]; done) | ((try dsimp only); (repeat' split) <;> (simp -implicitDefEqProofs (disch := (intros; (try dsimp only); (repeat' split) <;> (try (simp -implicitDefEqProofs [*]; done)))) [*]; done)) | skip)) [State.wave])
@[simp] theorem State.writeLim_keeps (s : State) (n : BitVec 3) (x : Word) :
    (State.writeLim s n x).launches = s.launches ∧
    (State.writeLim s n x).cores = s.cores ∧
    (State.writeLim s n x).mem = s.mem ∧
    (State.writeLim s n x).array = s.array ∧
    (State.writeLim s n x).hostMem = s.hostMem ∧
    (State.writeLim s n x).peerMem = s.peerMem ∧
    (State.writeLim s n x).registrant = s.registrant ∧
    (State.writeLim s n x).claims = s.claims ∧
    (State.writeLim s n x).cells = s.cells ∧
    (State.writeLim s n x).regions = s.regions ∧
    (State.writeLim s n x).rdc = s.rdc ∧
    (State.writeLim s n x).l2 = s.l2 ∧
    (State.writeLim s n x).msc = s.msc ∧
    (State.writeLim s n x).hbms = s.hbms ∧
    (State.writeLim s n x).bad = s.bad ∧
    (State.writeLim s n x).weak = s.weak ∧
    (State.writeLim s n x).lost = s.lost ∧
    (State.writeLim s n x).tlb = s.tlb ∧
    (State.writeLim s n x).accs = s.accs ∧
    (State.writeLim s n x).net = s.net ∧
    (State.writeLim s n x).abufs = s.abufs ∧
    (State.writeLim s n x).jobs = s.jobs ∧
    (State.writeLim s n x).feet = s.feet ∧
    (State.writeLim s n x).shapes = s.shapes ∧
    (State.writeLim s n x).eqs = s.eqs ∧
    (State.writeLim s n x).insts = s.insts ∧
    (State.writeLim s n x).links = s.links ∧
    (State.writeLim s n x).hostAccs = s.hostAccs ∧
    (State.writeLim s n x).hostLines = s.hostLines ∧
    (State.writeLim s n x).mgmt = s.mgmt ∧
    (State.writeLim s n x).focus = s.focus ∧
    (State.writeLim s n x).agenda = s.agenda ∧
    (State.writeLim s n x).seq = s.seq ∧
    (∀ k, (State.writeLim s n x).launch k = s.launch k) ∧
    (∀ k, (State.writeLim s n x).core k = s.core k) := by
  (unfold State.writeLim; (try dsimp only); (repeat' split) <;> simp -implicitDefEqProofs (disch := (intros; first | (simp -implicitDefEqProofs [*]; done) | ((try dsimp only); (repeat' split) <;> (simp -implicitDefEqProofs (disch := (intros; (try dsimp only); (repeat' split) <;> (try (simp -implicitDefEqProofs [*]; done)))) [*]; done)) | skip)) [State.wave, State.block, State.launch, State.core])
@[simp] theorem State.writeLim_keepsW (s : State) (n : BitVec 3) (x : Word) (k : Nat) :
    ((State.writeLim s n x).wave k).block = (s.wave k).block ∧
    ((State.writeLim s n x).wave k).idx = (s.wave k).idx ∧
    ((State.writeLim s n x).wave k).exited = (s.wave k).exited ∧
    ((State.writeLim s n x).wave k).launchMask = (s.wave k).launchMask ∧
    ((State.writeLim s n x).wave k).pad = (s.wave k).pad ∧
    ((State.writeLim s n x).wave k).sregs = (s.wave k).sregs ∧
    ((State.writeLim s n x).wave k).vregs = (s.wave k).vregs ∧
    ((State.writeLim s n x).wave k).pregs = (s.wave k).pregs ∧
    ((State.writeLim s n x).wave k).lastB = (s.wave k).lastB ∧
    ((State.writeLim s n x).wave k).spill = (s.wave k).spill ∧
    ((State.writeLim s n x).wave k).handler = (s.wave k).handler ∧
    ((State.writeLim s n x).wave k).xpc = (s.wave k).xpc ∧
    ((State.writeLim s n x).wave k).xmode = (s.wave k).xmode ∧
    ((State.writeLim s n x).wave k).xcause = (s.wave k).xcause ∧
    ((State.writeLim s n x).wave k).xlanes = (s.wave k).xlanes ∧
    ((State.writeLim s n x).wave k).xaddr = (s.wave k).xaddr ∧
    ((State.writeLim s n x).wave k).gexposed = (s.wave k).gexposed ∧
    ((State.writeLim s n x).wave k).mm = (s.wave k).mm ∧
    ((State.writeLim s n x).wave k).epoch = (s.wave k).epoch ∧
    ((State.writeLim s n x).wave k).tags = (s.wave k).tags ∧
    ((State.writeLim s n x).wave k).sfr = (s.wave k).sfr ∧
    ((State.writeLim s n x).wave k).arrived = (s.wave k).arrived ∧
    ((State.writeLim s n x).wave k).region = (s.wave k).region ∧
    ((State.writeLim s n x).wave k).pend = (s.wave k).pend ∧
    ((State.writeLim s n x).wave k).lost = (s.wave k).lost ∧
    ((State.writeLim s n x).wave k).since = (s.wave k).since ∧
    ((State.writeLim s n x).wave k).jobs = (s.wave k).jobs ∧
    ((State.writeLim s n x).wave k).left = (s.wave k).left := by
  first
  | (unfold State.writeLim; (try dsimp only); (repeat' split) <;> simp -implicitDefEqProofs (disch := (intros; first | (simp -implicitDefEqProofs [*]; done) | ((try dsimp only); (repeat' split) <;> (simp -implicitDefEqProofs (disch := (intros; (try dsimp only); (repeat' split) <;> (try (simp -implicitDefEqProofs [*]; done)))) [*]; done)) | skip)) [State.updWave_at, apply_ite Wave.block, apply_ite Wave.idx, apply_ite Wave.exited, apply_ite Wave.launchMask, apply_ite Wave.pad, apply_ite Wave.sregs, apply_ite Wave.vregs, apply_ite Wave.pregs, apply_ite Wave.slotA, apply_ite Wave.slotB, apply_ite Wave.lastB, apply_ite Wave.spill, apply_ite Wave.handler, apply_ite Wave.xpc, apply_ite Wave.xmode, apply_ite Wave.xcause, apply_ite Wave.xlanes, apply_ite Wave.xaddr, apply_ite Wave.gexposed, apply_ite Wave.mm, apply_ite Wave.epoch, apply_ite Wave.tags, apply_ite Wave.sfr, apply_ite Wave.arrived, apply_ite Wave.region, apply_ite Wave.pend, apply_ite Wave.lost, apply_ite Wave.since, apply_ite Wave.jobs, apply_ite Wave.left])
  | (unfold State.writeLim; (try dsimp only); (repeat' split) <;> simp -implicitDefEqProofs (disch := (intros; first | (simp -implicitDefEqProofs [*]; done) | ((try dsimp only); (repeat' split) <;> (simp -implicitDefEqProofs (disch := (intros; (try dsimp only); (repeat' split) <;> (try (simp -implicitDefEqProofs [*]; done)))) [*]; done)) | skip)) [State.wave])
@[simp] theorem State.writeLim_keepsB (s : State) (n : BitVec 3) (x : Word) (k : Nat) :
    ((State.writeLim s n x).block k).launch = (s.block k).launch ∧
    ((State.writeLim s n x).block k).idx = (s.block k).idx ∧
    ((State.writeLim s n x).block k).st = (s.block k).st ∧
    ((State.writeLim s n x).block k).lcore = (s.block k).lcore ∧
    ((State.writeLim s n x).block k).pcore = (s.block k).pcore ∧
    ((State.writeLim s n x).block k).frame = (s.block k).frame ∧
    ((State.writeLim s n x).block k).waves = (s.block k).waves ∧
    ((State.writeLim s n x).block k).pageWait = (s.block k).pageWait ∧
    ((State.writeLim s n x).block k).scratch = (s.block k).scratch ∧
    ((State.writeLim s n x).block k).sclaims = (s.block k).sclaims ∧
    ((State.writeLim s n x).block k).flights = (s.block k).flights ∧
    ((State.writeLim s n x).block k).tabs = (s.block k).tabs ∧
    ((State.writeLim s n x).block k).accs = (s.block k).accs ∧
    ((State.writeLim s n x).block k).feeds = (s.block k).feeds ∧
    ((State.writeLim s n x).block k).preds = (s.block k).preds ∧
    ((State.writeLim s n x).block k).streams = (s.block k).streams ∧
    ((State.writeLim s n x).block k).sketch = (s.block k).sketch ∧
    ((State.writeLim s n x).block k).seqq = (s.block k).seqq ∧
    ((State.writeLim s n x).block k).bars = (s.block k).bars ∧
    ((State.writeLim s n x).block k).share = (s.block k).share ∧
    ((State.writeLim s n x).block k).issued = (s.block k).issued ∧
    ((State.writeLim s n x).block k).since = (s.block k).since ∧
    ((State.writeLim s n x).block k).discarded = (s.block k).discarded := by
  first
  | (unfold State.writeLim; (try dsimp only); (repeat' split) <;> simp -implicitDefEqProofs (disch := (intros; first | (simp -implicitDefEqProofs [*]; done) | ((try dsimp only); (repeat' split) <;> (simp -implicitDefEqProofs (disch := (intros; (try dsimp only); (repeat' split) <;> (try (simp -implicitDefEqProofs [*]; done)))) [*]; done)) | skip)) [State.updBlock_at, apply_ite Block.launch, apply_ite Block.idx, apply_ite Block.st, apply_ite Block.lcore, apply_ite Block.pcore, apply_ite Block.frame, apply_ite Block.waves, apply_ite Block.pageWait, apply_ite Block.scratch, apply_ite Block.sclaims, apply_ite Block.lim, apply_ite Block.flights, apply_ite Block.tabs, apply_ite Block.accs, apply_ite Block.feeds, apply_ite Block.preds, apply_ite Block.streams, apply_ite Block.sketch, apply_ite Block.seqq, apply_ite Block.bars, apply_ite Block.share, apply_ite Block.issued, apply_ite Block.since, apply_ite Block.discarded])
  | (unfold State.writeLim; (try dsimp only); (repeat' split) <;> simp -implicitDefEqProofs (disch := (intros; first | (simp -implicitDefEqProofs [*]; done) | ((try dsimp only); (repeat' split) <;> (simp -implicitDefEqProofs (disch := (intros; (try dsimp only); (repeat' split) <;> (try (simp -implicitDefEqProofs [*]; done)))) [*]; done)) | skip)) [State.block])
@[simp] theorem State.takeTrap_keeps (s : State) (w : Nat) (sb : Bool) (t : Trap) (xpc : DWord) :
    (State.takeTrap s w sb t xpc).peerMem = s.peerMem ∧
    (State.takeTrap s w sb t xpc).regions = s.regions ∧
    (State.takeTrap s w sb t xpc).tlb = s.tlb ∧
    (State.takeTrap s w sb t xpc).shapes = s.shapes ∧
    (State.takeTrap s w sb t xpc).hostAccs = s.hostAccs ∧
    (State.takeTrap s w sb t xpc).focus = s.focus ∧
    (State.takeTrap s w sb t xpc).agenda = s.agenda := by
  (unfold State.takeTrap; (try dsimp only); (repeat' split) <;> simp -implicitDefEqProofs (disch := (intros; first | (simp -implicitDefEqProofs [*]; done) | ((try dsimp only); (repeat' split) <;> (simp -implicitDefEqProofs (disch := (intros; (try dsimp only); (repeat' split) <;> (try (simp -implicitDefEqProofs [*]; done)))) [*]; done)) | skip)) [State.wave, State.block, State.launch, State.core])
@[simp] theorem State.takeTrap_keepsL (s : State) (w : Nat) (sb : Bool) (t : Trap) (xpc : DWord) (k : Nat) :
    ((State.takeTrap s w sb t xpc).launch k).src = (s.launch k).src ∧
    ((State.takeTrap s w sb t xpc).launch k).va = (s.launch k).va ∧
    ((State.takeTrap s w sb t xpc).launch k).kdesc = (s.launch k).kdesc ∧
    ((State.takeTrap s w sb t xpc).launch k).nblk = (s.launch k).nblk ∧
    ((State.takeTrap s w sb t xpc).launch k).fom = (s.launch k).fom ∧
    ((State.takeTrap s w sb t xpc).launch k).sh = (s.launch k).sh ∧
    ((State.takeTrap s w sb t xpc).launch k).groups = (s.launch k).groups ∧
    ((State.takeTrap s w sb t xpc).launch k).ngrp = (s.launch k).ngrp ∧
    ((State.takeTrap s w sb t xpc).launch k).ctx = (s.launch k).ctx ∧
    ((State.takeTrap s w sb t xpc).launch k).frameN = (s.launch k).frameN ∧
    ((State.takeTrap s w sb t xpc).launch k).frameVa = (s.launch k).frameVa ∧
    ((State.takeTrap s w sb t xpc).launch k).statVa = (s.launch k).statVa ∧
    ((State.takeTrap s w sb t xpc).launch k).doneVa = (s.launch k).doneVa ∧
    ((State.takeTrap s w sb t xpc).launch k).doneVal = (s.launch k).doneVal ∧
    ((State.takeTrap s w sb t xpc).launch k).waves = (s.launch k).waves ∧
    ((State.takeTrap s w sb t xpc).launch k).vregs = (s.launch k).vregs ∧
    ((State.takeTrap s w sb t xpc).launch k).sregs = (s.launch k).sregs ∧
    ((State.takeTrap s w sb t xpc).launch k).accs = (s.launch k).accs ∧
    ((State.takeTrap s w sb t xpc).launch k).scr = (s.launch k).scr ∧
    ((State.takeTrap s w sb t xpc).launch k).spillD = (s.launch k).spillD ∧
    ((State.takeTrap s w sb t xpc).launch k).handler = (s.launch k).handler ∧
    ((State.takeTrap s w sb t xpc).launch k).lim = (s.launch k).lim ∧
    ((State.takeTrap s w sb t xpc).launch k).entry = (s.launch k).entry ∧
    ((State.takeTrap s w sb t xpc).launch k).next = (s.launch k).next ∧
    ((State.takeTrap s w sb t xpc).launch k).gbars = (s.launch k).gbars ∧
    ((State.takeTrap s w sb t xpc).launch k).stats = (s.launch k).stats ∧
    ((State.takeTrap s w sb t xpc).launch k).buffer = (s.launch k).buffer ∧
    ((State.takeTrap s w sb t xpc).launch k).flips = (s.launch k).flips := by
  first
  | (unfold State.takeTrap; (try dsimp only); (repeat' split) <;> simp -implicitDefEqProofs (disch := (intros; first | (simp -implicitDefEqProofs [*]; done) | ((try dsimp only); (repeat' split) <;> (simp -implicitDefEqProofs (disch := (intros; (try dsimp only); (repeat' split) <;> (try (simp -implicitDefEqProofs [*]; done)))) [*]; done)) | skip)) [State.updLaunch_at, apply_ite Launch.st, apply_ite Launch.src, apply_ite Launch.va, apply_ite Launch.kdesc, apply_ite Launch.nblk, apply_ite Launch.fom, apply_ite Launch.sh, apply_ite Launch.groups, apply_ite Launch.ngrp, apply_ite Launch.ctx, apply_ite Launch.frameN, apply_ite Launch.frameVa, apply_ite Launch.statVa, apply_ite Launch.doneVa, apply_ite Launch.doneVal, apply_ite Launch.waves, apply_ite Launch.vregs, apply_ite Launch.sregs, apply_ite Launch.accs, apply_ite Launch.scr, apply_ite Launch.spillD, apply_ite Launch.handler, apply_ite Launch.lim, apply_ite Launch.entry, apply_ite Launch.next, apply_ite Launch.live, apply_ite Launch.frames, apply_ite Launch.gbars, apply_ite Launch.stats, apply_ite Launch.buffer, apply_ite Launch.flips, apply_ite Launch.due])
  | (unfold State.takeTrap; (try dsimp only); (repeat' split) <;> simp -implicitDefEqProofs (disch := (intros; first | (simp -implicitDefEqProofs [*]; done) | ((try dsimp only); (repeat' split) <;> (simp -implicitDefEqProofs (disch := (intros; (try dsimp only); (repeat' split) <;> (try (simp -implicitDefEqProofs [*]; done)))) [*]; done)) | skip)) [State.launch])
@[simp] theorem State.takeTrap_keepsM (s : State) (w : Nat) (sb : Bool) (t : Trap) (xpc : DWord) :
    (State.takeTrap s w sb t xpc).mgmt.partid = s.mgmt.partid ∧
    (State.takeTrap s w sb t xpc).mgmt.pciid = s.mgmt.pciid ∧
    (State.takeTrap s w sb t xpc).mgmt.cfgstat = s.mgmt.cfgstat ∧
    (State.takeTrap s w sb t xpc).mgmt.bootstat = s.mgmt.bootstat ∧
    (State.takeTrap s w sb t xpc).mgmt.hostmode = s.mgmt.hostmode ∧
    (State.takeTrap s w sb t xpc).mgmt.apbase = s.mgmt.apbase ∧
    (State.takeTrap s w sb t xpc).mgmt.devnum = s.mgmt.devnum ∧
    (State.takeTrap s w sb t xpc).mgmt.flashA = s.mgmt.flashA ∧
    (State.takeTrap s w sb t xpc).mgmt.flashB = s.mgmt.flashB ∧
    (State.takeTrap s w sb t xpc).mgmt.flashTorn = s.mgmt.flashTorn ∧
    (State.takeTrap s w sb t xpc).mgmt.flashRun = s.mgmt.flashRun ∧
    (State.takeTrap s w sb t xpc).mgmt.fladdr = s.mgmt.fladdr ∧
    (State.takeTrap s w sb t xpc).mgmt.flcmd = s.mgmt.flcmd ∧
    (State.takeTrap s w sb t xpc).mgmt.fldata = s.mgmt.fldata ∧
    (State.takeTrap s w sb t xpc).mgmt.remap = s.mgmt.remap ∧
    (State.takeTrap s w sb t xpc).mgmt.failed = s.mgmt.failed ∧
    (State.takeTrap s w sb t xpc).mgmt.spareCluster = s.mgmt.spareCluster ∧
    (State.takeTrap s w sb t xpc).mgmt.unplaced = s.mgmt.unplaced ∧
    (State.takeTrap s w sb t xpc).mgmt.former = s.mgmt.former ∧
    (State.takeTrap s w sb t xpc).mgmt.parkAtReset = s.mgmt.parkAtReset ∧
    (State.takeTrap s w sb t xpc).mgmt.spareLanes = s.mgmt.spareLanes ∧
    (State.takeTrap s w sb t xpc).mgmt.sliceq = s.mgmt.sliceq ∧
    (State.takeTrap s w sb t xpc).mgmt.lq = s.mgmt.lq ∧
    (State.takeTrap s w sb t xpc).mgmt.lauq = s.mgmt.lauq ∧
    (State.takeTrap s w sb t xpc).mgmt.rr = s.mgmt.rr ∧
    (State.takeTrap s w sb t xpc).mgmt.pwrceil = s.mgmt.pwrceil ∧
    (State.takeTrap s w sb t xpc).mgmt.pstlim = s.mgmt.pstlim ∧
    (State.takeTrap s w sb t xpc).mgmt.pwrstat = s.mgmt.pwrstat ∧
    (State.takeTrap s w sb t xpc).mgmt.pGoal = s.mgmt.pGoal ∧
    (State.takeTrap s w sb t xpc).mgmt.mGoal = s.mgmt.mGoal ∧
    (State.takeTrap s w sb t xpc).mgmt.pNext = s.mgmt.pNext ∧
    (State.takeTrap s w sb t xpc).mgmt.mNext = s.mgmt.mNext ∧
    (State.takeTrap s w sb t xpc).mgmt.diepark = s.mgmt.diepark ∧
    (State.takeTrap s w sb t xpc).mgmt.dieWait = s.mgmt.dieWait ∧
    (State.takeTrap s w sb t xpc).mgmt.ensave = s.mgmt.ensave ∧
    (State.takeTrap s w sb t xpc).mgmt.ewt = s.mgmt.ewt ∧
    (State.takeTrap s w sb t xpc).mgmt.stw = s.mgmt.stw ∧
    (State.takeTrap s w sb t xpc).mgmt.hlth = s.mgmt.hlth ∧
    (State.takeTrap s w sb t xpc).mgmt.age = s.mgmt.age ∧
    (State.takeTrap s w sb t xpc).mgmt.memh = s.mgmt.memh ∧
    (State.takeTrap s w sb t xpc).mgmt.linkh = s.mgmt.linkh ∧
    (State.takeTrap s w sb t xpc).mgmt.samples = s.mgmt.samples ∧
    (State.takeTrap s w sb t xpc).mgmt.ckpt0 = s.mgmt.ckpt0 ∧
    (State.takeTrap s w sb t xpc).mgmt.ckpt1 = s.mgmt.ckpt1 ∧
    (State.takeTrap s w sb t xpc).mgmt.ckpt2 = s.mgmt.ckpt2 ∧
    (State.takeTrap s w sb t xpc).mgmt.ckptGood = s.mgmt.ckptGood ∧
    (State.takeTrap s w sb t xpc).mgmt.ckptBlocks = s.mgmt.ckptBlocks ∧
    (State.takeTrap s w sb t xpc).mgmt.ctxs = s.mgmt.ctxs ∧
    (State.takeTrap s w sb t xpc).mgmt.pfbase = s.mgmt.pfbase ∧
    (State.takeTrap s w sb t xpc).mgmt.pfhead = s.mgmt.pfhead ∧
    (State.takeTrap s w sb t xpc).mgmt.pftail = s.mgmt.pftail ∧
    (State.takeTrap s w sb t xpc).mgmt.faults = s.mgmt.faults ∧
    (State.takeTrap s w sb t xpc).mgmt.tlbinv = s.mgmt.tlbinv ∧
    (State.takeTrap s w sb t xpc).mgmt.tlbinvn = s.mgmt.tlbinvn ∧
    (State.takeTrap s w sb t xpc).mgmt.ranges = s.mgmt.ranges ∧
    (State.takeTrap s w sb t xpc).mgmt.biascmd = s.mgmt.biascmd ∧
    (State.takeTrap s w sb t xpc).mgmt.flips = s.mgmt.flips ∧
    (State.takeTrap s w sb t xpc).mgmt.flipWait = s.mgmt.flipWait ∧
    (State.takeTrap s w sb t xpc).mgmt.peerasid = s.mgmt.peerasid ∧
    (State.takeTrap s w sb t xpc).mgmt.atsel = s.mgmt.atsel ∧
    (State.takeTrap s w sb t xpc).mgmt.atwin = s.mgmt.atwin ∧
    (State.takeTrap s w sb t xpc).mgmt.atcommit = s.mgmt.atcommit ∧
    (State.takeTrap s w sb t xpc).mgmt.ats = s.mgmt.ats ∧
    (State.takeTrap s w sb t xpc).mgmt.colldom = s.mgmt.colldom ∧
    (State.takeTrap s w sb t xpc).mgmt.collinj = s.mgmt.collinj ∧
    (State.takeTrap s w sb t xpc).mgmt.reply = s.mgmt.reply := by
  (unfold State.takeTrap; (try dsimp only); (repeat' split) <;> simp -implicitDefEqProofs (disch := (intros; first | (simp -implicitDefEqProofs [*]; done) | ((try dsimp only); (repeat' split) <;> (simp -implicitDefEqProofs (disch := (intros; (try dsimp only); (repeat' split) <;> (try (simp -implicitDefEqProofs [*]; done)))) [*]; done)) | skip)) [State.updMgmt])

@[simp] theorem State.writeLanes_keeps (s : State) (et : Nat) (r : Nat) (lanes : Mask) (val : Nat → Nat) (guess : Mask) :
    (State.writeLanes s et r lanes val guess).blocks = s.blocks ∧
    (State.writeLanes s et r lanes val guess).launches = s.launches ∧
    (State.writeLanes s et r lanes val guess).cores = s.cores ∧
    (State.writeLanes s et r lanes val guess).mem = s.mem ∧
    (State.writeLanes s et r lanes val guess).array = s.array ∧
    (State.writeLanes s et r lanes val guess).hostMem = s.hostMem ∧
    (State.writeLanes s et r lanes val guess).peerMem = s.peerMem ∧
    (State.writeLanes s et r lanes val guess).registrant = s.registrant ∧
    (State.writeLanes s et r lanes val guess).claims = s.claims ∧
    (State.writeLanes s et r lanes val guess).cells = s.cells ∧
    (State.writeLanes s et r lanes val guess).regions = s.regions ∧
    (State.writeLanes s et r lanes val guess).rdc = s.rdc ∧
    (State.writeLanes s et r lanes val guess).l2 = s.l2 ∧
    (State.writeLanes s et r lanes val guess).msc = s.msc ∧
    (State.writeLanes s et r lanes val guess).hbms = s.hbms ∧
    (State.writeLanes s et r lanes val guess).bad = s.bad ∧
    (State.writeLanes s et r lanes val guess).weak = s.weak ∧
    (State.writeLanes s et r lanes val guess).lost = s.lost ∧
    (State.writeLanes s et r lanes val guess).tlb = s.tlb ∧
    (State.writeLanes s et r lanes val guess).net = s.net ∧
    (State.writeLanes s et r lanes val guess).abufs = s.abufs ∧
    (State.writeLanes s et r lanes val guess).jobs = s.jobs ∧
    (State.writeLanes s et r lanes val guess).feet = s.feet ∧
    (State.writeLanes s et r lanes val guess).shapes = s.shapes ∧
    (State.writeLanes s et r lanes val guess).eqs = s.eqs ∧
    (State.writeLanes s et r lanes val guess).insts = s.insts ∧
    (State.writeLanes s et r lanes val guess).links = s.links ∧
    (State.writeLanes s et r lanes val guess).hostAccs = s.hostAccs ∧
    (State.writeLanes s et r lanes val guess).hostLines = s.hostLines ∧
    (State.writeLanes s et r lanes val guess).mgmt = s.mgmt ∧
    (State.writeLanes s et r lanes val guess).focus = s.focus ∧
    (State.writeLanes s et r lanes val guess).agenda = s.agenda ∧
    (State.writeLanes s et r lanes val guess).seq = s.seq ∧
    (∀ k, (State.writeLanes s et r lanes val guess).block k = s.block k) ∧
    (∀ k, (State.writeLanes s et r lanes val guess).launch k = s.launch k) ∧
    (∀ k, (State.writeLanes s et r lanes val guess).core k = s.core k) := by
  (unfold State.writeLanes; (try dsimp only); (repeat' split) <;> simp -implicitDefEqProofs (disch := (intros; first | (simp -implicitDefEqProofs [*]; done) | ((try dsimp only); (repeat' split) <;> (simp -implicitDefEqProofs (disch := (intros; (try dsimp only); (repeat' split) <;> (try (simp -implicitDefEqProofs [*]; done)))) [*]; done)) | skip)) [State.wave, State.block, State.launch, State.core])
@[simp] theorem State.writeLanes_keepsW (s : State) (et : Nat) (r : Nat) (lanes : Mask) (val : Nat → Nat) (guess : Mask) (k : Nat) :
    ((State.writeLanes s et r lanes val guess).wave k).block = (s.wave k).block ∧
    ((State.writeLanes s et r lanes val guess).wave k).idx = (s.wave k).idx ∧
    ((State.writeLanes s et r lanes val guess).wave k).exited = (s.wave k).exited ∧
    ((State.writeLanes s et r lanes val guess).wave k).launchMask = (s.wave k).launchMask ∧
    ((State.writeLanes s et r lanes val guess).wave k).pad = (s.wave k).pad ∧
    ((State.writeLanes s et r lanes val guess).wave k).sregs = (s.wave k).sregs ∧
    ((State.writeLanes s et r lanes val guess).wave k).pregs = (s.wave k).pregs ∧
    ((State.writeLanes s et r lanes val guess).wave k).lastB = (s.wave k).lastB ∧
    ((State.writeLanes s et r lanes val guess).wave k).spill = (s.wave k).spill ∧
    ((State.writeLanes s et r lanes val guess).wave k).handler = (s.wave k).handler ∧
    ((State.writeLanes s et r lanes val guess).wave k).xpc = (s.wave k).xpc ∧
    ((State.writeLanes s et r lanes val guess).wave k).xmode = (s.wave k).xmode ∧
    ((State.writeLanes s et r lanes val guess).wave k).xcause = (s.wave k).xcause ∧
    ((State.writeLanes s et r lanes val guess).wave k).xlanes = (s.wave k).xlanes ∧
    ((State.writeLanes s et r lanes val guess).wave k).xaddr = (s.wave k).xaddr ∧
    ((State.writeLanes s et r lanes val guess).wave k).gexposed = (s.wave k).gexposed ∧
    ((State.writeLanes s et r lanes val guess).wave k).epoch = (s.wave k).epoch ∧
    ((State.writeLanes s et r lanes val guess).wave k).sfr = (s.wave k).sfr ∧
    ((State.writeLanes s et r lanes val guess).wave k).arrived = (s.wave k).arrived ∧
    ((State.writeLanes s et r lanes val guess).wave k).pend = (s.wave k).pend ∧
    ((State.writeLanes s et r lanes val guess).wave k).lost = (s.wave k).lost ∧
    ((State.writeLanes s et r lanes val guess).wave k).since = (s.wave k).since ∧
    ((State.writeLanes s et r lanes val guess).wave k).jobs = (s.wave k).jobs ∧
    ((State.writeLanes s et r lanes val guess).wave k).left = (s.wave k).left := by
  first
  | (unfold State.writeLanes; (try dsimp only); (repeat' split) <;> simp -implicitDefEqProofs (disch := (intros; first | (simp -implicitDefEqProofs [*]; done) | ((try dsimp only); (repeat' split) <;> (simp -implicitDefEqProofs (disch := (intros; (try dsimp only); (repeat' split) <;> (try (simp -implicitDefEqProofs [*]; done)))) [*]; done)) | skip)) [State.updWave_at, apply_ite Wave.block, apply_ite Wave.idx, apply_ite Wave.exited, apply_ite Wave.launchMask, apply_ite Wave.pad, apply_ite Wave.sregs, apply_ite Wave.vregs, apply_ite Wave.pregs, apply_ite Wave.slotA, apply_ite Wave.slotB, apply_ite Wave.lastB, apply_ite Wave.spill, apply_ite Wave.handler, apply_ite Wave.xpc, apply_ite Wave.xmode, apply_ite Wave.xcause, apply_ite Wave.xlanes, apply_ite Wave.xaddr, apply_ite Wave.gexposed, apply_ite Wave.mm, apply_ite Wave.epoch, apply_ite Wave.tags, apply_ite Wave.sfr, apply_ite Wave.arrived, apply_ite Wave.region, apply_ite Wave.pend, apply_ite Wave.lost, apply_ite Wave.since, apply_ite Wave.jobs, apply_ite Wave.left])
  | (unfold State.writeLanes; (try dsimp only); (repeat' split) <;> simp -implicitDefEqProofs (disch := (intros; first | (simp -implicitDefEqProofs [*]; done) | ((try dsimp only); (repeat' split) <;> (simp -implicitDefEqProofs (disch := (intros; (try dsimp only); (repeat' split) <;> (try (simp -implicitDefEqProofs [*]; done)))) [*]; done)) | skip)) [State.wave])

@[simp] theorem State.addStats_keeps (s : State) (l : Nat) (tid : Nat) (c : Counts) :
    (State.addStats s l tid c).waves = s.waves ∧
    (State.addStats s l tid c).blocks = s.blocks ∧
    (State.addStats s l tid c).cores = s.cores ∧
    (State.addStats s l tid c).mem = s.mem ∧
    (State.addStats s l tid c).array = s.array ∧
    (State.addStats s l tid c).hostMem = s.hostMem ∧
    (State.addStats s l tid c).peerMem = s.peerMem ∧
    (State.addStats s l tid c).registrant = s.registrant ∧
    (State.addStats s l tid c).claims = s.claims ∧
    (State.addStats s l tid c).cells = s.cells ∧
    (State.addStats s l tid c).regions = s.regions ∧
    (State.addStats s l tid c).rdc = s.rdc ∧
    (State.addStats s l tid c).l2 = s.l2 ∧
    (State.addStats s l tid c).msc = s.msc ∧
    (State.addStats s l tid c).hbms = s.hbms ∧
    (State.addStats s l tid c).bad = s.bad ∧
    (State.addStats s l tid c).weak = s.weak ∧
    (State.addStats s l tid c).lost = s.lost ∧
    (State.addStats s l tid c).tlb = s.tlb ∧
    (State.addStats s l tid c).accs = s.accs ∧
    (State.addStats s l tid c).net = s.net ∧
    (State.addStats s l tid c).abufs = s.abufs ∧
    (State.addStats s l tid c).jobs = s.jobs ∧
    (State.addStats s l tid c).feet = s.feet ∧
    (State.addStats s l tid c).shapes = s.shapes ∧
    (State.addStats s l tid c).eqs = s.eqs ∧
    (State.addStats s l tid c).insts = s.insts ∧
    (State.addStats s l tid c).links = s.links ∧
    (State.addStats s l tid c).hostAccs = s.hostAccs ∧
    (State.addStats s l tid c).hostLines = s.hostLines ∧
    (State.addStats s l tid c).mgmt = s.mgmt ∧
    (State.addStats s l tid c).focus = s.focus ∧
    (State.addStats s l tid c).agenda = s.agenda ∧
    (State.addStats s l tid c).seq = s.seq ∧
    (∀ k, (State.addStats s l tid c).wave k = s.wave k) ∧
    (∀ k, (State.addStats s l tid c).block k = s.block k) ∧
    (∀ k, (State.addStats s l tid c).core k = s.core k) := by
  (unfold State.addStats; (try dsimp only); (repeat' split) <;> simp -implicitDefEqProofs (disch := (intros; first | (simp -implicitDefEqProofs [*]; done) | ((try dsimp only); (repeat' split) <;> (simp -implicitDefEqProofs (disch := (intros; (try dsimp only); (repeat' split) <;> (try (simp -implicitDefEqProofs [*]; done)))) [*]; done)) | skip)) [State.wave, State.block, State.launch, State.core])
@[simp] theorem State.addStats_keepsL (s : State) (l : Nat) (tid : Nat) (c : Counts) (k : Nat) :
    ((State.addStats s l tid c).launch k).st = (s.launch k).st ∧
    ((State.addStats s l tid c).launch k).src = (s.launch k).src ∧
    ((State.addStats s l tid c).launch k).va = (s.launch k).va ∧
    ((State.addStats s l tid c).launch k).kdesc = (s.launch k).kdesc ∧
    ((State.addStats s l tid c).launch k).nblk = (s.launch k).nblk ∧
    ((State.addStats s l tid c).launch k).fom = (s.launch k).fom ∧
    ((State.addStats s l tid c).launch k).sh = (s.launch k).sh ∧
    ((State.addStats s l tid c).launch k).groups = (s.launch k).groups ∧
    ((State.addStats s l tid c).launch k).ngrp = (s.launch k).ngrp ∧
    ((State.addStats s l tid c).launch k).ctx = (s.launch k).ctx ∧
    ((State.addStats s l tid c).launch k).frameN = (s.launch k).frameN ∧
    ((State.addStats s l tid c).launch k).frameVa = (s.launch k).frameVa ∧
    ((State.addStats s l tid c).launch k).statVa = (s.launch k).statVa ∧
    ((State.addStats s l tid c).launch k).doneVa = (s.launch k).doneVa ∧
    ((State.addStats s l tid c).launch k).doneVal = (s.launch k).doneVal ∧
    ((State.addStats s l tid c).launch k).waves = (s.launch k).waves ∧
    ((State.addStats s l tid c).launch k).vregs = (s.launch k).vregs ∧
    ((State.addStats s l tid c).launch k).sregs = (s.launch k).sregs ∧
    ((State.addStats s l tid c).launch k).accs = (s.launch k).accs ∧
    ((State.addStats s l tid c).launch k).scr = (s.launch k).scr ∧
    ((State.addStats s l tid c).launch k).spillD = (s.launch k).spillD ∧
    ((State.addStats s l tid c).launch k).handler = (s.launch k).handler ∧
    ((State.addStats s l tid c).launch k).lim = (s.launch k).lim ∧
    ((State.addStats s l tid c).launch k).entry = (s.launch k).entry ∧
    ((State.addStats s l tid c).launch k).next = (s.launch k).next ∧
    ((State.addStats s l tid c).launch k).live = (s.launch k).live ∧
    ((State.addStats s l tid c).launch k).frames = (s.launch k).frames ∧
    ((State.addStats s l tid c).launch k).gbars = (s.launch k).gbars ∧
    ((State.addStats s l tid c).launch k).buffer = (s.launch k).buffer ∧
    ((State.addStats s l tid c).launch k).flips = (s.launch k).flips ∧
    ((State.addStats s l tid c).launch k).due = (s.launch k).due := by
  first
  | (unfold State.addStats; (try dsimp only); (repeat' split) <;> simp -implicitDefEqProofs (disch := (intros; first | (simp -implicitDefEqProofs [*]; done) | ((try dsimp only); (repeat' split) <;> (simp -implicitDefEqProofs (disch := (intros; (try dsimp only); (repeat' split) <;> (try (simp -implicitDefEqProofs [*]; done)))) [*]; done)) | skip)) [State.updLaunch_at, apply_ite Launch.st, apply_ite Launch.src, apply_ite Launch.va, apply_ite Launch.kdesc, apply_ite Launch.nblk, apply_ite Launch.fom, apply_ite Launch.sh, apply_ite Launch.groups, apply_ite Launch.ngrp, apply_ite Launch.ctx, apply_ite Launch.frameN, apply_ite Launch.frameVa, apply_ite Launch.statVa, apply_ite Launch.doneVa, apply_ite Launch.doneVal, apply_ite Launch.waves, apply_ite Launch.vregs, apply_ite Launch.sregs, apply_ite Launch.accs, apply_ite Launch.scr, apply_ite Launch.spillD, apply_ite Launch.handler, apply_ite Launch.lim, apply_ite Launch.entry, apply_ite Launch.next, apply_ite Launch.live, apply_ite Launch.frames, apply_ite Launch.gbars, apply_ite Launch.stats, apply_ite Launch.buffer, apply_ite Launch.flips, apply_ite Launch.due])
  | (unfold State.addStats; (try dsimp only); (repeat' split) <;> simp -implicitDefEqProofs (disch := (intros; first | (simp -implicitDefEqProofs [*]; done) | ((try dsimp only); (repeat' split) <;> (simp -implicitDefEqProofs (disch := (intros; (try dsimp only); (repeat' split) <;> (try (simp -implicitDefEqProofs [*]; done)))) [*]; done)) | skip)) [State.launch])
@[simp] theorem State.count_keeps (s : State) (f : Nat → Counts) :
    (State.count s f).waves = s.waves ∧
    (State.count s f).blocks = s.blocks ∧
    (State.count s f).cores = s.cores ∧
    (State.count s f).mem = s.mem ∧
    (State.count s f).array = s.array ∧
    (State.count s f).hostMem = s.hostMem ∧
    (State.count s f).peerMem = s.peerMem ∧
    (State.count s f).registrant = s.registrant ∧
    (State.count s f).claims = s.claims ∧
    (State.count s f).cells = s.cells ∧
    (State.count s f).regions = s.regions ∧
    (State.count s f).rdc = s.rdc ∧
    (State.count s f).l2 = s.l2 ∧
    (State.count s f).msc = s.msc ∧
    (State.count s f).hbms = s.hbms ∧
    (State.count s f).bad = s.bad ∧
    (State.count s f).weak = s.weak ∧
    (State.count s f).lost = s.lost ∧
    (State.count s f).tlb = s.tlb ∧
    (State.count s f).accs = s.accs ∧
    (State.count s f).net = s.net ∧
    (State.count s f).abufs = s.abufs ∧
    (State.count s f).jobs = s.jobs ∧
    (State.count s f).feet = s.feet ∧
    (State.count s f).shapes = s.shapes ∧
    (State.count s f).eqs = s.eqs ∧
    (State.count s f).insts = s.insts ∧
    (State.count s f).links = s.links ∧
    (State.count s f).hostAccs = s.hostAccs ∧
    (State.count s f).hostLines = s.hostLines ∧
    (State.count s f).mgmt = s.mgmt ∧
    (State.count s f).focus = s.focus ∧
    (State.count s f).agenda = s.agenda ∧
    (State.count s f).seq = s.seq ∧
    (∀ k, (State.count s f).wave k = s.wave k) ∧
    (∀ k, (State.count s f).block k = s.block k) ∧
    (∀ k, (State.count s f).core k = s.core k) := by
  (unfold State.count; (try dsimp only); (repeat' split) <;> simp -implicitDefEqProofs (disch := (intros; first | (simp -implicitDefEqProofs [*]; done) | ((try dsimp only); (repeat' split) <;> (simp -implicitDefEqProofs (disch := (intros; (try dsimp only); (repeat' split) <;> (try (simp -implicitDefEqProofs [*]; done)))) [*]; done)) | skip)) [State.wave, State.block, State.launch, State.core])
@[simp] theorem State.count_keepsL (s : State) (f : Nat → Counts) (k : Nat) :
    ((State.count s f).launch k).st = (s.launch k).st ∧
    ((State.count s f).launch k).src = (s.launch k).src ∧
    ((State.count s f).launch k).va = (s.launch k).va ∧
    ((State.count s f).launch k).kdesc = (s.launch k).kdesc ∧
    ((State.count s f).launch k).nblk = (s.launch k).nblk ∧
    ((State.count s f).launch k).fom = (s.launch k).fom ∧
    ((State.count s f).launch k).sh = (s.launch k).sh ∧
    ((State.count s f).launch k).groups = (s.launch k).groups ∧
    ((State.count s f).launch k).ngrp = (s.launch k).ngrp ∧
    ((State.count s f).launch k).ctx = (s.launch k).ctx ∧
    ((State.count s f).launch k).frameN = (s.launch k).frameN ∧
    ((State.count s f).launch k).frameVa = (s.launch k).frameVa ∧
    ((State.count s f).launch k).statVa = (s.launch k).statVa ∧
    ((State.count s f).launch k).doneVa = (s.launch k).doneVa ∧
    ((State.count s f).launch k).doneVal = (s.launch k).doneVal ∧
    ((State.count s f).launch k).waves = (s.launch k).waves ∧
    ((State.count s f).launch k).vregs = (s.launch k).vregs ∧
    ((State.count s f).launch k).sregs = (s.launch k).sregs ∧
    ((State.count s f).launch k).accs = (s.launch k).accs ∧
    ((State.count s f).launch k).scr = (s.launch k).scr ∧
    ((State.count s f).launch k).spillD = (s.launch k).spillD ∧
    ((State.count s f).launch k).handler = (s.launch k).handler ∧
    ((State.count s f).launch k).lim = (s.launch k).lim ∧
    ((State.count s f).launch k).entry = (s.launch k).entry ∧
    ((State.count s f).launch k).next = (s.launch k).next ∧
    ((State.count s f).launch k).live = (s.launch k).live ∧
    ((State.count s f).launch k).frames = (s.launch k).frames ∧
    ((State.count s f).launch k).gbars = (s.launch k).gbars ∧
    ((State.count s f).launch k).buffer = (s.launch k).buffer ∧
    ((State.count s f).launch k).flips = (s.launch k).flips ∧
    ((State.count s f).launch k).due = (s.launch k).due := by
  first
  | (unfold State.count; (try dsimp only); (repeat' split) <;> simp -implicitDefEqProofs (disch := (intros; first | (simp -implicitDefEqProofs [*]; done) | ((try dsimp only); (repeat' split) <;> (simp -implicitDefEqProofs (disch := (intros; (try dsimp only); (repeat' split) <;> (try (simp -implicitDefEqProofs [*]; done)))) [*]; done)) | skip)) [State.updLaunch_at, apply_ite Launch.st, apply_ite Launch.src, apply_ite Launch.va, apply_ite Launch.kdesc, apply_ite Launch.nblk, apply_ite Launch.fom, apply_ite Launch.sh, apply_ite Launch.groups, apply_ite Launch.ngrp, apply_ite Launch.ctx, apply_ite Launch.frameN, apply_ite Launch.frameVa, apply_ite Launch.statVa, apply_ite Launch.doneVa, apply_ite Launch.doneVal, apply_ite Launch.waves, apply_ite Launch.vregs, apply_ite Launch.sregs, apply_ite Launch.accs, apply_ite Launch.scr, apply_ite Launch.spillD, apply_ite Launch.handler, apply_ite Launch.lim, apply_ite Launch.entry, apply_ite Launch.next, apply_ite Launch.live, apply_ite Launch.frames, apply_ite Launch.gbars, apply_ite Launch.stats, apply_ite Launch.buffer, apply_ite Launch.flips, apply_ite Launch.due])
  | (unfold State.count; (try dsimp only); (repeat' split) <;> simp -implicitDefEqProofs (disch := (intros; first | (simp -implicitDefEqProofs [*]; done) | ((try dsimp only); (repeat' split) <;> (simp -implicitDefEqProofs (disch := (intros; (try dsimp only); (repeat' split) <;> (try (simp -implicitDefEqProofs [*]; done)))) [*]; done)) | skip)) [State.launch])
end Sys2Proof.Machine
end

