-- ==== Sys2Proof/Laws/KeepsIssue.lean ====
section
/-! SUPPORT. What issuing an access and writing its results leave unchanged. One lemma per operation, over the fields of State; a field that is not named may change. -/

set_option linter.unusedSimpArgs false

namespace Sys2Proof.Machine
open Sys2Proof
@[simp] theorem State.lookups_keeps (s : State) (vas : List DWord) :
    (State.lookups s vas).waves = s.waves ∧
    (State.lookups s vas).blocks = s.blocks ∧
    (State.lookups s vas).launches = s.launches ∧
    (State.lookups s vas).cores = s.cores ∧
    (State.lookups s vas).mem = s.mem ∧
    (State.lookups s vas).array = s.array ∧
    (State.lookups s vas).hostMem = s.hostMem ∧
    (State.lookups s vas).peerMem = s.peerMem ∧
    (State.lookups s vas).registrant = s.registrant ∧
    (State.lookups s vas).claims = s.claims ∧
    (State.lookups s vas).cells = s.cells ∧
    (State.lookups s vas).regions = s.regions ∧
    (State.lookups s vas).rdc = s.rdc ∧
    (State.lookups s vas).l2 = s.l2 ∧
    (State.lookups s vas).msc = s.msc ∧
    (State.lookups s vas).hbms = s.hbms ∧
    (State.lookups s vas).bad = s.bad ∧
    (State.lookups s vas).weak = s.weak ∧
    (State.lookups s vas).lost = s.lost ∧
    (State.lookups s vas).accs = s.accs ∧
    (State.lookups s vas).net = s.net ∧
    (State.lookups s vas).abufs = s.abufs ∧
    (State.lookups s vas).jobs = s.jobs ∧
    (State.lookups s vas).feet = s.feet ∧
    (State.lookups s vas).shapes = s.shapes ∧
    (State.lookups s vas).eqs = s.eqs ∧
    (State.lookups s vas).insts = s.insts ∧
    (State.lookups s vas).links = s.links ∧
    (State.lookups s vas).hostAccs = s.hostAccs ∧
    (State.lookups s vas).hostLines = s.hostLines ∧
    (State.lookups s vas).mgmt = s.mgmt ∧
    (State.lookups s vas).focus = s.focus ∧
    (State.lookups s vas).agenda = s.agenda ∧
    (State.lookups s vas).seq = s.seq ∧
    (∀ k, (State.lookups s vas).wave k = s.wave k) ∧
    (∀ k, (State.lookups s vas).block k = s.block k) ∧
    (∀ k, (State.lookups s vas).launch k = s.launch k) ∧
    (∀ k, (State.lookups s vas).core k = s.core k) := by
  (unfold State.lookups; (try dsimp only); (repeat' split) <;> simp -implicitDefEqProofs (disch := (intros; first | (simp -implicitDefEqProofs [*]; done) | ((try dsimp only); (repeat' split) <;> (simp -implicitDefEqProofs (disch := (intros; (try dsimp only); (repeat' split) <;> (try (simp -implicitDefEqProofs [*]; done)))) [*]; done)) | skip)) [State.wave, State.block, State.launch, State.core])
@[simp] theorem State.l1Room_keeps (s : State) (core : Nat) (asid : Nat) (va : DWord) (pa : Nat) :
    (State.l1Room s core asid va pa).waves = s.waves ∧
    (State.l1Room s core asid va pa).blocks = s.blocks ∧
    (State.l1Room s core asid va pa).launches = s.launches ∧
    (State.l1Room s core asid va pa).hostMem = s.hostMem ∧
    (State.l1Room s core asid va pa).peerMem = s.peerMem ∧
    (State.l1Room s core asid va pa).claims = s.claims ∧
    (State.l1Room s core asid va pa).regions = s.regions ∧
    (State.l1Room s core asid va pa).rdc = s.rdc ∧
    (State.l1Room s core asid va pa).tlb = s.tlb ∧
    (State.l1Room s core asid va pa).accs = s.accs ∧
    (State.l1Room s core asid va pa).net = s.net ∧
    (State.l1Room s core asid va pa).abufs = s.abufs ∧
    (State.l1Room s core asid va pa).jobs = s.jobs ∧
    (State.l1Room s core asid va pa).feet = s.feet ∧
    (State.l1Room s core asid va pa).shapes = s.shapes ∧
    (State.l1Room s core asid va pa).eqs = s.eqs ∧
    (State.l1Room s core asid va pa).insts = s.insts ∧
    (State.l1Room s core asid va pa).links = s.links ∧
    (State.l1Room s core asid va pa).hostAccs = s.hostAccs ∧
    (State.l1Room s core asid va pa).mgmt = s.mgmt ∧
    (State.l1Room s core asid va pa).focus = s.focus ∧
    (State.l1Room s core asid va pa).agenda = s.agenda ∧
    (∀ k, (State.l1Room s core asid va pa).wave k = s.wave k) ∧
    (∀ k, (State.l1Room s core asid va pa).block k = s.block k) ∧
    (∀ k, (State.l1Room s core asid va pa).launch k = s.launch k) := by
  (unfold State.l1Room; (try dsimp only); (repeat' split) <;> simp -implicitDefEqProofs (disch := (intros; first | (simp -implicitDefEqProofs [*]; done) | ((try dsimp only); (repeat' split) <;> (simp -implicitDefEqProofs (disch := (intros; (try dsimp only); (repeat' split) <;> (try (simp -implicitDefEqProofs [*]; done)))) [*]; done)) | skip)) [State.wave, State.block, State.launch, State.core])
@[simp] theorem State.l1Fill_keeps (s : State) (core : Nat) (asid : Nat) (va : DWord) (pa : Nat) (streaming : Bool) (ws : List (Nat × L1Word)) :
    (State.l1Fill s core asid va pa streaming ws).waves = s.waves ∧
    (State.l1Fill s core asid va pa streaming ws).blocks = s.blocks ∧
    (State.l1Fill s core asid va pa streaming ws).launches = s.launches ∧
    (State.l1Fill s core asid va pa streaming ws).hostMem = s.hostMem ∧
    (State.l1Fill s core asid va pa streaming ws).peerMem = s.peerMem ∧
    (State.l1Fill s core asid va pa streaming ws).claims = s.claims ∧
    (State.l1Fill s core asid va pa streaming ws).regions = s.regions ∧
    (State.l1Fill s core asid va pa streaming ws).rdc = s.rdc ∧
    (State.l1Fill s core asid va pa streaming ws).tlb = s.tlb ∧
    (State.l1Fill s core asid va pa streaming ws).accs = s.accs ∧
    (State.l1Fill s core asid va pa streaming ws).net = s.net ∧
    (State.l1Fill s core asid va pa streaming ws).abufs = s.abufs ∧
    (State.l1Fill s core asid va pa streaming ws).jobs = s.jobs ∧
    (State.l1Fill s core asid va pa streaming ws).feet = s.feet ∧
    (State.l1Fill s core asid va pa streaming ws).shapes = s.shapes ∧
    (State.l1Fill s core asid va pa streaming ws).eqs = s.eqs ∧
    (State.l1Fill s core asid va pa streaming ws).insts = s.insts ∧
    (State.l1Fill s core asid va pa streaming ws).links = s.links ∧
    (State.l1Fill s core asid va pa streaming ws).hostAccs = s.hostAccs ∧
    (State.l1Fill s core asid va pa streaming ws).mgmt = s.mgmt ∧
    (State.l1Fill s core asid va pa streaming ws).focus = s.focus ∧
    (State.l1Fill s core asid va pa streaming ws).agenda = s.agenda ∧
    (∀ k, (State.l1Fill s core asid va pa streaming ws).wave k = s.wave k) ∧
    (∀ k, (State.l1Fill s core asid va pa streaming ws).block k = s.block k) ∧
    (∀ k, (State.l1Fill s core asid va pa streaming ws).launch k = s.launch k) := by
  (unfold State.l1Fill; (try dsimp only); (repeat' split) <;> simp -implicitDefEqProofs (disch := (intros; first | (simp -implicitDefEqProofs [*]; done) | ((try dsimp only); (repeat' split) <;> (simp -implicitDefEqProofs (disch := (intros; (try dsimp only); (repeat' split) <;> (try (simp -implicitDefEqProofs [*]; done)))) [*]; done)) | skip)) [State.wave, State.block, State.launch, State.core])
@[simp] theorem State.fillRead_keeps (s : State) (x : Acc) (p : Piece) :
    (State.fillRead s x p).waves = s.waves ∧
    (State.fillRead s x p).blocks = s.blocks ∧
    (State.fillRead s x p).launches = s.launches ∧
    (State.fillRead s x p).hostMem = s.hostMem ∧
    (State.fillRead s x p).peerMem = s.peerMem ∧
    (State.fillRead s x p).claims = s.claims ∧
    (State.fillRead s x p).regions = s.regions ∧
    (State.fillRead s x p).rdc = s.rdc ∧
    (State.fillRead s x p).tlb = s.tlb ∧
    (State.fillRead s x p).accs = s.accs ∧
    (State.fillRead s x p).net = s.net ∧
    (State.fillRead s x p).abufs = s.abufs ∧
    (State.fillRead s x p).jobs = s.jobs ∧
    (State.fillRead s x p).feet = s.feet ∧
    (State.fillRead s x p).shapes = s.shapes ∧
    (State.fillRead s x p).eqs = s.eqs ∧
    (State.fillRead s x p).insts = s.insts ∧
    (State.fillRead s x p).links = s.links ∧
    (State.fillRead s x p).hostAccs = s.hostAccs ∧
    (State.fillRead s x p).mgmt = s.mgmt ∧
    (State.fillRead s x p).focus = s.focus ∧
    (State.fillRead s x p).agenda = s.agenda ∧
    (∀ k, (State.fillRead s x p).wave k = s.wave k) ∧
    (∀ k, (State.fillRead s x p).block k = s.block k) ∧
    (∀ k, (State.fillRead s x p).launch k = s.launch k) := by
  (unfold State.fillRead; (try dsimp only); (repeat' split) <;> simp -implicitDefEqProofs (disch := (intros; first | (simp -implicitDefEqProofs [*]; done) | ((try dsimp only); (repeat' split) <;> (simp -implicitDefEqProofs (disch := (intros; (try dsimp only); (repeat' split) <;> (try (simp -implicitDefEqProofs [*]; done)))) [*]; done)) | skip)) [State.wave, State.block, State.launch, State.core])
@[simp] theorem State.dropRegion_keeps (s : State) (e : RegionEnt) (dies : BitVec 4) :
    (State.dropRegion s e dies).waves = s.waves ∧
    (State.dropRegion s e dies).blocks = s.blocks ∧
    (State.dropRegion s e dies).launches = s.launches ∧
    (State.dropRegion s e dies).cores = s.cores ∧
    (State.dropRegion s e dies).mem = s.mem ∧
    (State.dropRegion s e dies).array = s.array ∧
    (State.dropRegion s e dies).hostMem = s.hostMem ∧
    (State.dropRegion s e dies).peerMem = s.peerMem ∧
    (State.dropRegion s e dies).registrant = s.registrant ∧
    (State.dropRegion s e dies).claims = s.claims ∧
    (State.dropRegion s e dies).cells = s.cells ∧
    (State.dropRegion s e dies).regions = s.regions ∧
    (State.dropRegion s e dies).l2 = s.l2 ∧
    (State.dropRegion s e dies).msc = s.msc ∧
    (State.dropRegion s e dies).hbms = s.hbms ∧
    (State.dropRegion s e dies).bad = s.bad ∧
    (State.dropRegion s e dies).weak = s.weak ∧
    (State.dropRegion s e dies).lost = s.lost ∧
    (State.dropRegion s e dies).tlb = s.tlb ∧
    (State.dropRegion s e dies).accs = s.accs ∧
    (State.dropRegion s e dies).net = s.net ∧
    (State.dropRegion s e dies).abufs = s.abufs ∧
    (State.dropRegion s e dies).jobs = s.jobs ∧
    (State.dropRegion s e dies).feet = s.feet ∧
    (State.dropRegion s e dies).shapes = s.shapes ∧
    (State.dropRegion s e dies).eqs = s.eqs ∧
    (State.dropRegion s e dies).insts = s.insts ∧
    (State.dropRegion s e dies).links = s.links ∧
    (State.dropRegion s e dies).hostAccs = s.hostAccs ∧
    (State.dropRegion s e dies).hostLines = s.hostLines ∧
    (State.dropRegion s e dies).mgmt = s.mgmt ∧
    (State.dropRegion s e dies).focus = s.focus ∧
    (State.dropRegion s e dies).agenda = s.agenda ∧
    (State.dropRegion s e dies).seq = s.seq ∧
    (∀ k, (State.dropRegion s e dies).wave k = s.wave k) ∧
    (∀ k, (State.dropRegion s e dies).block k = s.block k) ∧
    (∀ k, (State.dropRegion s e dies).launch k = s.launch k) ∧
    (∀ k, (State.dropRegion s e dies).core k = s.core k) := by
  (unfold State.dropRegion; (try dsimp only); (repeat' split) <;> simp -implicitDefEqProofs (disch := (intros; first | (simp -implicitDefEqProofs [*]; done) | ((try dsimp only); (repeat' split) <;> (simp -implicitDefEqProofs (disch := (intros; (try dsimp only); (repeat' split) <;> (try (simp -implicitDefEqProofs [*]; done)))) [*]; done)) | skip)) [State.wave, State.block, State.launch, State.core])
@[simp] theorem State.regionRoom_keeps (s : State) (hub : Nat) (keep : Option RegionEnt) :
    (State.regionRoom s hub keep).waves = s.waves ∧
    (State.regionRoom s hub keep).blocks = s.blocks ∧
    (State.regionRoom s hub keep).launches = s.launches ∧
    (State.regionRoom s hub keep).cores = s.cores ∧
    (State.regionRoom s hub keep).mem = s.mem ∧
    (State.regionRoom s hub keep).array = s.array ∧
    (State.regionRoom s hub keep).hostMem = s.hostMem ∧
    (State.regionRoom s hub keep).peerMem = s.peerMem ∧
    (State.regionRoom s hub keep).registrant = s.registrant ∧
    (State.regionRoom s hub keep).claims = s.claims ∧
    (State.regionRoom s hub keep).cells = s.cells ∧
    (State.regionRoom s hub keep).l2 = s.l2 ∧
    (State.regionRoom s hub keep).msc = s.msc ∧
    (State.regionRoom s hub keep).hbms = s.hbms ∧
    (State.regionRoom s hub keep).bad = s.bad ∧
    (State.regionRoom s hub keep).weak = s.weak ∧
    (State.regionRoom s hub keep).lost = s.lost ∧
    (State.regionRoom s hub keep).tlb = s.tlb ∧
    (State.regionRoom s hub keep).accs = s.accs ∧
    (State.regionRoom s hub keep).net = s.net ∧
    (State.regionRoom s hub keep).abufs = s.abufs ∧
    (State.regionRoom s hub keep).jobs = s.jobs ∧
    (State.regionRoom s hub keep).feet = s.feet ∧
    (State.regionRoom s hub keep).shapes = s.shapes ∧
    (State.regionRoom s hub keep).eqs = s.eqs ∧
    (State.regionRoom s hub keep).insts = s.insts ∧
    (State.regionRoom s hub keep).links = s.links ∧
    (State.regionRoom s hub keep).hostAccs = s.hostAccs ∧
    (State.regionRoom s hub keep).hostLines = s.hostLines ∧
    (State.regionRoom s hub keep).mgmt = s.mgmt ∧
    (State.regionRoom s hub keep).focus = s.focus ∧
    (State.regionRoom s hub keep).agenda = s.agenda ∧
    (State.regionRoom s hub keep).seq = s.seq ∧
    (∀ k, (State.regionRoom s hub keep).wave k = s.wave k) ∧
    (∀ k, (State.regionRoom s hub keep).block k = s.block k) ∧
    (∀ k, (State.regionRoom s hub keep).launch k = s.launch k) ∧
    (∀ k, (State.regionRoom s hub keep).core k = s.core k) := by
  (unfold State.regionRoom; (try dsimp only); (repeat' split) <;> simp -implicitDefEqProofs (disch := (intros; first | (simp -implicitDefEqProofs [*]; done) | ((try dsimp only); (repeat' split) <;> (simp -implicitDefEqProofs (disch := (intros; (try dsimp only); (repeat' split) <;> (try (simp -implicitDefEqProofs [*]; done)))) [*]; done)) | skip)) [State.wave, State.block, State.launch, State.core])
@[simp] theorem State.regionFill_keeps (s : State) (die : Nat) (pa : Nat) :
    (State.regionFill s die pa).waves = s.waves ∧
    (State.regionFill s die pa).blocks = s.blocks ∧
    (State.regionFill s die pa).launches = s.launches ∧
    (State.regionFill s die pa).cores = s.cores ∧
    (State.regionFill s die pa).mem = s.mem ∧
    (State.regionFill s die pa).array = s.array ∧
    (State.regionFill s die pa).hostMem = s.hostMem ∧
    (State.regionFill s die pa).peerMem = s.peerMem ∧
    (State.regionFill s die pa).registrant = s.registrant ∧
    (State.regionFill s die pa).claims = s.claims ∧
    (State.regionFill s die pa).cells = s.cells ∧
    (State.regionFill s die pa).l2 = s.l2 ∧
    (State.regionFill s die pa).msc = s.msc ∧
    (State.regionFill s die pa).hbms = s.hbms ∧
    (State.regionFill s die pa).bad = s.bad ∧
    (State.regionFill s die pa).weak = s.weak ∧
    (State.regionFill s die pa).lost = s.lost ∧
    (State.regionFill s die pa).tlb = s.tlb ∧
    (State.regionFill s die pa).accs = s.accs ∧
    (State.regionFill s die pa).net = s.net ∧
    (State.regionFill s die pa).abufs = s.abufs ∧
    (State.regionFill s die pa).jobs = s.jobs ∧
    (State.regionFill s die pa).feet = s.feet ∧
    (State.regionFill s die pa).shapes = s.shapes ∧
    (State.regionFill s die pa).eqs = s.eqs ∧
    (State.regionFill s die pa).insts = s.insts ∧
    (State.regionFill s die pa).links = s.links ∧
    (State.regionFill s die pa).hostAccs = s.hostAccs ∧
    (State.regionFill s die pa).hostLines = s.hostLines ∧
    (State.regionFill s die pa).mgmt = s.mgmt ∧
    (State.regionFill s die pa).focus = s.focus ∧
    (State.regionFill s die pa).agenda = s.agenda ∧
    (∀ k, (State.regionFill s die pa).wave k = s.wave k) ∧
    (∀ k, (State.regionFill s die pa).block k = s.block k) ∧
    (∀ k, (State.regionFill s die pa).launch k = s.launch k) ∧
    (∀ k, (State.regionFill s die pa).core k = s.core k) := by
  (unfold State.regionFill; (try dsimp only); (repeat' split) <;> simp -implicitDefEqProofs (disch := (intros; first | (simp -implicitDefEqProofs [*]; done) | ((try dsimp only); (repeat' split) <;> (simp -implicitDefEqProofs (disch := (intros; (try dsimp only); (repeat' split) <;> (try (simp -implicitDefEqProofs [*]; done)))) [*]; done)) | skip)) [State.wave, State.block, State.launch, State.core])
@[simp] theorem State.regionWrite_keeps (s : State) (die : Nat) (pa : Nat) :
    (State.regionWrite s die pa).waves = s.waves ∧
    (State.regionWrite s die pa).blocks = s.blocks ∧
    (State.regionWrite s die pa).launches = s.launches ∧
    (State.regionWrite s die pa).cores = s.cores ∧
    (State.regionWrite s die pa).mem = s.mem ∧
    (State.regionWrite s die pa).array = s.array ∧
    (State.regionWrite s die pa).hostMem = s.hostMem ∧
    (State.regionWrite s die pa).peerMem = s.peerMem ∧
    (State.regionWrite s die pa).registrant = s.registrant ∧
    (State.regionWrite s die pa).claims = s.claims ∧
    (State.regionWrite s die pa).cells = s.cells ∧
    (State.regionWrite s die pa).l2 = s.l2 ∧
    (State.regionWrite s die pa).msc = s.msc ∧
    (State.regionWrite s die pa).hbms = s.hbms ∧
    (State.regionWrite s die pa).bad = s.bad ∧
    (State.regionWrite s die pa).weak = s.weak ∧
    (State.regionWrite s die pa).lost = s.lost ∧
    (State.regionWrite s die pa).tlb = s.tlb ∧
    (State.regionWrite s die pa).accs = s.accs ∧
    (State.regionWrite s die pa).net = s.net ∧
    (State.regionWrite s die pa).abufs = s.abufs ∧
    (State.regionWrite s die pa).jobs = s.jobs ∧
    (State.regionWrite s die pa).feet = s.feet ∧
    (State.regionWrite s die pa).shapes = s.shapes ∧
    (State.regionWrite s die pa).eqs = s.eqs ∧
    (State.regionWrite s die pa).insts = s.insts ∧
    (State.regionWrite s die pa).links = s.links ∧
    (State.regionWrite s die pa).hostAccs = s.hostAccs ∧
    (State.regionWrite s die pa).hostLines = s.hostLines ∧
    (State.regionWrite s die pa).mgmt = s.mgmt ∧
    (State.regionWrite s die pa).focus = s.focus ∧
    (State.regionWrite s die pa).agenda = s.agenda ∧
    (State.regionWrite s die pa).seq = s.seq ∧
    (∀ k, (State.regionWrite s die pa).wave k = s.wave k) ∧
    (∀ k, (State.regionWrite s die pa).block k = s.block k) ∧
    (∀ k, (State.regionWrite s die pa).launch k = s.launch k) ∧
    (∀ k, (State.regionWrite s die pa).core k = s.core k) := by
  (unfold State.regionWrite; (try dsimp only); (repeat' split) <;> simp -implicitDefEqProofs (disch := (intros; first | (simp -implicitDefEqProofs [*]; done) | ((try dsimp only); (repeat' split) <;> (simp -implicitDefEqProofs (disch := (intros; (try dsimp only); (repeat' split) <;> (try (simp -implicitDefEqProofs [*]; done)))) [*]; done)) | skip)) [State.wave, State.block, State.launch, State.core])
@[simp] theorem State.trimRdc_keeps (s : State) (die : Nat) :
    (State.trimRdc s die).waves = s.waves ∧
    (State.trimRdc s die).blocks = s.blocks ∧
    (State.trimRdc s die).launches = s.launches ∧
    (State.trimRdc s die).cores = s.cores ∧
    (State.trimRdc s die).mem = s.mem ∧
    (State.trimRdc s die).array = s.array ∧
    (State.trimRdc s die).hostMem = s.hostMem ∧
    (State.trimRdc s die).peerMem = s.peerMem ∧
    (State.trimRdc s die).registrant = s.registrant ∧
    (State.trimRdc s die).claims = s.claims ∧
    (State.trimRdc s die).cells = s.cells ∧
    (State.trimRdc s die).regions = s.regions ∧
    (State.trimRdc s die).l2 = s.l2 ∧
    (State.trimRdc s die).msc = s.msc ∧
    (State.trimRdc s die).hbms = s.hbms ∧
    (State.trimRdc s die).bad = s.bad ∧
    (State.trimRdc s die).weak = s.weak ∧
    (State.trimRdc s die).lost = s.lost ∧
    (State.trimRdc s die).tlb = s.tlb ∧
    (State.trimRdc s die).accs = s.accs ∧
    (State.trimRdc s die).net = s.net ∧
    (State.trimRdc s die).abufs = s.abufs ∧
    (State.trimRdc s die).jobs = s.jobs ∧
    (State.trimRdc s die).feet = s.feet ∧
    (State.trimRdc s die).shapes = s.shapes ∧
    (State.trimRdc s die).eqs = s.eqs ∧
    (State.trimRdc s die).insts = s.insts ∧
    (State.trimRdc s die).links = s.links ∧
    (State.trimRdc s die).hostAccs = s.hostAccs ∧
    (State.trimRdc s die).hostLines = s.hostLines ∧
    (State.trimRdc s die).mgmt = s.mgmt ∧
    (State.trimRdc s die).focus = s.focus ∧
    (State.trimRdc s die).agenda = s.agenda ∧
    (State.trimRdc s die).seq = s.seq ∧
    (∀ k, (State.trimRdc s die).wave k = s.wave k) ∧
    (∀ k, (State.trimRdc s die).block k = s.block k) ∧
    (∀ k, (State.trimRdc s die).launch k = s.launch k) ∧
    (∀ k, (State.trimRdc s die).core k = s.core k) := by
  (unfold State.trimRdc; (try dsimp only); (repeat' split) <;> simp -implicitDefEqProofs (disch := (intros; first | (simp -implicitDefEqProofs [*]; done) | ((try dsimp only); (repeat' split) <;> (simp -implicitDefEqProofs (disch := (intros; (try dsimp only); (repeat' split) <;> (try (simp -implicitDefEqProofs [*]; done)))) [*]; done)) | skip)) [State.wave, State.block, State.launch, State.core])
@[simp] theorem State.putRdc_keeps (s : State) (x : Acc) (p : Piece) :
    (State.putRdc s x p).waves = s.waves ∧
    (State.putRdc s x p).blocks = s.blocks ∧
    (State.putRdc s x p).launches = s.launches ∧
    (State.putRdc s x p).cores = s.cores ∧
    (State.putRdc s x p).mem = s.mem ∧
    (State.putRdc s x p).array = s.array ∧
    (State.putRdc s x p).hostMem = s.hostMem ∧
    (State.putRdc s x p).peerMem = s.peerMem ∧
    (State.putRdc s x p).registrant = s.registrant ∧
    (State.putRdc s x p).claims = s.claims ∧
    (State.putRdc s x p).cells = s.cells ∧
    (State.putRdc s x p).l2 = s.l2 ∧
    (State.putRdc s x p).msc = s.msc ∧
    (State.putRdc s x p).hbms = s.hbms ∧
    (State.putRdc s x p).bad = s.bad ∧
    (State.putRdc s x p).weak = s.weak ∧
    (State.putRdc s x p).lost = s.lost ∧
    (State.putRdc s x p).tlb = s.tlb ∧
    (State.putRdc s x p).accs = s.accs ∧
    (State.putRdc s x p).net = s.net ∧
    (State.putRdc s x p).abufs = s.abufs ∧
    (State.putRdc s x p).jobs = s.jobs ∧
    (State.putRdc s x p).feet = s.feet ∧
    (State.putRdc s x p).shapes = s.shapes ∧
    (State.putRdc s x p).eqs = s.eqs ∧
    (State.putRdc s x p).insts = s.insts ∧
    (State.putRdc s x p).links = s.links ∧
    (State.putRdc s x p).hostAccs = s.hostAccs ∧
    (State.putRdc s x p).hostLines = s.hostLines ∧
    (State.putRdc s x p).mgmt = s.mgmt ∧
    (State.putRdc s x p).focus = s.focus ∧
    (State.putRdc s x p).agenda = s.agenda ∧
    (∀ k, (State.putRdc s x p).wave k = s.wave k) ∧
    (∀ k, (State.putRdc s x p).block k = s.block k) ∧
    (∀ k, (State.putRdc s x p).launch k = s.launch k) ∧
    (∀ k, (State.putRdc s x p).core k = s.core k) := by
  (unfold State.putRdc; (try dsimp only); (repeat' split) <;> simp -implicitDefEqProofs (disch := (intros; first | (simp -implicitDefEqProofs [*]; done) | ((try dsimp only); (repeat' split) <;> (simp -implicitDefEqProofs (disch := (intros; (try dsimp only); (repeat' split) <;> (try (simp -implicitDefEqProofs [*]; done)))) [*]; done)) | skip)) [State.wave, State.block, State.launch, State.core])
@[simp] theorem State.fillRdc_keeps (s : State) (x : Acc) (p : Piece) :
    (State.fillRdc s x p).waves = s.waves ∧
    (State.fillRdc s x p).blocks = s.blocks ∧
    (State.fillRdc s x p).launches = s.launches ∧
    (State.fillRdc s x p).cores = s.cores ∧
    (State.fillRdc s x p).mem = s.mem ∧
    (State.fillRdc s x p).array = s.array ∧
    (State.fillRdc s x p).hostMem = s.hostMem ∧
    (State.fillRdc s x p).peerMem = s.peerMem ∧
    (State.fillRdc s x p).registrant = s.registrant ∧
    (State.fillRdc s x p).claims = s.claims ∧
    (State.fillRdc s x p).cells = s.cells ∧
    (State.fillRdc s x p).l2 = s.l2 ∧
    (State.fillRdc s x p).msc = s.msc ∧
    (State.fillRdc s x p).hbms = s.hbms ∧
    (State.fillRdc s x p).bad = s.bad ∧
    (State.fillRdc s x p).weak = s.weak ∧
    (State.fillRdc s x p).lost = s.lost ∧
    (State.fillRdc s x p).tlb = s.tlb ∧
    (State.fillRdc s x p).accs = s.accs ∧
    (State.fillRdc s x p).net = s.net ∧
    (State.fillRdc s x p).abufs = s.abufs ∧
    (State.fillRdc s x p).jobs = s.jobs ∧
    (State.fillRdc s x p).feet = s.feet ∧
    (State.fillRdc s x p).shapes = s.shapes ∧
    (State.fillRdc s x p).eqs = s.eqs ∧
    (State.fillRdc s x p).insts = s.insts ∧
    (State.fillRdc s x p).links = s.links ∧
    (State.fillRdc s x p).hostAccs = s.hostAccs ∧
    (State.fillRdc s x p).hostLines = s.hostLines ∧
    (State.fillRdc s x p).mgmt = s.mgmt ∧
    (State.fillRdc s x p).focus = s.focus ∧
    (State.fillRdc s x p).agenda = s.agenda ∧
    (∀ k, (State.fillRdc s x p).wave k = s.wave k) ∧
    (∀ k, (State.fillRdc s x p).block k = s.block k) ∧
    (∀ k, (State.fillRdc s x p).launch k = s.launch k) ∧
    (∀ k, (State.fillRdc s x p).core k = s.core k) := by
  (unfold State.fillRdc; (try dsimp only); (repeat' split) <;> simp -implicitDefEqProofs (disch := (intros; first | (simp -implicitDefEqProofs [*]; done) | ((try dsimp only); (repeat' split) <;> (simp -implicitDefEqProofs (disch := (intros; (try dsimp only); (repeat' split) <;> (try (simp -implicitDefEqProofs [*]; done)))) [*]; done)) | skip)) [State.wave, State.block, State.launch, State.core])
@[simp] theorem State.issueAcc_keeps (s : State) (x : Acc) :
    (State.issueAcc s x).waves = s.waves ∧
    (State.issueAcc s x).launches = s.launches ∧
    (State.issueAcc s x).cores = s.cores ∧
    (State.issueAcc s x).mem = s.mem ∧
    (State.issueAcc s x).array = s.array ∧
    (State.issueAcc s x).hostMem = s.hostMem ∧
    (State.issueAcc s x).peerMem = s.peerMem ∧
    (State.issueAcc s x).registrant = s.registrant ∧
    (State.issueAcc s x).claims = s.claims ∧
    (State.issueAcc s x).cells = s.cells ∧
    (State.issueAcc s x).regions = s.regions ∧
    (State.issueAcc s x).rdc = s.rdc ∧
    (State.issueAcc s x).l2 = s.l2 ∧
    (State.issueAcc s x).msc = s.msc ∧
    (State.issueAcc s x).hbms = s.hbms ∧
    (State.issueAcc s x).bad = s.bad ∧
    (State.issueAcc s x).weak = s.weak ∧
    (State.issueAcc s x).lost = s.lost ∧
    (State.issueAcc s x).abufs = s.abufs ∧
    (State.issueAcc s x).jobs = s.jobs ∧
    (State.issueAcc s x).feet = s.feet ∧
    (State.issueAcc s x).shapes = s.shapes ∧
    (State.issueAcc s x).eqs = s.eqs ∧
    (State.issueAcc s x).insts = s.insts ∧
    (State.issueAcc s x).links = s.links ∧
    (State.issueAcc s x).hostAccs = s.hostAccs ∧
    (State.issueAcc s x).hostLines = s.hostLines ∧
    (State.issueAcc s x).mgmt = s.mgmt ∧
    (State.issueAcc s x).focus = s.focus ∧
    (State.issueAcc s x).agenda = s.agenda ∧
    (∀ k, (State.issueAcc s x).wave k = s.wave k) ∧
    (∀ k, (State.issueAcc s x).launch k = s.launch k) ∧
    (∀ k, (State.issueAcc s x).core k = s.core k) := by
  (unfold State.issueAcc; (try dsimp only); (repeat' split) <;> simp -implicitDefEqProofs (disch := (intros; first | (simp -implicitDefEqProofs [*]; done) | ((try dsimp only); (repeat' split) <;> (simp -implicitDefEqProofs (disch := (intros; (try dsimp only); (repeat' split) <;> (try (simp -implicitDefEqProofs [*]; done)))) [*]; done)) | skip)) [State.wave, State.block, State.launch, State.core])
@[simp] theorem State.logFold_keepsW {α : Type} (l : List α) (g : α → UndoItem) (s : State) (w : Nat) (b : Bool) (q k : Nat) :
    ((l.foldl (fun s y => s.updWave w (fun v => v.log b q (g y))) s).wave k).block = (s.wave k).block ∧
    ((l.foldl (fun s y => s.updWave w (fun v => v.log b q (g y))) s).wave k).idx = (s.wave k).idx ∧
    ((l.foldl (fun s y => s.updWave w (fun v => v.log b q (g y))) s).wave k).exited = (s.wave k).exited ∧
    ((l.foldl (fun s y => s.updWave w (fun v => v.log b q (g y))) s).wave k).launchMask = (s.wave k).launchMask ∧
    ((l.foldl (fun s y => s.updWave w (fun v => v.log b q (g y))) s).wave k).pad = (s.wave k).pad ∧
    ((l.foldl (fun s y => s.updWave w (fun v => v.log b q (g y))) s).wave k).sregs = (s.wave k).sregs ∧
    ((l.foldl (fun s y => s.updWave w (fun v => v.log b q (g y))) s).wave k).vregs = (s.wave k).vregs ∧
    ((l.foldl (fun s y => s.updWave w (fun v => v.log b q (g y))) s).wave k).pregs = (s.wave k).pregs ∧
    ((l.foldl (fun s y => s.updWave w (fun v => v.log b q (g y))) s).wave k).lastB = (s.wave k).lastB ∧
    ((l.foldl (fun s y => s.updWave w (fun v => v.log b q (g y))) s).wave k).spill = (s.wave k).spill ∧
    ((l.foldl (fun s y => s.updWave w (fun v => v.log b q (g y))) s).wave k).handler = (s.wave k).handler ∧
    ((l.foldl (fun s y => s.updWave w (fun v => v.log b q (g y))) s).wave k).xpc = (s.wave k).xpc ∧
    ((l.foldl (fun s y => s.updWave w (fun v => v.log b q (g y))) s).wave k).xmode = (s.wave k).xmode ∧
    ((l.foldl (fun s y => s.updWave w (fun v => v.log b q (g y))) s).wave k).xcause = (s.wave k).xcause ∧
    ((l.foldl (fun s y => s.updWave w (fun v => v.log b q (g y))) s).wave k).xlanes = (s.wave k).xlanes ∧
    ((l.foldl (fun s y => s.updWave w (fun v => v.log b q (g y))) s).wave k).xaddr = (s.wave k).xaddr ∧
    ((l.foldl (fun s y => s.updWave w (fun v => v.log b q (g y))) s).wave k).gexposed = (s.wave k).gexposed ∧
    ((l.foldl (fun s y => s.updWave w (fun v => v.log b q (g y))) s).wave k).mm = (s.wave k).mm ∧
    ((l.foldl (fun s y => s.updWave w (fun v => v.log b q (g y))) s).wave k).epoch = (s.wave k).epoch ∧
    ((l.foldl (fun s y => s.updWave w (fun v => v.log b q (g y))) s).wave k).tags = (s.wave k).tags ∧
    ((l.foldl (fun s y => s.updWave w (fun v => v.log b q (g y))) s).wave k).sfr = (s.wave k).sfr ∧
    ((l.foldl (fun s y => s.updWave w (fun v => v.log b q (g y))) s).wave k).arrived = (s.wave k).arrived ∧
    ((l.foldl (fun s y => s.updWave w (fun v => v.log b q (g y))) s).wave k).region = (s.wave k).region ∧
    ((l.foldl (fun s y => s.updWave w (fun v => v.log b q (g y))) s).wave k).pend = (s.wave k).pend ∧
    ((l.foldl (fun s y => s.updWave w (fun v => v.log b q (g y))) s).wave k).lost = (s.wave k).lost ∧
    ((l.foldl (fun s y => s.updWave w (fun v => v.log b q (g y))) s).wave k).since = (s.wave k).since ∧
    ((l.foldl (fun s y => s.updWave w (fun v => v.log b q (g y))) s).wave k).jobs = (s.wave k).jobs ∧
    ((l.foldl (fun s y => s.updWave w (fun v => v.log b q (g y))) s).wave k).left = (s.wave k).left := by
  induction l generalizing s with
  | nil => simp
  | cons x l ih => simp only [List.foldl_cons, ih, State.updWave_at]; split <;> simp
@[simp] theorem State.killOlder_keeps (s : State) (a : Nat) (x : Acc) (r : Nat) (lanes : Mask) :
    (State.killOlder s a x r lanes).blocks = s.blocks ∧
    (State.killOlder s a x r lanes).launches = s.launches ∧
    (State.killOlder s a x r lanes).cores = s.cores ∧
    (State.killOlder s a x r lanes).mem = s.mem ∧
    (State.killOlder s a x r lanes).array = s.array ∧
    (State.killOlder s a x r lanes).hostMem = s.hostMem ∧
    (State.killOlder s a x r lanes).peerMem = s.peerMem ∧
    (State.killOlder s a x r lanes).registrant = s.registrant ∧
    (State.killOlder s a x r lanes).claims = s.claims ∧
    (State.killOlder s a x r lanes).cells = s.cells ∧
    (State.killOlder s a x r lanes).regions = s.regions ∧
    (State.killOlder s a x r lanes).rdc = s.rdc ∧
    (State.killOlder s a x r lanes).l2 = s.l2 ∧
    (State.killOlder s a x r lanes).msc = s.msc ∧
    (State.killOlder s a x r lanes).hbms = s.hbms ∧
    (State.killOlder s a x r lanes).bad = s.bad ∧
    (State.killOlder s a x r lanes).weak = s.weak ∧
    (State.killOlder s a x r lanes).lost = s.lost ∧
    (State.killOlder s a x r lanes).tlb = s.tlb ∧
    (State.killOlder s a x r lanes).net = s.net ∧
    (State.killOlder s a x r lanes).abufs = s.abufs ∧
    (State.killOlder s a x r lanes).jobs = s.jobs ∧
    (State.killOlder s a x r lanes).feet = s.feet ∧
    (State.killOlder s a x r lanes).shapes = s.shapes ∧
    (State.killOlder s a x r lanes).eqs = s.eqs ∧
    (State.killOlder s a x r lanes).insts = s.insts ∧
    (State.killOlder s a x r lanes).links = s.links ∧
    (State.killOlder s a x r lanes).hostAccs = s.hostAccs ∧
    (State.killOlder s a x r lanes).hostLines = s.hostLines ∧
    (State.killOlder s a x r lanes).mgmt = s.mgmt ∧
    (State.killOlder s a x r lanes).focus = s.focus ∧
    (State.killOlder s a x r lanes).agenda = s.agenda ∧
    (State.killOlder s a x r lanes).seq = s.seq ∧
    (∀ k, (State.killOlder s a x r lanes).block k = s.block k) ∧
    (∀ k, (State.killOlder s a x r lanes).launch k = s.launch k) ∧
    (∀ k, (State.killOlder s a x r lanes).core k = s.core k) := by
  (unfold State.killOlder; (try dsimp only); (repeat' split) <;> simp -implicitDefEqProofs (disch := (intros; first | (simp -implicitDefEqProofs [*]; done) | ((try dsimp only); (repeat' split) <;> (simp -implicitDefEqProofs (disch := (intros; (try dsimp only); (repeat' split) <;> (try (simp -implicitDefEqProofs [*]; done)))) [*]; done)) | skip)) [State.wave, State.block, State.launch, State.core])
@[simp] theorem State.killOlder_keepsW (s : State) (a : Nat) (x : Acc) (r : Nat) (lanes : Mask) (k : Nat) :
    ((State.killOlder s a x r lanes).wave k).block = (s.wave k).block ∧
    ((State.killOlder s a x r lanes).wave k).idx = (s.wave k).idx ∧
    ((State.killOlder s a x r lanes).wave k).exited = (s.wave k).exited ∧
    ((State.killOlder s a x r lanes).wave k).launchMask = (s.wave k).launchMask ∧
    ((State.killOlder s a x r lanes).wave k).pad = (s.wave k).pad ∧
    ((State.killOlder s a x r lanes).wave k).sregs = (s.wave k).sregs ∧
    ((State.killOlder s a x r lanes).wave k).vregs = (s.wave k).vregs ∧
    ((State.killOlder s a x r lanes).wave k).pregs = (s.wave k).pregs ∧
    ((State.killOlder s a x r lanes).wave k).lastB = (s.wave k).lastB ∧
    ((State.killOlder s a x r lanes).wave k).spill = (s.wave k).spill ∧
    ((State.killOlder s a x r lanes).wave k).handler = (s.wave k).handler ∧
    ((State.killOlder s a x r lanes).wave k).xpc = (s.wave k).xpc ∧
    ((State.killOlder s a x r lanes).wave k).xmode = (s.wave k).xmode ∧
    ((State.killOlder s a x r lanes).wave k).xcause = (s.wave k).xcause ∧
    ((State.killOlder s a x r lanes).wave k).xlanes = (s.wave k).xlanes ∧
    ((State.killOlder s a x r lanes).wave k).xaddr = (s.wave k).xaddr ∧
    ((State.killOlder s a x r lanes).wave k).gexposed = (s.wave k).gexposed ∧
    ((State.killOlder s a x r lanes).wave k).mm = (s.wave k).mm ∧
    ((State.killOlder s a x r lanes).wave k).epoch = (s.wave k).epoch ∧
    ((State.killOlder s a x r lanes).wave k).tags = (s.wave k).tags ∧
    ((State.killOlder s a x r lanes).wave k).sfr = (s.wave k).sfr ∧
    ((State.killOlder s a x r lanes).wave k).arrived = (s.wave k).arrived ∧
    ((State.killOlder s a x r lanes).wave k).region = (s.wave k).region ∧
    ((State.killOlder s a x r lanes).wave k).pend = (s.wave k).pend ∧
    ((State.killOlder s a x r lanes).wave k).lost = (s.wave k).lost ∧
    ((State.killOlder s a x r lanes).wave k).since = (s.wave k).since ∧
    ((State.killOlder s a x r lanes).wave k).jobs = (s.wave k).jobs ∧
    ((State.killOlder s a x r lanes).wave k).left = (s.wave k).left := by
  unfold State.killOlder; dsimp only
  split
  · have h := State.logFold_keepsW (s.accs.filter (fun y => (y.1 != a && decide (y.2.seq < x.seq) && y.2.dueV x.wave r))) (fun y => .dead y.1 y.2.dead) s x.wave x.slotB x.seq k
    exact h
  · simp [State.wave]
@[simp] theorem State.putResult_keeps (s : State) (a : Nat) (i : Nat) (lanes : Mask) (val : Nat → Word) (guess : Mask) :
    (State.putResult s a i lanes val guess).blocks = s.blocks ∧
    (State.putResult s a i lanes val guess).launches = s.launches ∧
    (State.putResult s a i lanes val guess).cores = s.cores ∧
    (State.putResult s a i lanes val guess).mem = s.mem ∧
    (State.putResult s a i lanes val guess).array = s.array ∧
    (State.putResult s a i lanes val guess).hostMem = s.hostMem ∧
    (State.putResult s a i lanes val guess).peerMem = s.peerMem ∧
    (State.putResult s a i lanes val guess).registrant = s.registrant ∧
    (State.putResult s a i lanes val guess).claims = s.claims ∧
    (State.putResult s a i lanes val guess).cells = s.cells ∧
    (State.putResult s a i lanes val guess).regions = s.regions ∧
    (State.putResult s a i lanes val guess).rdc = s.rdc ∧
    (State.putResult s a i lanes val guess).l2 = s.l2 ∧
    (State.putResult s a i lanes val guess).msc = s.msc ∧
    (State.putResult s a i lanes val guess).hbms = s.hbms ∧
    (State.putResult s a i lanes val guess).bad = s.bad ∧
    (State.putResult s a i lanes val guess).weak = s.weak ∧
    (State.putResult s a i lanes val guess).lost = s.lost ∧
    (State.putResult s a i lanes val guess).tlb = s.tlb ∧
    (State.putResult s a i lanes val guess).net = s.net ∧
    (State.putResult s a i lanes val guess).abufs = s.abufs ∧
    (State.putResult s a i lanes val guess).jobs = s.jobs ∧
    (State.putResult s a i lanes val guess).feet = s.feet ∧
    (State.putResult s a i lanes val guess).shapes = s.shapes ∧
    (State.putResult s a i lanes val guess).eqs = s.eqs ∧
    (State.putResult s a i lanes val guess).insts = s.insts ∧
    (State.putResult s a i lanes val guess).links = s.links ∧
    (State.putResult s a i lanes val guess).hostAccs = s.hostAccs ∧
    (State.putResult s a i lanes val guess).hostLines = s.hostLines ∧
    (State.putResult s a i lanes val guess).mgmt = s.mgmt ∧
    (State.putResult s a i lanes val guess).focus = s.focus ∧
    (State.putResult s a i lanes val guess).agenda = s.agenda ∧
    (State.putResult s a i lanes val guess).seq = s.seq ∧
    (∀ k, (State.putResult s a i lanes val guess).block k = s.block k) ∧
    (∀ k, (State.putResult s a i lanes val guess).launch k = s.launch k) ∧
    (∀ k, (State.putResult s a i lanes val guess).core k = s.core k) := by
  (unfold State.putResult; (try dsimp only); (repeat' split) <;> simp -implicitDefEqProofs (disch := (intros; first | (simp -implicitDefEqProofs [*]; done) | ((try dsimp only); (repeat' split) <;> (simp -implicitDefEqProofs (disch := (intros; (try dsimp only); (repeat' split) <;> (try (simp -implicitDefEqProofs [*]; done)))) [*]; done)) | skip)) [State.wave, State.block, State.launch, State.core])
@[simp] theorem State.putResult_keepsW (s : State) (a : Nat) (i : Nat) (lanes : Mask) (val : Nat → Word) (guess : Mask) (k : Nat) :
    ((State.putResult s a i lanes val guess).wave k).block = (s.wave k).block ∧
    ((State.putResult s a i lanes val guess).wave k).idx = (s.wave k).idx ∧
    ((State.putResult s a i lanes val guess).wave k).exited = (s.wave k).exited ∧
    ((State.putResult s a i lanes val guess).wave k).launchMask = (s.wave k).launchMask ∧
    ((State.putResult s a i lanes val guess).wave k).pad = (s.wave k).pad ∧
    ((State.putResult s a i lanes val guess).wave k).sregs = (s.wave k).sregs ∧
    ((State.putResult s a i lanes val guess).wave k).pregs = (s.wave k).pregs ∧
    ((State.putResult s a i lanes val guess).wave k).lastB = (s.wave k).lastB ∧
    ((State.putResult s a i lanes val guess).wave k).spill = (s.wave k).spill ∧
    ((State.putResult s a i lanes val guess).wave k).handler = (s.wave k).handler ∧
    ((State.putResult s a i lanes val guess).wave k).xpc = (s.wave k).xpc ∧
    ((State.putResult s a i lanes val guess).wave k).xmode = (s.wave k).xmode ∧
    ((State.putResult s a i lanes val guess).wave k).xcause = (s.wave k).xcause ∧
    ((State.putResult s a i lanes val guess).wave k).xlanes = (s.wave k).xlanes ∧
    ((State.putResult s a i lanes val guess).wave k).xaddr = (s.wave k).xaddr ∧
    ((State.putResult s a i lanes val guess).wave k).gexposed = (s.wave k).gexposed ∧
    ((State.putResult s a i lanes val guess).wave k).epoch = (s.wave k).epoch ∧
    ((State.putResult s a i lanes val guess).wave k).sfr = (s.wave k).sfr ∧
    ((State.putResult s a i lanes val guess).wave k).arrived = (s.wave k).arrived ∧
    ((State.putResult s a i lanes val guess).wave k).pend = (s.wave k).pend ∧
    ((State.putResult s a i lanes val guess).wave k).lost = (s.wave k).lost ∧
    ((State.putResult s a i lanes val guess).wave k).since = (s.wave k).since ∧
    ((State.putResult s a i lanes val guess).wave k).jobs = (s.wave k).jobs ∧
    ((State.putResult s a i lanes val guess).wave k).left = (s.wave k).left := by
  unfold State.putResult
  dsimp only
  generalize hs : (if (lanes &&& (s.acc a).dead.getD i 0 = 0 || !s.windowOpen (s.acc a).wave (s.acc a).slotB) = true then s else _) = s1
  have h1 : ((s1).wave k).block = (s.wave k).block ∧
    ((s1).wave k).idx = (s.wave k).idx ∧
    ((s1).wave k).exited = (s.wave k).exited ∧
    ((s1).wave k).launchMask = (s.wave k).launchMask ∧
    ((s1).wave k).pad = (s.wave k).pad ∧
    ((s1).wave k).sregs = (s.wave k).sregs ∧
    ((s1).wave k).pregs = (s.wave k).pregs ∧
    ((s1).wave k).lastB = (s.wave k).lastB ∧
    ((s1).wave k).spill = (s.wave k).spill ∧
    ((s1).wave k).handler = (s.wave k).handler ∧
    ((s1).wave k).xpc = (s.wave k).xpc ∧
    ((s1).wave k).xmode = (s.wave k).xmode ∧
    ((s1).wave k).xcause = (s.wave k).xcause ∧
    ((s1).wave k).xlanes = (s.wave k).xlanes ∧
    ((s1).wave k).xaddr = (s.wave k).xaddr ∧
    ((s1).wave k).gexposed = (s.wave k).gexposed ∧
    ((s1).wave k).epoch = (s.wave k).epoch ∧
    ((s1).wave k).sfr = (s.wave k).sfr ∧
    ((s1).wave k).arrived = (s.wave k).arrived ∧
    ((s1).wave k).pend = (s.wave k).pend ∧
    ((s1).wave k).lost = (s.wave k).lost ∧
    ((s1).wave k).since = (s.wave k).since ∧
    ((s1).wave k).jobs = (s.wave k).jobs ∧
    ((s1).wave k).left = (s.wave k).left := by
    subst hs
    split
    · simp
    · simp -implicitDefEqProofs [State.updWave_at, apply_ite Wave.block, apply_ite Wave.idx, apply_ite Wave.exited, apply_ite Wave.launchMask, apply_ite Wave.pad, apply_ite Wave.sregs, apply_ite Wave.vregs, apply_ite Wave.pregs, apply_ite Wave.slotA, apply_ite Wave.slotB, apply_ite Wave.lastB, apply_ite Wave.spill, apply_ite Wave.handler, apply_ite Wave.xpc, apply_ite Wave.xmode, apply_ite Wave.xcause, apply_ite Wave.xlanes, apply_ite Wave.xaddr, apply_ite Wave.gexposed, apply_ite Wave.mm, apply_ite Wave.epoch, apply_ite Wave.tags, apply_ite Wave.sfr, apply_ite Wave.arrived, apply_ite Wave.region, apply_ite Wave.pend, apply_ite Wave.lost, apply_ite Wave.since, apply_ite Wave.jobs, apply_ite Wave.left]
  clear hs
  split
  · exact h1
  · simp -implicitDefEqProofs [State.updWave_at,h1, apply_ite Wave.block, apply_ite Wave.idx, apply_ite Wave.exited, apply_ite Wave.launchMask, apply_ite Wave.pad, apply_ite Wave.sregs, apply_ite Wave.vregs, apply_ite Wave.pregs, apply_ite Wave.slotA, apply_ite Wave.slotB, apply_ite Wave.lastB, apply_ite Wave.spill, apply_ite Wave.handler, apply_ite Wave.xpc, apply_ite Wave.xmode, apply_ite Wave.xcause, apply_ite Wave.xlanes, apply_ite Wave.xaddr, apply_ite Wave.gexposed, apply_ite Wave.mm, apply_ite Wave.epoch, apply_ite Wave.tags, apply_ite Wave.sfr, apply_ite Wave.arrived, apply_ite Wave.region, apply_ite Wave.pend, apply_ite Wave.lost, apply_ite Wave.since, apply_ite Wave.jobs, apply_ite Wave.left]
@[simp] theorem State.killOlderS_keeps (s : State) (a : Nat) (x : Acc) :
    (State.killOlderS s a x).blocks = s.blocks ∧
    (State.killOlderS s a x).launches = s.launches ∧
    (State.killOlderS s a x).cores = s.cores ∧
    (State.killOlderS s a x).mem = s.mem ∧
    (State.killOlderS s a x).array = s.array ∧
    (State.killOlderS s a x).hostMem = s.hostMem ∧
    (State.killOlderS s a x).peerMem = s.peerMem ∧
    (State.killOlderS s a x).registrant = s.registrant ∧
    (State.killOlderS s a x).claims = s.claims ∧
    (State.killOlderS s a x).cells = s.cells ∧
    (State.killOlderS s a x).regions = s.regions ∧
    (State.killOlderS s a x).rdc = s.rdc ∧
    (State.killOlderS s a x).l2 = s.l2 ∧
    (State.killOlderS s a x).msc = s.msc ∧
    (State.killOlderS s a x).hbms = s.hbms ∧
    (State.killOlderS s a x).bad = s.bad ∧
    (State.killOlderS s a x).weak = s.weak ∧
    (State.killOlderS s a x).lost = s.lost ∧
    (State.killOlderS s a x).tlb = s.tlb ∧
    (State.killOlderS s a x).net = s.net ∧
    (State.killOlderS s a x).abufs = s.abufs ∧
    (State.killOlderS s a x).jobs = s.jobs ∧
    (State.killOlderS s a x).feet = s.feet ∧
    (State.killOlderS s a x).shapes = s.shapes ∧
    (State.killOlderS s a x).eqs = s.eqs ∧
    (State.killOlderS s a x).insts = s.insts ∧
    (State.killOlderS s a x).links = s.links ∧
    (State.killOlderS s a x).hostAccs = s.hostAccs ∧
    (State.killOlderS s a x).hostLines = s.hostLines ∧
    (State.killOlderS s a x).mgmt = s.mgmt ∧
    (State.killOlderS s a x).focus = s.focus ∧
    (State.killOlderS s a x).agenda = s.agenda ∧
    (State.killOlderS s a x).seq = s.seq ∧
    (∀ k, (State.killOlderS s a x).block k = s.block k) ∧
    (∀ k, (State.killOlderS s a x).launch k = s.launch k) ∧
    (∀ k, (State.killOlderS s a x).core k = s.core k) := by
  (unfold State.killOlderS; (try dsimp only); (repeat' split) <;> simp -implicitDefEqProofs (disch := (intros; first | (simp -implicitDefEqProofs [*]; done) | ((try dsimp only); (repeat' split) <;> (simp -implicitDefEqProofs (disch := (intros; (try dsimp only); (repeat' split) <;> (try (simp -implicitDefEqProofs [*]; done)))) [*]; done)) | skip)) [State.wave, State.block, State.launch, State.core])
@[simp] theorem State.killOlderS_keepsW (s : State) (a : Nat) (x : Acc) (k : Nat) :
    ((State.killOlderS s a x).wave k).block = (s.wave k).block ∧
    ((State.killOlderS s a x).wave k).idx = (s.wave k).idx ∧
    ((State.killOlderS s a x).wave k).exited = (s.wave k).exited ∧
    ((State.killOlderS s a x).wave k).launchMask = (s.wave k).launchMask ∧
    ((State.killOlderS s a x).wave k).pad = (s.wave k).pad ∧
    ((State.killOlderS s a x).wave k).sregs = (s.wave k).sregs ∧
    ((State.killOlderS s a x).wave k).vregs = (s.wave k).vregs ∧
    ((State.killOlderS s a x).wave k).pregs = (s.wave k).pregs ∧
    ((State.killOlderS s a x).wave k).lastB = (s.wave k).lastB ∧
    ((State.killOlderS s a x).wave k).spill = (s.wave k).spill ∧
    ((State.killOlderS s a x).wave k).handler = (s.wave k).handler ∧
    ((State.killOlderS s a x).wave k).xpc = (s.wave k).xpc ∧
    ((State.killOlderS s a x).wave k).xmode = (s.wave k).xmode ∧
    ((State.killOlderS s a x).wave k).xcause = (s.wave k).xcause ∧
    ((State.killOlderS s a x).wave k).xlanes = (s.wave k).xlanes ∧
    ((State.killOlderS s a x).wave k).xaddr = (s.wave k).xaddr ∧
    ((State.killOlderS s a x).wave k).gexposed = (s.wave k).gexposed ∧
    ((State.killOlderS s a x).wave k).mm = (s.wave k).mm ∧
    ((State.killOlderS s a x).wave k).epoch = (s.wave k).epoch ∧
    ((State.killOlderS s a x).wave k).tags = (s.wave k).tags ∧
    ((State.killOlderS s a x).wave k).sfr = (s.wave k).sfr ∧
    ((State.killOlderS s a x).wave k).arrived = (s.wave k).arrived ∧
    ((State.killOlderS s a x).wave k).region = (s.wave k).region ∧
    ((State.killOlderS s a x).wave k).pend = (s.wave k).pend ∧
    ((State.killOlderS s a x).wave k).lost = (s.wave k).lost ∧
    ((State.killOlderS s a x).wave k).since = (s.wave k).since ∧
    ((State.killOlderS s a x).wave k).jobs = (s.wave k).jobs ∧
    ((State.killOlderS s a x).wave k).left = (s.wave k).left := by
  unfold State.killOlderS; dsimp only
  split
  · have h := State.logFold_keepsW (s.accs.filter (fun y => (y.1 != a && decide (y.2.seq < x.seq) && y.2.dueS x.wave x.dst))) (fun y => .dead y.1 y.2.dead) s x.wave x.slotB x.seq k
    exact h
  · simp [State.wave]
@[simp] theorem State.putScalar_keeps (s : State) (a : Nat) (val : DWord) :
    (State.putScalar s a val).blocks = s.blocks ∧
    (State.putScalar s a val).launches = s.launches ∧
    (State.putScalar s a val).cores = s.cores ∧
    (State.putScalar s a val).mem = s.mem ∧
    (State.putScalar s a val).array = s.array ∧
    (State.putScalar s a val).hostMem = s.hostMem ∧
    (State.putScalar s a val).peerMem = s.peerMem ∧
    (State.putScalar s a val).registrant = s.registrant ∧
    (State.putScalar s a val).claims = s.claims ∧
    (State.putScalar s a val).cells = s.cells ∧
    (State.putScalar s a val).regions = s.regions ∧
    (State.putScalar s a val).rdc = s.rdc ∧
    (State.putScalar s a val).l2 = s.l2 ∧
    (State.putScalar s a val).msc = s.msc ∧
    (State.putScalar s a val).hbms = s.hbms ∧
    (State.putScalar s a val).bad = s.bad ∧
    (State.putScalar s a val).weak = s.weak ∧
    (State.putScalar s a val).lost = s.lost ∧
    (State.putScalar s a val).tlb = s.tlb ∧
    (State.putScalar s a val).net = s.net ∧
    (State.putScalar s a val).abufs = s.abufs ∧
    (State.putScalar s a val).jobs = s.jobs ∧
    (State.putScalar s a val).feet = s.feet ∧
    (State.putScalar s a val).shapes = s.shapes ∧
    (State.putScalar s a val).eqs = s.eqs ∧
    (State.putScalar s a val).insts = s.insts ∧
    (State.putScalar s a val).links = s.links ∧
    (State.putScalar s a val).hostAccs = s.hostAccs ∧
    (State.putScalar s a val).hostLines = s.hostLines ∧
    (State.putScalar s a val).mgmt = s.mgmt ∧
    (State.putScalar s a val).focus = s.focus ∧
    (State.putScalar s a val).agenda = s.agenda ∧
    (State.putScalar s a val).seq = s.seq ∧
    (∀ k, (State.putScalar s a val).block k = s.block k) ∧
    (∀ k, (State.putScalar s a val).launch k = s.launch k) ∧
    (∀ k, (State.putScalar s a val).core k = s.core k) := by
  (unfold State.putScalar; (try dsimp only); (repeat' split) <;> simp -implicitDefEqProofs (disch := (intros; first | (simp -implicitDefEqProofs [*]; done) | ((try dsimp only); (repeat' split) <;> (simp -implicitDefEqProofs (disch := (intros; (try dsimp only); (repeat' split) <;> (try (simp -implicitDefEqProofs [*]; done)))) [*]; done)) | skip)) [State.wave, State.block, State.launch, State.core])
@[simp] theorem State.putScalar_keepsW (s : State) (a : Nat) (val : DWord) (k : Nat) :
    ((State.putScalar s a val).wave k).block = (s.wave k).block ∧
    ((State.putScalar s a val).wave k).idx = (s.wave k).idx ∧
    ((State.putScalar s a val).wave k).exited = (s.wave k).exited ∧
    ((State.putScalar s a val).wave k).launchMask = (s.wave k).launchMask ∧
    ((State.putScalar s a val).wave k).pad = (s.wave k).pad ∧
    ((State.putScalar s a val).wave k).vregs = (s.wave k).vregs ∧
    ((State.putScalar s a val).wave k).pregs = (s.wave k).pregs ∧
    ((State.putScalar s a val).wave k).lastB = (s.wave k).lastB ∧
    ((State.putScalar s a val).wave k).spill = (s.wave k).spill ∧
    ((State.putScalar s a val).wave k).handler = (s.wave k).handler ∧
    ((State.putScalar s a val).wave k).xpc = (s.wave k).xpc ∧
    ((State.putScalar s a val).wave k).xmode = (s.wave k).xmode ∧
    ((State.putScalar s a val).wave k).xcause = (s.wave k).xcause ∧
    ((State.putScalar s a val).wave k).xlanes = (s.wave k).xlanes ∧
    ((State.putScalar s a val).wave k).xaddr = (s.wave k).xaddr ∧
    ((State.putScalar s a val).wave k).gexposed = (s.wave k).gexposed ∧
    ((State.putScalar s a val).wave k).mm = (s.wave k).mm ∧
    ((State.putScalar s a val).wave k).epoch = (s.wave k).epoch ∧
    ((State.putScalar s a val).wave k).tags = (s.wave k).tags ∧
    ((State.putScalar s a val).wave k).sfr = (s.wave k).sfr ∧
    ((State.putScalar s a val).wave k).arrived = (s.wave k).arrived ∧
    ((State.putScalar s a val).wave k).pend = (s.wave k).pend ∧
    ((State.putScalar s a val).wave k).lost = (s.wave k).lost ∧
    ((State.putScalar s a val).wave k).since = (s.wave k).since ∧
    ((State.putScalar s a val).wave k).jobs = (s.wave k).jobs ∧
    ((State.putScalar s a val).wave k).left = (s.wave k).left := by
  first
  | (unfold State.putScalar; (try dsimp only); (repeat' split) <;> simp -implicitDefEqProofs (disch := (intros; first | (simp -implicitDefEqProofs [*]; done) | ((try dsimp only); (repeat' split) <;> (simp -implicitDefEqProofs (disch := (intros; (try dsimp only); (repeat' split) <;> (try (simp -implicitDefEqProofs [*]; done)))) [*]; done)) | skip)) [State.updWave_at, apply_ite Wave.block, apply_ite Wave.idx, apply_ite Wave.exited, apply_ite Wave.launchMask, apply_ite Wave.pad, apply_ite Wave.sregs, apply_ite Wave.vregs, apply_ite Wave.pregs, apply_ite Wave.slotA, apply_ite Wave.slotB, apply_ite Wave.lastB, apply_ite Wave.spill, apply_ite Wave.handler, apply_ite Wave.xpc, apply_ite Wave.xmode, apply_ite Wave.xcause, apply_ite Wave.xlanes, apply_ite Wave.xaddr, apply_ite Wave.gexposed, apply_ite Wave.mm, apply_ite Wave.epoch, apply_ite Wave.tags, apply_ite Wave.sfr, apply_ite Wave.arrived, apply_ite Wave.region, apply_ite Wave.pend, apply_ite Wave.lost, apply_ite Wave.since, apply_ite Wave.jobs, apply_ite Wave.left])
  | (unfold State.putScalar; (try dsimp only); (repeat' split) <;> simp -implicitDefEqProofs (disch := (intros; first | (simp -implicitDefEqProofs [*]; done) | ((try dsimp only); (repeat' split) <;> (simp -implicitDefEqProofs (disch := (intros; (try dsimp only); (repeat' split) <;> (try (simp -implicitDefEqProofs [*]; done)))) [*]; done)) | skip)) [State.wave])
@[simp] theorem State.recordHistory_keeps (s : State) (x : Acc) (lanes : Mask) :
    (State.recordHistory s x lanes).waves = s.waves ∧
    (State.recordHistory s x lanes).blocks = s.blocks ∧
    (State.recordHistory s x lanes).launches = s.launches ∧
    (State.recordHistory s x lanes).mem = s.mem ∧
    (State.recordHistory s x lanes).array = s.array ∧
    (State.recordHistory s x lanes).hostMem = s.hostMem ∧
    (State.recordHistory s x lanes).peerMem = s.peerMem ∧
    (State.recordHistory s x lanes).registrant = s.registrant ∧
    (State.recordHistory s x lanes).claims = s.claims ∧
    (State.recordHistory s x lanes).cells = s.cells ∧
    (State.recordHistory s x lanes).regions = s.regions ∧
    (State.recordHistory s x lanes).rdc = s.rdc ∧
    (State.recordHistory s x lanes).l2 = s.l2 ∧
    (State.recordHistory s x lanes).msc = s.msc ∧
    (State.recordHistory s x lanes).hbms = s.hbms ∧
    (State.recordHistory s x lanes).bad = s.bad ∧
    (State.recordHistory s x lanes).weak = s.weak ∧
    (State.recordHistory s x lanes).lost = s.lost ∧
    (State.recordHistory s x lanes).tlb = s.tlb ∧
    (State.recordHistory s x lanes).accs = s.accs ∧
    (State.recordHistory s x lanes).net = s.net ∧
    (State.recordHistory s x lanes).abufs = s.abufs ∧
    (State.recordHistory s x lanes).jobs = s.jobs ∧
    (State.recordHistory s x lanes).feet = s.feet ∧
    (State.recordHistory s x lanes).shapes = s.shapes ∧
    (State.recordHistory s x lanes).eqs = s.eqs ∧
    (State.recordHistory s x lanes).insts = s.insts ∧
    (State.recordHistory s x lanes).links = s.links ∧
    (State.recordHistory s x lanes).hostAccs = s.hostAccs ∧
    (State.recordHistory s x lanes).hostLines = s.hostLines ∧
    (State.recordHistory s x lanes).mgmt = s.mgmt ∧
    (State.recordHistory s x lanes).focus = s.focus ∧
    (State.recordHistory s x lanes).agenda = s.agenda ∧
    (State.recordHistory s x lanes).seq = s.seq ∧
    (∀ k, (State.recordHistory s x lanes).wave k = s.wave k) ∧
    (∀ k, (State.recordHistory s x lanes).block k = s.block k) ∧
    (∀ k, (State.recordHistory s x lanes).launch k = s.launch k) := by
  (unfold State.recordHistory; (try dsimp only); (repeat' split) <;> simp -implicitDefEqProofs (disch := (intros; first | (simp -implicitDefEqProofs [*]; done) | ((try dsimp only); (repeat' split) <;> (simp -implicitDefEqProofs (disch := (intros; (try dsimp only); (repeat' split) <;> (try (simp -implicitDefEqProofs [*]; done)))) [*]; done)) | skip)) [State.wave, State.block, State.launch, State.core])
@[simp] theorem State.chargeLoad_keeps (s : State) (x : Acc) :
    (State.chargeLoad s x).waves = s.waves ∧
    (State.chargeLoad s x).launches = s.launches ∧
    (State.chargeLoad s x).mem = s.mem ∧
    (State.chargeLoad s x).array = s.array ∧
    (State.chargeLoad s x).hostMem = s.hostMem ∧
    (State.chargeLoad s x).peerMem = s.peerMem ∧
    (State.chargeLoad s x).registrant = s.registrant ∧
    (State.chargeLoad s x).claims = s.claims ∧
    (State.chargeLoad s x).cells = s.cells ∧
    (State.chargeLoad s x).regions = s.regions ∧
    (State.chargeLoad s x).rdc = s.rdc ∧
    (State.chargeLoad s x).l2 = s.l2 ∧
    (State.chargeLoad s x).msc = s.msc ∧
    (State.chargeLoad s x).hbms = s.hbms ∧
    (State.chargeLoad s x).bad = s.bad ∧
    (State.chargeLoad s x).weak = s.weak ∧
    (State.chargeLoad s x).lost = s.lost ∧
    (State.chargeLoad s x).tlb = s.tlb ∧
    (State.chargeLoad s x).accs = s.accs ∧
    (State.chargeLoad s x).net = s.net ∧
    (State.chargeLoad s x).abufs = s.abufs ∧
    (State.chargeLoad s x).jobs = s.jobs ∧
    (State.chargeLoad s x).feet = s.feet ∧
    (State.chargeLoad s x).shapes = s.shapes ∧
    (State.chargeLoad s x).eqs = s.eqs ∧
    (State.chargeLoad s x).insts = s.insts ∧
    (State.chargeLoad s x).links = s.links ∧
    (State.chargeLoad s x).hostAccs = s.hostAccs ∧
    (State.chargeLoad s x).hostLines = s.hostLines ∧
    (State.chargeLoad s x).mgmt = s.mgmt ∧
    (State.chargeLoad s x).focus = s.focus ∧
    (State.chargeLoad s x).agenda = s.agenda ∧
    (State.chargeLoad s x).seq = s.seq ∧
    (∀ k, (State.chargeLoad s x).wave k = s.wave k) ∧
    (∀ k, (State.chargeLoad s x).launch k = s.launch k) := by
  (unfold State.chargeLoad; (try dsimp only); (repeat' split) <;> simp -implicitDefEqProofs (disch := (intros; first | (simp -implicitDefEqProofs [*]; done) | ((try dsimp only); (repeat' split) <;> (simp -implicitDefEqProofs (disch := (intros; (try dsimp only); (repeat' split) <;> (try (simp -implicitDefEqProofs [*]; done)))) [*]; done)) | skip)) [State.wave, State.block, State.launch, State.core])
@[simp] theorem State.chargeLoad_keepsB (s : State) (x : Acc) (k : Nat) :
    ((State.chargeLoad s x).block k).launch = (s.block k).launch ∧
    ((State.chargeLoad s x).block k).idx = (s.block k).idx ∧
    ((State.chargeLoad s x).block k).st = (s.block k).st ∧
    ((State.chargeLoad s x).block k).lcore = (s.block k).lcore ∧
    ((State.chargeLoad s x).block k).pcore = (s.block k).pcore ∧
    ((State.chargeLoad s x).block k).frame = (s.block k).frame ∧
    ((State.chargeLoad s x).block k).waves = (s.block k).waves ∧
    ((State.chargeLoad s x).block k).pageWait = (s.block k).pageWait ∧
    ((State.chargeLoad s x).block k).scratch = (s.block k).scratch ∧
    ((State.chargeLoad s x).block k).sclaims = (s.block k).sclaims ∧
    ((State.chargeLoad s x).block k).lim = (s.block k).lim ∧
    ((State.chargeLoad s x).block k).flights = (s.block k).flights ∧
    ((State.chargeLoad s x).block k).tabs = (s.block k).tabs ∧
    ((State.chargeLoad s x).block k).accs = (s.block k).accs ∧
    ((State.chargeLoad s x).block k).feeds = (s.block k).feeds ∧
    ((State.chargeLoad s x).block k).preds = (s.block k).preds ∧
    ((State.chargeLoad s x).block k).streams = (s.block k).streams ∧
    ((State.chargeLoad s x).block k).sketch = (s.block k).sketch ∧
    ((State.chargeLoad s x).block k).seqq = (s.block k).seqq ∧
    ((State.chargeLoad s x).block k).bars = (s.block k).bars ∧
    ((State.chargeLoad s x).block k).issued = (s.block k).issued ∧
    ((State.chargeLoad s x).block k).since = (s.block k).since ∧
    ((State.chargeLoad s x).block k).discarded = (s.block k).discarded := by
  first
  | (unfold State.chargeLoad; (try dsimp only); (repeat' split) <;> simp -implicitDefEqProofs (disch := (intros; first | (simp -implicitDefEqProofs [*]; done) | ((try dsimp only); (repeat' split) <;> (simp -implicitDefEqProofs (disch := (intros; (try dsimp only); (repeat' split) <;> (try (simp -implicitDefEqProofs [*]; done)))) [*]; done)) | skip)) [State.updBlock_at, apply_ite Block.launch, apply_ite Block.idx, apply_ite Block.st, apply_ite Block.lcore, apply_ite Block.pcore, apply_ite Block.frame, apply_ite Block.waves, apply_ite Block.pageWait, apply_ite Block.scratch, apply_ite Block.sclaims, apply_ite Block.lim, apply_ite Block.flights, apply_ite Block.tabs, apply_ite Block.accs, apply_ite Block.feeds, apply_ite Block.preds, apply_ite Block.streams, apply_ite Block.sketch, apply_ite Block.seqq, apply_ite Block.bars, apply_ite Block.share, apply_ite Block.issued, apply_ite Block.since, apply_ite Block.discarded])
  | (unfold State.chargeLoad; (try dsimp only); (repeat' split) <;> simp -implicitDefEqProofs (disch := (intros; first | (simp -implicitDefEqProofs [*]; done) | ((try dsimp only); (repeat' split) <;> (simp -implicitDefEqProofs (disch := (intros; (try dsimp only); (repeat' split) <;> (try (simp -implicitDefEqProofs [*]; done)))) [*]; done)) | skip)) [State.block])
@[simp] theorem State.retire_keeps (s : State) (a : Nat) :
    (State.retire s a).waves = s.waves ∧
    (State.retire s a).blocks = s.blocks ∧
    (State.retire s a).launches = s.launches ∧
    (State.retire s a).cores = s.cores ∧
    (State.retire s a).mem = s.mem ∧
    (State.retire s a).array = s.array ∧
    (State.retire s a).hostMem = s.hostMem ∧
    (State.retire s a).peerMem = s.peerMem ∧
    (State.retire s a).registrant = s.registrant ∧
    (State.retire s a).claims = s.claims ∧
    (State.retire s a).cells = s.cells ∧
    (State.retire s a).regions = s.regions ∧
    (State.retire s a).rdc = s.rdc ∧
    (State.retire s a).l2 = s.l2 ∧
    (State.retire s a).msc = s.msc ∧
    (State.retire s a).hbms = s.hbms ∧
    (State.retire s a).bad = s.bad ∧
    (State.retire s a).weak = s.weak ∧
    (State.retire s a).lost = s.lost ∧
    (State.retire s a).tlb = s.tlb ∧
    (State.retire s a).abufs = s.abufs ∧
    (State.retire s a).jobs = s.jobs ∧
    (State.retire s a).feet = s.feet ∧
    (State.retire s a).shapes = s.shapes ∧
    (State.retire s a).eqs = s.eqs ∧
    (State.retire s a).insts = s.insts ∧
    (State.retire s a).links = s.links ∧
    (State.retire s a).hostAccs = s.hostAccs ∧
    (State.retire s a).hostLines = s.hostLines ∧
    (State.retire s a).mgmt = s.mgmt ∧
    (State.retire s a).focus = s.focus ∧
    (State.retire s a).agenda = s.agenda ∧
    (State.retire s a).seq = s.seq ∧
    (∀ k, (State.retire s a).wave k = s.wave k) ∧
    (∀ k, (State.retire s a).block k = s.block k) ∧
    (∀ k, (State.retire s a).launch k = s.launch k) ∧
    (∀ k, (State.retire s a).core k = s.core k) := by
  (unfold State.retire; (try dsimp only); (repeat' split) <;> simp -implicitDefEqProofs (disch := (intros; first | (simp -implicitDefEqProofs [*]; done) | ((try dsimp only); (repeat' split) <;> (simp -implicitDefEqProofs (disch := (intros; (try dsimp only); (repeat' split) <;> (try (simp -implicitDefEqProofs [*]; done)))) [*]; done)) | skip)) [State.wave, State.block, State.launch, State.core])
@[simp] theorem State.reap_keeps (s : State) (a : Nat) :
    (State.reap s a).waves = s.waves ∧
    (State.reap s a).blocks = s.blocks ∧
    (State.reap s a).launches = s.launches ∧
    (State.reap s a).cores = s.cores ∧
    (State.reap s a).mem = s.mem ∧
    (State.reap s a).array = s.array ∧
    (State.reap s a).hostMem = s.hostMem ∧
    (State.reap s a).peerMem = s.peerMem ∧
    (State.reap s a).registrant = s.registrant ∧
    (State.reap s a).claims = s.claims ∧
    (State.reap s a).cells = s.cells ∧
    (State.reap s a).regions = s.regions ∧
    (State.reap s a).rdc = s.rdc ∧
    (State.reap s a).l2 = s.l2 ∧
    (State.reap s a).msc = s.msc ∧
    (State.reap s a).hbms = s.hbms ∧
    (State.reap s a).bad = s.bad ∧
    (State.reap s a).weak = s.weak ∧
    (State.reap s a).lost = s.lost ∧
    (State.reap s a).tlb = s.tlb ∧
    (State.reap s a).abufs = s.abufs ∧
    (State.reap s a).jobs = s.jobs ∧
    (State.reap s a).feet = s.feet ∧
    (State.reap s a).shapes = s.shapes ∧
    (State.reap s a).eqs = s.eqs ∧
    (State.reap s a).insts = s.insts ∧
    (State.reap s a).links = s.links ∧
    (State.reap s a).hostAccs = s.hostAccs ∧
    (State.reap s a).hostLines = s.hostLines ∧
    (State.reap s a).mgmt = s.mgmt ∧
    (State.reap s a).focus = s.focus ∧
    (State.reap s a).agenda = s.agenda ∧
    (State.reap s a).seq = s.seq ∧
    (∀ k, (State.reap s a).wave k = s.wave k) ∧
    (∀ k, (State.reap s a).block k = s.block k) ∧
    (∀ k, (State.reap s a).launch k = s.launch k) ∧
    (∀ k, (State.reap s a).core k = s.core k) := by
  (unfold State.reap; (try dsimp only); (repeat' split) <;> simp -implicitDefEqProofs (disch := (intros; first | (simp -implicitDefEqProofs [*]; done) | ((try dsimp only); (repeat' split) <;> (simp -implicitDefEqProofs (disch := (intros; (try dsimp only); (repeat' split) <;> (try (simp -implicitDefEqProofs [*]; done)))) [*]; done)) | skip)) [State.wave, State.block, State.launch, State.core])
@[simp] theorem State.fall_keeps (s : State) (a : Nat) :
    (State.fall s a).waves = s.waves ∧
    (State.fall s a).launches = s.launches ∧
    (State.fall s a).cores = s.cores ∧
    (State.fall s a).mem = s.mem ∧
    (State.fall s a).array = s.array ∧
    (State.fall s a).hostMem = s.hostMem ∧
    (State.fall s a).peerMem = s.peerMem ∧
    (State.fall s a).registrant = s.registrant ∧
    (State.fall s a).claims = s.claims ∧
    (State.fall s a).cells = s.cells ∧
    (State.fall s a).regions = s.regions ∧
    (State.fall s a).rdc = s.rdc ∧
    (State.fall s a).l2 = s.l2 ∧
    (State.fall s a).msc = s.msc ∧
    (State.fall s a).hbms = s.hbms ∧
    (State.fall s a).bad = s.bad ∧
    (State.fall s a).weak = s.weak ∧
    (State.fall s a).lost = s.lost ∧
    (State.fall s a).tlb = s.tlb ∧
    (State.fall s a).net = s.net ∧
    (State.fall s a).abufs = s.abufs ∧
    (State.fall s a).jobs = s.jobs ∧
    (State.fall s a).feet = s.feet ∧
    (State.fall s a).shapes = s.shapes ∧
    (State.fall s a).eqs = s.eqs ∧
    (State.fall s a).insts = s.insts ∧
    (State.fall s a).links = s.links ∧
    (State.fall s a).hostAccs = s.hostAccs ∧
    (State.fall s a).hostLines = s.hostLines ∧
    (State.fall s a).mgmt = s.mgmt ∧
    (State.fall s a).focus = s.focus ∧
    (State.fall s a).agenda = s.agenda ∧
    (State.fall s a).seq = s.seq ∧
    (∀ k, (State.fall s a).wave k = s.wave k) ∧
    (∀ k, (State.fall s a).launch k = s.launch k) ∧
    (∀ k, (State.fall s a).core k = s.core k) := by
  (unfold State.fall; (try dsimp only); (repeat' split) <;> simp -implicitDefEqProofs (disch := (intros; first | (simp -implicitDefEqProofs [*]; done) | ((try dsimp only); (repeat' split) <;> (simp -implicitDefEqProofs (disch := (intros; (try dsimp only); (repeat' split) <;> (try (simp -implicitDefEqProofs [*]; done)))) [*]; done)) | skip)) [State.wave, State.block, State.launch, State.core])
@[simp] theorem State.fall_keepsB (s : State) (a : Nat) (k : Nat) :
    ((State.fall s a).block k).launch = (s.block k).launch ∧
    ((State.fall s a).block k).idx = (s.block k).idx ∧
    ((State.fall s a).block k).st = (s.block k).st ∧
    ((State.fall s a).block k).lcore = (s.block k).lcore ∧
    ((State.fall s a).block k).pcore = (s.block k).pcore ∧
    ((State.fall s a).block k).frame = (s.block k).frame ∧
    ((State.fall s a).block k).waves = (s.block k).waves ∧
    ((State.fall s a).block k).pageWait = (s.block k).pageWait ∧
    ((State.fall s a).block k).scratch = (s.block k).scratch ∧
    ((State.fall s a).block k).sclaims = (s.block k).sclaims ∧
    ((State.fall s a).block k).lim = (s.block k).lim ∧
    ((State.fall s a).block k).tabs = (s.block k).tabs ∧
    ((State.fall s a).block k).accs = (s.block k).accs ∧
    ((State.fall s a).block k).feeds = (s.block k).feeds ∧
    ((State.fall s a).block k).preds = (s.block k).preds ∧
    ((State.fall s a).block k).streams = (s.block k).streams ∧
    ((State.fall s a).block k).sketch = (s.block k).sketch ∧
    ((State.fall s a).block k).seqq = (s.block k).seqq ∧
    ((State.fall s a).block k).bars = (s.block k).bars ∧
    ((State.fall s a).block k).share = (s.block k).share ∧
    ((State.fall s a).block k).issued = (s.block k).issued ∧
    ((State.fall s a).block k).since = (s.block k).since ∧
    ((State.fall s a).block k).discarded = (s.block k).discarded := by
  first
  | (unfold State.fall; (try dsimp only); (repeat' split) <;> simp -implicitDefEqProofs (disch := (intros; first | (simp -implicitDefEqProofs [*]; done) | ((try dsimp only); (repeat' split) <;> (simp -implicitDefEqProofs (disch := (intros; (try dsimp only); (repeat' split) <;> (try (simp -implicitDefEqProofs [*]; done)))) [*]; done)) | skip)) [State.updBlock_at, apply_ite Block.launch, apply_ite Block.idx, apply_ite Block.st, apply_ite Block.lcore, apply_ite Block.pcore, apply_ite Block.frame, apply_ite Block.waves, apply_ite Block.pageWait, apply_ite Block.scratch, apply_ite Block.sclaims, apply_ite Block.lim, apply_ite Block.flights, apply_ite Block.tabs, apply_ite Block.accs, apply_ite Block.feeds, apply_ite Block.preds, apply_ite Block.streams, apply_ite Block.sketch, apply_ite Block.seqq, apply_ite Block.bars, apply_ite Block.share, apply_ite Block.issued, apply_ite Block.since, apply_ite Block.discarded])
  | (unfold State.fall; (try dsimp only); (repeat' split) <;> simp -implicitDefEqProofs (disch := (intros; first | (simp -implicitDefEqProofs [*]; done) | ((try dsimp only); (repeat' split) <;> (simp -implicitDefEqProofs (disch := (intros; (try dsimp only); (repeat' split) <;> (try (simp -implicitDefEqProofs [*]; done)))) [*]; done)) | skip)) [State.block])
end Sys2Proof.Machine
end

