-- ==== Sys2Proof/Laws/KeepsSettle.lean ====
section
/-! SUPPORT. What consuming truths, settling and releasing leave unchanged. One lemma per operation, over the fields of State; a field that is not named may change. -/

set_option linter.unusedSimpArgs false

namespace Sys2Proof.Machine
open Sys2Proof
@[simp] theorem State.sendCompare_keeps (s : State) (t : GTag) :
    (State.sendCompare s t).waves = s.waves ∧
    (State.sendCompare s t).blocks = s.blocks ∧
    (State.sendCompare s t).launches = s.launches ∧
    (State.sendCompare s t).cores = s.cores ∧
    (State.sendCompare s t).mem = s.mem ∧
    (State.sendCompare s t).array = s.array ∧
    (State.sendCompare s t).hostMem = s.hostMem ∧
    (State.sendCompare s t).peerMem = s.peerMem ∧
    (State.sendCompare s t).registrant = s.registrant ∧
    (State.sendCompare s t).claims = s.claims ∧
    (State.sendCompare s t).cells = s.cells ∧
    (State.sendCompare s t).regions = s.regions ∧
    (State.sendCompare s t).rdc = s.rdc ∧
    (State.sendCompare s t).l2 = s.l2 ∧
    (State.sendCompare s t).msc = s.msc ∧
    (State.sendCompare s t).hbms = s.hbms ∧
    (State.sendCompare s t).bad = s.bad ∧
    (State.sendCompare s t).weak = s.weak ∧
    (State.sendCompare s t).lost = s.lost ∧
    (State.sendCompare s t).tlb = s.tlb ∧
    (State.sendCompare s t).abufs = s.abufs ∧
    (State.sendCompare s t).jobs = s.jobs ∧
    (State.sendCompare s t).feet = s.feet ∧
    (State.sendCompare s t).shapes = s.shapes ∧
    (State.sendCompare s t).eqs = s.eqs ∧
    (State.sendCompare s t).insts = s.insts ∧
    (State.sendCompare s t).links = s.links ∧
    (State.sendCompare s t).hostAccs = s.hostAccs ∧
    (State.sendCompare s t).hostLines = s.hostLines ∧
    (State.sendCompare s t).mgmt = s.mgmt ∧
    (State.sendCompare s t).focus = s.focus ∧
    (State.sendCompare s t).agenda = s.agenda ∧
    (∀ k, (State.sendCompare s t).wave k = s.wave k) ∧
    (∀ k, (State.sendCompare s t).block k = s.block k) ∧
    (∀ k, (State.sendCompare s t).launch k = s.launch k) ∧
    (∀ k, (State.sendCompare s t).core k = s.core k) := by
  (unfold State.sendCompare; (try dsimp only); (repeat' split) <;> simp -implicitDefEqProofs (disch := (intros; first | (simp -implicitDefEqProofs [*]; done) | ((try dsimp only); (repeat' split) <;> (simp -implicitDefEqProofs (disch := (intros; (try dsimp only); (repeat' split) <;> (try (simp -implicitDefEqProofs [*]; done)))) [*]; done)) | skip)) [State.wave, State.block, State.launch, State.core])
@[simp] theorem State.recordTruth_keeps (s : State) (t : GTag) :
    (State.recordTruth s t).waves = s.waves ∧
    (State.recordTruth s t).blocks = s.blocks ∧
    (State.recordTruth s t).launches = s.launches ∧
    (State.recordTruth s t).mem = s.mem ∧
    (State.recordTruth s t).array = s.array ∧
    (State.recordTruth s t).hostMem = s.hostMem ∧
    (State.recordTruth s t).peerMem = s.peerMem ∧
    (State.recordTruth s t).registrant = s.registrant ∧
    (State.recordTruth s t).claims = s.claims ∧
    (State.recordTruth s t).cells = s.cells ∧
    (State.recordTruth s t).regions = s.regions ∧
    (State.recordTruth s t).rdc = s.rdc ∧
    (State.recordTruth s t).l2 = s.l2 ∧
    (State.recordTruth s t).msc = s.msc ∧
    (State.recordTruth s t).hbms = s.hbms ∧
    (State.recordTruth s t).bad = s.bad ∧
    (State.recordTruth s t).weak = s.weak ∧
    (State.recordTruth s t).lost = s.lost ∧
    (State.recordTruth s t).tlb = s.tlb ∧
    (State.recordTruth s t).accs = s.accs ∧
    (State.recordTruth s t).net = s.net ∧
    (State.recordTruth s t).abufs = s.abufs ∧
    (State.recordTruth s t).jobs = s.jobs ∧
    (State.recordTruth s t).feet = s.feet ∧
    (State.recordTruth s t).shapes = s.shapes ∧
    (State.recordTruth s t).eqs = s.eqs ∧
    (State.recordTruth s t).insts = s.insts ∧
    (State.recordTruth s t).links = s.links ∧
    (State.recordTruth s t).hostAccs = s.hostAccs ∧
    (State.recordTruth s t).hostLines = s.hostLines ∧
    (State.recordTruth s t).mgmt = s.mgmt ∧
    (State.recordTruth s t).focus = s.focus ∧
    (State.recordTruth s t).agenda = s.agenda ∧
    (State.recordTruth s t).seq = s.seq ∧
    (∀ k, (State.recordTruth s t).wave k = s.wave k) ∧
    (∀ k, (State.recordTruth s t).block k = s.block k) ∧
    (∀ k, (State.recordTruth s t).launch k = s.launch k) := by
  (unfold State.recordTruth; (try dsimp only); (repeat' split) <;> simp -implicitDefEqProofs (disch := (intros; first | (simp -implicitDefEqProofs [*]; done) | ((try dsimp only); (repeat' split) <;> (simp -implicitDefEqProofs (disch := (intros; (try dsimp only); (repeat' split) <;> (try (simp -implicitDefEqProofs [*]; done)))) [*]; done)) | skip)) [State.wave, State.block, State.launch, State.core])
@[simp] theorem State.takeTruths_keeps (s : State) (cs : List (Nat × Nat)) :
    (State.takeTruths s cs).blocks = s.blocks ∧
    (State.takeTruths s cs).launches = s.launches ∧
    (State.takeTruths s cs).mem = s.mem ∧
    (State.takeTruths s cs).array = s.array ∧
    (State.takeTruths s cs).hostMem = s.hostMem ∧
    (State.takeTruths s cs).peerMem = s.peerMem ∧
    (State.takeTruths s cs).registrant = s.registrant ∧
    (State.takeTruths s cs).claims = s.claims ∧
    (State.takeTruths s cs).cells = s.cells ∧
    (State.takeTruths s cs).regions = s.regions ∧
    (State.takeTruths s cs).rdc = s.rdc ∧
    (State.takeTruths s cs).l2 = s.l2 ∧
    (State.takeTruths s cs).msc = s.msc ∧
    (State.takeTruths s cs).hbms = s.hbms ∧
    (State.takeTruths s cs).bad = s.bad ∧
    (State.takeTruths s cs).weak = s.weak ∧
    (State.takeTruths s cs).lost = s.lost ∧
    (State.takeTruths s cs).tlb = s.tlb ∧
    (State.takeTruths s cs).abufs = s.abufs ∧
    (State.takeTruths s cs).jobs = s.jobs ∧
    (State.takeTruths s cs).feet = s.feet ∧
    (State.takeTruths s cs).shapes = s.shapes ∧
    (State.takeTruths s cs).eqs = s.eqs ∧
    (State.takeTruths s cs).insts = s.insts ∧
    (State.takeTruths s cs).links = s.links ∧
    (State.takeTruths s cs).hostAccs = s.hostAccs ∧
    (State.takeTruths s cs).hostLines = s.hostLines ∧
    (State.takeTruths s cs).mgmt = s.mgmt ∧
    (State.takeTruths s cs).focus = s.focus ∧
    (State.takeTruths s cs).agenda = s.agenda ∧
    (State.takeTruths s cs).seq = s.seq ∧
    (∀ k, (State.takeTruths s cs).block k = s.block k) ∧
    (∀ k, (State.takeTruths s cs).launch k = s.launch k) := by
  (unfold State.takeTruths; (try dsimp only); (repeat' split) <;> simp -implicitDefEqProofs (disch := (intros; first | (simp -implicitDefEqProofs [*]; done) | ((try dsimp only); (repeat' split) <;> (simp -implicitDefEqProofs (disch := (intros; (try dsimp only); (repeat' split) <;> (try (simp -implicitDefEqProofs [*]; done)))) [*]; done)) | skip)) [State.wave, State.block, State.launch, State.core])
@[simp] theorem State.freeTags_keeps (s : State) (w : Nat) :
    (State.freeTags s w).blocks = s.blocks ∧
    (State.freeTags s w).launches = s.launches ∧
    (State.freeTags s w).cores = s.cores ∧
    (State.freeTags s w).mem = s.mem ∧
    (State.freeTags s w).array = s.array ∧
    (State.freeTags s w).hostMem = s.hostMem ∧
    (State.freeTags s w).peerMem = s.peerMem ∧
    (State.freeTags s w).registrant = s.registrant ∧
    (State.freeTags s w).claims = s.claims ∧
    (State.freeTags s w).cells = s.cells ∧
    (State.freeTags s w).regions = s.regions ∧
    (State.freeTags s w).rdc = s.rdc ∧
    (State.freeTags s w).l2 = s.l2 ∧
    (State.freeTags s w).msc = s.msc ∧
    (State.freeTags s w).hbms = s.hbms ∧
    (State.freeTags s w).bad = s.bad ∧
    (State.freeTags s w).weak = s.weak ∧
    (State.freeTags s w).lost = s.lost ∧
    (State.freeTags s w).tlb = s.tlb ∧
    (State.freeTags s w).abufs = s.abufs ∧
    (State.freeTags s w).jobs = s.jobs ∧
    (State.freeTags s w).feet = s.feet ∧
    (State.freeTags s w).shapes = s.shapes ∧
    (State.freeTags s w).eqs = s.eqs ∧
    (State.freeTags s w).insts = s.insts ∧
    (State.freeTags s w).links = s.links ∧
    (State.freeTags s w).hostAccs = s.hostAccs ∧
    (State.freeTags s w).hostLines = s.hostLines ∧
    (State.freeTags s w).mgmt = s.mgmt ∧
    (State.freeTags s w).focus = s.focus ∧
    (State.freeTags s w).agenda = s.agenda ∧
    (State.freeTags s w).seq = s.seq ∧
    (∀ k, (State.freeTags s w).block k = s.block k) ∧
    (∀ k, (State.freeTags s w).launch k = s.launch k) ∧
    (∀ k, (State.freeTags s w).core k = s.core k) := by
  (unfold State.freeTags; (try dsimp only); (repeat' split) <;> simp -implicitDefEqProofs (disch := (intros; first | (simp -implicitDefEqProofs [*]; done) | ((try dsimp only); (repeat' split) <;> (simp -implicitDefEqProofs (disch := (intros; (try dsimp only); (repeat' split) <;> (try (simp -implicitDefEqProofs [*]; done)))) [*]; done)) | skip)) [State.wave, State.block, State.launch, State.core])
@[simp] theorem State.freeTags_keepsW (s : State) (w : Nat) (k : Nat) :
    ((State.freeTags s w).wave k).block = (s.wave k).block ∧
    ((State.freeTags s w).wave k).idx = (s.wave k).idx ∧
    ((State.freeTags s w).wave k).exited = (s.wave k).exited ∧
    ((State.freeTags s w).wave k).launchMask = (s.wave k).launchMask ∧
    ((State.freeTags s w).wave k).pad = (s.wave k).pad ∧
    ((State.freeTags s w).wave k).sregs = (s.wave k).sregs ∧
    ((State.freeTags s w).wave k).vregs = (s.wave k).vregs ∧
    ((State.freeTags s w).wave k).pregs = (s.wave k).pregs ∧
    ((State.freeTags s w).wave k).slotA = (s.wave k).slotA ∧
    ((State.freeTags s w).wave k).slotB = (s.wave k).slotB ∧
    ((State.freeTags s w).wave k).lastB = (s.wave k).lastB ∧
    ((State.freeTags s w).wave k).spill = (s.wave k).spill ∧
    ((State.freeTags s w).wave k).handler = (s.wave k).handler ∧
    ((State.freeTags s w).wave k).xpc = (s.wave k).xpc ∧
    ((State.freeTags s w).wave k).xmode = (s.wave k).xmode ∧
    ((State.freeTags s w).wave k).xcause = (s.wave k).xcause ∧
    ((State.freeTags s w).wave k).xlanes = (s.wave k).xlanes ∧
    ((State.freeTags s w).wave k).xaddr = (s.wave k).xaddr ∧
    ((State.freeTags s w).wave k).gexposed = (s.wave k).gexposed ∧
    ((State.freeTags s w).wave k).mm = (s.wave k).mm ∧
    ((State.freeTags s w).wave k).epoch = (s.wave k).epoch ∧
    ((State.freeTags s w).wave k).sfr = (s.wave k).sfr ∧
    ((State.freeTags s w).wave k).arrived = (s.wave k).arrived ∧
    ((State.freeTags s w).wave k).region = (s.wave k).region ∧
    ((State.freeTags s w).wave k).pend = (s.wave k).pend ∧
    ((State.freeTags s w).wave k).lost = (s.wave k).lost ∧
    ((State.freeTags s w).wave k).since = (s.wave k).since ∧
    ((State.freeTags s w).wave k).jobs = (s.wave k).jobs ∧
    ((State.freeTags s w).wave k).left = (s.wave k).left := by
  first
  | (unfold State.freeTags; (try dsimp only); (repeat' split) <;> simp -implicitDefEqProofs (disch := (intros; first | (simp -implicitDefEqProofs [*]; done) | ((try dsimp only); (repeat' split) <;> (simp -implicitDefEqProofs (disch := (intros; (try dsimp only); (repeat' split) <;> (try (simp -implicitDefEqProofs [*]; done)))) [*]; done)) | skip)) [State.updWave_at, apply_ite Wave.block, apply_ite Wave.idx, apply_ite Wave.exited, apply_ite Wave.launchMask, apply_ite Wave.pad, apply_ite Wave.sregs, apply_ite Wave.vregs, apply_ite Wave.pregs, apply_ite Wave.slotA, apply_ite Wave.slotB, apply_ite Wave.lastB, apply_ite Wave.spill, apply_ite Wave.handler, apply_ite Wave.xpc, apply_ite Wave.xmode, apply_ite Wave.xcause, apply_ite Wave.xlanes, apply_ite Wave.xaddr, apply_ite Wave.gexposed, apply_ite Wave.mm, apply_ite Wave.epoch, apply_ite Wave.tags, apply_ite Wave.sfr, apply_ite Wave.arrived, apply_ite Wave.region, apply_ite Wave.pend, apply_ite Wave.lost, apply_ite Wave.since, apply_ite Wave.jobs, apply_ite Wave.left])
  | (unfold State.freeTags; (try dsimp only); (repeat' split) <;> simp -implicitDefEqProofs (disch := (intros; first | (simp -implicitDefEqProofs [*]; done) | ((try dsimp only); (repeat' split) <;> (simp -implicitDefEqProofs (disch := (intros; (try dsimp only); (repeat' split) <;> (try (simp -implicitDefEqProofs [*]; done)))) [*]; done)) | skip)) [State.wave])
@[simp] theorem State.acquireAt_keeps (s : State) (level : Nat) :
    (State.acquireAt s level).waves = s.waves ∧
    (State.acquireAt s level).blocks = s.blocks ∧
    (State.acquireAt s level).launches = s.launches ∧
    (State.acquireAt s level).mem = s.mem ∧
    (State.acquireAt s level).array = s.array ∧
    (State.acquireAt s level).hostMem = s.hostMem ∧
    (State.acquireAt s level).peerMem = s.peerMem ∧
    (State.acquireAt s level).registrant = s.registrant ∧
    (State.acquireAt s level).claims = s.claims ∧
    (State.acquireAt s level).cells = s.cells ∧
    (State.acquireAt s level).regions = s.regions ∧
    (State.acquireAt s level).rdc = s.rdc ∧
    (State.acquireAt s level).l2 = s.l2 ∧
    (State.acquireAt s level).msc = s.msc ∧
    (State.acquireAt s level).hbms = s.hbms ∧
    (State.acquireAt s level).bad = s.bad ∧
    (State.acquireAt s level).weak = s.weak ∧
    (State.acquireAt s level).lost = s.lost ∧
    (State.acquireAt s level).tlb = s.tlb ∧
    (State.acquireAt s level).accs = s.accs ∧
    (State.acquireAt s level).net = s.net ∧
    (State.acquireAt s level).abufs = s.abufs ∧
    (State.acquireAt s level).jobs = s.jobs ∧
    (State.acquireAt s level).feet = s.feet ∧
    (State.acquireAt s level).shapes = s.shapes ∧
    (State.acquireAt s level).eqs = s.eqs ∧
    (State.acquireAt s level).insts = s.insts ∧
    (State.acquireAt s level).links = s.links ∧
    (State.acquireAt s level).hostAccs = s.hostAccs ∧
    (State.acquireAt s level).hostLines = s.hostLines ∧
    (State.acquireAt s level).mgmt = s.mgmt ∧
    (State.acquireAt s level).focus = s.focus ∧
    (State.acquireAt s level).agenda = s.agenda ∧
    (State.acquireAt s level).seq = s.seq ∧
    (∀ k, (State.acquireAt s level).wave k = s.wave k) ∧
    (∀ k, (State.acquireAt s level).block k = s.block k) ∧
    (∀ k, (State.acquireAt s level).launch k = s.launch k) := by
  (unfold State.acquireAt; (try dsimp only); (repeat' split) <;> simp -implicitDefEqProofs (disch := (intros; first | (simp -implicitDefEqProofs [*]; done) | ((try dsimp only); (repeat' split) <;> (simp -implicitDefEqProofs (disch := (intros; (try dsimp only); (repeat' split) <;> (try (simp -implicitDefEqProofs [*]; done)))) [*]; done)) | skip)) [State.wave, State.block, State.launch, State.core])
end Sys2Proof.Machine
end

