-- ==== Sys2Proof/Laws/Mem.lean ====
section
/-! SUPPORT. The laws of memory: every write keeps the canonical form, a read after a write gives what was written, and every other byte reads as before. -/

namespace Sys2Proof.Machine

/-! ## Below the first address -/

/-- A canonical list reads as empty below its lower bound. -/
theorem Mem.byte_below {m : Mem} {lo a : Nat} (h : Mem.wfFrom (some lo) m = true) (ha : a ≤ lo) : m.byte a = emptyByte := by
  induction m generalizing lo with
  | nil => rfl
  | cons p t ih =>
    obtain ⟨x, b⟩ := p
    simp only [Mem.wfFrom, Bool.and_eq_true, decide_eq_true_eq] at h
    rw [Mem.byte, if_neg (by omega)]
    exact ih h.2 (by omega)

/-- A canonical list above a bound is canonical above every lower one. -/
theorem Mem.wfFrom_mono {m : Mem} {lo hi : Nat} (h : Mem.wfFrom (some hi) m = true) (hl : lo ≤ hi) : Mem.wfFrom (some lo) m = true := by
  cases m with
  | nil => rfl
  | cons p t =>
    obtain ⟨x, b⟩ := p
    simp only [Mem.wfFrom, Bool.and_eq_true, decide_eq_true_eq] at h ⊢
    exact ⟨⟨by omega, h.1.2⟩, h.2⟩

theorem Mem.wfFrom_none {m : Mem} {lo : Nat} (h : Mem.wfFrom (some lo) m = true) : m.wf = true := by
  cases m with
  | nil => rfl
  | cons p t =>
    simp only [Mem.wf, Mem.wfFrom, Bool.and_eq_true] at h ⊢
    exact ⟨⟨trivial, h.1.2⟩, h.2⟩

/-! ## One byte -/

theorem Mem.put_wfFrom {m : Mem} {lo a : Nat} (b : Byte) (h : Mem.wfFrom (some lo) m = true) (ha : lo < a) :
    Mem.wfFrom (some lo) (m.put a b) = true := by
  induction m generalizing lo with
  | nil => by_cases hb : b = emptyByte <;> simp [Mem.put, Mem.wfFrom, hb, ha]
  | cons p t ih =>
    obtain ⟨x, c⟩ := p
    simp only [Mem.wfFrom, Bool.and_eq_true, decide_eq_true_eq] at h
    obtain ⟨⟨hx, hc⟩, ht⟩ := h
    unfold Mem.put
    split
    · split
      · simp [Mem.wfFrom, hx, ht]; simpa using hc
      · rename_i hax hb
        simp only [Mem.wfFrom, Bool.and_eq_true, decide_eq_true_eq]
        exact ⟨⟨ha, by simpa using hb⟩, ⟨hax, hc⟩, ht⟩
    · split
      · split
        · exact Mem.wfFrom_mono ht (by omega)
        · rename_i hxa hb
          subst hxa
          simp only [Mem.wfFrom, Bool.and_eq_true, decide_eq_true_eq]
          exact ⟨⟨ha, by simpa using hb⟩, ht⟩
      · simp only [Mem.wfFrom, Bool.and_eq_true, decide_eq_true_eq]
        exact ⟨⟨hx, hc⟩, ih ht (by omega)⟩

/-- A write of one byte keeps the canonical form. -/
theorem Mem.put_wf {m : Mem} (a : Nat) (b : Byte) (h : m.wf = true) : (m.put a b).wf = true := by
  cases m with
  | nil => by_cases hb : b = emptyByte <;> simp [Mem.put, Mem.wf, Mem.wfFrom, hb]
  | cons p t =>
    obtain ⟨x, c⟩ := p
    simp only [Mem.wf, Mem.wfFrom, Bool.and_eq_true] at h
    obtain ⟨⟨-, hc⟩, ht⟩ := h
    unfold Mem.put
    split
    · split
      · simp only [Mem.wf, Mem.wfFrom, Bool.and_eq_true]; exact ⟨⟨trivial, hc⟩, ht⟩
      · rename_i hax hb
        simp only [Mem.wf, Mem.wfFrom, Bool.and_eq_true, decide_eq_true_eq]
        exact ⟨⟨trivial, by simpa using hb⟩, ⟨hax, hc⟩, ht⟩
    · split
      · split
        · exact Mem.wfFrom_none ht
        · rename_i hxa hb
          subst hxa
          simp only [Mem.wf, Mem.wfFrom, Bool.and_eq_true]
          exact ⟨⟨trivial, by simpa using hb⟩, ht⟩
      · simp only [Mem.wf, Mem.wfFrom, Bool.and_eq_true]
        exact ⟨⟨trivial, hc⟩, Mem.put_wfFrom b ht (by omega)⟩

/-- Every other byte reads as before. -/
theorem Mem.byte_put_other (m : Mem) {a a' : Nat} (b : Byte) (h : a' ≠ a) : (m.put a b).byte a' = m.byte a' := by
  induction m with
  | nil => by_cases hb : b = emptyByte <;> simp [Mem.put, Mem.byte, hb, Ne.symm h]
  | cons p t ih =>
    obtain ⟨x, c⟩ := p
    unfold Mem.put
    split
    · split <;> simp [Mem.byte, Ne.symm h]
    · split
      · rename_i hx; subst hx
        split <;> simp [Mem.byte, Ne.symm h]
      · simp [Mem.byte, ih]

/-- A read after a write gives the byte written. -/
theorem Mem.byte_put_same {m : Mem} (a : Nat) (b : Byte) (h : m.wf = true) : (m.put a b).byte a = b := by
  have key : ∀ (m : Mem) (lo : Option Nat), Mem.wfFrom lo m = true → (m.put a b).byte a = b := by
    intro m
    induction m with
    | nil => intro lo _; by_cases hb : b = emptyByte <;> simp [Mem.put, Mem.byte, hb]
    | cons p t ih =>
      obtain ⟨x, c⟩ := p
      intro lo h
      simp only [Mem.wfFrom, Bool.and_eq_true] at h
      unfold Mem.put
      split
      · rename_i hax
        split
        · rename_i hb
          rw [Mem.byte, if_neg (by omega), hb]
          exact Mem.byte_below h.2 (by omega)
        · simp [Mem.byte]
      · split
        · rename_i hx; subst hx
          split
          · rename_i hb; rw [hb]; exact Mem.byte_below h.2 (Nat.le_refl _)
          · simp [Mem.byte]
        · rename_i hx
          rw [Mem.byte, if_neg hx]
          exact ih _ h.2
  exact key m none h

/-! ## Several bytes -/

theorem Mem.putBytes_wf (bs : List Byte) : ∀ {m : Mem} (a : Nat), m.wf = true → (m.putBytes a bs).wf = true := by
  induction bs with
  | nil => intro m a h; exact h
  | cons b t ih => intro m a h; exact ih _ (Mem.put_wf a b h)

theorem Mem.putOpt_wf (bs : List (Option Byte)) : ∀ {m : Mem} (a : Nat), m.wf = true → (m.putOpt a bs).wf = true := by
  induction bs with
  | nil => intro m a h; exact h
  | cons b t ih =>
    intro m a h
    cases b with
    | none => exact ih _ h
    | some b => exact ih _ (Mem.put_wf a b h)

theorem Mem.putNat_wf {m : Mem} (a x n : Nat) (h : m.wf = true) : (m.putNat a x n).wf = true := Mem.putBytes_wf _ a h

/-- Bytes outside a write read as before. -/
theorem Mem.byte_putBytes_other (bs : List Byte) : ∀ (m : Mem) (a a' : Nat), (a' < a ∨ a + bs.length ≤ a') → (m.putBytes a bs).byte a' = m.byte a' := by
  induction bs with
  | nil => intro m a a' _; rfl
  | cons b t ih =>
    intro m a a' h
    simp only [List.length_cons] at h
    rw [Mem.putBytes, ih _ _ _ (by omega), Mem.byte_put_other _ _ (by omega)]

theorem Mem.byte_putOpt_other (bs : List (Option Byte)) :
    ∀ (m : Mem) (a a' : Nat), (a' < a ∨ a + bs.length ≤ a') → (m.putOpt a bs).byte a' = m.byte a' := by
  induction bs with
  | nil => intro m a a' _; rfl
  | cons b t ih =>
    intro m a a' h
    simp only [List.length_cons] at h
    cases b with
    | none => rw [Mem.putOpt, ih _ _ _ (by omega)]
    | some b => rw [Mem.putOpt, ih _ _ _ (by omega), Mem.byte_put_other _ _ (by omega)]

/-- A byte inside a write reads as written. -/
theorem Mem.byte_putBytes_same (bs : List Byte) : ∀ {m : Mem} (a k : Nat) (hk : k < bs.length), m.wf = true → (m.putBytes a bs).byte (a + k) = bs[k] := by
  induction bs with
  | nil => intro m a k hk; simp at hk
  | cons b t ih =>
    intro m a k hk h
    cases k with
    | zero => rw [Mem.putBytes, Mem.byte_putBytes_other _ _ _ _ (by omega)]; exact Mem.byte_put_same a b h
    | succ k =>
      rw [Mem.putBytes, show a + (k + 1) = a + 1 + k by omega, ih _ _ (by simpa using hk) (Mem.put_wf a b h)]; rfl

/-- A byte of a write with gaps reads as written, or as before in a gap. -/
theorem Mem.byte_putOpt_same (bs : List (Option Byte)) :
    ∀ {m : Mem} (a k : Nat) (hk : k < bs.length), m.wf = true → (m.putOpt a bs).byte (a + k) = bs[k].getD (m.byte (a + k)) := by
  induction bs with
  | nil => intro m a k hk; simp at hk
  | cons b t ih =>
    intro m a k hk h
    cases k with
    | zero =>
      cases b with
      | none => rw [Mem.putOpt, Mem.byte_putOpt_other _ _ _ _ (by omega)]; rfl
      | some b => rw [Mem.putOpt, Mem.byte_putOpt_other _ _ _ _ (by omega)]; exact Mem.byte_put_same a b h
    | succ k =>
      have hk' : k < t.length := by simpa using hk
      cases b with
      | none => rw [Mem.putOpt, show a + (k + 1) = a + 1 + k by omega, ih _ _ hk' h]; rfl
      | some b =>
        rw [Mem.putOpt, show a + (k + 1) = a + 1 + k by omega, ih _ _ hk' (Mem.put_wf a b h), Mem.byte_put_other _ _ (by omega)]; rfl

/-! ## Numbers -/

theorem leBytes_length (n : Nat) : ∀ x, (leBytes x n).length = n := by
  induction n with
  | zero => intro x; rfl
  | succ n ih => intro x; simp [leBytes, ih]

/-- The number of the little-endian bytes of a number. -/
theorem leNat_leBytes (n : Nat) : ∀ x, leNat (leBytes x n) = x % 256 ^ n := by
  induction n with
  | zero => intro x; simp [leBytes, leNat, Nat.mod_one]
  | succ n ih =>
    intro x
    have h := Nat.mod_mul (x := x) (a := 256) (b := 256 ^ n)
    simp only [leBytes, leNat, ih, BitVec.toNat_ofNat]
    rw [show 256 ^ (n + 1) = 256 * 256 ^ n from by rw [Nat.pow_succ, Nat.mul_comm], h]

theorem Mem.bytes_putBytes (bs : List Byte) : ∀ {m : Mem} (a : Nat), m.wf = true → (m.putBytes a bs).bytes a bs.length = bs := by
  induction bs with
  | nil => intro m a _; rfl
  | cons b t ih =>
    intro m a h
    rw [List.length_cons, Mem.bytes, Mem.putBytes, Mem.byte_putBytes_other _ _ _ _ (by omega), Mem.byte_put_same a b h, ih _ (Mem.put_wf a b h)]

/-- A number reads back as it was written. -/
theorem Mem.nat_putNat {m : Mem} (a x n : Nat) (h : m.wf = true) : (m.putNat a x n).nat a n = x % 256 ^ n := by
  have := Mem.bytes_putBytes (leBytes x n) a h
  rw [leBytes_length] at this
  rw [Mem.nat, Mem.putNat, this, leNat_leBytes]

/-- Two canonical memories that read the same are the same. -/
theorem Mem.ext_wf {m m' : Mem} (h : m.wf = true) (h' : m'.wf = true) (he : ∀ a, m.byte a = m'.byte a) : m = m' := by
  have key : ∀ (m m' : Mem) (lo lo' : Option Nat), Mem.wfFrom lo m = true → Mem.wfFrom lo' m' = true → (∀ a, m.byte a = m'.byte a) → m = m' := by
    intro m
    induction m with
    | nil =>
      intro m' lo lo' _ h' he
      cases m' with
      | nil => rfl
      | cons p t =>
        obtain ⟨x, c⟩ := p
        simp only [Mem.wfFrom, Bool.and_eq_true] at h'
        have := he x
        simp [Mem.byte] at this
        simp [← this] at h'
    | cons p t ih =>
      obtain ⟨x, c⟩ := p
      intro m' lo lo' h h' he
      have h0 := h
      simp only [Mem.wfFrom, Bool.and_eq_true] at h
      cases m' with
      | nil =>
        have := he x
        simp [Mem.byte] at this
        simp [this] at h
      | cons q t' =>
        obtain ⟨y, d⟩ := q
        simp only [Mem.wfFrom, Bool.and_eq_true] at h'
        have hx := he x
        have hy := he y
        simp only [Mem.byte, if_pos] at hx hy
        by_cases hxy : y = x
        · subst hxy
          simp only [if_pos] at hx
          subst hx
          congr 1
          refine ih _ _ _ h.2 h'.2 ?_
          intro a
          by_cases ha : a ≤ y
          · rw [Mem.byte_below h.2 ha, Mem.byte_below h'.2 ha]
          · have := he a
            simpa [Mem.byte, show y ≠ a by omega] using this
        · rw [if_neg hxy] at hx
          rw [if_neg (Ne.symm hxy)] at hy
          rcases Nat.lt_or_ge x y with hl | hl
          · rw [Mem.byte_below h'.2 (by omega)] at hx
            simp [hx] at h
          · rw [Mem.byte_below h.2 (by omega)] at hy
            simp [← hy] at h'
  exact key m m' none none h h' he

end Sys2Proof.Machine
end

