-- ==== Sys2Proof/Laws/Caches.lean ====
section
/-! SUPPORT. Caches without partial sums: what evictions, fills and prefetches leave unchanged (spec/09_ordering.md R102 to R105, R119). -/

set_option linter.unusedSimpArgs false

namespace Sys2Proof.Machine

open Sys2Proof

/-- No L1 holds a partial sum. -/
def NoU (s : State) : Prop := ∀ c l w, l ∈ (s.core c).l1 → w ∈ l.words → w.2.st ≠ .u

/-- Two states differ in caches, registrants and messages alone. -/
structure MemSame (s t : State) : Prop where
  mem : t.mem = s.mem
  cells : t.cells = s.cells
  host : t.hostMem = s.hostMem
  peer : t.peerMem = s.peerMem
  waves : t.waves = s.waves
  blocks : t.blocks = s.blocks
  launches : t.launches = s.launches
  focus : t.focus = s.focus
  tlb : t.tlb = s.tlb
  mgmt : t.mgmt = s.mgmt
/-- Nothing changes from a state to itself. -/
theorem MemSame.rfl {s : State} : MemSame s s := ⟨by simp, by simp, by simp, by simp, by simp, by simp, by simp, by simp, by simp, by simp⟩
/-- Changes of caches alone compose. -/
theorem MemSame.trans {s u t : State} (a : MemSame s u) (b : MemSame u t) : MemSame s t :=
  ⟨b.1.trans a.1, b.2.trans a.2, b.3.trans a.3, b.4.trans a.4, b.5.trans a.5, b.6.trans a.6, b.7.trans a.7, b.8.trans a.8, b.9.trans a.9, b.10.trans a.10⟩

/-- An eviction without partial sums changes caches alone (R103). -/
theorem evictL1_noU (s : State) (p pl : Nat) (pr) (h : NoU s) : MemSame s (s.evictL1 p pl pr) ∧ NoU (s.evictL1 p pl pr) := by
  unfold State.evictL1
  dsimp only
  have key : ∀ (ws : List (Nat × L1Word)) (u : State), (∀ w ∈ ws, w.2.st ≠ .u) → 
     MemSame u (ws.foldl (fun s kw =>
      match kw.2.st with
      | .u => s.combineAt ((pl * 32 + kw.1) * 4) kw.2.op kw.2.sg kw.2.val
      | .g => { s with registrant := s.registrant.set (pl * 32 + kw.1) none }
      | .v => s
      | .i => s) u) ∧ (ws.foldl (fun s kw =>
      match kw.2.st with
      | .u => s.combineAt ((pl * 32 + kw.1) * 4) kw.2.op kw.2.sg kw.2.val
      | .g => { s with registrant := s.registrant.set (pl * 32 + kw.1) none }
      | .v => s
      | .i => s) u).cores = u.cores := by
    intro ws
    induction ws with
    | nil => intro u _; exact ⟨.rfl, rfl⟩
    | cons w ws ih =>
      intro u hw
      have hw0 := hw w (by simp)
      have hw' : ∀ w ∈ ws, w.2.st ≠ .u := fun x hx => hw x (by simp [hx])
      simp only [List.foldl_cons]
      cases hst : w.2.st with
      | u => exact absurd hst hw0
      | v => exact ih u hw'
      | i => exact ih u hw'
      | g => 
        obtain ⟨a, b⟩ := ih { u with registrant := u.registrant.set (pl * 32 + w.1) none } hw'
        exact ⟨MemSame.trans (u := { u with registrant := u.registrant.set (pl * 32 + w.1) none }) ⟨rfl, rfl, rfl, rfl, rfl, rfl, rfl, rfl, rfl, rfl⟩ a, b⟩
  have key2 : ∀ (ls : List L1Line) (u : State), (∀ l ∈ ls, ∀ w ∈ l.words, w.2.st ≠ .u) → 
     MemSame u (ls.foldl (fun s l => l.words.foldl (fun s kw =>
      match kw.2.st with
      | .u => s.combineAt ((pl * 32 + kw.1) * 4) kw.2.op kw.2.sg kw.2.val
      | .g => { s with registrant := s.registrant.set (pl * 32 + kw.1) none }
      | .v => s
      | .i => s) s) u) ∧ (ls.foldl (fun s l => l.words.foldl (fun s kw =>
      match kw.2.st with
      | .u => s.combineAt ((pl * 32 + kw.1) * 4) kw.2.op kw.2.sg kw.2.val
      | .g => { s with registrant := s.registrant.set (pl * 32 + kw.1) none }
      | .v => s
      | .i => s) s) u).cores = u.cores := by
    intro ls
    induction ls with
    | nil => intro u _; exact ⟨.rfl, rfl⟩
    | cons l ls ih =>
      intro u hl
      simp only [List.foldl_cons]
      obtain ⟨a, b⟩ := key l.words u (hl l (by simp))
      obtain ⟨c, d⟩ := ih _ (fun x hx => hl x (by simp [hx]))
      exact ⟨a.trans c, d.trans b⟩
  obtain ⟨a, b⟩ := key2 ((s.core p).l1.filter (fun l => l.pline == pl && pr l)) s (fun l hl w hw => h p l w ((List.mem_filter.1 hl).1) hw)
  clear key key2
  generalize List.foldl _ s _ = u at a b ⊢
  refine ⟨a.trans ⟨by simp, by simp, by simp, by simp, by simp, by simp, by simp, by simp, by simp, by simp⟩, ?_⟩
  intro c l w hl hw
  rw [State.updCore_at] at hl
  have hc : ∀ k (ls : State), ls.cores = s.cores → ls.core k = s.core k := fun k ls e => by simp [State.core, e]
  split at hl
  · rename_i hcp; subst hcp
    rw [hc _ _ b] at hl
    exact h _ l w ((List.mem_filter.1 hl).1) hw
  · rw [hc _ _ b] at hl; exact h c l w hl hw

/-- Making room in an L1 without partial sums changes caches alone. -/
theorem l1Room_noU (s : State) (c asid) (va : DWord) (pa) (h : NoU s) : MemSame s (s.l1Room c asid va pa) ∧ NoU (s.l1Room c asid va pa) := by
  unfold State.l1Room; dsimp only
  obtain ⟨a, b⟩ := evictL1_noU s c (lineOf pa) (fun l => !(l.asid == asid && l.vline == va.toNat / 128)) h
  split
  · exact ⟨a, b⟩
  · split
    · obtain ⟨a', b'⟩ := evictL1_noU _ c _ _ b
      exact ⟨a.trans a', b'⟩
    · exact ⟨a, b⟩

/-- The entries of a table after one is set. -/
theorem mem_set {α} (t : Tab α) (k : Nat) (v : α) : ∀ w ∈ t.set k v, w = (k, v) ∨ w ∈ t := by
  induction t with
  | nil => simp [Tab.set]
  | cons p t ih =>
    obtain ⟨k', v'⟩ := p
    intro w hw
    unfold Tab.set at hw; split at hw
    · rcases List.mem_cons.1 hw with h | h
      · exact .inl h
      · exact .inr (by simp [h])
    · rcases List.mem_cons.1 hw with h | h
      · exact .inr (by simp [h])
      · rcases ih w h with h | h
        · exact .inl h
        · exact .inr (by simp [h])

/-- The entries of a table after several are set. -/
theorem mem_sets {α} (ws : List (Nat × α)) : ∀ t : Tab α, ∀ w ∈ ws.foldl (fun t x => t.set x.1 x.2) t, w ∈ ws ∨ w ∈ t := by
  induction ws with
  | nil => intro t w h; exact .inr h
  | cons x ws ih =>
    intro t w h
    simp only [List.foldl_cons] at h
    rcases ih _ w h with h | h
    · exact .inl (by simp [h])
    · rcases mem_set _ _ _ w h with h | h
      · exact .inl (by simp [h])
      · exact .inr h

/-- Filling an L1 without partial sums changes caches alone. -/
theorem l1Fill_noU (s : State) (c asid) (va : DWord) (pa) (st : Bool) (ws) (hw : ∀ w ∈ ws, w.2.st ≠ .u) (h : NoU s) : 
    MemSame s (s.l1Fill c asid va pa st ws) ∧ NoU (s.l1Fill c asid va pa st ws) := by
  unfold State.l1Fill; dsimp only
  obtain ⟨a, b⟩ := l1Room_noU s c asid va pa h
  refine ⟨a.trans ⟨by simp, by simp, by simp, by simp, by simp, by simp, by simp, by simp, by simp, by simp⟩, ?_⟩
  · intro k l w hl hww
    rw [State.updCore_at] at hl
    split at hl
    · rename_i hk; subst hk
      simp only [List.mem_cons] at hl
      rcases hl with hl | hl
      · subst hl
        rcases mem_sets _ _ w hww with h1 | h1
        · exact hw w h1
        · split at h1
          · rename_i lo hlo
            exact b _ lo w (by unfold Core.lineAt at hlo; exact List.mem_of_find?_eq_some hlo) h1
          · simp at h1
      · exact b _ l w ((List.mem_filter.1 hl).1) hww
    · exact b k l w hl hww

/-- What a home point returns follows from memory and the live cells. -/
theorem MemSame.homeBytes {s t : State} (h : MemSame s t) (a n : Nat) : t.homeBytes a n = s.homeBytes a n := by
  induction n generalizing a with
  | zero => rfl
  | succ n ih => simp [State.homeBytes, State.homeByte, h.cells, h.mem, ih]
/-- The tables in memory are walked as before (R100). -/
theorem MemSame.walkFrom {s t : State} (h : MemSame s t) (va : Nat) (ls : List (Nat × Nat × Nat)) (a : Nat) :
    Machine.walkFrom t va ls a = Machine.walkFrom s va ls a := by
  induction ls generalizing a with
  | nil => rfl
  | cons l ls ih => 
    have hn : ∀ a n, t.homeNat a n = s.homeNat a n := fun a n => by rw [State.homeNat, h.homeBytes, State.homeNat]
    obtain ⟨n, lo, w⟩ := l
    unfold Machine.walkFrom
    dsimp only
    rw [hn, ih]
/-- A page keeps its class. -/
theorem MemSame.classConflict {s t : State} (h : MemSame s t) (x : Acc) (p : Piece) : t.classConflict x p = s.classConflict x p := by
  simp [State.classConflict, State.lookup, State.walk, State.ctx, State.clusterOf, h.tlb, h.mgmt, h.walkFrom]

/-- What leaves memory, tables and cores alone keeps the absence of partial sums. -/
theorem NoU.of_cores {s t : State} (h : NoU s) (e : t.cores = s.cores) : NoU t := by
  intro c l w hl; simp only [State.core, e] at hl; exact h c l w hl

/-- A prefetch without partial sums to a page whose class permits it changes caches alone (R286). -/
theorem prefLine_noU (s : State) (lv x p) (h : NoU s) (hc : s.classConflict x p = false) :
    MemSame s (s.prefLine lv x p) ∧ NoU (s.prefLine lv x p) := by
  have hf : MemSame s (s.fetchLine (lineOf p.pa)) := ⟨by simp, by simp, by simp, by simp, by simp, by simp, by simp, by simp, by simp, by simp⟩
  have hu : NoU (s.fetchLine (lineOf p.pa)) := h.of_cores (by simp)
  unfold State.prefLine
  simp only [hc, Bool.false_eq_true, if_false]
  cases lv with
  | l1 =>
    simp only; split
    · obtain ⟨a, b⟩ := l1Fill_noU (s.fetchLine (lineOf p.pa)) x.core x.asid p.va p.pa p.streaming ((s.fetchLine (lineOf p.pa)).prefWords x p)
        (by
          simp only [State.prefWords, State.restOfLine]; intro w hw
          obtain ⟨k, -, rfl⟩ := List.mem_map.1 (List.mem_filter.1 hw).1
          simp) hu
      exact ⟨hf.trans a, b⟩
    · exact ⟨hf, hu⟩
  | l2 =>
    simp only; split
    · exact ⟨hf.trans ⟨by simp, by simp, by simp, by simp, by simp, by simp, by simp, by simp, by simp, by simp⟩, hu.of_cores (by simp)⟩
    · exact ⟨hf.trans ⟨by simp, by simp, by simp, by simp, by simp, by simp, by simp, by simp, by simp, by simp⟩, hu.of_cores (by simp)⟩
  | msc => exact ⟨⟨by simp, by simp, by simp, by simp, by simp, by simp, by simp, by simp, by simp, by simp⟩, h.of_cores (by simp)⟩

/-- One lane of such a PREF: it fills its line, is skipped, or waits. -/
theorem prefPiece_noU (s : State) (lv x p) (h : NoU s) (hc : s.classConflict x p = false) :
    MemSame s (s.prefPiece lv x p) ∧ NoU (s.prefPiece lv x p) := by
  unfold State.prefPiece
  split
  · exact ⟨.rfl, h⟩
  · split
    · refine ⟨⟨by simp, by simp, by simp, by simp, by simp, by simp, by simp, by simp, by simp, by simp⟩, ?_⟩
      intro c l w hl
      rw [State.updCore_at] at hl
      split at hl
      · rename_i e; subst e; exact h _ l w hl
      · exact h c l w hl
    · exact prefLine_noU s lv x p h hc

/-- Prefetches without partial sums change caches alone. -/
theorem prefFold_noU (lv x) (ps : List Piece) : ∀ s : State, NoU s → (∀ p ∈ ps, s.classConflict x p = false) → MemSame s (ps.foldl (fun s p => s.prefPiece lv x p) s) := by
  induction ps with
  | nil => intro s h _; exact .rfl
  | cons p ps ih =>
    intro s h hc
    obtain ⟨a, b⟩ := prefPiece_noU s lv x p h (hc p (by simp))
    exact a.trans (ih _ b fun q hq => (a.classConflict x q).trans (hc q (by simp [hq])))

/-- What a table gives is its default or one of its entries. -/
theorem get_mem {α} (d : α) (k : Nat) : ∀ t : Tab α, t.get d k = d ∨ (k, t.get d k) ∈ t
  | [] => .inl rfl
  | (k', v) :: t => by
    unfold Tab.get
    split
    · rename_i h; subst h; exact .inr (by simp)
    · rcases get_mem d k t with h | h
      · exact .inl h
      · exact .inr (List.mem_cons_of_mem _ h)

/-- No entry of the table of cores holds a partial sum. -/
def NoPartials (s : State) : Prop := ∀ c ∈ s.cores, ∀ l ∈ c.2.l1, ∀ w ∈ l.words, w.2.st ≠ .u

/-- Without partial sums no L1 holds a word in state U. -/
theorem NoPartials.noU {s : State} (h : NoPartials s) : NoU s := by
  intro c l w hl hw
  rcases get_mem Core.zero c s.cores with e | e
  · rw [State.core, e] at hl; simp [Core.zero] at hl
  · exact h _ e l hl w hw

/-- Without partial sums no word has copies in state U. -/
theorem uCopies_none {s : State} (h : NoPartials s) (word : Nat) : s.uCopies word = [] := by
  simp only [State.uCopies, List.flatMap_eq_nil_iff, Core.uCopies, List.mem_filter, and_imp]
  intro c hc l hl _
  rw [if_neg]
  rcases get_mem L1Word.zero (word % 32) l.words with e | e
  · rw [e]; decide
  · simpa using h c hc l hl _ e

/-- Without partial sums a recall does nothing (R119). -/
theorem recallU_none {s : State} (h : NoPartials s) (word : Nat) : s.recallU word = s := by
  simp [State.recallU, uCopies_none h]

/-- Without partial sums and lines that the host caches, recalling a range does nothing (R119, R200). -/
theorem recallRange_none {s : State} (h : NoPartials s) (hl : s.hostLines = []) (pa n : Nat) : s.recallRange pa n = s := by
  unfold State.recallRange
  rw [show s.pullHost pa n = s by simp [State.pullHost, hl]]
  generalize List.range _ = l
  induction l with
  | nil => rfl
  | cons i l ih => rw [List.foldl_cons, recallU_none h, ih]

/-- Invalidating registered copies keeps memory. -/
theorem dropG_mem (s : State) (w : Nat) (k : Option Nat) : (s.dropG w k).mem = s.mem := by simp [State.dropG, State.mapWord]

/-- Without partial sums and lines that the host caches, an agent's write at home puts its bytes into memory and keeps the other memories, registers and blocks. -/
theorem agentWrite_plain {s : State} (h : NoPartials s) (hl : s.hostLines = []) (pa : Nat) (d : List (Option Byte)) :
    (s.agentWrite pa d).mem = s.mem.putOpt pa d ∧ (s.agentWrite pa d).cells = s.cells ∧ (s.agentWrite pa d).waves = s.waves ∧
      (s.agentWrite pa d).blocks = s.blocks ∧ (s.agentWrite pa d).hostMem = s.hostMem ∧ (s.agentWrite pa d).peerMem = s.peerMem := by
  have hf : ∀ (l : List Nat) (u : State), (l.foldl (fun s w => s.dropG w none) u).mem = u.mem ∧ (l.foldl (fun s w => s.dropG w none) u).cells = u.cells ∧
      (l.foldl (fun s w => s.dropG w none) u).hostLines = u.hostLines := by
    intro l
    induction l with
    | nil => intro u; exact ⟨rfl, rfl, rfl⟩
    | cons w l ih => intro u; rw [List.foldl_cons]; exact ⟨(ih _).1.trans (by simp), (ih _).2.1.trans (by simp), (ih _).2.2.trans (by simp)⟩
  refine ⟨?_, ?_, by simp, by simp, by simp, by simp⟩
  all_goals
    unfold State.agentWrite
    dsimp only
    rw [recallRange_none h hl]
    simp [State.homePut, State.dropRdc, State.pullHost, hf, hl]

end Sys2Proof.Machine
end

