-- ==== Sys2Proof/Laws/Scalar.lean ====
section
/-! SUPPORT. The scalar forms: what `OP sd, sa, sb`, `OP sd, sa, imm` and `OP sd, sa` do when they may issue, and the frame of one scalar write. -/

namespace Sys2Proof.Machine

open Sys2Proof

/-- `OP sd, sa, sb` writes its function of the two registers. -/
theorem alu3_ok (i : Instr) (d a b : BitVec 6) (f : DWord → DWord → DWord) (s : State) (h : s.mayIssue (opsS3 d a b)) : alu3 i d a b f s = .next (((s.seen (opsS3 d a b)).writeSV d.toNat ⟨f (s.sreg a) (s.sreg b), false⟩).complete i {} false) := by
  unfold alu3
  exact (simple_done i _ _ (fun u => u.writeSV d.toNat ⟨f (s.sreg a) (s.sreg b), false⟩) 0 1 s h (by simp [State.writeS]))
/-- `OP sd, sa, imm` writes its function of the register and the immediate. -/
theorem aluImm_ok (i : Instr) (d a : BitVec 6) (b : DWord) (f : DWord → DWord → DWord) (s : State) (h : s.mayIssue (opsS2 d a)) : aluImm i d a b f s = .next (((s.seen (opsS2 d a)).writeSV d.toNat ⟨f (s.sreg a) b, false⟩).complete i {} false) := by
  unfold aluImm
  exact (simple_done i _ _ (fun u => u.writeSV d.toNat ⟨f (s.sreg a) b, false⟩) 0 1 s h (by simp [State.writeS]))
/-- `OP sd, sa` writes its function of the register. -/
theorem alu2_ok (i : Instr) (d a : BitVec 6) (f : DWord → DWord) (s : State) (h : s.mayIssue (opsS2 d a)) : alu2 i d a f s = .next (((s.seen (opsS2 d a)).writeSV d.toNat ⟨f (s.sreg a), false⟩).complete i {} false) := by
  unfold alu2
  exact (simple_done i _ _ (fun u => u.writeSV d.toNat ⟨f (s.sreg a), false⟩) 0 1 s h (by simp [State.writeS]))
/-- One scalar write by a completed unit: the value, and all that stays. -/
theorem scalar_frame (s : State) (ops : List Opd) (i : Instr) (tr : Traits) (d : Nat) (x : SRegVal) :
   ((((s.seen ops).writeSV d x).complete i tr false).wave s.focus.wave).sregs.get SRegVal.zero d = x ∧
   keepsRegs s (((s.seen ops).writeSV d x).complete i tr false) [d] [] [] ∧ keepsRest s (((s.seen ops).writeSV d x).complete i tr false) ∧ goesOn s (((s.seen ops).writeSV d x).complete i tr false) i := by
  refine ⟨by simp [State.writeSV_sregs], ?_, ?_, goesOn_complete i _ (by simp) (by simp [State.fw])⟩
  · exact keepsRegs_trans (by simp) (keepsRegs_trans (by simp) (keepsRegs_seen s ops _ _ _) (keepsRegs_writeSV _ d x _ _ _ (by simp))) (keepsRegs_complete _ i tr false _ _ _)
  · exact keepsRest_trans (keepsRest_trans (keepsRest_seen s ops) (keepsRest_writeSV _ d x)) (keepsRest_complete _ i tr false)

end Sys2Proof.Machine
end

