-- ==== Sys2Proof/Laws/Control.lean ====
section
/-! SUPPORT. Jumps, splits and joins of paths, and units that run at once (spec/05_execution.md R64 to R67). -/

set_option linter.unusedSimpArgs false

namespace Sys2Proof.Machine

open Sys2Proof

/-- A unit of a plain row that may issue settles its body at once. -/
theorem simple_now (i : Instr) (t : Traits) (ops : List Opd) (body : State → Res) (s : State) (h : s.mayIssue ops)
    (hh : t.handlerOnly = true → s.fw.handler.isSome = true) (he : t.ets.getLsbD (mET s.mode) = true)
    (hw : t.held = true → s.windowsClosed) (hc : ∀ p, t.path = some p → s.fb.counter p < 4095) :
    simple i t ops body s = .next (s.settle i t (body (s.seen ops))) := by
  unfold simple ok; rw [run_now i t ops _ s h hh he hw hc]

/-- A unit without register operands may issue when its slot starts it. -/
theorem mayIssue_nil (s : State) (h : s.fs.phase = 0) : s.mayIssue [] := ⟨h, by simp [State.inRange], by simp [State.futuresDone]⟩
/-- Without operands nothing is observed. -/
theorem seen_nil (s : State) : s.seen [] = s := by simp [State.seen, State.futuresOf]
/-- A destination is not read, so nothing is observed. -/
@[simp] theorem seen_sd (s : State) (f n) : s.seen [.sd f n] = s := by simp [State.seen, State.futuresOf, Opd.readS]

/-- A completed jump changes the path alone. -/
theorem jump_frame (s u : State) (i : Instr) (t : Traits) (pc : DWord) (ks kv kp) (hr : keepsRegs s u ks kv kp) (hk : keepsRest s u) (hfo : u.focus = s.focus)
   (hp : u.fs.path = s.fs.path) (hs : u.fw.spill = s.fw.spill) :
   keepsRegs s ((u.jumpTo pc).complete i t true) ks kv kp ∧ keepsRest s ((u.jumpTo pc).complete i t true) ∧ goesTo s ((u.jumpTo pc).complete i t true) pc := by
  have hj : (u.jumpTo pc).focus = u.focus := by simp [State.jumpTo]
  refine ⟨keepsRegs_trans (by rw [hj, hfo]) (keepsRegs_trans hfo hr (keepsRegs_of _ _ _ fun k => ?_)) (keepsRegs_complete _ i t _ _ _ _),
    keepsRest_trans (keepsRest_trans hk ?_) (keepsRest_complete _ i t _), goesTo_complete i _ _ ?_ ?_⟩
  · unfold State.jumpTo; rw [State.updWave_at]; split <;> simp
  · refine ⟨fun k => ?_, keepsMemory_of ?_ ?_ ?_ ?_ ?_, fun b => ?_, ?_, fun l => ?_⟩
    · unfold State.jumpTo; rw [State.updWave_at]; split <;> simp
    all_goals simp [State.jumpTo, keepsDevice]
  · rw [← hp]; simp [State.jumpTo, State.fs, State.fw, State.updWave_at, Wave.slot, Wave.updSlot]
    cases u.focus.slotB <;> rfl
  · rw [← hs]; simp [State.jumpTo, State.fw, State.updWave_at]


/-- A slot that holds a path takes none from the spill stack. -/
theorem refill_live (v : Wave) (sb : Bool) (h : (v.slot sb).live = true) : v.refill sb = v := by simp [Wave.refill, h]

/-- With both slots live and neither at its join point, joining changes no wave. -/
theorem joinLoop_still (w : Nat) (sb : Bool) (n : Nat) : ∀ s : State, (s.wave w).atJoin sb = false → (s.wave w).atJoin (!sb) = false →
    ((s.wave w).slot sb).live = true → ((s.wave w).slot (!sb)).live = true → ∀ k, (s.joinLoop w sb n).wave k = s.wave k := by
  induction n with
  | zero => intro s _ _ _ _ k; rfl
  | succ n ih =>
    intro s h1 h2 h3 h4 k
    unfold State.joinLoop
    have m1 : s.mayJoin w sb = false := by simp [State.mayJoin, h1]
    have m2 : s.mayJoin w (!sb) = false := by simp [State.mayJoin, h2]
    simp only [m1, m2, Bool.false_eq_true, if_false]
    have key : ∀ k, (if ((s.wave w).spill).isEmpty then s else s.updWave w (fun v => (v.refill sb).refill (!sb))).wave k = s.wave k := by
      intro k; split
      · rfl
      · rw [State.updWave_at]; split
        · rename_i hk; subst hk; rw [refill_live _ _ h3, refill_live _ _ h4]
        · rfl
    rw [ih _ (by rw [key]; exact h1) (by rw [key]; exact h2) (by rw [key]; exact h3) (by rw [key]; exact h4), key]

/-- A split of a wave with an empty spill stack: slot A goes on with the first part, slot B takes the second, the rest are spilled over a join record (R66). -/
theorem split_eq (v : Wave) (sb : Bool) (d : Nat) (x y : DWord × Mask) (more : List (DWord × Mask)) (j : DWord)
   (hs : v.spill = []) (hl : (v.slot (!sb)).live = false) (hd : more.length + 1 ≤ d) :
   ∃ v', v.split sb d (x :: y :: more) j = some v' ∧ v'.slot sb = { v.slot sb with path := ⟨x.1, x.2, (v.slot sb).path.mode, some 0⟩ } ∧
     v'.slot (!sb) = Slot.load ⟨y.1, y.2, (v.slot sb).path.mode, some 0⟩ ∧
     v'.spill = .join j (v.slot sb).path.mask 0 (v.slot sb).path.mode (v.slot sb).path.jr :: more.reverse.map (fun z => Spill.path ⟨z.1, z.2, (v.slot sb).path.mode, some 0⟩) ∧
     v'.sregs = v.sregs ∧ v'.vregs = v.vregs ∧ v'.pregs = v.pregs ∧ v'.block = v.block ∧ v'.handler = v.handler ∧ v'.xpc = v.xpc ∧ v'.xmode = v.xmode ∧ v'.xcause = v.xcause ∧ v'.xlanes = v.xlanes ∧ v'.xaddr = v.xaddr ∧ v'.gexposed = v.gexposed ∧ v'.exited = v.exited := by
  have h1 : ¬ d < v.spill.length + 1 + ((x :: y :: more).length - 1) - b2n (!(v.slot (!sb)).live) := by
    simp [hs, hl, b2n]; omega
  refine ⟨_, by unfold Wave.split; rw [if_neg h1]; simp only [hl, Bool.not_false, if_true]; rfl, ?_⟩
  cases sb <;> simp [Wave.slot, Wave.setSlot, Wave.updSlot, hs]


/-- The waves after one is set. -/
theorem setWave_same (s : State) (w : Nat) (v : Wave) (k : Nat) : (s.setWave w v).wave k = if k = w then v else s.wave k := by
  unfold State.setWave State.wave; simp only
  by_cases h : k = w
  · subst h; rw [if_pos rfl, Tab.get_set_same]
  · rw [if_neg h, Tab.get_set_other _ _ _ _ _ (Ne.symm h)]
/-- With both slots live and neither at its join point, joining changes no wave. -/
theorem joinWave_still (w : Nat) (sb : Bool) (s : State) (h1 : (s.wave w).atJoin sb = false) (h2 : (s.wave w).atJoin (!sb) = false)
    (h3 : ((s.wave w).slot sb).live = true) (h4 : ((s.wave w).slot (!sb)).live = true) (k : Nat) : (s.joinWave w sb).wave k = s.wave k := by
  unfold State.joinWave
  split
  · rfl
  · exact joinLoop_still w sb _ s h1 h2 h3 h4 k

/-- Completing a unit that jumped, with both slots live and neither at its join point, leaves paths and spill stack. -/
theorem complete_still (u : State) (i : Instr) (t : Traits) (h1 : (u.fw.atJoin u.focus.slotB) = false) (h2 : (u.fw.atJoin (!u.focus.slotB)) = false)
    (h3 : (u.fw.slot u.focus.slotB).live = true) (h4 : (u.fw.slot (!u.focus.slotB)).live = true) :
    ((u.complete i t true).fw.slot u.focus.slotB).path = (u.fw.slot u.focus.slotB).path ∧
     (u.complete i t true).fw.slot (!u.focus.slotB) = u.fw.slot (!u.focus.slotB) ∧ (u.complete i t true).fw.spill = u.fw.spill := by
  have hf : (u.complete i t true).focus = u.focus := by simp
  have hb : (u.charged t).wave u.focus.wave = u.fw := by simp [State.fw]
  have key : (u.complete i t true).fw = { u.fw.updSlot u.focus.slotB (fun sl => sl.issued i true (u.windowOpen u.focus.wave u.focus.slotB)) with
      lastB := u.focus.slotB, region := if t.breaks then none else u.fw.region } := by
    show (u.complete i t true).wave (u.complete i t true).focus.wave = _
    rw [hf]
    unfold State.complete
    dsimp only
    rw [joinWave_still]
    all_goals simp only [State.tick_wave, State.updWave_at, if_true, hb]
    · rw [← h1]; cases u.focus.slotB <;> simp [Wave.atJoin, Wave.slot, Wave.updSlot, Wave.setSlot, Slot.issued]
    · rw [← h2]; cases u.focus.slotB <;> simp [Wave.atJoin, Wave.slot, Wave.updSlot, Wave.setSlot, Slot.issued]
    · rw [← h3]; cases u.focus.slotB <;> simp [Wave.slot, Wave.updSlot, Wave.setSlot, Slot.issued]
    · rw [← h4]; cases u.focus.slotB <;> simp [Wave.slot, Wave.updSlot, Wave.setSlot, Slot.issued]
  rw [key]
  cases u.focus.slotB <;> simp [Wave.slot, Wave.updSlot, Wave.setSlot, Slot.issued]

end Sys2Proof.Machine
end

