-- ==== Sys2Proof/Laws/Decode.lean ====
section
/-! SUPPORT. The fields of the words that the encoder builds, and the codes of named things: what the decoder reads back. -/

namespace Sys2Proof

/-! ## Fields of a word -/

@[simp] theorem fS_mkWord (S : Bool) (m : BitVec 7) (A B C : BitVec 8) : fS (mkWord S m A B C) = S := by
  rw [fS, mkWord, BitVec.getLsbD_append, BitVec.getLsbD_append, BitVec.getLsbD_append, BitVec.getLsbD_append]
  cases S <;> rfl
@[simp] theorem fMaj_mkWord (S : Bool) (m : BitVec 7) (A B C : BitVec 8) : fMaj (mkWord S m A B C) = m := by
  ext k hk
  simp only [fMaj, mkWord, BitVec.getElem_extractLsb', BitVec.getLsbD_append]
  simp [show ¬ 24 + k < 8 by omega, show ¬ 24 + k - 8 < 8 by omega, show ¬ 24 + k - 8 - 8 < 8 by omega, show 24 + k - 8 - 8 - 8 = k by omega, hk]
@[simp] theorem fA_mkWord (S : Bool) (m : BitVec 7) (A B C : BitVec 8) : fA (mkWord S m A B C) = A := by
  ext k hk
  simp only [fA, mkWord, BitVec.getElem_extractLsb', BitVec.getLsbD_append]
  simp [show ¬ 16 + k < 8 by omega, show ¬ 16 + k - 8 < 8 by omega, show 16 + k - 8 - 8 = k by omega, hk]
@[simp] theorem fB_mkWord (S : Bool) (m : BitVec 7) (A B C : BitVec 8) : fB (mkWord S m A B C) = B := by
  ext k hk
  simp only [fB, mkWord, BitVec.getElem_extractLsb', BitVec.getLsbD_append]
  simp [show ¬ 8 + k < 8 by omega, show 8 + k - 8 = k by omega, hk]
@[simp] theorem fC_mkWord (S : Bool) (m : BitVec 7) (A B C : BitVec 8) : fC (mkWord S m A B C) = C := by
  ext k hk
  simp only [fC, mkWord, BitVec.getElem_extractLsb', BitVec.getLsbD_append]
  simp [hk]

/-- A word is made of its fields. -/
theorem mkWord_fields (w : Word) : mkWord (fS w) (fMaj w) (fA w) (fB w) (fC w) = w := by
  apply BitVec.eq_of_getLsbD_eq
  intro k hk
  simp only [mkWord, fS, fMaj, fA, fB, fC, BitVec.getLsbD_append, BitVec.getLsbD_extractLsb']
  have : k < 8 ∨ (8 ≤ k ∧ k < 16) ∨ (16 ≤ k ∧ k < 24) ∨ (24 ≤ k ∧ k < 31) ∨ k = 31 := by omega
  rcases this with h | h | h | h | h
  · simp [h]
  · simp [show ¬ k < 8 by omega, show k - 8 < 8 by omega, show 8 + (k - 8) = k by omega]
  · simp [show ¬ k < 8 by omega, show ¬ k - 8 < 8 by omega, show k - 8 - 8 < 8 by omega, show 16 + (k - 8 - 8) = k by omega]
  · simp [show ¬ k < 8 by omega, show ¬ k - 8 < 8 by omega, show ¬ k - 8 - 8 < 8 by omega, show k - 8 - 8 - 8 < 7 by omega,
      show 24 + (k - 8 - 8 - 8) = k by omega]
  · subst h; simp

/-! ## The prefix words -/

@[simp] theorem fS_immWord (i : BitVec 24) : fS (immWord i) = false := by
  rw [fS, immWord, BitVec.getLsbD_append]; rfl
@[simp] theorem fS_extWord (i : BitVec 24) : fS (extWord i) = false := by
  rw [fS, extWord, BitVec.getLsbD_append]; rfl
@[simp] theorem fMaj_immWord (i : BitVec 24) : fMaj (immWord i) = 0x7C := by
  ext k hk
  simp only [fMaj, immWord, BitVec.getElem_extractLsb', BitVec.getLsbD_append]
  simp [show ¬ 24 + k < 24 by omega]
  revert k; decide
@[simp] theorem fMaj_extWord (i : BitVec 24) : fMaj (extWord i) = 0x7D := by
  ext k hk
  simp only [fMaj, extWord, BitVec.getElem_extractLsb', BitVec.getLsbD_append]
  simp [show ¬ 24 + k < 24 by omega]
  revert k; decide
@[simp] theorem body_immWord (i : BitVec 24) : (immWord i).extractLsb' 0 24 = i := by
  ext k hk
  simp only [immWord, BitVec.getElem_extractLsb', BitVec.getLsbD_append]
  simp [hk]
@[simp] theorem body_extWord (i : BitVec 24) : (extWord i).extractLsb' 0 24 = i := by
  ext k hk
  simp only [extWord, BitVec.getElem_extractLsb', BitVec.getLsbD_append]
  simp [hk]

/-! ## Parts of a field -/

@[simp] theorem hi2_f26 (u : BitVec 2) (r : BitVec 6) : hi2 (f26 u r) = u := by revert u r; decide
@[simp] theorem lo6_f26 (u : BitVec 2) (r : BitVec 6) : lo6 (f26 u r) = r := by revert u r; decide
@[simp] theorem hi5_f53 (u : BitVec 5) (r : BitVec 3) : hi5 (f53 u r) = u := by revert u r; decide
@[simp] theorem lo3_f53 (u : BitVec 5) (r : BitVec 3) : lo3 (f53 u r) = r := by revert u r; decide
@[simp] theorem hi4_f44 (u r : BitVec 4) : hi4 (f44 u r) = u := by revert u r; decide
@[simp] theorem lo4_f44 (u r : BitVec 4) : lo4 (f44 u r) = r := by revert u r; decide
@[simp] theorem hi6_f62 (u : BitVec 6) (r : BitVec 2) : hi6 (f62 u r) = u := by revert u r; decide
@[simp] theorem lo2_f62 (u : BitVec 6) (r : BitVec 2) : lo2 (f62 u r) = r := by revert u r; decide
@[simp] theorem hi2_f53 (u : BitVec 5) (r : BitVec 3) : hi2 (f53 u r) = u.extractLsb' 3 2 := by revert u r; decide
@[simp] theorem lo4_f26 (u : BitVec 2) (r : BitVec 6) : lo4 (f26 u r) = r.extractLsb' 0 4 := by revert u r; decide
/-- The fields whose upper part is zero. -/
theorem f26_lo6 (x : BitVec 8) (h : nz (hi2 x) = false) : f26 0 (lo6 x) = x := by revert x; decide
theorem f53_lo3 (x : BitVec 8) (h : nz (hi5 x) = false) : f53 0 (lo3 x) = x := by revert x; decide
theorem f44_lo4 (x : BitVec 8) (h : nz (hi4 x) = false) : f44 0 (lo4 x) = x := by revert x; decide
theorem f26_parts (x : BitVec 8) : f26 (hi2 x) (lo6 x) = x := by revert x; decide
theorem f53_parts (x : BitVec 8) : f53 (hi5 x) (lo3 x) = x := by revert x; decide
theorem f44_parts (x : BitVec 8) : f44 (hi4 x) (lo4 x) = x := by revert x; decide
theorem f62_parts (x : BitVec 8) : f62 (hi6 x) (lo2 x) = x := by revert x; decide
@[simp] theorem hi2_zero : hi2 0#8 = 0 := by decide
@[simp] theorem lo6_zero : lo6 0#8 = 0 := by decide
@[simp] theorem hi5_zero : hi5 0#8 = 0 := by decide
@[simp] theorem lo3_zero : lo3 0#8 = 0 := by decide
@[simp] theorem hi4_zero : hi4 0#8 = 0 := by decide
@[simp] theorem lo4_zero : lo4 0#8 = 0 := by decide
@[simp] theorem nz_zero {n : Nat} : nz (0#n) = false := by simp [nz]
theorem join2_0 (u : BitVec 4) : (u.extractLsb' 2 2 ++ u.extractLsb' 0 2 : BitVec 4) = u := by revert u; decide

/-- The long immediate is the prefix body over field C (R30). -/
@[simp] theorem join_imm (w : Word) : (w.extractLsb' 8 24 ++ w.extractLsb' 0 8 : BitVec 32) = w := by
  apply BitVec.eq_of_getLsbD_eq
  intro k hk
  simp only [BitVec.getLsbD_append, BitVec.getLsbD_extractLsb']
  by_cases h : k < 8
  · simp [h]
  · simp [h, show 8 + (k - 8) = k by omega, show k - 8 < 24 by omega]

/-! ## Codes -/

@[simp] theorem SCond.ofCode_code (c : SCond) : SCond.ofCode c.code = some c := by cases c <;> rfl
@[simp] theorem BCond.ofCode_code (c : BCond) : BCond.ofCode c.code = c := by cases c <;> rfl
@[simp] theorem VCond.ofCode_code (c : VCond) : VCond.ofCode c.code = some c := by cases c <;> rfl
@[simp] theorem FCond.ofCode_code (c : FCond) : FCond.ofCode c.code = some c := by cases c <;> rfl
@[simp] theorem Width.ofCode_code (c : Width) : Width.ofCode c.code = some c := by cases c <;> rfl
@[simp] theorem ModeField.ofCode_code (c : ModeField) : ModeField.ofCode c.code = c := by cases c <;> rfl
@[simp] theorem Path.ofCode_code (c : Path) : Path.ofCode c.code = c := by cases c <;> rfl
@[simp] theorem Scope.ofCode_code (c : Scope) : Scope.ofCode c.code c.grp = some c := by cases c <;> rfl
@[simp] theorem Order.ofCode_code (c : Order) : Order.ofCode c.code = c := by cases c <;> rfl
@[simp] theorem FenceKind.ofCode_code (c : FenceKind) : FenceKind.ofCode c.code = c := by cases c <;> rfl
@[simp] theorem RedOp.ofCode_code (c : RedOp) : RedOp.ofCode c.code = some c := by cases c <;> rfl
@[simp] theorem AredOp.ofCode_code (c : AredOp) : AredOp.ofCode c.code = some c := by cases c <;> rfl
@[simp] theorem Shuf.ofCode_code (c : Shuf) : Shuf.ofCode c.code = some c := by cases c <;> rfl
@[simp] theorem PKind.ofCode_code (c : PKind) : PKind.ofCode c.code = c := by cases c <;> rfl
@[simp] theorem PClass.ofCode_code (c : PClass) : PClass.ofCode c.code = some c := by cases c <;> rfl
@[simp] theorem ETy.ofCode_code (c : ETy) : ETy.ofCode c.code = some c := by cases c <;> rfl
theorem SReg.ofCode_code (c : SReg) : SReg.ofCode c.code = some c := by
  cases c <;> first | rfl | (rename_i n; revert n; decide)

end Sys2Proof
end

