-- ==== Sys2Proof/Laws/Guess.lean ====
section
/-! SUPPORT. Consuming truths, freeing tags and the finish of guess instructions (spec/11_guesses_drafts.md R136 to R142). -/

set_option linter.unusedSimpArgs false

namespace Sys2Proof.Machine

open Sys2Proof

/-- A unit that may run now runs its body at the phase of its slot. -/
theorem run_held (i : Instr) (t : Traits) (ops : List Opd) (body : Nat → State → Res) (s : State)
    (hh : t.handlerOnly = false) (he : t.ets.getLsbD (mET s.mode) = true) (hc : t.path = none)
    (h : s.runsNow ops) (hnf : s.futuresOf ops = []) : 
    ∃ ph, run i t ops body s = s.settle i t (body ph s) := by
  rcases h with h | ⟨h, hw⟩
  · exact ⟨s.fs.phase, by unfold run; simp [h]⟩
  · refine ⟨0, ?_⟩
    rw [run_now i t ops body s h (by simp [hh]) he (fun _ => hw) (by simp [hc])]
    simp [State.seen, hnf]

/-- A change of a wave beside its registers keeps every register. -/
theorem keepsRegs_updTags (s : State) (w : Nat) (f : Wave → Wave) (h : ∀ v, (f v).sregs = v.sregs ∧ (f v).vregs = v.vregs ∧ (f v).pregs = v.pregs) (ks kv kp) : keepsRegs s (s.updWave w f) ks kv kp :=
  keepsRegs_of ks kv kp (fun k => by rw [State.updWave_at]; split <;> simp [h])

/-- The lanes of a value are the value. -/
theorem L8.ofFn_get {α} (x : L8 α) : L8.ofFn x.get = x := rfl

/-- Two states differ in guess tags, epochs, accesses, messages and cores alone. -/
structure Quiet (s t : State) : Prop where
  focus : t.focus = s.focus
  regs : ∀ w, (t.wave w).sregs = (s.wave w).sregs ∧ (t.wave w).vregs = (s.wave w).vregs ∧ (t.wave w).pregs = (s.wave w).pregs
  slots : ∀ w, (t.wave w).slotA = (s.wave w).slotA ∧ (t.wave w).slotB = (s.wave w).slotB ∧ (t.wave w).spill = (s.wave w).spill ∧ (t.wave w).block = (s.wave w).block ∧ (t.wave w).pad = (s.wave w).pad ∧ (t.wave w).mm = (s.wave w).mm
  rest : keepsRest s t
  cells : t.cells = s.cells

/-- Nothing changes from a state to itself. -/
theorem Quiet.rfl {s : State} : Quiet s s := ⟨by simp, by simp, by simp, keepsRest_rfl s, by simp⟩
/-- Quiet steps compose. -/
theorem Quiet.trans {s u t : State} (a : Quiet s u) (b : Quiet u t) : Quiet s t :=
  ⟨b.focus.trans a.focus, fun w => by have := a.regs w; have := b.regs w; simp_all, fun w => by have := a.slots w; have := b.slots w; simp_all, keepsRest_trans a.rest b.rest, b.cells.trans a.cells⟩
/-- The frame from equal fields. -/
theorem keepsRest_of (s t : State) (h1 : keepsTraps s t) (h2 : t.mem = s.mem) (h3 : t.cells = s.cells) (h4 : t.hostMem = s.hostMem)
    (h5 : t.peerMem = s.peerMem) (h6 : t.blocks = s.blocks) (h7 : keepsDevice s t) (h8 : t.launches = s.launches) : keepsRest s t := by
  refine ⟨h1, keepsMemory_of h2 h3 h4 h5 ?_, ?_, h7, ?_⟩
  · intro b; simp [State.block, h6]
  · intro b; simp [State.block, h6]
  · intro b; simp [State.launch, h8]
/-- Retiring an access is quiet. -/
theorem quiet_retire (s : State) (a : Nat) : Quiet s (s.retire a) :=
  ⟨by simp, by simp, by simp, keepsRest_of _ _ (fun w => by simp) (by simp) (by simp) (by simp) (by simp) (by simp) (by simp [keepsDevice]) (by simp), by simp⟩
/-- A fold of quiet steps is quiet. -/
theorem quiet_fold {α} (g : State → α → State) (h : ∀ s x, Quiet s (g s x)) (l : List α) (s : State) : Quiet s (l.foldl g s) := by
  induction l generalizing s with
  | nil => exact Quiet.rfl
  | cons x l ih => exact (h s x).trans (ih _)
/-- A change of guess tags is quiet. -/
theorem quiet_tags (s : State) (w : Nat) (f : Wave → List GTag) : Quiet s (s.updWave w (fun v => { v with tags := f v })) := by
  refine ⟨by simp, fun k => ?_, fun k => ?_, keepsRest_of _ _ (fun k => ?_) (by simp) (by simp) (by simp) (by simp) (by simp) (by simp [keepsDevice]) (by simp), by simp⟩
  all_goals rw [State.updWave_at]; split <;> simp
/-- A change of the cores is quiet. -/
theorem quiet_cores (s : State) (c : Tab Core) : Quiet s { s with cores := c } :=
  ⟨rfl, fun _ => ⟨rfl, rfl, rfl⟩, fun _ => ⟨rfl, rfl, rfl, rfl, rfl, rfl⟩, keepsRest_of _ _ (fun w => ⟨rfl,rfl,rfl,rfl,rfl,rfl,rfl,rfl⟩) rfl rfl rfl rfl rfl ⟨rfl,rfl,rfl,rfl,rfl,rfl⟩ rfl, rfl⟩
/-- Recording a truth is quiet. -/
theorem quiet_recordTruth (s : State) (t : GTag) : Quiet s (s.recordTruth t) := by
  unfold State.recordTruth; dsimp only
  split
  · exact quiet_cores s _
  · exact Quiet.rfl
/-- Taking the truths of compares is quiet. -/
theorem quiet_takeTruths (s : State) (cs) : Quiet s (s.takeTruths cs) := by
  unfold State.takeTruths; dsimp only
  refine (quiet_fold _ ?_ _ _).trans ((quiet_fold _ ?_ _ _).trans (quiet_fold _ ?_ _ _))
  · intro s c; exact quiet_tags s _ _
  · intro s x; split
    · exact quiet_recordTruth s x
    · exact Quiet.rfl
  · intro s x; exact quiet_retire s _
/-- Consuming truths is quiet when it is done. -/
theorem quiet_consume (s : State) (tags) (u) (h : s.consume tags = .done u) : Quiet s u := by
  unfold State.consume at h; dsimp only at h
  (repeat' split at h) <;> simp_all
  subst h; exact quiet_takeTruths s _
/-- Freeing a tag is quiet. -/
theorem quiet_freeTag (s : State) (t : GTag) : Quiet s (s.freeTag t) := by
  unfold State.freeTag; dsimp only
  split
  · exact quiet_tags s _ _
  · exact (quiet_tags s _ _).trans (quiet_retire _ _)

/-- A quiet step keeps every register. -/
theorem keepsRegs_quiet {s t : State} (h : Quiet s t) (ks kv kp) : keepsRegs s t ks kv kp := keepsRegs_of ks kv kp h.regs
/-- A quiet step keeps vector registers. -/
theorem Quiet.v {s u : State} (h : Quiet s u) (w r) : (u.wave w).v r = (s.wave w).v r := by simp [Wave.v, (h.regs w).2.1]
/-- A quiet step keeps predicate registers. -/
theorem Quiet.p {s u : State} (h : Quiet s u) (w r) : (u.wave w).p r = (s.wave w).p r := by simp [Wave.p, (h.regs w).2.2]
/-- A quiet step keeps the issuing slot. -/
theorem Quiet.fs {s u : State} (h : Quiet s u) : u.fs = s.fs := by
  have := h.slots s.focus.wave
  simp [State.fs, State.fw, h.focus, Wave.slot, this]
/-- A quiet step keeps the spill stack. -/
theorem Quiet.spill {s u : State} (h : Quiet s u) : u.fw.spill = s.fw.spill := by
  have := h.slots s.focus.wave
  simp [State.fw, h.focus, this]
/-- A quiet step keeps the active lanes. -/
theorem Quiet.active {s u : State} (h : Quiet s u) : u.active = s.active := by
  simp [State.active, State.guardLanes, State.mask, State.mode, h.fs, State.fw, Wave.p, h.focus, (h.regs s.focus.wave).2.2]; rfl

/-- The finish of a unit that wrote one predicate register. -/
theorem finP {s u : State} (h : Quiet s u) (i : Instr) (tr : Traits) (p : BitVec 3) (m b g : Mask) :
    let t := (u.writeP p m b g).complete i tr false
    (t.wave s.focus.wave).p p.toNat = ((s.wave s.focus.wave).p p.toNat).merge m b g ∧ keepsRegs s t [] [] [p.toNat] ∧ keepsRest s t ∧ goesOn s t i ∧ t.fw.tags = u.fw.tags := by
  intro t
  refine ⟨?_, ?_, ?_, ?_, ?_⟩
  · simp only [t, Wave.p, State.complete_wave_pregs]
    have := State.writeP_p u p m b g s.focus.wave p.toNat
    simp only [Wave.p] at this
    rw [this]; simp [h.focus, (h.regs s.focus.wave).2.2]
  · exact keepsRegs_trans (u := u.writeP p m b g) (by simp [h.focus]) (keepsRegs_trans h.focus (keepsRegs_quiet h _ _ _) (keepsRegs_writeP u p m b g _ _ _ (by simp))) (keepsRegs_complete _ _ _ _ _ _ _)
  · exact keepsRest_trans (keepsRest_trans h.rest (keepsRest_writeP u p m b g)) (keepsRest_complete _ _ _ _)
  · exact goesOn_complete i tr (by simp [h.fs]) (by simp [h.spill])
  · simp [t, State.fw]
/-- The finish of a unit that wrote one vector group. -/
theorem finV {s u : State} (h : Quiet s u) (i : Instr) (tr : Traits) (d n : Nat) (m : Mask) (f : Nat → Nat → Word) (g : Mask) :
    let t := (u.writeGroup d n m f g).complete i tr false
    (∀ k, k < n → (t.wave s.focus.wave).v (d + k) = ((s.wave s.focus.wave).v (d + k)).merge m (f k) g) ∧ keepsRegs s t [] ((List.range n).map (d + ·)) [] ∧ keepsRest s t ∧ goesOn s t i := by
  intro t
  refine ⟨?_, ?_, ?_, ?_⟩
  · intro k hk
    simp only [t, Wave.v, State.complete_wave_vregs]
    have := State.writeGroup_v u d n m f g k hk
    rw [h.focus] at this
    simp only [Wave.v] at this
    rw [this]; simp [(h.regs s.focus.wave).2.1]
  · exact keepsRegs_trans (u := u.writeGroup d n m f g) (by simp [h.focus]) (keepsRegs_trans h.focus (keepsRegs_quiet h _ _ _) (keepsRegs_writeGroup u d n m f g _ (fun k hk => by simp; exact hk))) (keepsRegs_complete _ _ _ _ _ _ _)
  · exact keepsRest_trans (keepsRest_trans h.rest (keepsRest_writeGroup u d n m f g)) (keepsRest_complete _ _ _ _)
  · exact goesOn_complete i tr (by simp [h.fs]) (by simp [h.spill])

/-- A write of a register that no tag covers drops no tag. -/
theorem writeV_mm (s : State) (r : Nat) (m : Mask) (f g) (h : ∀ x ∈ s.fw.tags, x.covers r = false) : (s.writeV r m f g).fw.mm = s.fw.mm ∧ (s.writeV r m f g).fw.tags = s.fw.tags := by
  unfold State.writeV
  split
  · exact ⟨rfl, rfl⟩
  · have hh : ∀ v : Wave, v.tags = s.fw.tags → v.dropTag r = v := by
      intro v hv
      unfold Wave.dropTag
      rw [hv, if_neg]
      simp only [Bool.not_eq_true, List.any_eq_false]
      intro x hx; simp [h x hx]
    simp only [State.fw, State.updWave_focus, State.updWave_at, State.killV_focus, State.logDead_focus, if_true, Wave.log_mm, Wave.log_tags]
    rw [hh _ (by simp [State.fw])]
    simp
/-- A write of a group that no tag covers drops no tag. -/
theorem writeGroup_mm (s : State) (d n : Nat) (m : Mask) (f g) (h : ∀ x ∈ s.fw.tags, ∀ k, k < n → x.covers (d + k) = false) :
    (s.writeGroup d n m f g).fw.mm = s.fw.mm ∧ (s.writeGroup d n m f g).fw.tags = s.fw.tags := by
  induction n with
  | zero => exact ⟨rfl, rfl⟩
  | succ n ih =>
    have ih := ih (fun x hx k hk => h x hx k (by omega))
    rw [State.writeGroup_succ]
    have := writeV_mm (s.writeGroup d n m f g) (d + n) m (f n) g (by rw [ih.2]; exact fun x hx => h x hx n (by omega))
    exact ⟨this.1.trans ih.1, this.2.trans ih.2⟩
/-- The tags after one is freed. -/
theorem freeTag_tags (s : State) (t : GTag) : (s.freeTag t).fw.tags = s.fw.tags.filter (fun x => x.acc != t.acc) := by
  unfold State.freeTag State.fw; dsimp only
  split <;> simp
/-- Freeing a tag keeps MM. -/
theorem freeTag_mm (s : State) (t : GTag) : (s.freeTag t).fw.mm = s.fw.mm := by
  unfold State.freeTag State.fw; dsimp only
  split <;> simp
/-- A change of MM keeps the rest. -/
theorem keepsRest_mm (s : State) (w) (f : Wave → Bool) : keepsRest s (s.updWave w (fun v => { v with mm := f v })) := by
  refine keepsRest_of _ _ (fun k => ?_) (by simp) (by simp) (by simp) (by simp) (by simp) (by simp [keepsDevice]) (by simp)
  rw [State.updWave_at]; split <;> simp
/-- Retiring all compares is quiet. -/
theorem retireAll (s : State) : Quiet s (s.compares.foldl (fun s c => s.retire c.1) s) := quiet_fold _ (fun s c => quiet_retire s _) _ s
/-- Ending a tag frees it and writes its values. -/
theorem endTag_eq (s : State) (t : GTag) (val) : s.endTag t val = (s.freeTag t).writeGroup t.base t.regs t.mask val 0 := rfl
/-- A register is a group of one. -/
theorem writeGroup1 (s : State) (d : Nat) (m : Mask) (f : Nat → Word) (g : Mask) : s.writeV d m f g = s.writeGroup d 1 m (fun _ => f) g := by
  simp [State.writeGroup, List.range_succ]
/-- Merging a register with itself clears its guess bits. -/
theorem clr (x : VReg) (m : Mask) : x.merge 0xFF (fun l => x.lanes.get l) 0 = ⟨x.lanes, 0⟩ := by
  obtain ⟨⟨a,b,c,d,e,f,g,h⟩, u⟩ := x
  simp [VReg.merge, L8.ofFn, L8.get]

end Sys2Proof.Machine
end

