-- ==== Sys2Proof/Laws/KeepsAccess.lean ====
section
/-! SUPPORT. What the steps of an access between issue and end leave unchanged. One lemma per operation, over the fields of State; a field that is not named may change. -/

set_option linter.unusedSimpArgs false

namespace Sys2Proof.Machine
open Sys2Proof
@[simp] theorem State.updPiece_keeps (s : State) (a : Nat) (i : Nat) (f : Piece → Piece) :
    (State.updPiece s a i f).waves = s.waves ∧
    (State.updPiece s a i f).blocks = s.blocks ∧
    (State.updPiece s a i f).launches = s.launches ∧
    (State.updPiece s a i f).cores = s.cores ∧
    (State.updPiece s a i f).mem = s.mem ∧
    (State.updPiece s a i f).array = s.array ∧
    (State.updPiece s a i f).hostMem = s.hostMem ∧
    (State.updPiece s a i f).peerMem = s.peerMem ∧
    (State.updPiece s a i f).registrant = s.registrant ∧
    (State.updPiece s a i f).claims = s.claims ∧
    (State.updPiece s a i f).cells = s.cells ∧
    (State.updPiece s a i f).regions = s.regions ∧
    (State.updPiece s a i f).rdc = s.rdc ∧
    (State.updPiece s a i f).l2 = s.l2 ∧
    (State.updPiece s a i f).msc = s.msc ∧
    (State.updPiece s a i f).hbms = s.hbms ∧
    (State.updPiece s a i f).bad = s.bad ∧
    (State.updPiece s a i f).weak = s.weak ∧
    (State.updPiece s a i f).lost = s.lost ∧
    (State.updPiece s a i f).tlb = s.tlb ∧
    (State.updPiece s a i f).net = s.net ∧
    (State.updPiece s a i f).abufs = s.abufs ∧
    (State.updPiece s a i f).jobs = s.jobs ∧
    (State.updPiece s a i f).feet = s.feet ∧
    (State.updPiece s a i f).shapes = s.shapes ∧
    (State.updPiece s a i f).eqs = s.eqs ∧
    (State.updPiece s a i f).insts = s.insts ∧
    (State.updPiece s a i f).links = s.links ∧
    (State.updPiece s a i f).hostAccs = s.hostAccs ∧
    (State.updPiece s a i f).hostLines = s.hostLines ∧
    (State.updPiece s a i f).mgmt = s.mgmt ∧
    (State.updPiece s a i f).focus = s.focus ∧
    (State.updPiece s a i f).agenda = s.agenda ∧
    (State.updPiece s a i f).seq = s.seq ∧
    (∀ k, (State.updPiece s a i f).wave k = s.wave k) ∧
    (∀ k, (State.updPiece s a i f).block k = s.block k) ∧
    (∀ k, (State.updPiece s a i f).launch k = s.launch k) ∧
    (∀ k, (State.updPiece s a i f).core k = s.core k) := by
  (unfold State.updPiece; (try dsimp only); (repeat' split) <;> simp -implicitDefEqProofs (disch := (intros; first | (simp -implicitDefEqProofs [*]; done) | ((try dsimp only); (repeat' split) <;> (simp -implicitDefEqProofs (disch := (intros; (try dsimp only); (repeat' split) <;> (try (simp -implicitDefEqProofs [*]; done)))) [*]; done)) | skip)) [State.wave, State.block, State.launch, State.core])
@[simp] theorem State.farServed_keeps (s : State) (a : Nat) :
    (State.farServed s a).waves = s.waves ∧
    (State.farServed s a).blocks = s.blocks ∧
    (State.farServed s a).launches = s.launches ∧
    (State.farServed s a).cores = s.cores ∧
    (State.farServed s a).mem = s.mem ∧
    (State.farServed s a).array = s.array ∧
    (State.farServed s a).hostMem = s.hostMem ∧
    (State.farServed s a).peerMem = s.peerMem ∧
    (State.farServed s a).registrant = s.registrant ∧
    (State.farServed s a).claims = s.claims ∧
    (State.farServed s a).cells = s.cells ∧
    (State.farServed s a).regions = s.regions ∧
    (State.farServed s a).rdc = s.rdc ∧
    (State.farServed s a).l2 = s.l2 ∧
    (State.farServed s a).msc = s.msc ∧
    (State.farServed s a).hbms = s.hbms ∧
    (State.farServed s a).bad = s.bad ∧
    (State.farServed s a).weak = s.weak ∧
    (State.farServed s a).lost = s.lost ∧
    (State.farServed s a).tlb = s.tlb ∧
    (State.farServed s a).net = s.net ∧
    (State.farServed s a).abufs = s.abufs ∧
    (State.farServed s a).jobs = s.jobs ∧
    (State.farServed s a).feet = s.feet ∧
    (State.farServed s a).shapes = s.shapes ∧
    (State.farServed s a).eqs = s.eqs ∧
    (State.farServed s a).insts = s.insts ∧
    (State.farServed s a).links = s.links ∧
    (State.farServed s a).hostAccs = s.hostAccs ∧
    (State.farServed s a).hostLines = s.hostLines ∧
    (State.farServed s a).mgmt = s.mgmt ∧
    (State.farServed s a).focus = s.focus ∧
    (State.farServed s a).agenda = s.agenda ∧
    (State.farServed s a).seq = s.seq ∧
    (∀ k, (State.farServed s a).wave k = s.wave k) ∧
    (∀ k, (State.farServed s a).block k = s.block k) ∧
    (∀ k, (State.farServed s a).launch k = s.launch k) ∧
    (∀ k, (State.farServed s a).core k = s.core k) := by
  (unfold State.farServed; (try dsimp only); (repeat' split) <;> simp -implicitDefEqProofs (disch := (intros; first | (simp -implicitDefEqProofs [*]; done) | ((try dsimp only); (repeat' split) <;> (simp -implicitDefEqProofs (disch := (intros; (try dsimp only); (repeat' split) <;> (try (simp -implicitDefEqProofs [*]; done)))) [*]; done)) | skip)) [State.wave, State.block, State.launch, State.core])
@[simp] theorem State.claimPiece_keeps_0 (s : State) (a : Nat) (i : Nat) :
    (State.claimPiece s a i).waves = s.waves := by
  (unfold State.claimPiece; (try dsimp only); (repeat' split) <;> simp -implicitDefEqProofs (disch := (intros; first | (simp -implicitDefEqProofs [*]; done) | ((try dsimp only); (repeat' split) <;> (simp -implicitDefEqProofs (disch := (intros; (try dsimp only); (repeat' split) <;> (try (simp -implicitDefEqProofs [*]; done)))) [*]; done)) | skip)) [State.wave, State.block, State.launch, State.core])
@[simp] theorem State.claimPiece_keeps_1 (s : State) (a : Nat) (i : Nat) :
    (State.claimPiece s a i).blocks = s.blocks := by
  (unfold State.claimPiece; (try dsimp only); (repeat' split) <;> simp -implicitDefEqProofs (disch := (intros; first | (simp -implicitDefEqProofs [*]; done) | ((try dsimp only); (repeat' split) <;> (simp -implicitDefEqProofs (disch := (intros; (try dsimp only); (repeat' split) <;> (try (simp -implicitDefEqProofs [*]; done)))) [*]; done)) | skip)) [State.wave, State.block, State.launch, State.core])
@[simp] theorem State.claimPiece_keeps_2 (s : State) (a : Nat) (i : Nat) :
    (State.claimPiece s a i).launches = s.launches := by
  (unfold State.claimPiece; (try dsimp only); (repeat' split) <;> simp -implicitDefEqProofs (disch := (intros; first | (simp -implicitDefEqProofs [*]; done) | ((try dsimp only); (repeat' split) <;> (simp -implicitDefEqProofs (disch := (intros; (try dsimp only); (repeat' split) <;> (try (simp -implicitDefEqProofs [*]; done)))) [*]; done)) | skip)) [State.wave, State.block, State.launch, State.core])
@[simp] theorem State.claimPiece_keeps_3 (s : State) (a : Nat) (i : Nat) :
    (State.claimPiece s a i).hostMem = s.hostMem := by
  (unfold State.claimPiece; (try dsimp only); (repeat' split) <;> simp -implicitDefEqProofs (disch := (intros; first | (simp -implicitDefEqProofs [*]; done) | ((try dsimp only); (repeat' split) <;> (simp -implicitDefEqProofs (disch := (intros; (try dsimp only); (repeat' split) <;> (try (simp -implicitDefEqProofs [*]; done)))) [*]; done)) | skip)) [State.wave, State.block, State.launch, State.core])
@[simp] theorem State.claimPiece_keeps_4 (s : State) (a : Nat) (i : Nat) :
    (State.claimPiece s a i).peerMem = s.peerMem := by
  (unfold State.claimPiece; (try dsimp only); (repeat' split) <;> simp -implicitDefEqProofs (disch := (intros; first | (simp -implicitDefEqProofs [*]; done) | ((try dsimp only); (repeat' split) <;> (simp -implicitDefEqProofs (disch := (intros; (try dsimp only); (repeat' split) <;> (try (simp -implicitDefEqProofs [*]; done)))) [*]; done)) | skip)) [State.wave, State.block, State.launch, State.core])
@[simp] theorem State.claimPiece_keeps_5 (s : State) (a : Nat) (i : Nat) :
    (State.claimPiece s a i).registrant = s.registrant := by
  (unfold State.claimPiece; (try dsimp only); (repeat' split) <;> simp -implicitDefEqProofs (disch := (intros; first | (simp -implicitDefEqProofs [*]; done) | ((try dsimp only); (repeat' split) <;> (simp -implicitDefEqProofs (disch := (intros; (try dsimp only); (repeat' split) <;> (try (simp -implicitDefEqProofs [*]; done)))) [*]; done)) | skip)) [State.wave, State.block, State.launch, State.core])
@[simp] theorem State.claimPiece_keeps_6 (s : State) (a : Nat) (i : Nat) :
    (State.claimPiece s a i).regions = s.regions := by
  (unfold State.claimPiece; (try dsimp only); (repeat' split) <;> simp -implicitDefEqProofs (disch := (intros; first | (simp -implicitDefEqProofs [*]; done) | ((try dsimp only); (repeat' split) <;> (simp -implicitDefEqProofs (disch := (intros; (try dsimp only); (repeat' split) <;> (try (simp -implicitDefEqProofs [*]; done)))) [*]; done)) | skip)) [State.wave, State.block, State.launch, State.core])
@[simp] theorem State.claimPiece_keeps_7 (s : State) (a : Nat) (i : Nat) :
    (State.claimPiece s a i).rdc = s.rdc := by
  (unfold State.claimPiece; (try dsimp only); (repeat' split) <;> simp -implicitDefEqProofs (disch := (intros; first | (simp -implicitDefEqProofs [*]; done) | ((try dsimp only); (repeat' split) <;> (simp -implicitDefEqProofs (disch := (intros; (try dsimp only); (repeat' split) <;> (try (simp -implicitDefEqProofs [*]; done)))) [*]; done)) | skip)) [State.wave, State.block, State.launch, State.core])
@[simp] theorem State.claimPiece_keeps_8 (s : State) (a : Nat) (i : Nat) :
    (State.claimPiece s a i).tlb = s.tlb := by
  (unfold State.claimPiece; (try dsimp only); (repeat' split) <;> simp -implicitDefEqProofs (disch := (intros; first | (simp -implicitDefEqProofs [*]; done) | ((try dsimp only); (repeat' split) <;> (simp -implicitDefEqProofs (disch := (intros; (try dsimp only); (repeat' split) <;> (try (simp -implicitDefEqProofs [*]; done)))) [*]; done)) | skip)) [State.wave, State.block, State.launch, State.core])
@[simp] theorem State.claimPiece_keeps_9 (s : State) (a : Nat) (i : Nat) :
    (State.claimPiece s a i).net = s.net := by
  (unfold State.claimPiece; (try dsimp only); (repeat' split) <;> simp -implicitDefEqProofs (disch := (intros; first | (simp -implicitDefEqProofs [*]; done) | ((try dsimp only); (repeat' split) <;> (simp -implicitDefEqProofs (disch := (intros; (try dsimp only); (repeat' split) <;> (try (simp -implicitDefEqProofs [*]; done)))) [*]; done)) | skip)) [State.wave, State.block, State.launch, State.core])
@[simp] theorem State.claimPiece_keeps_10 (s : State) (a : Nat) (i : Nat) :
    (State.claimPiece s a i).abufs = s.abufs := by
  (unfold State.claimPiece; (try dsimp only); (repeat' split) <;> simp -implicitDefEqProofs (disch := (intros; first | (simp -implicitDefEqProofs [*]; done) | ((try dsimp only); (repeat' split) <;> (simp -implicitDefEqProofs (disch := (intros; (try dsimp only); (repeat' split) <;> (try (simp -implicitDefEqProofs [*]; done)))) [*]; done)) | skip)) [State.wave, State.block, State.launch, State.core])
@[simp] theorem State.claimPiece_keeps_11 (s : State) (a : Nat) (i : Nat) :
    (State.claimPiece s a i).jobs = s.jobs := by
  (unfold State.claimPiece; (try dsimp only); (repeat' split) <;> simp -implicitDefEqProofs (disch := (intros; first | (simp -implicitDefEqProofs [*]; done) | ((try dsimp only); (repeat' split) <;> (simp -implicitDefEqProofs (disch := (intros; (try dsimp only); (repeat' split) <;> (try (simp -implicitDefEqProofs [*]; done)))) [*]; done)) | skip)) [State.wave, State.block, State.launch, State.core])
@[simp] theorem State.claimPiece_keeps_12 (s : State) (a : Nat) (i : Nat) :
    (State.claimPiece s a i).feet = s.feet := by
  (unfold State.claimPiece; (try dsimp only); (repeat' split) <;> simp -implicitDefEqProofs (disch := (intros; first | (simp -implicitDefEqProofs [*]; done) | ((try dsimp only); (repeat' split) <;> (simp -implicitDefEqProofs (disch := (intros; (try dsimp only); (repeat' split) <;> (try (simp -implicitDefEqProofs [*]; done)))) [*]; done)) | skip)) [State.wave, State.block, State.launch, State.core])
@[simp] theorem State.claimPiece_keeps_13 (s : State) (a : Nat) (i : Nat) :
    (State.claimPiece s a i).shapes = s.shapes := by
  (unfold State.claimPiece; (try dsimp only); (repeat' split) <;> simp -implicitDefEqProofs (disch := (intros; first | (simp -implicitDefEqProofs [*]; done) | ((try dsimp only); (repeat' split) <;> (simp -implicitDefEqProofs (disch := (intros; (try dsimp only); (repeat' split) <;> (try (simp -implicitDefEqProofs [*]; done)))) [*]; done)) | skip)) [State.wave, State.block, State.launch, State.core])
@[simp] theorem State.claimPiece_keeps_14 (s : State) (a : Nat) (i : Nat) :
    (State.claimPiece s a i).eqs = s.eqs := by
  (unfold State.claimPiece; (try dsimp only); (repeat' split) <;> simp -implicitDefEqProofs (disch := (intros; first | (simp -implicitDefEqProofs [*]; done) | ((try dsimp only); (repeat' split) <;> (simp -implicitDefEqProofs (disch := (intros; (try dsimp only); (repeat' split) <;> (try (simp -implicitDefEqProofs [*]; done)))) [*]; done)) | skip)) [State.wave, State.block, State.launch, State.core])
@[simp] theorem State.claimPiece_keeps_15 (s : State) (a : Nat) (i : Nat) :
    (State.claimPiece s a i).insts = s.insts := by
  (unfold State.claimPiece; (try dsimp only); (repeat' split) <;> simp -implicitDefEqProofs (disch := (intros; first | (simp -implicitDefEqProofs [*]; done) | ((try dsimp only); (repeat' split) <;> (simp -implicitDefEqProofs (disch := (intros; (try dsimp only); (repeat' split) <;> (try (simp -implicitDefEqProofs [*]; done)))) [*]; done)) | skip)) [State.wave, State.block, State.launch, State.core])
@[simp] theorem State.claimPiece_keeps_16 (s : State) (a : Nat) (i : Nat) :
    (State.claimPiece s a i).hostAccs = s.hostAccs := by
  (unfold State.claimPiece; (try dsimp only); (repeat' split) <;> simp -implicitDefEqProofs (disch := (intros; first | (simp -implicitDefEqProofs [*]; done) | ((try dsimp only); (repeat' split) <;> (simp -implicitDefEqProofs (disch := (intros; (try dsimp only); (repeat' split) <;> (try (simp -implicitDefEqProofs [*]; done)))) [*]; done)) | skip)) [State.wave, State.block, State.launch, State.core])
@[simp] theorem State.claimPiece_keeps_17 (s : State) (a : Nat) (i : Nat) :
    (State.claimPiece s a i).mgmt = s.mgmt := by
  (unfold State.claimPiece; (try dsimp only); (repeat' split) <;> simp -implicitDefEqProofs (disch := (intros; first | (simp -implicitDefEqProofs [*]; done) | ((try dsimp only); (repeat' split) <;> (simp -implicitDefEqProofs (disch := (intros; (try dsimp only); (repeat' split) <;> (try (simp -implicitDefEqProofs [*]; done)))) [*]; done)) | skip)) [State.wave, State.block, State.launch, State.core])
@[simp] theorem State.claimPiece_keeps_18 (s : State) (a : Nat) (i : Nat) :
    (State.claimPiece s a i).focus = s.focus := by
  (unfold State.claimPiece; (try dsimp only); (repeat' split) <;> simp -implicitDefEqProofs (disch := (intros; first | (simp -implicitDefEqProofs [*]; done) | ((try dsimp only); (repeat' split) <;> (simp -implicitDefEqProofs (disch := (intros; (try dsimp only); (repeat' split) <;> (try (simp -implicitDefEqProofs [*]; done)))) [*]; done)) | skip)) [State.wave, State.block, State.launch, State.core])
@[simp] theorem State.claimPiece_keeps_19 (s : State) (a : Nat) (i : Nat) :
    (State.claimPiece s a i).agenda = s.agenda := by
  (unfold State.claimPiece; (try dsimp only); (repeat' split) <;> simp -implicitDefEqProofs (disch := (intros; first | (simp -implicitDefEqProofs [*]; done) | ((try dsimp only); (repeat' split) <;> (simp -implicitDefEqProofs (disch := (intros; (try dsimp only); (repeat' split) <;> (try (simp -implicitDefEqProofs [*]; done)))) [*]; done)) | skip)) [State.wave, State.block, State.launch, State.core])
@[simp] theorem State.dropClaims_keeps (s : State) (a : Nat) (g : List Nat) :
    (State.dropClaims s a g).waves = s.waves ∧
    (State.dropClaims s a g).blocks = s.blocks ∧
    (State.dropClaims s a g).launches = s.launches ∧
    (State.dropClaims s a g).cores = s.cores ∧
    (State.dropClaims s a g).mem = s.mem ∧
    (State.dropClaims s a g).array = s.array ∧
    (State.dropClaims s a g).hostMem = s.hostMem ∧
    (State.dropClaims s a g).peerMem = s.peerMem ∧
    (State.dropClaims s a g).registrant = s.registrant ∧
    (State.dropClaims s a g).claims = s.claims ∧
    (State.dropClaims s a g).cells = s.cells ∧
    (State.dropClaims s a g).regions = s.regions ∧
    (State.dropClaims s a g).rdc = s.rdc ∧
    (State.dropClaims s a g).l2 = s.l2 ∧
    (State.dropClaims s a g).msc = s.msc ∧
    (State.dropClaims s a g).hbms = s.hbms ∧
    (State.dropClaims s a g).bad = s.bad ∧
    (State.dropClaims s a g).weak = s.weak ∧
    (State.dropClaims s a g).lost = s.lost ∧
    (State.dropClaims s a g).tlb = s.tlb ∧
    (State.dropClaims s a g).accs = s.accs ∧
    (State.dropClaims s a g).abufs = s.abufs ∧
    (State.dropClaims s a g).jobs = s.jobs ∧
    (State.dropClaims s a g).feet = s.feet ∧
    (State.dropClaims s a g).shapes = s.shapes ∧
    (State.dropClaims s a g).eqs = s.eqs ∧
    (State.dropClaims s a g).insts = s.insts ∧
    (State.dropClaims s a g).links = s.links ∧
    (State.dropClaims s a g).hostAccs = s.hostAccs ∧
    (State.dropClaims s a g).hostLines = s.hostLines ∧
    (State.dropClaims s a g).mgmt = s.mgmt ∧
    (State.dropClaims s a g).focus = s.focus ∧
    (State.dropClaims s a g).agenda = s.agenda ∧
    (State.dropClaims s a g).seq = s.seq ∧
    (∀ k, (State.dropClaims s a g).wave k = s.wave k) ∧
    (∀ k, (State.dropClaims s a g).block k = s.block k) ∧
    (∀ k, (State.dropClaims s a g).launch k = s.launch k) ∧
    (∀ k, (State.dropClaims s a g).core k = s.core k) := by
  (unfold State.dropClaims; (try dsimp only); (repeat' split) <;> simp -implicitDefEqProofs (disch := (intros; first | (simp -implicitDefEqProofs [*]; done) | ((try dsimp only); (repeat' split) <;> (simp -implicitDefEqProofs (disch := (intros; (try dsimp only); (repeat' split) <;> (try (simp -implicitDefEqProofs [*]; done)))) [*]; done)) | skip)) [State.wave, State.block, State.launch, State.core])
@[simp] theorem State.countGroup_keeps (s : State) (a : Nat) (x : Acc) (p : Piece) (g : List Nat) (counted : Bool) :
    (State.countGroup s a x p g counted).waves = s.waves ∧
    (State.countGroup s a x p g counted).blocks = s.blocks ∧
    (State.countGroup s a x p g counted).launches = s.launches ∧
    (State.countGroup s a x p g counted).cores = s.cores ∧
    (State.countGroup s a x p g counted).array = s.array ∧
    (State.countGroup s a x p g counted).hostMem = s.hostMem ∧
    (State.countGroup s a x p g counted).peerMem = s.peerMem ∧
    (State.countGroup s a x p g counted).registrant = s.registrant ∧
    (State.countGroup s a x p g counted).claims = s.claims ∧
    (State.countGroup s a x p g counted).cells = s.cells ∧
    (State.countGroup s a x p g counted).regions = s.regions ∧
    (State.countGroup s a x p g counted).rdc = s.rdc ∧
    (State.countGroup s a x p g counted).l2 = s.l2 ∧
    (State.countGroup s a x p g counted).hbms = s.hbms ∧
    (State.countGroup s a x p g counted).weak = s.weak ∧
    (State.countGroup s a x p g counted).lost = s.lost ∧
    (State.countGroup s a x p g counted).tlb = s.tlb ∧
    (State.countGroup s a x p g counted).accs = s.accs ∧
    (State.countGroup s a x p g counted).net = s.net ∧
    (State.countGroup s a x p g counted).abufs = s.abufs ∧
    (State.countGroup s a x p g counted).jobs = s.jobs ∧
    (State.countGroup s a x p g counted).feet = s.feet ∧
    (State.countGroup s a x p g counted).shapes = s.shapes ∧
    (State.countGroup s a x p g counted).eqs = s.eqs ∧
    (State.countGroup s a x p g counted).insts = s.insts ∧
    (State.countGroup s a x p g counted).links = s.links ∧
    (State.countGroup s a x p g counted).hostAccs = s.hostAccs ∧
    (State.countGroup s a x p g counted).hostLines = s.hostLines ∧
    (State.countGroup s a x p g counted).mgmt = s.mgmt ∧
    (State.countGroup s a x p g counted).focus = s.focus ∧
    (State.countGroup s a x p g counted).agenda = s.agenda ∧
    (State.countGroup s a x p g counted).seq = s.seq ∧
    (∀ k, (State.countGroup s a x p g counted).wave k = s.wave k) ∧
    (∀ k, (State.countGroup s a x p g counted).block k = s.block k) ∧
    (∀ k, (State.countGroup s a x p g counted).launch k = s.launch k) ∧
    (∀ k, (State.countGroup s a x p g counted).core k = s.core k) := by
  (unfold State.countGroup; (try dsimp only); (repeat' split) <;> simp -implicitDefEqProofs (disch := (intros; first | (simp -implicitDefEqProofs [*]; done) | ((try dsimp only); (repeat' split) <;> (simp -implicitDefEqProofs (disch := (intros; (try dsimp only); (repeat' split) <;> (try (simp -implicitDefEqProofs [*]; done)))) [*]; done)) | skip)) [State.wave, State.block, State.launch, State.core])
@[simp] theorem State.mismatch_keeps (s : State) (a : Nat) :
    (State.mismatch s a).launches = s.launches ∧
    (State.mismatch s a).mem = s.mem ∧
    (State.mismatch s a).array = s.array ∧
    (State.mismatch s a).hostMem = s.hostMem ∧
    (State.mismatch s a).peerMem = s.peerMem ∧
    (State.mismatch s a).registrant = s.registrant ∧
    (State.mismatch s a).cells = s.cells ∧
    (State.mismatch s a).regions = s.regions ∧
    (State.mismatch s a).rdc = s.rdc ∧
    (State.mismatch s a).l2 = s.l2 ∧
    (State.mismatch s a).msc = s.msc ∧
    (State.mismatch s a).hbms = s.hbms ∧
    (State.mismatch s a).bad = s.bad ∧
    (State.mismatch s a).weak = s.weak ∧
    (State.mismatch s a).lost = s.lost ∧
    (State.mismatch s a).tlb = s.tlb ∧
    (State.mismatch s a).abufs = s.abufs ∧
    (State.mismatch s a).jobs = s.jobs ∧
    (State.mismatch s a).feet = s.feet ∧
    (State.mismatch s a).shapes = s.shapes ∧
    (State.mismatch s a).eqs = s.eqs ∧
    (State.mismatch s a).insts = s.insts ∧
    (State.mismatch s a).links = s.links ∧
    (State.mismatch s a).hostAccs = s.hostAccs ∧
    (State.mismatch s a).hostLines = s.hostLines ∧
    (State.mismatch s a).mgmt = s.mgmt ∧
    (State.mismatch s a).focus = s.focus ∧
    (State.mismatch s a).agenda = s.agenda ∧
    (State.mismatch s a).seq = s.seq ∧
    (∀ k, (State.mismatch s a).launch k = s.launch k) := by
  (unfold State.mismatch; (try dsimp only); (repeat' split) <;> simp -implicitDefEqProofs (disch := (intros; first | (simp -implicitDefEqProofs [*]; done) | ((try dsimp only); (repeat' split) <;> (simp -implicitDefEqProofs (disch := (intros; (try dsimp only); (repeat' split) <;> (try (simp -implicitDefEqProofs [*]; done)))) [*]; done)) | skip)) [State.wave, State.block, State.launch, State.core])
@[simp] theorem State.mismatch_keepsW (s : State) (a : Nat) (k : Nat) :
    ((State.mismatch s a).wave k).block = (s.wave k).block ∧
    ((State.mismatch s a).wave k).idx = (s.wave k).idx ∧
    ((State.mismatch s a).wave k).exited = (s.wave k).exited ∧
    ((State.mismatch s a).wave k).launchMask = (s.wave k).launchMask ∧
    ((State.mismatch s a).wave k).pad = (s.wave k).pad ∧
    ((State.mismatch s a).wave k).lastB = (s.wave k).lastB ∧
    ((State.mismatch s a).wave k).spill = (s.wave k).spill ∧
    ((State.mismatch s a).wave k).handler = (s.wave k).handler ∧
    ((State.mismatch s a).wave k).xpc = (s.wave k).xpc ∧
    ((State.mismatch s a).wave k).xmode = (s.wave k).xmode ∧
    ((State.mismatch s a).wave k).xcause = (s.wave k).xcause ∧
    ((State.mismatch s a).wave k).xlanes = (s.wave k).xlanes ∧
    ((State.mismatch s a).wave k).xaddr = (s.wave k).xaddr ∧
    ((State.mismatch s a).wave k).gexposed = (s.wave k).gexposed ∧
    ((State.mismatch s a).wave k).epoch = (s.wave k).epoch ∧
    ((State.mismatch s a).wave k).sfr = (s.wave k).sfr ∧
    ((State.mismatch s a).wave k).arrived = (s.wave k).arrived ∧
    ((State.mismatch s a).wave k).pend = (s.wave k).pend ∧
    ((State.mismatch s a).wave k).lost = (s.wave k).lost ∧
    ((State.mismatch s a).wave k).since = (s.wave k).since ∧
    ((State.mismatch s a).wave k).jobs = (s.wave k).jobs ∧
    ((State.mismatch s a).wave k).left = (s.wave k).left := by
  first
  | (unfold State.mismatch; (try dsimp only); (repeat' split) <;> simp -implicitDefEqProofs (disch := (intros; first | (simp -implicitDefEqProofs [*]; done) | ((try dsimp only); (repeat' split) <;> (simp -implicitDefEqProofs (disch := (intros; (try dsimp only); (repeat' split) <;> (try (simp -implicitDefEqProofs [*]; done)))) [*]; done)) | skip)) [State.updWave_at, apply_ite Wave.block, apply_ite Wave.idx, apply_ite Wave.exited, apply_ite Wave.launchMask, apply_ite Wave.pad, apply_ite Wave.sregs, apply_ite Wave.vregs, apply_ite Wave.pregs, apply_ite Wave.slotA, apply_ite Wave.slotB, apply_ite Wave.lastB, apply_ite Wave.spill, apply_ite Wave.handler, apply_ite Wave.xpc, apply_ite Wave.xmode, apply_ite Wave.xcause, apply_ite Wave.xlanes, apply_ite Wave.xaddr, apply_ite Wave.gexposed, apply_ite Wave.mm, apply_ite Wave.epoch, apply_ite Wave.tags, apply_ite Wave.sfr, apply_ite Wave.arrived, apply_ite Wave.region, apply_ite Wave.pend, apply_ite Wave.lost, apply_ite Wave.since, apply_ite Wave.jobs, apply_ite Wave.left])
  | (unfold State.mismatch; (try dsimp only); (repeat' split) <;> simp -implicitDefEqProofs (disch := (intros; first | (simp -implicitDefEqProofs [*]; done) | ((try dsimp only); (repeat' split) <;> (simp -implicitDefEqProofs (disch := (intros; (try dsimp only); (repeat' split) <;> (try (simp -implicitDefEqProofs [*]; done)))) [*]; done)) | skip)) [State.wave])
@[simp] theorem State.passAll_keeps (s : State) (a : Nat) :
    (State.passAll s a).launches = s.launches ∧
    (State.passAll s a).hostMem = s.hostMem ∧
    (State.passAll s a).peerMem = s.peerMem ∧
    (State.passAll s a).regions = s.regions ∧
    (State.passAll s a).rdc = s.rdc ∧
    (State.passAll s a).tlb = s.tlb ∧
    (State.passAll s a).abufs = s.abufs ∧
    (State.passAll s a).jobs = s.jobs ∧
    (State.passAll s a).feet = s.feet ∧
    (State.passAll s a).shapes = s.shapes ∧
    (State.passAll s a).eqs = s.eqs ∧
    (State.passAll s a).insts = s.insts ∧
    (State.passAll s a).links = s.links ∧
    (State.passAll s a).hostAccs = s.hostAccs ∧
    (State.passAll s a).mgmt = s.mgmt ∧
    (State.passAll s a).focus = s.focus ∧
    (State.passAll s a).agenda = s.agenda ∧
    (∀ k, (State.passAll s a).launch k = s.launch k) := by
  (unfold State.passAll; (try dsimp only); (repeat' split) <;> simp -implicitDefEqProofs (disch := (intros; first | (simp -implicitDefEqProofs [*]; done) | ((try dsimp only); (repeat' split) <;> (simp -implicitDefEqProofs (disch := (intros; (try dsimp only); (repeat' split) <;> (try (simp -implicitDefEqProofs [*]; done)))) [*]; done)) | skip)) [State.wave, State.block, State.launch, State.core])
@[simp] theorem State.passAll_keepsW (s : State) (a : Nat) (k : Nat) :
    ((State.passAll s a).wave k).block = (s.wave k).block ∧
    ((State.passAll s a).wave k).idx = (s.wave k).idx ∧
    ((State.passAll s a).wave k).exited = (s.wave k).exited ∧
    ((State.passAll s a).wave k).launchMask = (s.wave k).launchMask ∧
    ((State.passAll s a).wave k).pad = (s.wave k).pad ∧
    ((State.passAll s a).wave k).lastB = (s.wave k).lastB ∧
    ((State.passAll s a).wave k).spill = (s.wave k).spill ∧
    ((State.passAll s a).wave k).handler = (s.wave k).handler ∧
    ((State.passAll s a).wave k).xpc = (s.wave k).xpc ∧
    ((State.passAll s a).wave k).xmode = (s.wave k).xmode ∧
    ((State.passAll s a).wave k).xcause = (s.wave k).xcause ∧
    ((State.passAll s a).wave k).xlanes = (s.wave k).xlanes ∧
    ((State.passAll s a).wave k).xaddr = (s.wave k).xaddr ∧
    ((State.passAll s a).wave k).gexposed = (s.wave k).gexposed ∧
    ((State.passAll s a).wave k).epoch = (s.wave k).epoch ∧
    ((State.passAll s a).wave k).sfr = (s.wave k).sfr ∧
    ((State.passAll s a).wave k).arrived = (s.wave k).arrived ∧
    ((State.passAll s a).wave k).pend = (s.wave k).pend ∧
    ((State.passAll s a).wave k).lost = (s.wave k).lost ∧
    ((State.passAll s a).wave k).since = (s.wave k).since ∧
    ((State.passAll s a).wave k).jobs = (s.wave k).jobs ∧
    ((State.passAll s a).wave k).left = (s.wave k).left := by
  first
  | (unfold State.passAll; (try dsimp only); (repeat' split) <;> simp -implicitDefEqProofs (disch := (intros; first | (simp -implicitDefEqProofs [*]; done) | ((try dsimp only); (repeat' split) <;> (simp -implicitDefEqProofs (disch := (intros; (try dsimp only); (repeat' split) <;> (try (simp -implicitDefEqProofs [*]; done)))) [*]; done)) | skip)) [State.updWave_at, apply_ite Wave.block, apply_ite Wave.idx, apply_ite Wave.exited, apply_ite Wave.launchMask, apply_ite Wave.pad, apply_ite Wave.sregs, apply_ite Wave.vregs, apply_ite Wave.pregs, apply_ite Wave.slotA, apply_ite Wave.slotB, apply_ite Wave.lastB, apply_ite Wave.spill, apply_ite Wave.handler, apply_ite Wave.xpc, apply_ite Wave.xmode, apply_ite Wave.xcause, apply_ite Wave.xlanes, apply_ite Wave.xaddr, apply_ite Wave.gexposed, apply_ite Wave.mm, apply_ite Wave.epoch, apply_ite Wave.tags, apply_ite Wave.sfr, apply_ite Wave.arrived, apply_ite Wave.region, apply_ite Wave.pend, apply_ite Wave.lost, apply_ite Wave.since, apply_ite Wave.jobs, apply_ite Wave.left])
  | (unfold State.passAll; (try dsimp only); (repeat' split) <;> simp -implicitDefEqProofs (disch := (intros; first | (simp -implicitDefEqProofs [*]; done) | ((try dsimp only); (repeat' split) <;> (simp -implicitDefEqProofs (disch := (intros; (try dsimp only); (repeat' split) <;> (try (simp -implicitDefEqProofs [*]; done)))) [*]; done)) | skip)) [State.wave])
@[simp] theorem State.rewindOther_keeps (s : State) (w : Nat) (sb : Bool) :
    (State.rewindOther s w sb).launches = s.launches ∧
    (State.rewindOther s w sb).cores = s.cores ∧
    (State.rewindOther s w sb).mem = s.mem ∧
    (State.rewindOther s w sb).array = s.array ∧
    (State.rewindOther s w sb).hostMem = s.hostMem ∧
    (State.rewindOther s w sb).peerMem = s.peerMem ∧
    (State.rewindOther s w sb).registrant = s.registrant ∧
    (State.rewindOther s w sb).cells = s.cells ∧
    (State.rewindOther s w sb).regions = s.regions ∧
    (State.rewindOther s w sb).rdc = s.rdc ∧
    (State.rewindOther s w sb).l2 = s.l2 ∧
    (State.rewindOther s w sb).msc = s.msc ∧
    (State.rewindOther s w sb).hbms = s.hbms ∧
    (State.rewindOther s w sb).bad = s.bad ∧
    (State.rewindOther s w sb).weak = s.weak ∧
    (State.rewindOther s w sb).lost = s.lost ∧
    (State.rewindOther s w sb).tlb = s.tlb ∧
    (State.rewindOther s w sb).abufs = s.abufs ∧
    (State.rewindOther s w sb).jobs = s.jobs ∧
    (State.rewindOther s w sb).feet = s.feet ∧
    (State.rewindOther s w sb).shapes = s.shapes ∧
    (State.rewindOther s w sb).eqs = s.eqs ∧
    (State.rewindOther s w sb).insts = s.insts ∧
    (State.rewindOther s w sb).links = s.links ∧
    (State.rewindOther s w sb).hostAccs = s.hostAccs ∧
    (State.rewindOther s w sb).hostLines = s.hostLines ∧
    (State.rewindOther s w sb).mgmt = s.mgmt ∧
    (State.rewindOther s w sb).focus = s.focus ∧
    (State.rewindOther s w sb).agenda = s.agenda ∧
    (State.rewindOther s w sb).seq = s.seq ∧
    (∀ k, (State.rewindOther s w sb).launch k = s.launch k) ∧
    (∀ k, (State.rewindOther s w sb).core k = s.core k) := by
  (unfold State.rewindOther; (try dsimp only); (repeat' split) <;> simp -implicitDefEqProofs (disch := (intros; first | (simp -implicitDefEqProofs [*]; done) | ((try dsimp only); (repeat' split) <;> (simp -implicitDefEqProofs (disch := (intros; (try dsimp only); (repeat' split) <;> (try (simp -implicitDefEqProofs [*]; done)))) [*]; done)) | skip)) [State.wave, State.block, State.launch, State.core])
@[simp] theorem State.rewindOther_keepsW (s : State) (w : Nat) (sb : Bool) (k : Nat) :
    ((State.rewindOther s w sb).wave k).block = (s.wave k).block ∧
    ((State.rewindOther s w sb).wave k).idx = (s.wave k).idx ∧
    ((State.rewindOther s w sb).wave k).exited = (s.wave k).exited ∧
    ((State.rewindOther s w sb).wave k).launchMask = (s.wave k).launchMask ∧
    ((State.rewindOther s w sb).wave k).pad = (s.wave k).pad ∧
    ((State.rewindOther s w sb).wave k).lastB = (s.wave k).lastB ∧
    ((State.rewindOther s w sb).wave k).spill = (s.wave k).spill ∧
    ((State.rewindOther s w sb).wave k).handler = (s.wave k).handler ∧
    ((State.rewindOther s w sb).wave k).xpc = (s.wave k).xpc ∧
    ((State.rewindOther s w sb).wave k).xmode = (s.wave k).xmode ∧
    ((State.rewindOther s w sb).wave k).xcause = (s.wave k).xcause ∧
    ((State.rewindOther s w sb).wave k).xlanes = (s.wave k).xlanes ∧
    ((State.rewindOther s w sb).wave k).xaddr = (s.wave k).xaddr ∧
    ((State.rewindOther s w sb).wave k).gexposed = (s.wave k).gexposed ∧
    ((State.rewindOther s w sb).wave k).mm = (s.wave k).mm ∧
    ((State.rewindOther s w sb).wave k).epoch = (s.wave k).epoch ∧
    ((State.rewindOther s w sb).wave k).sfr = (s.wave k).sfr ∧
    ((State.rewindOther s w sb).wave k).arrived = (s.wave k).arrived ∧
    ((State.rewindOther s w sb).wave k).region = (s.wave k).region ∧
    ((State.rewindOther s w sb).wave k).pend = (s.wave k).pend ∧
    ((State.rewindOther s w sb).wave k).lost = (s.wave k).lost ∧
    ((State.rewindOther s w sb).wave k).since = (s.wave k).since ∧
    ((State.rewindOther s w sb).wave k).jobs = (s.wave k).jobs ∧
    ((State.rewindOther s w sb).wave k).left = (s.wave k).left := by
  first
  | (unfold State.rewindOther; (try dsimp only); (repeat' split) <;> simp -implicitDefEqProofs (disch := (intros; first | (simp -implicitDefEqProofs [*]; done) | ((try dsimp only); (repeat' split) <;> (simp -implicitDefEqProofs (disch := (intros; (try dsimp only); (repeat' split) <;> (try (simp -implicitDefEqProofs [*]; done)))) [*]; done)) | skip)) [State.updWave_at, apply_ite Wave.block, apply_ite Wave.idx, apply_ite Wave.exited, apply_ite Wave.launchMask, apply_ite Wave.pad, apply_ite Wave.sregs, apply_ite Wave.vregs, apply_ite Wave.pregs, apply_ite Wave.slotA, apply_ite Wave.slotB, apply_ite Wave.lastB, apply_ite Wave.spill, apply_ite Wave.handler, apply_ite Wave.xpc, apply_ite Wave.xmode, apply_ite Wave.xcause, apply_ite Wave.xlanes, apply_ite Wave.xaddr, apply_ite Wave.gexposed, apply_ite Wave.mm, apply_ite Wave.epoch, apply_ite Wave.tags, apply_ite Wave.sfr, apply_ite Wave.arrived, apply_ite Wave.region, apply_ite Wave.pend, apply_ite Wave.lost, apply_ite Wave.since, apply_ite Wave.jobs, apply_ite Wave.left])
  | (unfold State.rewindOther; (try dsimp only); (repeat' split) <;> simp -implicitDefEqProofs (disch := (intros; first | (simp -implicitDefEqProofs [*]; done) | ((try dsimp only); (repeat' split) <;> (simp -implicitDefEqProofs (disch := (intros; (try dsimp only); (repeat' split) <;> (try (simp -implicitDefEqProofs [*]; done)))) [*]; done)) | skip)) [State.wave])
/-- A charge taken back changes energy slots and shares alone. -/
@[simp] theorem State.refund_keeps (s : State) (p : Nat) (pair : Nat × Nat) (b n : Nat) :
    (s.refund p pair b n).waves = s.waves ∧
    (s.refund p pair b n).launches = s.launches ∧
    (s.refund p pair b n).mem = s.mem ∧
    (s.refund p pair b n).array = s.array ∧
    (s.refund p pair b n).hostMem = s.hostMem ∧
    (s.refund p pair b n).peerMem = s.peerMem ∧
    (s.refund p pair b n).registrant = s.registrant ∧
    (s.refund p pair b n).claims = s.claims ∧
    (s.refund p pair b n).cells = s.cells ∧
    (s.refund p pair b n).regions = s.regions ∧
    (s.refund p pair b n).rdc = s.rdc ∧
    (s.refund p pair b n).l2 = s.l2 ∧
    (s.refund p pair b n).msc = s.msc ∧
    (s.refund p pair b n).hbms = s.hbms ∧
    (s.refund p pair b n).bad = s.bad ∧
    (s.refund p pair b n).weak = s.weak ∧
    (s.refund p pair b n).lost = s.lost ∧
    (s.refund p pair b n).hostLines = s.hostLines ∧
    (s.refund p pair b n).tlb = s.tlb ∧
    (s.refund p pair b n).accs = s.accs ∧
    (s.refund p pair b n).net = s.net ∧
    (s.refund p pair b n).abufs = s.abufs ∧
    (s.refund p pair b n).jobs = s.jobs ∧
    (s.refund p pair b n).feet = s.feet ∧
    (s.refund p pair b n).shapes = s.shapes ∧
    (s.refund p pair b n).eqs = s.eqs ∧
    (s.refund p pair b n).insts = s.insts ∧
    (s.refund p pair b n).links = s.links ∧
    (s.refund p pair b n).hostAccs = s.hostAccs ∧
    (s.refund p pair b n).mgmt = s.mgmt ∧
    (s.refund p pair b n).focus = s.focus ∧
    (s.refund p pair b n).agenda = s.agenda ∧
    (s.refund p pair b n).seq = s.seq ∧
    (∀ k, (s.refund p pair b n).wave k = s.wave k) ∧
    (∀ k, (s.refund p pair b n).launch k = s.launch k) ∧
    (∀ k, (s.refund p pair b n).acc k = s.acc k) ∧
    (∀ k, (s.refund p pair b n).job k = s.job k) := by
  unfold State.refund; split <;> simp
@[simp] theorem State.refund_keepsB (s : State) (p : Nat) (pair : Nat × Nat) (b n k : Nat) :
    ((s.refund p pair b n).block k).launch = (s.block k).launch ∧
    ((s.refund p pair b n).block k).idx = (s.block k).idx ∧
    ((s.refund p pair b n).block k).st = (s.block k).st ∧
    ((s.refund p pair b n).block k).lcore = (s.block k).lcore ∧
    ((s.refund p pair b n).block k).pcore = (s.block k).pcore ∧
    ((s.refund p pair b n).block k).frame = (s.block k).frame ∧
    ((s.refund p pair b n).block k).waves = (s.block k).waves ∧
    ((s.refund p pair b n).block k).pageWait = (s.block k).pageWait ∧
    ((s.refund p pair b n).block k).scratch = (s.block k).scratch ∧
    ((s.refund p pair b n).block k).sclaims = (s.block k).sclaims ∧
    ((s.refund p pair b n).block k).lim = (s.block k).lim ∧
    ((s.refund p pair b n).block k).flights = (s.block k).flights ∧
    ((s.refund p pair b n).block k).tabs = (s.block k).tabs ∧
    ((s.refund p pair b n).block k).accs = (s.block k).accs ∧
    ((s.refund p pair b n).block k).feeds = (s.block k).feeds ∧
    ((s.refund p pair b n).block k).preds = (s.block k).preds ∧
    ((s.refund p pair b n).block k).streams = (s.block k).streams ∧
    ((s.refund p pair b n).block k).sketch = (s.block k).sketch ∧
    ((s.refund p pair b n).block k).seqq = (s.block k).seqq ∧
    ((s.refund p pair b n).block k).bars = (s.block k).bars ∧
    ((s.refund p pair b n).block k).issued = (s.block k).issued ∧
    ((s.refund p pair b n).block k).since = (s.block k).since ∧
    ((s.refund p pair b n).block k).discarded = (s.block k).discarded := by
  unfold State.refund; split
  · rw [State.updBlock_at]; split <;> simp
  · simp
@[simp] theorem State.raiseFailure_keeps (s : State) (a : Nat) :
    (State.raiseFailure s a).peerMem = s.peerMem ∧
    (State.raiseFailure s a).regions = s.regions ∧
    (State.raiseFailure s a).tlb = s.tlb ∧
    (State.raiseFailure s a).shapes = s.shapes ∧
    (State.raiseFailure s a).hostAccs = s.hostAccs ∧
    (State.raiseFailure s a).focus = s.focus ∧
    (State.raiseFailure s a).agenda = s.agenda := by
  (unfold State.raiseFailure; (try dsimp only); (repeat' split) <;> simp -implicitDefEqProofs (disch := (intros; first | (simp -implicitDefEqProofs [*]; done) | ((try dsimp only); (repeat' split) <;> (simp -implicitDefEqProofs (disch := (intros; (try dsimp only); (repeat' split) <;> (try (simp -implicitDefEqProofs [*]; done)))) [*]; done)) | skip)) [State.wave, State.block, State.launch, State.core])
@[simp] theorem State.raiseFailure_keepsL (s : State) (a : Nat) (k : Nat) :
    ((State.raiseFailure s a).launch k).src = (s.launch k).src ∧
    ((State.raiseFailure s a).launch k).va = (s.launch k).va ∧
    ((State.raiseFailure s a).launch k).kdesc = (s.launch k).kdesc ∧
    ((State.raiseFailure s a).launch k).nblk = (s.launch k).nblk ∧
    ((State.raiseFailure s a).launch k).fom = (s.launch k).fom ∧
    ((State.raiseFailure s a).launch k).sh = (s.launch k).sh ∧
    ((State.raiseFailure s a).launch k).groups = (s.launch k).groups ∧
    ((State.raiseFailure s a).launch k).ngrp = (s.launch k).ngrp ∧
    ((State.raiseFailure s a).launch k).ctx = (s.launch k).ctx ∧
    ((State.raiseFailure s a).launch k).frameN = (s.launch k).frameN ∧
    ((State.raiseFailure s a).launch k).frameVa = (s.launch k).frameVa ∧
    ((State.raiseFailure s a).launch k).statVa = (s.launch k).statVa ∧
    ((State.raiseFailure s a).launch k).doneVa = (s.launch k).doneVa ∧
    ((State.raiseFailure s a).launch k).doneVal = (s.launch k).doneVal ∧
    ((State.raiseFailure s a).launch k).waves = (s.launch k).waves ∧
    ((State.raiseFailure s a).launch k).vregs = (s.launch k).vregs ∧
    ((State.raiseFailure s a).launch k).sregs = (s.launch k).sregs ∧
    ((State.raiseFailure s a).launch k).accs = (s.launch k).accs ∧
    ((State.raiseFailure s a).launch k).scr = (s.launch k).scr ∧
    ((State.raiseFailure s a).launch k).spillD = (s.launch k).spillD ∧
    ((State.raiseFailure s a).launch k).handler = (s.launch k).handler ∧
    ((State.raiseFailure s a).launch k).lim = (s.launch k).lim ∧
    ((State.raiseFailure s a).launch k).entry = (s.launch k).entry ∧
    ((State.raiseFailure s a).launch k).next = (s.launch k).next ∧
    ((State.raiseFailure s a).launch k).gbars = (s.launch k).gbars ∧
    ((State.raiseFailure s a).launch k).stats = (s.launch k).stats ∧
    ((State.raiseFailure s a).launch k).buffer = (s.launch k).buffer ∧
    ((State.raiseFailure s a).launch k).flips = (s.launch k).flips := by
  first
  | (unfold State.raiseFailure; (try dsimp only); (repeat' split) <;> simp -implicitDefEqProofs (disch := (intros; first | (simp -implicitDefEqProofs [*]; done) | ((try dsimp only); (repeat' split) <;> (simp -implicitDefEqProofs (disch := (intros; (try dsimp only); (repeat' split) <;> (try (simp -implicitDefEqProofs [*]; done)))) [*]; done)) | skip)) [State.updLaunch_at, apply_ite Launch.st, apply_ite Launch.src, apply_ite Launch.va, apply_ite Launch.kdesc, apply_ite Launch.nblk, apply_ite Launch.fom, apply_ite Launch.sh, apply_ite Launch.groups, apply_ite Launch.ngrp, apply_ite Launch.ctx, apply_ite Launch.frameN, apply_ite Launch.frameVa, apply_ite Launch.statVa, apply_ite Launch.doneVa, apply_ite Launch.doneVal, apply_ite Launch.waves, apply_ite Launch.vregs, apply_ite Launch.sregs, apply_ite Launch.accs, apply_ite Launch.scr, apply_ite Launch.spillD, apply_ite Launch.handler, apply_ite Launch.lim, apply_ite Launch.entry, apply_ite Launch.next, apply_ite Launch.live, apply_ite Launch.frames, apply_ite Launch.gbars, apply_ite Launch.stats, apply_ite Launch.buffer, apply_ite Launch.flips, apply_ite Launch.due])
  | (unfold State.raiseFailure; (try dsimp only); (repeat' split) <;> simp -implicitDefEqProofs (disch := (intros; first | (simp -implicitDefEqProofs [*]; done) | ((try dsimp only); (repeat' split) <;> (simp -implicitDefEqProofs (disch := (intros; (try dsimp only); (repeat' split) <;> (try (simp -implicitDefEqProofs [*]; done)))) [*]; done)) | skip)) [State.launch])
@[simp] theorem State.raiseFailure_keepsM (s : State) (a : Nat) :
    (State.raiseFailure s a).mgmt.partid = s.mgmt.partid ∧
    (State.raiseFailure s a).mgmt.pciid = s.mgmt.pciid ∧
    (State.raiseFailure s a).mgmt.cfgstat = s.mgmt.cfgstat ∧
    (State.raiseFailure s a).mgmt.bootstat = s.mgmt.bootstat ∧
    (State.raiseFailure s a).mgmt.hostmode = s.mgmt.hostmode ∧
    (State.raiseFailure s a).mgmt.apbase = s.mgmt.apbase ∧
    (State.raiseFailure s a).mgmt.devnum = s.mgmt.devnum ∧
    (State.raiseFailure s a).mgmt.flashA = s.mgmt.flashA ∧
    (State.raiseFailure s a).mgmt.flashB = s.mgmt.flashB ∧
    (State.raiseFailure s a).mgmt.flashTorn = s.mgmt.flashTorn ∧
    (State.raiseFailure s a).mgmt.flashRun = s.mgmt.flashRun ∧
    (State.raiseFailure s a).mgmt.fladdr = s.mgmt.fladdr ∧
    (State.raiseFailure s a).mgmt.flcmd = s.mgmt.flcmd ∧
    (State.raiseFailure s a).mgmt.fldata = s.mgmt.fldata ∧
    (State.raiseFailure s a).mgmt.remap = s.mgmt.remap ∧
    (State.raiseFailure s a).mgmt.failed = s.mgmt.failed ∧
    (State.raiseFailure s a).mgmt.spareCluster = s.mgmt.spareCluster ∧
    (State.raiseFailure s a).mgmt.unplaced = s.mgmt.unplaced ∧
    (State.raiseFailure s a).mgmt.former = s.mgmt.former ∧
    (State.raiseFailure s a).mgmt.parkAtReset = s.mgmt.parkAtReset ∧
    (State.raiseFailure s a).mgmt.spareLanes = s.mgmt.spareLanes ∧
    (State.raiseFailure s a).mgmt.sliceq = s.mgmt.sliceq ∧
    (State.raiseFailure s a).mgmt.lq = s.mgmt.lq ∧
    (State.raiseFailure s a).mgmt.lauq = s.mgmt.lauq ∧
    (State.raiseFailure s a).mgmt.rr = s.mgmt.rr ∧
    (State.raiseFailure s a).mgmt.pwrceil = s.mgmt.pwrceil ∧
    (State.raiseFailure s a).mgmt.pstlim = s.mgmt.pstlim ∧
    (State.raiseFailure s a).mgmt.pwrstat = s.mgmt.pwrstat ∧
    (State.raiseFailure s a).mgmt.pGoal = s.mgmt.pGoal ∧
    (State.raiseFailure s a).mgmt.mGoal = s.mgmt.mGoal ∧
    (State.raiseFailure s a).mgmt.pNext = s.mgmt.pNext ∧
    (State.raiseFailure s a).mgmt.mNext = s.mgmt.mNext ∧
    (State.raiseFailure s a).mgmt.diepark = s.mgmt.diepark ∧
    (State.raiseFailure s a).mgmt.dieWait = s.mgmt.dieWait ∧
    (State.raiseFailure s a).mgmt.ensave = s.mgmt.ensave ∧
    (State.raiseFailure s a).mgmt.ewt = s.mgmt.ewt ∧
    (State.raiseFailure s a).mgmt.stw = s.mgmt.stw ∧
    (State.raiseFailure s a).mgmt.hlth = s.mgmt.hlth ∧
    (State.raiseFailure s a).mgmt.age = s.mgmt.age ∧
    (State.raiseFailure s a).mgmt.memh = s.mgmt.memh ∧
    (State.raiseFailure s a).mgmt.linkh = s.mgmt.linkh ∧
    (State.raiseFailure s a).mgmt.samples = s.mgmt.samples ∧
    (State.raiseFailure s a).mgmt.ckpt0 = s.mgmt.ckpt0 ∧
    (State.raiseFailure s a).mgmt.ckpt1 = s.mgmt.ckpt1 ∧
    (State.raiseFailure s a).mgmt.ckpt2 = s.mgmt.ckpt2 ∧
    (State.raiseFailure s a).mgmt.ckptGood = s.mgmt.ckptGood ∧
    (State.raiseFailure s a).mgmt.ckptBlocks = s.mgmt.ckptBlocks ∧
    (State.raiseFailure s a).mgmt.ctxs = s.mgmt.ctxs ∧
    (State.raiseFailure s a).mgmt.pfbase = s.mgmt.pfbase ∧
    (State.raiseFailure s a).mgmt.pfhead = s.mgmt.pfhead ∧
    (State.raiseFailure s a).mgmt.pftail = s.mgmt.pftail ∧
    (State.raiseFailure s a).mgmt.faults = s.mgmt.faults ∧
    (State.raiseFailure s a).mgmt.tlbinv = s.mgmt.tlbinv ∧
    (State.raiseFailure s a).mgmt.tlbinvn = s.mgmt.tlbinvn ∧
    (State.raiseFailure s a).mgmt.ranges = s.mgmt.ranges ∧
    (State.raiseFailure s a).mgmt.biascmd = s.mgmt.biascmd ∧
    (State.raiseFailure s a).mgmt.flips = s.mgmt.flips ∧
    (State.raiseFailure s a).mgmt.flipWait = s.mgmt.flipWait ∧
    (State.raiseFailure s a).mgmt.peerasid = s.mgmt.peerasid ∧
    (State.raiseFailure s a).mgmt.atsel = s.mgmt.atsel ∧
    (State.raiseFailure s a).mgmt.atwin = s.mgmt.atwin ∧
    (State.raiseFailure s a).mgmt.atcommit = s.mgmt.atcommit ∧
    (State.raiseFailure s a).mgmt.ats = s.mgmt.ats ∧
    (State.raiseFailure s a).mgmt.colldom = s.mgmt.colldom ∧
    (State.raiseFailure s a).mgmt.collinj = s.mgmt.collinj ∧
    (State.raiseFailure s a).mgmt.reply = s.mgmt.reply := by
  (unfold State.raiseFailure; (try dsimp only); (repeat' split) <;> simp -implicitDefEqProofs (disch := (intros; first | (simp -implicitDefEqProofs [*]; done) | ((try dsimp only); (repeat' split) <;> (simp -implicitDefEqProofs (disch := (intros; (try dsimp only); (repeat' split) <;> (try (simp -implicitDefEqProofs [*]; done)))) [*]; done)) | skip)) [State.updMgmt])
@[simp] theorem State.takeLanes_keeps (s : State) (a : Nat) (lanes : Mask) :
    (State.takeLanes s a lanes).waves = s.waves ∧
    (State.takeLanes s a lanes).blocks = s.blocks ∧
    (State.takeLanes s a lanes).launches = s.launches ∧
    (State.takeLanes s a lanes).cores = s.cores ∧
    (State.takeLanes s a lanes).mem = s.mem ∧
    (State.takeLanes s a lanes).array = s.array ∧
    (State.takeLanes s a lanes).hostMem = s.hostMem ∧
    (State.takeLanes s a lanes).peerMem = s.peerMem ∧
    (State.takeLanes s a lanes).registrant = s.registrant ∧
    (State.takeLanes s a lanes).claims = s.claims ∧
    (State.takeLanes s a lanes).cells = s.cells ∧
    (State.takeLanes s a lanes).regions = s.regions ∧
    (State.takeLanes s a lanes).rdc = s.rdc ∧
    (State.takeLanes s a lanes).l2 = s.l2 ∧
    (State.takeLanes s a lanes).msc = s.msc ∧
    (State.takeLanes s a lanes).hbms = s.hbms ∧
    (State.takeLanes s a lanes).bad = s.bad ∧
    (State.takeLanes s a lanes).weak = s.weak ∧
    (State.takeLanes s a lanes).lost = s.lost ∧
    (State.takeLanes s a lanes).tlb = s.tlb ∧
    (State.takeLanes s a lanes).net = s.net ∧
    (State.takeLanes s a lanes).abufs = s.abufs ∧
    (State.takeLanes s a lanes).jobs = s.jobs ∧
    (State.takeLanes s a lanes).feet = s.feet ∧
    (State.takeLanes s a lanes).shapes = s.shapes ∧
    (State.takeLanes s a lanes).eqs = s.eqs ∧
    (State.takeLanes s a lanes).insts = s.insts ∧
    (State.takeLanes s a lanes).links = s.links ∧
    (State.takeLanes s a lanes).hostAccs = s.hostAccs ∧
    (State.takeLanes s a lanes).hostLines = s.hostLines ∧
    (State.takeLanes s a lanes).mgmt = s.mgmt ∧
    (State.takeLanes s a lanes).focus = s.focus ∧
    (State.takeLanes s a lanes).agenda = s.agenda ∧
    (State.takeLanes s a lanes).seq = s.seq ∧
    (∀ k, (State.takeLanes s a lanes).wave k = s.wave k) ∧
    (∀ k, (State.takeLanes s a lanes).block k = s.block k) ∧
    (∀ k, (State.takeLanes s a lanes).launch k = s.launch k) ∧
    (∀ k, (State.takeLanes s a lanes).core k = s.core k) := by
  (unfold State.takeLanes; (try dsimp only); (repeat' split) <;> simp -implicitDefEqProofs (disch := (intros; first | (simp -implicitDefEqProofs [*]; done) | ((try dsimp only); (repeat' split) <;> (simp -implicitDefEqProofs (disch := (intros; (try dsimp only); (repeat' split) <;> (try (simp -implicitDefEqProofs [*]; done)))) [*]; done)) | skip)) [State.wave, State.block, State.launch, State.core])
@[simp] theorem State.writeResult_keeps (s : State) (a : Nat) (lanes : Mask) :
    (State.writeResult s a lanes).blocks = s.blocks ∧
    (State.writeResult s a lanes).launches = s.launches ∧
    (State.writeResult s a lanes).cores = s.cores ∧
    (State.writeResult s a lanes).mem = s.mem ∧
    (State.writeResult s a lanes).array = s.array ∧
    (State.writeResult s a lanes).hostMem = s.hostMem ∧
    (State.writeResult s a lanes).peerMem = s.peerMem ∧
    (State.writeResult s a lanes).registrant = s.registrant ∧
    (State.writeResult s a lanes).claims = s.claims ∧
    (State.writeResult s a lanes).cells = s.cells ∧
    (State.writeResult s a lanes).regions = s.regions ∧
    (State.writeResult s a lanes).rdc = s.rdc ∧
    (State.writeResult s a lanes).l2 = s.l2 ∧
    (State.writeResult s a lanes).msc = s.msc ∧
    (State.writeResult s a lanes).hbms = s.hbms ∧
    (State.writeResult s a lanes).bad = s.bad ∧
    (State.writeResult s a lanes).weak = s.weak ∧
    (State.writeResult s a lanes).lost = s.lost ∧
    (State.writeResult s a lanes).tlb = s.tlb ∧
    (State.writeResult s a lanes).net = s.net ∧
    (State.writeResult s a lanes).abufs = s.abufs ∧
    (State.writeResult s a lanes).jobs = s.jobs ∧
    (State.writeResult s a lanes).feet = s.feet ∧
    (State.writeResult s a lanes).shapes = s.shapes ∧
    (State.writeResult s a lanes).eqs = s.eqs ∧
    (State.writeResult s a lanes).insts = s.insts ∧
    (State.writeResult s a lanes).links = s.links ∧
    (State.writeResult s a lanes).hostAccs = s.hostAccs ∧
    (State.writeResult s a lanes).hostLines = s.hostLines ∧
    (State.writeResult s a lanes).mgmt = s.mgmt ∧
    (State.writeResult s a lanes).focus = s.focus ∧
    (State.writeResult s a lanes).agenda = s.agenda ∧
    (State.writeResult s a lanes).seq = s.seq ∧
    (∀ k, (State.writeResult s a lanes).block k = s.block k) ∧
    (∀ k, (State.writeResult s a lanes).launch k = s.launch k) ∧
    (∀ k, (State.writeResult s a lanes).core k = s.core k) := by
  (unfold State.writeResult; (try dsimp only); (repeat' split) <;> simp -implicitDefEqProofs (disch := (intros; first | (simp -implicitDefEqProofs [*]; done) | ((try dsimp only); (repeat' split) <;> (simp -implicitDefEqProofs (disch := (intros; (try dsimp only); (repeat' split) <;> (try (simp -implicitDefEqProofs [*]; done)))) [*]; done)) | skip)) [State.wave, State.block, State.launch, State.core])
@[simp] theorem State.writeResult_keepsW (s : State) (a : Nat) (lanes : Mask) (k : Nat) :
    ((State.writeResult s a lanes).wave k).block = (s.wave k).block ∧
    ((State.writeResult s a lanes).wave k).idx = (s.wave k).idx ∧
    ((State.writeResult s a lanes).wave k).exited = (s.wave k).exited ∧
    ((State.writeResult s a lanes).wave k).launchMask = (s.wave k).launchMask ∧
    ((State.writeResult s a lanes).wave k).pad = (s.wave k).pad ∧
    ((State.writeResult s a lanes).wave k).pregs = (s.wave k).pregs ∧
    ((State.writeResult s a lanes).wave k).lastB = (s.wave k).lastB ∧
    ((State.writeResult s a lanes).wave k).spill = (s.wave k).spill ∧
    ((State.writeResult s a lanes).wave k).handler = (s.wave k).handler ∧
    ((State.writeResult s a lanes).wave k).xpc = (s.wave k).xpc ∧
    ((State.writeResult s a lanes).wave k).xmode = (s.wave k).xmode ∧
    ((State.writeResult s a lanes).wave k).xcause = (s.wave k).xcause ∧
    ((State.writeResult s a lanes).wave k).xlanes = (s.wave k).xlanes ∧
    ((State.writeResult s a lanes).wave k).xaddr = (s.wave k).xaddr ∧
    ((State.writeResult s a lanes).wave k).gexposed = (s.wave k).gexposed ∧
    ((State.writeResult s a lanes).wave k).epoch = (s.wave k).epoch ∧
    ((State.writeResult s a lanes).wave k).sfr = (s.wave k).sfr ∧
    ((State.writeResult s a lanes).wave k).arrived = (s.wave k).arrived ∧
    ((State.writeResult s a lanes).wave k).pend = (s.wave k).pend ∧
    ((State.writeResult s a lanes).wave k).lost = (s.wave k).lost ∧
    ((State.writeResult s a lanes).wave k).since = (s.wave k).since ∧
    ((State.writeResult s a lanes).wave k).jobs = (s.wave k).jobs ∧
    ((State.writeResult s a lanes).wave k).left = (s.wave k).left := by
  first
  | (unfold State.writeResult; (try dsimp only); (repeat' split) <;> simp -implicitDefEqProofs (disch := (intros; first | (simp -implicitDefEqProofs [*]; done) | ((try dsimp only); (repeat' split) <;> (simp -implicitDefEqProofs (disch := (intros; (try dsimp only); (repeat' split) <;> (try (simp -implicitDefEqProofs [*]; done)))) [*]; done)) | skip)) [State.updWave_at, apply_ite Wave.block, apply_ite Wave.idx, apply_ite Wave.exited, apply_ite Wave.launchMask, apply_ite Wave.pad, apply_ite Wave.sregs, apply_ite Wave.vregs, apply_ite Wave.pregs, apply_ite Wave.slotA, apply_ite Wave.slotB, apply_ite Wave.lastB, apply_ite Wave.spill, apply_ite Wave.handler, apply_ite Wave.xpc, apply_ite Wave.xmode, apply_ite Wave.xcause, apply_ite Wave.xlanes, apply_ite Wave.xaddr, apply_ite Wave.gexposed, apply_ite Wave.mm, apply_ite Wave.epoch, apply_ite Wave.tags, apply_ite Wave.sfr, apply_ite Wave.arrived, apply_ite Wave.region, apply_ite Wave.pend, apply_ite Wave.lost, apply_ite Wave.since, apply_ite Wave.jobs, apply_ite Wave.left])
  | (unfold State.writeResult; (try dsimp only); (repeat' split) <;> simp -implicitDefEqProofs (disch := (intros; first | (simp -implicitDefEqProofs [*]; done) | ((try dsimp only); (repeat' split) <;> (simp -implicitDefEqProofs (disch := (intros; (try dsimp only); (repeat' split) <;> (try (simp -implicitDefEqProofs [*]; done)))) [*]; done)) | skip)) [State.wave])
@[simp] theorem State.finishLoad_keeps (s : State) (a : Nat) :
    (State.finishLoad s a).waves = s.waves ∧
    (State.finishLoad s a).launches = s.launches ∧
    (State.finishLoad s a).mem = s.mem ∧
    (State.finishLoad s a).array = s.array ∧
    (State.finishLoad s a).hostMem = s.hostMem ∧
    (State.finishLoad s a).peerMem = s.peerMem ∧
    (State.finishLoad s a).registrant = s.registrant ∧
    (State.finishLoad s a).claims = s.claims ∧
    (State.finishLoad s a).cells = s.cells ∧
    (State.finishLoad s a).regions = s.regions ∧
    (State.finishLoad s a).rdc = s.rdc ∧
    (State.finishLoad s a).l2 = s.l2 ∧
    (State.finishLoad s a).msc = s.msc ∧
    (State.finishLoad s a).hbms = s.hbms ∧
    (State.finishLoad s a).bad = s.bad ∧
    (State.finishLoad s a).weak = s.weak ∧
    (State.finishLoad s a).lost = s.lost ∧
    (State.finishLoad s a).tlb = s.tlb ∧
    (State.finishLoad s a).abufs = s.abufs ∧
    (State.finishLoad s a).jobs = s.jobs ∧
    (State.finishLoad s a).feet = s.feet ∧
    (State.finishLoad s a).shapes = s.shapes ∧
    (State.finishLoad s a).eqs = s.eqs ∧
    (State.finishLoad s a).insts = s.insts ∧
    (State.finishLoad s a).links = s.links ∧
    (State.finishLoad s a).hostAccs = s.hostAccs ∧
    (State.finishLoad s a).hostLines = s.hostLines ∧
    (State.finishLoad s a).mgmt = s.mgmt ∧
    (State.finishLoad s a).focus = s.focus ∧
    (State.finishLoad s a).agenda = s.agenda ∧
    (State.finishLoad s a).seq = s.seq ∧
    (∀ k, (State.finishLoad s a).wave k = s.wave k) ∧
    (∀ k, (State.finishLoad s a).launch k = s.launch k) := by
  (unfold State.finishLoad; (try dsimp only); (repeat' split) <;> simp -implicitDefEqProofs (disch := (intros; first | (simp -implicitDefEqProofs [*]; done) | ((try dsimp only); (repeat' split) <;> (simp -implicitDefEqProofs (disch := (intros; (try dsimp only); (repeat' split) <;> (try (simp -implicitDefEqProofs [*]; done)))) [*]; done)) | skip)) [State.wave, State.block, State.launch, State.core])
@[simp] theorem State.finishLoad_keepsB (s : State) (a : Nat) (k : Nat) :
    ((State.finishLoad s a).block k).launch = (s.block k).launch ∧
    ((State.finishLoad s a).block k).idx = (s.block k).idx ∧
    ((State.finishLoad s a).block k).st = (s.block k).st ∧
    ((State.finishLoad s a).block k).lcore = (s.block k).lcore ∧
    ((State.finishLoad s a).block k).pcore = (s.block k).pcore ∧
    ((State.finishLoad s a).block k).frame = (s.block k).frame ∧
    ((State.finishLoad s a).block k).waves = (s.block k).waves ∧
    ((State.finishLoad s a).block k).pageWait = (s.block k).pageWait ∧
    ((State.finishLoad s a).block k).scratch = (s.block k).scratch ∧
    ((State.finishLoad s a).block k).sclaims = (s.block k).sclaims ∧
    ((State.finishLoad s a).block k).lim = (s.block k).lim ∧
    ((State.finishLoad s a).block k).tabs = (s.block k).tabs ∧
    ((State.finishLoad s a).block k).accs = (s.block k).accs ∧
    ((State.finishLoad s a).block k).feeds = (s.block k).feeds ∧
    ((State.finishLoad s a).block k).preds = (s.block k).preds ∧
    ((State.finishLoad s a).block k).streams = (s.block k).streams ∧
    ((State.finishLoad s a).block k).sketch = (s.block k).sketch ∧
    ((State.finishLoad s a).block k).seqq = (s.block k).seqq ∧
    ((State.finishLoad s a).block k).bars = (s.block k).bars ∧
    ((State.finishLoad s a).block k).issued = (s.block k).issued ∧
    ((State.finishLoad s a).block k).since = (s.block k).since ∧
    ((State.finishLoad s a).block k).discarded = (s.block k).discarded := by
  first
  | (unfold State.finishLoad; (try dsimp only); (repeat' split) <;> simp -implicitDefEqProofs (disch := (intros; first | (simp -implicitDefEqProofs [*]; done) | ((try dsimp only); (repeat' split) <;> (simp -implicitDefEqProofs (disch := (intros; (try dsimp only); (repeat' split) <;> (try (simp -implicitDefEqProofs [*]; done)))) [*]; done)) | skip)) [State.updBlock_at, apply_ite Block.launch, apply_ite Block.idx, apply_ite Block.st, apply_ite Block.lcore, apply_ite Block.pcore, apply_ite Block.frame, apply_ite Block.waves, apply_ite Block.pageWait, apply_ite Block.scratch, apply_ite Block.sclaims, apply_ite Block.lim, apply_ite Block.flights, apply_ite Block.tabs, apply_ite Block.accs, apply_ite Block.feeds, apply_ite Block.preds, apply_ite Block.streams, apply_ite Block.sketch, apply_ite Block.seqq, apply_ite Block.bars, apply_ite Block.share, apply_ite Block.issued, apply_ite Block.since, apply_ite Block.discarded])
  | (unfold State.finishLoad; (try dsimp only); (repeat' split) <;> simp -implicitDefEqProofs (disch := (intros; first | (simp -implicitDefEqProofs [*]; done) | ((try dsimp only); (repeat' split) <;> (simp -implicitDefEqProofs (disch := (intros; (try dsimp only); (repeat' split) <;> (try (simp -implicitDefEqProofs [*]; done)))) [*]; done)) | skip)) [State.block])
@[simp] theorem State.takeEarly_keeps (s : State) (a : Nat) (lanes : Mask) :
    (State.takeEarly s a lanes).waves = s.waves ∧
    (State.takeEarly s a lanes).blocks = s.blocks ∧
    (State.takeEarly s a lanes).launches = s.launches ∧
    (State.takeEarly s a lanes).cores = s.cores ∧
    (State.takeEarly s a lanes).mem = s.mem ∧
    (State.takeEarly s a lanes).array = s.array ∧
    (State.takeEarly s a lanes).hostMem = s.hostMem ∧
    (State.takeEarly s a lanes).peerMem = s.peerMem ∧
    (State.takeEarly s a lanes).registrant = s.registrant ∧
    (State.takeEarly s a lanes).claims = s.claims ∧
    (State.takeEarly s a lanes).cells = s.cells ∧
    (State.takeEarly s a lanes).regions = s.regions ∧
    (State.takeEarly s a lanes).rdc = s.rdc ∧
    (State.takeEarly s a lanes).l2 = s.l2 ∧
    (State.takeEarly s a lanes).msc = s.msc ∧
    (State.takeEarly s a lanes).hbms = s.hbms ∧
    (State.takeEarly s a lanes).bad = s.bad ∧
    (State.takeEarly s a lanes).weak = s.weak ∧
    (State.takeEarly s a lanes).lost = s.lost ∧
    (State.takeEarly s a lanes).tlb = s.tlb ∧
    (State.takeEarly s a lanes).net = s.net ∧
    (State.takeEarly s a lanes).abufs = s.abufs ∧
    (State.takeEarly s a lanes).jobs = s.jobs ∧
    (State.takeEarly s a lanes).feet = s.feet ∧
    (State.takeEarly s a lanes).shapes = s.shapes ∧
    (State.takeEarly s a lanes).eqs = s.eqs ∧
    (State.takeEarly s a lanes).insts = s.insts ∧
    (State.takeEarly s a lanes).links = s.links ∧
    (State.takeEarly s a lanes).hostAccs = s.hostAccs ∧
    (State.takeEarly s a lanes).hostLines = s.hostLines ∧
    (State.takeEarly s a lanes).mgmt = s.mgmt ∧
    (State.takeEarly s a lanes).focus = s.focus ∧
    (State.takeEarly s a lanes).agenda = s.agenda ∧
    (State.takeEarly s a lanes).seq = s.seq ∧
    (∀ k, (State.takeEarly s a lanes).wave k = s.wave k) ∧
    (∀ k, (State.takeEarly s a lanes).block k = s.block k) ∧
    (∀ k, (State.takeEarly s a lanes).launch k = s.launch k) ∧
    (∀ k, (State.takeEarly s a lanes).core k = s.core k) := by
  (unfold State.takeEarly; (try dsimp only); (repeat' split) <;> simp -implicitDefEqProofs (disch := (intros; first | (simp -implicitDefEqProofs [*]; done) | ((try dsimp only); (repeat' split) <;> (simp -implicitDefEqProofs (disch := (intros; (try dsimp only); (repeat' split) <;> (try (simp -implicitDefEqProofs [*]; done)))) [*]; done)) | skip)) [State.wave, State.block, State.launch, State.core])
@[simp] theorem State.meetCopyErrors_keeps (s : State) (a : Nat) (lanes : Mask) :
    (State.meetCopyErrors s a lanes).waves = s.waves ∧
    (State.meetCopyErrors s a lanes).blocks = s.blocks ∧
    (State.meetCopyErrors s a lanes).launches = s.launches ∧
    (State.meetCopyErrors s a lanes).cores = s.cores ∧
    (State.meetCopyErrors s a lanes).mem = s.mem ∧
    (State.meetCopyErrors s a lanes).array = s.array ∧
    (State.meetCopyErrors s a lanes).hostMem = s.hostMem ∧
    (State.meetCopyErrors s a lanes).peerMem = s.peerMem ∧
    (State.meetCopyErrors s a lanes).registrant = s.registrant ∧
    (State.meetCopyErrors s a lanes).claims = s.claims ∧
    (State.meetCopyErrors s a lanes).cells = s.cells ∧
    (State.meetCopyErrors s a lanes).regions = s.regions ∧
    (State.meetCopyErrors s a lanes).rdc = s.rdc ∧
    (State.meetCopyErrors s a lanes).l2 = s.l2 ∧
    (State.meetCopyErrors s a lanes).msc = s.msc ∧
    (State.meetCopyErrors s a lanes).hbms = s.hbms ∧
    (State.meetCopyErrors s a lanes).bad = s.bad ∧
    (State.meetCopyErrors s a lanes).weak = s.weak ∧
    (State.meetCopyErrors s a lanes).lost = s.lost ∧
    (State.meetCopyErrors s a lanes).tlb = s.tlb ∧
    (State.meetCopyErrors s a lanes).net = s.net ∧
    (State.meetCopyErrors s a lanes).abufs = s.abufs ∧
    (State.meetCopyErrors s a lanes).jobs = s.jobs ∧
    (State.meetCopyErrors s a lanes).feet = s.feet ∧
    (State.meetCopyErrors s a lanes).shapes = s.shapes ∧
    (State.meetCopyErrors s a lanes).eqs = s.eqs ∧
    (State.meetCopyErrors s a lanes).insts = s.insts ∧
    (State.meetCopyErrors s a lanes).links = s.links ∧
    (State.meetCopyErrors s a lanes).hostAccs = s.hostAccs ∧
    (State.meetCopyErrors s a lanes).hostLines = s.hostLines ∧
    (State.meetCopyErrors s a lanes).mgmt = s.mgmt ∧
    (State.meetCopyErrors s a lanes).focus = s.focus ∧
    (State.meetCopyErrors s a lanes).agenda = s.agenda ∧
    (State.meetCopyErrors s a lanes).seq = s.seq ∧
    (∀ k, (State.meetCopyErrors s a lanes).wave k = s.wave k) ∧
    (∀ k, (State.meetCopyErrors s a lanes).block k = s.block k) ∧
    (∀ k, (State.meetCopyErrors s a lanes).launch k = s.launch k) ∧
    (∀ k, (State.meetCopyErrors s a lanes).core k = s.core k) := by
  (unfold State.meetCopyErrors; (try dsimp only); (repeat' split) <;> simp -implicitDefEqProofs (disch := (intros; first | (simp -implicitDefEqProofs [*]; done) | ((try dsimp only); (repeat' split) <;> (simp -implicitDefEqProofs (disch := (intros; (try dsimp only); (repeat' split) <;> (try (simp -implicitDefEqProofs [*]; done)))) [*]; done)) | skip)) [State.wave, State.block, State.launch, State.core])
@[simp] theorem State.unclaimGuessed_keeps (s : State) (a : Nat) :
    (State.unclaimGuessed s a).waves = s.waves ∧
    (State.unclaimGuessed s a).blocks = s.blocks ∧
    (State.unclaimGuessed s a).launches = s.launches ∧
    (State.unclaimGuessed s a).cores = s.cores ∧
    (State.unclaimGuessed s a).mem = s.mem ∧
    (State.unclaimGuessed s a).array = s.array ∧
    (State.unclaimGuessed s a).hostMem = s.hostMem ∧
    (State.unclaimGuessed s a).peerMem = s.peerMem ∧
    (State.unclaimGuessed s a).registrant = s.registrant ∧
    (State.unclaimGuessed s a).cells = s.cells ∧
    (State.unclaimGuessed s a).regions = s.regions ∧
    (State.unclaimGuessed s a).rdc = s.rdc ∧
    (State.unclaimGuessed s a).l2 = s.l2 ∧
    (State.unclaimGuessed s a).msc = s.msc ∧
    (State.unclaimGuessed s a).hbms = s.hbms ∧
    (State.unclaimGuessed s a).bad = s.bad ∧
    (State.unclaimGuessed s a).weak = s.weak ∧
    (State.unclaimGuessed s a).lost = s.lost ∧
    (State.unclaimGuessed s a).tlb = s.tlb ∧
    (State.unclaimGuessed s a).accs = s.accs ∧
    (State.unclaimGuessed s a).net = s.net ∧
    (State.unclaimGuessed s a).abufs = s.abufs ∧
    (State.unclaimGuessed s a).jobs = s.jobs ∧
    (State.unclaimGuessed s a).feet = s.feet ∧
    (State.unclaimGuessed s a).shapes = s.shapes ∧
    (State.unclaimGuessed s a).eqs = s.eqs ∧
    (State.unclaimGuessed s a).insts = s.insts ∧
    (State.unclaimGuessed s a).links = s.links ∧
    (State.unclaimGuessed s a).hostAccs = s.hostAccs ∧
    (State.unclaimGuessed s a).hostLines = s.hostLines ∧
    (State.unclaimGuessed s a).mgmt = s.mgmt ∧
    (State.unclaimGuessed s a).focus = s.focus ∧
    (State.unclaimGuessed s a).agenda = s.agenda ∧
    (State.unclaimGuessed s a).seq = s.seq ∧
    (∀ k, (State.unclaimGuessed s a).wave k = s.wave k) ∧
    (∀ k, (State.unclaimGuessed s a).block k = s.block k) ∧
    (∀ k, (State.unclaimGuessed s a).launch k = s.launch k) ∧
    (∀ k, (State.unclaimGuessed s a).core k = s.core k) := by
  (unfold State.unclaimGuessed; (try dsimp only); (repeat' split) <;> simp -implicitDefEqProofs (disch := (intros; first | (simp -implicitDefEqProofs [*]; done) | ((try dsimp only); (repeat' split) <;> (simp -implicitDefEqProofs (disch := (intros; (try dsimp only); (repeat' split) <;> (try (simp -implicitDefEqProofs [*]; done)))) [*]; done)) | skip)) [State.wave, State.block, State.launch, State.core])
@[simp] theorem State.askTruth_keeps (s : State) (a : Nat) :
    (State.askTruth s a).waves = s.waves ∧
    (State.askTruth s a).blocks = s.blocks ∧
    (State.askTruth s a).launches = s.launches ∧
    (State.askTruth s a).cores = s.cores ∧
    (State.askTruth s a).mem = s.mem ∧
    (State.askTruth s a).array = s.array ∧
    (State.askTruth s a).hostMem = s.hostMem ∧
    (State.askTruth s a).peerMem = s.peerMem ∧
    (State.askTruth s a).registrant = s.registrant ∧
    (State.askTruth s a).claims = s.claims ∧
    (State.askTruth s a).cells = s.cells ∧
    (State.askTruth s a).regions = s.regions ∧
    (State.askTruth s a).rdc = s.rdc ∧
    (State.askTruth s a).l2 = s.l2 ∧
    (State.askTruth s a).msc = s.msc ∧
    (State.askTruth s a).hbms = s.hbms ∧
    (State.askTruth s a).bad = s.bad ∧
    (State.askTruth s a).weak = s.weak ∧
    (State.askTruth s a).lost = s.lost ∧
    (State.askTruth s a).tlb = s.tlb ∧
    (State.askTruth s a).abufs = s.abufs ∧
    (State.askTruth s a).jobs = s.jobs ∧
    (State.askTruth s a).feet = s.feet ∧
    (State.askTruth s a).shapes = s.shapes ∧
    (State.askTruth s a).eqs = s.eqs ∧
    (State.askTruth s a).insts = s.insts ∧
    (State.askTruth s a).links = s.links ∧
    (State.askTruth s a).hostAccs = s.hostAccs ∧
    (State.askTruth s a).hostLines = s.hostLines ∧
    (State.askTruth s a).mgmt = s.mgmt ∧
    (State.askTruth s a).focus = s.focus ∧
    (State.askTruth s a).agenda = s.agenda ∧
    (∀ k, (State.askTruth s a).wave k = s.wave k) ∧
    (∀ k, (State.askTruth s a).block k = s.block k) ∧
    (∀ k, (State.askTruth s a).launch k = s.launch k) ∧
    (∀ k, (State.askTruth s a).core k = s.core k) := by
  (unfold State.askTruth; (try dsimp only); (repeat' split) <;> simp -implicitDefEqProofs (disch := (intros; first | (simp -implicitDefEqProofs [*]; done) | ((try dsimp only); (repeat' split) <;> (simp -implicitDefEqProofs (disch := (intros; (try dsimp only); (repeat' split) <;> (try (simp -implicitDefEqProofs [*]; done)))) [*]; done)) | skip)) [State.wave, State.block, State.launch, State.core])
@[simp] theorem State.overtaken_keeps (s : State) (a : Nat) :
    (State.overtaken s a).waves = s.waves ∧
    (State.overtaken s a).launches = s.launches ∧
    (State.overtaken s a).mem = s.mem ∧
    (State.overtaken s a).array = s.array ∧
    (State.overtaken s a).hostMem = s.hostMem ∧
    (State.overtaken s a).peerMem = s.peerMem ∧
    (State.overtaken s a).registrant = s.registrant ∧
    (State.overtaken s a).claims = s.claims ∧
    (State.overtaken s a).cells = s.cells ∧
    (State.overtaken s a).regions = s.regions ∧
    (State.overtaken s a).rdc = s.rdc ∧
    (State.overtaken s a).l2 = s.l2 ∧
    (State.overtaken s a).msc = s.msc ∧
    (State.overtaken s a).hbms = s.hbms ∧
    (State.overtaken s a).bad = s.bad ∧
    (State.overtaken s a).weak = s.weak ∧
    (State.overtaken s a).lost = s.lost ∧
    (State.overtaken s a).tlb = s.tlb ∧
    (State.overtaken s a).abufs = s.abufs ∧
    (State.overtaken s a).jobs = s.jobs ∧
    (State.overtaken s a).feet = s.feet ∧
    (State.overtaken s a).shapes = s.shapes ∧
    (State.overtaken s a).eqs = s.eqs ∧
    (State.overtaken s a).insts = s.insts ∧
    (State.overtaken s a).links = s.links ∧
    (State.overtaken s a).hostAccs = s.hostAccs ∧
    (State.overtaken s a).hostLines = s.hostLines ∧
    (State.overtaken s a).mgmt = s.mgmt ∧
    (State.overtaken s a).focus = s.focus ∧
    (State.overtaken s a).agenda = s.agenda ∧
    (State.overtaken s a).seq = s.seq ∧
    (∀ k, (State.overtaken s a).wave k = s.wave k) ∧
    (∀ k, (State.overtaken s a).launch k = s.launch k) := by
  (unfold State.overtaken; (try dsimp only); (repeat' split) <;> simp -implicitDefEqProofs (disch := (intros; first | (simp -implicitDefEqProofs [*]; done) | ((try dsimp only); (repeat' split) <;> (simp -implicitDefEqProofs (disch := (intros; (try dsimp only); (repeat' split) <;> (try (simp -implicitDefEqProofs [*]; done)))) [*]; done)) | skip)) [State.wave, State.block, State.launch, State.core])
@[simp] theorem State.overtaken_keepsB (s : State) (a : Nat) (k : Nat) :
    ((State.overtaken s a).block k).launch = (s.block k).launch ∧
    ((State.overtaken s a).block k).idx = (s.block k).idx ∧
    ((State.overtaken s a).block k).st = (s.block k).st ∧
    ((State.overtaken s a).block k).lcore = (s.block k).lcore ∧
    ((State.overtaken s a).block k).pcore = (s.block k).pcore ∧
    ((State.overtaken s a).block k).frame = (s.block k).frame ∧
    ((State.overtaken s a).block k).waves = (s.block k).waves ∧
    ((State.overtaken s a).block k).pageWait = (s.block k).pageWait ∧
    ((State.overtaken s a).block k).scratch = (s.block k).scratch ∧
    ((State.overtaken s a).block k).sclaims = (s.block k).sclaims ∧
    ((State.overtaken s a).block k).lim = (s.block k).lim ∧
    ((State.overtaken s a).block k).tabs = (s.block k).tabs ∧
    ((State.overtaken s a).block k).accs = (s.block k).accs ∧
    ((State.overtaken s a).block k).feeds = (s.block k).feeds ∧
    ((State.overtaken s a).block k).preds = (s.block k).preds ∧
    ((State.overtaken s a).block k).streams = (s.block k).streams ∧
    ((State.overtaken s a).block k).sketch = (s.block k).sketch ∧
    ((State.overtaken s a).block k).seqq = (s.block k).seqq ∧
    ((State.overtaken s a).block k).bars = (s.block k).bars ∧
    ((State.overtaken s a).block k).issued = (s.block k).issued ∧
    ((State.overtaken s a).block k).since = (s.block k).since ∧
    ((State.overtaken s a).block k).discarded = (s.block k).discarded := by
  first
  | (unfold State.overtaken; (try dsimp only); (repeat' split) <;> simp -implicitDefEqProofs (disch := (intros; first | (simp -implicitDefEqProofs [*]; done) | ((try dsimp only); (repeat' split) <;> (simp -implicitDefEqProofs (disch := (intros; (try dsimp only); (repeat' split) <;> (try (simp -implicitDefEqProofs [*]; done)))) [*]; done)) | skip)) [State.updBlock_at, apply_ite Block.launch, apply_ite Block.idx, apply_ite Block.st, apply_ite Block.lcore, apply_ite Block.pcore, apply_ite Block.frame, apply_ite Block.waves, apply_ite Block.pageWait, apply_ite Block.scratch, apply_ite Block.sclaims, apply_ite Block.lim, apply_ite Block.flights, apply_ite Block.tabs, apply_ite Block.accs, apply_ite Block.feeds, apply_ite Block.preds, apply_ite Block.streams, apply_ite Block.sketch, apply_ite Block.seqq, apply_ite Block.bars, apply_ite Block.share, apply_ite Block.issued, apply_ite Block.since, apply_ite Block.discarded])
  | (unfold State.overtaken; (try dsimp only); (repeat' split) <;> simp -implicitDefEqProofs (disch := (intros; first | (simp -implicitDefEqProofs [*]; done) | ((try dsimp only); (repeat' split) <;> (simp -implicitDefEqProofs (disch := (intros; (try dsimp only); (repeat' split) <;> (try (simp -implicitDefEqProofs [*]; done)))) [*]; done)) | skip)) [State.block])
@[simp] theorem State.expire_keeps (s : State) (a : Nat) :
    (State.expire s a).launches = s.launches ∧
    (State.expire s a).mem = s.mem ∧
    (State.expire s a).array = s.array ∧
    (State.expire s a).hostMem = s.hostMem ∧
    (State.expire s a).peerMem = s.peerMem ∧
    (State.expire s a).registrant = s.registrant ∧
    (State.expire s a).cells = s.cells ∧
    (State.expire s a).regions = s.regions ∧
    (State.expire s a).rdc = s.rdc ∧
    (State.expire s a).l2 = s.l2 ∧
    (State.expire s a).msc = s.msc ∧
    (State.expire s a).hbms = s.hbms ∧
    (State.expire s a).bad = s.bad ∧
    (State.expire s a).weak = s.weak ∧
    (State.expire s a).lost = s.lost ∧
    (State.expire s a).tlb = s.tlb ∧
    (State.expire s a).abufs = s.abufs ∧
    (State.expire s a).jobs = s.jobs ∧
    (State.expire s a).feet = s.feet ∧
    (State.expire s a).shapes = s.shapes ∧
    (State.expire s a).eqs = s.eqs ∧
    (State.expire s a).insts = s.insts ∧
    (State.expire s a).links = s.links ∧
    (State.expire s a).hostAccs = s.hostAccs ∧
    (State.expire s a).hostLines = s.hostLines ∧
    (State.expire s a).mgmt = s.mgmt ∧
    (State.expire s a).focus = s.focus ∧
    (State.expire s a).agenda = s.agenda ∧
    (∀ k, (State.expire s a).launch k = s.launch k) := by
  (unfold State.expire; (try dsimp only); (repeat' split) <;> simp -implicitDefEqProofs (disch := (intros; first | (simp -implicitDefEqProofs [*]; done) | ((try dsimp only); (repeat' split) <;> (simp -implicitDefEqProofs (disch := (intros; (try dsimp only); (repeat' split) <;> (try (simp -implicitDefEqProofs [*]; done)))) [*]; done)) | skip)) [State.wave, State.block, State.launch, State.core])
@[simp] theorem State.expire_keepsW (s : State) (a : Nat) (k : Nat) :
    ((State.expire s a).wave k).block = (s.wave k).block ∧
    ((State.expire s a).wave k).idx = (s.wave k).idx ∧
    ((State.expire s a).wave k).exited = (s.wave k).exited ∧
    ((State.expire s a).wave k).launchMask = (s.wave k).launchMask ∧
    ((State.expire s a).wave k).pad = (s.wave k).pad ∧
    ((State.expire s a).wave k).sregs = (s.wave k).sregs ∧
    ((State.expire s a).wave k).pregs = (s.wave k).pregs ∧
    ((State.expire s a).wave k).lastB = (s.wave k).lastB ∧
    ((State.expire s a).wave k).spill = (s.wave k).spill ∧
    ((State.expire s a).wave k).handler = (s.wave k).handler ∧
    ((State.expire s a).wave k).xpc = (s.wave k).xpc ∧
    ((State.expire s a).wave k).xmode = (s.wave k).xmode ∧
    ((State.expire s a).wave k).xcause = (s.wave k).xcause ∧
    ((State.expire s a).wave k).xlanes = (s.wave k).xlanes ∧
    ((State.expire s a).wave k).xaddr = (s.wave k).xaddr ∧
    ((State.expire s a).wave k).gexposed = (s.wave k).gexposed ∧
    ((State.expire s a).wave k).sfr = (s.wave k).sfr ∧
    ((State.expire s a).wave k).arrived = (s.wave k).arrived ∧
    ((State.expire s a).wave k).pend = (s.wave k).pend ∧
    ((State.expire s a).wave k).lost = (s.wave k).lost ∧
    ((State.expire s a).wave k).since = (s.wave k).since ∧
    ((State.expire s a).wave k).jobs = (s.wave k).jobs ∧
    ((State.expire s a).wave k).left = (s.wave k).left := by
  first
  | (unfold State.expire; (try dsimp only); (repeat' split) <;> simp -implicitDefEqProofs (disch := (intros; first | (simp -implicitDefEqProofs [*]; done) | ((try dsimp only); (repeat' split) <;> (simp -implicitDefEqProofs (disch := (intros; (try dsimp only); (repeat' split) <;> (try (simp -implicitDefEqProofs [*]; done)))) [*]; done)) | skip)) [State.updWave_at, apply_ite Wave.block, apply_ite Wave.idx, apply_ite Wave.exited, apply_ite Wave.launchMask, apply_ite Wave.pad, apply_ite Wave.sregs, apply_ite Wave.vregs, apply_ite Wave.pregs, apply_ite Wave.slotA, apply_ite Wave.slotB, apply_ite Wave.lastB, apply_ite Wave.spill, apply_ite Wave.handler, apply_ite Wave.xpc, apply_ite Wave.xmode, apply_ite Wave.xcause, apply_ite Wave.xlanes, apply_ite Wave.xaddr, apply_ite Wave.gexposed, apply_ite Wave.mm, apply_ite Wave.epoch, apply_ite Wave.tags, apply_ite Wave.sfr, apply_ite Wave.arrived, apply_ite Wave.region, apply_ite Wave.pend, apply_ite Wave.lost, apply_ite Wave.since, apply_ite Wave.jobs, apply_ite Wave.left])
  | (unfold State.expire; (try dsimp only); (repeat' split) <;> simp -implicitDefEqProofs (disch := (intros; first | (simp -implicitDefEqProofs [*]; done) | ((try dsimp only); (repeat' split) <;> (simp -implicitDefEqProofs (disch := (intros; (try dsimp only); (repeat' split) <;> (try (simp -implicitDefEqProofs [*]; done)))) [*]; done)) | skip)) [State.wave])
@[simp] theorem State.expire_keepsB (s : State) (a : Nat) (k : Nat) :
    ((State.expire s a).block k).launch = (s.block k).launch ∧
    ((State.expire s a).block k).idx = (s.block k).idx ∧
    ((State.expire s a).block k).st = (s.block k).st ∧
    ((State.expire s a).block k).lcore = (s.block k).lcore ∧
    ((State.expire s a).block k).pcore = (s.block k).pcore ∧
    ((State.expire s a).block k).frame = (s.block k).frame ∧
    ((State.expire s a).block k).waves = (s.block k).waves ∧
    ((State.expire s a).block k).pageWait = (s.block k).pageWait ∧
    ((State.expire s a).block k).scratch = (s.block k).scratch ∧
    ((State.expire s a).block k).sclaims = (s.block k).sclaims ∧
    ((State.expire s a).block k).lim = (s.block k).lim ∧
    ((State.expire s a).block k).tabs = (s.block k).tabs ∧
    ((State.expire s a).block k).accs = (s.block k).accs ∧
    ((State.expire s a).block k).feeds = (s.block k).feeds ∧
    ((State.expire s a).block k).preds = (s.block k).preds ∧
    ((State.expire s a).block k).streams = (s.block k).streams ∧
    ((State.expire s a).block k).sketch = (s.block k).sketch ∧
    ((State.expire s a).block k).seqq = (s.block k).seqq ∧
    ((State.expire s a).block k).bars = (s.block k).bars ∧
    ((State.expire s a).block k).issued = (s.block k).issued ∧
    ((State.expire s a).block k).since = (s.block k).since ∧
    ((State.expire s a).block k).discarded = (s.block k).discarded := by
  first
  | (unfold State.expire; (try dsimp only); (repeat' split) <;> simp -implicitDefEqProofs (disch := (intros; first | (simp -implicitDefEqProofs [*]; done) | ((try dsimp only); (repeat' split) <;> (simp -implicitDefEqProofs (disch := (intros; (try dsimp only); (repeat' split) <;> (try (simp -implicitDefEqProofs [*]; done)))) [*]; done)) | skip)) [State.updBlock_at, apply_ite Block.launch, apply_ite Block.idx, apply_ite Block.st, apply_ite Block.lcore, apply_ite Block.pcore, apply_ite Block.frame, apply_ite Block.waves, apply_ite Block.pageWait, apply_ite Block.scratch, apply_ite Block.sclaims, apply_ite Block.lim, apply_ite Block.flights, apply_ite Block.tabs, apply_ite Block.accs, apply_ite Block.feeds, apply_ite Block.preds, apply_ite Block.streams, apply_ite Block.sketch, apply_ite Block.seqq, apply_ite Block.bars, apply_ite Block.share, apply_ite Block.issued, apply_ite Block.since, apply_ite Block.discarded])
  | (unfold State.expire; (try dsimp only); (repeat' split) <;> simp -implicitDefEqProofs (disch := (intros; first | (simp -implicitDefEqProofs [*]; done) | ((try dsimp only); (repeat' split) <;> (simp -implicitDefEqProofs (disch := (intros; (try dsimp only); (repeat' split) <;> (try (simp -implicitDefEqProofs [*]; done)))) [*]; done)) | skip)) [State.block])
@[simp] theorem State.truthArrives_keeps (s : State) (a : Nat) (t : GTag) :
    (State.truthArrives s a t).launches = s.launches ∧
    (State.truthArrives s a t).mem = s.mem ∧
    (State.truthArrives s a t).array = s.array ∧
    (State.truthArrives s a t).hostMem = s.hostMem ∧
    (State.truthArrives s a t).peerMem = s.peerMem ∧
    (State.truthArrives s a t).registrant = s.registrant ∧
    (State.truthArrives s a t).claims = s.claims ∧
    (State.truthArrives s a t).cells = s.cells ∧
    (State.truthArrives s a t).regions = s.regions ∧
    (State.truthArrives s a t).rdc = s.rdc ∧
    (State.truthArrives s a t).l2 = s.l2 ∧
    (State.truthArrives s a t).msc = s.msc ∧
    (State.truthArrives s a t).hbms = s.hbms ∧
    (State.truthArrives s a t).bad = s.bad ∧
    (State.truthArrives s a t).weak = s.weak ∧
    (State.truthArrives s a t).lost = s.lost ∧
    (State.truthArrives s a t).tlb = s.tlb ∧
    (State.truthArrives s a t).net = s.net ∧
    (State.truthArrives s a t).abufs = s.abufs ∧
    (State.truthArrives s a t).jobs = s.jobs ∧
    (State.truthArrives s a t).feet = s.feet ∧
    (State.truthArrives s a t).shapes = s.shapes ∧
    (State.truthArrives s a t).eqs = s.eqs ∧
    (State.truthArrives s a t).insts = s.insts ∧
    (State.truthArrives s a t).links = s.links ∧
    (State.truthArrives s a t).hostAccs = s.hostAccs ∧
    (State.truthArrives s a t).hostLines = s.hostLines ∧
    (State.truthArrives s a t).mgmt = s.mgmt ∧
    (State.truthArrives s a t).focus = s.focus ∧
    (State.truthArrives s a t).agenda = s.agenda ∧
    (State.truthArrives s a t).seq = s.seq ∧
    (∀ k, (State.truthArrives s a t).launch k = s.launch k) := by
  (unfold State.truthArrives; (try dsimp only); (repeat' split) <;> simp -implicitDefEqProofs (disch := (intros; first | (simp -implicitDefEqProofs [*]; done) | ((try dsimp only); (repeat' split) <;> (simp -implicitDefEqProofs (disch := (intros; (try dsimp only); (repeat' split) <;> (try (simp -implicitDefEqProofs [*]; done)))) [*]; done)) | skip)) [State.wave, State.block, State.launch, State.core])
@[simp] theorem State.truthArrives_keepsW (s : State) (a : Nat) (t : GTag) (k : Nat) :
    ((State.truthArrives s a t).wave k).block = (s.wave k).block ∧
    ((State.truthArrives s a t).wave k).idx = (s.wave k).idx ∧
    ((State.truthArrives s a t).wave k).exited = (s.wave k).exited ∧
    ((State.truthArrives s a t).wave k).launchMask = (s.wave k).launchMask ∧
    ((State.truthArrives s a t).wave k).pad = (s.wave k).pad ∧
    ((State.truthArrives s a t).wave k).sregs = (s.wave k).sregs ∧
    ((State.truthArrives s a t).wave k).vregs = (s.wave k).vregs ∧
    ((State.truthArrives s a t).wave k).pregs = (s.wave k).pregs ∧
    ((State.truthArrives s a t).wave k).slotA = (s.wave k).slotA ∧
    ((State.truthArrives s a t).wave k).slotB = (s.wave k).slotB ∧
    ((State.truthArrives s a t).wave k).lastB = (s.wave k).lastB ∧
    ((State.truthArrives s a t).wave k).spill = (s.wave k).spill ∧
    ((State.truthArrives s a t).wave k).handler = (s.wave k).handler ∧
    ((State.truthArrives s a t).wave k).xpc = (s.wave k).xpc ∧
    ((State.truthArrives s a t).wave k).xmode = (s.wave k).xmode ∧
    ((State.truthArrives s a t).wave k).xcause = (s.wave k).xcause ∧
    ((State.truthArrives s a t).wave k).xlanes = (s.wave k).xlanes ∧
    ((State.truthArrives s a t).wave k).xaddr = (s.wave k).xaddr ∧
    ((State.truthArrives s a t).wave k).gexposed = (s.wave k).gexposed ∧
    ((State.truthArrives s a t).wave k).mm = (s.wave k).mm ∧
    ((State.truthArrives s a t).wave k).epoch = (s.wave k).epoch ∧
    ((State.truthArrives s a t).wave k).sfr = (s.wave k).sfr ∧
    ((State.truthArrives s a t).wave k).arrived = (s.wave k).arrived ∧
    ((State.truthArrives s a t).wave k).region = (s.wave k).region ∧
    ((State.truthArrives s a t).wave k).pend = (s.wave k).pend ∧
    ((State.truthArrives s a t).wave k).lost = (s.wave k).lost ∧
    ((State.truthArrives s a t).wave k).since = (s.wave k).since ∧
    ((State.truthArrives s a t).wave k).jobs = (s.wave k).jobs ∧
    ((State.truthArrives s a t).wave k).left = (s.wave k).left := by
  first
  | (unfold State.truthArrives; (try dsimp only); (repeat' split) <;> simp -implicitDefEqProofs (disch := (intros; first | (simp -implicitDefEqProofs [*]; done) | ((try dsimp only); (repeat' split) <;> (simp -implicitDefEqProofs (disch := (intros; (try dsimp only); (repeat' split) <;> (try (simp -implicitDefEqProofs [*]; done)))) [*]; done)) | skip)) [State.updWave_at, apply_ite Wave.block, apply_ite Wave.idx, apply_ite Wave.exited, apply_ite Wave.launchMask, apply_ite Wave.pad, apply_ite Wave.sregs, apply_ite Wave.vregs, apply_ite Wave.pregs, apply_ite Wave.slotA, apply_ite Wave.slotB, apply_ite Wave.lastB, apply_ite Wave.spill, apply_ite Wave.handler, apply_ite Wave.xpc, apply_ite Wave.xmode, apply_ite Wave.xcause, apply_ite Wave.xlanes, apply_ite Wave.xaddr, apply_ite Wave.gexposed, apply_ite Wave.mm, apply_ite Wave.epoch, apply_ite Wave.tags, apply_ite Wave.sfr, apply_ite Wave.arrived, apply_ite Wave.region, apply_ite Wave.pend, apply_ite Wave.lost, apply_ite Wave.since, apply_ite Wave.jobs, apply_ite Wave.left])
  | (unfold State.truthArrives; (try dsimp only); (repeat' split) <;> simp -implicitDefEqProofs (disch := (intros; first | (simp -implicitDefEqProofs [*]; done) | ((try dsimp only); (repeat' split) <;> (simp -implicitDefEqProofs (disch := (intros; (try dsimp only); (repeat' split) <;> (try (simp -implicitDefEqProofs [*]; done)))) [*]; done)) | skip)) [State.wave])
@[simp] theorem State.truthArrives_keepsB (s : State) (a : Nat) (t : GTag) (k : Nat) :
    ((State.truthArrives s a t).block k).launch = (s.block k).launch ∧
    ((State.truthArrives s a t).block k).idx = (s.block k).idx ∧
    ((State.truthArrives s a t).block k).st = (s.block k).st ∧
    ((State.truthArrives s a t).block k).lcore = (s.block k).lcore ∧
    ((State.truthArrives s a t).block k).pcore = (s.block k).pcore ∧
    ((State.truthArrives s a t).block k).frame = (s.block k).frame ∧
    ((State.truthArrives s a t).block k).waves = (s.block k).waves ∧
    ((State.truthArrives s a t).block k).pageWait = (s.block k).pageWait ∧
    ((State.truthArrives s a t).block k).scratch = (s.block k).scratch ∧
    ((State.truthArrives s a t).block k).sclaims = (s.block k).sclaims ∧
    ((State.truthArrives s a t).block k).lim = (s.block k).lim ∧
    ((State.truthArrives s a t).block k).flights = (s.block k).flights ∧
    ((State.truthArrives s a t).block k).tabs = (s.block k).tabs ∧
    ((State.truthArrives s a t).block k).accs = (s.block k).accs ∧
    ((State.truthArrives s a t).block k).feeds = (s.block k).feeds ∧
    ((State.truthArrives s a t).block k).preds = (s.block k).preds ∧
    ((State.truthArrives s a t).block k).streams = (s.block k).streams ∧
    ((State.truthArrives s a t).block k).sketch = (s.block k).sketch ∧
    ((State.truthArrives s a t).block k).seqq = (s.block k).seqq ∧
    ((State.truthArrives s a t).block k).bars = (s.block k).bars ∧
    ((State.truthArrives s a t).block k).issued = (s.block k).issued ∧
    ((State.truthArrives s a t).block k).since = (s.block k).since ∧
    ((State.truthArrives s a t).block k).discarded = (s.block k).discarded := by
  first
  | (unfold State.truthArrives; (try dsimp only); (repeat' split) <;> simp -implicitDefEqProofs (disch := (intros; first | (simp -implicitDefEqProofs [*]; done) | ((try dsimp only); (repeat' split) <;> (simp -implicitDefEqProofs (disch := (intros; (try dsimp only); (repeat' split) <;> (try (simp -implicitDefEqProofs [*]; done)))) [*]; done)) | skip)) [State.updBlock_at, apply_ite Block.launch, apply_ite Block.idx, apply_ite Block.st, apply_ite Block.lcore, apply_ite Block.pcore, apply_ite Block.frame, apply_ite Block.waves, apply_ite Block.pageWait, apply_ite Block.scratch, apply_ite Block.sclaims, apply_ite Block.lim, apply_ite Block.flights, apply_ite Block.tabs, apply_ite Block.accs, apply_ite Block.feeds, apply_ite Block.preds, apply_ite Block.streams, apply_ite Block.sketch, apply_ite Block.seqq, apply_ite Block.bars, apply_ite Block.share, apply_ite Block.issued, apply_ite Block.since, apply_ite Block.discarded])
  | (unfold State.truthArrives; (try dsimp only); (repeat' split) <;> simp -implicitDefEqProofs (disch := (intros; first | (simp -implicitDefEqProofs [*]; done) | ((try dsimp only); (repeat' split) <;> (simp -implicitDefEqProofs (disch := (intros; (try dsimp only); (repeat' split) <;> (try (simp -implicitDefEqProofs [*]; done)))) [*]; done)) | skip)) [State.block])
@[simp] theorem State.sendPiece_keeps (s : State) (a : Nat) (i : Nat) :
    (State.sendPiece s a i).waves = s.waves ∧
    (State.sendPiece s a i).blocks = s.blocks ∧
    (State.sendPiece s a i).launches = s.launches ∧
    (State.sendPiece s a i).cores = s.cores ∧
    (State.sendPiece s a i).mem = s.mem ∧
    (State.sendPiece s a i).array = s.array ∧
    (State.sendPiece s a i).hostMem = s.hostMem ∧
    (State.sendPiece s a i).peerMem = s.peerMem ∧
    (State.sendPiece s a i).registrant = s.registrant ∧
    (State.sendPiece s a i).claims = s.claims ∧
    (State.sendPiece s a i).cells = s.cells ∧
    (State.sendPiece s a i).regions = s.regions ∧
    (State.sendPiece s a i).rdc = s.rdc ∧
    (State.sendPiece s a i).l2 = s.l2 ∧
    (State.sendPiece s a i).msc = s.msc ∧
    (State.sendPiece s a i).hbms = s.hbms ∧
    (State.sendPiece s a i).bad = s.bad ∧
    (State.sendPiece s a i).weak = s.weak ∧
    (State.sendPiece s a i).lost = s.lost ∧
    (State.sendPiece s a i).tlb = s.tlb ∧
    (State.sendPiece s a i).abufs = s.abufs ∧
    (State.sendPiece s a i).jobs = s.jobs ∧
    (State.sendPiece s a i).feet = s.feet ∧
    (State.sendPiece s a i).shapes = s.shapes ∧
    (State.sendPiece s a i).eqs = s.eqs ∧
    (State.sendPiece s a i).insts = s.insts ∧
    (State.sendPiece s a i).hostAccs = s.hostAccs ∧
    (State.sendPiece s a i).hostLines = s.hostLines ∧
    (State.sendPiece s a i).mgmt = s.mgmt ∧
    (State.sendPiece s a i).focus = s.focus ∧
    (State.sendPiece s a i).agenda = s.agenda ∧
    (∀ k, (State.sendPiece s a i).wave k = s.wave k) ∧
    (∀ k, (State.sendPiece s a i).block k = s.block k) ∧
    (∀ k, (State.sendPiece s a i).launch k = s.launch k) ∧
    (∀ k, (State.sendPiece s a i).core k = s.core k) := by
  (unfold State.sendPiece; (try dsimp only); (repeat' split) <;> simp -implicitDefEqProofs (disch := (intros; first | (simp -implicitDefEqProofs [*]; done) | ((try dsimp only); (repeat' split) <;> (simp -implicitDefEqProofs (disch := (intros; (try dsimp only); (repeat' split) <;> (try (simp -implicitDefEqProofs [*]; done)))) [*]; done)) | skip)) [State.wave, State.block, State.launch, State.core])
end Sys2Proof.Machine
end

