-- ==== Sys2Proof/Laws/KeepsHome.lean ====
section
/-! SUPPORT. What the steps at a home point and at the host port leave unchanged. One lemma per operation, over the fields of State; a field that is not named may change. -/

set_option linter.unusedSimpArgs false

namespace Sys2Proof.Machine
open Sys2Proof
@[simp] theorem State.plainWrite_keeps (s : State) (pa : Nat) (d : List Byte) :
    (State.plainWrite s pa d).waves = s.waves ∧
    (State.plainWrite s pa d).blocks = s.blocks ∧
    (State.plainWrite s pa d).launches = s.launches ∧
    (State.plainWrite s pa d).hostMem = s.hostMem ∧
    (State.plainWrite s pa d).peerMem = s.peerMem ∧
    (State.plainWrite s pa d).claims = s.claims ∧
    (State.plainWrite s pa d).regions = s.regions ∧
    (State.plainWrite s pa d).tlb = s.tlb ∧
    (State.plainWrite s pa d).accs = s.accs ∧
    (State.plainWrite s pa d).net = s.net ∧
    (State.plainWrite s pa d).abufs = s.abufs ∧
    (State.plainWrite s pa d).jobs = s.jobs ∧
    (State.plainWrite s pa d).feet = s.feet ∧
    (State.plainWrite s pa d).shapes = s.shapes ∧
    (State.plainWrite s pa d).eqs = s.eqs ∧
    (State.plainWrite s pa d).insts = s.insts ∧
    (State.plainWrite s pa d).links = s.links ∧
    (State.plainWrite s pa d).hostAccs = s.hostAccs ∧
    (State.plainWrite s pa d).mgmt = s.mgmt ∧
    (State.plainWrite s pa d).focus = s.focus ∧
    (State.plainWrite s pa d).agenda = s.agenda ∧
    (∀ k, (State.plainWrite s pa d).wave k = s.wave k) ∧
    (∀ k, (State.plainWrite s pa d).block k = s.block k) ∧
    (∀ k, (State.plainWrite s pa d).launch k = s.launch k) := by
  (unfold State.plainWrite; (try dsimp only); (repeat' split) <;> simp -implicitDefEqProofs (disch := (intros; first | (simp -implicitDefEqProofs [*]; done) | ((try dsimp only); (repeat' split) <;> (simp -implicitDefEqProofs (disch := (intros; (try dsimp only); (repeat' split) <;> (try (simp -implicitDefEqProofs [*]; done)))) [*]; done)) | skip)) [State.wave, State.block, State.launch, State.core])
@[simp] theorem State.hostCaches_keeps (s : State) (line : Nat) (d : List Byte) :
    (State.hostCaches s line d).waves = s.waves ∧
    (State.hostCaches s line d).blocks = s.blocks ∧
    (State.hostCaches s line d).launches = s.launches ∧
    (State.hostCaches s line d).cores = s.cores ∧
    (State.hostCaches s line d).mem = s.mem ∧
    (State.hostCaches s line d).array = s.array ∧
    (State.hostCaches s line d).hostMem = s.hostMem ∧
    (State.hostCaches s line d).peerMem = s.peerMem ∧
    (State.hostCaches s line d).registrant = s.registrant ∧
    (State.hostCaches s line d).claims = s.claims ∧
    (State.hostCaches s line d).cells = s.cells ∧
    (State.hostCaches s line d).regions = s.regions ∧
    (State.hostCaches s line d).rdc = s.rdc ∧
    (State.hostCaches s line d).l2 = s.l2 ∧
    (State.hostCaches s line d).msc = s.msc ∧
    (State.hostCaches s line d).hbms = s.hbms ∧
    (State.hostCaches s line d).bad = s.bad ∧
    (State.hostCaches s line d).weak = s.weak ∧
    (State.hostCaches s line d).lost = s.lost ∧
    (State.hostCaches s line d).tlb = s.tlb ∧
    (State.hostCaches s line d).accs = s.accs ∧
    (State.hostCaches s line d).net = s.net ∧
    (State.hostCaches s line d).abufs = s.abufs ∧
    (State.hostCaches s line d).jobs = s.jobs ∧
    (State.hostCaches s line d).feet = s.feet ∧
    (State.hostCaches s line d).shapes = s.shapes ∧
    (State.hostCaches s line d).eqs = s.eqs ∧
    (State.hostCaches s line d).insts = s.insts ∧
    (State.hostCaches s line d).links = s.links ∧
    (State.hostCaches s line d).hostAccs = s.hostAccs ∧
    (State.hostCaches s line d).mgmt = s.mgmt ∧
    (State.hostCaches s line d).focus = s.focus ∧
    (State.hostCaches s line d).agenda = s.agenda ∧
    (State.hostCaches s line d).seq = s.seq ∧
    (∀ k, (State.hostCaches s line d).wave k = s.wave k) ∧
    (∀ k, (State.hostCaches s line d).block k = s.block k) ∧
    (∀ k, (State.hostCaches s line d).launch k = s.launch k) ∧
    (∀ k, (State.hostCaches s line d).core k = s.core k) := by
  (unfold State.hostCaches; (try dsimp only); (repeat' split) <;> simp -implicitDefEqProofs (disch := (intros; first | (simp -implicitDefEqProofs [*]; done) | ((try dsimp only); (repeat' split) <;> (simp -implicitDefEqProofs (disch := (intros; (try dsimp only); (repeat' split) <;> (try (simp -implicitDefEqProofs [*]; done)))) [*]; done)) | skip)) [State.wave, State.block, State.launch, State.core])

@[simp] theorem State.writeHome_keeps (s : State) (x : Acc) (p : Piece) :
    (State.writeHome s x p).waves = s.waves ∧
    (State.writeHome s x p).blocks = s.blocks ∧
    (State.writeHome s x p).launches = s.launches ∧
    (State.writeHome s x p).hostMem = s.hostMem ∧
    (State.writeHome s x p).peerMem = s.peerMem ∧
    (State.writeHome s x p).claims = s.claims ∧
    (State.writeHome s x p).tlb = s.tlb ∧
    (State.writeHome s x p).accs = s.accs ∧
    (State.writeHome s x p).net = s.net ∧
    (State.writeHome s x p).abufs = s.abufs ∧
    (State.writeHome s x p).jobs = s.jobs ∧
    (State.writeHome s x p).feet = s.feet ∧
    (State.writeHome s x p).shapes = s.shapes ∧
    (State.writeHome s x p).eqs = s.eqs ∧
    (State.writeHome s x p).insts = s.insts ∧
    (State.writeHome s x p).links = s.links ∧
    (State.writeHome s x p).hostAccs = s.hostAccs ∧
    (State.writeHome s x p).mgmt = s.mgmt ∧
    (State.writeHome s x p).focus = s.focus ∧
    (State.writeHome s x p).agenda = s.agenda ∧
    (∀ k, (State.writeHome s x p).wave k = s.wave k) ∧
    (∀ k, (State.writeHome s x p).block k = s.block k) ∧
    (∀ k, (State.writeHome s x p).launch k = s.launch k) := by
  (unfold State.writeHome; (try dsimp only); (repeat' split) <;> simp -implicitDefEqProofs (disch := (intros; first | (simp -implicitDefEqProofs [*]; done) | ((try dsimp only); (repeat' split) <;> (simp -implicitDefEqProofs (disch := (intros; (try dsimp only); (repeat' split) <;> (try (simp -implicitDefEqProofs [*]; done)))) [*]; done)) | skip)) [State.wave, State.block, State.launch, State.core])
@[simp] theorem State.clearLine_keeps (s : State) (line : Nat) :
    (State.clearLine s line).waves = s.waves ∧
    (State.clearLine s line).blocks = s.blocks ∧
    (State.clearLine s line).launches = s.launches ∧
    (State.clearLine s line).hostMem = s.hostMem ∧
    (State.clearLine s line).peerMem = s.peerMem ∧
    (State.clearLine s line).claims = s.claims ∧
    (State.clearLine s line).regions = s.regions ∧
    (State.clearLine s line).tlb = s.tlb ∧
    (State.clearLine s line).accs = s.accs ∧
    (State.clearLine s line).net = s.net ∧
    (State.clearLine s line).abufs = s.abufs ∧
    (State.clearLine s line).jobs = s.jobs ∧
    (State.clearLine s line).feet = s.feet ∧
    (State.clearLine s line).shapes = s.shapes ∧
    (State.clearLine s line).eqs = s.eqs ∧
    (State.clearLine s line).insts = s.insts ∧
    (State.clearLine s line).links = s.links ∧
    (State.clearLine s line).hostAccs = s.hostAccs ∧
    (State.clearLine s line).mgmt = s.mgmt ∧
    (State.clearLine s line).focus = s.focus ∧
    (State.clearLine s line).agenda = s.agenda ∧
    (∀ k, (State.clearLine s line).wave k = s.wave k) ∧
    (∀ k, (State.clearLine s line).block k = s.block k) ∧
    (∀ k, (State.clearLine s line).launch k = s.launch k) := by
  (unfold State.clearLine; (try dsimp only); (repeat' split) <;> simp -implicitDefEqProofs (disch := (intros; first | (simp -implicitDefEqProofs [*]; done) | ((try dsimp only); (repeat' split) <;> (simp -implicitDefEqProofs (disch := (intros; (try dsimp only); (repeat' split) <;> (try (simp -implicitDefEqProofs [*]; done)))) [*]; done)) | skip)) [State.wave, State.block, State.launch, State.core])
@[simp] theorem State.startCount_keeps (s : State) (line : Nat) (n : Nat) :
    (State.startCount s line n).waves = s.waves ∧
    (State.startCount s line n).blocks = s.blocks ∧
    (State.startCount s line n).launches = s.launches ∧
    (State.startCount s line n).hostMem = s.hostMem ∧
    (State.startCount s line n).peerMem = s.peerMem ∧
    (State.startCount s line n).claims = s.claims ∧
    (State.startCount s line n).regions = s.regions ∧
    (State.startCount s line n).tlb = s.tlb ∧
    (State.startCount s line n).accs = s.accs ∧
    (State.startCount s line n).net = s.net ∧
    (State.startCount s line n).abufs = s.abufs ∧
    (State.startCount s line n).jobs = s.jobs ∧
    (State.startCount s line n).feet = s.feet ∧
    (State.startCount s line n).shapes = s.shapes ∧
    (State.startCount s line n).eqs = s.eqs ∧
    (State.startCount s line n).insts = s.insts ∧
    (State.startCount s line n).links = s.links ∧
    (State.startCount s line n).hostAccs = s.hostAccs ∧
    (State.startCount s line n).mgmt = s.mgmt ∧
    (State.startCount s line n).focus = s.focus ∧
    (State.startCount s line n).agenda = s.agenda ∧
    (∀ k, (State.startCount s line n).wave k = s.wave k) ∧
    (∀ k, (State.startCount s line n).block k = s.block k) ∧
    (∀ k, (State.startCount s line n).launch k = s.launch k) := by
  (unfold State.startCount; (try dsimp only); (repeat' split) <;> simp -implicitDefEqProofs (disch := (intros; first | (simp -implicitDefEqProofs [*]; done) | ((try dsimp only); (repeat' split) <;> (simp -implicitDefEqProofs (disch := (intros; (try dsimp only); (repeat' split) <;> (try (simp -implicitDefEqProofs [*]; done)))) [*]; done)) | skip)) [State.wave, State.block, State.launch, State.core])
@[simp] theorem State.dropWrite_keeps (s : State) (a : Nat) (i : Nat) (cause : BitVec 8) (sub : BitVec 8) (same : Piece → Bool) :
    (State.dropWrite s a i cause sub same).blocks = s.blocks ∧
    (State.dropWrite s a i cause sub same).launches = s.launches ∧
    (State.dropWrite s a i cause sub same).cores = s.cores ∧
    (State.dropWrite s a i cause sub same).mem = s.mem ∧
    (State.dropWrite s a i cause sub same).array = s.array ∧
    (State.dropWrite s a i cause sub same).hostMem = s.hostMem ∧
    (State.dropWrite s a i cause sub same).peerMem = s.peerMem ∧
    (State.dropWrite s a i cause sub same).registrant = s.registrant ∧
    (State.dropWrite s a i cause sub same).claims = s.claims ∧
    (State.dropWrite s a i cause sub same).cells = s.cells ∧
    (State.dropWrite s a i cause sub same).regions = s.regions ∧
    (State.dropWrite s a i cause sub same).rdc = s.rdc ∧
    (State.dropWrite s a i cause sub same).l2 = s.l2 ∧
    (State.dropWrite s a i cause sub same).msc = s.msc ∧
    (State.dropWrite s a i cause sub same).hbms = s.hbms ∧
    (State.dropWrite s a i cause sub same).bad = s.bad ∧
    (State.dropWrite s a i cause sub same).weak = s.weak ∧
    (State.dropWrite s a i cause sub same).lost = s.lost ∧
    (State.dropWrite s a i cause sub same).tlb = s.tlb ∧
    (State.dropWrite s a i cause sub same).net = s.net ∧
    (State.dropWrite s a i cause sub same).abufs = s.abufs ∧
    (State.dropWrite s a i cause sub same).jobs = s.jobs ∧
    (State.dropWrite s a i cause sub same).feet = s.feet ∧
    (State.dropWrite s a i cause sub same).shapes = s.shapes ∧
    (State.dropWrite s a i cause sub same).eqs = s.eqs ∧
    (State.dropWrite s a i cause sub same).insts = s.insts ∧
    (State.dropWrite s a i cause sub same).links = s.links ∧
    (State.dropWrite s a i cause sub same).hostAccs = s.hostAccs ∧
    (State.dropWrite s a i cause sub same).hostLines = s.hostLines ∧
    (State.dropWrite s a i cause sub same).mgmt = s.mgmt ∧
    (State.dropWrite s a i cause sub same).focus = s.focus ∧
    (State.dropWrite s a i cause sub same).agenda = s.agenda ∧
    (State.dropWrite s a i cause sub same).seq = s.seq ∧
    (∀ k, (State.dropWrite s a i cause sub same).block k = s.block k) ∧
    (∀ k, (State.dropWrite s a i cause sub same).launch k = s.launch k) ∧
    (∀ k, (State.dropWrite s a i cause sub same).core k = s.core k) := by
  (unfold State.dropWrite; (try dsimp only); (repeat' split) <;> simp -implicitDefEqProofs (disch := (intros; first | (simp -implicitDefEqProofs [*]; done) | ((try dsimp only); (repeat' split) <;> (simp -implicitDefEqProofs (disch := (intros; (try dsimp only); (repeat' split) <;> (try (simp -implicitDefEqProofs [*]; done)))) [*]; done)) | skip)) [State.wave, State.block, State.launch, State.core])
@[simp] theorem State.dropWrite_keepsW (s : State) (a : Nat) (i : Nat) (cause : BitVec 8) (sub : BitVec 8) (same : Piece → Bool) (k : Nat) :
    ((State.dropWrite s a i cause sub same).wave k).block = (s.wave k).block ∧
    ((State.dropWrite s a i cause sub same).wave k).idx = (s.wave k).idx ∧
    ((State.dropWrite s a i cause sub same).wave k).exited = (s.wave k).exited ∧
    ((State.dropWrite s a i cause sub same).wave k).launchMask = (s.wave k).launchMask ∧
    ((State.dropWrite s a i cause sub same).wave k).pad = (s.wave k).pad ∧
    ((State.dropWrite s a i cause sub same).wave k).sregs = (s.wave k).sregs ∧
    ((State.dropWrite s a i cause sub same).wave k).vregs = (s.wave k).vregs ∧
    ((State.dropWrite s a i cause sub same).wave k).pregs = (s.wave k).pregs ∧
    ((State.dropWrite s a i cause sub same).wave k).slotA = (s.wave k).slotA ∧
    ((State.dropWrite s a i cause sub same).wave k).slotB = (s.wave k).slotB ∧
    ((State.dropWrite s a i cause sub same).wave k).lastB = (s.wave k).lastB ∧
    ((State.dropWrite s a i cause sub same).wave k).spill = (s.wave k).spill ∧
    ((State.dropWrite s a i cause sub same).wave k).handler = (s.wave k).handler ∧
    ((State.dropWrite s a i cause sub same).wave k).xpc = (s.wave k).xpc ∧
    ((State.dropWrite s a i cause sub same).wave k).xmode = (s.wave k).xmode ∧
    ((State.dropWrite s a i cause sub same).wave k).xcause = (s.wave k).xcause ∧
    ((State.dropWrite s a i cause sub same).wave k).xlanes = (s.wave k).xlanes ∧
    ((State.dropWrite s a i cause sub same).wave k).xaddr = (s.wave k).xaddr ∧
    ((State.dropWrite s a i cause sub same).wave k).gexposed = (s.wave k).gexposed ∧
    ((State.dropWrite s a i cause sub same).wave k).mm = (s.wave k).mm ∧
    ((State.dropWrite s a i cause sub same).wave k).epoch = (s.wave k).epoch ∧
    ((State.dropWrite s a i cause sub same).wave k).tags = (s.wave k).tags ∧
    ((State.dropWrite s a i cause sub same).wave k).sfr = (s.wave k).sfr ∧
    ((State.dropWrite s a i cause sub same).wave k).arrived = (s.wave k).arrived ∧
    ((State.dropWrite s a i cause sub same).wave k).region = (s.wave k).region ∧
    ((State.dropWrite s a i cause sub same).wave k).lost = (s.wave k).lost ∧
    ((State.dropWrite s a i cause sub same).wave k).since = (s.wave k).since ∧
    ((State.dropWrite s a i cause sub same).wave k).jobs = (s.wave k).jobs ∧
    ((State.dropWrite s a i cause sub same).wave k).left = (s.wave k).left := by
  first
  | (unfold State.dropWrite; (try dsimp only); (repeat' split) <;> simp -implicitDefEqProofs (disch := (intros; first | (simp -implicitDefEqProofs [*]; done) | ((try dsimp only); (repeat' split) <;> (simp -implicitDefEqProofs (disch := (intros; (try dsimp only); (repeat' split) <;> (try (simp -implicitDefEqProofs [*]; done)))) [*]; done)) | skip)) [State.updWave_at, apply_ite Wave.block, apply_ite Wave.idx, apply_ite Wave.exited, apply_ite Wave.launchMask, apply_ite Wave.pad, apply_ite Wave.sregs, apply_ite Wave.vregs, apply_ite Wave.pregs, apply_ite Wave.slotA, apply_ite Wave.slotB, apply_ite Wave.lastB, apply_ite Wave.spill, apply_ite Wave.handler, apply_ite Wave.xpc, apply_ite Wave.xmode, apply_ite Wave.xcause, apply_ite Wave.xlanes, apply_ite Wave.xaddr, apply_ite Wave.gexposed, apply_ite Wave.mm, apply_ite Wave.epoch, apply_ite Wave.tags, apply_ite Wave.sfr, apply_ite Wave.arrived, apply_ite Wave.region, apply_ite Wave.pend, apply_ite Wave.lost, apply_ite Wave.since, apply_ite Wave.jobs, apply_ite Wave.left])
  | (unfold State.dropWrite; (try dsimp only); (repeat' split) <;> simp -implicitDefEqProofs (disch := (intros; first | (simp -implicitDefEqProofs [*]; done) | ((try dsimp only); (repeat' split) <;> (simp -implicitDefEqProofs (disch := (intros; (try dsimp only); (repeat' split) <;> (try (simp -implicitDefEqProofs [*]; done)))) [*]; done)) | skip)) [State.wave])
@[simp] theorem State.registerPiece_keeps (s : State) (a : Nat) (i : Nat) :
    (State.registerPiece s a i).blocks = s.blocks ∧
    (State.registerPiece s a i).launches = s.launches ∧
    (State.registerPiece s a i).peerMem = s.peerMem ∧
    (State.registerPiece s a i).claims = s.claims ∧
    (State.registerPiece s a i).tlb = s.tlb ∧
    (State.registerPiece s a i).net = s.net ∧
    (State.registerPiece s a i).abufs = s.abufs ∧
    (State.registerPiece s a i).jobs = s.jobs ∧
    (State.registerPiece s a i).feet = s.feet ∧
    (State.registerPiece s a i).shapes = s.shapes ∧
    (State.registerPiece s a i).eqs = s.eqs ∧
    (State.registerPiece s a i).insts = s.insts ∧
    (State.registerPiece s a i).links = s.links ∧
    (State.registerPiece s a i).hostAccs = s.hostAccs ∧
    (State.registerPiece s a i).mgmt = s.mgmt ∧
    (State.registerPiece s a i).focus = s.focus ∧
    (State.registerPiece s a i).agenda = s.agenda ∧
    (∀ k, (State.registerPiece s a i).block k = s.block k) ∧
    (∀ k, (State.registerPiece s a i).launch k = s.launch k) := by
  (unfold State.registerPiece; (try dsimp only); (repeat' split) <;> simp -implicitDefEqProofs (disch := (intros; first | (simp -implicitDefEqProofs [*]; done) | ((try dsimp only); (repeat' split) <;> (simp -implicitDefEqProofs (disch := (intros; (try dsimp only); (repeat' split) <;> (try (simp -implicitDefEqProofs [*]; done)))) [*]; done)) | skip)) [State.wave, State.block, State.launch, State.core])
@[simp] theorem State.acceptPosted_keeps (s : State) (q : Posted) :
    (State.acceptPosted s q).waves = s.waves ∧
    (State.acceptPosted s q).blocks = s.blocks ∧
    (State.acceptPosted s q).launches = s.launches ∧
    (State.acceptPosted s q).cores = s.cores ∧
    (State.acceptPosted s q).mem = s.mem ∧
    (State.acceptPosted s q).array = s.array ∧
    (State.acceptPosted s q).hostMem = s.hostMem ∧
    (State.acceptPosted s q).registrant = s.registrant ∧
    (State.acceptPosted s q).claims = s.claims ∧
    (State.acceptPosted s q).cells = s.cells ∧
    (State.acceptPosted s q).regions = s.regions ∧
    (State.acceptPosted s q).rdc = s.rdc ∧
    (State.acceptPosted s q).l2 = s.l2 ∧
    (State.acceptPosted s q).msc = s.msc ∧
    (State.acceptPosted s q).hbms = s.hbms ∧
    (State.acceptPosted s q).bad = s.bad ∧
    (State.acceptPosted s q).weak = s.weak ∧
    (State.acceptPosted s q).lost = s.lost ∧
    (State.acceptPosted s q).tlb = s.tlb ∧
    (State.acceptPosted s q).accs = s.accs ∧
    (State.acceptPosted s q).net = s.net ∧
    (State.acceptPosted s q).abufs = s.abufs ∧
    (State.acceptPosted s q).jobs = s.jobs ∧
    (State.acceptPosted s q).feet = s.feet ∧
    (State.acceptPosted s q).shapes = s.shapes ∧
    (State.acceptPosted s q).eqs = s.eqs ∧
    (State.acceptPosted s q).insts = s.insts ∧
    (State.acceptPosted s q).links = s.links ∧
    (State.acceptPosted s q).hostAccs = s.hostAccs ∧
    (State.acceptPosted s q).hostLines = s.hostLines ∧
    (State.acceptPosted s q).mgmt = s.mgmt ∧
    (State.acceptPosted s q).focus = s.focus ∧
    (State.acceptPosted s q).agenda = s.agenda ∧
    (State.acceptPosted s q).seq = s.seq ∧
    (∀ k, (State.acceptPosted s q).wave k = s.wave k) ∧
    (∀ k, (State.acceptPosted s q).block k = s.block k) ∧
    (∀ k, (State.acceptPosted s q).launch k = s.launch k) ∧
    (∀ k, (State.acceptPosted s q).core k = s.core k) := by
  (unfold State.acceptPosted; (try dsimp only); (repeat' split) <;> simp -implicitDefEqProofs (disch := (intros; first | (simp -implicitDefEqProofs [*]; done) | ((try dsimp only); (repeat' split) <;> (simp -implicitDefEqProofs (disch := (intros; (try dsimp only); (repeat' split) <;> (try (simp -implicitDefEqProofs [*]; done)))) [*]; done)) | skip)) [State.wave, State.block, State.launch, State.core])
@[simp] theorem State.moveLine_keeps (s : State) (line : Nat) :
    (State.moveLine s line).waves = s.waves ∧
    (State.moveLine s line).blocks = s.blocks ∧
    (State.moveLine s line).launches = s.launches ∧
    (State.moveLine s line).cores = s.cores ∧
    (State.moveLine s line).mem = s.mem ∧
    (State.moveLine s line).array = s.array ∧
    (State.moveLine s line).hostMem = s.hostMem ∧
    (State.moveLine s line).peerMem = s.peerMem ∧
    (State.moveLine s line).registrant = s.registrant ∧
    (State.moveLine s line).cells = s.cells ∧
    (State.moveLine s line).regions = s.regions ∧
    (State.moveLine s line).rdc = s.rdc ∧
    (State.moveLine s line).l2 = s.l2 ∧
    (State.moveLine s line).msc = s.msc ∧
    (State.moveLine s line).hbms = s.hbms ∧
    (State.moveLine s line).bad = s.bad ∧
    (State.moveLine s line).weak = s.weak ∧
    (State.moveLine s line).lost = s.lost ∧
    (State.moveLine s line).tlb = s.tlb ∧
    (State.moveLine s line).accs = s.accs ∧
    (State.moveLine s line).net = s.net ∧
    (State.moveLine s line).abufs = s.abufs ∧
    (State.moveLine s line).jobs = s.jobs ∧
    (State.moveLine s line).feet = s.feet ∧
    (State.moveLine s line).shapes = s.shapes ∧
    (State.moveLine s line).eqs = s.eqs ∧
    (State.moveLine s line).insts = s.insts ∧
    (State.moveLine s line).links = s.links ∧
    (State.moveLine s line).hostAccs = s.hostAccs ∧
    (State.moveLine s line).hostLines = s.hostLines ∧
    (State.moveLine s line).mgmt = s.mgmt ∧
    (State.moveLine s line).focus = s.focus ∧
    (State.moveLine s line).agenda = s.agenda ∧
    (State.moveLine s line).seq = s.seq ∧
    (∀ k, (State.moveLine s line).wave k = s.wave k) ∧
    (∀ k, (State.moveLine s line).block k = s.block k) ∧
    (∀ k, (State.moveLine s line).launch k = s.launch k) ∧
    (∀ k, (State.moveLine s line).core k = s.core k) := by
  (unfold State.moveLine; (try dsimp only); (repeat' split) <;> simp -implicitDefEqProofs (disch := (intros; first | (simp -implicitDefEqProofs [*]; done) | ((try dsimp only); (repeat' split) <;> (simp -implicitDefEqProofs (disch := (intros; (try dsimp only); (repeat' split) <;> (try (simp -implicitDefEqProofs [*]; done)))) [*]; done)) | skip)) [State.wave, State.block, State.launch, State.core])
@[simp] theorem State.setClass_keeps (s : State) (c : Nat) (va : DWord) (cls : Nat) (own : Nat) :
    (State.setClass s c va cls own).waves = s.waves ∧
    (State.setClass s c va cls own).blocks = s.blocks ∧
    (State.setClass s c va cls own).launches = s.launches ∧
    (State.setClass s c va cls own).hostMem = s.hostMem ∧
    (State.setClass s c va cls own).peerMem = s.peerMem ∧
    (State.setClass s c va cls own).claims = s.claims ∧
    (State.setClass s c va cls own).regions = s.regions ∧
    (State.setClass s c va cls own).accs = s.accs ∧
    (State.setClass s c va cls own).net = s.net ∧
    (State.setClass s c va cls own).abufs = s.abufs ∧
    (State.setClass s c va cls own).jobs = s.jobs ∧
    (State.setClass s c va cls own).feet = s.feet ∧
    (State.setClass s c va cls own).shapes = s.shapes ∧
    (State.setClass s c va cls own).eqs = s.eqs ∧
    (State.setClass s c va cls own).insts = s.insts ∧
    (State.setClass s c va cls own).links = s.links ∧
    (State.setClass s c va cls own).hostAccs = s.hostAccs ∧
    (State.setClass s c va cls own).mgmt = s.mgmt ∧
    (State.setClass s c va cls own).focus = s.focus ∧
    (State.setClass s c va cls own).agenda = s.agenda ∧
    (∀ k, (State.setClass s c va cls own).wave k = s.wave k) ∧
    (∀ k, (State.setClass s c va cls own).block k = s.block k) ∧
    (∀ k, (State.setClass s c va cls own).launch k = s.launch k) := by
  (unfold State.setClass; (try dsimp only); (repeat' split) <;> simp -implicitDefEqProofs (disch := (intros; first | (simp -implicitDefEqProofs [*]; done) | ((try dsimp only); (repeat' split) <;> (simp -implicitDefEqProofs (disch := (intros; (try dsimp only); (repeat' split) <;> (try (simp -implicitDefEqProofs [*]; done)))) [*]; done)) | skip)) [State.wave, State.block, State.launch, State.core])
@[simp] theorem State.bufDone_keeps (s : State) (id : Nat) :
    (State.bufDone s id).waves = s.waves ∧
    (State.bufDone s id).blocks = s.blocks ∧
    (State.bufDone s id).launches = s.launches ∧
    (State.bufDone s id).cores = s.cores ∧
    (State.bufDone s id).mem = s.mem ∧
    (State.bufDone s id).array = s.array ∧
    (State.bufDone s id).hostMem = s.hostMem ∧
    (State.bufDone s id).peerMem = s.peerMem ∧
    (State.bufDone s id).registrant = s.registrant ∧
    (State.bufDone s id).claims = s.claims ∧
    (State.bufDone s id).cells = s.cells ∧
    (State.bufDone s id).regions = s.regions ∧
    (State.bufDone s id).rdc = s.rdc ∧
    (State.bufDone s id).l2 = s.l2 ∧
    (State.bufDone s id).msc = s.msc ∧
    (State.bufDone s id).hbms = s.hbms ∧
    (State.bufDone s id).bad = s.bad ∧
    (State.bufDone s id).weak = s.weak ∧
    (State.bufDone s id).lost = s.lost ∧
    (State.bufDone s id).tlb = s.tlb ∧
    (State.bufDone s id).accs = s.accs ∧
    (State.bufDone s id).net = s.net ∧
    (State.bufDone s id).jobs = s.jobs ∧
    (State.bufDone s id).feet = s.feet ∧
    (State.bufDone s id).shapes = s.shapes ∧
    (State.bufDone s id).eqs = s.eqs ∧
    (State.bufDone s id).insts = s.insts ∧
    (State.bufDone s id).links = s.links ∧
    (State.bufDone s id).hostAccs = s.hostAccs ∧
    (State.bufDone s id).hostLines = s.hostLines ∧
    (State.bufDone s id).mgmt = s.mgmt ∧
    (State.bufDone s id).focus = s.focus ∧
    (State.bufDone s id).agenda = s.agenda ∧
    (State.bufDone s id).seq = s.seq ∧
    (∀ k, (State.bufDone s id).wave k = s.wave k) ∧
    (∀ k, (State.bufDone s id).block k = s.block k) ∧
    (∀ k, (State.bufDone s id).launch k = s.launch k) ∧
    (∀ k, (State.bufDone s id).core k = s.core k) ∧
    (∀ k, (State.bufDone s id).acc k = s.acc k) ∧
    (∀ k, (State.bufDone s id).job k = s.job k) := by
  refine ⟨rfl, rfl, rfl, rfl, rfl, rfl, rfl, rfl, rfl, rfl, rfl, rfl, rfl, rfl, rfl, rfl, rfl, rfl, rfl, rfl, rfl, rfl, rfl, rfl, rfl, rfl, rfl, rfl, rfl, rfl, rfl, rfl, rfl, rfl, fun _ => rfl, fun _ => rfl, fun _ => rfl, fun _ => rfl, fun _ => rfl, fun _ => rfl⟩
@[simp] theorem State.parkPiece_keeps (s : State) (a i : Nat) :
    (State.parkPiece s a i).waves = s.waves ∧
    (State.parkPiece s a i).blocks = s.blocks ∧
    (State.parkPiece s a i).launches = s.launches ∧
    (State.parkPiece s a i).cores = s.cores ∧
    (State.parkPiece s a i).mem = s.mem ∧
    (State.parkPiece s a i).array = s.array ∧
    (State.parkPiece s a i).hostMem = s.hostMem ∧
    (State.parkPiece s a i).peerMem = s.peerMem ∧
    (State.parkPiece s a i).registrant = s.registrant ∧
    (State.parkPiece s a i).claims = s.claims ∧
    (State.parkPiece s a i).cells = s.cells ∧
    (State.parkPiece s a i).regions = s.regions ∧
    (State.parkPiece s a i).rdc = s.rdc ∧
    (State.parkPiece s a i).l2 = s.l2 ∧
    (State.parkPiece s a i).msc = s.msc ∧
    (State.parkPiece s a i).hbms = s.hbms ∧
    (State.parkPiece s a i).bad = s.bad ∧
    (State.parkPiece s a i).weak = s.weak ∧
    (State.parkPiece s a i).lost = s.lost ∧
    (State.parkPiece s a i).tlb = s.tlb ∧
    (State.parkPiece s a i).accs = s.accs ∧
    (State.parkPiece s a i).abufs = s.abufs ∧
    (State.parkPiece s a i).jobs = s.jobs ∧
    (State.parkPiece s a i).feet = s.feet ∧
    (State.parkPiece s a i).shapes = s.shapes ∧
    (State.parkPiece s a i).eqs = s.eqs ∧
    (State.parkPiece s a i).insts = s.insts ∧
    (State.parkPiece s a i).links = s.links ∧
    (State.parkPiece s a i).hostAccs = s.hostAccs ∧
    (State.parkPiece s a i).hostLines = s.hostLines ∧
    (State.parkPiece s a i).mgmt = s.mgmt ∧
    (State.parkPiece s a i).focus = s.focus ∧
    (State.parkPiece s a i).agenda = s.agenda ∧
    (State.parkPiece s a i).seq = s.seq ∧
    (∀ k, (State.parkPiece s a i).wave k = s.wave k) ∧
    (∀ k, (State.parkPiece s a i).block k = s.block k) ∧
    (∀ k, (State.parkPiece s a i).launch k = s.launch k) ∧
    (∀ k, (State.parkPiece s a i).core k = s.core k) ∧
    (∀ k, (State.parkPiece s a i).acc k = s.acc k) ∧
    (∀ k, (State.parkPiece s a i).job k = s.job k) := by
  refine ⟨rfl, rfl, rfl, rfl, rfl, rfl, rfl, rfl, rfl, rfl, rfl, rfl, rfl, rfl, rfl, rfl, rfl, rfl, rfl, rfl, rfl, rfl, rfl, rfl, rfl, rfl, rfl, rfl, rfl, rfl, rfl, rfl, rfl, rfl, fun _ => rfl, fun _ => rfl, fun _ => rfl, fun _ => rfl, fun _ => rfl, fun _ => rfl⟩
@[simp] theorem State.dropPosted_keeps (s : State) (q : Posted) :
    (State.dropPosted s q).blocks = s.blocks ∧
    (State.dropPosted s q).launches = s.launches ∧
    (State.dropPosted s q).cores = s.cores ∧
    (State.dropPosted s q).mem = s.mem ∧
    (State.dropPosted s q).array = s.array ∧
    (State.dropPosted s q).hostMem = s.hostMem ∧
    (State.dropPosted s q).peerMem = s.peerMem ∧
    (State.dropPosted s q).registrant = s.registrant ∧
    (State.dropPosted s q).claims = s.claims ∧
    (State.dropPosted s q).cells = s.cells ∧
    (State.dropPosted s q).regions = s.regions ∧
    (State.dropPosted s q).rdc = s.rdc ∧
    (State.dropPosted s q).l2 = s.l2 ∧
    (State.dropPosted s q).msc = s.msc ∧
    (State.dropPosted s q).hbms = s.hbms ∧
    (State.dropPosted s q).bad = s.bad ∧
    (State.dropPosted s q).weak = s.weak ∧
    (State.dropPosted s q).lost = s.lost ∧
    (State.dropPosted s q).tlb = s.tlb ∧
    (State.dropPosted s q).net = s.net ∧
    (State.dropPosted s q).jobs = s.jobs ∧
    (State.dropPosted s q).feet = s.feet ∧
    (State.dropPosted s q).shapes = s.shapes ∧
    (State.dropPosted s q).eqs = s.eqs ∧
    (State.dropPosted s q).insts = s.insts ∧
    (State.dropPosted s q).links = s.links ∧
    (State.dropPosted s q).hostAccs = s.hostAccs ∧
    (State.dropPosted s q).hostLines = s.hostLines ∧
    (State.dropPosted s q).mgmt = s.mgmt ∧
    (State.dropPosted s q).focus = s.focus ∧
    (State.dropPosted s q).agenda = s.agenda ∧
    (State.dropPosted s q).seq = s.seq ∧
    (∀ k, (State.dropPosted s q).block k = s.block k) ∧
    (∀ k, (State.dropPosted s q).launch k = s.launch k) ∧
    (∀ k, (State.dropPosted s q).core k = s.core k) := by
  (unfold State.dropPosted; (try dsimp only); (repeat' split) <;> simp -implicitDefEqProofs (disch := (intros; first | (simp -implicitDefEqProofs [*]; done) | ((try dsimp only); (repeat' split) <;> (simp -implicitDefEqProofs (disch := (intros; (try dsimp only); (repeat' split) <;> (try (simp -implicitDefEqProofs [*]; done)))) [*]; done)) | skip)) [State.wave, State.block, State.launch, State.core])
@[simp] theorem State.dropPosted_keepsW (s : State) (q : Posted) (k : Nat) :
    ((State.dropPosted s q).wave k).block = (s.wave k).block ∧
    ((State.dropPosted s q).wave k).idx = (s.wave k).idx ∧
    ((State.dropPosted s q).wave k).exited = (s.wave k).exited ∧
    ((State.dropPosted s q).wave k).launchMask = (s.wave k).launchMask ∧
    ((State.dropPosted s q).wave k).pad = (s.wave k).pad ∧
    ((State.dropPosted s q).wave k).sregs = (s.wave k).sregs ∧
    ((State.dropPosted s q).wave k).vregs = (s.wave k).vregs ∧
    ((State.dropPosted s q).wave k).pregs = (s.wave k).pregs ∧
    ((State.dropPosted s q).wave k).slotA = (s.wave k).slotA ∧
    ((State.dropPosted s q).wave k).slotB = (s.wave k).slotB ∧
    ((State.dropPosted s q).wave k).lastB = (s.wave k).lastB ∧
    ((State.dropPosted s q).wave k).spill = (s.wave k).spill ∧
    ((State.dropPosted s q).wave k).handler = (s.wave k).handler ∧
    ((State.dropPosted s q).wave k).xpc = (s.wave k).xpc ∧
    ((State.dropPosted s q).wave k).xmode = (s.wave k).xmode ∧
    ((State.dropPosted s q).wave k).xcause = (s.wave k).xcause ∧
    ((State.dropPosted s q).wave k).xlanes = (s.wave k).xlanes ∧
    ((State.dropPosted s q).wave k).xaddr = (s.wave k).xaddr ∧
    ((State.dropPosted s q).wave k).gexposed = (s.wave k).gexposed ∧
    ((State.dropPosted s q).wave k).mm = (s.wave k).mm ∧
    ((State.dropPosted s q).wave k).epoch = (s.wave k).epoch ∧
    ((State.dropPosted s q).wave k).tags = (s.wave k).tags ∧
    ((State.dropPosted s q).wave k).sfr = (s.wave k).sfr ∧
    ((State.dropPosted s q).wave k).arrived = (s.wave k).arrived ∧
    ((State.dropPosted s q).wave k).region = (s.wave k).region ∧
    ((State.dropPosted s q).wave k).pend = (s.wave k).pend ∧
    ((State.dropPosted s q).wave k).since = (s.wave k).since ∧
    ((State.dropPosted s q).wave k).jobs = (s.wave k).jobs ∧
    ((State.dropPosted s q).wave k).left = (s.wave k).left := by
  first
  | (unfold State.dropPosted; (try dsimp only); (repeat' split) <;> simp -implicitDefEqProofs (disch := (intros; first | (simp -implicitDefEqProofs [*]; done) | ((try dsimp only); (repeat' split) <;> (simp -implicitDefEqProofs (disch := (intros; (try dsimp only); (repeat' split) <;> (try (simp -implicitDefEqProofs [*]; done)))) [*]; done)) | skip)) [State.updWave_at, apply_ite Wave.block, apply_ite Wave.idx, apply_ite Wave.exited, apply_ite Wave.launchMask, apply_ite Wave.pad, apply_ite Wave.sregs, apply_ite Wave.vregs, apply_ite Wave.pregs, apply_ite Wave.slotA, apply_ite Wave.slotB, apply_ite Wave.lastB, apply_ite Wave.spill, apply_ite Wave.handler, apply_ite Wave.xpc, apply_ite Wave.xmode, apply_ite Wave.xcause, apply_ite Wave.xlanes, apply_ite Wave.xaddr, apply_ite Wave.gexposed, apply_ite Wave.mm, apply_ite Wave.epoch, apply_ite Wave.tags, apply_ite Wave.sfr, apply_ite Wave.arrived, apply_ite Wave.region, apply_ite Wave.pend, apply_ite Wave.lost, apply_ite Wave.since, apply_ite Wave.jobs, apply_ite Wave.left])
  | (unfold State.dropPosted; (try dsimp only); (repeat' split) <;> simp -implicitDefEqProofs (disch := (intros; first | (simp -implicitDefEqProofs [*]; done) | ((try dsimp only); (repeat' split) <;> (simp -implicitDefEqProofs (disch := (intros; (try dsimp only); (repeat' split) <;> (try (simp -implicitDefEqProofs [*]; done)))) [*]; done)) | skip)) [State.wave])
@[simp] theorem State.checkPiece_keeps (s : State) (a : Nat) (i : Nat) :
    (State.checkPiece s a i).waves = s.waves ∧
    (State.checkPiece s a i).blocks = s.blocks ∧
    (State.checkPiece s a i).launches = s.launches ∧
    (State.checkPiece s a i).cores = s.cores ∧
    (State.checkPiece s a i).mem = s.mem ∧
    (State.checkPiece s a i).array = s.array ∧
    (State.checkPiece s a i).hostMem = s.hostMem ∧
    (State.checkPiece s a i).peerMem = s.peerMem ∧
    (State.checkPiece s a i).registrant = s.registrant ∧
    (State.checkPiece s a i).claims = s.claims ∧
    (State.checkPiece s a i).cells = s.cells ∧
    (State.checkPiece s a i).regions = s.regions ∧
    (State.checkPiece s a i).rdc = s.rdc ∧
    (State.checkPiece s a i).l2 = s.l2 ∧
    (State.checkPiece s a i).msc = s.msc ∧
    (State.checkPiece s a i).hbms = s.hbms ∧
    (State.checkPiece s a i).bad = s.bad ∧
    (State.checkPiece s a i).weak = s.weak ∧
    (State.checkPiece s a i).lost = s.lost ∧
    (State.checkPiece s a i).tlb = s.tlb ∧
    (State.checkPiece s a i).abufs = s.abufs ∧
    (State.checkPiece s a i).jobs = s.jobs ∧
    (State.checkPiece s a i).feet = s.feet ∧
    (State.checkPiece s a i).shapes = s.shapes ∧
    (State.checkPiece s a i).eqs = s.eqs ∧
    (State.checkPiece s a i).insts = s.insts ∧
    (State.checkPiece s a i).links = s.links ∧
    (State.checkPiece s a i).hostAccs = s.hostAccs ∧
    (State.checkPiece s a i).hostLines = s.hostLines ∧
    (State.checkPiece s a i).mgmt = s.mgmt ∧
    (State.checkPiece s a i).focus = s.focus ∧
    (State.checkPiece s a i).agenda = s.agenda ∧
    (∀ k, (State.checkPiece s a i).wave k = s.wave k) ∧
    (∀ k, (State.checkPiece s a i).block k = s.block k) ∧
    (∀ k, (State.checkPiece s a i).launch k = s.launch k) ∧
    (∀ k, (State.checkPiece s a i).core k = s.core k) := by
  (unfold State.checkPiece; (try dsimp only); (repeat' split) <;> simp -implicitDefEqProofs (disch := (intros; first | (simp -implicitDefEqProofs [*]; done) | ((try dsimp only); (repeat' split) <;> (simp -implicitDefEqProofs (disch := (intros; (try dsimp only); (repeat' split) <;> (try (simp -implicitDefEqProofs [*]; done)))) [*]; done)) | skip)) [State.wave, State.block, State.launch, State.core])
@[simp] theorem State.memoryRead_keeps (s : State) (p : Piece) :
    (State.memoryRead s p).waves = s.waves ∧
    (State.memoryRead s p).blocks = s.blocks ∧
    (State.memoryRead s p).launches = s.launches ∧
    (State.memoryRead s p).cores = s.cores ∧
    (State.memoryRead s p).mem = s.mem ∧
    (State.memoryRead s p).hostMem = s.hostMem ∧
    (State.memoryRead s p).peerMem = s.peerMem ∧
    (State.memoryRead s p).registrant = s.registrant ∧
    (State.memoryRead s p).claims = s.claims ∧
    (State.memoryRead s p).cells = s.cells ∧
    (State.memoryRead s p).regions = s.regions ∧
    (State.memoryRead s p).rdc = s.rdc ∧
    (State.memoryRead s p).l2 = s.l2 ∧
    (State.memoryRead s p).tlb = s.tlb ∧
    (State.memoryRead s p).accs = s.accs ∧
    (State.memoryRead s p).net = s.net ∧
    (State.memoryRead s p).abufs = s.abufs ∧
    (State.memoryRead s p).jobs = s.jobs ∧
    (State.memoryRead s p).feet = s.feet ∧
    (State.memoryRead s p).shapes = s.shapes ∧
    (State.memoryRead s p).eqs = s.eqs ∧
    (State.memoryRead s p).insts = s.insts ∧
    (State.memoryRead s p).links = s.links ∧
    (State.memoryRead s p).hostAccs = s.hostAccs ∧
    (State.memoryRead s p).hostLines = s.hostLines ∧
    (State.memoryRead s p).mgmt = s.mgmt ∧
    (State.memoryRead s p).focus = s.focus ∧
    (State.memoryRead s p).agenda = s.agenda ∧
    (∀ k, (State.memoryRead s p).wave k = s.wave k) ∧
    (∀ k, (State.memoryRead s p).block k = s.block k) ∧
    (∀ k, (State.memoryRead s p).launch k = s.launch k) ∧
    (∀ k, (State.memoryRead s p).core k = s.core k) := by
  (unfold State.memoryRead; (try dsimp only); (repeat' split) <;> simp -implicitDefEqProofs (disch := (intros; first | (simp -implicitDefEqProofs [*]; done) | ((try dsimp only); (repeat' split) <;> (simp -implicitDefEqProofs (disch := (intros; (try dsimp only); (repeat' split) <;> (try (simp -implicitDefEqProofs [*]; done)))) [*]; done)) | skip)) [State.wave, State.block, State.launch, State.core])
@[simp] theorem State.performPiece_keeps (s : State) (a : Nat) (i : Nat) :
    (State.performPiece s a i).waves = s.waves ∧
    (State.performPiece s a i).blocks = s.blocks ∧
    (State.performPiece s a i).claims = s.claims ∧
    (State.performPiece s a i).regions = s.regions ∧
    (State.performPiece s a i).tlb = s.tlb ∧
    (State.performPiece s a i).net = s.net ∧
    (State.performPiece s a i).abufs = s.abufs ∧
    (State.performPiece s a i).jobs = s.jobs ∧
    (State.performPiece s a i).feet = s.feet ∧
    (State.performPiece s a i).shapes = s.shapes ∧
    (State.performPiece s a i).eqs = s.eqs ∧
    (State.performPiece s a i).insts = s.insts ∧
    (State.performPiece s a i).hostAccs = s.hostAccs ∧
    (State.performPiece s a i).mgmt = s.mgmt ∧
    (State.performPiece s a i).focus = s.focus ∧
    (State.performPiece s a i).agenda = s.agenda ∧
    (∀ k, (State.performPiece s a i).wave k = s.wave k) ∧
    (∀ k, (State.performPiece s a i).block k = s.block k) := by
  unfold State.performPiece
  dsimp only
  generalize hs : (if ((s.acc a).pieces.getD i .zero).tgt == .device then (s.memoryRead ((s.acc a).pieces.getD i .zero)).recallRange ((s.acc a).pieces.getD i .zero).pa 4 else s) = s1
  have h1 : (s1).waves = s.waves ∧
    (s1).blocks = s.blocks ∧
    (s1).claims = s.claims ∧
    (s1).regions = s.regions ∧
    (s1).tlb = s.tlb ∧
    (s1).net = s.net ∧
    (s1).abufs = s.abufs ∧
    (s1).jobs = s.jobs ∧
    (s1).feet = s.feet ∧
    (s1).shapes = s.shapes ∧
    (s1).eqs = s.eqs ∧
    (s1).insts = s.insts ∧
    (s1).hostAccs = s.hostAccs ∧
    (s1).mgmt = s.mgmt ∧
    (s1).focus = s.focus ∧
    (s1).agenda = s.agenda ∧
    (∀ k, (s1).wave k = s.wave k) ∧
    (∀ k, (s1).block k = s.block k) := by
    subst hs
    split <;> simp
  clear hs
  generalize (s.acc a).pieces.getD i .zero = p
  split
  · cases p.tgt with
    | device => simp only []; split <;> simp [h1]
    | host => simp [State.wave, State.block]; simp [h1]
    | peer d x => simp [State.wave, State.block]; simp [h1]
  · cases p.tgt with
    | device => simp [h1]
    | host => simp [State.wave, State.block]; simp [h1]
    | peer d x => simp [State.wave, State.block]; simp [h1]
  · exact h1
@[simp] theorem State.putU_keeps (s : State) (x : Acc) (p : Piece) (o : AredOp) (sg : Bool) :
    (State.putU s x p o sg).waves = s.waves ∧
    (State.putU s x p o sg).blocks = s.blocks ∧
    (State.putU s x p o sg).claims = s.claims ∧
    (State.putU s x p o sg).regions = s.regions ∧
    (State.putU s x p o sg).net = s.net ∧
    (State.putU s x p o sg).abufs = s.abufs ∧
    (State.putU s x p o sg).jobs = s.jobs ∧
    (State.putU s x p o sg).feet = s.feet ∧
    (State.putU s x p o sg).shapes = s.shapes ∧
    (State.putU s x p o sg).eqs = s.eqs ∧
    (State.putU s x p o sg).insts = s.insts ∧
    (State.putU s x p o sg).hostAccs = s.hostAccs ∧
    (State.putU s x p o sg).mgmt = s.mgmt ∧
    (State.putU s x p o sg).focus = s.focus ∧
    (State.putU s x p o sg).agenda = s.agenda ∧
    (∀ k, (State.putU s x p o sg).wave k = s.wave k) ∧
    (∀ k, (State.putU s x p o sg).block k = s.block k) := by
  unfold State.putU; dsimp only
  generalize hs : (if s.classConflict x p then s.setClass x.ctx p.va 2 0 else s) = u
  have h : u.waves = s.waves ∧ u.blocks = s.blocks ∧ u.claims = s.claims ∧ u.regions = s.regions ∧ u.net = s.net ∧ u.abufs = s.abufs ∧ u.jobs = s.jobs ∧ u.feet = s.feet ∧ u.shapes = s.shapes ∧ u.eqs = s.eqs ∧ u.insts = s.insts ∧ u.hostAccs = s.hostAccs ∧ u.mgmt = s.mgmt ∧ u.focus = s.focus ∧ u.agenda = s.agenda := by subst hs; split <;> simp
  clear hs
  split <;> (try split) <;> simp [State.wave, State.block, h]
@[simp] theorem State.keepPiece_keeps (s : State) (a i : Nat) :
    (State.keepPiece s a i).waves = s.waves ∧
    (State.keepPiece s a i).blocks = s.blocks ∧
    (State.keepPiece s a i).claims = s.claims ∧
    (State.keepPiece s a i).regions = s.regions ∧
    (State.keepPiece s a i).net = s.net ∧
    (State.keepPiece s a i).abufs = s.abufs ∧
    (State.keepPiece s a i).jobs = s.jobs ∧
    (State.keepPiece s a i).feet = s.feet ∧
    (State.keepPiece s a i).shapes = s.shapes ∧
    (State.keepPiece s a i).eqs = s.eqs ∧
    (State.keepPiece s a i).insts = s.insts ∧
    (State.keepPiece s a i).hostAccs = s.hostAccs ∧
    (State.keepPiece s a i).mgmt = s.mgmt ∧
    (State.keepPiece s a i).focus = s.focus ∧
    (State.keepPiece s a i).agenda = s.agenda ∧
    (∀ k, (State.keepPiece s a i).wave k = s.wave k) ∧
    (∀ k, (State.keepPiece s a i).block k = s.block k) := by
  unfold State.keepPiece; dsimp only; split <;> (try split) <;> simp
@[simp] theorem State.performAll_keeps (s : State) (a : Nat) :
    (State.performAll s a).waves = s.waves ∧
    (State.performAll s a).blocks = s.blocks ∧
    (State.performAll s a).claims = s.claims ∧
    (State.performAll s a).regions = s.regions ∧
    (State.performAll s a).net = s.net ∧
    (State.performAll s a).abufs = s.abufs ∧
    (State.performAll s a).jobs = s.jobs ∧
    (State.performAll s a).feet = s.feet ∧
    (State.performAll s a).shapes = s.shapes ∧
    (State.performAll s a).eqs = s.eqs ∧
    (State.performAll s a).insts = s.insts ∧
    (State.performAll s a).hostAccs = s.hostAccs ∧
    (State.performAll s a).mgmt = s.mgmt ∧
    (State.performAll s a).focus = s.focus ∧
    (State.performAll s a).agenda = s.agenda ∧
    (∀ k, (State.performAll s a).wave k = s.wave k) ∧
    (∀ k, (State.performAll s a).block k = s.block k) := by
  (unfold State.performAll; (try dsimp only); (repeat' split) <;> simp -implicitDefEqProofs (disch := (intros; first | (simp -implicitDefEqProofs [*]; done) | ((try dsimp only); (repeat' split) <;> (simp -implicitDefEqProofs (disch := (intros; (try dsimp only); (repeat' split) <;> (try (simp -implicitDefEqProofs [*]; done)))) [*]; done)) | skip)) [State.wave, State.block, State.launch, State.core])
@[simp] theorem State.checkDraft_keeps (s : State) (a : Nat) (i : Nat) :
    (State.checkDraft s a i).waves = s.waves ∧
    (State.checkDraft s a i).blocks = s.blocks ∧
    (State.checkDraft s a i).launches = s.launches ∧
    (State.checkDraft s a i).cores = s.cores ∧
    (State.checkDraft s a i).mem = s.mem ∧
    (State.checkDraft s a i).array = s.array ∧
    (State.checkDraft s a i).hostMem = s.hostMem ∧
    (State.checkDraft s a i).peerMem = s.peerMem ∧
    (State.checkDraft s a i).registrant = s.registrant ∧
    (State.checkDraft s a i).claims = s.claims ∧
    (State.checkDraft s a i).cells = s.cells ∧
    (State.checkDraft s a i).regions = s.regions ∧
    (State.checkDraft s a i).rdc = s.rdc ∧
    (State.checkDraft s a i).l2 = s.l2 ∧
    (State.checkDraft s a i).msc = s.msc ∧
    (State.checkDraft s a i).hbms = s.hbms ∧
    (State.checkDraft s a i).bad = s.bad ∧
    (State.checkDraft s a i).weak = s.weak ∧
    (State.checkDraft s a i).lost = s.lost ∧
    (State.checkDraft s a i).tlb = s.tlb ∧
    (State.checkDraft s a i).abufs = s.abufs ∧
    (State.checkDraft s a i).jobs = s.jobs ∧
    (State.checkDraft s a i).feet = s.feet ∧
    (State.checkDraft s a i).shapes = s.shapes ∧
    (State.checkDraft s a i).eqs = s.eqs ∧
    (State.checkDraft s a i).insts = s.insts ∧
    (State.checkDraft s a i).links = s.links ∧
    (State.checkDraft s a i).hostAccs = s.hostAccs ∧
    (State.checkDraft s a i).hostLines = s.hostLines ∧
    (State.checkDraft s a i).mgmt = s.mgmt ∧
    (State.checkDraft s a i).focus = s.focus ∧
    (State.checkDraft s a i).agenda = s.agenda ∧
    (∀ k, (State.checkDraft s a i).wave k = s.wave k) ∧
    (∀ k, (State.checkDraft s a i).block k = s.block k) ∧
    (∀ k, (State.checkDraft s a i).launch k = s.launch k) ∧
    (∀ k, (State.checkDraft s a i).core k = s.core k) := by
  (unfold State.checkDraft; (try dsimp only); (repeat' split) <;> simp -implicitDefEqProofs (disch := (intros; first | (simp -implicitDefEqProofs [*]; done) | ((try dsimp only); (repeat' split) <;> (simp -implicitDefEqProofs (disch := (intros; (try dsimp only); (repeat' split) <;> (try (simp -implicitDefEqProofs [*]; done)))) [*]; done)) | skip)) [State.wave, State.block, State.launch, State.core])
@[simp] theorem State.obtainCell_keeps (s : State) (a : Nat) (i : Nat) :
    (State.obtainCell s a i).waves = s.waves ∧
    (State.obtainCell s a i).blocks = s.blocks ∧
    (State.obtainCell s a i).launches = s.launches ∧
    (State.obtainCell s a i).hostMem = s.hostMem ∧
    (State.obtainCell s a i).peerMem = s.peerMem ∧
    (State.obtainCell s a i).claims = s.claims ∧
    (State.obtainCell s a i).regions = s.regions ∧
    (State.obtainCell s a i).tlb = s.tlb ∧
    (State.obtainCell s a i).net = s.net ∧
    (State.obtainCell s a i).abufs = s.abufs ∧
    (State.obtainCell s a i).jobs = s.jobs ∧
    (State.obtainCell s a i).feet = s.feet ∧
    (State.obtainCell s a i).shapes = s.shapes ∧
    (State.obtainCell s a i).eqs = s.eqs ∧
    (State.obtainCell s a i).insts = s.insts ∧
    (State.obtainCell s a i).links = s.links ∧
    (State.obtainCell s a i).hostAccs = s.hostAccs ∧
    (State.obtainCell s a i).mgmt = s.mgmt ∧
    (State.obtainCell s a i).focus = s.focus ∧
    (State.obtainCell s a i).agenda = s.agenda ∧
    (∀ k, (State.obtainCell s a i).wave k = s.wave k) ∧
    (∀ k, (State.obtainCell s a i).block k = s.block k) ∧
    (∀ k, (State.obtainCell s a i).launch k = s.launch k) := by
  (unfold State.obtainCell; (try dsimp only); (repeat' split) <;> simp -implicitDefEqProofs (disch := (intros; first | (simp -implicitDefEqProofs [*]; done) | ((try dsimp only); (repeat' split) <;> (simp -implicitDefEqProofs (disch := (intros; (try dsimp only); (repeat' split) <;> (try (simp -implicitDefEqProofs [*]; done)))) [*]; done)) | skip)) [State.wave, State.block, State.launch, State.core])
@[simp] theorem State.commitDrafts_keeps (s : State) (a : Nat) :
    (State.commitDrafts s a).blocks = s.blocks ∧
    (State.commitDrafts s a).launches = s.launches ∧
    (State.commitDrafts s a).hostMem = s.hostMem ∧
    (State.commitDrafts s a).peerMem = s.peerMem ∧
    (State.commitDrafts s a).claims = s.claims ∧
    (State.commitDrafts s a).regions = s.regions ∧
    (State.commitDrafts s a).tlb = s.tlb ∧
    (State.commitDrafts s a).net = s.net ∧
    (State.commitDrafts s a).abufs = s.abufs ∧
    (State.commitDrafts s a).jobs = s.jobs ∧
    (State.commitDrafts s a).feet = s.feet ∧
    (State.commitDrafts s a).shapes = s.shapes ∧
    (State.commitDrafts s a).eqs = s.eqs ∧
    (State.commitDrafts s a).insts = s.insts ∧
    (State.commitDrafts s a).links = s.links ∧
    (State.commitDrafts s a).hostAccs = s.hostAccs ∧
    (State.commitDrafts s a).mgmt = s.mgmt ∧
    (State.commitDrafts s a).focus = s.focus ∧
    (State.commitDrafts s a).agenda = s.agenda ∧
    (∀ k, (State.commitDrafts s a).block k = s.block k) ∧
    (∀ k, (State.commitDrafts s a).launch k = s.launch k) := by
  (unfold State.commitDrafts; (try dsimp only); (repeat' split) <;> simp -implicitDefEqProofs (disch := (intros; first | (simp -implicitDefEqProofs [*]; done) | ((try dsimp only); (repeat' split) <;> (simp -implicitDefEqProofs (disch := (intros; (try dsimp only); (repeat' split) <;> (try (simp -implicitDefEqProofs [*]; done)))) [*]; done)) | skip)) [State.wave, State.block, State.launch, State.core])
@[simp] theorem State.commitDrafts_keepsW (s : State) (a : Nat) (k : Nat) :
    ((State.commitDrafts s a).wave k).block = (s.wave k).block ∧
    ((State.commitDrafts s a).wave k).idx = (s.wave k).idx ∧
    ((State.commitDrafts s a).wave k).exited = (s.wave k).exited ∧
    ((State.commitDrafts s a).wave k).launchMask = (s.wave k).launchMask ∧
    ((State.commitDrafts s a).wave k).pad = (s.wave k).pad ∧
    ((State.commitDrafts s a).wave k).sregs = (s.wave k).sregs ∧
    ((State.commitDrafts s a).wave k).vregs = (s.wave k).vregs ∧
    ((State.commitDrafts s a).wave k).pregs = (s.wave k).pregs ∧
    ((State.commitDrafts s a).wave k).slotA = (s.wave k).slotA ∧
    ((State.commitDrafts s a).wave k).slotB = (s.wave k).slotB ∧
    ((State.commitDrafts s a).wave k).lastB = (s.wave k).lastB ∧
    ((State.commitDrafts s a).wave k).spill = (s.wave k).spill ∧
    ((State.commitDrafts s a).wave k).handler = (s.wave k).handler ∧
    ((State.commitDrafts s a).wave k).xpc = (s.wave k).xpc ∧
    ((State.commitDrafts s a).wave k).xmode = (s.wave k).xmode ∧
    ((State.commitDrafts s a).wave k).xcause = (s.wave k).xcause ∧
    ((State.commitDrafts s a).wave k).xlanes = (s.wave k).xlanes ∧
    ((State.commitDrafts s a).wave k).xaddr = (s.wave k).xaddr ∧
    ((State.commitDrafts s a).wave k).gexposed = (s.wave k).gexposed ∧
    ((State.commitDrafts s a).wave k).mm = (s.wave k).mm ∧
    ((State.commitDrafts s a).wave k).tags = (s.wave k).tags ∧
    ((State.commitDrafts s a).wave k).sfr = (s.wave k).sfr ∧
    ((State.commitDrafts s a).wave k).arrived = (s.wave k).arrived ∧
    ((State.commitDrafts s a).wave k).region = (s.wave k).region ∧
    ((State.commitDrafts s a).wave k).pend = (s.wave k).pend ∧
    ((State.commitDrafts s a).wave k).lost = (s.wave k).lost ∧
    ((State.commitDrafts s a).wave k).since = (s.wave k).since ∧
    ((State.commitDrafts s a).wave k).jobs = (s.wave k).jobs ∧
    ((State.commitDrafts s a).wave k).left = (s.wave k).left := by
  first
  | (unfold State.commitDrafts; (try dsimp only); (repeat' split) <;> simp -implicitDefEqProofs (disch := (intros; first | (simp -implicitDefEqProofs [*]; done) | ((try dsimp only); (repeat' split) <;> (simp -implicitDefEqProofs (disch := (intros; (try dsimp only); (repeat' split) <;> (try (simp -implicitDefEqProofs [*]; done)))) [*]; done)) | skip)) [State.updWave_at, apply_ite Wave.block, apply_ite Wave.idx, apply_ite Wave.exited, apply_ite Wave.launchMask, apply_ite Wave.pad, apply_ite Wave.sregs, apply_ite Wave.vregs, apply_ite Wave.pregs, apply_ite Wave.slotA, apply_ite Wave.slotB, apply_ite Wave.lastB, apply_ite Wave.spill, apply_ite Wave.handler, apply_ite Wave.xpc, apply_ite Wave.xmode, apply_ite Wave.xcause, apply_ite Wave.xlanes, apply_ite Wave.xaddr, apply_ite Wave.gexposed, apply_ite Wave.mm, apply_ite Wave.epoch, apply_ite Wave.tags, apply_ite Wave.sfr, apply_ite Wave.arrived, apply_ite Wave.region, apply_ite Wave.pend, apply_ite Wave.lost, apply_ite Wave.since, apply_ite Wave.jobs, apply_ite Wave.left])
  | (unfold State.commitDrafts; (try dsimp only); (repeat' split) <;> simp -implicitDefEqProofs (disch := (intros; first | (simp -implicitDefEqProofs [*]; done) | ((try dsimp only); (repeat' split) <;> (simp -implicitDefEqProofs (disch := (intros; (try dsimp only); (repeat' split) <;> (try (simp -implicitDefEqProofs [*]; done)))) [*]; done)) | skip)) [State.wave])
@[simp] theorem State.answer_keeps (s : State) (a : Nat) (g : List Nat) (v : Bool) :
    (State.answer s a g v).waves = s.waves ∧
    (State.answer s a g v).blocks = s.blocks ∧
    (State.answer s a g v).launches = s.launches ∧
    (State.answer s a g v).cores = s.cores ∧
    (State.answer s a g v).mem = s.mem ∧
    (State.answer s a g v).array = s.array ∧
    (State.answer s a g v).hostMem = s.hostMem ∧
    (State.answer s a g v).peerMem = s.peerMem ∧
    (State.answer s a g v).registrant = s.registrant ∧
    (State.answer s a g v).claims = s.claims ∧
    (State.answer s a g v).cells = s.cells ∧
    (State.answer s a g v).regions = s.regions ∧
    (State.answer s a g v).rdc = s.rdc ∧
    (State.answer s a g v).l2 = s.l2 ∧
    (State.answer s a g v).msc = s.msc ∧
    (State.answer s a g v).hbms = s.hbms ∧
    (State.answer s a g v).bad = s.bad ∧
    (State.answer s a g v).weak = s.weak ∧
    (State.answer s a g v).lost = s.lost ∧
    (State.answer s a g v).tlb = s.tlb ∧
    (State.answer s a g v).abufs = s.abufs ∧
    (State.answer s a g v).jobs = s.jobs ∧
    (State.answer s a g v).feet = s.feet ∧
    (State.answer s a g v).shapes = s.shapes ∧
    (State.answer s a g v).eqs = s.eqs ∧
    (State.answer s a g v).insts = s.insts ∧
    (State.answer s a g v).links = s.links ∧
    (State.answer s a g v).hostAccs = s.hostAccs ∧
    (State.answer s a g v).hostLines = s.hostLines ∧
    (State.answer s a g v).mgmt = s.mgmt ∧
    (State.answer s a g v).focus = s.focus ∧
    (State.answer s a g v).agenda = s.agenda ∧
    (State.answer s a g v).seq = s.seq ∧
    (∀ k, (State.answer s a g v).wave k = s.wave k) ∧
    (∀ k, (State.answer s a g v).block k = s.block k) ∧
    (∀ k, (State.answer s a g v).launch k = s.launch k) ∧
    (∀ k, (State.answer s a g v).core k = s.core k) := by
  (unfold State.answer; (try dsimp only); (repeat' split) <;> simp -implicitDefEqProofs (disch := (intros; first | (simp -implicitDefEqProofs [*]; done) | ((try dsimp only); (repeat' split) <;> (simp -implicitDefEqProofs (disch := (intros; (try dsimp only); (repeat' split) <;> (try (simp -implicitDefEqProofs [*]; done)))) [*]; done)) | skip)) [State.wave, State.block, State.launch, State.core])
end Sys2Proof.Machine
end

