-- ==== Sys2Proof/Laws/Send.lean ====
section
/-! SUPPORT. Issuing an access sends it and changes nothing else (spec/09_ordering.md R104, spec/05_execution.md R72). -/

set_option linter.unusedSimpArgs false

namespace Sys2Proof.Machine

open Sys2Proof

/-- Two states differ in accesses, messages, look-ups and counters alone: an access has been issued. -/
structure Sent (s t : State) : Prop where
  focus : t.focus = s.focus
  waves : t.waves = s.waves
  mem : t.mem = s.mem
  cells : t.cells = s.cells
  host : t.hostMem = s.hostMem
  peer : t.peerMem = s.peerMem
  launches : t.launches = s.launches
  dev : keepsDevice s t
  blocks : ∀ b, t.block b = { s.block b with flights := (t.block b).flights }

/-- Nothing changes from a state to itself. -/
theorem Sent.rfl {s : State} : Sent s s := ⟨by simp, by simp, by simp, by simp, by simp, by simp, by simp, by simp [keepsDevice], by simp⟩
/-- Steps that only send compose. -/
theorem Sent.trans {s u t : State} (a : Sent s u) (b : Sent u t) : Sent s t :=
  ⟨b.focus.trans a.focus, b.waves.trans a.waves, b.mem.trans a.mem, b.cells.trans a.cells, b.host.trans a.host, b.peer.trans a.peer, b.launches.trans a.launches, keepsDevice_trans a.dev b.dev, fun k => by rw [b.blocks k, a.blocks k]⟩
/-- The frame of sending from equal fields. -/
theorem sent_of {s t : State} (h1 : t.focus = s.focus) (h2 : t.waves = s.waves) (h3 : t.mem = s.mem) (h4 : t.cells = s.cells) (h5 : t.hostMem = s.hostMem) (h6 : t.peerMem = s.peerMem) (h7 : t.launches = s.launches) (h8 : keepsDevice s t) (h9 : t.blocks = s.blocks) : Sent s t :=
  ⟨h1, h2, h3, h4, h5, h6, h7, h8, fun b => by simp [State.block, h9]⟩
/-- Keeping an access only sends. -/
theorem sent_setAcc (s : State) (a x) : Sent s (s.setAcc a x) := sent_of (by simp) (by simp) (by simp) (by simp) (by simp) (by simp) (by simp) (by simp [keepsDevice]) (by simp)
/-- Changing an access only sends. -/
theorem sent_updAcc (s : State) (a f) : Sent s (s.updAcc a f) := sent_of (by simp) (by simp) (by simp) (by simp) (by simp) (by simp) (by simp) (by simp [keepsDevice]) (by simp)
/-- Counting only sends. -/
theorem sent_tick (s : State) : Sent s s.tick := sent_of (by simp) (by simp) (by simp) (by simp) (by simp) (by simp) (by simp) (by simp [keepsDevice]) (by simp)
/-- TLB look-ups only send. -/
theorem sent_lookups (s : State) (l) : Sent s (s.lookups l) := sent_of (by simp) (by simp) (by simp) (by simp) (by simp) (by simp) (by simp) (by simp [keepsDevice]) (by simp)
/-- A message only sends. -/
theorem sent_send (s : State) (c h b) : Sent s (s.send c h b) := sent_of (by simp) (by simp) (by simp) (by simp) (by simp) (by simp) (by simp) (by simp [keepsDevice]) (by simp)
/-- Sending pieces only sends. -/
theorem sent_sendPieces (s : State) (a) : Sent s (s.sendPieces a) := sent_of (by simp) (by simp) (by simp) (by simp) (by simp) (by simp) (by simp) (by simp [keepsDevice]) (by simp)
/-- A counter that rises only sends. -/
theorem sent_flight (s : State) (b p i d) : Sent s (s.flight b p i d) := by
  refine ⟨by simp, by simp, by simp, by simp, by simp, by simp, by simp, by simp [keepsDevice], fun k => ?_⟩
  unfold State.flight; rw [State.updBlock_at]; split <;> simp
/-- An access that enters its table, rises its counter and looks its pages up only sends. -/
theorem sent_enter (s : State) (a : Nat) (y : Acc) (vs : List DWord) : Sent s (((match y.kind.path with
    | some p => ((s.setAcc a y).tick).flight y.block p a false
    | none => (s.setAcc a y).tick) : State).lookups vs) := by
  refine Sent.trans ?_ (sent_lookups _ _)
  split
  · exact ((sent_setAcc _ _ _).trans (sent_tick _)).trans (sent_flight _ _ _ _ _)
  · exact (sent_setAcc _ _ _).trans (sent_tick _)

/-- Either way only sends. -/
theorem sent_ite {s a b : State} {c : Prop} [Decidable c] (ha : Sent s a) (hb : Sent s b) : Sent s (if c then a else b) := by
  split
  · exact ha
  · exact hb

/-- Issuing an access only sends. -/
theorem sent_issueAcc (s : State) (x : Acc) : Sent s (s.issueAcc x) := by
  unfold State.issueAcc
  extract_lets a x1 x2 s1 s2 s3
  have h : Sent s s3 := sent_enter s a x2 _
  exact sent_ite (h.trans ((sent_send _ _ _ _).trans (sent_updAcc _ _ _))) (h.trans (sent_sendPieces _ _))

/-- What only sends keeps the rest. -/
theorem Sent.rest {s t : State} (h : Sent s t) : keepsRest s t := by
  refine ⟨fun w => by simp [State.wave, h.waves], keepsMemory_of h.mem h.cells h.host h.peer (fun b => by rw [h.blocks]), fun b => by rw [h.blocks]; simp, h.dev, fun l => by simp [State.launch, h.launches]⟩
/-- What only sends keeps registers. -/
theorem Sent.regs {s t : State} (h : Sent s t) (ks kv kp) : keepsRegs s t ks kv kp := keepsRegs_of _ _ _ (fun w => by simp [State.wave, h.waves])
/-- What only sends keeps the issuing slot. -/
theorem Sent.fs {s t : State} (h : Sent s t) : t.fs = s.fs := by simp [State.fs, State.fw, State.wave, h.waves, h.focus]
/-- What only sends keeps the issuing wave. -/
theorem Sent.fw {s t : State} (h : Sent s t) : t.fw = s.fw := by simp [State.fw, State.wave, h.waves, h.focus]

end Sys2Proof.Machine
end

