-- ==== Sys2Proof/Tests/Slice0.lean ====
section
/-! SUPPORT. The tests of this slice: terms that are not well formed, words written out from the encoding tables of spec/03_encoding.md, steps on a small state, and for every statement of the certificates a concrete case that meets its hypotheses. The values expected come from the rules and from the worked examples of spec/. -/

set_option maxRecDepth 20000

namespace Sys2Proof.Tests

set_option Elab.async false

open Sys2Proof Sys2Proof.Machine Sys2Proof.Claims

/-! ## Terms that no unit of words holds (R28, R31, R37, R46, R47, R276, R289, R291) -/

theorem test_wf_refuses_mtsr_of_a_register_that_is_only_read : Instr.wf (.mtsr false .wave 1) = false := by decide
theorem test_wf_refuses_setmode_value_too_wide : Instr.wf (.setmodeF false .sat (.short 2)) = false := by decide
theorem test_wf_refuses_setmode_value_reserved : Instr.wf (.setmodeF false .et (.short 13)) = false := by decide
theorem test_wf_refuses_ld_d_odd_register : Instr.wf (.ldD false 5 1 0 7) = false := by decide
theorem test_wf_refuses_ld_q_register_not_a_multiple_of_4 : Instr.wf (.ldQ false 6 1 0 7) = false := by decide
theorem test_wf_refuses_lds_odd_pair : Instr.wf (.lds false 3 1 .d) = false := by decide
theorem test_wf_refuses_st_odd_pair : Instr.wf (.st false 3 1 2 .d) = false := by decide
theorem test_wf_refuses_sts_quad_not_a_multiple_of_4 : Instr.wf (.sts false 2 1 .q) = false := by decide
theorem test_wf_refuses_strc_odd_pair : Instr.wf (.strc false 3 1 2 .d 4) = false := by decide
theorem test_wf_refuses_strc_of_no_reader : Instr.wf (.strc false 4 1 2 .w 0) = false := by decide
theorem test_wf_refuses_draft_d_odd_pair : Instr.wf (.draftD false 3 1 2 1) = false := by decide
theorem test_wf_refuses_aadd_odd_address : Instr.wf (.aadd false 4 3 5 none) = false := by decide
theorem test_wf_refuses_amin_odd_address : Instr.wf (.amin false 4 3 5 none) = false := by decide
theorem test_wf_refuses_amax_odd_address : Instr.wf (.amax false 4 3 5 none) = false := by decide
theorem test_wf_refuses_aand_odd_address : Instr.wf (.aand false 4 3 5 none) = false := by decide
theorem test_wf_refuses_aor_odd_address : Instr.wf (.aor false 4 3 5 none) = false := by decide
theorem test_wf_refuses_axor_odd_address : Instr.wf (.axor false 4 3 5 none) = false := by decide
theorem test_wf_refuses_axchg_odd_address : Instr.wf (.axchg false 4 3 5 none) = false := by decide
theorem test_wf_refuses_afadd_odd_address : Instr.wf (.afadd false 4 3 5 none) = false := by decide
theorem test_wf_refuses_acas_odd_address : Instr.wf (.acas false 6 3 4 8 ⟨.d, .ar⟩) = false := by decide
theorem test_wf_refuses_ared_odd_address : Instr.wf (.ared false .add 3 4 none) = false := by decide
theorem test_wf_refuses_ared_acquire : Instr.wf (.ared false .add 2 4 (some ⟨.d, .acq⟩)) = false := by decide
theorem test_wf_refuses_accld_register_not_a_multiple_of_4 : Instr.wf (.accld false 6 1 2) = false := by decide
theorem test_wf_refuses_eqpush_odd_pair : Instr.wf (.eqpush false 1 3) = false := by decide
theorem test_wf_refuses_event_has_no_words : Instr.wf (.staticCharge 0) = false := by decide

/-! ## Decoding: a word of every constructor, written out from its encoding -/

/-- Words of the scalar majors (R38, R40). -/
theorem test_decode_scalar_1 :
    decodeUnit 0x00000000 0 0 = .ok (.nop false, 1) ∧
    decodeUnit 0x01120E35 0 0 = .ok (.sadd false 0x12 0xE 0x35, 1) ∧
    decodeUnit 0x81321B6C 0 0 = .ok (.ssub true 0x32 0x1B 0x2C, 1) ∧
    decodeUnit 0x01270595 0 0 = .ok (.smul false 0x27 0x5 0x15, 1) ∧
    decodeUnit 0x013632D9 0 0 = .ok (.smulh false 0x36 0x32 0x19, 1) ∧
    decodeUnit 0x81563FD0 0 0 = .ok (.smulhU true 0x16 0x3F 0x10, 1) ∧
    decodeUnit 0x010B6939 0 0 = .ok (.sdiv false 0xB 0x29 0x39, 1) ∧
    decodeUnit 0x015A563D 0 0 = .ok (.sdivU false 0x1A 0x16 0x3D, 1) ∧
    decodeUnit 0x813A6374 0 0 = .ok (.srem true 0x3A 0x23 0x34, 1) ∧
    decodeUnit 0x016F4D5D 0 0 = .ok (.sremU false 0x2F 0xD 0x1D, 1) ∧
    decodeUnit 0x013E7AA1 0 0 = .ok (.sand false 0x3E 0x3A 0x21, 1) ∧
    decodeUnit 0x811E47D8 0 0 = .ok (.sor true 0x1E 0x7 0x18, 1) ∧
    decodeUnit 0x0113B101 0 0 = .ok (.sxor false 0x13 0x31 0x1, 1) ∧
    decodeUnit 0x01229E45 0 0 = .ok (.sshl false 0x22 0x1E 0x5, 1) ∧
    decodeUnit 0x8102ABBC 0 0 = .ok (.sshr true 0x2 0x2B 0x3C, 1) ∧
    decodeUnit 0x013795E5 0 0 = .ok (.ssra false 0x37 0x15 0x25, 1) ∧
    decodeUnit 0x0106C229 0 0 = .ok (.smin false 0x6 0x2 0x29, 1) ∧
    decodeUnit 0x8166CF20 0 0 = .ok (.sminU true 0x26 0xF 0x20, 1) ∧
    decodeUnit 0x011BF949 0 0 = .ok (.smax false 0x1B 0x39 0x9, 1) ∧
    decodeUnit 0x016AE64D 0 0 = .ok (.smaxU false 0x2A 0x26 0xD, 1) :=
  ⟨rfl, rfl, rfl, rfl, rfl, rfl, rfl, rfl, rfl, rfl, rfl, rfl, rfl, rfl, rfl, rfl, rfl, rfl, rfl, rfl⟩

/-- Words of the scalar majors (R38, R40). -/
theorem test_decode_scalar_2 :
    decodeUnit 0x810AF380 0 0 = .ok (.sclz true 0xA 0x33, 1) ∧
    decodeUnit 0x8135FFC0 0 0 = .ok (.spopc true 0x35 0x3F, 1) ∧
    decodeUnit 0x822D39D7 0 0 = .ok (.saddImm true 0x2D 0x39 (.short 0xD7), 1) ∧
    decodeUnit 0x02316DDB 0 0 = .ok (.ssubImm false 0x31 0x2D (.short 0xDB), 1) ∧
    decodeUnit 0x022899DF 0 0 = .ok (.smulImm false 0x28 0x19 (.short 0xDF), 1) ∧
    decodeUnit 0x8211DDE3 0 0 = .ok (.smulhImm true 0x11 0x1D (.short 0xE3), 1) ∧
    decodeUnit 0x025511E7 0 0 = .ok (.sdivImm false 0x15 0x11 (.short 0xE7), 1) ∧
    decodeUnit 0x024C7DEB 0 0 = .ok (.sremImm false 0xC 0x3D (.short 0xEB), 1) ∧
    decodeUnit 0x827581EF 0 0 = .ok (.sandImm true 0x35 0x1 (.short 0xEF), 1) ∧
    decodeUnit 0x0279F583 0 0 = .ok (.sorImm false 0x39 0x35 (.short 0x83), 1) ∧
    decodeUnit 0x02B02187 0 0 = .ok (.sxorImm false 0x30 0x21 (.short 0x87), 1) ∧
    decodeUnit 0x8299658B 0 0 = .ok (.sshlImm true 0x19 0x25 (.short 0x8B), 1) ∧
    decodeUnit 0x029D998F 0 0 = .ok (.sshrImm false 0x1D 0x19 (.short 0x8F), 1) ∧
    decodeUnit 0x0294C593 0 0 = .ok (.ssraImm false 0x14 0x5 (.short 0x93), 1) ∧
    decodeUnit 0x82FD0997 0 0 = .ok (.sminImm true 0x3D 0x9 (.short 0x97), 1) ∧
    decodeUnit 0x02C17D9B 0 0 = .ok (.smaxImm false 0x1 0x3D (.short 0x9B), 1) ∧
    decodeUnit 0x0338E99F 0 0 = .ok (.smulhUImm false 0x38 0x29 (.short 0x9F), 1) ∧
    decodeUnit 0x83612DA3 0 0 = .ok (.sdivUImm true 0x21 0x2D (.short 0xA3), 1) ∧
    decodeUnit 0x036561A7 0 0 = .ok (.sremUImm false 0x25 0x21 (.short 0xA7), 1) ∧
    decodeUnit 0x03DC0DAB 0 0 = .ok (.sminUImm false 0x1C 0xD (.short 0xAB), 1) :=
  ⟨rfl, rfl, rfl, rfl, rfl, rfl, rfl, rfl, rfl, rfl, rfl, rfl, rfl, rfl, rfl, rfl, rfl, rfl, rfl, rfl⟩

/-- Words of the scalar majors (R38, R40). -/
theorem test_decode_scalar_3 :
    decodeUnit 0x83C551AF 0 0 = .ok (.smaxUImm true 0x5 0x11 (.short 0xAF), 1) ∧
    decodeUnit 0x0445C62F 0 0 = .ok (.scmp false .leu 0x5 0x6 0x2F, 1) ∧
    decodeUnit 0x853B99B9 0 0 = .ok (.scmpImm true .lt 0x3B 0x19 (.short 0xB9), 1) ∧
    decodeUnit 0x060A062D 0 0 = .ok (.ssel false 0xA 0x6 0x2D, 1) ∧
    decodeUnit 0x872A1300 0 0 = .ok (.smov true 0x2A 0x13, 1) ∧
    decodeUnit 0x881581D6 0 0 = .ok (.sli true 0x15 (.short 0x81D6), 1) ∧
    decodeUnit 0x884D81D9 0 0 = .ok (.sliHi true 0xD (.short 0x81D9), 1) ∧
    decodeUnit 0x89EA910D 0 0 = .ok (.slea true 0x2A 0x11 0xD 0xE, 1) ∧
    decodeUnit 0x0A883943 0 0 = .ok (.sbfx false 0x8 0x39 0x3 0x21, 1) ∧
    decodeUnit 0x0BFD524E 0 0 = .ok (.sbfxS false 0x3D 0x12 0xE 0x35, 1) ∧
    decodeUnit 0x8C72DB6C 0 0 = .ok (.sbfi true 0x32 0x1B 0x2C 0x1D, 1) :=
  ⟨rfl, rfl, rfl, rfl, rfl, rfl, rfl, rfl, rfl, rfl, rfl⟩

/-- Words of the control majors (R38, R39). -/
theorem test_decode_control_1 :
    decodeUnit 0x10000345 0 0 = .ok (.br false 0x345, 1) ∧
    decodeUnit 0x110002A1 0 0 = .ok (.call false 0x2A1, 1) ∧
    decodeUnit 0x921902D5 0 0 = .ok (.brs true .zero 0x19 0x2D5, 1) ∧
    decodeUnit 0x15071001 0 0 = .ok (.tabset false 0x7 0x10 0x1, 1) ∧
    decodeUnit 0x16290000 0 0 = .ok (.ret false 0x29, 1) ∧
    decodeUnit 0x17000000 0 0 = .ok (.exit false, 1) ∧
    decodeUnit 0x17000001 0 0 = .ok (.yield false, 1) ∧
    decodeUnit 0x97000002 0 0 = .ok (.rte true, 1) ∧
    decodeUnit 0x17000003 0 0 = .ok (.halt false, 1) ∧
    decodeUnit 0x17390004 0 0 = .ok (.launch false 0x39, 1) ∧
    decodeUnit 0x18000063 0 0 = .ok (.trap false 0x63, 1) ∧
    decodeUnit 0x99252F00 0 0 = .ok (.region true 0x25 0x2F, 1) ∧
    decodeUnit 0x9A1D000D 0 0 = .ok (.mfsr true 0x1D (.sh 5), 1) ∧
    decodeUnit 0x9B00212B 0 0 = .ok (.mtsr true .xlanes 0x21, 1) ∧
    decodeUnit 0x9C001E00 0 0 = .ok (.setmode true 0x1E, 1) ∧
    decodeUnit 0x1C400013 0 0 = .ok (.setmodeF false .guard (.short 0x13), 1) ∧
    decodeUnit 0x1D010600 0 0 = .ok (.setlim false 0x1 0x6, 1) ∧
    decodeUnit 0x1D420094 0 0 = .ok (.setlimImm false 0x2 (.short 0x94), 1) ∧
    decodeUnit 0x1E020200 0 0 = .ok (.waitc false .cp 0x2, 1) ∧
    decodeUnit 0x1E43009A 0 0 = .ok (.waitcImm false .st (.short 0x9A), 1) :=
  ⟨rfl, rfl, rfl, rfl, rfl, rfl, rfl, rfl, rfl, rfl, rfl, rfl, rfl, rfl, rfl, rfl, rfl, rfl, rfl, rfl⟩

/-- Words of the control majors (R38, R39). -/
theorem test_decode_control_2 :
    decodeUnit 0x1F050A00 0 0 = .ok (.bar false 0x5 (some 2), 1) ∧
    decodeUnit 0x1F060040 0 0 = .ok (.bara false 0x6, 1) ∧
    decodeUnit 0x1F090F80 0 0 = .ok (.barw false 0x9 (some 7), 1) ∧
    decodeUnit 0x1FCF0BC0 0 0 = .ok (.gbar false 0xCF (some 3), 1) :=
  ⟨rfl, rfl, rfl, rfl⟩

/-- Words of the vector majors (R41, R42). -/
theorem test_decode_vector_1 :
    decodeUnit 0x205BF9B9 0 0 = .ok (.vadd false 0x5B 0xF9 (.reg 0xB9), 1) ∧
    decodeUnit 0x212AA6BD 0 0 = .ok (.vsub false 0x2A 0xA6 (.reg 0xBD), 1) ∧
    decodeUnit 0xA24AF3C1 0 0 = .ok (.vmul true 0x4A 0xF3 (.reg 0xC1), 1) ∧
    decodeUnit 0x237F1DC5 0 0 = .ok (.vmulh false 0x7F 0x1D (.reg 0xC5), 1) ∧
    decodeUnit 0x244ECAC9 0 0 = .ok (.vmad false 0x4E 0xCA (.reg 0xC9), 1) ∧
    decodeUnit 0xA56E17CD 0 0 = .ok (.vand true 0x6E 0x17 (.reg 0xCD), 1) ∧
    decodeUnit 0x26A341D1 0 0 = .ok (.vor false 0xA3 0x41 (.reg 0xD1), 1) ∧
    decodeUnit 0x2772EED5 0 0 = .ok (.vxor false 0x72 0xEE (.reg 0xD5), 1) ∧
    decodeUnit 0xA8923BD9 0 0 = .ok (.vshl true 0x92 0x3B (.reg 0xD9), 1) ∧
    decodeUnit 0x29C765DD 0 0 = .ok (.vshr false 0xC7 0x65 (.reg 0xDD), 1) ∧
    decodeUnit 0x2A9612E1 0 0 = .ok (.vsra false 0x96 0x12 (.reg 0xE1), 1) ∧
    decodeUnit 0xABB65FE5 0 0 = .ok (.vmin true 0xB6 0x5F (.reg 0xE5), 1) ∧
    decodeUnit 0x2CEB89E9 0 0 = .ok (.vmax false 0xEB 0x89 (.reg 0xE9), 1) ∧
    decodeUnit 0x2D1E9D19 0 0 = .ok (.vcmp false .le 0x6 0x9D 0x19, 1) ∧
    decodeUnit 0x2E835405 0 0 = .ok (.vsel false 0x83 0x54 0x5, 1) ∧
    decodeUnit 0x2FAD3D00 0 0 = .ok (.vnot false 0xAD 0x3D, 1) ∧
    decodeUnit 0x2FDE5A01 0 0 = .ok (.vabs false 0xDE 0x5A, 1) ∧
    decodeUnit 0x2F3DFE02 0 0 = .ok (.vneg false 0x3D 0xFE, 1) ∧
    decodeUnit 0x2F78E903 0 0 = .ok (.vmov false 0x78 0xE9, 1) ∧
    decodeUnit 0x2FD16104 0 0 = .ok (.vclz false 0xD1 0x61, 1) :=
  ⟨rfl, rfl, rfl, rfl, rfl, rfl, rfl, rfl, rfl, rfl, rfl, rfl, rfl, rfl, rfl, rfl, rfl, rfl, rfl, rfl⟩

/-- Words of the vector majors (R41, R42). -/
theorem test_decode_vector_2 :
    decodeUnit 0x2F027E05 0 0 = .ok (.vpopc false 0x2 0x7E, 1) ∧
    decodeUnit 0x2F610006 0 0 = .ok (.vlane false 0x61, 1) ∧
    decodeUnit 0x30CB1C00 0 0 = .ok (.vbcast false 0xCB 0x1C, 1) ∧
    decodeUnit 0x3057408C 0 0 = .ok (.vbcastImm false 0x57 (.short 0x8C), 1) ∧
    decodeUnit 0x31512622 0 0 = .ok (.vbfx false 0x51 0x26 0x22, 1) ∧
    decodeUnit 0x3185466F 0 0 = .ok (.vbfxS false 0x85 0x46 0x2F, 1) ∧
    decodeUnit 0xB1317B99 0 0 = .ok (.vbfi true 0x31 0x7B 0x19, 1) ∧
    decodeUnit 0x32050206 0 0 = .ok (.pand false 0x5 0x2 0x6, 1) ∧
    decodeUnit 0x32110203 0 0 = .ok (.por false 0x1 0x2 0x3, 1) ∧
    decodeUnit 0xB2250705 0 0 = .ok (.pxor true 0x5 0x7 0x5, 1) ∧
    decodeUnit 0x32310600 0 0 = .ok (.pnot false 0x1 0x6, 1) ∧
    decodeUnit 0x32410500 0 0 = .ok (.pmov false 0x1 0x5, 1) ∧
    decodeUnit 0x32570008 0 0 = .ok (.pset false 0x7 0x8, 1) ∧
    decodeUnit 0x33030103 0 0 = .ok (.ptest false 0x3 0x1 .count, 1) :=
  ⟨rfl, rfl, rfl, rfl, rfl, rfl, rfl, rfl, rfl, rfl, rfl, rfl, rfl, rfl⟩

/-- Words of the float majors (R41, R42). -/
theorem test_decode_float :
    decodeUnit 0x38920EE5 0 0 = .ok (.vfadd false 0x92 0xE (.reg 0xE5), 1) ∧
    decodeUnit 0xB9B25BE9 0 0 = .ok (.vfsub true 0xB2 0x5B (.reg 0xE9), 1) ∧
    decodeUnit 0x3AE785ED 0 0 = .ok (.vfmul false 0xE7 0x85 (.reg 0xED), 1) ∧
    decodeUnit 0x3BB632A1 0 0 = .ok (.vfma false 0xB6 0x32 (.reg 0xA1), 1) ∧
    decodeUnit 0xBCD67FA5 0 0 = .ok (.vfmin true 0xD6 0x7F (.reg 0xA5), 1) ∧
    decodeUnit 0x3D0BA9A9 0 0 = .ok (.vfmax false 0xB 0xA9 (.reg 0xA9), 1) ∧
    decodeUnit 0x3EDA56AD 0 0 = .ok (.vfdiv false 0xDA 0x56 (.reg 0xAD), 1) ∧
    decodeUnit 0xBFFAA3B1 0 0 = .ok (.vscale true 0xFA 0xA3 (.reg 0xB1), 1) ∧
    decodeUnit 0x402D5D29 0 0 = .ok (.vfcmp false .ge 0x5 0x5D 0x29, 1) ∧
    decodeUnit 0xC17AE100 0 0 = .ok (.vfsqrt true 0x7A 0xE1, 1) ∧
    decodeUnit 0xC11EC701 0 0 = .ok (.vfrcp true 0x1E 0xC7, 1) ∧
    decodeUnit 0xC1095302 0 0 = .ok (.vfrsq true 0x9 0x53, 1) ∧
    decodeUnit 0xC1814D03 0 0 = .ok (.vfexp2 true 0x81 0x4D, 1) ∧
    decodeUnit 0xC19E0504 0 0 = .ok (.vflog2 true 0x9E 0x5, 1) ∧
    decodeUnit 0xC142EB05 0 0 = .ok (.vfclass true 0x42 0xEB, 1) ∧
    decodeUnit 0xC22D7701 0 0 = .ok (.vcvt true 0x2D 0x77 .ui32, 1) :=
  ⟨rfl, rfl, rfl, rfl, rfl, rfl, rfl, rfl, rfl, rfl, rfl, rfl, rfl, rfl, rfl, rfl⟩

/-- Words of the lanes majors (R41, R42). -/
theorem test_decode_lanes :
    decodeUnit 0x507146C2 0 0 = .ok (.vperm false 0x71 0x46 0xC2, 1) ∧
    decodeUnit 0x51A56600 0 0 = .ok (.vshuf false 0xA5 0x66 .x1, 1) ∧
    decodeUnit 0xD2519B39 0 0 = .ok (.vtbl true 0x51 0x9B 0x39, 1) ∧
    decodeUnit 0x53956A06 0 0 = .ok (.vrot false 0x95 0x6A 0x6, 1) ∧
    decodeUnit 0x54C98A02 0 0 = .ok (.vred false 0xC9 0x8A .max, 1) ∧
    decodeUnit 0xD475BF08 0 0 = .ok (.vscan true 0x75 0xBF .add, 1) ∧
    decodeUnit 0x54B98E14 0 0 = .ok (.vscanX false 0xB9 0x8E .or, 1) ∧
    decodeUnit 0x552D0600 0 0 = .ok (.vballot false 0x2D 0x6, 1) ∧
    decodeUnit 0x55280101 0 0 = .ok (.vfirst false 0x28 0x1, 1) ∧
    decodeUnit 0x56011100 0 0 = .ok (.gtest false 0x1 0x11, 1) ∧
    decodeUnit 0x56B20001 0 0 = .ok (.gdemand false 0xB2, 1) ∧
    decodeUnit 0x56950002 0 0 = .ok (.gaccept false 0x95, 1) ∧
    decodeUnit 0xD6027B03 0 0 = .ok (.gcheck true 0x2 0x7B, 1) ∧
    decodeUnit 0xD63D0704 0 0 = .ok (.gsettle true 0x3D 0x7, 1) :=
  ⟨rfl, rfl, rfl, rfl, rfl, rfl, rfl, rfl, rfl, rfl, rfl, rfl, rfl, rfl⟩

/-- Words of the memory majors (R43, R44). -/
theorem test_decode_memory_1 :
    decodeUnit 0xD801D691 0 0 = .ok (.ldB true false 0x1 0xD6 0x12 0x1, 1) ∧
    decodeUnit 0xD99F700B 0 0 = .ok (.ldH true false 0x9F 0x70 0x1 0x3, 1) ∧
    decodeUnit 0xDA5925D6 0 0 = .ok (.ldW true 0x59 0x25 0x1A 0x6, 1) ∧
    decodeUnit 0x5B581A1C 0 0 = .ok (.ldD false 0x58 0x1A 0x3 0x4, 1) ∧
    decodeUnit 0x5C4CEDE9 0 0 = .ok (.ldQ false 0x4C 0xED 0x1D 0x1, 1) ∧
    decodeUnit 0xDD980104 0 0 = .ok (.lds true 0x98 0x1 .q, 1) ∧
    decodeUnit 0x5EE4B84C 0 0 = .ok (.st false 0xE4 0xB8 0x9 .q, 1) ∧
    decodeUnit 0xDFA06D02 0 0 = .ok (.sts true 0xA0 0x6D .w, 1) ∧
    decodeUnit 0x60252162 0 0 = .ok (.sldD false 0x25 0x21 0x62, 1) ∧
    decodeUnit 0x605C0D97 0 0 = .ok (.sldW false 0x1C 0xD 0x97, 1) ∧
    decodeUnit 0xE0851166 0 0 = .ok (.sstD true 0x5 0x11 0x66, 1) ∧
    decodeUnit 0x60C90586 0 0 = .ok (.sstW false 0x9 0x5 0x86, 1) ∧
    decodeUnit 0x61000088 0 0 = .ok (.prefL1 false 0x0 0x11, 1) ∧
    decodeUnit 0x61015948 0 0 = .ok (.prefL2 false 0x59 0x9, 1) ∧
    decodeUnit 0x61028A30 0 0 = .ok (.prefMsc false 0x8A 0x6, 1) ∧
    decodeUnit 0x63AA5325 0 0 = .ok (.draftW false false 0xAA 0x53 0x4 0x5, 1) ∧
    decodeUnit 0x64007D68 0 0 = .ok (.ink false 0x7D 0xD, 1) ∧
    decodeUnit 0x64862A88 0 0 = .ok (.erase false 0x6 0x2A 0x11, 1) ∧
    decodeUnit 0xE5CE7648 0 0 = .ok (.aadd true 0xCE 0x76 0x48 none, 1) ∧
    decodeUnit 0x66A130FD 0 0 = .ok (.amin false 0xA1 0x30 0xFD none, 1) :=
  ⟨rfl, rfl, rfl, rfl, rfl, rfl, rfl, rfl, rfl, rfl, rfl, rfl, rfl, rfl, rfl, rfl, rfl, rfl, rfl, rfl⟩

/-- Words of the memory majors (R43, R44). -/
theorem test_decode_memory_2 :
    decodeUnit 0x67B530F2 0 0 = .ok (.amax false 0xB5 0x30 0xF2 none, 1) ∧
    decodeUnit 0xE8DD26C5 0 0 = .ok (.aand true 0xDD 0x26 0xC5 none, 1) ∧
    decodeUnit 0x69F672D9 0 0 = .ok (.aor false 0xF6 0x72 0xD9 none, 1) ∧
    decodeUnit 0x6ABF9001 0 0 = .ok (.axor false 0xBF 0x90 0x1 none, 1) ∧
    decodeUnit 0xEB79441A 0 0 = .ok (.axchg true 0x79 0x44 0x1A none, 1) ∧
    decodeUnit 0x6D793AE3 0 0 = .ok (.afadd false 0x79 0x3A 0xE3 none, 1) ∧
    decodeUnit 0x6E000C9D 0 0 = .ok (.ared false .add 0xC 0x9D none, 1) ∧
    decodeUnit 0xEF084D00 0 0 = .ok (.fence true .acq (.g 0x4D), 1) ∧
    decodeUnit 0xEF000020 0 0 = .ok (.dflush true, 1) ∧
    decodeUnit 0x6F071840 0 0 = .ok (.cflush false 0x7 0x18, 1) ∧
    decodeUnit 0x6F133141 0 0 = .ok (.cflushPersist false 0x13 0x31, 1) ∧
    decodeUnit 0x6F0D2260 0 0 = .ok (.cinv false 0xD 0x22, 1) ∧
    decodeUnit 0x6F050080 0 0 = .ok (.carve false 0x5, 1) ∧
    decodeUnit 0xEF022BA0 0 0 = .ok (.pclass true 0x2 0x2B .priv, 1) :=
  ⟨rfl, rfl, rfl, rfl, rfl, rfl, rfl, rfl, rfl, rfl, rfl, rfl, rfl, rfl⟩

/-- Words of the tile majors (R45). -/
theorem test_decode_tile_1 :
    decodeUnit 0x70152531 0 0 = .ok (.cpyMs false false 0x15 0x25 0x31, 1) ∧
    decodeUnit 0xF0692526 0 0 = .ok (.cpySm true false 0x29 0x25 0x26, 1) ∧
    decodeUnit 0x70910339 0 0 = .ok (.cpyMf false false 0x11 0x3 0x39, 1) ∧
    decodeUnit 0x70EA060D 0 0 = .ok (.cpySf false false 0x2A 0x6 0xD, 1) ∧
    decodeUnit 0xF20A0304 0 0 = .ok (.gath true 0xA 0x3 0x4, 1) ∧
    decodeUnit 0x73071D2D 0 0 = .ok (.strm false 0x7 0x1D 0x2D, 1) ∧
    decodeUnit 0x74CE0200 0 0 = .ok (.vfeed false 0xCE 0x2, 1) ∧
    decodeUnit 0x750D0E08 0 0 = .ok (.mma false 0xD 0x2 0x3 0x8, 1) ∧
    decodeUnit 0x7583050D 0 0 = .ok (.mmas false 0x3 0x1 0x1 0xD, 1) ∧
    decodeUnit 0xF6002E15 0 0 = .ok (.skcfg true 0x2E 0x15, 1) ∧
    decodeUnit 0xF640120B 0 0 = .ok (.skmap true 0x12 0xB, 1) ∧
    decodeUnit 0xF7FC0705 0 0 = .ok (.accld true 0xFC 0x7 0x5, 1) ∧
    decodeUnit 0x77000180 0 0 = .ok (.accz false 0x1, 1) ∧
    decodeUnit 0xF8020000 0 0 = .ok (.qset true 0x2, 1) ∧
    decodeUnit 0x78050001 0 0 = .ok (.qclr false 0x5, 1) ∧
    decodeUnit 0x781F3002 0 0 = .ok (.shset false 0x1F 0x30, 1) ∧
    decodeUnit 0x79002B00 0 0 = .ok (.fwait false 0x2B, 1) ∧
    decodeUnit 0xF9192501 0 0 = .ok (.ftest true 0x19 0x25, 1) ∧
    decodeUnit 0xF9361D02 0 0 = .ok (.fstat true 0x36 0x1D, 1) ∧
    decodeUnit 0xF9001A03 0 0 = .ok (.fcancel true 0x1A, 1) :=
  ⟨rfl, rfl, rfl, rfl, rfl, rfl, rfl, rfl, rfl, rfl, rfl, rfl, rfl, rfl, rfl, rfl, rfl, rfl, rfl, rfl⟩

/-- Words of the tile majors (R45). -/
theorem test_decode_tile_2 :
    decodeUnit 0x7A140400 0 0 = .ok (.eqpush false 0x14 0x4, 1) ∧
    decodeUnit 0x7A6D3D00 0 0 = .ok (.eqcfg false 0x2D 0x3D, 1) ∧
    decodeUnit 0x7B1E1A00 0 0 = .ok (.collAllreduce false 0x1E 0x1A, 1) ∧
    decodeUnit 0x7B3D3E01 0 0 = .ok (.collReducescatter false 0x3D 0x3E, 1) ∧
    decodeUnit 0x7B382902 0 0 = .ok (.collAllgather false 0x38 0x29, 1) ∧
    decodeUnit 0x7B112103 0 0 = .ok (.collBroadcast false 0x11 0x21, 1) ∧
    decodeUnit 0x7B423E00 0 0 = .ok (.collredo false 0x2 0x3E, 1) :=
  ⟨rfl, rfl, rfl, rfl, rfl, rfl, rfl⟩

/-- Words that need an EXT prefix (R29, R31, R158, R161, R277, R280, R284, R289). -/
theorem test_decode_extended :
    decodeUnit 0x7D000004 0x13010003 0 = .ok (.brv false false 1 3 4, 2) ∧
    decodeUnit 0x7D00FFF0 0x930EFFFD 0 = .ok (.brv true true 6 0xFFFD 0xFFF0, 2) ∧
    decodeUnit 0x7D000020 0x14040100 0 = .ok (.jmpi false 4 1 32, 2) ∧
    decodeUnit 0x7D000001 0x58030117 0 = .ok (.ldBS false 3 1 2 7, 2) ∧
    decodeUnit 0x7D000001 0x59030117 0 = .ok (.ldHS false 3 1 2 7, 2) ∧
    decodeUnit 0x7D000003 0x62040112 0 = .ok (.strc false 4 1 2 .w 3, 2) ∧
    decodeUnit 0x7D000001 0x63040311 0 = .ok (.draftD false 4 3 2 1, 2) ∧
    decodeUnit 0x7D08001B 0x6C060204 0 = .ok (.acas false 6 2 4 8 ⟨.d, .ar⟩, 2) ∧
    decodeUnit 0x7D004D12 0x65060204 0 = .ok (.aadd false 6 2 4 (some ⟨.g 0x4D, .rel⟩), 2) ∧
    decodeUnit 0x7D020001 0x70890504 0 = .ok (.cpyZd false 9 (.mf 5) 4 2, 2) ∧
    decodeUnit 0x7D023100 0x718A0104 0 = .ok (.cpym false 10 1 4 ⟨false, 2, 1, 0, 3⟩, 2) ∧
    decodeUnit 0x7D141E00 0x718B0205 0 = .ok (.cpym false 11 2 5 ⟨true, 4, 2, 3, 1⟩, 2) ∧
    decodeUnit 0x7D141E00 0x71CB0205 0 = .ok (.cpymSf false 11 2 5 ⟨true, 4, 2, 3, 1⟩, 2) :=
  ⟨rfl, rfl, rfl, rfl, rfl, rfl, rfl, rfl, rfl, rfl, rfl, rfl, rfl⟩

/-- Words with a prefix that they may have (R29, R30, R31). -/
theorem test_decode_prefixed :
    decodeUnit 0x7C123456 0x02043278 0 = .ok (.saddImm false 4 50 (.long 0x12345678), 2) ∧
    decodeUnit 0x7C000001 0x1C470023 0 = .ok (.setmodeF false .tid (.long 0x123), 2) ∧
    decodeUnit 0x7C000001 0x2001022C 0 = .ok (.vadd false 1 2 (.imm32 300), 2) ∧
    decodeUnit 0x7D000001 0x20050607 0 = .ok (.vadd false 5 6 (.scal 7), 2) ∧
    decodeUnit 0x7D000002 0x200506F6 0 = .ok (.vadd false 5 6 (.imm8 0xF6), 2) ∧
    decodeUnit 0x7D000000 0x58030117 0 = .ok (.ldB false true 3 1 2 7, 2) :=
  ⟨rfl, rfl, rfl, rfl, rfl, rfl⟩

/-- Reserved encodings raise their trap with its subcode and never read as a neighbour (R35, R37). -/
theorem test_decode_refuses :
    (decodeUnit 0x0D000000 0 0).toOption = none ∧ (decodeUnit 0x00000001 0 0).toOption = none ∧
    (decodeUnit 0x17000005 0 0).toOption = none ∧ (decodeUnit 0x62040112 0 0).toOption = none ∧
    (decodeUnit 0xFC000000 0x02043278 0).toOption = none ∧ (decodeUnit 0x7C000000 0x7D000000 0).toOption = none ∧
    (decodeUnit 0x7D000003 0x20050607 0).toOption = none := by decide

/-! ## A small machine: one wave of eight lanes in one block of one launch, about to issue, with the first GiB mapped -/

/-- The machine of the witnesses: the context may also reach every stack. -/
def demo : State :=
  let s := State.reset.boot []
  { s with mgmt := { s.mgmt with ats := s.mgmt.ats ++ (List.range 16).map (fun k => (4096 * (4 + k), [(0, grantAll)])) } }
/-- The machine with a change to its wave, its launch. -/
def onWave (f : Wave → Wave) : State := demo.updWave 0 f
def onLaunch (f : Launch → Launch) : State := demo.updLaunch 0 f
/-- The machine in a MODE. -/
def inMode (m : Word) : State := onWave (fun w => { w with slotA := { w.slotA with path := { w.slotA.path with mode := m } } })

/-- An operand that reads a scalar finds no pending future there. -/
def readyOpd (s : State) (o : Opd) : Bool :=
  match o.readS with
  | none => true
  | some r => !(s.fw.sregs.get SRegVal.zero r).fut || !s.futurePending s.fw.block ((s.fw.s r).setWidth 32)
/-- The state may issue a unit with these operands: as a Boolean. -/
def canIssue (s : State) (ops : List Opd) : Bool := s.fs.phase == 0 && ops.all (fun o => !o.odd && !o.beyond s.fl && readyOpd s o)

theorem mayIssue_of_canIssue {s : State} {ops : List Opd} (h : canIssue s ops = true) : s.mayIssue ops := by
  simp only [canIssue, Bool.and_eq_true, List.all_eq_true, Bool.not_eq_true', beq_iff_eq] at h
  refine ⟨h.1, fun o ho => ⟨(h.2 o ho).1.1, (h.2 o ho).1.2⟩, fun o ho r hr hf => ?_⟩
  have := (h.2 o ho).2
  simpa [readyOpd, hr, hf] using this

theorem ok_of_isOk {ε α : Type} {e : Except ε α} (h : e.toBool = true) : ∃ x, e = .ok x := by
  cases e with
  | ok x => exact ⟨x, rfl⟩
  | error => simp [Except.toBool] at h

/-- The check windows of the issuing wave are closed: as a Boolean. -/
theorem windowsClosed_of {s : State} (h : (s.windowOpen s.focus.wave false || s.windowOpen s.focus.wave true) = false) : s.windowsClosed := by
  simpa [State.windowsClosed] using h
/-- The machine with a change to its issuing slot. -/
def onSlot (f : Slot → Slot) : State := onWave (fun w => { w with slotA := f w.slotA })
/-- The machine with its slot at a later phase, waiting on record 7. -/
def inPhase (n : Nat) : State := onSlot (fun x => { x with phase := n, ref := 7 })
/-- The pieces that a check gives, where it passes. -/
def checkedPlaces : Checked → Option (List (Nat × Place))
  | .ok ps => some ps
  | .trap _ => none
  | .page _ => none
theorem ok_of_places {c : Checked} (h : (checkedPlaces c).isSome = true) : ∃ ps, c = .ok ps := by
  cases c with
  | ok ps => exact ⟨ps, rfl⟩
  | trap _ => simp [checkedPlaces] at h
  | page _ => simp [checkedPlaces] at h
theorem runsNow_of {s : State} {ops : List Opd} (h : canIssue s ops = true)
    (hw : (s.windowOpen s.focus.wave false || s.windowOpen s.focus.wave true) = false) : s.runsNow ops :=
  .inr ⟨mayIssue_of_canIssue h, windowsClosed_of hw⟩

/-- The row exists and may issue. -/
theorem row_of {ρ : Type} {f : State → Instr → Option ρ} {ops : ρ → List Opd} {good : ρ → Bool} {s : State} {l : List Instr}
    (h : l.all (fun i => match f s i with | some r => canIssue s (ops r) && good r | none => false) = true) :
    ∀ i ∈ l, ∃ r, f s i = some r ∧ s.mayIssue (ops r) ∧ good r = true := by
  intro i hi
  have := List.all_eq_true.1 h i hi
  cases hr : f s i with
  | none => simp [hr] at this
  | some r =>
    simp only [hr, Bool.and_eq_true] at this
    exact ⟨r, rfl, mayIssue_of_canIssue this.1, this.2⟩

/-! ## Witnesses: scalar, vector and predicate instructions -/

/-- Two scalars hold values, so that no row reads only zeros. -/
def scalars : State := onWave (fun w => { w with sregs := [(2, ⟨0x8000000000000001, false⟩), (3, ⟨7, false⟩), (63, ⟨0x10000, false⟩)] })
/-- Every scalar row, at the lowest and the highest register. -/
def scalarRows : List Instr :=
  [.sadd false 0 2 3, .ssub false 63 2 3, .smul true 1 2 3, .smulh false 1 2 3, .smulhU false 1 2 3, .sdiv false 1 2 3, .sdiv false 1 2 4,
   .sdivU false 1 2 3, .srem false 1 2 4, .sremU false 1 2 3, .sand false 1 2 3, .sor false 1 2 3, .sxor false 1 2 3, .sshl false 1 3 2,
   .sshr false 1 2 3, .ssra false 1 2 3, .smin false 1 2 3, .sminU false 1 2 3, .smax false 1 2 3, .smaxU false 1 2 3, .sclz false 1 2,
   .spopc false 1 2] ++
  [.saddImm false 1 2 (.short 0xFF), .ssubImm false 1 2 (.long 1), .smulImm false 1 2 (.short 2), .smulhImm false 1 2 (.short 2),
   .smulhUImm false 1 2 (.short 2), .sdivImm false 1 2 (.short 0), .sdivUImm false 1 2 (.short 2), .sremImm false 1 2 (.short 0),
   .sremUImm false 1 2 (.short 2), .sandImm false 1 2 (.short 2), .sorImm false 1 2 (.short 2), .sxorImm false 1 2 (.short 2),
   .sshlImm false 1 2 (.short 64), .sshrImm false 1 2 (.short 63), .ssraImm false 1 2 (.short 64), .sminImm false 1 2 (.short 0x80),
   .sminUImm false 1 2 (.short 2), .smaxImm false 1 2 (.short 0x80), .smaxUImm false 1 2 (.short 2)] ++
  [.scmp false .ltu 1 2 3, .scmpImm false .eq 1 2 (.short 0), .ssel false 1 2 3, .smov false 1 63, .sli false 1 (.short 0x8000),
   .sliHi false 2 (.long 5), .slea false 1 2 3 15, .sbfx false 1 2 8 11, .sbfxS false 1 2 63 0, .sbfi false 1 2 0 63]
theorem witness_ScalarInstructionsWriteTheirResults :
    ∀ i ∈ scalarRows, ∃ r, scalarRow scalars i = some r ∧ scalars.mayIssue r.ops ∧ true = true :=
  row_of (ops := ScalarRow.ops) (good := fun _ => true) (by decide +kernel)

/-- A vector row's mode is right and its guard does not trap. -/
def fitRow (s : State) (ets : BitVec 16) : Bool := ets.getLsbD (mET s.mode) && s.guardTrap.isNone
def integerRows : List Instr :=
  [.vadd false 0 1 (.reg 255), .vsub false 1 2 (.scal 63), .vmul false 1 2 (.imm8 0xFF), .vmulh false 1 2 (.imm32 300), .vmad false 1 2 (.reg 3),
   .vand false 1 2 (.reg 3), .vor false 1 2 (.reg 3), .vxor false 1 2 (.reg 3), .vshl false 1 2 (.reg 3), .vshr false 1 2 (.reg 3),
   .vsra false 1 2 (.reg 3), .vmin false 1 2 (.reg 3), .vmax false 1 2 (.reg 3), .vnot false 1 2, .vabs false 1 2, .vneg false 1 2,
   .vmov false 1 2, .vclz false 1 2, .vpopc false 1 2, .vlane false 1, .vsel false 1 2 3, .vbcast false 1 2, .vbcastImm false 1 (.short 3),
   .vbfx false 1 2 3, .vbfxS false 1 2 3, .vbfi false 1 2 3]
theorem witness_VectorIntegerInstructionsWriteActiveLanes :
    ∀ i ∈ integerRows, ∃ r, vectorRow scalars i = some r ∧ scalars.mayIssue r.ops ∧ fitRow scalars r.ets = true :=
  row_of (ops := VectorRow.ops) (good := fun r => fitRow scalars r.ets) (by decide +kernel)
/-- A VSEL word with a bit of C[7:3] set, at both ends of its range. -/
theorem witness_VectorIntegerInstructionsWriteActiveLanes_reserved :
    (fMaj 0x2E020308 = 0x2E ∧ 8 ≤ (fC 0x2E020308).toNat) ∧ fMaj 0xAE0203FF = 0x2E ∧ 8 ≤ (fC 0xAE0203FF).toNat := by decide +kernel
/-- The same at ET F64, where a group is a pair of registers (R82). -/
theorem witness_VectorIntegerInstructionsWriteActiveLanes_pairs :
    ∀ i ∈ [Instr.vand false 2 4 (.reg 254), .vmov false 2 4, .vsel false 2 4 7],
      ∃ r, vectorRow (inMode 0x180) i = some r ∧ (inMode 0x180).mayIssue r.ops ∧ fitRow (inMode 0x180) r.ets = true :=
  row_of (ops := VectorRow.ops) (good := fun r => fitRow (inMode 0x180) r.ets) (by decide +kernel)
/-- In speculate mode a guessed guard does not trap (R135). -/
def guessedGuard (m : Word) : State :=
  onWave (fun w => { w with pregs := [(1, ⟨0x0F, 0x11⟩)], slotA := { w.slotA with path := { w.slotA.path with mode := m } } })
theorem witness_VectorIntegerInstructionsWriteActiveLanes_guessed_guard :
    ∀ i ∈ [Instr.vadd false 0 1 (.reg 2)], ∃ r, vectorRow (guessedGuard 0x4009) i = some r ∧ (guessedGuard 0x4009).mayIssue r.ops ∧
      fitRow (guessedGuard 0x4009) r.ets = true :=
  row_of (ops := VectorRow.ops) (good := fun r => fitRow (guessedGuard 0x4009) r.ets) (by decide +kernel)

/-- MODE.ET = 2, F32. -/
def floats : State := inMode 0x40
def floatRows : List Instr :=
  [.vfadd false 1 2 (.reg 3), .vfsub false 1 2 (.scal 3), .vfmul false 1 2 (.imm8 3), .vfma false 1 2 (.reg 3), .vfmin false 1 2 (.reg 3),
   .vfmax false 1 2 (.reg 3), .vfdiv false 1 2 (.reg 3), .vscale false 1 2 (.reg 3), .vfsqrt false 1 2, .vfrcp false 1 2, .vfrsq false 1 2,
   .vfexp2 false 1 2, .vflog2 false 1 2, .vfclass false 1 2, .vcvt false 1 2 .f16, .vcvt false 4 2 .f64]
theorem witness_VectorFloatInstructionsWriteActiveLanes :
    ∀ i ∈ floatRows, ∃ r, floatRow floats i = some r ∧ floats.mayIssue r.ops ∧ fitRow floats r.ets = true :=
  row_of (ops := VectorRow.ops) (good := fun r => fitRow floats r.ets) (by decide +kernel)
def crossRows : List Instr :=
  [.vperm false 1 2 3, .vshuf false 1 2 .rev, .vrot false 1 2 7, .vtbl false 1 2 3, .vred false 1 2 .add, .vscan false 1 2 .max, .vscanX false 1 2 .xor]
theorem witness_CrossLaneInstructionsWriteActiveLanes :
    ∀ i ∈ crossRows, ∃ r, crossRow demo i = some r ∧ demo.mayIssue r.ops ∧ fitRow demo r.ets = true :=
  row_of (ops := VectorRow.ops) (good := fun r => fitRow demo r.ets) (by decide +kernel)
theorem witness_ComparesAndPredicatesWriteActiveLanes :
    (∀ i ∈ [Instr.vcmp false .lt 1 2 3, .pand false 0 1 7, .por false 1 2 3, .pxor false 1 2 3, .pnot false 1 2, .pmov false 7 0, .pset false 1 0xA5],
      ∃ r, predRow demo i = some r ∧ demo.mayIssue r.ops ∧ fitRow demo r.ets = true) ∧
    (∀ i ∈ [Instr.vfcmp false .un 1 2 3], ∃ r, predRow floats i = some r ∧ floats.mayIssue r.ops ∧ fitRow floats r.ets = true) :=
  ⟨row_of (ops := PredRow.ops) (good := fun r => fitRow demo r.ets) (by decide +kernel),
   row_of (ops := PredRow.ops) (good := fun r => fitRow floats r.ets) (by decide +kernel)⟩
theorem witness_PredicateReadsWriteTheirScalar :
    ∀ i ∈ [Instr.ptest false 63 1 .mask, .ptest false 1 1 .any, .ptest false 1 1 .all, .ptest false 1 1 .count, .vballot false 1 1, .vfirst false 1 1],
      ∃ r, testRow demo i = some r ∧ demo.mayIssue [.sd 1 r.d.toNat] ∧
        (r.ets.getLsbD (mET demo.mode) && ((demo.preg r.a).guess ||| demo.guardGuess) &&& demo.mask == 0) = true :=
  row_of (ops := fun (r : TestRow) => [.sd 1 r.d.toNat]) (good := fun (r : TestRow) => r.ets.getLsbD (mET demo.mode) && ((demo.preg r.a).guess ||| demo.guardGuess) &&& demo.mask == 0)
    (by decide +kernel)

/-! ## Witnesses: control flow and the system instructions -/

theorem witness_BranchesGoToTheirTargets :
    demo.fs.phase = 0 ∧ demo.mayIssue [.sd 1 63] ∧ demo.mayIssue [.sr 1 0] ∧ scalars.mayIssue [.sr 1 63] ∧ (scalars.sreg 63).toNat % 4 = 0 :=
  ⟨by decide +kernel, mayIssue_of_canIssue (by decide +kernel), mayIssue_of_canIssue (by decide +kernel), mayIssue_of_canIssue (by decide +kernel), by decide +kernel⟩

/-- What `settledElse` asks, as a test. -/
def settledTest (s : State) : Bool :=
  s.fs.live && match (pathsOf s s).2.1 with
  | some z => (match z.jr with | some k => decide (k < s.fw.spill.length) | none => true) && decide (joinPcAt s.fw.spill z.jr ≠ some z.pc)
  | none =>
    match s.fw.spill.getLast? with
    | some (.path _) => false
    | some (.join _ e a _ _) => decide (a ≠ e)
    | none => true
theorem settledElse_of {s : State} (h : settledTest s = true) : settledElse s := by
  obtain ⟨hl, h⟩ := Bool.and_eq_true_iff.1 h
  refine ⟨hl, ?_⟩
  revert h
  generalize (pathsOf s s).2.1 = o
  cases o with
  | some z =>
    intro h
    obtain ⟨h1, h2⟩ := Bool.and_eq_true_iff.1 h
    exact ⟨fun k hk => by rw [hk] at h1; exact of_decide_eq_true h1, of_decide_eq_true h2⟩
  | none =>
    generalize s.fw.spill.getLast? = x
    intro h
    cases x with
    | none => trivial
    | some y =>
      cases y with
      | path => exact absurd h Bool.false_ne_true
      | join => exact of_decide_eq_true h
/-- What `splitsNow` asks, as a test. -/
theorem splitsNow_of {s : State} {n : Nat} (h : (!(s.windowOpen s.focus.wave false || s.windowOpen s.focus.wave true) && !s.outstanding s.focus.wave s.focus.slotB && settledTest s &&
    decide (s.fw.spill.length + n ≤ s.fl.spillD + (if (pathsOf s s).2.1.isNone then 1 else 0))) = true) : splitsNow s n := by
  simp only [Bool.and_eq_true, Bool.not_eq_true', decide_eq_true_eq] at h
  exact ⟨windowsClosed_of h.1.1.1, h.1.1.2, settledElse_of h.1.2, h.2⟩

/-- Predicate 1 holds lanes 0 and 7, predicate 2 all lanes. -/
def preds : State := onWave (fun w => { w with pregs := [(1, ⟨0x81, 0⟩), (2, ⟨0xFF, 0⟩)] })
/-- The same with a spill stack of four entries (R65). -/
def predsDeep : State := { preds with launches := [(0, { bootLaunch with spillD := 4 })] }
/-- The same with a join record from an earlier split, to whose join the other slot's path runs as well. -/
def predsTwo : State :=
  predsDeep.updWave 0 (fun w => { w with
    slotA := { w.slotA with path := { w.slotA.path with jr := some 0 } }
    slotB := { Slot.zero with live := true, path := ⟨0x10040, 0x00, 0, some 0⟩ }
    spill := [.join 0x10100 0xFF 0 0 none] })
theorem witness_BrvBranchesOrSplits :
    (demo.fs.phase = 0 ∧ (demo.preg 0).guess &&& demo.mask = 0 ∧ (demo.preg 0).bits &&& demo.mask = 0) ∧
    (settledElse demo ∧ joinPcAt demo.fw.spill demo.fs.path.jr ≠ some (demo.pc + 8)) ∧
    (preds.fs.phase = 0 ∧ (preds.preg 2).guess &&& preds.mask = 0 ∧ (preds.preg 2).bits &&& preds.mask ≠ 0 ∧ (preds.preg 2).bits &&& preds.mask = preds.mask) ∧
    (settledElse predsTwo ∧ joinPcAt predsTwo.fw.spill predsTwo.fs.path.jr ≠ some (predsTwo.pc + 4 + BitVec.signExtend 64 (4 : BitVec 16) * 4)) :=
  ⟨by decide +kernel, ⟨settledElse_of (by decide +kernel), by decide +kernel⟩, by decide +kernel, ⟨settledElse_of (by decide +kernel), by decide +kernel⟩⟩
/-- Splits with the other slot free and with it live, at neither, one and both of the targets a join. -/
theorem witness_BrvBranchesOrSplits_split : ∀ s ∈ [predsDeep, predsTwo], s.fs.phase = 0 ∧ (s.preg 1).guess &&& s.mask = 0 ∧ (s.preg 1).bits &&& s.mask ≠ 0 ∧
    (s.preg 1).bits &&& s.mask ≠ s.mask ∧ splitsNow s 2 ∧
    ¬(s.pc + 8 = s.pc + 4 + BitVec.signExtend 64 (3 : BitVec 16) * 4 ∧ s.pc + 4 + BitVec.signExtend 64 (4 : BitVec 16) * 4 = s.pc + 4 + BitVec.signExtend 64 (3 : BitVec 16) * 4) ∧
    ¬(s.pc + 8 = s.pc + 4 + BitVec.signExtend 64 (4 : BitVec 16) * 4 ∧ s.pc + 4 + BitVec.signExtend 64 (4 : BitVec 16) * 4 = s.pc + 4 + BitVec.signExtend 64 (4 : BitVec 16) * 4) ∧
    (s.pc + 8 = s.pc + 4 + BitVec.signExtend 64 (1 : BitVec 16) * 4 ∧ joinPcAt s.fw.spill s.fs.path.jr ≠ some (s.pc + 4 + BitVec.signExtend 64 (1 : BitVec 16) * 4)) := by
  intro s hs
  simp only [List.mem_cons, List.not_mem_nil, or_false] at hs
  obtain rfl | rfl := hs
  · exact ⟨by decide +kernel, by decide +kernel, by decide +kernel, by decide +kernel, splitsNow_of (by decide +kernel), by decide +kernel, by decide +kernel, by decide +kernel⟩
  · exact ⟨by decide +kernel, by decide +kernel, by decide +kernel, by decide +kernel, splitsNow_of (by decide +kernel), by decide +kernel, by decide +kernel, by decide +kernel⟩
/-- A BRV word counts its target from itself, not from its EXT (R227). -/
theorem test_brv_target_counts_from_its_word :
    (match exec (.brv false false 2 4 9) preds with | .next t => t.pc == 0x10014 | _ => false) = true ∧
    (match exec (.brv false false 0 4 9) demo with | .next t => t.pc == 0x10008 | _ => false) = true := by decide

/-- A table of two targets with its join 32 words on from the JMPI word, and a register that picks target 1 in lane 7 and target 0 elsewhere. -/
def tabled : State :=
  { (onWave (fun w => { w with vregs := [(4, ⟨L8.ofFn (fun l => if l = 7 then 1 else 0), 0⟩)] })) with
    blocks := [(0, { bootBlock with tabs := [(1, some ⟨0x10084, [0x10010, 0x10020]⟩)] })], launches := [(0, { bootLaunch with spillD := 1 })] }
/-- The same with the other slot live, and room for two more entries. -/
def tabledTwo : State :=
  { tabled with launches := [(0, { bootLaunch with spillD := 2 })] }.updWave 0 (fun w => { w with slotB := { Slot.zero with live := true, path := ⟨0x10040, 0x00, 0, none⟩ } })
theorem witness_JmpiGoesToItsTargets : ∀ s ∈ [tabled, tabledTwo],
    s.mayIssue [.v 1 4 1] ∧ s.mayIssue [.v 1 5 1] ∧ (s.vreg 4).guess &&& s.mask = 0 ∧ (s.vreg 5).guess &&& s.mask = 0 ∧
    s.fb.tabs.get none 1 = some ⟨0x10084, [0x10010, 0x10020]⟩ ∧ (0x10084 : DWord) = s.target (.jmpi false 4 1 32) (32 : BitVec 16) ∧
    (∀ l, l < 8 → ((s.vreg 4).lanes.get l).toNat < 2 ∧ ((s.vreg 5).lanes.get l).toNat < 2) ∧
    groupTargets (fun l => [(0x10010 : DWord), 0x10020].getD ((s.vreg 5).lanes.get l).toNat 0) s.mask lanes8 = [(0x10010, 0xFF)] ∧
    groupTargets (fun l => [(0x10010 : DWord), 0x10020].getD ((s.vreg 4).lanes.get l).toNat 0) s.mask lanes8 = [(0x10010, 0x7F), (0x10020, 0x80)] ∧
    settledElse s ∧ joinPcAt s.fw.spill s.fs.path.jr ≠ some 0x10010 ∧ splitsNow s 2 := by
  intro s hs
  simp only [List.mem_cons, List.not_mem_nil, or_false] at hs
  obtain rfl | rfl := hs
  · exact ⟨mayIssue_of_canIssue (by decide +kernel), mayIssue_of_canIssue (by decide +kernel), by decide +kernel, by decide +kernel, by decide +kernel, by decide +kernel, by decide +kernel, by decide +kernel, by decide +kernel,
      settledElse_of (by decide +kernel), by decide +kernel, splitsNow_of (by decide +kernel)⟩
  · exact ⟨mayIssue_of_canIssue (by decide +kernel), mayIssue_of_canIssue (by decide +kernel), by decide +kernel, by decide +kernel, by decide +kernel, by decide +kernel, by decide +kernel, by decide +kernel, by decide +kernel,
      settledElse_of (by decide +kernel), by decide +kernel, splitsNow_of (by decide +kernel)⟩

theorem witness_ModeAndLimitsAreWritten :
    demo.mayIssue [.sr 2 63] ∧ modeIllegal ((demo.sreg 63).setWidth 32) = false ∧ demo.fs.phase = 0 ∧
    Instr.wf (.setmodeF false .et (.short 12)) = true ∧ demo.mayIssue [.sr 2 0] :=
  ⟨mayIssue_of_canIssue (by decide +kernel), by decide +kernel, by decide +kernel, by decide +kernel, mayIssue_of_canIssue (by decide +kernel)⟩
theorem witness_MfsrReadsSpecialRegisters : demo.mayIssue [.sd 1 63] ∧ SReg.xpc ≠ .ecnt ∧ SReg.xpc ≠ .cyc :=
  ⟨mayIssue_of_canIssue (by decide +kernel), by decide +kernel⟩
/-- The wave is at handler level in slot A. -/
def handling : State := onWave (fun w => { w with handler := some false, xpc := 0x10004, xmode := 0x49 })
/-- A handler is declared at 0x40 above the descriptor. -/
def handled : State := onLaunch (fun l => { l with handler := 0x40 })
theorem witness_MtsrWritesSpecialRegisters :
    (demo.mayIssue [.sr 2 5] ∧ demo.windowsClosed ∧ SReg.writable .gexposed = true ∧ SReg.writable .estat = true ∧ handlerReg .gexposed = false ∧
      handlerReg .estat = false) ∧
    (handling.mayIssue [.sr 2 5] ∧ handling.windowsClosed ∧ SReg.writable .xmode = true ∧ handling.fw.handler.isSome = true ∧
      modeIllegal ((handling.sreg 5).setWidth 32) = false) :=
  ⟨⟨mayIssue_of_canIssue (by decide +kernel), windowsClosed_of (by decide +kernel), by decide +kernel⟩, mayIssue_of_canIssue (by decide +kernel), windowsClosed_of (by decide +kernel), by decide +kernel⟩
theorem witness_YieldRegionAndWaitcComplete :
    demo.fs.phase = 0 ∧ demo.mayIssue [.sr 1 2, .sr 2 3] ∧ demo.windowsClosed ∧ demo.fw.handler = none ∧ demo.fw.pend = [] ∧ demo.mayIssue [.sr 2 2] ∧
    demo.fb.counter .st ≤ (demo.sreg 2).toNat ∧ demo.fb.counter .ld ≤ ((Imm.short 0).ext true 64).toNat :=
  ⟨by decide +kernel, mayIssue_of_canIssue (by decide +kernel), windowsClosed_of (by decide +kernel), by decide +kernel, by decide +kernel, mayIssue_of_canIssue (by decide +kernel), by decide +kernel, by decide +kernel⟩
/-- Access 7 has read a table of one target. -/
def tabling : State :=
  { inPhase 1 with accs := [(7, { Acc.zero with kind := .tab, pieces := [{ Piece.zero with n := 8, st := .passed, val := [0x10, 0, 1, 0, 0, 0, 0, 0] },
      { Piece.zero with lane := 1, n := 8, st := .passed, val := [0x20, 0, 1, 0, 0, 0, 0, 0] }] })] }
theorem witness_TabsetRegistersItsTable :
    (scalars.mayIssue [.sr 2 63, .sr 3 3] ∧ scalars.windowsClosed ∧ (scalars.sreg 63).toNat % 8 = 0 ∧ 1 ≤ (scalars.sreg 3).toNat ∧ (scalars.sreg 3).toNat ≤ 256 ∧
      canonical (scalars.sreg 63) = true ∧ canonical (scalars.sreg 63 + BitVec.ofNat 64 (8 * (scalars.sreg 3).toNat)) = true ∧
      ∃ ps, scalars.tablePlaces (scalars.sreg 63) ((scalars.sreg 3).toNat + 1) = .ok ps) ∧
    (tabling.fs.phase = 1 ∧ (∀ p ∈ (tabling.acc tabling.fs.ref).pieces, p.conf = none ∧ p.err = none) ∧
      (tabling.acc tabling.fs.ref).pieces.map (fun p => BitVec.ofNat 64 (leNat p.val)) = [0x10010, 0x10020] ∧
      tabling.badEntry 0x10010 = false ∧ tabling.badEntry 0x10020 = false) :=
  ⟨⟨mayIssue_of_canIssue (by decide +kernel), windowsClosed_of (by decide +kernel), by decide +kernel, by decide +kernel, by decide +kernel, by decide +kernel, by decide +kernel, ok_of_places (by decide +kernel)⟩, by decide +kernel, by decide +kernel, by decide +kernel, by decide +kernel, by decide +kernel⟩
theorem witness_TrapEntersTheHandler :
    (handled.fs.phase = 0 ∧ handled.windowsClosed ∧ handled.fw.handler = none ∧ handled.fl.handler ≠ 0) ∧
    isPfx 0x7CFFFFFF = true ∧ isPfx 0x7D000000 = true ∧ fMaj 0x18000042 = 0x18 :=
  ⟨⟨by decide +kernel, windowsClosed_of (by decide +kernel), by decide +kernel⟩, by decide +kernel⟩
theorem witness_RteReturnsAndHaltEnds :
    handling.fs.phase = 0 ∧ handling.windowsClosed ∧ handling.fw.handler.isSome = true ∧ handling.fw.xpc.toNat % 4 = 0 :=
  ⟨by decide +kernel, windowsClosed_of (by decide +kernel), by decide +kernel⟩
theorem witness_LaunchQueuesItsRecord : demo.mayIssue [.sr 1 5] ∧ demo.windowsClosed ∧ (demo.mgmt.lauq.get [] demo.fl.ctx).length < 256 :=
  ⟨mayIssue_of_canIssue (by decide +kernel), windowsClosed_of (by decide +kernel), by decide +kernel⟩
theorem witness_BarriersAreLeft : (inPhase 3).fs.phase = 3 ∧ (inPhase 2).fs.phase = 2 ∧ (inPhase 2).fw.pend = [] ∧
    ∀ b ∈ [BarId.blk 15, .grp 0, .grp 255], ∃ i, (∃ S k, i = Instr.bar S k (some 7) ∧ b = .blk k.toNat) ∨ (∃ S k, i = Instr.barw S k (some 7) ∧ b = .blk k.toNat) ∨
      (∃ S k, i = Instr.gbar S k (some 7) ∧ b = .grp k.toNat) :=
  ⟨by decide +kernel, by decide +kernel, by decide +kernel, fun b hb => by
    simp only [List.mem_cons, List.not_mem_nil, or_false] at hb
    rcases hb with rfl | rfl | rfl
    · exact ⟨_, .inl ⟨false, 15, rfl, rfl⟩⟩
    · exact ⟨_, .inr (.inr ⟨false, 0, rfl, rfl⟩)⟩
    · exact ⟨_, .inr (.inr ⟨false, 255, rfl, rfl⟩)⟩⟩
theorem witness_ExitEndsItsWave : (inPhase 3).fs.phase = 3 := by decide +kernel

/-! ## Witnesses: guesses -/

/-- A tag on v4, four lanes guessed, whose truth has arrived, and the claim-and-compare that has passed. -/
def theTag : GTag := ⟨5, 4, 1, 0x0F, [L8.rep 1], some [L8.rep 2], none, 0⟩
def tagged : State :=
  { (onWave (fun w => { w with tags := [theTag], epoch := true, slotA := { w.slotA with phase := 1 } })) with
    accs := [(5, { Acc.zero with kind := .ld .w false, dst := 4, regs := 1, guessed := true, fell := true }),
      (6, { Acc.zero with kind := .truth 5, pieces := [{ Piece.zero with n := 4, st := .acked, val := [2, 0, 0, 0] }] })] }
/-- Consuming the tags of a register is done, and at most one tag is left. -/
def consumes (s : State) (d : Nat) : Bool :=
  match s.consume (s.tagsOn d) with
  | .done u => decide (u.fw.tags.length ≤ 1)
  | _ => false
theorem apart_of {ts : List GTag} (h : ts.length ≤ 1) : apartTags ts := by
  match ts, h with
  | [], _ => intro x hx; simp at hx
  | [a], _ =>
    intro x hx y hy r _ _
    rw [List.mem_singleton.1 hx, List.mem_singleton.1 hy]
theorem consumes_of {s : State} {d : Nat} (h : consumes s d = true) : ∃ u, s.consume (s.tagsOn d) = .done u ∧ apartTags u.fw.tags := by
  unfold consumes at h
  split at h
  · rename_i u hu
    exact ⟨u, hu, apart_of (by simpa using h)⟩
  · simp at h
/-- Consuming every tag of the wave is done. -/
def settles (s : State) : Bool := match s.consume s.fw.tags with | .done _ => true | _ => false
theorem settles_of {s : State} (h : settles s = true) : ∃ u, s.consume s.fw.tags = .done u := by
  unfold settles at h; split at h
  · exact ⟨_, ‹_›⟩
  · simp at h
theorem witness_GuessInstructionsSettleGuesses :
    (demo.guardTrap = none ∧ demo.mayIssue [demo.opV 2 255] ∧ demo.runsNow [demo.opV 1 255] ∧ demo.runsNow [demo.opV 2 0] ∧ demo.tagsOn 255 = [] ∧
      apartTags demo.fw.tags) ∧
    (tagged.guardTrap = none ∧ tagged.runsNow [tagged.opV 1 4] ∧ tagged.runsNow [tagged.opV 2 4] ∧ tagged.tagsOn 4 = [theTag] ∧ apartTags tagged.fw.tags ∧
      ∃ u, tagged.consume (tagged.tagsOn 4) = .done u ∧ apartTags u.fw.tags) ∧
    (tagged.runsNow [.sd 1 9] ∧ ∃ u, tagged.consume tagged.fw.tags = .done u) ∧ (demo.runsNow [.sd 1 9] ∧ ∃ u, demo.consume demo.fw.tags = .done u) :=
  ⟨⟨by decide +kernel, mayIssue_of_canIssue (by decide +kernel), runsNow_of (by decide +kernel) (by decide +kernel), runsNow_of (by decide +kernel) (by decide +kernel), by decide +kernel, apart_of (by decide +kernel)⟩,
    ⟨by decide +kernel, .inl (by decide +kernel), .inl (by decide +kernel), by decide +kernel, apart_of (by decide +kernel), consumes_of (by decide +kernel)⟩, ⟨.inl (by decide +kernel), settles_of (by decide +kernel)⟩,
    runsNow_of (by decide +kernel) (by decide +kernel), settles_of (by decide +kernel)⟩

/-! ## Witnesses: memory instructions -/

/-- s2 is an address of the mapped page, v1 holds offsets 16 apart, v4 and v5 the addresses of eight words, v6 data. -/
def memWave (w : Wave) : Wave :=
  { w with sregs := [(2, ⟨0x10000, false⟩)],
           vregs := [(1, ⟨L8.ofFn (fun l => BitVec.ofNat 32 (16 * l)), 0⟩), (4, ⟨L8.ofFn (fun l => BitVec.ofNat 32 (0x10000 + 16 * l)), 0⟩), (6, ⟨L8.ofFn (fun l => BitVec.ofNat 32 l), 0⟩)] }
def data : State := onWave memWave
/-- The same with lane 7 a pad lane; with every lane a pad lane; in speculate mode with the data of lane 0 a guess. -/
def padded : State := onWave (fun w => { memWave w with pad := 0x80 })
def allPad : State := onWave (fun w => { memWave w with pad := 0xFF })
def guessing : State :=
  onWave (fun w => { memWave w with vregs := (6, ⟨L8.rep 3, 1⟩) :: (memWave w).vregs, slotA := { w.slotA with path := { w.slotA.path with mode := 0x4000 } } })
/-- Every load form, on a state. -/
def loadRows : List Instr :=
  [.ldB false false 0 1 2 7, .ldBS false 255 1 2 7, .ldH false false 3 1 2 0, .ldHS false 3 1 2 0, .ldW false 3 1 2 0, .ldD false 8 1 2 0, .ldQ false 252 1 2 0]
/-- The load may issue, its counter has room, no operand is guessed, and its lanes pass. -/
def loadReady (s : State) (i : Instr) : Bool :=
  match loadForm i with
  | some f => canIssue s f.ops && decide (s.fb.counter .ld < 4095) && (s.guardGuess &&& s.touched == 0) && ((s.vreg f.m.toNat).guess &&& s.touched == 0) &&
      (checkedPlaces (s.checkLanes s.touched (s.vaOf f.n f.m) f.wd.bytes .read 1 anywhere 0 none)).isSome
  | none => false
theorem loadReady_of {s : State} {i : Instr} (h : loadReady s i = true) :
    ∃ f ps, loadForm i = some f ∧ s.mayIssue f.ops ∧ s.fb.counter .ld < 4095 ∧
      (s.strict = true → s.guardGuess &&& s.touched = 0 ∧ (s.vreg f.m.toNat).guess &&& s.touched = 0) ∧
      s.checkLanes s.touched (s.vaOf f.n f.m) f.wd.bytes .read 1 anywhere 0 none = .ok ps := by
  unfold loadReady at h
  split at h
  · rename_i f hf
    simp only [Bool.and_eq_true, decide_eq_true_eq, beq_iff_eq] at h
    obtain ⟨ps, hp⟩ := ok_of_places h.2
    exact ⟨f, ps, hf, mayIssue_of_canIssue h.1.1.1.1, h.1.1.1.2, fun _ => ⟨h.1.1.2, h.1.2⟩, hp⟩
  · simp at h
theorem witness_LoadsIssueTheirRequests : ∀ s ∈ [data, padded, allPad], ∀ i ∈ loadRows, ∃ f ps, loadForm i = some f ∧ s.mayIssue f.ops ∧
      s.fb.counter .ld < 4095 ∧ (s.strict = true → s.guardGuess &&& s.touched = 0 ∧ (s.vreg f.m.toNat).guess &&& s.touched = 0) ∧
      s.checkLanes s.touched (s.vaOf f.n f.m) f.wd.bytes .read 1 anywhere 0 none = .ok ps := by
  have h : ∀ s ∈ [data, padded, allPad], ∀ i ∈ loadRows, loadReady s i = true := by decide +kernel
  exact fun s hs i hi => loadReady_of (h s hs i hi)

/-- The mapped offsets of v1 lie inside the scratch of the block; the launch has 16 KiB. -/
theorem witness_ScratchAccessesReadAndWrite : ∀ s ∈ [data, padded, allPad], ∀ wd ∈ [Width.b, Width.h, Width.w, Width.d, Width.q],
    s.fb.counter .sc < 4095 ∧ (s.strict = true → s.guardGuess &&& s.touched = 0) ∧ s.mayIssue [.v 1 8 wd.regs, .v 2 1 1] ∧ s.windowsClosed ∧
    s.fb.scratch.wf = true ∧ (s.vreg 1).guess &&& s.touched = 0 ∧ s.groupGuess 8 wd.regs &&& s.touched = 0 ∧
    s.checkScratch s.touched (s.offOf 1) wd.bytes false = none ∧ s.checkScratch s.touched (s.offOf 1) wd.bytes true = none := by
  have h : ∀ s ∈ [data, padded, allPad], ∀ wd ∈ [Width.b, Width.h, Width.w, Width.d, Width.q],
      s.fb.counter .sc < 4095 ∧ s.guardGuess &&& s.touched = 0 ∧ canIssue s [.v 1 8 wd.regs, .v 2 1 1] = true ∧
      (s.windowOpen s.focus.wave false || s.windowOpen s.focus.wave true) = false ∧
      s.fb.scratch.wf = true ∧ (s.vreg 1).guess &&& s.touched = 0 ∧ s.groupGuess 8 wd.regs &&& s.touched = 0 ∧
      (s.checkScratch s.touched (s.offOf 1) wd.bytes false).isNone = true ∧ (s.checkScratch s.touched (s.offOf 1) wd.bytes true).isNone = true := by decide +kernel
  intro s hs wd hw
  obtain ⟨a, b, c, d, e, f, g, x, y⟩ := h s hs wd hw
  exact ⟨a, fun _ => b, mayIssue_of_canIssue c, windowsClosed_of d, e, f, g, by simpa using x, by simpa using y⟩

theorem witness_ScalarAccessesIssueTheirRequests :
    (∀ i ∈ [(Instr.sldD false 9 2 8191, Width.d), (Instr.sldW false 9 2 255, Width.w)], scalarLoad i.1 = some (i.2, 9, 2, 255)) ∧
    data.mayIssue [.sd 1 9, .sr 2 2] ∧ data.fb.counter .ld < 4095 ∧
    (∃ ps, data.checkLanes 1 (fun _ => data.scalarVa 2 255 .d) 8 .read 3 anywhere 0 (some data.mask) = .ok ps) ∧
    (∃ ps, data.checkLanes 1 (fun _ => data.scalarVa 2 255 .w) 4 .read 3 anywhere 0 (some data.mask) = .ok ps) ∧
    (∀ i ∈ [(Instr.sstD false 9 2 255, Width.d), (Instr.sstW false 9 2 255, Width.w)], scalarStore i.1 = some (i.2, 9, 2, 255)) ∧
    data.mayIssue [.sr 1 9, .sr 2 2] ∧ data.fb.counter .st < 4095 ∧
    (∃ ps, data.checkLanes 1 (fun _ => data.scalarVa 2 255 .d) 8 .write 3 anywhere 0 (some data.mask) = .ok ps) ∧
    (∃ ps, data.checkLanes 1 (fun _ => data.scalarVa 2 255 .w) 4 .write 3 anywhere 0 (some data.mask) = .ok ps) :=
  ⟨by decide +kernel, mayIssue_of_canIssue (by decide +kernel), by decide +kernel, ok_of_places (by decide +kernel), ok_of_places (by decide +kernel), by decide +kernel,
   mayIssue_of_canIssue (by decide +kernel), by decide +kernel, ok_of_places (by decide +kernel), ok_of_places (by decide +kernel)⟩

/-- Access 7 of a slot at phase 1 has been answered, with a cell for each of its linked lanes. -/
theorem witness_StoresIssueTheirRequests :
    (∀ wd ∈ [Width.b, Width.w, Width.q], data.mayIssue [.v 1 8 wd.regs, .v 2 1 1, .sr 3 2] ∧ data.fb.counter .st < 4095 ∧
      (data.strict = true → data.guardGuess &&& data.touched = 0) ∧ ((data.vreg 1).guess ||| data.groupGuess 8 wd.regs) &&& data.touched = 0 ∧
      ∃ ps, data.checkLanes data.touched (data.vaOf 2 1) wd.bytes .write 1 anywhere 0 none = .ok ps) ∧
    (guessing.mayIssue [.v 1 6 1, .v 2 1 1, .sr 3 2] ∧ guessing.fb.counter .st < 4095 ∧ guessing.windowsClosed ∧ guessing.strict = false ∧
      ((guessing.vreg 1).guess ||| guessing.groupGuess 6 1) &&& guessing.touched ≠ 0 ∧
      ∃ ps, guessing.checkLanes guessing.touched (guessing.vaOf 2 1) 4 .write 1
        (fun l p => (((guessing.vreg 1).guess ||| guessing.groupGuess 6 1) &&& guessing.touched).getLsbD l && p.tgt != .device) 4 none = .ok ps) ∧
    ((inPhase 1).fs.phase = 1 ∧ ((inPhase 1).acc (inPhase 1).fs.ref).noCell = false) := by
  refine ⟨?_, ⟨mayIssue_of_canIssue (by decide +kernel), by decide +kernel, windowsClosed_of (by decide +kernel), by decide +kernel, by decide +kernel, ok_of_places (by decide +kernel)⟩, by decide +kernel⟩
  have h : ∀ wd ∈ [Width.b, Width.w, Width.q], canIssue data [.v 1 8 wd.regs, .v 2 1 1, .sr 3 2] = true ∧
      ((data.vreg 1).guess ||| data.groupGuess 8 wd.regs) &&& data.touched = 0 ∧
      (checkedPlaces (data.checkLanes data.touched (data.vaOf 2 1) wd.bytes .write 1 anywhere 0 none)).isSome = true := by decide +kernel
  exact fun wd hw => ⟨mayIssue_of_canIssue (h wd hw).1, by decide +kernel, fun _ => by decide +kernel, (h wd hw).2.1, ok_of_places (h wd hw).2.2⟩

/-- One lane active. -/
def oneLane : State := onWave (fun w => { memWave w with slotA := { w.slotA with path := { w.slotA.path with mask := 1 } } })
/-- No class conflict stops an access of the issuing wave to a piece: as a Boolean. -/
def classKept (u : State) (p : Piece) (wr : Bool) : Bool := !(u.lookup (u.clusterOf u.fb.pcore) u.fl.ctx p.va).conflicts (coreDie u.fb.pcore) wr
theorem classAllows_of {u : State} {p : Piece} {wr : Bool} (h : classKept u p wr = true) : classAllows u p wr := fun _ => by
  simpa [classKept] using h
/-- One lane passes, and its line may be copied everywhere; the array holds it back, or not. -/
def prefOne (s : State) (held : Bool) (ps : List Piece) : Bool :=
  match ps with
  | [p] =>
    let u := (s.seen [.v 2 1 1, .sr 3 2]).lookups [p.va]
    p.tgt == .device && !s.prefSkips p.pa && !s.mscDenies s.fl.ctx p.pa .read && [PrefLevel.l1, .l2, .msc].all (fun lv => u.prefWaits lv p.pa == held) &&
      classKept u p false && s.caches p && decide ((s.regions.get [] (dieOf p.pa)).length < regionCap) &&
      (lineSecs (lineOf p.pa)).all (fun x => !s.sectorBad x && !s.lost.contains x)
  | _ => false
theorem prefOne_of {s : State} {held : Bool} {ps : List Piece} (h : prefOne s held ps = true) : ∃ p, ps = [p] ∧ p.tgt = .device ∧ s.prefSkips p.pa = false ∧
    s.mscDenies s.fl.ctx p.pa .read = false ∧ (∀ lv, ((s.seen [.v 2 1 1, .sr 3 2]).lookups [p.va]).prefWaits lv p.pa = held) ∧
    classAllows ((s.seen [.v 2 1 1, .sr 3 2]).lookups [p.va]) p false ∧ s.caches p = true ∧ (s.regions.get [] (dieOf p.pa)).length < regionCap ∧
    (∀ x ∈ lineSecs (lineOf p.pa), s.sectorBad x = false ∧ s.lost.contains x = false) := by
  unfold prefOne at h
  split at h
  · rename_i p
    simp only [Bool.and_eq_true, decide_eq_true_eq, beq_iff_eq, Bool.not_eq_true', List.all_eq_true] at h
    exact ⟨p, rfl, h.1.1.1.1.1.1.1, h.1.1.1.1.1.1.2, h.1.1.1.1.1.2, fun lv => h.1.1.1.1.2 lv (by cases lv <;> simp), classAllows_of h.1.1.1.2, h.1.1.2, h.1.2, h.2⟩
  · simp at h
/-- The same under means 5 of the governor, which holds the array. -/
def oneHeld : State := { oneLane with mgmt := { oneLane.mgmt with pwrstat := 0x8000 } }
theorem witness_PrefetchesFillTheirLevel : ∀ x ∈ [(oneLane, false), (oneHeld, true)],
    ∀ i ∈ [Instr.prefL1 false 1 2, .prefL2 false 1 2, .prefMsc false 1 2], ∃ lv p, prefForm i = some (lv, 1, 2) ∧ x.1.mayIssue [.v 2 1 1, .sr 3 2] ∧
      (∀ c l w, l ∈ (x.1.core c).l1 → w ∈ l.words → w.2.st ≠ .u) ∧ x.1.prefLanes (x.1.vaOf 2 1) 1 = [p] ∧ p.tgt = .device ∧
      x.1.prefSkips p.pa = false ∧ x.1.mscDenies x.1.fl.ctx p.pa .read = false ∧
      ((x.1.seen [.v 2 1 1, .sr 3 2]).lookups [p.va]).prefWaits lv p.pa = x.2 ∧ classAllows ((x.1.seen [.v 2 1 1, .sr 3 2]).lookups [p.va]) p false ∧
      x.1.caches p = true ∧ (x.1.regions.get [] (dieOf p.pa)).length < regionCap ∧
      (∀ k ∈ lineSecs (lineOf p.pa), x.1.sectorBad k = false ∧ x.1.lost.contains k = false) := by
  intro x hx i hi
  have hm : x.1.mayIssue [.v 2 1 1, .sr 3 2] := by
    simp only [List.mem_cons, List.not_mem_nil, or_false] at hx
    obtain rfl | rfl := hx <;> exact mayIssue_of_canIssue (by decide +kernel)
  have hu : ∀ c l w, l ∈ (x.1.core c).l1 → w ∈ l.words → w.2.st ≠ .u := by
    simp only [List.mem_cons, List.not_mem_nil, or_false] at hx
    obtain rfl | rfl := hx <;> exact fun c l w hl => nomatch hl
  have hp : prefOne x.1 x.2 (x.1.prefLanes (x.1.vaOf 2 1) 1) = true := by
    simp only [List.mem_cons, List.not_mem_nil, or_false] at hx
    obtain rfl | rfl := hx <;> decide
  obtain ⟨p, h, ht, hs, hd, hw, hk, hc, hr, hb⟩ := prefOne_of hp
  have : i = .prefL1 false 1 2 ∨ i = .prefL2 false 1 2 ∨ i = .prefMsc false 1 2 := by simpa using hi
  rcases this with rfl | rfl | rfl
  · exact ⟨.l1, p, rfl, hm, hu, h, ht, hs, hd, hw _, hk, hc, hr, hb⟩
  · exact ⟨.l2, p, rfl, hm, hu, h, ht, hs, hd, hw _, hk, hc, hr, hb⟩
  · exact ⟨.msc, p, rfl, hm, hu, h, ht, hs, hd, hw _, hk, hc, hr, hb⟩

theorem witness_DraftsAreAskedAndAnswered :
    (∀ i ∈ [(Instr.draftW false false 6 1 2 3, Width.w), (Instr.draftD false 6 1 2 3, Width.d)], draftForm i.1 = some (i.2, 6, 1, 2, 3) ∧
      data.mayIssue [.v 1 6 i.2.regs, .v 2 1 1, .sr 3 2] ∧ data.windowsClosed ∧ data.fb.counter .st < 4095 ∧
      (data.strict = true → data.guardGuess &&& data.touched = 0) ∧ ((data.vreg 1).guess ||| data.groupGuess 6 i.2.regs) &&& data.touched = 0 ∧ data.touched ≠ 0 ∧
      ∃ ps, data.checkLanes data.touched (data.vaOf 2 1) i.2.bytes .draft 1 (fun _ p => p.tgt != .device) 4 none = .ok ps) ∧
    ((inPhase 1).fs.phase = 1 ∧ ((inPhase 1).acc (inPhase 1).fs.ref).noCell = false) ∧
    (data.mayIssue [.v 2 1 1, .sr 3 2] ∧ (data.vreg 1).guess &&& data.touched = 0 ∧
      (∃ ps, data.checkLanes data.touched (data.vaOf 2 1) 4 .draft 1 anywhere 0 none = .ok ps) ∧
      ∃ ps, allPad.checkLanes allPad.touched (allPad.vaOf 2 1) 4 .draft 1 anywhere 0 none = .ok ps) := by
  have h : ∀ i ∈ [(Instr.draftW false false 6 1 2 3, Width.w), (Instr.draftD false 6 1 2 3, Width.d)], draftForm i.1 = some (i.2, 6, 1, 2, 3) ∧
      canIssue data [.v 1 6 i.2.regs, .v 2 1 1, .sr 3 2] = true ∧ ((data.vreg 1).guess ||| data.groupGuess 6 i.2.regs) &&& data.touched = 0 ∧
      (checkedPlaces (data.checkLanes data.touched (data.vaOf 2 1) i.2.bytes .draft 1 (fun _ p => p.tgt != .device) 4 none)).isSome = true := by decide +kernel
  exact ⟨fun i hi => ⟨(h i hi).1, mayIssue_of_canIssue (h i hi).2.1, windowsClosed_of (by decide +kernel), by decide +kernel, fun _ => by decide +kernel, (h i hi).2.2.1, by decide +kernel,
    ok_of_places (h i hi).2.2.2⟩, by decide +kernel, mayIssue_of_canIssue (by decide +kernel), by decide +kernel, ok_of_places (by decide +kernel), ok_of_places (by decide +kernel)⟩

/-- The launch has one group of one term; the block is in it. -/
def grouped : State := { data with launches := [(0, { bootLaunch with groups := [[⟨0, 1, 1⟩]], ngrp := 1 })] }
/-- MODE.ET = 2 over the data of `grouped`. -/
def groupedFloat : State :=
  { grouped with waves := [(0, { data.fw with slotA := { data.fs with path := { data.fs.path with mode := 0x40 } } })] }
/-- The slot is at phase 2: the release of its unit is complete. -/
def released : State := { grouped with waves := [(0, { data.fw with slotA := { data.fs with phase := 2 } })] }
def atomicRows : List Instr :=
  [.aadd false 6 4 6 none, .amin false 6 4 7 none, .amax false 0 4 6 (some ⟨.w, .rlx⟩), .aand false 6 4 6 (some ⟨.b, .rlx⟩), .aor false 6 4 6 (some ⟨.d, .rlx⟩),
   .axor false 6 4 6 (some ⟨.g 0, .rlx⟩), .axchg false 6 4 6 (some ⟨.v, .acq⟩), .acas false 255 4 6 7 ⟨.s, .acq⟩]
def releasingRows : List Instr := [.aadd false 6 4 6 (some ⟨.s, .rel⟩), .acas false 6 4 6 7 ⟨.g 0, .ar⟩]
/-- Everything that an atomic checks, on a state. -/
def atomicGood (s : State) (f : AtomicForm) : Bool :=
  !s.fl.fom && (s.groupTrap f.m.scope).isNone && (s.guardGuess &&& s.touched == 0) &&
    ((s.groupGuess f.a.toNat 2 ||| ((s.vreg f.b.toNat).guess ||| (s.vreg f.c.toNat).guess)) &&& s.touched == 0) &&
    (checkedPlaces (s.checkLanes s.touched (s.pairVa f.a) 4 .atomic 1 s.noAtomics 5 none)).isSome
def atomicReady (s : State) (i : Instr) (P : AtomicForm → Bool) : Bool := match atomicForm i with | some f => atomicGood s f && P f | none => false
theorem atomicReady_of {s : State} {i : Instr} {P : AtomicForm → Bool} (h : atomicReady s i P = true) : ∃ f ps, atomicForm i = some f ∧ atomicMay s f ∧
    s.checkLanes s.touched (s.pairVa f.a) 4 .atomic 1 s.noAtomics 5 none = .ok ps ∧ P f = true := by
  unfold atomicReady at h
  split at h
  · rename_i f hf
    simp only [atomicGood, Bool.and_eq_true, beq_iff_eq, Bool.not_eq_true', Option.isNone_iff_eq_none] at h
    obtain ⟨ps, hp⟩ := ok_of_places h.1.2
    exact ⟨f, ps, hf, ⟨h.1.1.1.1.1, h.1.1.1.1.2, fun _ => h.1.1.1.2, h.1.1.2⟩, hp, h.2⟩
  · simp at h
/-- The atomic issues at once. -/
def issuesAtOnce (s : State) (f : AtomicForm) : Bool := canIssue s f.ops && f.ets.getLsbD (mET s.mode) && !amodReleases f.m
theorem witness_AtomicsIssueTheirRequests :
    grouped.windowsClosed ∧ groupedFloat.windowsClosed ∧
    (∀ i ∈ atomicRows, ∃ f ps, atomicForm i = some f ∧ atomicMay grouped f ∧
      grouped.checkLanes grouped.touched (grouped.pairVa f.a) 4 .atomic 1 grouped.noAtomics 5 none = .ok ps ∧ issuesAtOnce grouped f = true) ∧
    (∃ f ps, atomicForm (.afadd false 6 4 6 none) = some f ∧ atomicMay groupedFloat f ∧
      groupedFloat.checkLanes groupedFloat.touched (groupedFloat.pairVa f.a) 4 .atomic 1 groupedFloat.noAtomics 5 none = .ok ps ∧
      issuesAtOnce groupedFloat f = true) ∧
    (released.fs.phase = 2 ∧ released.fw.pend = [] ∧ released.fw.lost = [] ∧ ∀ i ∈ releasingRows, ∃ f ps, atomicForm i = some f ∧ atomicMay released f ∧
      released.checkLanes released.touched (released.pairVa f.a) 4 .atomic 1 released.noAtomics 5 none = .ok ps ∧ amodReleases f.m = true) ∧
    (inPhase 3).fs.phase = 3 := by
  have h : ∀ i ∈ atomicRows, atomicReady grouped i (issuesAtOnce grouped) = true := by decide +kernel
  have k : ∀ i ∈ releasingRows, atomicReady released i (fun f => amodReleases f.m) = true := by decide +kernel
  exact ⟨windowsClosed_of (by decide +kernel), windowsClosed_of (by decide +kernel), fun i hi => atomicReady_of (h i hi), atomicReady_of (by decide +kernel),
    ⟨by decide +kernel, by decide +kernel, by decide +kernel, fun i hi => atomicReady_of (k i hi)⟩, by decide +kernel⟩

/-- The launch runs its blocks in fixed order (R63). -/
def fixedOrder : State := { data with launches := [(0, { bootLaunch with fom := true })] }
/-- The page is uncached (POL 1, R98), so no L1 keeps a partial of it. -/
def uncachedPage : State := { data with mem := (bootMem [] []).putNat bootTable 0x13F 8 }
/-- Pieces that are there and that no L1 keeps. -/
def sentHome (s : State) (c : Checked) : Bool :=
  match c with
  | .ok ps => !(s.atomicPieces 4 6 ps).isEmpty && (s.atomicPieces 4 6 ps).all (fun p => !s.keepsU p)
  | _ => false
theorem sentHome_of {s : State} {c : Checked} (h : sentHome s c = true) :
    ∃ ps, c = .ok ps ∧ (∀ p ∈ s.atomicPieces 4 6 ps, s.keepsU p = false) ∧ s.atomicPieces 4 6 ps ≠ [] := by
  unfold sentHome at h
  split at h
  · rename_i ps
    simp only [Bool.and_eq_true, Bool.not_eq_true', List.all_eq_true, List.isEmpty_eq_false_iff] at h
    exact ⟨ps, rfl, h.2, h.1⟩
  · simp at h
/-- One piece, which the L1 of the core keeps, and whose page keeps its class. -/
def keptOne (s : State) (c : Checked) : Bool :=
  match c with
  | .ok ps => match s.atomicPieces 4 6 ps with
    | [p] => s.keepsU p && classKept ((s.boundary s.focus.wave).lookups [p.va]) p true
    | _ => false
  | _ => false
theorem keptOne_of {s : State} {c : Checked} (h : keptOne s c = true) : ∃ ps p, c = .ok ps ∧ s.atomicPieces 4 6 ps = [p] ∧ s.keepsU p = true ∧
    classKept ((s.boundary s.focus.wave).lookups [p.va]) p true = true := by
  unfold keptOne at h
  split at h
  · rename_i ps
    split at h
    · rename_i p hp
      simp only [Bool.and_eq_true] at h
      exact ⟨ps, p, rfl, hp, h.1, h.2⟩
    · simp at h
  · simp at h
theorem witness_AredContributesItsLanes :
    (∀ s ∈ [data, fixedOrder, uncachedPage, oneLane], s.mayIssue [.v 2 4 2, .v 3 6 1] ∧ s.windowsClosed ∧ s.fb.counter .st < 4095 ∧ etsAtom.getLsbD (mET s.mode) = true ∧
      amodReleases (Machine.amodOf none) = false ∧ s.groupTrap (Machine.amodOf none).scope = none ∧ (s.strict = true → s.guardGuess &&& s.touched = 0) ∧
      (s.groupGuess 4 2 ||| (s.vreg 6).guess) &&& s.touched = 0 ∧ ∃ ps, s.checkLanes s.touched (s.pairVa 4) 4 .atomic 1 s.noAtomics 5 none = .ok ps) ∧
    (fixedOrder.fl.fom = true ∧ fixedOrder.bufCount + countLanes fixedOrder.touched ≤ 2048) ∧
    (uncachedPage.fl.fom = false ∧ ∃ ps, uncachedPage.checkLanes uncachedPage.touched (uncachedPage.pairVa 4) 4 .atomic 1 uncachedPage.noAtomics 5 none = .ok ps ∧
      (∀ p ∈ uncachedPage.atomicPieces 4 6 ps, uncachedPage.keepsU p = false) ∧ uncachedPage.atomicPieces 4 6 ps ≠ []) ∧
    (data.fw.epoch = false ∧ data.fw.pend = [] ∧ amodReleases (Machine.amodOf (some ⟨.s, .rel⟩)) = true ∧ data.groupTrap .s = none) ∧
    (released.fs.phase = 2 ∧ released.fw.pend = [] ∧ released.fw.lost = []) ∧
    (oneLane.fl.fom = false ∧ ∃ ps p, oneLane.checkLanes oneLane.touched (oneLane.pairVa 4) 4 .atomic 1 oneLane.noAtomics 5 none = .ok ps ∧
      oneLane.atomicPieces 4 6 ps = [p] ∧ oneLane.keepsU p = true ∧ classAllows ((oneLane.boundary oneLane.focus.wave).lookups [p.va]) p true) := by
  have h : ∀ s ∈ [data, fixedOrder, uncachedPage, oneLane], canIssue s [.v 2 4 2, .v 3 6 1] = true ∧ (s.windowOpen s.focus.wave false || s.windowOpen s.focus.wave true) = false ∧
      s.fb.counter .st < 4095 ∧ etsAtom.getLsbD (mET s.mode) = true ∧ (s.groupTrap (Machine.amodOf none).scope).isNone = true ∧ s.guardGuess &&& s.touched = 0 ∧
      (s.groupGuess 4 2 ||| (s.vreg 6).guess) &&& s.touched = 0 ∧
      (checkedPlaces (s.checkLanes s.touched (s.pairVa 4) 4 .atomic 1 s.noAtomics 5 none)).isSome = true := by decide +kernel
  have k : keptOne oneLane (oneLane.checkLanes oneLane.touched (oneLane.pairVa 4) 4 .atomic 1 oneLane.noAtomics 5 none) = true := by decide +kernel
  refine ⟨fun s hs => ?_, by decide +kernel, ⟨by decide +kernel, sentHome_of (by decide +kernel)⟩, by decide +kernel, by decide +kernel, by decide +kernel, ?_⟩
  rotate_left
  · obtain ⟨ps, p, a, b, c, d⟩ := keptOne_of k
    exact ⟨ps, p, a, b, c, classAllows_of d⟩
  obtain ⟨a, b, c, d, e, f, g, x⟩ := h s hs
  exact ⟨mayIssue_of_canIssue a, windowsClosed_of b, c, d, by decide +kernel, by simpa using e, fun _ => f, g, ok_of_places x⟩

/-- The slot is at phase 2 with 4,095 stores of the block counted, or with none. -/
def crowded : State := released.updBlock 0 (fun b => { b with flights := List.replicate 4095 ⟨.st, 7, false⟩ })
theorem crowded_counter : crowded.fb.counter .st = 4095 := by
  show (List.filter _ (List.replicate 4095 _)).length = 4095
  rw [List.filter_replicate]; simp
theorem witness_AredContributesItsLanes_after_its_release : ∀ x ∈ [(released, false), (crowded, true)],
    x.1.fs.phase = 2 ∧ x.1.fw.pend = [] ∧ x.1.fw.lost = [] ∧ (x.2 = true → 4095 ≤ x.1.fb.counter .st) ∧ (x.2 = false → x.1.fb.counter .st < 4095) ∧
      x.1.groupTrap .s = none ∧ x.1.fl.fom = false ∧ (x.1.groupGuess 4 2 ||| (x.1.vreg 6).guess) &&& x.1.touched = 0 ∧ x.1.guardGuess &&& x.1.touched = 0 ∧
      ∃ ps, x.1.checkLanes x.1.touched (x.1.pairVa 4) 4 .atomic 1 x.1.noAtomics 5 none = .ok ps := by
  intro x hx
  simp only [List.mem_cons, List.not_mem_nil, or_false] at hx
  obtain rfl | rfl := hx
  · exact ⟨by decide +kernel, by decide +kernel, by decide +kernel, by decide +kernel, fun _ => by decide +kernel, by decide +kernel, by decide +kernel, by decide +kernel, by decide +kernel, ok_of_places (by decide +kernel)⟩
  · exact ⟨by decide +kernel, by decide +kernel, by decide +kernel, fun _ => by rw [crowded_counter] <;> decide, by decide +kernel, by decide +kernel, by decide +kernel, by decide +kernel, by decide +kernel, ok_of_places (by decide +kernel)⟩

/-! ## Witnesses: fences and cache control -/

theorem witness_FencesComplete :
    (∀ sc ∈ [Scope.w, .b, .d, .v, .s, .g 0], grouped.mayIssue (scopeOpds 2 sc) ∧ grouped.windowsClosed ∧ grouped.groupTrap sc = none) ∧
    fenceReleases .acq = false ∧ fenceReleases .sc = true ∧ grouped.fw.epoch = false ∧ grouped.fw.pend = [] ∧
    (released.fs.phase = 2 ∧ released.fw.pend = [] ∧ released.fw.lost = []) ∧ (inPhase 3).fs.phase = 3 := by
  have h : ∀ sc ∈ [Scope.w, .b, .d, .v, .s, .g 0], canIssue grouped (scopeOpds 2 sc) = true ∧ (grouped.groupTrap sc).isNone = true := by decide +kernel
  exact ⟨fun sc hs => ⟨mayIssue_of_canIssue (h sc hs).1, windowsClosed_of (by decide +kernel), by simpa using (h sc hs).2⟩, by decide +kernel, by decide +kernel, by decide +kernel, by decide +kernel,
    by decide +kernel, by decide +kernel⟩
theorem scalars_seen (ops : List Opd) (h : (scalars.futuresOf ops).isEmpty = true) : scalars.seen ops = scalars := by simp [State.seen, h]
theorem witness_CacheControlCompletes :
    (demo.fs.phase = 0 ∧ demo.windowsClosed ∧ demo.fl.fom = false ∧ fixedOrder.fs.phase = 0 ∧ fixedOrder.windowsClosed ∧ fixedOrder.fl.fom = true) ∧
    (scalars.mayIssue [.sr 1 63, .sr 2 3] ∧ scalars.windowsClosed ∧
      (((scalars.seen [.sr 1 63, .sr 2 3]).rangePages (scalars.sreg 63).toNat (rangeLen (scalars.sreg 3))).all (scalars.seen [.sr 1 63, .sr 2 3]).partReadable) = true ∧
      (scalars.seen [.sr 1 63, .sr 2 3]).storesTo (scalars.sreg 63).toNat (rangeLen (scalars.sreg 3)) = []) :=
  ⟨⟨by decide +kernel, windowsClosed_of (by decide +kernel), by decide +kernel, by decide +kernel, windowsClosed_of (by decide +kernel), by decide +kernel⟩,
   mayIssue_of_canIssue (by decide +kernel), windowsClosed_of (by decide +kernel), by rw [scalars_seen _ (by decide +kernel)]; decide, by rw [scalars_seen _ (by decide +kernel)]; decide⟩
/-- An entry of the fixed-order buffer, which means 5 of the governor keeps from its home. -/
def heldFlush : State :=
  { fixedOrder with abufs := [⟨.kept, 0, 0x20000, 0, 0, 0, 0, 0, 0, .device, 0x20000, .add, false, 1⟩], mgmt := { fixedOrder.mgmt with pwrstat := 0x8000 } }
theorem witness_CacheControlCompletes_flush :
    (fixedOrder.flushBufs (fun e => e.block == 0)).flushOpen (fun e => e.block == 0) = false ∧
    (heldFlush.fs.phase = 0 ∧ heldFlush.windowsClosed ∧ heldFlush.fl.fom = true ∧
      (heldFlush.flushBufs (fun e => e.block == 0)).flushOpen (fun e => e.block == 0) = true) ∧ (inPhase 1).fs.phase = 1 :=
  ⟨by decide +kernel, ⟨by decide +kernel, windowsClosed_of (by decide +kernel), by decide +kernel, by decide +kernel⟩, by decide +kernel⟩
theorem witness_PclassSetsTheClass :
    scalars.mayIssue [.sr 1 63, .sr 2 3] ∧ scalars.windowsClosed ∧
      (∃ x, ((scalars.seen [.sr 1 63, .sr 2 3]).rangePages (scalars.sreg 63).toNat (rangeLen (scalars.sreg 3))).filter (fun x => (partPlace x).tgt == .device) = [x] ∧
        leafAllows x.1.leaf .write = true ∧
        ∃ e level at', (scalars.seen [.sr 1 63, .sr 2 3]).walk scalars.fl.ctx (fullVa x.1.va) = .leaf e level at') ∧
      scalars.cells = [] ∧ scalars.fb.pcore < 512 := by
  rw [scalars_seen _ (by decide +kernel)]
  exact ⟨mayIssue_of_canIssue (by decide +kernel), windowsClosed_of (by decide +kernel), ⟨(⟨0, 2 ^ 30, 2, 0x11F, 0x4000⟩, 0x10000, 0x10007), by decide +kernel, by decide +kernel, 0x11F, 2, 0x4000, rfl⟩, rfl, by decide +kernel⟩

/-! ## Witnesses: jobs, the matrix array, shapes and queues -/

/-- A memory tile of 32 rows of 32 E4M3 elements, the same in scratch, and 32 index words. -/
def memTile : Shape := { Shape.zero with base := 0x20000, et := 7, ndim := 2, d0 := 32, d1 := 32, s1 := 32 }
def scrTile : Shape := { memTile with base := 0, scr := true }
def indices : Shape := { Shape.zero with base := 0x30000, et := 1, d0 := 32 }
/-- The bytes of a little-endian number, and of a collective descriptor of one party: SRC, DST, COUNT 64, CID 1, ERRVA and ERRN. -/
def le (n v : Nat) : List Byte := leBytes v n
def collRecord : List Byte := le 8 0x40000 ++ le 8 0x50000 ++ le 4 64 ++ le 4 1 ++ le 8 0 ++ le 8 0 ++ le 8 0x60000 ++ le 4 1 ++ le 12 0
/-- Handles 0x1001, 0x1002 and 0x1004 name the shapes; stream 1 is bound; access 7 has read the descriptor; domain 0 has this device as its one party. -/
def engineState (phase : Nat) (record : List Byte) : State :=
  { (onWave (fun w => { w with sregs := [(1, ⟨0x1001, false⟩), (2, ⟨0x1002, false⟩), (4, ⟨0x1004, false⟩), (5, ⟨0x8000000000001001, false⟩), (6, ⟨0x10000, false⟩)],
                               slotA := { w.slotA with phase := phase, ref := 7 } })) with
    shapes := [(1, ⟨1, some memTile⟩), (2, ⟨1, some scrTile⟩), (4, ⟨1, some indices⟩)],
    blocks := [(0, { bootBlock with streams := [(1, some ⟨memTile, indices, 0, 0x1001, 0⟩)] })],
    accs := [(7, { Acc.zero with pieces := [{ Piece.zero with n := record.length, st := .acked, val := record }] })],
    mgmt := { demo.mgmt with colldom := [(0, 1)] } }
def engines : State := engineState 3 collRecord
def jobRows : List Instr :=
  [.cpyMs false false 10 2 1, .cpySm false false 10 1 2, .cpyMf false false 10 0 1, .cpySf false false 10 7 2, .cpyZd false 10 (.ms 2) 1 15, .cpyZd false 10 (.sm 1) 2 0,
   .cpyZd false 10 (.mf 0) 1 3, .cpyZd false 10 (.sf 0) 2 3, .cpym false 10 0 1 ⟨false, 2, 0, 0, 3⟩, .cpymSf false 10 4 2 ⟨true, 2, 0, 0, 3⟩, .gath false 10 1 1,
   .collAllreduce false 10 6, .collReducescatter false 10 6, .collAllgather false 10 6, .collBroadcast false 10 6, .collredo false 10 6]
/-- The job has its order and room. -/
def jobReady (s : State) (i : Instr) : Bool :=
  match jobForm s i with
  | some (.ok o, _, follow) => decide ((s.unitSlots o.unit).length < 256) && decide (s.feet.length < 4096) && (!follow || decide (s.fb.seqq.length < 16))
  | _ => false
theorem jobReady_of {s : State} {i : Instr} (h : jobReady s i = true) : ∃ o d follow, jobForm s i = some (.ok o, d, follow) ∧
    (s.unitSlots o.unit).length < 256 ∧ s.feet.length < 4096 ∧ (follow = true → s.fb.seqq.length < 16) := by
  unfold jobReady at h
  split at h
  · rename_i o d follow hf
    simp only [Bool.and_eq_true, Bool.or_eq_true, decide_eq_true_eq, Bool.not_eq_true'] at h
    exact ⟨o, d, follow, hf, h.1.1, h.1.2, fun hx => by simpa [hx] using h.2⟩
  · simp at h
theorem witness_JobsAreIssued : engines.fs.phase = 3 ∧ engines.fw.pend = [] ∧ ∀ i ∈ jobRows, ∃ o d follow, jobForm engines i = some (.ok o, d, follow) ∧
    (engines.unitSlots o.unit).length < 256 ∧ engines.feet.length < 4096 ∧ (follow = true → engines.fb.seqq.length < 16) := by
  have h : ∀ i ∈ jobRows, jobReady engines i = true := by decide +kernel
  exact ⟨by decide +kernel, by decide +kernel, fun i hi => jobReady_of (h i hi)⟩

/-- A tile of 32 rows of 32 E4M3 elements at the head of feeds 0 and 4. -/
def theTile : Tile := ⟨false, 7, 32, false, List.replicate 1024 0, []⟩
def fed : State := { engineState 0 [] with blocks := [(0, { bootBlock with feeds := [(0, ⟨[theTile], 0, 0, []⟩), (4, ⟨[theTile], 0, 0, []⟩)], preds := [(3, .known true)] })] }
theorem ok_of_isOk' {ε α : Type} {e : Except ε α} (h : (match e with | .ok _ => true | .error _ => false) = true) : ∃ x, e = .ok x := by
  cases e with
  | ok x => exact ⟨x, rfl⟩
  | error => simp at h
/-- The command finds its items, and they fit. -/
def commandReady (s : State) (c : SeqCmd) : Bool :=
  (s.fb.missing c).isNone && (match s.fb.item c.i c.pa, s.fb.item c.j c.pb with
    | some ta, some tb => (checkItems (s.fb.mapItem c) ta tb).isNone
    | _, _ => false)
theorem commandReady_of {s : State} {c : SeqCmd} (h : commandReady s c = true) : s.fb.missing c = none ∧ ∃ ta tb, s.fb.item c.i c.pa = some ta ∧
    s.fb.item c.j c.pb = some tb ∧ checkItems (s.fb.mapItem c) ta tb = none := by
  unfold commandReady at h
  split at h
  · rename_i ta tb ha hb
    simp only [Bool.and_eq_true, Option.isNone_iff_eq_none] at h
    exact ⟨h.1, ta, tb, ha, hb, h.2⟩
  · simp at h
theorem witness_MatrixCommandsExecute :
    ((engineState 0 []).mayIssue [.sr 2 1, .sr 3 4] ∧ (engineState 0 []).windowsClosed ∧ ∃ st, (engineState 0 []).checkStream ((engineState 0 []).handleReg 1) ((engineState 0 []).handleReg 4) = .ok st) ∧
    (∀ sk ∈ [false, true], fed.runsNow [.a 1 15, .feed 2] ∧
      let c := fed.command sk 15 0 0 (fed.fb.pred 3) none
      (fed.fb.missing c = none ∧ ∃ ta tb, fed.fb.item c.i c.pa = some ta ∧ fed.fb.item c.j c.pb = some tb ∧ checkItems (fed.fb.mapItem c) ta tb = none) ∧
      (∃ v, fed.fb.pred 3 = .known v) ∧ fed.fb.seqq.length < 16) ∧
    (demo.mayIssue [.sr 2 1, .sr 3 2] ∧ demo.windowsClosed) ∧
    (data.mayIssue [.sr 2 2, .a 3 15] ∧ data.windowsClosed ∧ data.fb.counter .st < 4095 ∧ (∀ c ∈ data.fb.seqq, c.aD ≠ 15) ∧
      ∃ ps, data.checkLanes 1 (fun _ => data.sreg 2) 32 .write 3 anywhere 0 (some data.mask) = .ok ps) ∧
    (data.mayIssue [.v 1 252 4, .a 2 15] ∧ data.guardGuess &&& data.mask = 0 ∧ data.active ≠ 0) ∧ demo.mayIssue [.a 2 0] ∧ demo.fs.phase = 0 := by
  refine ⟨⟨mayIssue_of_canIssue (by decide +kernel), windowsClosed_of (by decide +kernel), ok_of_isOk' (by decide +kernel)⟩, fun sk hs => ?_,
    ⟨mayIssue_of_canIssue (by decide +kernel), windowsClosed_of (by decide +kernel)⟩,
    ⟨mayIssue_of_canIssue (by decide +kernel), windowsClosed_of (by decide +kernel), by decide +kernel, (by decide +kernel : ∀ c ∈ data.fb.seqq, c.aD ≠ 15), ok_of_places (by decide +kernel)⟩,
    ⟨mayIssue_of_canIssue (by decide +kernel), by decide +kernel, by decide +kernel⟩, mayIssue_of_canIssue (by decide +kernel), by decide +kernel⟩
  have h : ∀ sk ∈ [false, true], commandReady fed (fed.command sk 15 0 0 (fed.fb.pred 3) none) = true := by decide +kernel
  exact ⟨runsNow_of (by decide +kernel) (by decide +kernel), commandReady_of (h sk hs), ⟨true, rfl⟩, by decide +kernel⟩

/-- A stream of one row: no lane is inside the index list when it is used up; access 7 has read eight index words of zero. -/
def streaming (phase pos : Nat) : State :=
  { onSlot (fun x => { x with phase := phase, ref := 7 }) with
    blocks := [(0, { bootBlock with streams := [(1, some ⟨memTile, indices, pos, 0x1001, 0⟩)] })],
    accs := [(7, { Acc.zero with kind := .tab, lanes := 0xFF, pieces := (List.range 8).map (fun l => { Piece.zero with lane := l, va := (Stream.mk memTile indices pos 0x1001 0).indexVa l, n := 4, st := .acked, val := [0, 0, 0, 0] }) })] }
theorem witness_VfeedReadsItsStream :
    (∀ s ∈ [streaming 0 1024, streaming 1 0], s.guardGuess &&& s.mask = 0) ∧
    ((streaming 0 1024).fb.streams.get none 1 = some ⟨memTile, indices, 1024, 0x1001, 0⟩ ∧ (streaming 0 1024).mayIssue [.v 1 255 1] ∧ (streaming 0 1024).windowsClosed ∧
      (streaming 0 1024).fb.counter .ld < 4095 ∧ (streaming 1 0).fb.counter .ld < 4095 ∧ (Stream.mk memTile indices 1024 0x1001 0).within (streaming 0 1024).touched = 0) ∧
    ((streaming 1 0).fb.streams.get none 1 = some ⟨memTile, indices, 0, 0x1001, 0⟩ ∧ (streaming 1 0).fs.phase = 1 ∧
      (Stream.mk memTile indices 0 0x1001 0).within (streaming 1 0).touched ≠ 0 ∧
      (Stream.mk memTile indices 0 0x1001 0).readBy ((streaming 1 0).acc 7) ((Stream.mk memTile indices 0 0x1001 0).within (streaming 1 0).touched) = true ∧
      failTrap ((streaming 1 0).acc 7).pieces none none = none ∧ (∀ l, l < 8 → ((streaming 1 0).acc 7).index l < 32) ∧
      ∃ ps, (streaming 1 0).checkLanes ((Stream.mk memTile indices 0 0x1001 0).within (streaming 1 0).touched)
        ((Stream.mk memTile indices 0 0x1001 0).dataVa ((streaming 1 0).acc 7)) 4 .read 1 anywhere 0 none = .ok ps) :=
  ⟨by decide +kernel, ⟨by decide +kernel, mayIssue_of_canIssue (by decide +kernel), windowsClosed_of (by decide +kernel), by decide +kernel, by decide +kernel, by decide +kernel⟩, by decide +kernel, by decide +kernel, by decide +kernel, by decide +kernel,
   by decide +kernel, by decide +kernel, ok_of_places (by decide +kernel)⟩

/-- Another wave's VFEED on the same stream has yet to take its claims. -/
def streamTaken : State :=
  { streaming 0 0 with accs := [(9, { Acc.zero with kind := .vfeed 1 8 0, wave := 1, pieces := [{ Piece.zero with st := .sent }] })] }
theorem witness_VfeedReadsItsStream_users :
    (streaming 0 1024).streamUsers 1 = [] ∧ (streaming 1 0).streamUsers 1 = [] ∧
    (streamTaken.mayIssue [.v 1 255 1] ∧ streamTaken.windowsClosed ∧ streamTaken.fb.counter .ld < 4095 ∧ streamTaken.guardGuess &&& streamTaken.mask = 0 ∧
      streamTaken.fb.streams.get none 1 = some ⟨memTile, indices, 0, 0x1001, 0⟩ ∧ streamTaken.streamUsers 1 ≠ []) ∧
    ((streaming 2 0).fs.phase = 2 ∧ (streaming 2 0).streamUsers 1 = []) :=
  ⟨by decide +kernel, by decide +kernel, ⟨mayIssue_of_canIssue (by decide +kernel), windowsClosed_of (by decide +kernel), by decide +kernel, by decide +kernel, by decide +kernel, by decide +kernel⟩, by decide +kernel⟩

/-- The bytes of a shape record that breaks no rule: a memory tile. -/
def shapeRecord : List Byte := le 8 0x20000 ++ [7, 2, 0, 0] ++ le 4 0 ++ le 4 32 ++ le 4 32 ++ le 4 1 ++ le 4 1 ++ le 8 32 ++ le 8 0 ++ le 8 0 ++ le 8 0
/-- Job 9, which s10 names, is pending and has not started; with `started`, it runs. -/
def pending (started : Bool) : State :=
  { onWave (fun w => { w with sregs := [(10, ⟨0x1050, true⟩)] }) with
    jobs := [(9, { Job.zero with kind := .copy 0 memTile scrTile 0 none, state := 0, slot := 5, gen := 1, started := started, label := some 0x1050 })] }
theorem witness_ShapesAndFuturesAnswer :
    ((engineState 0 []).mayIssue (opsS2 63 5) ∧ (engineState 0 []).windowsClosed ∧ ((engineState 0 []).sreg 5).getLsbD 63 = true ∧
      ∃ r, (engineState 0 []).useHandle (engineState 0 []).fl.ctx ((engineState 0 []).handleReg 5) = .ok r) ∧
    ((engineState 1 shapeRecord).fs.phase = 1 ∧ ((engineState 1 shapeRecord).sreg 6).getLsbD 63 = false ∧
      (engineState 1 shapeRecord).recordRead = .ok shapeRecord ∧ shapeOk shapeRecord = true ∧ (engineState 1 shapeRecord).freeShape 0 = some 0) ∧
    (demo.runsNow [.sd 2 5] ∧ demo.futurePending demo.fw.block (demo.handleReg 5) = false) ∧
    (demo.mayIssue [.sd 1 9, .sd 2 5] ∧ demo.windowsClosed ∧ demo.mayIssue [.sd 2 5] ∧ demo.namedJob 5 = none) ∧
    ∀ b, (pending b).mayIssue [.sd 2 10] ∧ (pending b).windowsClosed ∧ (pending b).namedJob 10 = some 9 ∧ ((pending b).job 9).state = 0 ∧
      ((pending b).job 9).copyDone = false ∧ ((pending b).job 9).started = b ∧ (pending b).followQueued 9 = false := by
  refine ⟨⟨mayIssue_of_canIssue (by decide +kernel), windowsClosed_of (by decide +kernel), by decide +kernel, ok_of_isOk' (by decide +kernel)⟩, ⟨by decide +kernel, by decide +kernel, rfl, by decide +kernel, by decide +kernel⟩,
    ⟨runsNow_of (by decide +kernel) (by decide +kernel), by decide +kernel⟩, ⟨mayIssue_of_canIssue (by decide +kernel), windowsClosed_of (by decide +kernel), mayIssue_of_canIssue (by decide +kernel), by decide +kernel⟩, ?_⟩
  intro b
  cases b <;> exact ⟨mayIssue_of_canIssue (by decide +kernel), windowsClosed_of (by decide +kernel), by decide +kernel, by decide +kernel, by decide +kernel, by decide +kernel, by decide +kernel⟩

/-- The bytes of an expert-queue record: launch record, buffers, threshold, buffer count, countdown. -/
def eqRecord : List Byte := le 8 0x20000 ++ le 8 0x30000 ++ le 2 1 ++ le 2 1 ++ le 12 0
def queued : State := { engineState 1 eqRecord with eqs := [(63, { EQueue.zero with ctx := some 0 })] }
theorem witness_ExpertQueuesTakeTokens :
    ((demo.mayIssue [.sp 2 62, .sr 2 63] ∧ demo.windowsClosed) ∧ (demo.eq 63).ctx = none) ∧
    (let s := { demo with eqs := [(63, { EQueue.zero with ctx := some 0 })] }
     s.mayIssue [.sp 2 62, .sr 2 63] ∧ s.windowsClosed ∧ (s.eq 63).ctx = some s.fl.ctx ∧ (s.eq 63).tokens.length < 1024) ∧
    (demo.mayIssue [.sr 2 5] ∧ demo.sreg 5 = 0 ∧ ∀ c, (demo.eq 63).ctx = some c → c = demo.fl.ctx) ∧
    (queued.fs.phase = 1 ∧ queued.recordRead = .ok eqRecord ∧ (∀ c, (queued.eq 63).ctx = some c → c = queued.fl.ctx) ∧ eqRecordBad eqRecord = false) := by
  refine ⟨⟨⟨mayIssue_of_canIssue (by decide +kernel), windowsClosed_of (by decide +kernel)⟩, by decide +kernel⟩,
    ⟨mayIssue_of_canIssue (by decide +kernel), windowsClosed_of (by decide +kernel), by decide +kernel, by decide +kernel⟩, ⟨mayIssue_of_canIssue (by decide +kernel), by decide +kernel, ?_⟩,
    by decide +kernel, rfl, ?_, by decide +kernel⟩
  · intro c h; have : (demo.eq 63).ctx = none := by decide +kernel
    rw [this] at h; cases h
  · intro c h; have : (queued.eq 63).ctx = some 0 := by decide +kernel
    rw [this] at h; cases h; decide

/-! ## Witnesses: accesses between their issue and their end -/

theorem get_all {α : Type} {P : α → Bool} {d : α} (hd : P d = true) : ∀ {t : Tab α}, t.all (fun x => P x.2) = true → ∀ k, P (t.get d k) = true
  | [], _, _ => hd
  | (k', v) :: t, h, k => by
    simp only [List.all_cons, Bool.and_eq_true] at h
    by_cases hk : k' = k
    · simpa [Tab.get, hk] using h.1
    · simpa [Tab.get, hk] using get_all hd h.2 k
/-- The memories of a state are in their canonical form: as a Boolean. -/
def wfB (s : State) : Bool := s.mem.wf && s.array.wf && s.hostMem.wf && s.peerMem.all (fun x => Mem.wf x.2) && s.blocks.all (fun x => x.2.scratch.wf)
theorem memoriesWf_of {s : State} (h : wfB s = true) : s.memoriesWf := by
  simp only [wfB, Bool.and_eq_true] at h
  exact ⟨h.1.1.1.1, h.1.1.1.2, h.1.1.2, get_all (P := fun m => Mem.wf m) rfl h.1.2, get_all (P := fun b : Block => b.scratch.wf) rfl h.2⟩
theorem plainHome_of {s : State} (h : wfB s = true) (hc : s.cells = [] ∧ s.hostLines = []) (hl : s.cores.all (fun c => c.2.l1.all (fun l => l.words.all (fun w => w.2.st != .u))) = true) :
    plainHome s := by
  refine ⟨memoriesWf_of h, hc.1, hc.2, fun c hcc l hl' w hw => ?_⟩
  simpa using List.all_eq_true.1 (List.all_eq_true.1 (List.all_eq_true.1 hl c hcc) l hl') w hw

/-- One piece: a word at 0x10000, in lane 0. -/
def word0 : Piece := { Piece.zero with va := 0x10000, pa := 0x10000, n := 4, st := .sent }
/-- Access 7 of the wave, and message 9 that carries its piece. -/
def withAcc (x : Acc) : State := { demo with accs := [(7, x)], net := [⟨9, 0, homeOf 0x10000, .piece 7 0, false, false⟩] }
def loading (st : PState) : Acc := { Acc.zero with kind := .ld .w false, dst := 4, regs := 1, lanes := 1, age := 12, limit := some 8, pieces := [{ word0 with st := st, val := [1, 0, 0, 0] }] }
/-- The same load under a tag that waits for its truth. -/
def guessedLoad : State := { withAcc (loading .atHome) with waves := [(0, { bootWave with tags := [⟨7, 4, 1, 1, [L8.rep 0], none, none, 0⟩] })] }
theorem witness_DataReturnsToItsLanes :
    ((withAcc (loading .passed)).accs.has 7 = true ∧ (loading .passed).kind = .ld .w false ∧ (loading .passed).fell = false ∧ 12 ≤ (loading .passed).age ∧
      (1 : BitVec 8) ≠ 0 ∧ ∀ l, l < 8 → (1 : BitVec 8).getLsbD l = true → (loading .passed).laneHere l = true) ∧
    (guessedLoad.accs.has 7 = true ∧ ∃ g, (guessedLoad.wave (guessedLoad.acc 7).wave).tagOf 7 = some g ∧ g.truth = none ∧ g.fault = none ∧
      ∀ p ∈ (guessedLoad.acc 7).pieces, g.mask.getLsbD p.lane = true → (p.st = .atHome ∨ p.st = .passed) ∧ p.conf = none) ∧
    ((withAcc (loading .sent)).accs.has 7 = true ∧ (loading .sent).limit = some 8 ∧ 8 ≤ (loading .sent).age ∧ (loading .sent).age ≤ 8 + 4 ∧
      (loading .sent).fell = false ∧ (loading .sent).noLimit = false ∧ (∀ p ∈ (loading .sent).pieces, p.err = none) ∧
      ((withAcc (loading .sent)).wave 0).tags.length < 4 ∧ (loading .sent).untaken &&& ~~~((loading .sent).dead.foldl (· ||| ·) 0) ≠ 0) :=
  ⟨by decide +kernel, ⟨by decide +kernel, ⟨7, 4, 1, 1, [L8.rep 0], none, none, 0⟩, by decide +kernel, by decide +kernel, by decide +kernel, by decide +kernel⟩, by decide +kernel⟩

/-- A claim of wave 1 on the word. -/
def otherClaim : Claim := ⟨0x4000, 1, 0, 8, true, 0, false⟩
def claiming (cs : List Claim) : State := { withAcc (loading .sent) with claims := cs }
def storing (st : PState) : Acc := { Acc.zero with kind := .st, regs := 1, lanes := 1, pieces := [{ word0 with st := st, data := [some 1, some 2, none, some 4] }] }
theorem witness_ClaimsAreTakenAndAnswered :
    ((claiming []).pieceMsg 9 = some (7, 0) ∧ 0 < (loading .sent).pieces.length ∧ (loading .sent).coalesced = false ∧ word0.tgt = .device ∧ word0.linked = false ∧
      word0.early = none ∧ (loading .sent).truthOnly { word0 with val := [1, 0, 0, 0] } = false ∧ (claiming []).readerCounted (lineOf 0x10000) = false ∧
      (claiming []).claimWaits (loading .sent) { word0 with val := [1, 0, 0, 0] } = false ∧ (claiming []).lateDenied (loading .sent) { word0 with val := [1, 0, 0, 0] } = false ∧
      plainHome (claiming []) ∧ ((claiming []).fetchLines 0x10000 4).badLevel 0x10000 4 = none ∧
      (∀ w ∈ wordsOf 0x10000 4, (claiming []).conflictAt w 0 false = none)) ∧
    ((claiming [otherClaim]).pieceMsg 9 = some (7, 0) ∧ (claiming [otherClaim]).readerCounted (lineOf 0x10000) = false ∧
      (claiming [otherClaim]).claimWaits (loading .sent) { word0 with val := [1, 0, 0, 0] } = false ∧
      (claiming [otherClaim]).lateDenied (loading .sent) { word0 with val := [1, 0, 0, 0] } = false ∧ plainHome (claiming [otherClaim]) ∧
      (claiming [otherClaim]).badLevel 0x10000 4 = none ∧ (wordsOf 0x10000 4).head? = some 0x4000 ∧
      ∃ c, (claiming [otherClaim]).conflictAt 0x4000 0 false = some c) ∧
    ((withAcc (storing .atHome)).accs.has 7 = true ∧ (withAcc (storing .atHome)).fs.held ≠ some (.claimResult 7) ∧ (storing .atHome).kind.isStore = true ∧
      (storing .atHome).pieces.any (storing .atHome).back = true ∧ (storing .atHome).pieces.any (storing .atHome).bad = false ∧
      ∀ p ∈ (storing .atHome).pieces, p.early = none ∧ p.linked = false) ∧
    ((withAcc (storing .passed)).accs.has 7 = true ∧ (storing .passed).coalesced = false ∧ (∃ p ∈ (storing .passed).pieces, p.st = .passed) ∧
      (∀ p ∈ (storing .passed).pieces, p.st.hasPassed = true) ∧ (withAcc (storing .passed)).olderOpen (storing .passed) = false ∧
      (withAcc (storing .passed)).olderQueued (storing .passed) AKind.isStore = false) ∧
    ((withAcc (storing .acked)).accs.has 7 = true ∧ (∀ p ∈ (storing .acked).pieces, p.st = .acked) ∧
      ∀ f ∈ ((withAcc (storing .acked)).block 0).flights, f.path = .st → f.id = 7 ∨ f.done = true) ∧
    (let s := { demo with net := [⟨9, 0, 5, .close 0 3, false, false⟩] }
     s.msgAt 9 = some ⟨9, 0, 5, .close 0 3, false, false⟩ ∧ canArrive s.net ⟨9, 0, 5, .close 0 3, false, false⟩ = true ∧ s.claimWaitsAt 0 3 5 = false ∧ s.hostAccs = []) := by
  have hc : ((claiming [otherClaim]).conflictAt 0x4000 0 false).isSome = true := by decide +kernel
  refine ⟨⟨by decide +kernel, by decide +kernel, by decide +kernel, by decide +kernel, by decide +kernel, by decide +kernel, by decide +kernel, by decide +kernel, by decide +kernel, by decide +kernel, plainHome_of (by decide +kernel) ⟨rfl, rfl⟩ rfl, by decide +kernel, by decide +kernel⟩, ?_⟩
  exact ⟨⟨by decide +kernel, by decide +kernel, by decide +kernel, by decide +kernel, plainHome_of (by decide +kernel) ⟨rfl, rfl⟩ rfl, by decide +kernel, by decide +kernel, Option.isSome_iff_exists.1 hc⟩, by decide +kernel, by decide +kernel, by decide +kernel, by decide +kernel⟩

/-- A close of SFR 3 that is queued, behind data of the store or behind none. -/
def queuedClose (st : PState) : State := { withAcc { storing st with sfr := 3 } with net := [⟨9, 0, homeOf 0x10000, .close 0 3, false, true⟩] }
theorem witness_ClaimsAreTakenAndAnswered_queued_close :
    (∀ st ∈ [PState.passed, .dataSent], (queuedClose st).msgAt 9 = some ⟨9, 0, homeOf 0x10000, .close 0 3, false, true⟩) ∧
    (queuedClose .passed).dataQueued 0 3 (homeOf 0x10000) = true ∧ (queuedClose .dataSent).dataQueued 0 3 (homeOf 0x10000) = false := by decide +kernel

/-- A store whose bytes all go to their home, and its data message. -/
def dataPhase : State := { withAcc (storing .dataSent) with net := [⟨9, 0, homeOf 0x10000, .data 7 0, false, false⟩] }
/-- A posted write on link 3, which is UP. -/
def posted : Posted := ⟨7, 0, some 0, none, 3, 9, 5, 0x10000, [some 1, none], none⟩
def linkUp (st : BitVec 64) : Link := ⟨st, 0, [posted], [], 0, 0, none, 0, none, none, 0, 0, []⟩
/-- The same with a reduction in place of the write. -/
def reducing : Posted := { posted with bytes := [some 1, some 0, some 0, some 0], red := some (.max, true) }
/-- Eight claims of eight SFRs on a line, and the overflow lines of a die. -/
def fullLine : List Claim := (List.range 8).map (fun k => ⟨32 * 512, 1, k, 8, false, k, false⟩)
def overflowLine (k : Nat) : Claim := ⟨32 * (k + 1024), 1, 0, 8, false, 0, true⟩
def overflowed (n : Nat) : State :=
  { demo with accs := [(7, loading .sent)], net := [⟨9, 0, homeOf 0x10000, .piece 7 0, true, false⟩], claims := fullLine ++ (List.range n).map overflowLine }
theorem eraseDups_of_nodup {α : Type} [DecidableEq α] : ∀ {l : List α}, l.Nodup → l.eraseDups = l
  | [], _ => rfl
  | a :: l, h => by
    rw [List.nodup_cons] at h
    rw [List.eraseDups_cons, List.filter_eq_self.2 (fun x hx => by simp only [Bool.not_eq_true', beq_eq_false_iff_ne]; rintro rfl; exact h.1 hx), eraseDups_of_nodup h.2]
theorem overflowLines_full (n : Nat) (hn : n ≤ 2 ^ 20) : (overflowed n).overflowLines 0 = n := by
  have h1 : fullLine.filter (fun c => c.ovf && dieOf (c.word * 4) == 0) = [] := by decide
  have h2 : ((List.range n).map overflowLine).filter (fun c => c.ovf && dieOf (c.word * 4) == 0) = (List.range n).map overflowLine := by
    rw [List.filter_eq_self]
    intro c hc
    obtain ⟨k, hk, rfl⟩ := List.mem_map.1 hc
    have : k < n := List.mem_range.1 hk
    simp only [overflowLine, dieOf, bitsOf, Bool.true_and, beq_iff_eq]
    omega
  have h3 : ((List.range n).map overflowLine).map (fun c => c.word / 32) = (List.range n).map (fun k => k + 1024) := by
    rw [List.map_map]
    apply List.map_congr_left
    intro k _
    simp only [Function.comp, overflowLine]
    omega
  unfold State.overflowLines overflowed
  rw [List.filter_append, h1, h2, List.nil_append, h3, eraseDups_of_nodup, List.length_map, List.length_range]
  exact List.pairwise_map.2 (List.nodup_range.imp (fun h e => h (Nat.add_right_cancel e)))
theorem overflowed_room (n : Nat) : (overflowed n).claimRoom (loading .sent) word0 = false := by
  have h1 : fullLine.filter (fun c => c.word / 32 == lineOf word0.pa) = fullLine := by decide
  have h2 : ((List.range n).map overflowLine).filter (fun c => c.word / 32 == lineOf word0.pa) = [] := by
    rw [List.filter_eq_nil_iff]
    intro c hc
    obtain ⟨k, _, rfl⟩ := List.mem_map.1 hc
    simp only [overflowLine, lineOf, word0, beq_iff_eq]
    omega
  unfold State.claimRoom overflowed
  simp only []
  rw [List.filter_append, h1, h2, List.append_nil]
  have h3 : fullLine.any (fun c => c.ovf) = false := by decide
  have h4 : decide ((((fullLine.filter (fun c => !(c.wave == (loading .sent).wave && c.sfr == (loading .sent).sfr))).map (fun c => (c.wave, c.sfr))).eraseDups).length < 8) = false := by decide
  rw [h3, h4]; rfl
/-- The leaf of the page makes it private to die 1. -/
def privatePage : State := { withAcc (loading .sent) with mem := (bootMem [] []).putNat bootTable 0x21F 8 }
theorem witness_HomesTakeDataAndLines :
    (dataPhase.msgAt 9 = some ⟨9, 0, homeOf 0x10000, .data 7 0, false, false⟩ ∧ canArrive dataPhase.net ⟨9, 0, homeOf 0x10000, .data 7 0, false, false⟩ = true ∧
      dataPhase.accs.has 7 = true ∧ 0 < (storing .dataSent).pieces.length ∧ (storing .dataSent).coalesced = false ∧ plainHome dataPhase ∧
      (∀ p ∈ (storing .dataSent).pieces, dataPhase.secsWait ((storing .dataSent).partOf p) = false ∧
        (dataPhase.fetchSecs ((storing .dataSent).partOf p)).badSecs ((storing .dataSent).partOf p) = []) ∧ (storing .dataSent).kind = .st ∧
      ∀ p ∈ (storing .dataSent).pieces, p.tgt = .device ∧ p.data.length = p.n) ∧
    (∀ l ∈ (demo.core 0).l1, l.pline = 0 → ∀ w ∈ l.words, w.2.st ≠ .u) ∧
    (∀ q ∈ [posted, reducing], let s := { demo with links := [(3, { linkUp 2 with queue := [q] })] }
     (s.link 3).queue = [q] ∧ (s.link 3).stat.extractLsb' 0 2 = 2 ∧ s.memoriesWf) ∧ posted.red = none ∧ reducing.red = some (.max, true) ∧
    ((overflowed 5).msgAt 9 = some ⟨9, 0, homeOf 0x10000, .piece 7 0, true, false⟩ ∧ (overflowed 5).accs.has 7 = true ∧ (overflowed 5).claimRoom (loading .sent) word0 = false ∧
      (overflowed 5).overflowLines (dieOf word0.pa) < overflowCap ∧ (overflowed 5).claims.any (fun c => c.word / 32 == lineOf word0.pa) = true) ∧
    ((overflowed overflowCap).claimRoom (loading .sent) word0 = false ∧ overflowCap ≤ (overflowed overflowCap).overflowLines (dieOf word0.pa)) ∧
    (let s := { demo with regions := [(0, [⟨0, 1, 3, 0⟩, ⟨RegionEnt.size ⟨0, 1, 3, 0⟩, 1, 3, 0⟩])] }
     (s.regions.get [] 0)[1]? = some ⟨RegionEnt.size ⟨0, 1, 3, 0⟩, 1, 3, 0⟩ ∧
       (s.regions.get [] 0).find? (fun y => y.base == 0 && y.k == 1 && y.sharers == 3) = some ⟨0, 1, 3, 0⟩ ∧
       RegionEnt.size ⟨0, 1, 3, 0⟩ / RegionEnt.size ⟨0, 1, 3, 0⟩ % 2 ≠ 0) ∧
    (privatePage.accs.has 7 = true ∧ (∃ p, (privatePage.acc 7).pieces.find? (fun p => p.st == .sent && privatePage.classConflict (privatePage.acc 7) p) = some p) ∧
      (∃ e level at', privatePage.walk (privatePage.acc 7).ctx 0x10000 = .leaf e level at') ∧ privatePage.cells = [] ∧ privatePage.memoriesWf) := by
  have hp : ((privatePage.acc 7).pieces.find? (fun p => p.st == .sent && privatePage.classConflict (privatePage.acc 7) p)).isSome = true := by decide +kernel
  have hq : ∀ q ∈ [posted, reducing], wfB { demo with links := [(3, { linkUp 2 with queue := [q] })] } = true := by decide +kernel
  refine ⟨⟨by decide +kernel, by decide +kernel, by decide +kernel, by decide +kernel, by decide +kernel, plainHome_of (by decide +kernel) ⟨rfl, rfl⟩ rfl, by decide +kernel, by decide +kernel, by decide +kernel⟩, by decide +kernel,
    fun q h => ⟨rfl, rfl, memoriesWf_of (hq q h)⟩, rfl, rfl, ⟨by decide +kernel, by decide +kernel, overflowed_room 5, by decide +kernel, by decide +kernel⟩,
    ⟨overflowed_room _, ?_⟩, by decide +kernel, by decide +kernel, Option.isSome_iff_exists.1 hp, ⟨0x21F, 2, 0x4000, rfl⟩, rfl, memoriesWf_of (by decide +kernel)⟩
  exact Nat.le_of_eq (by rw [show dieOf word0.pa = 0 by decide +kernel, overflowLines_full overflowCap (by decide +kernel)])

def atomicAcc : Acc := { Acc.zero with kind := .atomic 0 true, dst := 6, regs := 1, lanes := 1, pieces := [{ word0 with data := [some 1, some 0, some 0, some 0] }] }
def draftAcc (k : AKind) : Acc := { atomicAcc with kind := k }
def homeWait (k : AKind) (cs : List Claim) (cells : List Cell) : State := { withAcc (draftAcc k) with claims := cs, cells := cells }
/-- The wave's own live cell at 0x10000. -/
def ownCell (observed : Bool) : Cell := ⟨0x10000, 0, 1, 0, 0, 0, 0, observed, false, 0⟩
theorem witness_HomesPerformAtomicsAndDrafts :
    (∀ k ∈ [AKind.atomic 0 true, .draft 3, .ink, .erase 3], (homeWait k [] []).accs.has 7 = true ∧ (∃ p, (draftAcc k).pieces = [p] ∧ p.st = .sent ∧ p.tgt = .device ∧
      p.conf = none ∧ p.err = none ∧ p.linked = false ∧ p.pa = 0x10000 ∧ p.n = 4) ∧ (homeWait k [] []).pieceNext 7 0 = true) ∧
    (∀ k ∈ [AKind.atomic 0 true, .draft 3], (homeWait k [] []).flipping 0x10000 = false ∧
      (∀ p ∈ (draftAcc k).pieces, (homeWait k [] []).classConflict (draftAcc k) p = false ∧ (homeWait k [] []).memoryWaits p = false ∧
        (homeWait k [] []).lateDenied (draftAcc k) p = false ∧ (homeWait k [] []).ownPending (draftAcc k) p = false) ∧
      (∀ w ∈ wordsOf 0x10000 4, (homeWait k [] []).conflictAt w 0 true = none) ∧ (homeWait k [] []).readerCounted (lineOf 0x10000) = false ∧
      (homeWait k [] []).cellsAt (homeOf 0x10000) < cellCap) ∧
    (∀ k, plainHome (homeWait k [] [])) ∧
    (∀ k ∈ [AKind.atomic 0 true, .draft 3], ∃ c, (homeWait k [otherClaim] []).conflictAt 0x4000 0 true = some c) ∧
    (∀ p ∈ (draftAcc (.draft 3)).pieces, ((homeWait (.draft 3) [otherClaim] []).claimWords p).head? = some 0x4000) ∧
    (homeWait (.draft 3) [otherClaim] []).cellAt 0x10000 = none ∧
    (∀ y ∈ (homeWait (.atomic 0 true) [] []).accs, ∀ q ∈ y.2.pieces, q.tgt = Target.device → q.pa / 8 = 0x10000 / 8 → q.st ≠ .atHome) ∧
    (∀ k ∈ [AKind.ink, .erase 3], ∀ o ∈ [false, true], (homeWait k [] [ownCell o]).cellAt 0x10000 = some (ownCell o) ∧
      (homeWait k [] [ownCell o]).owns 0 (ownCell o) = true ∧
      ∀ p ∈ (draftAcc k).pieces, (homeWait k [] [ownCell o]).laneWaits (draftAcc k) p = false ∧ (homeWait k [] [ownCell o]).lateDenied (draftAcc k) p = false) ∧ ∀ k o, (homeWait k [] [ownCell o]).memoriesWf := by
  have hc : ∀ k ∈ [AKind.atomic 0 true, .draft 3], ((homeWait k [otherClaim] []).conflictAt 0x4000 0 true).isSome = true := by decide +kernel
  exact ⟨fun k _ => ⟨rfl, ⟨_, rfl, rfl, rfl, rfl, rfl, rfl, rfl, rfl⟩, rfl⟩, by decide +kernel, fun k => plainHome_of rfl ⟨rfl, rfl⟩ rfl,
    fun k hk => Option.isSome_iff_exists.1 (hc k hk), by decide +kernel, by decide +kernel, by decide +kernel, by decide +kernel, fun k o => memoriesWf_of rfl⟩

/-! ## Witnesses: blocks and launches -/

theorem witness_UnitsThatDoNotExecuteTrap :
    handled.windowsClosed ∧ handled.fw.handler = none ∧ handled.fl.handler ≠ 0 ∧ handled.fs.phase = 0 ∧
    (∃ tr, handled.fetchErr 0x0200000000000000 = .trap tr) ∧ handled.fetchErr 0x10000 = .fine :=
  ⟨windowsClosed_of (by decide +kernel), by decide +kernel, by decide +kernel, by decide +kernel, ⟨_, rfl⟩, by decide +kernel⟩

/-- A launch record of one block in context 0, and a kernel descriptor of one wave with one bucket for sh0 = 8. -/
def launchRecord : List Byte :=
  le 8 0x20100 ++ le 4 0 ++ le 4 0 ++ le 4 8 ++ le 28 0 ++ le 8 0 ++ le 4 1 ++ le 4 0 ++ le 8 0 ++ le 4 0 ++ le 4 1 ++ le 8 0 ++ le 8 0 ++ le 8 0 ++ le 8 0 ++ le 16 0
def kernelDesc : List Byte :=
  [1, 1, 1, 0, 0, 1] ++ le 2 8 ++ le 8 0 ++ le 32 0 ++ le 16 0 ++ le 8 0x100 ++ le 32 0 ++ le 4 8 ++ le 28 0 ++ le 8 0
/-- The device is ready, and the record is the head of hardware queue 0 of a context. -/
def queueOf (ctx : Nat) : State :=
  { demo with mem := (demo.mem.putBytes 0x20000 launchRecord).putBytes 0x20100 kernelDesc,
              mgmt := { demo.mgmt with bootstat := 4, lq := [(0, ⟨ctx, true, [0x20000], false⟩)] } }
/-- The record passes every check. -/
def launchReady (s : State) (k : Nat) : Bool :=
  match s.queueHead k with
  | none => false
  | some (c, q) =>
    (s.ctx c).v && !s.launchBlocked c q.va &&
      match (s.popQueue k).schedRead c q.va 128 with
      | none => false
      | some (v, r) => recCtx r == c &&
        match v.readLaunch c r with
        | none => false
        | some (_, x) => match launchCheck q.va x (shOf r q.sh) with | .ok _ => true | .error _ => false
theorem launchReady_of {s : State} {k : Nat} (h : launchReady s k = true) : ∃ c q v r w x n, s.queueHead k = some (c, q) ∧ (s.ctx c).v = true ∧
    s.launchBlocked c q.va = false ∧ (s.popQueue k).schedRead c q.va 128 = some (v, r) ∧ recCtx r = c ∧ v.readLaunch c r = some (w, x) ∧
    launchCheck q.va x (shOf r q.sh) = .ok n := by
  unfold launchReady at h
  split at h
  · simp at h
  · rename_i c q hq
    simp only [Bool.and_eq_true, Bool.not_eq_true'] at h
    obtain ⟨⟨hv, hb⟩, h⟩ := h
    split at h
    · simp at h
    · rename_i v r hr
      simp only [Bool.and_eq_true, beq_iff_eq] at h
      obtain ⟨hc, h⟩ := h
      split at h
      · simp at h
      · rename_i w x hx
        split at h
        · rename_i n hn; exact ⟨c, q, v, r, w, x, n, hq, hv, hb, hr, hc, hx, hn⟩
        · simp at h
/-- The launch waits with no edge. -/
def waiting : State := { onLaunch (fun l => { l with st := .waiting }) with feet := [⟨3, some 0, none, 0, [], []⟩] }
theorem witness_LaunchRecordsAreTaken :
    (∀ c ∈ [0, 5], (queueOf c).queuesRun = true ∧ (queueOf c).mgmt.bootstat.toNat % 16 = 4 ∧ (queueOf c).feet.length < 4096 ∧
      (queueOf c).nearest (queueOf c).fullQueues = some 0 ∧ (queueOf c).queueHead 0 = some (c, ⟨0x20000, .queue 0, none, none, none⟩)) ∧
    ((queueOf 5).ctx 5).v = false ∧
    (∃ c q v r w x n, (queueOf 0).queueHead 0 = some (c, q) ∧ ((queueOf 0).ctx c).v = true ∧
      (queueOf 0).launchBlocked c q.va = false ∧ ((queueOf 0).popQueue 0).schedRead c q.va 128 = some (v, r) ∧ recCtx r = c ∧ v.readLaunch c r = some (w, x) ∧
      launchCheck q.va x (shOf r q.sh) = .ok n) ∧
    (∃ f, waiting.feet.find? (fun f => f.launch == some 0) = some f ∧ (waiting.launch 0).st = .waiting ∧ f.edges = [] ∧ waiting.mgmt.ranges = []) :=
  ⟨by decide +kernel, by decide +kernel, launchReady_of (by decide +kernel), ⟨⟨3, some 0, none, 0, [], []⟩, rfl, by decide +kernel, rfl, rfl⟩⟩

/-- The launch has a second block to start; scratch is not asked for. -/
def starting : State := onLaunch (fun l => { l with nblk := 2, frameN := 2, scr := 0 })
/-- The wave waits at a barrier of the block, or of group 0. -/
def barred (g : Bool) : State :=
  { starting with waves := [(0, { bootWave with slotA := { bootWave.slotA with wait := .barrier g 0 0 } })] }
def savedBlock : State := { starting with blocks := [(0, { bootBlock with st := .saved })] }
/-- The wave has a region with live-in registers v0 and s31, so that its block may be discarded; a load and a job of a block that has none. -/
def inRegion : State := onWave (fun w => { w with region := some ⟨0x10000, 1, 0x80000000, 0, 0xFF⟩ })
def atWork : State :=
  { withAcc (loading .sent) with jobs := [(9, { Job.zero with kind := .copy 0 Shape.zero Shape.zero 0 none, state := 0, started := true })] }
theorem witness_BlocksStartMoveAndReturn :
    (starting.startable 0 0 = true ∧ starting.startable 0 255 = true ∧ (starting.launch 0).freeFrame = some 1) ∧
    ((inRegion.block 0).st = .resident ∧ inRegion.discardable 0 = true ∧ 0 ∈ (inRegion.block 0).waves ∧ (inRegion.wave 0).exited = false ∧
      (inRegion.wave 0).region = some ⟨0x10000, 1, 0x80000000, 0, 0xFF⟩) ∧
    ((atWork.block 0).st = .resident ∧ atWork.discardable 0 = false ∧ 0 ∈ (atWork.block 0).waves ∧ (atWork.wave 0).exited = false ∧
      (atWork.accs.has 7 = true ∧ (atWork.acc 7).block = 0 ∧ (atWork.acc 7).abandonable = true) ∧
      (atWork.job 9).block = 0 ∧ (atWork.job 9).state = 0 ∧ (atWork.job 9).engine < 8 ∧ atWork.jobs.has 9 = true) ∧
    ((barred false).block 0).st = .resident ∧ (barred false).swapDue 0 = true ∧ savedBlock.restorable 0 0 = true := by decide +kernel

/-- The wave has exited; the launch has no other block. -/
def exitedWave : State := onWave (fun w => { w with exited := true })
/-- The launch has one frame slot, taken by a block that waits at a group barrier. -/
def exhausted : State := { barred true with launches := [(0, { bootLaunch with nblk := 2, frameN := 1 })] }
/-- Two logical cores on core 0, the first of which is active with its slice used up. -/
def sliced : State :=
  { demo with cores := [(0, { Core.zero with active := some 0, slice := 0 })], mgmt := { demo.mgmt with unplaced := (List.range 256).drop 2 } }
/-- It leaves an entry of the fixed-order buffer, which means 5 of the governor keeps from its home. -/
def exitedHeld : State :=
  { exitedWave with abufs := [⟨.kept, 0, 0x20000, 0, 0, 0, 0, 0, 0, .device, 0x20000, .add, false, 1⟩], mgmt := { exitedWave.mgmt with pwrstat := 0x8000 } }
theorem witness_CoresAndBlocksAreTended_flush :
    (exitedWave.flushBufs (fun e => e.launch == (exitedWave.block 0).launch && e.block == 0)).flushOpen (fun e => e.launch == (exitedWave.block 0).launch && e.block == 0) = false ∧
    exitedHeld.blockOver 0 = true ∧
    (exitedHeld.flushBufs (fun e => e.launch == (exitedHeld.block 0).launch && e.block == 0)).flushOpen (fun e => e.launch == (exitedHeld.block 0).launch && e.block == 0) = true := by decide +kernel
theorem witness_CoresAndBlocksAreTended :
    (exitedWave.blockOver 0 = true ∧ (exitedWave.launch 0).live = 1 ∧ (exitedWave.launch 0).nblk ≤ (exitedWave.launch 0).next ∧ (exitedWave.launch 0).st = .running) ∧
    ((exhausted.launch 0).st = .running ∧ (exhausted.launch 0).next < (exhausted.launch 0).nblk ∧ (exhausted.launch 0).frameN ≤ (exhausted.launch 0).frames.length ∧
      exhausted.liveBlocks 0 ≠ [] ∧ ∀ b ∈ exhausted.liveBlocks 0, exhausted.blockHeld b exhausted.atBarrier = true ∧ exhausted.needsUnstarted (exhausted.launch 0) b = true) ∧
    ((sliced.core 0).active = some 0 ∧ sliced.hosts 0 = [0, 1] ∧ (sliced.core 0).slice = 0) ∧
    (let s := { demo with cores := [(0, { Core.zero with carveReq := some 7 })] }
     (s.core 0).carveReq = some 7 ∧ s.scratchUsed 0 ≤ 7 ∧ s.carveFree 0 = true) ∧
    (let s := { demo with blocks := [], launches := [(0, { bootLaunch with nblk := 2, frameN := 2 })] }
     (s.recarves 0).contains 0 = true) ∧
    (let s := { demo with mgmt := { demo.mgmt with pfbase := 0x100001, faults := [⟨0, 0x20000, 0, 0, 0, false⟩] } }
     s.mgmt.faults[0]? = some ⟨0, 0x20000, 0, 0, 0, false⟩ ∧ s.mgmt.pfbase.getLsbD 0 = true ∧ s.mgmt.pfhead + 1 ≠ s.mgmt.pftail ∧ plainHome s) ∧
    (let s := { demo with mgmt := { demo.mgmt with diepark := 0 } }
     s.coreClock = true ∧ ∀ p ∈ [0, 451], coreExists p = true ∧ s.parked (coreDie p) = false) :=
  ⟨by decide +kernel, by decide +kernel, by decide +kernel, by decide +kernel, by decide +kernel, ⟨by decide +kernel, by decide +kernel, by decide +kernel, plainHome_of (by decide +kernel) ⟨rfl, rfl⟩ rfl⟩, by decide +kernel⟩

/-! ## Witnesses: running jobs and collectives -/

/-- One word in scratch and one in memory. -/
def scrWord : Shape := { Shape.zero with base := 0, scr := true }
def memWord : Shape := { Shape.zero with base := 0x20000 }
/-- Job 9, a copy of one word from scratch to memory, after a change. -/
def copying (f : Job → Job) : State :=
  { demo with jobs := [(9, f { Job.zero with kind := .copy 1 scrWord memWord 0 none, state := 0, foot := [⟨0x20000, 4, false, true⟩] })] }
/-- Job 9, running, of a kind, with k-groups done; feed 0 owes it a tile. -/
def running (k : JKind) (n : Nat) : State :=
  { copying (fun j => { j with kind := k, started := true, prog := n }) with blocks := [(0, { bootBlock with feeds := [(0, ⟨[], 0, 0, [(9, 1)]⟩)] })] }
/-- One index word. -/
def oneIndex : Shape := { indices with d0 := 1 }
theorem pair_of {ε α β : Type} {e : Except ε (α × β)} (h : e.toBool = true) : ∃ a b, e = .ok (a, b) :=
  let ⟨x, hx⟩ := ok_of_isOk h
  ⟨x.1, x.2, hx⟩
/-- The bytes that a step to a feed reads: the k-group of the rows of a tile. -/
def groupRead (s : State) (h : Shape) (rows : List (Option Nat)) : Except StepErr (State × List Byte) :=
  s.jobRead 9 h.scr ((rangesOf rows (16 * (s.job 9).prog) 16).flatMap (fun x => (List.range 4).map (fun k => (x.1 + 4 * k, 4))))
/-- The head command of the block is a MMA on the items of `fed`. -/
def commanded (f : SeqCmd → SeqCmd) : State :=
  { fed with blocks := [(0, { fed.fb with seqq := [f { (fed.command false 0 0 0 (.known true) none) with pm := none }] })] }
/-- Expert queue 0 is bound and holds one token; its countdown runs. -/
def fullQueue : State :=
  { demo with eqs := [(0, { EQueue.zero with ctx := some 0, bufVa := 0x30000, tokens := [(1, 2)], counting := true, cdown := 100 })] }
theorem witness_JobsRunAndEnd :
    ((copying id).mayStart 9 = true ∧ ((copying id).job 9).kind.isCopy = true ∧
      (∃ c, { copying id with claims := [⟨0x8000, 1, 0, 8, true, 0, false⟩] }.footConflict ((copying id).job 9) = some c) ∧
      { copying id with claims := [⟨0x8000, 1, 0, 8, true, 0, false⟩] }.mayStart 9 = true) ∧
    ((running (.copy 0 memWord scrWord 0 none) 0).jobFlips ((running (.copy 0 memWord scrWord 0 none) 0).job 9) = false ∧
      plainHome (running (.copy 0 memWord scrWord 0 none) 0) ∧
      ∃ s1 d, (running (.copy 0 memWord scrWord 0 none) 0).jobRead 9 false ((stepWords 0 memWord.total).map (fun o => (memWord.byteAddr o, 4))) = .ok (s1, d)) ∧
    (∀ n ∈ [0, 1], let s := running (.copy 3 scrTile Shape.zero 0 none) n
     s.clockRuns = true ∧ s.jobs.has 9 = true ∧ (s.job 9).kind.isCopy = true ∧ (s.block (s.job 9).block).st = .resident ∧ (s.job 9).suspended = false ∧
      (s.job 9).copyDone = false ∧ (s.job 9).state = 0 ∧ (s.job 9).pageWait = none ∧ s.jobFlips (s.job 9) = false ∧ scrTile.map = false ∧
      (n ≠ 0 ∨ s.feedReady 9 0 scrTile.steps = true) ∧ scrTile.sc = false ∧ scrTile.steps = 2 ∧ ∃ s1 d, groupRead s scrTile (scrTile.tileRows 0) = .ok (s1, d)) ∧
    (∀ n ∈ [0, 1], let s := running (.gath scrTile oneIndex 0 0) n
     (s.job 9).kind.isCopy = true ∧ s.jobFlips (s.job 9) = false ∧ (n ≠ 0 ∨ s.feedReady 9 0 scrTile.steps = true) ∧
      (∃ s1 d, s.jobRead 9 false (((List.range 32).filter (fun r => decide (0 + r < oneIndex.d0))).map (fun r => (oneIndex.base.toNat + 4 * (0 + r), 4))) = .ok (s1, d)) ∧
      ∃ s1 d, groupRead s scrTile ((gathRows scrTile oneIndex 0 [0, 0, 0, 0]).map (fun r => r.map scrTile.rowAddr)) = .ok (s1, d)) ∧
    (∀ c, let s := copying (fun j => { j with started := true, cancel := c })
      s.clockRuns = true ∧ s.jobs.has 9 = true ∧ (s.job 9).kind = .copy 1 scrWord memWord 0 none ∧ (s.block (s.job 9).block).st = .resident ∧
      (s.job 9).suspended = false ∧ (s.job 9).copyDone = false ∧ (s.job 9).state = 0 ∧ (s.job 9).started = true ∧ (s.job 9).cancel = c ∧
      (s.job 9).pageWait = none ∧ s.jobFlips (s.job 9) = false ∧ plainHome s ∧ stepWords (s.job 9).prog scrWord.total = [0] ∧
      (∃ p, s.writePlaces (s.job 9) [memWord.byteAddr 0] = .ok [p] ∧ p.tgt = .device ∧ s.secsWait (partWords [p]) = false ∧
        (s.fetchSecs (partWords [p])).badSecs (partWords [p]) = [])) ∧
    (let s := copying (fun j => { j with started := true, copyDone := true })
     s.jobs.has 9 = true ∧ (s.job 9).state = 0 ∧ (s.job 9).copyDone = true ∧ s.followQueued 9 = false ∧ s.hostAccs = []) ∧
    (let s := { (commanded (fun c => { c with job := some 9, begun := false })) with jobs := (copying (fun j => { j with started := true, copyDone := true })).jobs }
     (∃ c, (s.block (s.job 9).block).seqq.find? (fun c => c.job == some 9) = some c ∧ c.begun = false ∧ (s.block (s.job 9).block).missing c = none) ∧
      s.jobs.has 9 = true ∧ (s.job 9).copyDone = true) ∧
    (let s := commanded (fun c => c)
     s.clockRuns = true ∧ s.seqTurn (s.block 0).pcore = some 0 ∧ ∃ c, (s.block 0).seqq = [c] ∧ (s.block 0).item c.i c.pa = some theTile ∧
       (s.block 0).item c.j c.pb = some theTile ∧ c.drain = false ∧ c.q ≠ .known false ∧ ((s.block 0).accum c.aD).step + 1 < theTile.steps ∧ (s.block 0).mapItem c = none) ∧
    (let s := commanded (fun c => { c with drain := true })
     s.clockRuns = true ∧ s.seqTurn (s.block 0).pcore = some 0 ∧ ∃ c, (s.block 0).seqq = [c] ∧ (s.block 0).item c.i c.pa = some theTile ∧
       (s.block 0).item c.j c.pb = some theTile ∧ c.drain = true) ∧
    ((fullQueue.eq 0).ctx = some 0 ∧ (fullQueue.eq 0).due = true ∧ (fullQueue.eq 0).busy.any (fun x => x.2 == (fullQueue.eq 0).buffer) = false ∧
      (fullQueue.mgmt.lauq.get [] 0).length < 256 ∧ fullQueue.queuesRun = true ∧ (fullQueue.eq 0).cdown ≠ 0 ∧ (fullQueue.eq 0).counting = true ∧
      ∃ u, fullQueue.sysWrite none 0 ((fullQueue.eq 0).bufVa + BitVec.ofNat 64 (4096 * (fullQueue.eq 0).buffer)) (tokenBytes ((fullQueue.eq 0).tokens.take 256)) = some u) := by
  have g1 : ∀ n ∈ [0, 1], (running (.copy 3 scrTile Shape.zero 0 none) n).clockRuns = true ∧ (running (.copy 3 scrTile Shape.zero 0 none) n).jobFlips ((running (.copy 3 scrTile Shape.zero 0 none) n).job 9) = false ∧
      (n ≠ 0 ∨ (running (.copy 3 scrTile Shape.zero 0 none) n).feedReady 9 0 scrTile.steps = true) ∧
      (groupRead (running (.copy 3 scrTile Shape.zero 0 none) n) scrTile (scrTile.tileRows 0)).toBool = true := by decide +kernel
  have g2 : ∀ n ∈ [0, 1], (running (.gath scrTile oneIndex 0 0) n).jobFlips ((running (.gath scrTile oneIndex 0 0) n).job 9) = false ∧
      (n ≠ 0 ∨ (running (.gath scrTile oneIndex 0 0) n).feedReady 9 0 scrTile.steps = true) ∧
      ((running (.gath scrTile oneIndex 0 0) n).jobRead 9 false (((List.range 32).filter (fun r => decide (0 + r < oneIndex.d0))).map (fun r => (oneIndex.base.toNat + 4 * (0 + r), 4)))).toBool = true ∧
      (groupRead (running (.gath scrTile oneIndex 0 0) n) scrTile ((gathRows scrTile oneIndex 0 [0, 0, 0, 0]).map (fun r => r.map scrTile.rowAddr))).toBool = true := by decide +kernel
  have h1 : ({ copying id with claims := [⟨0x8000, 1, 0, 8, true, 0, false⟩] }.footConflict ((copying id).job 9)).isSome = true := by decide +kernel
  have h2 : (fullQueue.sysWrite none 0 ((fullQueue.eq 0).bufVa + BitVec.ofNat 64 (4096 * (fullQueue.eq 0).buffer)) (tokenBytes ((fullQueue.eq 0).tokens.take 256))).isSome = true := rfl
  refine ⟨⟨by decide +kernel, by decide +kernel, Option.isSome_iff_exists.1 h1, by decide +kernel⟩,
    ⟨by decide +kernel, plainHome_of (by decide +kernel) ⟨rfl, rfl⟩ rfl, pair_of (by decide +kernel)⟩,
    fun n hn => ⟨(g1 n hn).1, rfl, rfl, rfl, rfl, rfl, rfl, rfl, (g1 n hn).2.1, rfl, (g1 n hn).2.2.1, rfl, by decide +kernel, pair_of (g1 n hn).2.2.2⟩,
    fun n hn => ⟨rfl, (g2 n hn).1, (g2 n hn).2.1, pair_of (g2 n hn).2.2.1, pair_of (g2 n hn).2.2.2⟩, fun c => ?_, by decide +kernel, ⟨⟨_, rfl, rfl, by decide +kernel⟩, by decide +kernel, by decide +kernel⟩,
    ⟨by decide +kernel, by decide +kernel, _, rfl, rfl, rfl, rfl, by decide +kernel, by decide +kernel, by decide +kernel⟩, ⟨by decide +kernel, by decide +kernel, _, rfl, rfl, rfl, rfl⟩,
    by decide +kernel, by decide +kernel, by decide +kernel, by decide +kernel, by decide +kernel, by decide +kernel, by decide +kernel, Option.isSome_iff_exists.1 h2⟩
  cases c <;> exact ⟨by decide +kernel, by decide +kernel, rfl, by decide +kernel, by decide +kernel, by decide +kernel, by decide +kernel, by decide +kernel, by decide +kernel, by decide +kernel, by decide +kernel,
    plainHome_of (by decide +kernel) ⟨rfl, rfl⟩ rfl, by decide +kernel, _, rfl, rfl, by decide +kernel, by decide +kernel⟩

/-- A reduction of two chunks between two parties of this device. -/
def reduction (op party : Nat) : CollDesc := { CollDesc.zero with op := op, src := 0x20000, dst := 0x30000, count := 128, cid := 1, party := party, errVa := 0x40000, errN := 2 }
def partyOf (op p : Nat) : Party := { Party.zero with desc := reduction op p, job := some (20 + p), joined := true, prep := true }
def collState (op : Nat) (f : Party → Party) (fly : List Fly) : State :=
  { demo with jobs := [(20, { Job.zero with kind := .coll (reduction op 0), unit := 1000, state := 0, started := true }),
                       (21, { Job.zero with kind := .coll (reduction op 1), unit := 1000, state := 0, started := true })],
              insts := [(0, { Inst.zero with cid := 1, np := 2, timeout := 1000, homes := [(0, 0), (0, 0)], parties := [(0, f (partyOf op 0)), (1, partyOf op 1)], flying := fly })],
              mgmt := { demo.mgmt with ats := (0xC00, [(0, grantAll)]) :: (List.range 16).map (fun k => (4096 * (4 + k) + 0xC00, [(0, grantAll)])) } }
/-- Party 0 has heard of party 1's exponents. -/
def heard (x : Party) : Party := { x with expFrom := [1] }
/-- A chunk of zeros of a party; the one that party 1 sends to party 0 in step 2. -/
def zeros (p : Nat) : FxChunk := fxChunk (-149) false p (List.replicate 64 0)
def zeroFly : Fly := let d := chunkBytes 1 2 0 1 false (zeros 1); ⟨2, 0, 1, 0, d, chunkFlits 256 d⟩
/-- A chunk of an all-gather from party 1, received as it was sent and with a bit changed on its way. -/
def rawFly (good : Bool) : Fly :=
  let d := chunkBytes 1 2 1 1 true (rawChunk (List.replicate 64 5))
  ⟨2, 1, 1, 0, d, chunkFlits 256 (if good then d else flipBit d 3)⟩
/-- The state may run a step of party 0. -/
def partyMoves (s : State) : Bool := s.insts.has 0 && s.partyRuns 0 0 && (s.party 0 0).job == some 20 && !s.fullg && !s.jobFlips (s.job 20)
/-- The next chunk-step that party 0 receives, and sends. -/
def nextIn (s : State) (c : CStep) : Bool :=
  (s.party 0 0).prep && ((s.party 0 0).recv 2)[(s.party 0 0).rcur]? == some c && !s.cellWaits 20 (0x30000 + 256 * c.chunk) 256
def nextOut (s : State) (c : CStep) : Bool :=
  (s.party 0 0).prep && (match ((s.party 0 0).recv 2)[(s.party 0 0).rcur]? with | none => true | some y => y.act == .red || y.act == .gat) &&
    ((s.party 0 0).send 2)[(s.party 0 0).scur]? == some c && s.isLocal 0 c.rcv
/-- A chunk of SRC is read, and written to DST. -/
def ownMoves (s : State) (c : Nat) : Bool := match s.srcWords 20 0 0 c with | .ok (v, ws) => (v.putDst 20 0 0 c ws).toBool | .error _ => false
theorem ownMoves_of {s : State} {c : Nat} (h : ownMoves s c = true) : ∃ v ws u, s.srcWords 20 0 0 c = .ok (v, ws) ∧ v.putDst 20 0 0 c ws = .ok u := by
  unfold ownMoves at h
  split at h
  · rename_i v ws hw
    obtain ⟨u, hu⟩ := ok_of_isOk h
    exact ⟨v, ws, u, hw, hu⟩
  · simp at h
/-- Party 1's job has stopped. -/
def gone : State :=
  { collState 0 heard [] with jobs := [(20, { Job.zero with kind := .coll (reduction 0 0), unit := 1000, state := 0, started := true }), (21, { Job.zero with kind := .coll (reduction 0 1), state := 3 })] }
/-- Party 1 is on device 9. -/
def far : State := { collState 0 id [] with insts := [(0, { (collState 0 id []).inst 0 with homes := [(0, 0), (9, 0)] })] }
theorem witness_PartiesExchangeChunks_prepare :
    (∀ s ∈ [collState 0 id [], far], partyMoves s = true ∧ (s.party 0 0).desc.reduces = true ∧ (s.party 0 0).desc.emode = 0 ∧ (s.party 0 0).expFrom.contains 1 = false ∧
      1 < (s.inst 0).np) ∧
    ((collState 0 id []).isLocal 0 1 = true ∧ ((collState 0 id []).party 0 1).joined = true ∧ ((collState 0 id []).party 0 1).prep = true) ∧
    far.isLocal 0 1 = false ∧
    (let s := collState 2 (fun x => { x with prep := false }) []
     partyMoves s = true ∧ (s.party 0 0).prep = false ∧ (s.party 0 0).desc.reduces = false) ∧
    (let s := collState 0 (fun x => { x with prep := false, desc := { x.desc with emode := 1, eva := 0x50000 } }) []
     (partyMoves s = true ∧ (s.party 0 0).prep = false ∧ (s.party 0 0).desc.reduces = true ∧ (s.party 0 0).desc.emode = 1) ∧
      ∃ v b, s.collRead 20 (s.party 0 0).desc.eva (2 * ((s.party 0 0).desc.count / 64)) = .ok (v, b)) ∧
    (let s := collState 0 (fun x => { x with prep := false }) []
     (partyMoves s = true ∧ (s.party 0 0).prep = false ∧ (s.party 0 0).desc.reduces = true ∧ (s.party 0 0).desc.emode ≠ 1) ∧
      ∃ v b, s.collRead 20 (s.party 0 0).desc.src (4 * (s.party 0 0).desc.count) = .ok (v, b)) :=
  ⟨by decide +kernel, by decide +kernel, by decide +kernel, by decide +kernel, ⟨by decide +kernel, pair_of (by decide +kernel)⟩, by decide +kernel, pair_of (by decide +kernel)⟩
/-- A partial of zeros, and the addition that has been made. -/
def summed (x : Party) : Party := { heard x with partials := [(0, zeros 0)] }
theorem witness_PartiesExchangeChunks_send :
    (let s := collState 2 id []
     (partyMoves s = true ∧ nextIn s ⟨.own, 1, 0, 0, 0⟩ = true) ∧ ∃ v ws u, s.srcWords 20 0 0 0 = .ok (v, ws) ∧ v.putDst 20 0 0 0 ws = .ok u) ∧
    (let s := collState 0 (fun x => { summed x with rcur := 1, nexts := [(0, 3)] }) []
     (partyMoves s = true ∧ nextIn s ⟨.cvt, 2, 0, 0, 0⟩ = true ∧ 2 < (s.party 0 0).next 0) ∧
      ∃ u, s.putDst 20 0 0 0 (fxWords ((s.party 0 0).partials.get ⟨0, 0, [], 0⟩ 0)) = .ok u) ∧
    (let s := collState 0 (fun x => { summed x with rcur := 1 }) []
     partyMoves s = true ∧ nextIn s ⟨.cvt, 2, 0, 0, 0⟩ = true ∧ (s.party 0 0).next 0 ≤ 2) ∧
    (∀ n ∈ [0, 3], let s := collState 0 (fun x => { heard x with rcur := n }) []
     (partyMoves s = true ∧ nextOut s ⟨.red, 2, 1, 0, 1⟩ = true ∧ (s.party 0 0).expBad 1 = false ∧ s.expsNever 0 0 = false ∧ s.hasExps 0 0 = true) ∧
      ∃ v f, s.contribution 20 0 0 1 = .ok (v, f)) ∧
    (let s := collState 0 (fun x => { heard x with rcur := 2, scur := 1, vals := [(0, List.replicate 64 0)] }) []
     partyMoves s = true ∧ nextOut s ⟨.gat, 3, 0, 0, 1⟩ = true ∧ (s.party 0 0).desc.reduces = true ∧
      (s.party 0 0).vals.find? (fun y => y.1 == 0) = some (0, List.replicate 64 0)) ∧
    (let s := collState 2 (fun x => { x with rcur := 1 }) []
     (partyMoves s = true ∧ nextOut s ⟨.gat, 2, 0, 0, 1⟩ = true ∧ (s.party 0 0).desc.reduces = false) ∧ ∃ v ws, s.srcWords 20 0 0 0 = .ok (v, ws)) := by
  have h : ∀ n ∈ [0, 3], (partyMoves (collState 0 (fun x => { heard x with rcur := n }) []) = true ∧ nextOut (collState 0 (fun x => { heard x with rcur := n }) []) ⟨.red, 2, 1, 0, 1⟩ = true ∧
      ((collState 0 (fun x => { heard x with rcur := n }) []).party 0 0).expBad 1 = false ∧ (collState 0 (fun x => { heard x with rcur := n }) []).expsNever 0 0 = false ∧
      (collState 0 (fun x => { heard x with rcur := n }) []).hasExps 0 0 = true) ∧ ((collState 0 (fun x => { heard x with rcur := n }) []).contribution 20 0 0 1).toBool = true := by decide +kernel
  exact ⟨⟨by decide +kernel, ownMoves_of (by decide +kernel)⟩, ⟨by decide +kernel, ok_of_isOk (by decide +kernel)⟩, by decide +kernel, fun n hn => ⟨(h n hn).1, pair_of (h n hn).2⟩, by decide +kernel, by decide +kernel, pair_of (by decide +kernel)⟩

/-- What the check of a chunk answers. -/
def chunkGood (s : State) (c : CStep) (f : Fly) : Bool :=
  let raw := c.act == .gat
  let b := chunkOf raw f.got
  headerOk (s.inst 0).cid c.step c.chunk c.snd raw (if raw then 0 else s.expOf 0 0 c.chunk) f.got && proofOf raw b.mask b.m == b.proof
/-- The chunk is there, and no earlier chunk-step has its chunk late. -/
def chunkComes (s : State) (c : CStep) (f : Fly) : Bool :=
  partyMoves s && (s.redoJob 0 0).isNone && (s.lateStep 0 0).isNone && nextIn s c && !s.neverComes 0 c && s.hasExps 0 0 && s.isLocal 0 c.snd &&
    (s.inst 0).flying.find? (sameFly c) == some f
/-- The partial and the chunk add up, and nothing stands against the addition. -/
def addsUp (s : State) (c : CStep) (a b : FxChunk) : Bool :=
  (s.party 0 0).next c.chunk == c.step && !(s.party 0 0).failed.any (fun g => g.step == c.step && g.chunk == c.chunk) &&
    !(s.party 0 0).incs.has (incKey (c.step + 1) c.chunk) && !s.injFires (s.party 0 0).desc.die 2 c.step && !(s.party 0 0).expBad c.chunk &&
    proofOf false (addChunks a b).mask (addChunks a b).m == expectedProof a b (addChunks a b).mask
/-- The state in which the addition of zeroFly is made. -/
def adding (f : Party → Party) : State :=
  ((collState 0 f [zeroFly]).unfly 0 ⟨.red, 2, 0, 1, 0⟩).updParty 0 0 (fun y => { y with incs := y.incs.set (incKey 2 0) (chunkOf false zeroFly.got) })
/-- A contribution of zeros is read. -/
def givesZeros (s : State) : Bool := match s.contribution 20 0 0 0 with | .ok (_, f) => f == zeros 0 | .error _ => false
theorem givesZeros_of {s : State} (h : givesZeros s = true) : ∃ v, s.contribution 20 0 0 0 = .ok (v, zeros 0) := by
  unfold givesZeros at h
  split at h
  · rename_i v f hf
    exact ⟨v, by rw [hf, (by simpa using h : f = zeros 0)]⟩
  · simp at h
theorem witness_PartiesExchangeChunks_receive :
    ((partyMoves gone && (gone.redoJob 0 0).isNone && (gone.lateStep 0 0).isNone && nextIn gone ⟨.red, 2, 0, 1, 0⟩) = true ∧ gone.neverComes 0 ⟨.red, 2, 0, 1, 0⟩ = true ∧
      (∃ v, gone.keepPartial 20 0 ⟨.red, 2, 0, 1, 0⟩ = .ok v) ∧ plainHome gone) ∧
    (let s := collState 2 (fun x => { x with rcur := 1 }) [rawFly true]
     (chunkComes s ⟨.gat, 2, 1, 1, 0⟩ (rawFly true) = true ∧ chunkGood s ⟨.gat, 2, 1, 1, 0⟩ (rawFly true) = true ∧
       (s.party 0 0).retried.find? (fun r => r.1 == 2 && r.2.1 == 1) = none) ∧
      ∃ u, (s.unfly 0 ⟨.gat, 2, 1, 1, 0⟩).putDst 20 0 0 1 (rawWords (chunkOf true (rawFly true).got)) = .ok u) ∧
    (∀ f ∈ [heard, summed], let s := collState 0 f [zeroFly]
     chunkComes s ⟨.red, 2, 0, 1, 0⟩ zeroFly = true ∧ chunkGood s ⟨.red, 2, 0, 1, 0⟩ zeroFly = true ∧ (s.party 0 0).retried = [] ∧
      addsUp s ⟨.red, 2, 0, 1, 0⟩ (zeros 0) (chunkOf false zeroFly.got) = true) ∧
    ((collState 0 summed [zeroFly]).party 0 0).partials.find? (fun y => y.1 == 0) = some (0, zeros 0) ∧
    (((collState 0 heard [zeroFly]).party 0 0).partials.has 0 = false ∧ ∃ v, (adding heard).contribution 20 0 0 0 = .ok (v, zeros 0)) ∧
    (let s := collState 2 (fun x => { x with rcur := 1, desc := { x.desc with errN := 0 } }) [rawFly false]
     chunkComes s ⟨.gat, 2, 1, 1, 0⟩ (rawFly false) = true ∧ chunkGood s ⟨.gat, 2, 1, 1, 0⟩ (rawFly false) = false ∧ (s.inst 0).flags % 2 = 0 ∧
      (s.party 0 0).desc.errN ≤ (s.party 0 0).recs.length ∧ (s.party 0 1).released = false) := by
  have h : ∀ s ∈ [collState 0 heard [zeroFly], collState 0 summed [zeroFly]], chunkComes s ⟨.red, 2, 0, 1, 0⟩ zeroFly = true ∧
      chunkGood s ⟨.red, 2, 0, 1, 0⟩ zeroFly = true ∧ (s.party 0 0).retried = [] ∧ addsUp s ⟨.red, 2, 0, 1, 0⟩ (zeros 0) (chunkOf false zeroFly.got) = true := by decide +kernel
  refine ⟨⟨by decide +kernel, by decide +kernel, ok_of_isOk (e := gone.keepPartial 20 0 ⟨.red, 2, 0, 1, 0⟩) (by decide +kernel), plainHome_of (by decide +kernel) ⟨rfl, rfl⟩ rfl⟩, ⟨by decide +kernel, ok_of_isOk (by decide +kernel)⟩, fun f hf => h _ ?_, by decide +kernel,
    ⟨by decide +kernel, givesZeros_of (by decide +kernel)⟩, by decide +kernel⟩
  simp only [List.mem_cons, List.not_mem_nil, or_false] at hf
  rcases hf with rfl | rfl
  · exact .head _
  · exact .tail _ (.head _)
theorem witness_PartiesExchangeChunks_time_out :
    (let s := collState 0 (fun x => { heard x with desc := { x.desc with errN := 0 } }) []
     (partyMoves s = true ∧ nextIn s ⟨.red, 2, 0, 1, 0⟩ = true ∧ (s.inst 0).timeout ≠ 0 ∧ s.expsNever 0 0 = false ∧ (s.party 0 0).desc.errN = 0 ∧ s.hasExps 0 0 = true ∧
       s.neverComes 0 ⟨.red, 2, 0, 1, 0⟩ = false) ∧ ∃ v, s.keepPartial 20 0 ⟨.red, 2, 0, 1, 0⟩ = .ok v) ∧
    (let s := collState 0 (fun x => { x with desc := { x.desc with errN := 0 } }) []
     partyMoves s = true ∧ (s.party 0 0).prep = true ∧ (s.inst 0).timeout ≠ 0 ∧ s.expsNever 0 0 = false ∧ s.hasExps 0 0 = false) :=
  ⟨⟨by decide +kernel, ok_of_isOk (by decide +kernel)⟩, by decide +kernel⟩

theorem witness_ChunksAreChecked :
    (let d := chunkBytes 1 3 1 1 true (rawChunk (List.replicate 64 5))
     headerOk 1 3 1 1 true 0 d = true ∧ proofOf true (chunkOf true d).mask (chunkOf true d).m = (chunkOf true d).proof) ∧
    (headerOk 1 3 1 1 true 0 [] = false ∧ ((collState 0 id []).inst 0).cid = 1) ∧
    ((collState 0 id []).party 0 0).retried.find? (fun r => r.1 == 3 && r.2.1 == 1) = none ∧
    ((collState 0 id []).inst 0).flags % 2 = 0 ∧
    (let s := collState 0 (fun x => { x with desc := { x.desc with errN := 0 } }) []
     (s.party 0 0).desc.errN ≤ (s.party 0 0).recs.length) ∧
    (let s := { collState 0 id [] with insts := [(0, { (collState 0 id []).inst 0 with flags := 1 })] }
     (s.inst 0).flags % 2 = 1 ∧ (s.party 0 0).retried.find? (fun r => r.1 == 3 && r.2.1 == 1) = none) := by decide +kernel

/-! ## Witnesses: memory controllers, links, the host -/

def withStack (f : Stack → Stack) : State := { demo with hbms := [(0, f Stack.zero)] }
/-- A group of the stack; its waiting request, access 7, which has asked for its sector of stack `k`. -/
def aGroup : Group := ⟨1, none, 0, [0], some 4, false, false, false, 1⟩
theorem witness_MemoryControllersServe :
    (∀ k ∈ [0, 15], ∃ x ∈ [(0 : Nat), 3 * 2 ^ 32 + 192], secStack x = k ∧ x < 2 ^ 34) ∧
    ((withAcc (loading .sent)).accs.has 7 = true ∧ (withAcc (loading .sent)).requested (loading .sent) (secStack (0x10000 / 64)) ≠ [] ∧
      ∀ g ∈ ((withAcc (loading .sent)).stack (secStack (0x10000 / 64))).groups, g.who ≠ some (loading .sent).who) ∧
    (let s := withStack (fun t => { t with groups := [aGroup] })
     s.arrayPaused = false ∧ (s.stack 0).soonest ((s.stack 0).groups.filter (fun g => g.pci == 0 && (s.stack 0).servable g)) = some aGroup) ∧
    (∀ n, (((withStack (fun t => t.setBank 0 0 ⟨.normal, n⟩)).stack 0).bankRef 0 0).st = .normal ∧
      (((withStack (fun t => t.setBank 0 0 ⟨.normal, n⟩)).stack 0).bankRef 0 0).count = n) ∧
    (∀ st ∈ [RState.backoff, .catchup], (((withStack (fun t => t.setBank 0 0 ⟨st, 1⟩)).stack 0).bankRef 0 0).st ≠ .normal) ∧
    (secStack 0 = 0 ∧ demo.arrayPaused = false ∧ (demo.stack 0).scrubWaits (secRow 0) = false ∧ demo.bad = [] ∧ demo.lost = [] ∧ demo.weak = [] ∧
      { demo with weak := [0] }.weak = [0]) ∧
    (let s := withStack (fun t => { t with sparing := some (0, 0, 5) })
     (s.stack 0).sparing = some (0, 0, 5) ∧ (s.stack 0).freeSpare 0 0 = some 0) :=
  ⟨by decide +kernel, by decide +kernel, by decide +kernel, fun _ => ⟨rfl, rfl⟩, by decide +kernel, by decide +kernel, by decide +kernel⟩

/-- Link 15 in a state of LNKSTAT. -/
def linked (f : Link → Link) : State := { demo with links := [(15, f (linkUp 2))] }
/-- COLLINJ of its hub arms an upset of a chunk's flit at its port. -/
def armed : State := let s := linked id; { s with mgmt := { s.mgmt with collinj := [(3, 1 + (31 <<< 8))] } }
/-- Its peer may reach context 0 under ASID 9, and a request of it has been accepted. -/
def peered : State :=
  let s := linked (fun l => { l with reqs := 1 })
  { s with mgmt := { s.mgmt with peerasid := [(0, (1 <<< 63) + 9)] } }
/-- The page is a page of the host. -/
def peeredFar : State :=
  { peered with mem := (bootMem [] []).putNat bootTable 0x91F 8, mgmt := { peered.mgmt with ats := peered.mgmt.ats.set (4096 * 20) [(0, grantAll)] } }
/-- Where a request at an address lies. -/
def peerPlace (s : State) (va : DWord) (op : PeerOp) : Option Place := match s.placeHub 0 0 va (peerRight op) with | .ok p => some p | .error _ => none
theorem peerPlace_of {s : State} {va : DWord} {op : PeerOp} {P : Place → Bool} (h : (peerPlace s va op).any P = true) :
    ∃ p, s.placeHub 0 0 va (peerRight op) = .ok p ∧ P p = true := by
  unfold peerPlace at h
  split at h
  · rename_i p hp; exact ⟨p, hp, by simpa using h⟩
  · simp at h
theorem peerPlace_none {s : State} {va : DWord} {op : PeerOp} (h : (peerPlace s va op).isNone = true) : ∃ e, s.placeHub 0 0 va (peerRight op) = .error e := by
  unfold peerPlace at h
  split at h
  · simp at h
  · rename_i e he; exact ⟨e, he⟩
/-- The request is served: device memory, nothing bad, nothing that holds it. -/
def peerServes (op : PeerOp) (p : Place) : Bool :=
  p.tgt == .device && (peered.badLevel p.pa 4).isNone && !peered.peerHeld op ⟨0, p.pa, peerWrites op, [7, 0, 0, 0], none⟩ && !peered.mscDenies 0 p.pa .read &&
    ((peered.fetchSecs (partSecs p.pa 4)).badSecs (partSecs p.pa 4)).isEmpty
/-- A write of access 7 at the head of the link's queue. -/
def postedAtHead : State :=
  { withAcc { storing .dataSent with pieces := [{ word0 with tgt := .peer 15 9, st := .dataSent }] } with links := [(15, linkUp 2)] }
theorem witness_LinksCarryAndRecover :
    (((linked id).link 15).state = 2 ∧ ((linked id).link 15).spare = false ∧ ((linked id).link 15).lostLane = none ∧ linkOf (31 : BitVec 14).toNat = 15) ∧
    (let s := armed
     (s.link 15).state = 2 ∧ (s.link 15).rxSeq.toNat = 0 ∧ bitsOf (s.inj (15 / 4)) 0 2 = 1 ∧ bitsOf (s.inj (15 / 4)) 8 5 = 16 + 15 ∧ bitsOf (s.inj (15 / 4)) 32 16 = 0) ∧
    bitsOf ((linked id).inj (15 / 4)) 0 2 ≠ 1 ∧
    (let s := linked (fun l => { l with replay := [⟨1, 4, 0, none, false, []⟩, ⟨3, 5, 0, none, false, []⟩] })
     (s.link 15).state = 2 ∧ ∃ f ∈ (s.link 15).replay, f.seq = 5) ∧
    (let s := linked (fun l => { l with stat := 6 })
     (s.link 15).state = 2 ∧ (s.link 15).spare = true) ∧
    (∀ k ∈ [none, some 7], let s := linked (fun l => { l with stat := 3, lostLane := k })
     (s.link 15).state = 3 ∧ (s.link 15).lostLane = k ∧ (s.link 15).spare = false) ∧
    ((peered.link 15).state = 2 ∧ (peered.link 15).reqs ≠ 0 ∧ peered.fullg = false ∧ peered.peerCtx 8 = none ∧ peered.peerCtx 9 = some 0) ∧
    (∀ op ∈ [PeerOp.read, .write, .atomic 7 true 3, .ared .fadd false], peerFits op 0x10000 4 = true ∧
      (∃ e, peered.placeHub 0 0 0x40000000 (peerRight op) = .error e) ∧ (∃ p, peeredFar.placeHub 0 0 0x10000 (peerRight op) = .ok p ∧ (p.tgt == .host) = true) ∧
      ∃ p, peered.placeHub 0 0 0x10000 (peerRight op) = .ok p ∧ peerServes op p = true) ∧
    (plainHome peered ∧ (∀ x, peered.readerCounted x = false) ∧ ∀ e lv a, peered.walk 0 0x10000 = .leaf e lv a → eBits e 7 2 ≠ 1) ∧
    (∃ rest, (postedAtHead.link 15).state = 2 ∧ (postedAtHead.link 15).queue = posted :: rest ∧ (∀ y ∈ postedAtHead.links, y.1 ≠ 15 → ∀ r ∈ y.2.queue, r.acc ≠ 7) ∧
      postedAtHead.accs.has 7 = true ∧ ∀ p ∈ (postedAtHead.acc 7).pieces, p.err = none) ∧
    (let s := { withAcc { loading .sent with pieces := [{ word0 with tgt := .peer 15 9 }] } with links := [(15, { linkUp 2 with queue := [] })] }
     s.accs.has 7 = true ∧ (s.acc 7).kind.isStore = false ∧ (s.acc 7).pieces = [{ word0 with tgt := .peer 15 9 }] ∧ word0.st = .sent ∧
     s.pieceNext 7 0 = true ∧ s.ownPending (s.acc 7) { word0 with tgt := .peer 15 9 } = false ∧ s.linkUp 15 = true ∧ ∀ y ∈ s.links, ∀ r ∈ y.2.queue, r.acc ≠ 7) := by
  have h : ∀ op ∈ [PeerOp.read, .write, .atomic 7 true 3, .ared .fadd false], peerFits op 0x10000 4 = true ∧ (peerPlace peered 0x40000000 op).isNone = true ∧
      (peerPlace peeredFar 0x10000 op).any (fun p => p.tgt == .host) = true ∧ (peerPlace peered 0x10000 op).any (peerServes op) = true := by decide +kernel
  refine ⟨by decide +kernel, by decide +kernel, by decide +kernel, by decide +kernel, by decide +kernel, by decide +kernel, by decide +kernel, fun op hop => ?_, ⟨plainHome_of (by decide +kernel) ⟨rfl, rfl⟩ rfl, fun _ => rfl, ?_⟩, ⟨[], by decide +kernel⟩, by decide +kernel⟩
  · obtain ⟨a, b, c, d⟩ := h op hop
    exact ⟨a, peerPlace_none b, peerPlace_of c, peerPlace_of d⟩
  · intro e lv at' he
    have hw : peered.walk 0 0x10000 = .leaf 0x11F 2 0x4000 := rfl
    rw [hw] at he
    injection he with he
    subst he; decide

/-- The host may reach the first 64 GiB as function 0; page 16 is in bias range 0 with a flip. -/
def hosted (f : List Flip) : State :=
  { demo with mgmt := { demo.mgmt with ats := (0, [(0, grantAll)]) :: (0xC10, [(0, grantAll)]) :: (List.range 16).map (fun k => (4096 * (4 + k) + 0xC10, [(0, grantAll)])),
                                       ranges := [(0, ⟨0x1 + (0xFF <<< 40), 0x20000, []⟩)], flips := f } }
theorem witness_HostAccessesAndBiasFlips :
    (∀ w ∈ [(1 : BitVec 5), 16], w.toNat ∈ [1, 2, 4, 8, 16]) ∧
    ((hosted []).hostAccs = [] ∧ (hosted []).hostReaches 0x10000 4 = true ∧ (hosted []).permits (dieOf 0x10000) (hostMid 0) 0x10000 .write = true ∧
      (hosted []).permits (dieOf 0x10000) (hostMid 0) 0x10000 .read = true ∧ (hosted []).hostHeld ⟨0, 0x10000, true, [1, 2, 3, 4], none⟩ = false ∧
      (hosted []).hostHeld ⟨0, 0x10000, false, [1, 2, 3, 4], none⟩ = false ∧ plainHome (hosted []) ∧
      ((hosted []).fetchSecs (partSecs 0x10000 4)).badSecs (partSecs 0x10000 4) = [] ∧ (hosted []).badLevel 0x10000 4 = none ∧
      (hosted []).mscDenies (hostMid 0) 0x10000 .read = false ∧ ∀ l, (hosted []).readerCounted l = false) ∧
    ((hosted []).permits (dieOf 0x10000) (hostMid 1) 0x10000 .read = false ∧ (hosted []).hostReaches 0x10000 0 = false) ∧
    (let s := hosted [⟨16, .d2h, [], .command⟩]
     s.flipAt 16 = some .d2h ∧ s.dataOutstanding 16 = false ∧ ∀ c ∈ s.cells, c.addr / 4096 ≠ 16) ∧
    (let s := hosted [⟨16, .d2hFl, [], .command⟩]
     s.mgmt.flipWait = [] ∧ (∃ k r, s.biasRange 16 = some (k, r)) ∧ s.flipAt 16 = some .d2hFl) ∧
    (∀ l ∈ [[512], [512, 513]], let s := hosted [⟨16, .h2d, l, .command⟩]
     s.mgmt.flipWait = [] ∧ (s.biasRange 16).isSome = true ∧ s.mgmt.flips.find? (fun f => f.page == 16 && f.st == .h2d && f.snoops.contains 512) = some ⟨16, .h2d, l, .command⟩) := by
  refine ⟨by decide +kernel, ⟨by decide +kernel, by decide +kernel, by decide +kernel, by decide +kernel, by decide +kernel, by decide +kernel, plainHome_of (by decide +kernel) ⟨rfl, rfl⟩ rfl, by decide +kernel, by decide +kernel, by decide +kernel, fun _ => rfl⟩, by decide +kernel, by decide +kernel,
    ⟨by decide +kernel, ⟨_, _, rfl⟩, by decide +kernel⟩, by decide +kernel⟩

/-! ## Witnesses: power, boot, management -/

def managed (f : Mgmt → Mgmt) : State := { demo with mgmt := f demo.mgmt }
/-- Die 3 is on its way to be parked; logical core 0 has come to it in the meantime, and the others share a core. -/
def parking (m : Tab (BitVec 9)) : State := managed (fun g => { g with diepark := 0x800, remap := m })
theorem witness_PowerAndCheckpointStepsEnd :
    (510 * bitsOf demo.mgmt.pwrceil.toNat 0 9 < 100 * 1837 ∧ demo.mxthr < 15) ∧
    (let s := managed (fun m => { m with pwrstat := 0x200 })
     1799 < 5 * bitsOf s.mgmt.pwrceil.toNat 0 9 ∧ 1800 ≤ 5 * bitsOf s.mgmt.pwrceil.toNat 0 9 ∧ s.fullg = false ∧ s.isthr ≠ 0) ∧
    ((managed (fun m => { m with pGoal := some 7 })).mgmt.pGoal = some 7 ∧ (managed (fun m => { m with mGoal := some 3 })).mgmt.mGoal = some 3) ∧
    (∀ x ∈ [(([] : Tab (BitVec 9)), true), ([(0, 384)], false)], let s := parking x.1
     s.mgmt.dieWait = [] ∧ s.parkBusy 3 = true ∧ s.parked 3 = false ∧ (s.planMoves 3 (s.onDie 3) []).isSome = x.2) ∧
    (let s := managed (fun m => { m with diepark := 0x880 })
     s.mgmt.dieWait = [] ∧ s.parkBusy 3 = true ∧ s.parked 3 = true ∧ s.mgmt.former = []) ∧
    (∀ n, (demo.mgmt.samples.get [] n).length < 6) ∧
    (∀ n ∈ [1, 2, 3, 4, 5], let s := managed (fun m => { m with ckpt2 := BitVec.ofNat 64 (4 + 16 * n) })
     s.ckptHolds = true ∧ s.ckptStep = n ∧ s.collBusy = false ∧ s.ckptDir = false ∧ s.arrayPaused = false) ∧
    (managed (fun m => { m with ckpt2 := 0x44 })).memoriesWf :=
  ⟨by decide +kernel, by decide +kernel, by decide +kernel, by decide +kernel, by decide +kernel, fun _ => Nat.zero_lt_succ 5, by decide +kernel, memoriesWf_of (by decide +kernel)⟩

/-- A configuration block whose bytes but the magic are 0 (R21); with `own`, its remap table gives every logical core the PCORE of its own number. -/
def blockBytes (own : Bool) (i : Nat) : Byte :=
  if own && decide (0x100 ≤ i) && decide (i < 0x500) && i % 4 == 0 then BitVec.ofNat 8 ((i - 0x100) / 4) else BitVec.ofNat 8 (configMagic / 2 ^ (8 * i))
def listFrom (own : Bool) (a n : Nat) : Tab Byte := (List.range' a n).map (fun i => (i, blockBytes own i))
theorem listFrom_get (own : Bool) (a n k : Nat) : (listFrom own a n).get 0xFF k = if a ≤ k ∧ k < a + n then blockBytes own k else 0xFF := by
  induction n generalizing a with
  | zero => rw [if_neg (by omega)]; rfl
  | succ n ih =>
    show (if a = k then blockBytes own a else Tab.get 0xFF (listFrom own (a + 1) n) k) = _
    by_cases h : a = k
    · subst h; rw [if_pos rfl, if_pos (by omega)]
    · rw [if_neg h, ih]
      by_cases hk : a + 1 ≤ k ∧ k < a + 1 + n
      · rw [if_pos hk, if_pos (by omega)]
      · rw [if_neg hk, if_neg (by omega)]
/-- Copy A is that block; copy B is erased. -/
def flashed (own : Bool) : State := managed (fun m => { m with flashA := listFrom own 0 65536 })
theorem flashed_byte (own : Bool) (i : Nat) (h : i < 65536) : (flashed own).cold.flashByte false i = blockBytes own i := by
  show (listFrom own 0 65536).get 0xFF i = _
  rw [listFrom_get, if_pos (by omega)]
theorem magic_zero (i : Nat) (h8 : 8 ≤ i) : BitVec.ofNat 8 (configMagic / 2 ^ (8 * i)) = 0 := by
  have : 2 ^ 64 ≤ 2 ^ (8 * i) := Nat.pow_le_pow_right (by decide) (by omega)
  rw [Nat.div_eq_of_lt (Nat.lt_of_lt_of_le (by decide) this)]; rfl
theorem flashed_zero (own : Bool) (i : Nat) (h : i < 65536) (h8 : 8 ≤ i) (ht : i < 0x100 ∨ 0x500 ≤ i ∨ i % 4 ≠ 0) : (flashed own).cold.flashByte false i = 0 := by
  rw [flashed_byte own i h, blockBytes, if_neg, magic_zero i h8]
  simp only [Bool.and_eq_true, decide_eq_true_eq, beq_iff_eq]
  omega
theorem leNat_zero : ∀ n, leNat (List.replicate n 0) = 0
  | 0 => rfl
  | n + 1 => by
    have h : leNat (List.replicate n 0#8) = 0 := leNat_zero n
    show (0#8).toNat + 256 * leNat (List.replicate n 0#8) = 0
    rw [h]; rfl
theorem flashed_nat (own : Bool) (o n : Nat) (h8 : 8 ≤ o) (h : o + n ≤ 65536) (ht : o + n ≤ 0x100 ∨ 0x500 ≤ o) : (flashed own).cold.flashNat false o n = 0 := by
  have : (List.range n).map (fun k => (flashed own).cold.flashByte false (o + k)) = List.replicate n 0 := by
    apply List.ext_getElem (by simp)
    intro k hk _
    simp only [List.length_map, List.length_range] at hk
    simp [flashed_zero own (o + k) (by omega) (by omega) (by omega)]
  rw [State.flashNat, this, leNat_zero]
theorem flashed_entry (own : Bool) (l : Nat) (h : l < 256) : (flashed own).cold.flashNat false (0x100 + 4 * l) 4 = if own then l else 0 := by
  have b0 : (flashed own).cold.flashByte false (0x100 + 4 * l) = BitVec.ofNat 8 (if own then l else 0) := by
    rw [flashed_byte own _ (by omega), blockBytes]
    cases own with
    | false => rw [if_neg (by simp), magic_zero _ (by omega)]; rfl
    | true =>
      rw [if_pos (by simp only [Bool.true_and, Bool.and_eq_true, decide_eq_true_eq, beq_iff_eq]; omega)]
      rw [show (0x100 + 4 * l - 0x100) / 4 = l by omega]; rfl
  have bk : ∀ k, 1 ≤ k → k < 4 → (flashed own).cold.flashByte false (0x100 + 4 * l + k) = 0 := fun k h1 h4 => flashed_zero own _ (by omega) (by omega) (by omega)
  have e : (List.range 4).map (fun k => (flashed own).cold.flashByte false (0x100 + 4 * l + k)) = [BitVec.ofNat 8 (if own then l else 0), 0, 0, 0] := by
    show [(flashed own).cold.flashByte false (0x100 + 4 * l + 0), (flashed own).cold.flashByte false (0x100 + 4 * l + 1), (flashed own).cold.flashByte false (0x100 + 4 * l + 2),
      (flashed own).cold.flashByte false (0x100 + 4 * l + 3)] = _
    rw [Nat.add_zero, b0, bk 1 (by decide) (by decide), bk 2 (by decide) (by decide), bk 3 (by decide) (by decide)]
  rw [State.flashNat, e]
  show (BitVec.ofNat 8 (if own then l else 0)).toNat + 256 * 0 = _
  rw [BitVec.toNat_ofNat]
  cases own with
  | false => rfl
  | true => exact Nat.mod_eq_of_lt h
theorem flashed_zeros (own : Bool) (lo hi : Nat) (h8 : 8 ≤ lo) (h : hi ≤ 65536) (ht : hi ≤ 0x100 ∨ 0x500 ≤ lo) : (flashed own).cold.flashZero false lo hi = true := by
  rw [State.flashZero, List.all_eq_true]
  intro k hk
  have := List.mem_range.1 hk
  rw [flashed_zero own (lo + k) (by omega) (by omega) (by omega)]
  rfl
/-- Copy A is valid in every respect but its signature, whose check the spec leaves to the implementation (log entry 9). -/
theorem flashed_copy (own : Bool) : (flashed own).cold.copyOk false = Config.signatureOk ((List.range 65536).map ((flashed own).cold.flashByte false)) := by
  have magic : (flashed own).cold.flashNat false 0 8 = configMagic := by
    have : (List.range 8).map (fun k => (flashed own).cold.flashByte false (0 + k)) = (List.range 8).map (fun i => BitVec.ofNat 8 (configMagic / 2 ^ (8 * i))) := by
      apply List.map_congr_left
      intro k hk
      have := List.mem_range.1 hk
      rw [Nat.zero_add, flashed_byte own k (by omega), blockBytes, if_neg]
      simp only [Bool.and_eq_true, decide_eq_true_eq]
      omega
    rw [State.flashNat, this]; decide
  have spare : ∀ i ∈ List.range 1024, (flashed own).cold.rowSpare false i = 0 := fun i hi => by
    have := List.mem_range.1 hi
    exact flashed_nat own _ _ (by omega) (by omega) (by omega)
  have word : ∀ o, 8 ≤ o → o + 4 ≤ 0x100 → (flashed own).cold.flashNat false o 4 = 0 := fun o h8 h => flashed_nat own o 4 h8 (by omega) (.inl h)
  have a : (flashed own).cold.reservedZero false = true := by
    simp only [State.reservedZero, word 0x10 (by decide) (by decide), word 0x18 (by decide) (by decide), word 0x1C (by decide) (by decide), word 0x20 (by decide) (by decide),
      flashed_zeros own 0x24 0x100 (by decide) (by decide) (by decide), flashed_zeros own 0x550 0x1000 (by decide) (by decide) (by decide),
      flashed_zeros own 0xF000 0xFF00 (by decide) (by decide) (by decide), flashed_zeros own 0xFF60 0x10000 (by decide) (by decide) (by decide)]
    simp only [Bool.and_eq_true, List.all_eq_true, decide_eq_true_eq]
    refine ⟨⟨⟨⟨⟨by decide, ?_⟩, trivial⟩, ?_⟩, trivial⟩, trivial⟩
    · intro l hl
      have := List.mem_range.1 hl
      rw [flashed_entry own l this]; split <;> omega
    · intro i hi
      rw [spare i hi]; decide
  have b : (flashed own).cold.remapClear false = true := by
    rw [State.remapClear, List.all_eq_true]
    intro l _
    rw [word 0x1C (by decide) (by decide), Nat.zero_testBit]; rfl
  have c : (flashed own).cold.sparesDistinct false = true := by
    rw [State.sparesDistinct, List.all_eq_true]
    intro i hi
    rw [List.all_eq_true]
    intro j hj
    have h1 := List.mem_range.1 hi
    have h2 := List.mem_range.1 hj
    rw [spare i hi, spare j (List.mem_range.2 (by omega))]; decide
  rw [State.copyOk, magic, a, b, c]
  rfl
theorem filter_range_eq (p n : Nat) : ((List.range n).filter (fun q => q == p)).length ≤ 1 ∧ (n ≤ p → (List.range n).filter (fun q => q == p) = []) := by
  have e : ∀ m, m ≤ p → (List.range m).filter (fun q => q == p) = [] := fun m hm => by
    rw [List.filter_eq_nil_iff]
    intro q hq
    have := List.mem_range.1 hq
    simp only [beq_iff_eq]; omega
  refine ⟨?_, e n⟩
  induction n with
  | zero => exact Nat.zero_le 1
  | succ n ih =>
    rw [List.range_succ, List.filter_append, List.length_append]
    by_cases h : n = p
    · rw [e n (by omega)]
      simpa using (List.length_filter_le _ _ : ([n].filter (fun q => q == p)).length ≤ 1)
    · rw [List.filter_cons_of_neg (by simpa using h)]
      simpa using ih
/-- The table of own numbers gives no core three logical cores; the table of zeros gives core 0 all of them. -/
theorem flashed_over (own : Bool) : (flashed own).cold.remapOver false = !own := by
  have e : (List.range 256).map (fun l => (flashed own).cold.flashNat false (0x100 + 4 * l) 4) = (List.range 256).map (fun l => if own then l else 0) :=
    List.map_congr_left (fun l hl => flashed_entry own l (List.mem_range.1 hl))
  rw [State.remapOver, e]
  cases own with
  | false => decide
  | true =>
    simp only [if_true, List.map_id', Bool.not_true]
    rw [List.any_eq_false]
    intro p _
    have := (filter_range_eq p 256).1
    simp only [Bool.and_eq_true, decide_eq_true_eq, not_and, Nat.not_lt]
    intro _; omega
/-- A flash operation that runs on block 1,023 of a copy. -/
def flashing (n : Nat) (copyB : Bool) (old : Tab Byte) : State :=
  managed (fun m => { m with flcmd := BitVec.ofNat 32 (4 + n), flashRun := some ⟨n, copyB, 1023, List.replicate 64 7⟩, flashA := old, flashB := old })
/-- The configuration clauses for a valid copy hold of `flashed` where its signature is good; every other clause holds of a state outright. -/
theorem witness_ResetBootAndFlash :
    (demo.cold.copyOk false = false ∧ demo.cold.copyOk true = false) ∧
    (∀ own, Config.signatureOk ((List.range 65536).map ((flashed own).cold.flashByte false)) = true →
      (flashed own).cold.copyOk false = true ∧ (flashed own).cold.copyOk true = false ∧ (flashed own).cold.remapOver false = !own) ∧
    ((managed (fun m => { m with bootstat := 2 })).phase = 2 ∧ (managed (fun m => { m with bootstat := 3 })).phase = 3 ∧
      bitsOf (managed (fun m => { m with bootstat := 3 })).mgmt.bootstat.toNat 4 4 = 0) ∧
    (∀ n ∈ [1, 2, 3], ∀ c, (flashing n c []).flashOp n = some ⟨n, c, 1023, List.replicate 64 7⟩ ∧ (flashing 2 c []).flashOp 1 = none) ∧
    (∀ c, (flashing 2 c []).blockClean c 1023 = true ∧ (flashing 2 c [(65535, 0)]).blockClean c 1023 = false) ∧
    ((managed (fun m => { m with flcmd := 6 })).mgmt.flcmd.getLsbD 2 = true ∧ (managed (fun m => { m with flcmd := 6 })).mgmt.flashRun = none) := by
  have bad : ∀ c, demo.cold.copyOk c = false := fun c => by
    have : demo.cold.flashNat c 0 8 = 0xFFFFFFFFFFFFFFFF := by cases c <;> decide
    rw [State.copyOk, this]; rfl
  have badB : ∀ own, (flashed own).cold.copyOk true = false := fun own => by
    have : (flashed own).cold.flashNat true 0 8 = 0xFFFFFFFFFFFFFFFF := by cases own <;> decide
    rw [State.copyOk, this]; rfl
  refine ⟨⟨bad false, bad true⟩, fun own h => ⟨(flashed_copy own).trans h, badB own, flashed_over own⟩, by decide +kernel, ?_, fun c => by cases c <;> decide, by decide +kernel⟩
  intro n hn c
  cases c <;> revert hn <;> revert n <;> decide

/-- A write of management space by the management master. -/
def put (w size : Nat) (v : BitVec 64) : MAcc := ⟨false, 0, 8 * w, size, v⟩
/-- The host may reach management space; dies 0 to 3 are harvested in and run, context 1 has ASID 7, bias range 0 is on, and logical core 3 has a place. -/
def ready : State := managed (fun m => { m with ats := m.ats ++ [(4096 * 37 + 0xC10, [(0, grantAll)])], partid := 0x0FB14016, diepark := 0, ctxs := m.ctxs ++ [(1, ⟨false, 0, 7⟩)], ranges := [(0, ⟨0x1 + (0xFF <<< 40), 0x20000, []⟩)] })
theorem witness_ManagementRegistersAct :
    (∀ m ∈ [put 0 8 0, ⟨true, 0, 0, 4, 0⟩], ready.mRefused false m = false) ∧
    (ready.mRefused true ⟨true, 0, 0x28, 8, 0⟩ = true) ∧
    (managed (fun m => { m with atcommit := some (5, []) })).mgmt.atcommit = some (5, []) ∧
    (∀ m ∈ [put (0x1E000 + 4 * 63 + 1) 8 0x20000, put (0x1E000 + 4 * 63) 8 0x1005, put 0x200 4 64, put 0x200 4 511, put 0x1A002 8 0x4001, put 0x1C003 8 0x10000, put 0x1C004 8 0x3001,
        put 0xC001 8 0x20000, put 0xC200 8 0x10003, put (0x6000 + 0x200 * 15 + 1) 8 0x4000000, put (0x8000 + 8 * 15 + 1) 8 0x10000, put (0x8000 + 8 * 15 + 1) 8 0x20000, put 0xA001 8 1,
        put 0x5000 8 0, put 0x20008 8 0, put 0x20207 8 5], ready.mRefused true m = false) ∧
    accReg (put (0x1E000 + 4 * 63 + 1) 8 0x20000) = .lqdoor 63 ∧
    (accReg (put (0x1E000 + 4 * 63) 8 0x1005) = .lqctl 63 ∧ (ready.mwrite (put (0x1E000 + 4 * 63) 8 0x1005)).lo = true ∧ (ready.lqueue 63).recs = []) ∧
    ((put 0x200 4 64).off = 0x1000 + 4 * (0 : BitVec 8).toNat ∧ ready.mayHost 64 = true ∧ ready.parkBusy (coreDie 64) = false ∧ ready.mayHost 511 = false ∧
      ready.remapOf 0 ≠ 511) ∧
    (accReg (put 0x1A002 8 0x4001) = .ctx 2 ∧ (bitsOf (ready.mwrite (put 0x1A002 8 0x4001)).v.toNat 1 12 = 0 ∧ bitsOf (ready.mwrite (put 0x1A002 8 0x4001)).v.toNat 40 24 = 0 ∧
      (ready.mwrite (put 0x1A002 8 0x4001)).v.getLsbD 0 = true) ∧ ready.ctxBusy 1 = false ∧ (ready.ctx 1).asid ≠ 0 ∧
      ∀ x ∈ ready.mgmt.ctxs, x.1 ≠ 1 → x.2.v = true → x.2.asid ≠ (ready.ctx 1).asid) ∧
    accReg (put 0x1C003 8 0x10000) = .pfresume ∧
    (let w := ready.mwrite (put 0x1C004 8 0x3001)
     accReg (put 0x1C004 8 0x3001) = .tlbinv ∧ w.sets 13 = true ∧ w.v.getLsbD 12 = true ∧ ready.mgmt.tlbinv.getLsbD 14 = false) ∧
    (accReg (put 0xC001 8 0x20000) = .bias 1 ∧ (demo.mgmt.ranges.get BRange.zero 0).w0.getLsbD 0 = false) ∧
    (let w := ready.mwrite (put 0xC200 8 0x10003)
     accReg (put 0xC200 8 0x10003) = .biascmd ∧ ready.mgmt.biascmd.getLsbD 2 = false ∧ w.sets 1 = true ∧ ready.mgmt.flips.any (fun f => f.page == eBits w.v 12 28) = false ∧
      (ready.biasRange (eBits w.v 12 28)).isSome = true ∧ ready.pageHost (eBits w.v 12 28) ≠ w.v.getLsbD 0) ∧
    (let w := ready.mwrite (put (0x6000 + 0x200 * 15 + 1) 8 0x4000000)
     accReg (put (0x6000 + 0x200 * 15 + 1) 8 0x4000000) = .mcspare 15 ∧ w.lo = true ∧ (ready.stack 15).spareGo = false ∧ w.v.getLsbD 26 = true ∧ (ready.stack 15).sparing = none ∧
        (ready.stack 15).reaches (bitsOf w.v.toNat 0 6) (bitsOf w.v.toNat 6 6) (bitsOf w.v.toNat 12 14) = true) ∧
    (let w := ready.mwrite (put (0x8000 + 8 * 15 + 1) 8 0x10000)
     accReg (put (0x8000 + 8 * 15 + 1) 8 0x10000) = .lnkctl 15 ∧ w.lo = true ∧ w.v.getLsbD 16 = true ∧ w.v.getLsbD 17 = false) ∧
    ((ready.mwrite (put (0x8000 + 8 * 15 + 1) 8 0x20000)).v.getLsbD 17 = true ∧ (ready.link 15).disabled = false) ∧
    (accReg (put 0xA001 8 1) = .atcommit ∧ (ready.mwrite (put 0xA001 8 1)).sets 0 = true ∧ ready.mgmt.atcommit = none) ∧
    (accReg (put 0x5000 8 0) = .collinj ∧ bitsOf (ready.mwrite (put 0x5000 8 0)).v.toNat 0 2 = 0) ∧
    (accReg (put 0x20008 8 0) = .colldom 8 ∧ accReg (put 0x20207 8 5) = .colldom 519) :=
  by refine ⟨?_, ?_, ?_, ?_, ?_, ?_, ?_, ?_, ?_, ?_, ?_, ?_, ?_, ?_, ?_, ?_, ?_, ?_⟩ <;> decide

/-- A write of DIEPARK that asks to park die `d`, and nothing else that is new. -/
def parkAsked (s : State) (m : MAcc) (d : Nat) : Bool :=
  let w := s.mwrite m
  !s.mRefused true m && w.lo && accReg m == .diepark && !w.v.getLsbD 12 && w.v.getLsbD 13 == s.hold && s.harvested d && !s.parkBusy d &&
    (List.range 4).all (fun e => e == d || !s.harvested e || (s.parked e == w.v.getLsbD e && !s.parkBusy e)) && s.mgmt.pGoal.isNone && !s.ckptHolds &&
    !s.parked d && w.v.getLsbD d
theorem witness_PowerRegistersAct :
    (∀ m ∈ [put 6 8 5, put 0x10000 8 60, put 0x10000 8 361, put 0x10002 8 0x15, put 0x10003 8 1, put 0x10003 8 0x2000, put 0x10030 8 0x5000, put 0x14002 8 2, put 0x14002 8 3],
      ready.mRefused true m = false ∧ (ready.mwrite m).lo = true) ∧
    (accReg (put 6 8 5) = .devnum ∧ ready.collBusy = false) ∧ accReg (put 0x10000 8 60) = .pwrceil ∧
    (accReg (put 0x10002 8 0x15) = .pstlim ∧ bitsOf (ready.mwrite (put 0x10002 8 0x15)).v.toNat 0 3 < 6 ∧ bitsOf (ready.mwrite (put 0x10002 8 0x15)).v.toNat 3 2 < 3 ∧
      ready.mgmt.pNext = [] ∧ ready.mgmt.mNext = []) ∧
    (parkAsked ready (put 0x10003 8 1) 0 = true ∧ ¬(ready.hold = true ∧ ready.deviceIdle = true) ∧ ready.planMoves 0 (ready.onDie 0) [] = none) ∧
    (parkAsked ready (put 0x10003 8 8) 3 = true ∧ ready.planMoves 3 (ready.onDie 3) [] = some []) ∧
    (let s := { ready with blocks := [], mgmt := { ready.mgmt with diepark := 0x2000 } }
     parkAsked s (put 0x10003 8 0x2001) 0 = true ∧ s.hold = true ∧ s.deviceIdle = true) ∧
    (let s := { ready with mgmt := { ready.mgmt with diepark := 0x80 } }
     let w := s.mwrite (put 0x10003 8 0)
     s.mRefused true (put 0x10003 8 0) = false ∧ w.lo = true ∧ w.v.getLsbD 12 = false ∧ w.v.getLsbD 13 = s.hold ∧ s.harvested 3 = true ∧ s.parkBusy 3 = false ∧
      (∀ e, e < 4 → e ≠ 3 → s.harvested e = true → s.parked e = w.v.getLsbD e ∧ s.parkBusy e = false) ∧ s.mgmt.pGoal = none ∧ s.ckptHolds = false ∧
      s.parked 3 = true ∧ w.v.getLsbD 3 = false) ∧
    ((ready.mwrite (put 0x10003 8 0x2000)).v.getLsbD 13 = true ∧ ready.hold = false) ∧
    (accReg (put 0x10030 8 0x5000) = .ensave ∧ ∀ c ∈ ready.cores, ∀ e ∈ c.2.eslots, e.2.pair = none) ∧
    (accReg (put 0x14002 8 2) = .ckpt2 ∧ (ready.mwrite (put 0x14002 8 2)).v.getLsbD 1 = true ∧ (ready.mwrite (put 0x14002 8 2)).v.getLsbD 0 = false ∧
      (ready.mwrite (put 0x14002 8 3)).v.getLsbD 1 = true ∧ (ready.mwrite (put 0x14002 8 3)).v.getLsbD 0 = true) :=
  ⟨by decide +kernel, by decide +kernel, by decide +kernel, by decide +kernel, by decide +kernel, by decide +kernel, by decide +kernel, by decide +kernel, by decide +kernel, by decide +kernel, by decide +kernel⟩

/-! ## Witnesses: the step, the invariants and the traps of loads -/

/-- A step whose turn is the head of the agenda. -/
def alone (s : State) : State := { s with agenda := [] }
/-- SADD.w s1 = s2 + s3, placed at the PC. -/
def oneUnit : State := State.reset.boot (le 4 0x01010203)
/-- The facts of a fetch on the pick of slot 0 of core 0, from the words and from memory. -/
def fetchFacts (s : State) : Bool :=
  match s.pick 0 0 with
  | none => false
  | some x => x.fs.held.isNone && !x.fs.branched &&
      (match x.fetchWords x.pc with
       | .ok (w0, w1, w2) => (x.splitUnit w0).isNone && (decodeUnit w0 w1 w2).toBool
       | .error _ => false) &&
      (match x.place (x.clusterOf x.fb.pcore) x.fl.ctx x.pc .fetch with
       | .ok pl => pl.tgt == .device && (!x.mscDenies x.fl.ctx pl.pa .fetch && (x.badLevel pl.pa 4).isNone) && !isPfx 0x01010203 && (decodeUnit 0x01010203 0 0).toBool &&
           (List.range 4).all (fun j => x.homeByte (pl.pa + j) == (0x01010203 : Word).extractLsb' (8 * j) 8)
       | .error _ => false)
theorem fetchFacts_of {s : State} (h : fetchFacts s = true) : ∃ x, s.pick 0 0 = some x ∧ x.fs.held = none ∧ x.fs.branched = false ∧
      (∃ w0 w1 w2 i n, x.fetchWords x.pc = .ok (w0, w1, w2) ∧ x.splitUnit w0 = none ∧ decodeUnit w0 w1 w2 = .ok (i, n)) ∧
      ∃ pl i n, x.place (x.clusterOf x.fb.pcore) x.fl.ctx x.pc .fetch = .ok pl ∧ pl.tgt = .device ∧ (x.mscDenies x.fl.ctx pl.pa .fetch = false ∧ x.badLevel pl.pa 4 = none) ∧
        isPfx 0x01010203 = false ∧ decodeUnit 0x01010203 0 0 = .ok (i, n) ∧
        ∀ j, j < 4 → x.homeByte (pl.pa + j) = (0x01010203 : Word).extractLsb' (8 * j) 8 := by
  unfold fetchFacts at h
  split at h
  · simp at h
  · rename_i x hx
    simp only [Bool.and_eq_true, Bool.not_eq_true', Option.isNone_iff_eq_none] at h
    obtain ⟨⟨⟨a, b⟩, c⟩, d⟩ := h
    refine ⟨x, hx, a, b, ?_, ?_⟩
    · split at c
      · rename_i w0 w1 w2 hw
        simp only [Bool.and_eq_true, Option.isNone_iff_eq_none] at c
        obtain ⟨⟨i, n⟩, hi⟩ := ok_of_isOk c.2
        exact ⟨w0, w1, w2, i, n, hw, c.1, hi⟩
      · simp at c
    · split at d
      · rename_i pl hp
        simp only [Bool.and_eq_true, Bool.not_eq_true', Option.isNone_iff_eq_none, beq_iff_eq, List.all_eq_true, List.mem_range] at d
        obtain ⟨⟨⟨⟨e, f⟩, g⟩, k⟩, m⟩ := d
        obtain ⟨⟨i, n⟩, hi⟩ := ok_of_isOk k
        exact ⟨pl, i, n, hp, e, f, g, hi, m⟩
      · simp at d
/-- The slot of the pick holds a unit already. -/
def heldUnit : State := alone (onSlot (fun x => { x with held := some (.nop false) }))
theorem witness_StepRunsTheDecodedUnit :
    (demo.agenda = .issue 0 0 :: (alone demo).agenda ∧ (alone demo).pick 1 0 = none) ∧
    (alone oneUnit).agenda = [] ∧ (alone oneUnit).defaultTurn = .issue 0 0 ∧
    (∃ x, (alone oneUnit).pick 0 0 = some x ∧ x.fs.held = none ∧ x.fs.branched = false ∧
      (∃ w0 w1 w2 i n, x.fetchWords x.pc = .ok (w0, w1, w2) ∧ x.splitUnit w0 = none ∧ decodeUnit w0 w1 w2 = .ok (i, n)) ∧
      ∃ pl i n, x.place (x.clusterOf x.fb.pcore) x.fl.ctx x.pc .fetch = .ok pl ∧ pl.tgt = .device ∧ (x.mscDenies x.fl.ctx pl.pa .fetch = false ∧ x.badLevel pl.pa 4 = none) ∧
        isPfx 0x01010203 = false ∧ decodeUnit 0x01010203 0 0 = .ok (i, n) ∧
        ∀ j, j < 4 → x.homeByte (pl.pa + j) = (0x01010203 : Word).extractLsb' (8 * j) 8) ∧
    ((heldUnit.pick 0 0).map (fun x => x.fs.held)) = some (some (.nop false)) ∧ isEvent .tlbinvDone = true :=
  ⟨by decide +kernel, by decide +kernel, by decide +kernel, fetchFacts_of (by decide +kernel), by decide +kernel, by decide +kernel⟩

/-- Boundary words of three encodings: every operand at its last value. -/
theorem witness_EncodingAndDecodingAgree :
    WellFormed (.sadd true 63 63 63) ∧ WellFormed (.smulhImm false 63 63 (.long 0xFFFFFFFF)) ∧
    decodeUnit 0x813F3F7F 0 0 = .ok (.ssub true 63 63 63, 1) :=
  ⟨by decide +kernel, by decide +kernel, rfl⟩

/-- The outcome is a next state: as a Boolean. -/
def isNext (o : Host.Outcome State Fault Refusal) : Bool := match o with | .next _ => true | .fault _ => false | .refused _ => false
theorem next_of_isNext {o : Host.Outcome State Fault Refusal} (h : isNext o = true) : ∃ t, o = .next t := by
  cases o with
  | next t => exact ⟨t, rfl⟩
  | fault => simp [isNext] at h
  | refused => simp [isNext] at h
theorem oneUnit_modes : oneUnit.modesLegal := by
  refine ⟨fun e he => ?_, fun x hx => nomatch hx⟩
  have h : e = (0, bootWave) := List.mem_singleton.1 he
  subst h
  refine ⟨?_, ⟨?_, ?_⟩⟩
  · unfold modeLegal; decide
  · unfold modeLegal; decide
  · refine ⟨fun x hx => (nomatch hx : False).elim, ⟨?_, fun r hr => (nomatch hr : False).elim⟩⟩
    unfold modeLegal; decide
theorem oneUnit_decoded : oneUnit.unitsDecoded := by
  intro e he
  have h : e = (0, bootWave) := List.mem_singleton.1 he
  subst h
  exact ⟨fun _ h => (nomatch h), fun _ h => (nomatch h)⟩
theorem witness_StepKeepsMemoriesAndModes : oneUnit.memoriesWf ∧ oneUnit.unitsDecoded ∧ oneUnit.modesLegal ∧ ∃ t, step oneUnit = .next t :=
  ⟨memoriesWf_of (by decide +kernel), oneUnit_decoded, oneUnit_modes, next_of_isNext (by decide +kernel)⟩
/-- A slot that holds SADD in the middle of its issue holds a decoded unit; one that holds SETMODE.f of the reserved ET 15 holds none. -/
theorem witness_StepKeepsMemoriesAndModes_held :
    ({ bootWave.slotA with held := some (.sadd true 63 63 63) } : Slot).unitDecoded ∧ ¬ ({ bootWave.slotA with held := some (.setmodeF false .et (.short 15)) } : Slot).unitDecoded := by
  refine ⟨fun i h => .inl ?_, fun h => ?_⟩
  · injection h with h
    subst h; decide
  · exact (h _ rfl).elim (by decide +kernel) (by decide +kernel)

/-- The machine of the loads with a handler and a change to its wave. -/
def trapping (f : Wave → Wave) : State := (demo.updWave 0 (fun w => f (memWave w))).updLaunch 0 (fun l => { l with handler := 0x40 })
/-- Strict mode: the guard p1 with a guess in lane 1; v1 with guesses in lanes 2 and 7; v1 with offsets that only a byte load takes; s2 not canonical. -/
def guardTrap : State := trapping (fun w => { w with pregs := [(1, ⟨0xFF, 2⟩)], slotA := { w.slotA with path := { w.slotA.path with mode := 9 } } })
def addrTrap : State := trapping (fun w => { w with vregs := [(1, ⟨L8.rep 16, 0x84⟩)] })
def misTrap : State := trapping (fun w => { w with vregs := [(1, ⟨L8.rep 1, 0⟩)] })
def oddTrap : State := trapping (fun w => { w with sregs := [(2, ⟨0x0200000000000000, false⟩)] })
/-- The premises that every clause shares. -/
def trapReady (s : State) : Bool :=
  !(s.windowOpen s.focus.wave false || s.windowOpen s.focus.wave true) && s.fw.handler.isNone && s.fl.handler != 0 && decide (s.fb.counter .ld < 4095) &&
    canIssue s [.v 1 3 1, .v 2 1 1, .sr 3 2] && canIssue s [.sd 1 9, .sr 2 2]
theorem witness_RefusedLoadsTrap :
    (∀ s ∈ [guardTrap, addrTrap, misTrap, oddTrap], trapReady s = true) ∧
    (loadForm (.ldW false 3 1 2 0)).isSome = true ∧
    (guardTrap.strict = true ∧ guardTrap.guardGuess &&& guardTrap.touched = 2) ∧
    (addrTrap.strict = true ∧ addrTrap.guardGuess &&& addrTrap.touched = 0 ∧ (addrTrap.vreg 1).guess &&& addrTrap.touched = 0x84) ∧
    (misTrap.guardGuess &&& misTrap.touched = 0 ∧ (misTrap.vreg 1).guess &&& misTrap.touched = 0 ∧
      maskOf (fun l => misTrap.touched.getLsbD l && (misTrap.vaOf 2 1 l).toNat % 4 != 0) = 0xFF) ∧
    (oddTrap.guardGuess &&& oddTrap.touched = 0 ∧ (oddTrap.vreg 1).guess &&& oddTrap.touched = 0 ∧
      maskOf (fun l => oddTrap.touched.getLsbD l && (oddTrap.vaOf 2 1 l).toNat % 4 != 0) = 0 ∧
      maskOf (fun l => oddTrap.touched.getLsbD l && !canonical (oddTrap.vaOf 2 1 l)) = 0xFF) ∧
    (let s := trapping (fun w => { w with sregs := [(2, ⟨0x10001, false⟩)] })
     (s.scalarVa 2 1 .d).toNat % 8 ≠ 0 ∧ trapReady s = true) ∧
    ((oddTrap.scalarVa 2 255 .d).toNat % 8 = 0 ∧ canonical (oddTrap.scalarVa 2 255 .d) = false) :=
  ⟨by decide +kernel, by decide +kernel, by decide +kernel, by decide +kernel, by decide +kernel, by decide +kernel, by decide +kernel, by decide +kernel⟩

/-! ## Decoding: the words that the reference chapters write out beside their assembly text -/

theorem test_reference_words_1 :
    decodeUnit 0x1F000000 0 0 = .ok (.bar false 0 none, 1) ∧
    decodeUnit 0x63040311 0 0 = .ok (.draftW false false 4 3 2 1, 1) ∧
    decodeUnit 0x64810310 0 0 = .ok (.erase false 1 3 2, 1) ∧
    decodeUnit 0x64000310 0 0 = .ok (.ink false 3 2, 1) ∧
    decodeUnit 0x56050204 0 0 = .ok (.gsettle false 5 2, 1) ∧
    decodeUnit 0x9A040030 0 0 = .ok (.mfsr true 4 .ecnt, 1) ∧
    decodeUnit 0x01050687 0 0 = .ok (.smul false 5 6 7, 1) ∧
    decodeUnit 0x01414203 0 0 = .ok (.sdivU false 1 2 3, 1) ∧
    decodeUnit 0x03C40464 0 0 = .ok (.sminUImm false 4 4 (.short 100), 1) ∧
    decodeUnit 0x02024201 0 0 = .ok (.ssubImm false 2 2 (.short 1), 1) ∧
    decodeUnit 0x04488203 0 0 = .ok (.scmp false .ltu 8 2 3, 1) ∧
    decodeUnit 0x05080200 0 0 = .ok (.scmpImm false .eq 8 2 (.short 0), 1) ∧
    decodeUnit 0x06010203 0 0 = .ok (.ssel false 1 2 3, 1) ∧
    decodeUnit 0x07040900 0 0 = .ok (.smov false 4 9, 1) ∧
    decodeUnit 0x163F0000 0 0 = .ok (.ret false 63, 1) ∧
    decodeUnit 0x1B000320 0 0 = .ok (.mtsr false .gexposed 3, 1) :=
  ⟨rfl, rfl, rfl, rfl, rfl, rfl, rfl, rfl, rfl, rfl, rfl, rfl, rfl, rfl, rfl, rfl⟩
theorem test_reference_words_2 :
    decodeUnit 0x9A040040 0 0 = .ok (.mfsr true 4 .cyc, 1) ∧
    decodeUnit 0x1C000700 0 0 = .ok (.setmode false 7, 1) ∧
    decodeUnit 0x1C430002 0 0 = .ok (.setmodeF false .gsp (.short 2), 1) ∧
    decodeUnit 0x7C000001 0x1C470023 0 = .ok (.setmodeF false .tid (.long 0x00000123), 2) ∧
    decodeUnit 0x1E430000 0 0 = .ok (.waitcImm false .st (.short 0), 1) ∧
    decodeUnit 0x1E000500 0 0 = .ok (.waitc false .ld 5, 1) ∧
    decodeUnit 0x1F020040 0 0 = .ok (.bara false 2, 1) ∧
    decodeUnit 0x1F020980 0 0 = .ok (.barw false 2 (some 1), 1) ∧
    decodeUnit 0x1F0008C0 0 0 = .ok (.gbar false 0 (some 0), 1) ∧
    decodeUnit 0x20010203 0 0 = .ok (.vadd false 1 2 (.reg 3), 1) ∧
    decodeUnit 0x24040506 0 0 = .ok (.vmad false 4 5 (.reg 6), 1) ∧
    decodeUnit 0x7D000001 0x2B070709 0 = .ok (.vmin false 7 7 (.scal 9), 2) ∧
    decodeUnit 0x7D000002 0x28010102 0 = .ok (.vshl false 1 1 (.imm8 2), 2) ∧
    decodeUnit 0x7C000001 0x2001022C 0 = .ok (.vadd false 1 2 (.imm32 0x0000012C), 2) ∧
    decodeUnit 0x2F020202 0 0 = .ok (.vneg false 2 2, 1) ∧
    decodeUnit 0x2F020303 0 0 = .ok (.vmov false 2 3, 1) :=
  ⟨rfl, rfl, rfl, rfl, rfl, rfl, rfl, rfl, rfl, rfl, rfl, rfl, rfl, rfl, rfl, rfl⟩
theorem test_reference_words_3 :
    decodeUnit 0x2F010006 0 0 = .ok (.vlane false 1, 1) ∧
    decodeUnit 0x2F050605 0 0 = .ok (.vpopc false 5 6, 1) ∧
    decodeUnit 0x2D110203 0 0 = .ok (.vcmp false .lt 1 2 3, 1) ∧
    decodeUnit 0x2D280405 0 0 = .ok (.vcmp false .ge 0 4 5, 1) ∧
    decodeUnit 0x30030400 0 0 = .ok (.vbcast false 3 4, 1) ∧
    decodeUnit 0x300340FF 0 0 = .ok (.vbcastImm false 3 (.short 255), 1) ∧
    decodeUnit 0x7C123456 0x30034078 0 = .ok (.vbcastImm false 3 (.long 0x12345678), 2) ∧
    decodeUnit 0x31020305 0 0 = .ok (.vbfx false 2 3 5, 1) ∧
    decodeUnit 0x31020385 0 0 = .ok (.vbfi false 2 3 5, 1) ∧
    decodeUnit 0x3B060203 0 0 = .ok (.vfma false 6 2 (.reg 3), 1) ∧
    decodeUnit 0x7D000002 0x3A050502 0 = .ok (.vfmul false 5 5 (.imm8 2), 2) ∧
    decodeUnit 0x3F010102 0 0 = .ok (.vscale false 1 1 (.reg 2), 1) ∧
    decodeUnit 0x41020300 0 0 = .ok (.vfsqrt false 2 3, 1) ∧
    decodeUnit 0x41020305 0 0 = .ok (.vfclass false 2 3, 1) ∧
    decodeUnit 0x50020304 0 0 = .ok (.vperm false 2 3 4, 1) ∧
    decodeUnit 0x51020303 0 0 = .ok (.vshuf false 2 3 .rev, 1) :=
  ⟨rfl, rfl, rfl, rfl, rfl, rfl, rfl, rfl, rfl, rfl, rfl, rfl, rfl, rfl, rfl, rfl⟩
theorem test_reference_words_4 :
    decodeUnit 0x53020301 0 0 = .ok (.vrot false 2 3 1, 1) ∧
    decodeUnit 0x55040200 0 0 = .ok (.vballot false 4 2, 1) ∧
    decodeUnit 0x55040201 0 0 = .ok (.vfirst false 4 2, 1) ∧
    decodeUnit 0x32030102 0 0 = .ok (.pand false 3 1 2, 1) ∧
    decodeUnit 0x32340100 0 0 = .ok (.pnot false 4 1, 1) ∧
    decodeUnit 0x325100FB 0 0 = .ok (.pset false 1 251, 1) ∧
    decodeUnit 0x56010500 0 0 = .ok (.gtest false 1 5, 1) ∧
    decodeUnit 0x56020001 0 0 = .ok (.gdemand false 2, 1) ∧
    decodeUnit 0x56050002 0 0 = .ok (.gaccept false 5, 1) ∧
    decodeUnit 0x56030503 0 0 = .ok (.gcheck false 3 5, 1) ∧
    decodeUnit 0x5B060218 0 0 = .ok (.ldD false 6 2 3 0, 1) ∧
    decodeUnit 0x7D000001 0x59030117 0 = .ok (.ldHS false 3 1 2 7, 2) ∧
    decodeUnit 0xDC080122 0 0 = .ok (.ldQ true 8 1 4 2, 1) ∧
    decodeUnit 0x60470403 0 0 = .ok (.sldW false 7 4 3, 1) ∧
    decodeUnit 0x60810400 0 0 = .ok (.sstD false 1 4 0, 1) ∧
    decodeUnit 0x7D00000C 0x65060204 0 = .ok (.aadd false 6 2 4 (some { scope := Scope.v, order := Order.acq }), 2) :=
  ⟨rfl, rfl, rfl, rfl, rfl, rfl, rfl, rfl, rfl, rfl, rfl, rfl, rfl, rfl, rfl, rfl⟩
theorem test_reference_words_5 :
    decodeUnit 0x7D000014 0x6B070204 0 = .ok (.axchg false 7 2 4 (some { scope := Scope.v, order := Order.rel }), 2) ∧
    decodeUnit 0x7D08001B 0x6C060204 0 = .ok (.acas false 6 2 4 8 { scope := Scope.d, order := Order.ar }, 2) ∧
    decodeUnit 0x6E000204 0 0 = .ok (.ared false .add 2 4 none, 1) ∧
    decodeUnit 0x7D000512 0x6E060204 0 = .ok (.ared false .fadd 2 4 (some { scope := Scope.g 5, order := Order.rel }), 2) ∧
    decodeUnit 0x6F110000 0 0 = .ok (.fence false .rel .v, 1) ∧
    decodeUnit 0x6F0F0000 0 0 = .ok (.fence false .sc .d, 1) ∧
    decodeUnit 0x6F0A0200 0 0 = .ok (.fence false .ar (.g 2), 1) ∧
    decodeUnit 0x6F040541 0 0 = .ok (.cflushPersist false 4 5, 1) ∧
    decodeUnit 0x6F040560 0 0 = .ok (.cinv false 4 5, 1) ∧
    decodeUnit 0x70050607 0 0 = .ok (.cpyMs false false 5 6 7, 1) ∧
    decodeUnit 0x708A000C 0 0 = .ok (.cpyMf false false 10 0 12, 1) ∧
    decodeUnit 0x7D020001 0x70890504 0 = .ok (.cpyZd false 9 (.mf 5) 4 2, 2) ∧
    decodeUnit 0x7D023100 0x718A0104 0 = .ok (.cpym false 10 1 4 { sk := false, aD := 2, i := 1, j := 0, q := 3 }, 2) ∧
    decodeUnit 0x7D141E00 0x718B0205 0 = .ok (.cpym false 11 2 5 { sk := true, aD := 4, i := 2, j := 3, q := 1 }, 2) ∧
    decodeUnit 0x75020103 0 0 = .ok (.mma false 2 1 0 3, 1) ∧
    decodeUnit 0x75830400 0 0 = .ok (.mmas false 3 0 1 0, 1) :=
  ⟨rfl, rfl, rfl, rfl, rfl, rfl, rfl, rfl, rfl, rfl, rfl, rfl, rfl, rfl, rfl, rfl⟩
theorem test_reference_words_6 :
    decodeUnit 0x76000607 0 0 = .ok (.skcfg false 6 7, 1) ∧
    decodeUnit 0x76400801 0 0 = .ok (.skmap false 8 1, 1) ∧
    decodeUnit 0x77080205 0 0 = .ok (.accld false 8 2 5, 1) ∧
    decodeUnit 0x77000080 0 0 = .ok (.accz false 0, 1) ∧
    decodeUnit 0x78050000 0 0 = .ok (.qset false 5, 1) ∧
    decodeUnit 0x78030001 0 0 = .ok (.qclr false 3, 1) ∧
    decodeUnit 0x79000A00 0 0 = .ok (.fwait false 10, 1) ∧
    decodeUnit 0x79050A01 0 0 = .ok (.ftest false 5 10, 1) ∧
    decodeUnit 0x79060A02 0 0 = .ok (.fstat false 6 10, 1) ∧
    decodeUnit 0x79000A03 0 0 = .ok (.fcancel false 10, 1) ∧
    decodeUnit 0x7A030800 0 0 = .ok (.eqpush false 3 8, 1) ∧
    decodeUnit 0x7A430900 0 0 = .ok (.eqcfg false 3 9, 1) ∧
    decodeUnit 0x7B0A0B00 0 0 = .ok (.collAllreduce false 10 11, 1) ∧
    decodeUnit 0x7B0A0B03 0 0 = .ok (.collBroadcast false 10 11, 1) ∧
    decodeUnit 0x7B4A0C00 0 0 = .ok (.collredo false 10 12, 1) :=
  ⟨rfl, rfl, rfl, rfl, rfl, rfl, rfl, rfl, rfl, rfl, rfl, rfl, rfl, rfl, rfl⟩

/-! ## One step of an instruction, with values worked out by hand from the rules -/

/-- The state after the instruction; the state itself if it gave none. -/
def after (s : State) (i : Instr) : State := match exec i s with | .next t => t | .fault _ => s | .refused _ => s
/-- s1 after the instruction on s2 = x, s3 = y, s1 = 0xFFFF. -/
def s1After (x y : DWord) (i : Instr) : DWord := (after (onWave (fun w => { w with sregs := [(1, ⟨0xFFFF, false⟩), (2, ⟨x, false⟩), (3, ⟨y, false⟩)] })) i).sreg 1
/-- v1 after the instruction under an element type, with lane l of v2 = x l and every lane of v3 = y; lane 7 is not active. -/
def v1After (et : Nat) (x : Nat → Word) (y : Word) (i : Instr) : L8 Word :=
  ((after (onWave (fun w => { w with vregs := [(1, ⟨L8.rep 0xAA, 0⟩), (2, ⟨L8.ofFn x, 0⟩), (3, ⟨L8.rep y, 0⟩)],
                                     slotA := { w.slotA with path := { w.slotA.path with mode := BitVec.ofNat 32 (32 * et), mask := 0x7F } } })) i).vreg 1).lanes

/-- R228: modulo 2^64. -/
theorem test_sadd_wraps : s1After 0xFFFFFFFFFFFFFFFF 2 (.sadd false 1 2 3) = 1 := by decide
theorem test_ssub_order : s1After 2 5 (.ssub false 1 2 3) = 0xFFFFFFFFFFFFFFFD := by decide
theorem test_smulh_signed : s1After 0xFFFFFFFFFFFFFFFF 2 (.smulh false 1 2 3) = 0xFFFFFFFFFFFFFFFF := by decide
theorem test_smulhU_unsigned : s1After 0xFFFFFFFFFFFFFFFF 2 (.smulhU false 1 2 3) = 1 := by decide
/-- R84: a divisor of 0; −2^63 ÷ −1; the remainder has the dividend's sign. -/
theorem test_sdiv_by_zero : s1After 7 0 (.sdiv false 1 2 3) = 0xFFFFFFFFFFFFFFFF := by decide
theorem test_sdiv_overflow : s1After 0x8000000000000000 0xFFFFFFFFFFFFFFFF (.sdiv false 1 2 3) = 0x8000000000000000 := by decide
theorem test_srem_sign : s1After (-7) 2 (.srem false 1 2 3) = -1 := by decide
theorem test_sremU_by_zero : s1After 7 0 (.sremU false 1 2 3) = 7 := by decide
/-- R228: counts of 64 and more. -/
theorem test_sshl_by_64 : s1After 1 64 (.sshl false 1 2 3) = 0 := by decide
theorem test_ssra_by_64 : s1After 0x8000000000000000 64 (.ssra false 1 2 3) = 0xFFFFFFFFFFFFFFFF := by decide
/-- R228, R30: an immediate is sign-extended, and a shift's is not. -/
theorem test_saddImm_sign_extends : s1After 1 0 (.saddImm false 1 2 (.short 0xFF)) = 0 := by decide
theorem test_sclz_of_zero : s1After 0 0 (.sclz false 1 2) = 64 := by decide
/-- R232: the constant that the rule builds in s5, here in s1. -/
theorem test_sli_long : s1After 0 0 (.sli false 1 (.long 0x89ABCDEF)) = 0xFFFFFFFF89ABCDEF := by decide
theorem test_sliHi_keeps_the_low_half : s1After 0 0 (.sliHi false 1 (.short 1)) = 0x10000FFFF := by decide
/-- R231: SSEL tests the old destination. -/
theorem test_ssel_tests_old_destination : s1After 4 5 (.ssel false 1 2 3) = 4 := by decide
/-- R230: LTU compares unsigned, LT signed. -/
theorem test_scmp_ltu : s1After 1 0xFFFFFFFFFFFFFFFF (.scmp false .ltu 1 2 3) = 1 := by decide
theorem test_scmp_lt : s1After 1 0xFFFFFFFFFFFFFFFF (.scmp false .lt 1 2 3) = 0 := by decide

/-- R252, R253: SI32 wraps; a lane that is not active keeps its value. -/
theorem test_vadd_wraps : v1After 0 (fun _ => 0xFFFFFFFF) 2 (.vadd false 1 2 (.reg 3)) = ⟨1, 1, 1, 1, 1, 1, 1, 0xAA⟩ := by decide
/-- ET 9 is SI8: four elements, with no carry from one to the next. -/
theorem test_vadd_si8_elements : (v1After 9 (fun _ => 0x7FFF01FF) 0x01010101 (.vadd false 1 2 (.reg 3))).get 0 = 0x80000200 := by decide
theorem test_vlane : v1After 0 (fun _ => 0) 0 (.vlane false 1) = ⟨0, 1, 2, 3, 4, 5, 6, 0xAA⟩ := by decide
/-- ET 2 is F32: 1.5 + 2 = 3.5, and 1.5 × 2 = 3. -/
theorem test_vfadd_f32 : (v1After 2 (fun _ => 0x3FC00000) 0x40000000 (.vfadd false 1 2 (.reg 3))).get 0 = 0x40600000 := by decide
theorem test_vfmul_f32 : (v1After 2 (fun _ => 0x3FC00000) 0x40000000 (.vfmul false 1 2 (.reg 3))).get 0 = 0x40400000 := by decide
/-- R266: lane l takes lane (l − n) mod 8, also from a lane that is not active. -/
theorem test_vrot : v1After 0 (fun l => BitVec.ofNat 32 l) 0 (.vrot false 1 2 1) = ⟨7, 0, 1, 2, 3, 4, 5, 0xAA⟩ := by decide

/-- R235: CALL saves NextPC in s63 and goes four words on. -/
theorem test_call_saves_its_return : ((after demo (.call false 4)).sreg 63, (after demo (.call false 4)).fs.path.pc) = (demo.pc + 4, demo.pc + 0x10) := by decide
/-- R80: a trap below handler level enters the handler at its offset, and saves the PC. -/
theorem test_trap_enters_the_handler :
    ((after handled (.illegalInstruction 1 1 0 0)).fw.xpc, (after handled (.illegalInstruction 1 1 0 0)).fw.xcause, (after handled (.illegalInstruction 1 1 0 0)).fs.path.pc)
      = (demo.pc, 0x101, handled.fl.kdesc + 0x40) := by decide
/-- R33, R71: the step fetches the placed unit, SLI s5, 0xEF, and runs it. -/
theorem test_step_of_the_first_unit :
    (match step (State.reset.withFetchWord 32 0x080500EF) with | .next t => some ((t.fw.s 5), t.fs.path.pc) | _ => none) = some (0xEF, 0x10004) := by decide
theorem test_decodeTableWord_two_words : decodeTableWord 64 0x080500EF7C89ABCD = some (.sli false 5 (.long 0x89ABCDEF)) := by decide

end Sys2Proof.Tests
end

section
/-! PROOF. Reset, boot, the configuration flash and a failure of power (spec/01_organisation.md R19 to R25, spec/21_power_health.md R224): what a step of the boot leaves as it was, what a loaded copy sets, and what an operation of the flash does. -/

namespace Sys2Proof.Machine

open Sys2Proof

/-! ### Tables and fields -/

/-- A table that lists a function reads as the function at every listed key. -/
theorem Tab.get_map_key {α : Type} (d : α) (f : Nat → α) (l : List Nat) (k : Nat) (h : k ∈ l) :
    Tab.get d (l.map fun i => (i, f i)) k = f k := by
  induction l with
  | nil => cases h
  | cons x l ih =>
    by_cases hx : x = k
    · subst hx; simp [Tab.get]
    · simp [Tab.get, hx, ih ((List.mem_cons.1 h).resolve_left (Ne.symm hx))]

/-- Writing a function under a run of keys changes these keys and no other. -/
theorem Tab.get_foldl_set {α : Type} (d : α) (b : Nat) (g : Nat → α) (l : List Nat) (t : Tab α) (j : Nat) :
    (l.foldl (fun t k => t.set (b + k) (g k)) t).get d j = if b ≤ j ∧ j - b ∈ l then g (j - b) else t.get d j := by
  induction l generalizing t with
  | nil => simp
  | cons x l ih =>
    rw [List.foldl_cons, ih, Tab.get_set]
    by_cases hx : b + x = j
    · subst hx; simp
    · have hiff : (b ≤ j ∧ j - b ∈ x :: l) ↔ (b ≤ j ∧ j - b ∈ l) :=
        and_congr_right fun hb => List.mem_cons.trans (or_iff_right (by omega))
      simp only [hx, if_false, hiff]

/-- The numbered elements of a list, as a function of their numbers. -/
theorem zip_range_eq_map {α : Type} (d : α) (l : List α) (n : Nat) (h : l.length = n) :
    (List.range n).zip l = (List.range n).map (fun k => (k, l.getD k d)) := by
  apply List.ext_getElem
  · simp [h]
  · intro i h1 h2
    have : i < l.length := by simp at h2; omega
    simp [List.getD_eq_getElem?_getD, this]

/-- A field of one bit reads as the bit that it takes. -/
theorem setField_bit {w : Nat} (x : BitVec w) (lo v : Nat) (h : lo < w) : (setField x lo 1 v).getLsbD lo = decide (v % 2 = 1) := by
  have hlow : x.toNat % 2 ^ lo < 2 ^ lo := Nat.mod_lt _ (Nat.two_pow_pos lo)
  have hsum : x.toNat % 2 ^ lo + v % 2 ^ 1 * 2 ^ lo + x.toNat / 2 ^ (lo + 1) * 2 ^ (lo + 1)
      = x.toNat % 2 ^ lo + 2 ^ lo * (v % 2 + 2 * (x.toNat / 2 ^ (lo + 1))) := by
    rw [Nat.mul_add, Nat.mul_comm _ (v % 2), ← Nat.mul_assoc, ← Nat.pow_succ, Nat.mul_comm (2 ^ (lo + 1)), Nat.pow_one, Nat.add_assoc]
  rw [setField, BitVec.getLsbD_ofNat, hsum, Nat.testBit_eq_decide_div_mod_eq, Nat.add_mul_div_left _ _ (Nat.two_pow_pos lo),
    Nat.div_eq_of_lt hlow]
  simp [h, Nat.add_mod]

/-- LNKSTAT holds the state that it takes. -/
theorem Link.setState_state (l : Link) (n : Nat) (h : n < 4) : (l.setState n).state = n := by
  simp only [Link.state, Link.setState, bitsOf, BitVec.toNat_append, BitVec.toNat_ofNat]
  rw [Nat.shiftLeft_eq, Nat.mod_eq_of_lt h, Nat.mul_comm, ← Nat.two_pow_add_eq_or_of_lt h]
  omega

/-- A step for each link of a list changes each of these links once. -/
theorem State.link_foldl_updLink (f : Nat → Link → Link) (l : List Nat) (hl : l.Nodup) (s : State) (n : Nat) :
    (l.foldl (fun s k => s.updLink k (f k)) s).link n = if n ∈ l then f n (s.link n) else s.link n := by
  induction l generalizing s with
  | nil => simp
  | cons x l ih =>
    obtain ⟨hx, hl⟩ := List.nodup_cons.1 hl
    rw [List.foldl_cons, ih hl, State.updLink_at]
    by_cases hn : x = n
    · subst hn; simp [hx]
    · simp [hn, Ne.symm hn]

/-! ### What a step of the boot leaves as it was -/

/-- A step of the boot works on cores, stacks, links and management registers alone; it brings no line into an L1 and no row or late sector into a stack. -/
structure BootKeeps (s t : State) : Prop where
  rest : t = { s with cores := t.cores, hbms := t.hbms, links := t.links, mgmt := t.mgmt, seq := t.seq }
  l1 : ∀ p, (t.core p).l1 = (s.core p).l1
  rows : ∀ k, (t.stack k).rows = (s.stack k).rows ∧ (t.stack k).groups = (s.stack k).groups ∧ (t.stack k).late = (s.stack k).late

namespace BootKeeps

theorem refl (s : State) : BootKeeps s s := ⟨rfl, fun _ => rfl, fun _ => ⟨rfl, rfl, rfl⟩⟩
theorem trans {s u t : State} (a : BootKeeps s u) (b : BootKeeps u t) : BootKeeps s t := by
  refine ⟨?_, fun p => (b.l1 p).trans (a.l1 p), fun k => ?_⟩
  · rw [b.rest, a.rest]
  · obtain ⟨a1, a2, a3⟩ := a.rows k
    obtain ⟨b1, b2, b3⟩ := b.rows k
    exact ⟨b1.trans a1, b2.trans a2, b3.trans a3⟩
theorem foldl {α : Type} (g : State → α → State) (h : ∀ s x, BootKeeps s (g s x)) (l : List α) (s : State) : BootKeeps s (l.foldl g s) :=
  List.foldlRecOn l g (motive := BootKeeps s) (refl s) fun u hu x _ => hu.trans (h u x)
theorem updMgmt (s : State) (f : Mgmt → Mgmt) : BootKeeps s (s.updMgmt f) := ⟨rfl, fun _ => rfl, fun _ => ⟨rfl, rfl, rfl⟩⟩
theorem updLink (s : State) (n : Nat) (f : Link → Link) : BootKeeps s (s.updLink n f) := ⟨rfl, fun _ => rfl, fun _ => ⟨rfl, rfl, rfl⟩⟩
theorem updCore (s : State) (p : Nat) (f : Core → Core) (h : ∀ c, (f c).l1 = c.l1) : BootKeeps s (s.updCore p f) := by
  refine ⟨rfl, fun q => ?_, fun _ => ⟨rfl, rfl, rfl⟩⟩
  rw [State.updCore_at]
  split
  · exact h _
  · rfl
theorem updStack (s : State) (k : Nat) (f : Stack → Stack) (h : ∀ x, (f x).rows = x.rows ∧ (f x).groups = x.groups ∧ (f x).late = x.late) :
    BootKeeps s (s.updStack k f) := by
  refine ⟨rfl, fun _ => rfl, fun j => ?_⟩
  rw [State.updStack_at]
  split
  · exact h _
  · exact ⟨rfl, rfl, rfl⟩

/-- A step of the boot touches no register of a wave. -/
theorem regs {s t : State} (h : BootKeeps s t) : keepsRegs s t [] [] [] := by
  rw [h.rest]; exact keepsRegs_of _ _ _ fun _ => ⟨rfl, rfl, rfl⟩
/-- A step of the boot touches no byte of memory. -/
theorem memory {s t : State} (h : BootKeeps s t) : keepsMemory s t := by
  rw [h.rest]; exact keepsMemory_of rfl rfl rfl rfl fun _ => rfl

end BootKeeps

/-- A row-spare entry works on its stack alone (R21, R196). -/
theorem bootKeeps_applyRowSpare (s : State) (e : Nat) : BootKeeps s (s.applyRowSpare e) := by
  unfold State.applyRowSpare
  split
  · exact .refl s
  · exact .updStack s _ _ fun _ => ⟨rfl, rfl, rfl⟩
@[simp] theorem applyRowSpare_mgmt (s : State) (e : Nat) : (s.applyRowSpare e).mgmt = s.mgmt := by
  unfold State.applyRowSpare; split <;> rfl
/-- The start of the logical cores changes which of them is active, and no cache (R61). -/
theorem bootKeeps_startCores (s : State) : BootKeeps s s.startCores := by
  refine .foldl _ (fun s l => ?_) _ s
  split
  · exact .updCore s _ _ fun c => by split <;> rfl
  · exact .refl s
@[simp] theorem startCores_mgmt (s : State) : s.startCores.mgmt = s.mgmt :=
  foldl_mgmt _ _ _ fun s l => by split <;> rfl
theorem bootKeeps_startSpares (s : State) : BootKeeps s s.startSpares := by
  refine .foldl _ (fun s l => ?_) _ s
  dsimp only
  split
  · exact .updMgmt s _
  · exact .refl s
/-- Of management space, placing the spares changes their clusters alone (R19). -/
theorem startSpares_mgmt (s : State) : ∃ x, s.startSpares.mgmt = { s.mgmt with spareCluster := x } := by
  unfold State.startSpares
  refine List.foldlRecOn _ _ (motive := fun t : State => ∃ x, t.mgmt = { s.mgmt with spareCluster := x }) ⟨_, rfl⟩ fun t ht l _ => ?_
  dsimp only
  split
  · obtain ⟨x, hx⟩ := ht
    rw [State.updMgmt_mgmt, hx]
    exact ⟨_, rfl⟩
  · exact ht
theorem bootKeeps_fixSpare (s : State) (p : Nat) : BootKeeps s (s.fixSpare p) := by
  unfold State.fixSpare
  split
  · exact .refl s
  · exact .updMgmt s _
@[simp] theorem fixSpare_failed (s : State) (p : Nat) : (s.fixSpare p).mgmt.failed = s.mgmt.failed := by
  unfold State.fixSpare; split <;> rfl
/-- A logical core that moves takes its place and brings no line along (R60, R61). -/
theorem bootKeeps_setRemap (s : State) (l p : Nat) : BootKeeps s (s.setRemap l p) := by
  unfold State.setRemap
  extract_lets old was s1 s2 s3
  have k2 : BootKeeps s1 s2 := .updMgmt s1 _
  have k3 : BootKeeps s2 s3 := by
    unfold s3
    split
    · exact .updCore s2 _ _ fun c => by split <;> rfl
    · exact .refl s2
  exact (((bootKeeps_fixSpare s p).trans k2).trans k3).trans (.updCore s3 _ _ fun c => by split <;> rfl)
@[simp] theorem setRemap_failed (s : State) (l p : Nat) : (s.setRemap l p).mgmt.failed = s.mgmt.failed := by
  unfold State.setRemap; dsimp only; split <;> simp
theorem bootKeeps_remapExhausted (s : State) : BootKeeps s s.remapExhausted := by
  unfold State.remapExhausted; exact .updMgmt s _
theorem remapExhausted_mgmt (s : State) : s.remapExhausted.mgmt = { s.mgmt with hlth := setField s.mgmt.hlth 22 1 1 } := by
  unfold State.remapExhausted; rw [State.updMgmt_mgmt]
/-- A repair moves one logical core or raises the remap-exhausted condition (R19, R20). -/
theorem bootKeeps_repairCore (s : State) (l : Nat) : BootKeeps s (s.repairCore l) := by
  unfold State.repairCore
  dsimp only
  split
  · exact .refl s
  · split
    · exact bootKeeps_setRemap s _ _
    · split
      · exact bootKeeps_setRemap s _ _
      · exact bootKeeps_remapExhausted s
@[simp] theorem repairCore_failed (s : State) (l : Nat) : (s.repairCore l).mgmt.failed = s.mgmt.failed := by
  unfold State.repairCore
  dsimp only
  split
  · rfl
  · split
    · simp
    · split <;> simp [remapExhausted_mgmt]

/-! ### What a reset loses and a copy sets -/

/-- Every register, cache and byte of device memory is lost; the flash and what lies outside the device is kept (R22, R25, R224). -/
def PowerLost (s t : State) : Prop :=
  t.waves = [] ∧ t.blocks = [] ∧ t.launches = [] ∧ t.claims = [] ∧ t.cells = [] ∧ t.regions = [] ∧ t.registrant = [] ∧
    t.jobs = [] ∧ t.feet = [] ∧ t.accs = [] ∧ t.abufs = [] ∧ t.net = [] ∧ t.shapes = [] ∧ t.eqs = [] ∧ t.insts = [] ∧ t.hostAccs = [] ∧ t.hostLines = [] ∧
    t.mem = [] ∧ t.array = [] ∧ t.l2 = [] ∧ t.msc = [] ∧ t.rdc = [] ∧ t.tlb = [] ∧ t.bad = [] ∧ t.weak = [] ∧ t.lost = [] ∧ (∀ p, (t.core p).l1 = []) ∧
    (∀ k, (t.stack k).rows = [] ∧ (t.stack k).groups = [] ∧ (t.stack k).late = []) ∧
    t.hostMem = s.hostMem ∧ t.peerMem = s.peerMem ∧ t.mgmt.flashA = s.mgmt.flashA ∧ t.mgmt.flashB = s.mgmt.flashB

/-- What the boot makes of a cold device has lost the same. -/
theorem powerLost_of_cold {s t : State} (h : BootKeeps s.cold t) (hA : t.mgmt.flashA = s.mgmt.flashA) (hB : t.mgmt.flashB = s.mgmt.flashB) :
    PowerLost s t := by
  obtain ⟨hr, hl, hs⟩ := h
  have l1 : ∀ p, (t.core p).l1 = [] := hl
  have rows : ∀ k, (t.stack k).rows = [] ∧ (t.stack k).groups = [] ∧ (t.stack k).late = [] := hs
  unfold PowerLost
  refine ⟨?_, ?_, ?_, ?_, ?_, ?_, ?_, ?_, ?_, ?_, ?_, ?_, ?_, ?_, ?_, ?_, ?_, ?_, ?_, ?_, ?_, ?_, ?_, ?_, ?_, ?_, l1, rows, ?_, ?_, hA, hB⟩
  all_goals rw [hr]; rfl

/-- What loading a copy of the configuration flash sets (R20 to R24). -/
structure ConfigLoaded (s : State) (c : Bool) (t : State) : Prop where
  keeps : BootKeeps s t
  flashA : t.mgmt.flashA = s.mgmt.flashA
  flashB : t.mgmt.flashB = s.mgmt.flashB
  phase : t.phase = 2
  copy : t.loadedCopy = some c
  remap : s.remapOver c = false → ∀ k, k < 256 → t.mgmt.remap.get 0 k = BitVec.ofNat 9 (s.flashNat c (0x100 + 4 * k) 4)
  full : s.remapOver c = true → t.mgmt.hlth.getLsbD 22 = true ∧ ∀ k, k < 256 → t.placed k = false
  devnum : t.mgmt.devnum = BitVec.ofNat 32 (s.flashNat c 0x20 4)

/-- CFGSTAT says that a copy is loaded, and which (R23). -/
theorem cfgstat_bits (c a b : Bool) (x : Nat) : let r := BitVec.ofNat 32 (1 + 2 * b2n c + 4 * b2n a + 8 * b2n b + 65536 * x)
    r.getLsbD 0 = true ∧ r.getLsbD 1 = c := by
  intro r
  have bit : ∀ i, i < 32 → r.getLsbD i = decide ((1 + 2 * b2n c + 4 * b2n a + 8 * b2n b + 65536 * x) / 2 ^ i % 2 = 1) := fun i hi => by
    rw [BitVec.getLsbD_ofNat, Nat.testBit_eq_decide_div_mod_eq, decide_eq_true hi, Bool.true_and]
  refine ⟨?_, ?_⟩
  · rw [bit 0 (by decide), decide_eq_true_eq]; omega
  · rw [bit 1 (by decide), Nat.pow_one]
    cases c
    · rw [decide_eq_false_iff_not, show b2n false = 0 from rfl]; omega
    · rw [decide_eq_true_eq, show b2n true = 1 from rfl]; omega

/-- After the remap table is loaded the boot places spares and cores; of management space, it changes the health register and the clusters of spares alone, and a refused table raises the remap-exhausted condition (R19, R20). -/
theorem placeCores_keeps (full : Bool) (s : State) :
    let t := (if full then s.remapExhausted else s).startSpares.startCores
    BootKeeps s t ∧ ∃ h x, t.mgmt = { s.mgmt with hlth := h, spareCluster := x } ∧ (full = true → h.getLsbD 22 = true) := by
  have k : ∀ u : State, BootKeeps u u.startSpares.startCores := fun u => (bootKeeps_startSpares u).trans (bootKeeps_startCores _)
  cases full with
  | false =>
    obtain ⟨x, hx⟩ := startSpares_mgmt s
    exact ⟨k s, _, x, (startCores_mgmt _).trans hx, fun h => nomatch h⟩
  | true =>
    obtain ⟨x, hx⟩ := startSpares_mgmt s.remapExhausted
    rw [remapExhausted_mgmt] at hx
    simp only [if_true]
    refine ⟨(bootKeeps_remapExhausted s).trans (k _), setField s.mgmt.hlth 22 1 1, x, ?_, fun _ => setField_bit _ 22 1 (by decide)⟩
    rw [startCores_mgmt, hx]

/-- Loading a copy sets what its configuration block gives; the folds over the row spares, the links and the cores change nothing of it. -/
theorem configLoaded (s : State) (c a b : Bool) : ConfigLoaded s c (s.loadConfig c a b) := by
  unfold State.loadConfig
  extract_lets cdie tooMany remap s1 s2 s3
  have k1 : BootKeeps s s1 := by unfold s1; apply BootKeeps.updMgmt
  have k2 : BootKeeps s1 s2 := .foldl _ (fun _ _ => bootKeeps_applyRowSpare _ _) _ s1
  have k3 : BootKeeps s2 s3 := .foldl _ (fun _ _ => .updLink _ _ _) _ s2
  have m2 : s2.mgmt = s1.mgmt := foldl_mgmt _ _ _ fun _ _ => applyRowSpare_mgmt _ _
  have m3 : s3.mgmt = s2.mgmt := foldl_mgmt _ _ _ fun _ _ => rfl
  obtain ⟨k4, h, x, m4, hfull⟩ := placeCores_keeps tooMany s3
  rw [m3, m2] at m4
  have k := ((k1.trans k2).trans k3).trans k4
  generalize (if tooMany then s3.remapExhausted else s3).startSpares.startCores = t at k m4 ⊢
  have fields : s1.mgmt.flashA = s.mgmt.flashA ∧ s1.mgmt.flashB = s.mgmt.flashB ∧ s1.mgmt.bootstat = 2 ∧
      s1.mgmt.cfgstat = BitVec.ofNat 32 (1 + 2 * b2n c + 4 * b2n a + 8 * b2n b + 65536 * (s.copySeq c % 65536)) ∧
      s1.mgmt.devnum = BitVec.ofNat 32 (s.flashNat c 0x20 4) ∧ s1.mgmt.remap = remap ∧
      (tooMany = true → s1.mgmt.unplaced = List.range 256) := by
    unfold s1
    rw [State.updMgmt_mgmt]
    exact ⟨rfl, rfl, rfl, rfl, rfl, rfl, fun h => if_pos h⟩
  obtain ⟨hA, hB, bootstat, cfgstat, devnum, hremap, unplaced⟩ := fields
  clear_value s1
  refine ⟨k, by rw [m4, hA], by rw [m4, hB], ?phase, ?copy, ?remap, fun hover => ⟨?exhausted, ?placed⟩, by rw [m4, devnum]⟩
  case phase => rw [State.phase, m4, bootstat]; rfl
  case copy =>
    obtain ⟨valid, which⟩ := cfgstat_bits c a b (s.copySeq c % 65536)
    rw [State.loadedCopy, m4, cfgstat, if_pos valid, which]
  case remap =>
    intro hover l hl
    have : remap = (List.range 256).map fun l => (l, BitVec.ofNat 9 (s.flashNat c (0x100 + 4 * l) 4)) := if_neg (Bool.eq_false_iff.1 hover)
    rw [m4, hremap, this, Tab.get_map_key _ _ _ _ (List.mem_range.2 hl)]
  case exhausted => rw [m4]; exact hfull hover
  case placed =>
    intro l hl
    rw [State.placed, m4, unplaced hover]
    simp [hl]

/-! ### RESET and POWER_FAIL -/

/-- Loading a copy of a cold device loses what the reset loses. -/
theorem ConfigLoaded.lost {s t : State} {c : Bool} (h : ConfigLoaded s.cold c t) : PowerLost s t :=
  powerLost_of_cold h.keeps h.flashA h.flashB

/-- RESET where one copy alone is valid loads that copy (R22). -/
theorem execReset_one {s : State} (c : Bool) (hc : s.cold.copyOk c = true) (hn : s.cold.copyOk (!c) = false) :
    ∃ t, execReset s = .next t ∧ ConfigLoaded s.cold c t := by
  cases c with
  | false =>
    rw [Bool.not_false] at hn
    exact ⟨_, by rw [execReset, hc, hn]; rfl, configLoaded s.cold false true false⟩
  | true =>
    rw [Bool.not_true] at hn
    exact ⟨_, by rw [execReset, hc, hn]; rfl, configLoaded s.cold true false true⟩
/-- RESET where both copies are valid loads the one with the higher sequence number, A at equal numbers (R22). -/
theorem execReset_both {s : State} (ha : s.cold.copyOk false = true) (hb : s.cold.copyOk true = true) :
    ∃ t, execReset s = .next t ∧ ConfigLoaded s.cold (decide (s.cold.copySeq false < s.cold.copySeq true)) t :=
  ⟨_, by rw [execReset, ha, hb]; rfl, configLoaded s.cold _ true true⟩
/-- RESET where no copy is valid enters the recovery state (R22). -/
theorem execReset_none {s : State} (ha : s.cold.copyOk false = false) (hb : s.cold.copyOk true = false) :
    ∃ t, execReset s = .next t ∧ PowerLost s t ∧ t.phase = 15 ∧ t.recovery = true := by
  refine ⟨_, by rw [execReset, ha, hb]; rfl, powerLost_of_cold (.updMgmt _ _) rfl rfl, ?_, ?_⟩
  · rw [State.phase, State.updMgmt_mgmt]
    show bitsOf (15 : BitVec 32).toNat 0 4 = 15
    decide
  · rw [State.recovery, State.updMgmt_mgmt]
    show (0x10 : BitVec 32).getLsbD 4 = true
    decide

/-- RESET loses everything, enters the recovery state where no copy is valid, and loads a copy that alone is valid. -/
theorem execReset_spec (s : State) : ∃ t, execReset s = .next t ∧ PowerLost s t ∧
    (s.cold.copyOk false = false → s.cold.copyOk true = false → t.phase = 15 ∧ t.recovery = true) ∧
    ∀ c, s.cold.copyOk c = true → s.cold.copyOk (!c) = false → ConfigLoaded s.cold c t := by
  cases ha : s.cold.copyOk false <;> cases hb : s.cold.copyOk true
  case false.false =>
    obtain ⟨t, e, hlost, hrec⟩ := execReset_none ha hb
    exact ⟨t, e, hlost, fun _ _ => hrec, fun c hc _ => by cases c <;> simp_all⟩
  case false.true =>
    obtain ⟨t, e, hl⟩ := execReset_one true hb ha
    exact ⟨t, e, hl.lost, (fun _ h => nomatch h), fun c hc _ => by cases c <;> simp_all⟩
  case true.false =>
    obtain ⟨t, e, hl⟩ := execReset_one false ha hb
    exact ⟨t, e, hl.lost, (fun h => nomatch h), fun c hc _ => by cases c <;> simp_all⟩
  case true.true =>
    obtain ⟨t, e, hl⟩ := execReset_both ha hb
    exact ⟨t, e, hl.lost, (fun h => nomatch h), fun c _ hn => by cases c <;> simp_all⟩

/-- The copies that a failure of power leaves half done, from the operation that runs (R25). -/
theorem execPowerFail_spec (s : State) : ∃ t, execPowerFail s = .next t ∧ PowerLost s t ∧
    ∀ f, (s.flashOp 1 = some f ∨ (s.flashOp 1 = none ∧ s.flashOp 2 = some f)) → t.copyOk f.copyB = false := by
  refine ⟨_, rfl, powerLost_of_cold ⟨rfl, fun _ => rfl, fun _ => ⟨rfl, rfl, rfl⟩⟩ rfl rfl, fun f hf => ?_⟩
  have torn : ∀ (t : State) b n l, t.mgmt.flashTorn = (f.copyB, b, n) :: l → t.copyOk f.copyB = false := fun t b n l h => by
    simp [State.copyOk, h]
  obtain he | ⟨hn, hp⟩ := hf
  · exact torn _ none s.seq s.mgmt.flashTorn (by simp [State.tick, State.cold, he])
  · exact torn _ (some f.blk) s.seq s.mgmt.flashTorn (by simp [State.tick, State.cold, hn, hp])

/-! ### Self test and training -/

theorem setPhase_phase (s : State) (n dies : Nat) (h : n < 16) : (s.setPhase n dies).phase = n := by
  rw [State.phase, State.setPhase, State.updMgmt_mgmt, BitVec.toNat_ofNat, bitsOf]
  omega
theorem setPhase_failed (s : State) (n dies : Nat) : (s.setPhase n dies).mgmt.failed = s.mgmt.failed := rfl
theorem bootKeeps_setPhase (s : State) (n dies : Nat) : BootKeeps s (s.setPhase n dies) := .updMgmt s _

/-- SELF_TEST_END adds the failed cores and begins training (R224). -/
theorem execSelfTestEnd_spec {s : State} (h : s.phase = 2) (failed : BitVec 512) : ∃ t, execSelfTestEnd failed s = .next t ∧
    BootKeeps s t ∧ t.phase = 3 ∧ t.mgmt.failed = s.mgmt.failed ||| failed := by
  have hp : (s.phase != 2) = false := by rw [h]; rfl
  unfold execSelfTestEnd
  rw [hp, if_neg Bool.false_ne_true]
  extract_lets s1 s2 s3
  have k2 : BootKeeps s1 s2 := .foldl _ bootKeeps_repairCore _ s1
  have m2 : s2.mgmt.failed = s1.mgmt.failed := by
    unfold s2
    exact foldl_mgmt_failed _ _ _ repairCore_failed
  refine ⟨_, rfl, (((BootKeeps.updMgmt s _).trans k2).trans (.updMgmt s2 _)).trans (bootKeeps_setPhase s3 3 0), setPhase_phase s3 3 0 (by decide), ?_⟩
  rw [setPhase_failed, State.updMgmt_mgmt, m2, State.updMgmt_mgmt]

/-- TRAINING_END of good stacks makes the device ready, and each link UP that has trained and is not disabled (R224). -/
theorem execTrainingEnd_spec {s : State} (h : s.phase = 3) (hd : bitsOf s.mgmt.bootstat.toNat 4 4 = 0) (links : BitVec 16) :
    ∃ t, execTrainingEnd 0xFFFF links s = .next t ∧ BootKeeps s t ∧ t.phase = 4 ∧
      ∀ n, n < 16 → (t.link n).state = if links.getLsbD n && !(s.link n).disabled then 2 else 0 := by
  have hg : (s.phase != 3 || bitsOf s.mgmt.bootstat.toNat 4 4 != 0) = false := by rw [h, hd]; rfl
  unfold execTrainingEnd
  rw [hg, if_neg Bool.false_ne_true]
  extract_lets s1 s2 dies
  have hdies : dies = 0 := by decide
  have k1 : BootKeeps s s1 := .foldl _ (fun _ _ => .updLink _ _ _) _ s
  have k2 : BootKeeps s1 s2 := by
    unfold s2
    refine .foldl _ (fun s k => ?_) _ s1
    exact .updStack s k _ fun _ => ⟨rfl, rfl, rfl⟩
  have l2 : s2.links = s1.links := foldl_links _ _ _ fun _ _ => rfl
  refine ⟨_, rfl, (k1.trans k2).trans (bootKeeps_setPhase s2 _ dies), ?_, fun n hn => ?_⟩
  · rw [if_pos hdies]; exact setPhase_phase s2 4 dies (by decide)
  have l1 : s1.link n = (s.link n).setState (if links.getLsbD n && !(s.link n).disabled then 2 else 0) := by
    unfold s1
    rw [State.link_foldl_updLink (fun n l => l.setState (if links.getLsbD n && !l.disabled then 2 else 0)) _ List.nodup_range,
      if_pos (List.mem_range.2 hn)]
  rw [State.setPhase, State.updMgmt_link, State.link, l2, ← State.link, l1, Link.setState_state _ _ (by split <;> decide)]

/-! ### The flash -/

theorem flashMade_mgmt (s : State) : s.flashMade.mgmt = { s.mgmt with flashRun := none } := rfl
@[simp] theorem setFlash_flashOf (s : State) (c d : Bool) (t : Tab Byte) : (s.setFlash c t).flashOf d = if d = c then t else s.flashOf d := by
  cases c <;> cases d <;> rfl
/-- The end of an operation leaves both copies. -/
@[simp] theorem flashMade_flashOf (s : State) (c : Bool) : s.flashMade.flashOf c = s.flashOf c := rfl

/-- A copy that no failure of power has left half done reads as it was written. -/
theorem flashByte_of_whole {s : State} {c : Bool} (h : ∀ x ∈ s.mgmt.flashTorn, x.1 ≠ c) (i : Nat) : s.flashByte c i = (s.flashOf c).get 0xFF i := by
  unfold State.flashByte
  split
  case h_1 x hx =>
    have hc := List.find?_some hx
    simp [h x (List.mem_of_find?_eq_some hx)] at hc
  case h_2 => rfl

/-- FLASH_ERASE: every byte of the copy reads 0xFF, and the other copy stands (R25). -/
theorem execFlashErase_spec {s : State} {f : FlashOp} (h : s.flashOp 1 = some f) : ∃ t, execFlashErase s = .next t ∧ BootKeeps s t ∧
    (∀ i, t.flashByte f.copyB i = 0xFF) ∧ t.mgmt.flashRun = none ∧ t.flashOf (!f.copyB) = s.flashOf (!f.copyB) := by
  rw [execFlashErase, h]
  refine ⟨_, rfl, ((BootKeeps.updMgmt _ _).trans (.updMgmt _ _)).trans (.updMgmt _ _), fun i => ?_, rfl, ?_⟩
  · rw [flashByte_of_whole]
    · rw [flashMade_flashOf, State.flashOf, State.updMgmt_mgmt]
      cases f.copyB <;> rfl
    · intro x hx
      exact bne_iff_ne.1 (List.mem_filter.1 hx).2
  · cases f.copyB <;> rfl

/-- FLASH_PROGRAM of a clean block writes FLDATA into it and nothing else (R25). -/
theorem execFlashProgram_clean {s : State} {f : FlashOp} (h : s.flashOp 2 = some f) (hc : s.blockClean f.copyB f.blk = true) (hl : f.data.length = 64) :
    ∃ t, execFlashProgram s = .next t ∧ BootKeeps s t ∧ t.mgmt.flashRun = none ∧ t.flashOf (!f.copyB) = s.flashOf (!f.copyB) ∧
      ∀ j, (t.flashOf f.copyB).get 0xFF j = if 64 * f.blk ≤ j ∧ j - 64 * f.blk < 64 then f.data.getD (j - 64 * f.blk) 0 else (s.flashOf f.copyB).get 0xFF j := by
  rw [execFlashProgram, h]
  dsimp only
  rw [hc, if_neg (by decide)]
  refine ⟨_, rfl, (BootKeeps.updMgmt _ _).trans (.updMgmt _ _), rfl, ?_, fun j => ?_⟩
  · rw [flashMade_flashOf, setFlash_flashOf, if_neg (by simp)]
  · rw [flashMade_flashOf, setFlash_flashOf, if_pos rfl, zip_range_eq_map 0 _ _ hl, List.foldl_map, Tab.get_foldl_set]
    simp only [List.mem_range]
/-- FLASH_PROGRAM of a block that is not clean sets ERR and writes nothing (R25). -/
theorem execFlashProgram_dirty {s : State} {f : FlashOp} (h : s.flashOp 2 = some f) (hc : s.blockClean f.copyB f.blk = false) :
    ∃ t, execFlashProgram s = .next t ∧ BootKeeps s t ∧ t.mgmt.flcmd.getLsbD 3 = true ∧ ∀ c, t.flashOf c = s.flashOf c := by
  rw [execFlashProgram, h]
  dsimp only
  rw [hc, Bool.not_false, if_pos rfl]
  refine ⟨_, rfl, (BootKeeps.updMgmt _ _).trans (.updMgmt _ _), ?_, fun c => rfl⟩
  rw [flashMade_mgmt, State.updMgmt_mgmt, BitVec.getLsbD_or]
  simp
/-- FLASH_READ puts the block into FLDATA (R25). -/
theorem execFlashRead_spec {s : State} {f : FlashOp} (h : s.flashOp 3 = some f) : ∃ t, execFlashRead s = .next t ∧ BootKeeps s t ∧
    t.mgmt.flashRun = none ∧ ∀ i, i < 8 → t.mgmt.fldata.get 0 i = BitVec.ofNat 64 (s.flashNat f.copyB (64 * f.blk + 8 * i) 8) := by
  rw [execFlashRead, h]
  refine ⟨_, rfl, (BootKeeps.updMgmt _ _).trans (.updMgmt _ _), rfl, fun i hi => ?_⟩
  exact Tab.get_map_key 0 (fun i => BitVec.ofNat 64 (s.flashNat f.copyB (64 * f.blk + 8 * i) 8)) _ i (List.mem_range.2 hi)

theorem bootKeeps_checkPending (s : State) : BootKeeps s s.checkPending := by
  unfold State.checkPending
  split
  · exact .updMgmt s _
  · exact .refl s
theorem checkPending_flcmd (s : State) : s.checkPending.mgmt.flcmd = s.mgmt.flcmd := by
  unfold State.checkPending; split <;> rfl
/-- FLASH_OP_DONE clears GO (R25). -/
theorem execFlashOpDone_spec {s : State} (hgo : s.mgmt.flcmd.getLsbD 2 = true) (hrun : s.mgmt.flashRun = none) :
    ∃ t, execFlashOpDone s = .next t ∧ BootKeeps s t ∧ t.mgmt.flcmd.getLsbD 2 = false := by
  unfold execFlashOpDone
  rw [hgo, hrun, Bool.not_true, Option.isSome_none, Bool.or_false, if_neg Bool.false_ne_true]
  extract_lets op s1
  have go : s1.mgmt.flcmd.getLsbD 2 = false := setField_bit _ 2 0 (by decide)
  have k1 : BootKeeps s s1 := .updMgmt s _
  split
  · exact ⟨s1, rfl, k1, go⟩
  · exact ⟨_, rfl, k1.trans (bootKeeps_checkPending s1), by rw [checkPending_flcmd, go]⟩

/-! ### The obligation -/

/-- Settles O52: each event by the lemma that says what its step does, with the frame of the boot steps for registers and memory. -/
theorem resetBootAndFlash : Obligations.ResetBootAndFlash := by
  unfold Obligations.ResetBootAndFlash
  intro s lost
  refine ⟨?reset, ?powerFail, ?selfTest, ?training, ?erase, ?program, ?dirty, ?read, ?opDone⟩
  case reset =>
    obtain ⟨t, e, hlost, hrec, hload⟩ := execReset_spec s
    exact ⟨t, e, hlost, hrec, fun c hc hn =>
      have h := hload c hc hn
      ⟨h.phase, h.copy, h.remap, h.full, h.devnum⟩⟩
  case powerFail => exact execPowerFail_spec s
  case selfTest =>
    intro hp f
    obtain ⟨t, e, hk, hph, hf⟩ := execSelfTestEnd_spec hp f
    exact ⟨t, e, hph, hf, hk.regs, hk.memory⟩
  case training =>
    intro hp hd links
    obtain ⟨t, e, hk, hph, hl⟩ := execTrainingEnd_spec hp hd links
    exact ⟨t, e, hph, hl, hk.regs, hk.memory⟩
  case erase =>
    intro f hf
    obtain ⟨t, e, hk, hb, hr, ho⟩ := execFlashErase_spec hf
    exact ⟨t, e, hb, hr, ho, hk.regs, hk.memory⟩
  case program =>
    intro f hf hc hl
    obtain ⟨t, e, hk, hr, ho, hb⟩ := execFlashProgram_clean hf hc hl
    refine ⟨t, e, hr, fun k hk64 => ?_, fun i hi => ?_, ho, hk.regs, hk.memory⟩
    · rw [hb, if_pos (by omega), Nat.add_sub_cancel_left]
    · rw [hb, if_neg (by omega)]
  case dirty =>
    intro f hf hc
    obtain ⟨t, e, hk, herr, ho⟩ := execFlashProgram_dirty hf hc
    exact ⟨t, e, herr, ho, hk.regs, hk.memory⟩
  case read =>
    intro f hf
    obtain ⟨t, e, hk, hr, hd⟩ := execFlashRead_spec hf
    exact ⟨t, e, hr, hd, hk.regs, hk.memory⟩
  case opDone =>
    intro hgo hrun
    obtain ⟨t, e, hk, hg⟩ := execFlashOpDone_spec hgo hrun
    exact ⟨t, e, hg, hk.regs, hk.memory⟩

end Sys2Proof.Machine
end

section
/-! PROOF. The scalar instructions (spec/23_ref_scalar_control.md R228 to R234, spec/07_numbers.md R84): each executes as its row says, one scalar write that leaves all else as it was. -/

namespace Sys2Proof.Machine

open Sys2Proof Sys2Proof.Claims

/-! ### How a scalar row executes -/

/-- The instruction executes as a row says: once it may issue with the row's operands, it writes the row's value to the row's destination and completes. -/
def executesRow (s : State) (i : Instr) (r : ScalarRow) : Prop :=
  s.mayIssue r.ops → exec i s = .next (((s.seen r.ops).writeSV r.d.toNat r.x).complete i {} false)

/-- A unit that executes as its row says gives the row's value and leaves all else as it was. -/
theorem executesRow.result {s : State} {i : Instr} {r : ScalarRow} (h : executesRow s i r) (hm : s.mayIssue r.ops) :
    ∃ t, exec i s = .next t ∧ (t.wave s.focus.wave).sregs.get SRegVal.zero r.d.toNat = r.x ∧
      keepsRegs s t [r.d.toNat] [] [] ∧ keepsRest s t ∧ goesOn s t i :=
  ⟨_, h hm, scalar_frame s r.ops i {} r.d.toNat r.x⟩

/-- What holds of a row written out holds of the row under its name. -/
theorem executesRow.of_some {s : State} {i : Instr} {q r : ScalarRow} (hq : executesRow s i q) (h : some q = some r) : executesRow s i r := by
  cases h; exact hq

/-- `OP sd, sa, sb` executes as a row of that form. -/
theorem executesRow_row3 {s : State} {i : Instr} {d a b : BitVec 6} {f : DWord → DWord → DWord} (h : exec i s = alu3 i d a b f s) :
    executesRow s i (row3 s d a b f) := fun hm => h.trans (alu3_ok i d a b f s hm)
/-- `OP sd, sa, imm` executes as a row of that form. -/
theorem executesRow_rowI {s : State} {i : Instr} {d a : BitVec 6} {n : DWord} {f : DWord → DWord → DWord} (h : exec i s = aluImm i d a n f s) :
    executesRow s i (rowI s d a n f) := fun hm => h.trans (aluImm_ok i d a n f s hm)
/-- `OP sd, sa` executes as a row of that form. -/
theorem executesRow_row2 {s : State} {i : Instr} {d a : BitVec 6} {f : DWord → DWord} (h : exec i s = alu2 i d a f s) :
    executesRow s i (row2 s d a f) := fun hm => h.trans (alu2_ok i d a f s hm)
/-- A unit that writes one scalar, of a value that an observed future does not change (R154). -/
theorem executesRow_write {s : State} {i : Instr} {ops : List Opd} {d : BitVec 6} {x : State → SRegVal}
    (h : exec i s = simple i {} ops (fun u => .done (u.writeSV d.toNat (x u))) s) (hx : x (s.seen ops) = x s) :
    executesRow s i ⟨ops, d, x s⟩ := fun hm =>
  h.trans (simple_done i ops _ (fun u => u.writeSV d.toNat (x s)) 0 1 s hm (by rw [hx]))

/-- The result of a compare as a number (R230). -/
theorem ofNat_b2n (c : Bool) : BitVec.ofNat 64 (b2n c) = if c then 1 else 0 := by cases c <;> rfl

/-! ### Every scalar instruction has the meaning of its row -/

/-- The meanings are the rows: the forms of R228 and R233, bit fields, compares with their 0 or 1, and the units that write one scalar of a form of their own. -/
theorem executesRow_of_scalarRow {s : State} {i : Instr} {r : ScalarRow} (h : scalarRow s i = some r) : executesRow s i r := by
  cases i with
  | sadd | ssub | smul | smulh | smulhU | sdiv | sdivU | srem | sremU | sand | sor | sxor | sshl | sshr | ssra | smin | sminU | smax | smaxU
  | slea => exact (executesRow_row3 rfl).of_some h
  | saddImm | ssubImm | smulImm | smulhImm | smulhUImm | sdivImm | sdivUImm | sremImm | sremUImm | sandImm | sorImm | sxorImm | sshlImm
  | sshrImm | ssraImm | sminImm | sminUImm | smaxImm | smaxUImm => exact (executesRow_rowI rfl).of_some h
  | sclz | spopc | sbfx | sbfxS => exact (executesRow_row2 rfl).of_some h
  | scmp S c d a b => exact (executesRow_row3 (by simp only [← ofNat_b2n]; rfl)).of_some h
  | scmpImm S c d a n => exact (executesRow_rowI (by simp only [← ofNat_b2n]; rfl)).of_some h
  | ssel S d a b =>
    exact (executesRow_write (x := fun u => ⟨if u.sreg d ≠ 0 then u.sreg a else u.sreg b, false⟩) rfl (by simp only [seen_sreg])).of_some h
  | smov S d a =>
    exact (executesRow_write (x := fun u => u.fw.sregs.get SRegVal.zero a.toNat) rfl (by simp [State.fw])).of_some h
  | sli S d n => exact (executesRow_write (x := fun _ => ⟨n.ext 64, false⟩) rfl rfl).of_some h
  | sliHi S d n =>
    exact (executesRow_write (x := fun u => ⟨n.ext 32 ++ (u.sreg d).extractLsb' 0 32, false⟩) rfl (by simp only [seen_sreg])).of_some h
  | sbfi S d a pos lenM1 =>
    exact (executesRow_write (x := fun u => ⟨fieldInsert (u.sreg d) (u.sreg a) pos lenM1, false⟩) rfl (by simp only [seen_sreg])).of_some h
  | _ => cases h  -- no scalar row

/-! ### The obligation -/

/-- Settles O1: every scalar instruction executes as its row says, and so gives one scalar write with its frame. -/
theorem scalarInstructionsWriteTheirResults : Obligations.ScalarInstructionsWriteTheirResults := by
  unfold Obligations.ScalarInstructionsWriteTheirResults
  intro s i r hrow hm
  exact (executesRow_of_scalarRow hrow).result hm

end Sys2Proof.Machine
end
